-- ==== Sys2Proof/Word.lean ====
section
/-! DEFINITION. The word types of the Snirix SX-8 and their plainest arithmetic. -/

namespace Sys2Proof

/-- A 64-bit register, address or buoy value (R4, R16, R31). -/
abbrev Word := BitVec 64

/-- One byte of memory, a record or a packet (R3). -/
abbrev Byte := BitVec 8

/-- Bits `[hi:lo]` of a word as a number (the notation of 00_scope.md). -/
def bitsOf (w : Word) (hi lo : Nat) : Nat := (w.toNat >>> lo) % 2 ^ (hi + 1 - lo)

/-- Bit `i` of a word. -/
def bitOf (w : Word) (i : Nat) : Bool := w.getLsbD i

end Sys2Proof
end

