-- ==== Sys2Proof/Syntax.lean ====
section
/-! DEFINITION. The commands of the block: one constructor per row of spec/opcode_table.json.
The table gives the rows no operands and no bits; the operands here name the object a step of the spec is
about (a sequencer, a strand, a link) and what comes from outside the device (bytes on a pin, a status from
another node). -/

namespace Sys2Proof

/-- The issuer of an operation (R40: "A source is one strand, one engine, one sequencer, one keeper or the
host interface"). `remote` is another node of the fabric. -/
inductive Source where
  | strand (id : BitVec 22)
  | engine (unit : BitVec 8)
  | sequencer (n : Fin 16)
  | keeper (k : Fin 4)
  | host
  | remote (node : BitVec 10)
  deriving DecidableEq, Repr

/-- What every memory operation carries: its issuer, its class (R28 CTRL.CLASS) and its DONE buoy, 0 for
none. -/
structure OpHead where
  source : Source
  cls    : BitVec 2
  done   : Word
  deriving DecidableEq, Repr

/-- What a unit's run is launched by: a node of a sequencer's graph, or a standing slot (R256, R335). -/
inductive Launcher where
  | node (seq : Fin 16) (node : BitVec 8)
  | slot (n : BitVec 4)
  deriving DecidableEq, Repr

/-- A standing slot of the vision engines or of the solver (R256, R335). -/
inductive SlotRef where
  | vis (n : Fin 16)
  | slv (n : Fin 8)
  deriving DecidableEq, Repr

/-- A unit that runs its jobs in slices (R258, R305, R336). -/
inductive SliceUnit where
  | vision (e : Fin 8)
  | fusion
  | solver (u : Fin 2)
  deriving DecidableEq, Repr

/-- A fabric packet (R385): header fields and data bytes. -/
structure Packet where
  ptype  : Byte
  ctl    : Byte
  src    : BitVec 10
  dst    : BitVec 10
  addr   : Word
  aux    : Word
  tag    : BitVec 32
  status : Byte
  hops   : Byte
  data   : List Byte
  deriving DecidableEq, Repr

/-- One query part sent to the owner of its probes (R228). -/
structure ShardRequest where
  node   : BitVec 10
  tag    : BitVec 32
  cls    : BitVec 2
  index  : BitVec 4
  mode   : Bool
  digest : BitVec 32
  sketch : List Byte
  desc   : List Byte
  thresh : Nat
  maxdist : Nat
  kmask  : Word
  kmatch : Word
  count  : Nat
  probes : List Nat
  deriving DecidableEq, Repr

/-- One item a remote part returns (R228): the entry, its distances and where it stood. -/
structure ShardItem where
  dist  : Nat
  sdist : Nat
  side  : Bool
  entry : List Byte
  deriving DecidableEq, Repr

/-- Where one input sample of a filter channel comes from (R363, R364): the latest record of its SPI or CAN source, or a
conversion of a supply-monitor ADC. -/
inductive FilterInput where
  | record
  | adc
  deriving DecidableEq, Repr

/-- The header bits of a CAN FD frame (R299), and whether an FD frame is of the non-ISO kind (R293). -/
structure CanHeader where
  ident : BitVec 29
  ide   : Bool
  fdf   : Bool
  brs   : Bool
  esi   : Bool
  rtr   : Bool
  dlc   : BitVec 4
  nonIso : Bool
  deriving DecidableEq, Repr

/-- How a transmitted PTP event message is stamped (R331); in one-step mode the frame that the keeper has made. -/
inductive PtpMode where
  | twoStep (sequenceId : BitVec 16)
  | oneStep (frame : List Byte)
  deriving DecidableEq, Repr

/-- What keeper firmware makes of a received PTP message (R330, R331): whether the best master clock algorithm then has the
port in slave state, and for MASTER_PTP the offset in 0.5 ns units, the TIM_INC and the TIM_STEP that the servo writes. The
spec does not give these algorithms (DESIGN CHOICE, log 167). -/
structure PtpServo where
  slave  : Bool
  offset : Int
  inc    : BitVec 40
  step   : Int
  deriving DecidableEq, Repr

/-- A host access's aperture (R424). -/
inductive Bar where
  | bar0
  | bar2
  deriving DecidableEq, Repr

/-- The three AtomicOps of R422. -/
inductive HostAtomic where
  | fetchAdd
  | swap
  | cas
  deriving DecidableEq, Repr

/-- A wake event of R478. -/
inductive WakeCause where
  | gpio (pin : Fin 16)
  | pps
  | perst
  | time
  | interrupt
  deriving DecidableEq, Repr

/-- A cause that an outside event gives the freeze trigger (R490). -/
inductive FreezeCause where
  | overrun
  | mismatch
  | linkFailed
  | inpin
  | source
  deriving DecidableEq, Repr

/-- What KHALT does to a keeper (R479: "Keeper halt and step"). -/
inductive HaltAction where
  | halt
  | release
  | step
  deriving DecidableEq, Repr

/-- A configuration write of the host that R429 and R430 give a meaning. -/
inductive ConfigWrite where
  | busMaster (on : Bool)
  | functionMask (on : Bool)
  | powerD0
  deriving DecidableEq, Repr

/-- One client's request for the next power window (R515): class and demand in tokens. -/
structure PowerDemand where
  cls    : BitVec 2
  tokens : Nat
  deriving DecidableEq, Repr

/-- One access through the TAP at D3 (MEMACC). -/
inductive TapAccess where
  | read (addr : Word) (len : Nat)
  | write (addr : Word) (data : List Byte)
  deriving DecidableEq, Repr

/-- The commands, in the order of spec/opcode_table.json. -/
inductive Instr where
  | registerWrite (addr : Word) (len : Nat) (value : Word)
  | get (h : OpHead) (dst src : Word) (len : Nat)
  | put (h : OpHead) (dst src : Word) (len : Nat)
  | putSignal (h : OpHead) (dst src : Word) (len : Nat) (signal : Word)
  | atomicAdd (h : OpHead) (dst operand : Word)
  | atomicSwap (h : OpHead) (dst operand : Word)
  | atomicCas (h : OpHead) (dst operand compare : Word)
  | atomicMax (h : OpHead) (dst operand : Word)
  | atomicMin (h : OpHead) (dst operand : Word)
  | atomicOr (h : OpHead) (dst operand : Word)
  | atomicAnd (h : OpHead) (dst operand : Word)
  | watch (h : OpHead) (dst operand : Word) (edges : Nat)
  | watchTimeout (tag : Nat)
  | copy (h : OpHead) (dst src : Word) (len : Nat) (report : Word)
  | copyComplete (tag : Nat) (remote : List Byte)
  | fence (h : OpHead)
  | fenceComplete (tag : Nat)
  | lampRun (run : Bool)
  | lampPeriodSet (ns : Nat)
  | lampEdge
  | lmpResvWrite (value : Word)
  | graphEnable (seq : Fin 16)
  | graphDisable (seq : Fin 16)
  | nodeDone (seq : Fin 16) (inst : Nat) (node : Nat)
  | nodeFinish (seq : Fin 16) (inst : Nat) (node : Nat)
  | programLaunch (seq : Fin 16) (node : Nat)
  | programTake (cluster : Fin 8)
  | layerStart (cluster : Fin 8)
  | layerEnd (cluster : Fin 8)
  | programCancel (cluster : Fin 8)
  | tierEnable
  | create
  | seal
  | sealFlushComplete (obj : BitVec 16)
  | free
  | freeComplete (obj : BitVec 16)
  | place
  | drop
  | unpin
  | tileCopyValid (obj : BitVec 16) (tile : Nat) (tier : BitVec 2) (cluster : Fin 8)
  | promoteCopy (obj : BitVec 16) (tile : Nat)
  | quotaWrite (dom : Fin 16) (value : Word)
  | patrolScrub
  | batchLaunch (seq : Fin 16) (node : Nat)
  | strandLoad (cluster : Fin 8)
  | strandOpComplete (id : BitVec 22)
  | parkTimeout (id : BitVec 22)
  | strandWaitTimeout (id : BitVec 22)
  | stepAdd (id : BitVec 22)
  | stepSub (id : BitVec 22)
  | stepAddi (id : BitVec 22)
  | stepMul (id : BitVec 22)
  | stepAnd (id : BitVec 22)
  | stepOr (id : BitVec 22)
  | stepXor (id : BitVec 22)
  | stepShli (id : BitVec 22)
  | stepShri (id : BitVec 22)
  | stepSari (id : BitVec 22)
  | stepSlt (id : BitVec 22)
  | stepSltu (id : BitVec 22)
  | stepPopc (id : BitVec 22)
  | stepLdk (id : BitVec 22)
  | stepBeq (id : BitVec 22)
  | stepBne (id : BitVec 22)
  | stepBlt (id : BitVec 22)
  | stepBge (id : BitVec 22)
  | stepJal (id : BitVec 22)
  | stepJr (id : BitVec 22)
  | stepFadd (id : BitVec 22)
  | stepFsub (id : BitVec 22)
  | stepFmul (id : BitVec 22)
  | stepFfma (id : BitVec 22)
  | stepFdiv (id : BitVec 22)
  | stepFsqrt (id : BitVec 22)
  | stepFlt (id : BitVec 22)
  | stepFcvtif (id : BitVec 22)
  | stepFcvtfi (id : BitVec 22)
  | stepLd8 (id : BitVec 22)
  | stepLd32 (id : BitVec 22)
  | stepLd64 (id : BitVec 22)
  | stepSt8 (id : BitVec 22)
  | stepSt32 (id : BitVec 22)
  | stepSt64 (id : BitVec 22)
  | stepLdw (id : BitVec 22)
  | stepStw (id : BitVec 22)
  | stepHamm (id : BitVec 22)
  | stepWins (id : BitVec 22)
  | stepWext (id : BitVec 22)
  | stepHash (id : BitVec 22)
  | stepGet (id : BitVec 22)
  | stepPut (id : BitVec 22)
  | stepPuts (id : BitVec 22)
  | stepAtom (id : BitVec 22)
  | stepWatch (id : BitVec 22)
  | stepCopy (id : BitVec 22)
  | stepFence (id : BitVec 22)
  | stepOprec (id : BitVec 22)
  | stepSpawn (id : BitVec 22)
  | stepJob (id : BitVec 22)
  | stepPark (id : BitVec 22)
  | stepEnd (id : BitVec 22)
  | stepStat (id : BitVec 22)
  | stepTime (id : BitVec 22)
  | brambleEnable
  | openIndex (index : Fin 16)
  | closeIndex (index : Fin 16)
  | destroyIndex (index : Fin 16)
  | updateTake (index : Fin 16)
  | queryBatchLaunch (seq : Fin 16) (node : Nat)
  | search (batch query : Nat)
  | fetch (batch query : Nat)
  | queryComplete (batch query : Nat)
  | shardPart (req : ShardRequest)
  | shardReply (batch query : Nat) (node : BitVec 10) (status : Byte) (failed : List Nat) (pages passed found : Nat) (items : List ShardItem)
  | mergeStart (index : Fin 16)
  | mergePublish (index : Fin 16)
  | channelFailed (ch : Fin 16)
  | dieFailed (ch : Fin 16) (die : Fin 2)
  | programResume (ch : Fin 16) (die : Fin 2)
  | visionLaunch (l : Launcher)
  | visionRunTake (engine : Fin 8)
  | sliceBoundary (unit : SliceUnit)
  | detect (engine : Fin 8)
  | matchFeatures (engine : Fin 8)
  | stereo (engine : Fin 8)
  | flow (engine : Fin 8)
  | slotEnable (slot : SlotRef)
  | slotDisable (slot : SlotRef)
  | sourceEnable (n : Fin 44)
  | frameStart (n : Fin 32)
  | lineReceived (n : Fin 32) (dt : Byte) (pixels : List (BitVec 16)) (headerOk crcOk : Bool)
  | frameEnd (n : Fin 32)
  | ethernetFrame (port : Fin 2) (bytes : List Byte) (fcsOk : Bool) (ptp : Option PtpServo)
  | spiDataReady (n : Fin 8)
  | spiTransferDone (n : Fin 8) (bytes : List Byte)
  | canFrame (c : Fin 2) (hdr : CanHeader) (bytes : List Byte)
  | triggerStart (n : Fin 8)
  | triggerEnd (n : Fin 8)
  | fusionLaunch (seq : Fin 16) (node : Nat)
  | fusionTake
  | fusionEnd
  | incWrite (value : Word)
  | timeStep (d : Word)
  | stepApply
  | nowRead
  | roleWrite (role : BitVec 2) (uplink : Fin 8)
  | exchangeReceive (link : Fin 8) (pkt : Packet)
  | exchangeResult (t1 t2 t3 t4 : Nat)
  | exchangeLoss
  | ppsEdge
  | ppsOutStart
  | ppsOutEnd
  | ptpTxStamp (port : Fin 2) (mode : PtpMode)
  | solverEnable
  | solverLaunch (l : Launcher)
  | solverRunTake (u : Fin 2)
  | load (u : Fin 2)
  | dropStructure (u : Fin 2)
  | solve (u : Fin 2)
  | bodyFk (u : Fin 2)
  | bodyId (u : Fin 2)
  | bodyFd (u : Fin 2)
  | bodyIk (u : Fin 2)
  | channelEnable (ch : Fin 64)
  | filterSample (ch : Fin 64) (input : FilterInput) (smon : Fin 4) (code : BitVec 16)
  | filterDrop (ch : Fin 64)
  | coefWrite (ch : Fin 64) (index : BitVec 7) (coef : BitVec 18)
  | coefSetn (ch : Fin 64) (ntapsM1 : BitVec 7)
  | swap (ch : Fin 64)
  | linkEnable (l : Fin 8)
  | linkDisable (l : Fin 8)
  | trainingComplete (l : Fin 8) (peer : BitVec 10)
  | trainingTimeout (l : Fin 8) (laneFailed : Bool)
  | flitReceive (l : Fin 8) (bytes : List Byte)
  | nak (l : Fin 8) (ack : BitVec 16)
  | replayTimeout (l : Fin 8)
  | linkSilence (l : Fin 8)
  | packetArrive (l : Fin 8) (vl : Bool) (pkt : Packet)
  | holdTimeout (dst : BitVec 10)
  | altWaitEnd (dst : BitVec 10)
  | failureNotice (tag : BitVec 32) (status : Byte)
  | response (tag : BitVec 32) (status : Byte) (aux : Word) (data : List Byte)
  | responseTimeout (tag : BitVec 32)
  | watchConfirm (tag : BitVec 32)
  | watchConfirmLoss (tag : BitVec 32)
  | watchCancel (node : BitVec 10) (tag : BitVec 32)
  | linkRetrain (l : Fin 8)
  | porN (straps : BitVec 3)
  | warmRstN
  | perstN (asserted : Bool)
  | flr
  | pllLock (ack : Bool)
  | bootImageCheck
  | firmwareLoaded
  | dramTrained
  | dramTrainTimeout
  | configApply
  | recoverGo
  | pcieCrsEnd
  | hostRead (bar : Bar) (off : Word) (len : Nat)
  | hostWrite (bar : Bar) (off : Word) (data : List Byte)
  | hostAtomicop (bar : Bar) (off : Word) (op : HostAtomic) (operand compare : Word)
  | hstSignal (value : Word)
  | d3hotEntry
  | serviceRecord
  | checkComplete (id : Nat) (fault : BitVec 32)
  | checkLapse (id : Nat)
  | arbitrationComplete (id : Nat) (faults : List (BitVec 32))
  | idleTest (unit : Nat)
  | testComplete (unit : Nat) (crc : BitVec 32) (ok : Bool)
  | tcLoad (value : Word)
  | unitReset (unit : BitVec 16)
  | unitFence (unit : BitVec 16)
  | unitUnfence (unit : BitVec 16)
  | fenceEffect (unit : BitVec 16)
  | debugToken (value : Word)
  | addOwner (value : Word)
  | revokeOwner (value : Word)
  | takeOwnership (value : Word)
  | retire (value : Word)
  | advanceSvn (value : Word)
  | debugWrite (value : Word)
  | debugSessionEnd
  | idcode
  | bypass
  | secaccess (rec : List Byte)
  | obsread (off : Word)
  | extest
  | samplePreload
  | memacc (acc : TapAccess)
  | khalt (keeper : Fin 4) (act : HaltAction)
  | secAttest (value : Word)
  | remoteRegisterWrite (node : BitVec 10) (addr : Word) (len : Nat) (value : Word)
  | powerTarget (value : Word)
  | p0ToP1
  | p1ToP0
  | p1ToP2
  | p2ToP1
  | p2ToP3
  | wakeEvent (cause : WakeCause)
  | aonLoss
  | powerWindow (demands : List PowerDemand) (base : Nat)
  | dvfsPoint (value : Word) (ack : Bool)
  | dvfsClockRaise
  | droop
  | vrAlert
  | brownoutDrain
  | brownoutEnd
  | thermtrip
  | tempUpdate (readings : List (BitVec 16))
  | traceDrain (n : Fin 12)
  | freeze (cause : FreezeCause)
  | fire
  | thaw
  | mark (value : Word)
  | traceEnable (n : Fin 12)
  | intPendClear (k : Fin 4) (mask : Word) (coincident : Word)
  | intEnableWrite (k : Fin 4) (value : Word)
  | buoyWatchArm (b : Fin 48) (auto : Bool)
  | asyncLatch (bit : Fin 27)
  | hostCompletion (tag : Nat) (ok : Bool) (data : List Byte)
  | pcieLinkDown
  | pcieLinkUp (speed : Fin 6) (width : BitVec 4)
  | configurationWrite (w : ConfigWrite)
  | queryAbort (batch query : Nat)
  | deviceMinute
  deriving DecidableEq, Repr

end Sys2Proof
end

