-- ==== Sys2Proof/Decode.lean ====
section
/-! DEFINITION. The commands that a word spells. -/

namespace Sys2Proof

/-- The table of this block gives no row any bits, so no word spells a command. -/
def decodeTableWord (_nbits _w : Nat) : Option Instr := none

end Sys2Proof
end

