-- ==== Sys2Proof/Machine/Bytes.lean ====
section
/-! DEFINITION. Byte strings: little-endian fields (R3), slices, counting bits, sign extension, saturating counts. -/

namespace Sys2Proof.Machine

/-- `n` bytes of `v`, the byte at the lowest address first (R3). -/
def leBytes : Nat → Nat → List Byte
  | 0, _ => []
  | n + 1, v => BitVec.ofNat 8 v :: leBytes n (v / 256)

/-- `n` big-endian bytes. -/
def beBytes (n v : Nat) : List Byte := (leBytes n v).reverse

/-- The number whose little-endian bytes are given (R3). -/
def leNat : List Byte → Nat
  | [] => 0
  | b :: bs => b.toNat + 256 * leNat bs

/-- The `n` bytes at offset `o`; bytes beyond the end read 0. -/
def sliceB (bs : List Byte) (o n : Nat) : List Byte :=
  let t := (bs.drop o).take n
  t ++ List.replicate (n - t.length) 0

/-- The u8 at offset `o`. -/
def u8At (bs : List Byte) (o : Nat) : Nat := ((bs.drop o).headD 0).toNat

/-- The u16 at offset `o` (R3). -/
def u16At (bs : List Byte) (o : Nat) : Nat := leNat (sliceB bs o 2)

/-- The u32 at offset `o` (R3). -/
def u32At (bs : List Byte) (o : Nat) : Nat := leNat (sliceB bs o 4)

/-- The u64 at offset `o` (R3). -/
def u64At (bs : List Byte) (o : Nat) : Nat := leNat (sliceB bs o 8)

/-- The 64-bit word at offset `o`. -/
def wordAt (bs : List Byte) (o : Nat) : Word := BitVec.ofNat 64 (u64At bs o)

/-- Bytes of a 64-bit word (R3). -/
def wordBytes (w : Word) : List Byte := leBytes 8 w.toNat

/-- `n` zero bytes. -/
def zeroBytes (n : Nat) : List Byte := List.replicate n 0

/-- Are all bytes 0? -/
def allZero (bs : List Byte) : Bool := bs.all (· == 0)

/-- Bits `[hi:lo]` of a number. -/
def natBits (v hi lo : Nat) : Nat := (v >>> lo) % 2 ^ (hi + 1 - lo)

/-- Put `new` over the bytes at offset `o`. -/
def overlay (bs : List Byte) (o : Nat) (new : List Byte) : List Byte :=
  bs.take o ++ new ++ bs.drop (o + new.length)

/-- popcount of the low `n` bits (00_scope.md). -/
def popN : Nat → Nat → Nat
  | 0, _ => 0
  | n + 1, v => v % 2 + popN n (v / 2)

/-- popcount of a 64-bit word. -/
def popcount64 (w : Word) : Nat := popN 64 w.toNat

/-- popcount of a byte string. -/
def popBytes (bs : List Byte) : Nat := bs.foldl (fun a b => a + popN 8 b.toNat) 0

/-- Bytewise XOR. -/
def xorBytes (a b : List Byte) : List Byte := List.zipWith (· ^^^ ·) a b

/-- Hamming distance of two byte strings. -/
def hamming (a b : List Byte) : Nat := popBytes (xorBytes a b)

/-- The signed value of the low `n` bits. -/
def sextN (n v : Nat) : Int :=
  let m := v % 2 ^ n
  if m < 2 ^ (n - 1) then (m : Int) else (m : Int) - (2 ^ n : Nat)

/-- `v` modulo `2^n` as a natural number: a signed value's two's complement code. -/
def codeN (n : Nat) (v : Int) : Nat := (v % ((2 ^ n : Nat) : Int)).toNat

/-- Clamp to an interval. -/
def clampI (v lo hi : Int) : Int := if v < lo then lo else if hi < v then hi else v

/-- Clamp a natural number to an interval. -/
def clampN (v lo hi : Nat) : Nat := if v < lo then lo else if hi < v then hi else v

/-- Saturating addition at `2^w - 1`. -/
def satAdd (w a b : Nat) : Nat := min (a + b) (2 ^ w - 1)

/-- ceil(a / b). -/
def ceilDiv (a b : Nat) : Nat := (a + b - 1) / b

/-- A quotient rounded half away from zero, for `den ≠ 0` (R272, R282). -/
def divHalfAway (num den : Int) : Int :=
  let a := num.natAbs
  let d := den.natAbs
  let q := (2 * a + d) / (2 * d)
  if (num < 0) != (den < 0) then -(q : Int) else (q : Int)

/-- A quotient rounded toward zero. -/
def divTrunc (num den : Int) : Int := Int.tdiv num den

/-- a / 2^s rounded to nearest, ties to even, on exact integers (14_filter_chain.md). -/
def rneShift (a : Int) (s : Nat) : Int :=
  let q := a / ((2 ^ s : Nat) : Int)
  let r := 2 * (a % ((2 ^ s : Nat) : Int))
  let d : Int := (2 ^ s : Nat)
  if r < d then q else if d < r then q + 1 else if q % 2 = 0 then q else q + 1

/-- The integer square root, bit by bit from `2^k` down. -/
def isqrtAux : Nat → Nat → Nat → Nat
  | 0, _, r => r
  | k + 1, n, r =>
    let t := r + 2 ^ k
    if t * t ≤ n then isqrtAux k n t else isqrtAux k n r

/-- floor(sqrt n). -/
def isqrt (n : Nat) : Nat := isqrtAux (Nat.log2 n / 2 + 1) n 0

/-- Insert in order by `lt`, after the elements it does not precede: a stable insertion. -/
def insertBy {α : Type} (lt : α → α → Bool) (x : α) : List α → List α
  | [] => [x]
  | y :: ys => if lt x y then x :: y :: ys else y :: insertBy lt x ys

/-- A stable sort by `lt`. -/
def sortBy {α : Type} (lt : α → α → Bool) (xs : List α) : List α :=
  xs.foldl (fun acc x => insertBy lt x acc) []

/-- The element of least rank by `lt`, the earlier on a tie. -/
def leastBy {α : Type} (lt : α → α → Bool) : List α → Option α
  | [] => none
  | x :: xs => some (xs.foldl (fun b y => if lt y b then y else b) x)

/-- Replace the element at position `i`. -/
def setAt {α : Type} (xs : List α) (i : Nat) (x : α) : List α := xs.set i x

/-- Change the element at position `i`. -/
def modAt {α : Type} (xs : List α) (i : Nat) (f : α → α) : List α := xs.modify i f

/-- The mixing hash of the HASH step (R186) and of stochastic rounding (R101). -/
def mixHash (a b : Word) : Word :=
  let z := a + (b + 1) * 0x9E3779B97F4A7C15#64
  let z := (z ^^^ (z >>> 30)) * 0xBF58476D1CE4E5B9#64
  let z := (z ^^^ (z >>> 27)) * 0x94D049BB133111EB#64
  z ^^^ (z >>> 31)

/-- One bit of the CRC-32 of IEEE 802.3, reflected form. -/
def crc32Bits : Nat → Nat → Nat
  | 0, c => c
  | k + 1, c => crc32Bits k (if c % 2 = 1 then (c / 2) ^^^ 0xEDB88320 else c / 2)

/-- CRC-32 (IEEE 802.3 polynomial) of a byte string. -/
def crc32 (bs : List Byte) : BitVec 32 :=
  BitVec.ofNat 32 ((bs.foldl (fun c b => crc32Bits 8 (c ^^^ b.toNat)) 0xFFFFFFFF) ^^^ 0xFFFFFFFF)

end Sys2Proof.Machine
end

