-- ==== Sys2Proof/Machine/Crypto.lean ====
section
/-! DEFINITION. SHA-384 and ECDSA over P-384, which the spec takes from the standards it names without restating them
(R404, R463; PRESUMED, log 61): FIPS 180-4 and SEC 1. Digests, keys and signatures are big-endian byte strings. -/

namespace Sys2Proof.Machine

/-! ### SHA-384 -/

/-- The integer cube root, bit by bit from `2^k` down. -/
def icbrtAux : Nat → Nat → Nat → Nat
  | 0, _, r => r
  | k + 1, n, r =>
    let t := r + 2 ^ k
    if t * t * t ≤ n then icbrtAux k n t else icbrtAux k n r

/-- The first 80 primes. -/
def primes80 : List Nat :=
  [2, 3, 5, 7, 11, 13, 17, 19, 23, 29, 31, 37, 41, 43, 47, 53, 59, 61, 67, 71]
    ++ [73, 79, 83, 89, 97, 101, 103, 107, 109, 113, 127, 131, 137, 139, 149, 151, 157, 163, 167, 173]
    ++ [179, 181, 191, 193, 197, 199, 211, 223, 227, 229, 233, 239, 241, 251, 257, 263, 269, 271, 277, 281]
    ++ [283, 293, 307, 311, 313, 317, 331, 337, 347, 349, 353, 359, 367, 373, 379, 383, 389, 397, 401, 409]

/-- The round constants: 64 bits of the fractions of the primes' cube roots. -/
def shaK : List Word := primes80.map (fun p => BitVec.ofNat 64 (icbrtAux 68 (p * 2 ^ 192) 0))

/-- The initial hash value: 64 bits of the fractions of the square roots of the 9th to 16th primes. -/
def sha384Init : List Word := ((primes80.drop 8).take 8).map (fun p => BitVec.ofNat 64 (isqrtAux 68 (p * 2 ^ 128) 0))

/-- The big-endian number of a byte string. -/
def beNat (bs : List Byte) : Nat := leNat bs.reverse

/-- The message with its padding. -/
def shaPad (bs : List Byte) : List Byte :=
  bs ++ [0x80] ++ zeroBytes ((239 - bs.length % 128) % 128) ++ beBytes 16 (8 * bs.length)

/-- The message schedule, latest word first: `k` more words. -/
def shaSchedule : Nat → List Word → List Word
  | 0, w => w
  | k + 1, w =>
    let a := w.getD 1 0
    let b := w.getD 14 0
    let s1 := a.rotateRight 19 ^^^ a.rotateRight 61 ^^^ (a >>> 6)
    let s0 := b.rotateRight 1 ^^^ b.rotateRight 8 ^^^ (b >>> 7)
    shaSchedule k ((w.getD 15 0 + s0 + w.getD 6 0 + s1) :: w)

/-- One round. -/
def shaRound (h : List Word) (kw : Word × Word) : List Word :=
  match h with
  | [a, b, c, d, e, f, g, i] =>
    let s1 := e.rotateRight 14 ^^^ e.rotateRight 18 ^^^ e.rotateRight 41
    let t1 := i + s1 + ((e &&& f) ^^^ (~~~e &&& g)) + kw.1 + kw.2
    let s0 := a.rotateRight 28 ^^^ a.rotateRight 34 ^^^ a.rotateRight 39
    let t2 := s0 + ((a &&& b) ^^^ (a &&& c) ^^^ (b &&& c))
    [t1 + t2, a, b, c, d + t1, e, f, g]
  | h => h

/-- One block of 128 bytes. -/
def shaBlock (h : List Word) (b : List Byte) : List Word :=
  let w := (List.range 16).map (fun i => BitVec.ofNat 64 (beNat (sliceB b (8 * i) 8)))
  let ws := (shaSchedule 64 w.reverse).reverse
  List.zipWith (· + ·) h ((List.zip shaK ws).foldl shaRound h)

/-- Every block. -/
def shaBlocks : Nat → List Word → List Byte → List Word
  | 0, h, _ => h
  | k + 1, h, bs => shaBlocks k (shaBlock h (bs.take 128)) (bs.drop 128)

/-- SHA-384, 48 bytes. -/
def sha384 (bs : List Byte) : List Byte :=
  let p := shaPad bs
  ((shaBlocks (p.length / 128) sha384Init p).take 6).flatMap (fun w => beBytes 8 w.toNat)

/-! ### P-384 -/

def ecP : Nat := 2 ^ 384 - 2 ^ 128 - 2 ^ 96 + 2 ^ 32 - 1
def ecN : Nat :=
  0xFFFFFFFFFFFFFFFFFFFFFFFFFFFFFFFFFFFFFFFFFFFFFFFFC7634D81F4372DDF581A0DB248B0A77AECEC196ACCC52973
def ecB : Nat :=
  0xB3312FA7E23EE7E4988E056BE3F82D19181D9C6EFE8141120314088F5013875AC656398D8A2ED19D2A85C8EDD3EC2AEF
def ecG : Nat × Nat :=
  (0xAA87CA22BE8B05378EB1C71EF320AD746E1D3B628BA79B9859F741E082542A385502F25DBF55296C3A545E3872760AB7,
   0x3617DE4A96262C6F5D9E98BF9292DC29F8F41DBD289A147CE9DA3113B5F0B8C00A60B1CE1D7E819D7A431D7C90EA0E5F)

/-- `b^e` modulo `m` over the low `k` bits of `e`. -/
def powMod (m : Nat) : Nat → Nat → Nat → Nat → Nat
  | 0, _, _, acc => acc
  | k + 1, b, e, acc => powMod m k (b * b % m) (e / 2) (if e % 2 = 1 then acc * b % m else acc)

/-- The inverse modulo a prime. -/
def invMod (m a : Nat) : Nat := powMod m 384 (a % m) (m - 2) 1

/-- The sum of two points of the curve, none being the point at infinity. -/
def ecAdd (x y : Option (Nat × Nat)) : Option (Nat × Nat) :=
  match x, y with
  | none, y => y
  | x, none => x
  | some a, some b =>
    if a.1 = b.1 ∧ (a.2 + b.2) % ecP = 0 then none
    else
      let l := if a.1 = b.1 then (3 * a.1 * a.1 + ecP - 3) * invMod ecP (2 * a.2) % ecP
        else (b.2 + ecP - a.2) * invMod ecP (b.1 + ecP - a.1) % ecP
      let u := (l * l + 2 * ecP - a.1 - b.1) % ecP
      some (u, (l * (a.1 + ecP - u) + ecP - a.2) % ecP)

/-- A multiple of a point over the low `k` bits of the factor. -/
def ecMul : Nat → Nat → Option (Nat × Nat) → Option (Nat × Nat) → Option (Nat × Nat)
  | 0, _, _, acc => acc
  | k + 1, e, p, acc => ecMul k (e / 2) (ecAdd p p) (if e % 2 = 1 then ecAdd acc p else acc)

/-- Does the signature (r then s) over the SHA-384 digest of `msg` verify under the public key (x then y) (R463)? -/
def ecdsaVerify (key sig msg : List Byte) : Bool :=
  let x := beNat (sliceB key 0 48)
  let y := beNat (sliceB key 48 48)
  let r := beNat (sliceB sig 0 48)
  let t := beNat (sliceB sig 48 48)
  if x < ecP ∧ y < ecP ∧ y * y % ecP = (x * x * x + (ecP - 3) * x + ecB) % ecP
      ∧ 0 < r ∧ r < ecN ∧ 0 < t ∧ t < ecN then
    let w := invMod ecN t
    let z := beNat (sha384 msg)
    match ecAdd (ecMul 384 (z * w % ecN) (some ecG) none) (ecMul 384 (r * w % ecN) (some (x, y)) none) with
    | none => false
    | some q => q.1 % ecN == r
  else false

end Sys2Proof.Machine
end

