-- ==== Sys2Proof/Config.lean ====
section
/-! DEFINITION. The values the spec leaves open: opaque constants without a body, so that no proof can see what they
are. Each is applied to a stamp or to the counter `State.freeCtr`, which is plain data. -/

namespace Sys2Proof.Config

/-- A byte of memory whose contents are unspecified: the fill stamp and the address it stands at (DEDUCED, log 6). -/
opaque freeByte (stamp addr : Nat) : Byte

/-- A 64-bit value the spec leaves open, fresh for each value of the counter (DESIGN CHOICE, log 7). -/
opaque freeWord (ctr : Nat) : Word

/-- A natural number the spec leaves open below a bound, used through `freeBelow` (DESIGN CHOICE, log 7). -/
opaque freeNat (ctr : Nat) : Nat

/-- Does the flash write of the journal's record `seq` fail (R450; free, log 197)? -/
opaque journalFails (seq : Nat) : Bool

/-- A free choice among `n` (0 when `n` is 0): some value below `n`, nothing says which unless it is the only one. -/
def freeBelow (ctr n : Nat) : Nat := if n ≤ 1 then 0 else freeNat ctr % n

/-- The device's identity key signs (R465, R481): the ECDSA P-384 signature, 96 bytes, over a message. -/
opaque identitySign (ctr : Nat) (msg : List Byte) : List Byte

/-- The device's public identity key, 96 bytes (R465). -/
opaque identityKey : List Byte

/-- Byte `i` of the nonce that the always-on random source gives at draw `ctr` (R473). -/
opaque nonceByte (ctr i : Nat) : Byte

/-- The IDCODE that the TAP answers with; the spec does not give it (DESIGN CHOICE, log 7). -/
opaque idcode : Word

/-- Which of the 16 temperature sensors lies nearest to a unit (R450; used modulo 16, DESIGN CHOICE, log 16). -/
opaque nearestSensor (unit : Nat) : Nat

/-- The flash channel that holds block `block` of an object's home in T3 (R116, R198; used modulo 16, DESIGN CHOICE, log 17). -/
opaque homeChannel (obj gen block : Nat) : Nat

/-- The page of that channel that holds block `block` (used modulo 2^25, DESIGN CHOICE, log 17). -/
opaque homePage (obj gen block : Nat) : Nat

/-- The bytes of the solver area that a resident structure takes: its blocks or joints, factor slots, parameter words and
off-diagonal blocks of L (R341, R344; DESIGN CHOICE, log 41). -/
opaque solverBytes (body : Bool) (nblk nfac words fill : Nat) : Nat

/-- Which of several pose pairs that hold a stamp a fusion job takes (R309, DESIGN CHOICE, log 51). -/
opaque posePair (ctr stamp : Nat) : Nat

/-- Byte `i` of a late-log entry, whose layout the spec does not give (R311, DESIGN CHOICE, log 49). -/
opaque lateEntry (source block count earliest t i : Nat) : Byte

/-- The real solutions of P3P for three correspondences of five words, of which the service uses at most four: each a
tile-to-camera pose of seven binary32 words, quaternion w, x, y, z and translation (R245). The spec names P3P and not its
steps (DESIGN CHOICE, log 165). -/
opaque p3pSolutions (corrs : List (List Nat)) : List (List Nat)

/-- Where in an input's 2 MiB of scratch the service keeps what it keeps, in 4 KiB pages (R234, DESIGN CHOICE, log 165). -/
opaque serviceScratch : Nat

/-- DEADLINE of the refinement of an input, for the time its job is written (R247, DESIGN CHOICE, log 165). -/
opaque serviceDeadline (now : Nat) : Nat

/-- RESIDUAL of a result without inliers, of which the spec states no value (R247, DESIGN CHOICE, log 165). -/
opaque serviceNoResidual : Nat

end Sys2Proof.Config
end

