-- ==== Sys2Proof/Machine/Registers.lean ====
section
/-! DEFINITION. The register map: every register of every block (R21 and the register tables of the chapters), its
register-space offset, its fields with their access codes (00_scope.md) and reset values (R8). Bits that no field names
are reserved and read 0 (R6). -/

namespace Sys2Proof.Machine

/-- The register access codes of 00_scope.md. -/
inductive Access where
  | ro | rw | w1c | wo
  deriving DecidableEq, Repr

/-- One field of a register: its name, its bits `[hi:lo]`, its access code and its reset value. -/
structure Field where
  name  : String
  hi    : Nat
  lo    : Nat
  acc   : Access
  reset : Nat
  deriving DecidableEq, Repr

/-- One row of a register map: `count` registers at `off + i * stride`. -/
structure RegDesc where
  name   : String
  off    : Nat
  count  : Nat
  stride : Nat
  fields : List Field
  deriving DecidableEq, Repr

namespace Reg

/-- GCTL_ID (R2). -/
abbrev gctlId : Nat := 0x0
/-- GCTL_BOOT (R400). -/
abbrev gctlBoot : Nat := 0x8
/-- GCTL_STRAP (R398). -/
abbrev gctlStrap : Nat := 0x10
/-- GCTL_IMAGE (R404). -/
abbrev gctlImage : Nat := 0x18
/-- GCTL_CAL (R415). -/
abbrev gctlCal : Nat := 0x20
/-- GCTL_RECOVER (R421). -/
abbrev gctlRecover : Nat := 0x28
/-- LMP_CTL (R51). -/
abbrev lmpCtl : Nat := 0x10000
/-- LMP_EDGE (R52). -/
abbrev lmpEdge : Nat := 0x10008
/-- LMP_STATUS (R53). -/
abbrev lmpStatus : Nat := 0x10010
/-- LMP_SKIP_COUNT (R55). -/
abbrev lmpSkipCount : Nat := 0x10018
/-- LMP_RESV (R71). -/
abbrev lmpResv : Nat := 0x10020
/-- LMP_RESV_EXCEED (R71). -/
abbrev lmpResvExceed : Nat := 0x10028
/-- LMP_SEQ_CTL, element `n` of 16 (R58). -/
abbrev lmpSeqCtl (n : Nat) : Nat := 0x11000 + n * 0x40
/-- LMP_SEQ_GRAPH, element `n` of 16 (R60). -/
abbrev lmpSeqGraph (n : Nat) : Nat := 0x11008 + n * 0x40
/-- LMP_SEQ_INPUT, element `n` of 16 (R66). -/
abbrev lmpSeqInput (n : Nat) : Nat := 0x11010 + n * 0x40
/-- LMP_SEQ_OUTPUT, element `n` of 16 (R67). -/
abbrev lmpSeqOutput (n : Nat) : Nat := 0x11018 + n * 0x40
/-- LMP_SEQ_INST, element `n` of 16 (R67). -/
abbrev lmpSeqInst (n : Nat) : Nat := 0x11020 + n * 0x40
/-- LMP_SEQ_STAT, element `n` of 16 (R62). -/
abbrev lmpSeqStat (n : Nat) : Nat := 0x11028 + n * 0x40
/-- LMP_SEQ_COUNT, element `n` of 16 (R68). -/
abbrev lmpSeqCount (n : Nat) : Nat := 0x11030 + n * 0x40
/-- LMP_SEQ_ERR, element `n` of 16 (R77). -/
abbrev lmpSeqErr (n : Nat) : Nat := 0x11038 + n * 0x40
/-- LMP_SEQ_NSTAT, element `n` of 16 (R61). -/
abbrev lmpSeqNstat (n : Nat) : Nat := 0x12000 + n * 0x8
/-- INT_PEND, element `n` of 4 (R498). -/
abbrev intPend (n : Nat) : Nat := 0x20000 + n * 0x8
/-- INT_EN, element `n` of 4 (R499). -/
abbrev intEn (n : Nat) : Nat := 0x20020 + n * 0x8
/-- INT_ALATCH (R502). -/
abbrev intAlatch : Nat := 0x20040
/-- INT_ERR (R506). -/
abbrev intErr : Nat := 0x20048
/-- INT_ROUTE, element `n` of 256 (R499). -/
abbrev intRoute (n : Nat) : Nat := 0x21000 + n * 0x8
/-- INT_BW_ADDR, element `n` of 48 (R506). -/
abbrev intBwAddr (n : Nat) : Nat := 0x22000 + n * 0x10
/-- INT_BW_COND, element `n` of 48 (R506). -/
abbrev intBwCond (n : Nat) : Nat := 0x22008 + n * 0x10
/-- TIM_CTL (R324). -/
abbrev timCtl : Nat := 0x30000
/-- TIM_INC (R318). -/
abbrev timInc : Nat := 0x30008
/-- TIM_NOW_LO (R321). -/
abbrev timNowLo : Nat := 0x30010
/-- TIM_NOW_HI (R321). -/
abbrev timNowHi : Nat := 0x30018
/-- TIM_TAB_S (R321). -/
abbrev timTabS : Nat := 0x30020
/-- TIM_TAB_NS (R321). -/
abbrev timTabNs : Nat := 0x30028
/-- TIM_STEP (R323). -/
abbrev timStep : Nat := 0x30030
/-- TIM_STATUS (R326). -/
abbrev timStatus : Nat := 0x30038
/-- TIM_SERVO (R326). -/
abbrev timServo : Nat := 0x30040
/-- TIM_OFFSET (R325). -/
abbrev timOffset : Nat := 0x30048
/-- TIM_DELAY (R325). -/
abbrev timDelay : Nat := 0x30050
/-- TIM_PPS_STAMP (R328). -/
abbrev timPpsStamp : Nat := 0x30058
/-- TIM_PPS_OFFSET (R328). -/
abbrev timPpsOffset : Nat := 0x30060
/-- TIM_ETH_TX, element `n` of 2 (R331). -/
abbrev timEthTx (n : Nat) : Nat := 0x30068 + n * 0x8
/-- TIM_ERR (R334). -/
abbrev timErr : Nat := 0x30078
/-- PWR_STATE_CTL (R477). -/
abbrev pwrStateCtl : Nat := 0x40000
/-- PWR_STATE (R478). -/
abbrev pwrState : Nat := 0x40008
/-- PWR_WAKE_EN (R478). -/
abbrev pwrWakeEn : Nat := 0x40010
/-- PWR_WAKE_TIME (R478). -/
abbrev pwrWakeTime : Nat := 0x40018
/-- PWR_CAP (R516). -/
abbrev pwrCap : Nat := 0x40020
/-- PWR_DVFS (R513). -/
abbrev pwrDvfs : Nat := 0x40028
/-- PWR_BROWN (R520). -/
abbrev pwrBrown : Nat := 0x40030
/-- PWR_TOKEN (R516). -/
abbrev pwrToken : Nat := 0x40038
/-- PWR_COUNT (R518). -/
abbrev pwrCount : Nat := 0x40040
/-- PWR_SPREAD (R523). -/
abbrev pwrSpread : Nat := 0x40048
/-- PWR_EDGE (R522). -/
abbrev pwrEdge : Nat := 0x40050
/-- PWR_VR (R512). -/
abbrev pwrVr : Nat := 0x40058
/-- PWR_ERR (R525). -/
abbrev pwrErr : Nat := 0x40060
/-- PWR_TEMP (R542). -/
abbrev pwrTemp : Nat := 0x40068
/-- SEC_STAT (R471). -/
abbrev secStat : Nat := 0x50000
/-- SEC_DEVICE_ID (R464). -/
abbrev secDeviceId : Nat := 0x50008
/-- SEC_NONCE, element `n` of 6 (R473). -/
abbrev secNonce (n : Nat) : Nat := 0x50010 + n * 0x8
/-- SEC_CMD (R472). -/
abbrev secCmd : Nat := 0x50040
/-- SEC_CMD_STAT (R473). -/
abbrev secCmdStat : Nat := 0x50048
/-- SEC_DEBUG (R474). -/
abbrev secDebug : Nat := 0x50050
/-- SEC_DEBUG_END (R474). -/
abbrev secDebugEnd : Nat := 0x50058
/-- SEC_SVN (R464). -/
abbrev secSvn : Nat := 0x50060
/-- SEC_REMOTE (R475). -/
abbrev secRemote : Nat := 0x50068
/-- SEC_ATTEST (R481). -/
abbrev secAttest : Nat := 0x50070
/-- SEC_ATTEST_STAT (R481). -/
abbrev secAttestStat : Nat := 0x50078
/-- SEC_DKEY_HASH, element `n` of 6 (R464). -/
abbrev secDkeyHash (n : Nat) : Nat := 0x50080 + n * 0x8
/-- SEC_ERR (R482). -/
abbrev secErr : Nat := 0x500B0
/-- OBS_STAT (R488). -/
abbrev obsStat : Nat := 0x60000
/-- OBS_ERR (R496). -/
abbrev obsErr : Nat := 0x60008
/-- OBS_FREEZE_CTL (R490). -/
abbrev obsFreezeCtl : Nat := 0x60010
/-- OBS_FREEZE_TIME (R490). -/
abbrev obsFreezeTime : Nat := 0x60018
/-- OBS_SEQDOM (R484). -/
abbrev obsSeqdom : Nat := 0x60020
/-- OBS_MARK (R485). -/
abbrev obsMark : Nat := 0x60028
/-- OBS_TR_CTL, element `n` of 12 (R488). -/
abbrev obsTrCtl (n : Nat) : Nat := 0x60100 + n * 0x40
/-- OBS_TR_RING, element `n` of 12 (R487). -/
abbrev obsTrRing (n : Nat) : Nat := 0x60108 + n * 0x40
/-- OBS_TR_BUOY, element `n` of 12 (R487). -/
abbrev obsTrBuoy (n : Nat) : Nat := 0x60110 + n * 0x40
/-- OBS_TR_RELEASE, element `n` of 12 (R487). -/
abbrev obsTrRelease (n : Nat) : Nat := 0x60118 + n * 0x40
/-- OBS_TR_WRPOS, element `n` of 12 (R487). -/
abbrev obsTrWrpos (n : Nat) : Nat := 0x60120 + n * 0x40
/-- OBS_TR_COUNT, element `n` of 12 (R488). -/
abbrev obsTrCount (n : Nat) : Nat := 0x60128 + n * 0x40
/-- OBS_TIER, element `n` of 8 (R492). -/
abbrev obsTier (n : Nat) : Nat := 0x61000 + n * 0x8
/-- OBS_LINK, element `n` of 16 (R492). -/
abbrev obsLink (n : Nat) : Nat := 0x61100 + n * 0x8
/-- OBS_DOM, element `n` of 64 (R492). -/
abbrev obsDom (n : Nat) : Nat := 0x61200 + n * 0x8
/-- OBS_SNAP, element `n` of 128 (R490). -/
abbrev obsSnap (n : Nat) : Nat := 0x63000 + n * 0x8
/-- OBS_LER_SEL (R491). -/
abbrev obsLerSel : Nat := 0x68000
/-- OBS_LER_HEAD (R491). -/
abbrev obsLerHead : Nat := 0x68008
/-- OBS_LER_DATA, element `n` of 256 (R491). -/
abbrev obsLerData (n : Nat) : Nat := 0x68800 + n * 0x8
/-- CHK_CTL (R445). -/
abbrev chkCtl : Nat := 0x70000
/-- CHK_SEED (R436). -/
abbrev chkSeed : Nat := 0x70008
/-- CHK_STAT (R457). -/
abbrev chkStat : Nat := 0x70010
/-- CHK_MINUTES (R453). -/
abbrev chkMinutes : Nat := 0x70018
/-- CHK_SW_RING (R441). -/
abbrev chkSwRing : Nat := 0x70020
/-- CHK_SW_BUOY (R441). -/
abbrev chkSwBuoy : Nat := 0x70028
/-- CHK_JOURNAL (R450). -/
abbrev chkJournal : Nat := 0x70030
/-- CHK_JOUR_HEAD (R450). -/
abbrev chkJourHead : Nat := 0x70038
/-- CHK_CPER (R461). -/
abbrev chkCper : Nat := 0x70040
/-- CHK_CPER_BUOY (R461). -/
abbrev chkCperBuoy : Nat := 0x70048
/-- CHK_TC_LOAD (R449). -/
abbrev chkTcLoad : Nat := 0x70050
/-- CHK_TC_STAT (R449). -/
abbrev chkTcStat : Nat := 0x70058
/-- CHK_TCVER (R449). -/
abbrev chkTcver : Nat := 0x70060
/-- CHK_COUNT (R439). -/
abbrev chkCount : Nat := 0x70068
/-- CHK_ERR (R462). -/
abbrev chkErr : Nat := 0x70070
/-- CHK_UNIT_CMD (R458). -/
abbrev chkUnitCmd : Nat := 0x70078
/-- CHK_UNIT, element `n` of 164 (R452). -/
abbrev chkUnit (n : Nat) : Nat := 0x70100 + n * 0x8
/-- TIR_CTL (R110). -/
abbrev tirCtl : Nat := 0x80000
/-- TIR_T2_BASE (R110). -/
abbrev tirT2Base : Nat := 0x80008
/-- TIR_OBJ_TABLE (R112). -/
abbrev tirObjTable : Nat := 0x80010
/-- TIR_REQ_RING (R119). -/
abbrev tirReqRing : Nat := 0x80018
/-- TIR_REQ_BUOY (R119). -/
abbrev tirReqBuoy : Nat := 0x80020
/-- TIR_CAP (R128). -/
abbrev tirCap : Nat := 0x80028
/-- TIR_POOL (R128). -/
abbrev tirPool : Nat := 0x80030
/-- TIR_ERR (R138). -/
abbrev tirErr : Nat := 0x80038
/-- TIR_MIG_COUNT (R124). -/
abbrev tirMigCount : Nat := 0x80040
/-- TIR_CRC_COUNT (R135). -/
abbrev tirCrcCount : Nat := 0x80048
/-- TIR_ECC_COUNT (R136). -/
abbrev tirEccCount : Nat := 0x80050
/-- TIR_DOM_QUOTA, element `n` of 16 (R129). -/
abbrev tirDomQuota (n : Nat) : Nat := 0x80100 + n * 0x8
/-- TIR_DOM_USE, element `n` of 16 (R130). -/
abbrev tirDomUse (n : Nat) : Nat := 0x80180 + n * 0x8
/-- FAB_NODE (R386). -/
abbrev fabNode : Nat := 0x90000
/-- FAB_STAT (R380). -/
abbrev fabStat : Nat := 0x90008
/-- FAB_CTL (R389). -/
abbrev fabCtl : Nat := 0x90010
/-- FAB_DROPS (R389). -/
abbrev fabDrops : Nat := 0x90018
/-- FAB_LINK_CTL, element `n` of 8 (R380). -/
abbrev fabLinkCtl (n : Nat) : Nat := 0x90100 + n * 0x20
/-- FAB_LINK_STAT, element `n` of 8 (R380). -/
abbrev fabLinkStat (n : Nat) : Nat := 0x90108 + n * 0x20
/-- FAB_LINK_COUNT, element `n` of 8 (R382). -/
abbrev fabLinkCount (n : Nat) : Nat := 0x90110 + n * 0x20
/-- FAB_LINK_ERR, element `n` of 8 (R396). -/
abbrev fabLinkErr (n : Nat) : Nat := 0x90118 + n * 0x20
/-- FAB_ROUTE, element `n` of 1024 (R387). -/
abbrev fabRoute (n : Nat) : Nat := 0x92000 + n * 0x8
/-- HST_CTL (R426). -/
abbrev hstCtl : Nat := 0xA0000
/-- HST_STAT (R430). -/
abbrev hstStat : Nat := 0xA0008
/-- HST_ERR (R426). -/
abbrev hstErr : Nat := 0xA0010
/-- HST_LASTERR (R426). -/
abbrev hstLasterr : Nat := 0xA0018
/-- HST_LASTADDR (R426). -/
abbrev hstLastaddr : Nat := 0xA0020
/-- HST_BAR2_BASE (R424). -/
abbrev hstBar2Base : Nat := 0xA0028
/-- HST_BUOY_BASE (R424). -/
abbrev hstBuoyBase : Nat := 0xA0030
/-- HST_SIGNAL (R428). -/
abbrev hstSignal : Nat := 0xA0038
/-- HST_SVC_RING (R432). -/
abbrev hstSvcRing : Nat := 0xA0040
/-- HST_SVC_BUOY (R432). -/
abbrev hstSvcBuoy : Nat := 0xA0048
/-- HST_WIN_BASE (R49). -/
abbrev hstWinBase : Nat := 0xA0100
/-- HST_WIN_CTL (R49). -/
abbrev hstWinCtl : Nat := 0xA0108
/-- HST_MSIX_TAB, element `n` of 128 (R429). -/
abbrev hstMsixTab (n : Nat) : Nat := 0xA8000 + n * 0x8
/-- HST_MSIX_PBA (R429). -/
abbrev hstMsixPba : Nat := 0xA9000
/-- SNS_STAT (R297). -/
abbrev snsStat : Nat := 0xB0000
/-- SNS_ERR (R315). -/
abbrev snsErr : Nat := 0xB0008
/-- SNS_TRIG_CTL, element `n` of 8 (R301). -/
abbrev snsTrigCtl (n : Nat) : Nat := 0xB0200 + n * 0x10
/-- SNS_TRIG_LAST, element `n` of 8 (R301). -/
abbrev snsTrigLast (n : Nat) : Nat := 0xB0208 + n * 0x10
/-- SNS_CSI, element `n` of 8 (R293). -/
abbrev snsCsi (n : Nat) : Nat := 0xB0300 + n * 0x8
/-- SNS_CANSYNC, element `n` of 2 (R301). -/
abbrev snsCansync (n : Nat) : Nat := 0xB0380 + n * 0x10
/-- SNS_CANSYNC_DATA, element `n` of 2 (R301). -/
abbrev snsCansyncData (n : Nat) : Nat := 0xB0388 + n * 0x10
/-- SNS_CNT, element `n` of 44 (R298). -/
abbrev snsCnt (n : Nat) : Nat := 0xB0400 + n * 0x8
/-- SNS_SRC, element `n` of 44 (R297). -/
abbrev snsSrc (n : Nat) : Nat := 0xB0600 + n * 0x8
/-- FUS_STAT (R305). -/
abbrev fusStat : Nat := 0xC0000
/-- FUS_COUNT (R311). -/
abbrev fusCount : Nat := 0xC0008
/-- FUS_LATE (R308). -/
abbrev fusLate : Nat := 0xC0010
/-- FUS_ERR (R315). -/
abbrev fusErr : Nat := 0xC0018
/-- VIS_STAT (R257). -/
abbrev visStat : Nat := 0xD0000
/-- VIS_COUNT (R267). -/
abbrev visCount : Nat := 0xD0008
/-- VIS_ERR (R292). -/
abbrev visErr : Nat := 0xD0010
/-- VIS_SLOT_JOB, element `n` of 16 (R291). -/
abbrev visSlotJob (n : Nat) : Nat := 0xD0100 + n * 0x18
/-- VIS_SLOT_LAUNCH, element `n` of 16 (R291). -/
abbrev visSlotLaunch (n : Nat) : Nat := 0xD0108 + n * 0x18
/-- VIS_SLOT_DONE, element `n` of 16 (R291). -/
abbrev visSlotDone (n : Nat) : Nat := 0xD0110 + n * 0x18
/-- FLT_ERR (R378). -/
abbrev fltErr : Nat := 0xE0000
/-- FLT_UP (R377). -/
abbrev fltUp : Nat := 0xE0008
/-- FLT_DN (R377). -/
abbrev fltDn : Nat := 0xE0010
/-- FLT_DROPS (R374). -/
abbrev fltDrops : Nat := 0xE0018
/-- FLT_CH_CFG, element `n` of 64 (R363). -/
abbrev fltChCfg (n : Nat) : Nat := 0xE1000 + n * 0x40
/-- FLT_CH_CICG, element `n` of 64 (R367). -/
abbrev fltChCicg (n : Nat) : Nat := 0xE1008 + n * 0x40
/-- FLT_CH_CANID, element `n` of 64 (R363). -/
abbrev fltChCanid (n : Nat) : Nat := 0xE1010 + n * 0x40
/-- FLT_CH_RING, element `n` of 64 (R373). -/
abbrev fltChRing (n : Nat) : Nat := 0xE1018 + n * 0x40
/-- FLT_CH_BUOY, element `n` of 64 (R373). -/
abbrev fltChBuoy (n : Nat) : Nat := 0xE1020 + n * 0x40
/-- FLT_CH_THR, element `n` of 64 (R377). -/
abbrev fltChThr (n : Nat) : Nat := 0xE1028 + n * 0x40
/-- FLT_CH_COEF, element `n` of 64 (R375). -/
abbrev fltChCoef (n : Nat) : Nat := 0xE1030 + n * 0x40
/-- FLT_CH_STAT, element `n` of 64 (R370). -/
abbrev fltChStat (n : Nat) : Nat := 0xE1038 + n * 0x40
/-- SLV_CTL (R343). -/
abbrev slvCtl : Nat := 0xF0000
/-- SLV_AREA (R343). -/
abbrev slvArea : Nat := 0xF0008
/-- SLV_STAT (R336). -/
abbrev slvStat : Nat := 0xF0010
/-- SLV_COUNT (R341). -/
abbrev slvCount : Nat := 0xF0018
/-- SLV_ERR (R362). -/
abbrev slvErr : Nat := 0xF0020
/-- SLV_SLOT_JOB, element `n` of 8 (R335). -/
abbrev slvSlotJob (n : Nat) : Nat := 0xF0100 + n * 0x18
/-- SLV_SLOT_LAUNCH, element `n` of 8 (R335). -/
abbrev slvSlotLaunch (n : Nat) : Nat := 0xF0108 + n * 0x18
/-- SLV_SLOT_DONE, element `n` of 8 (R335). -/
abbrev slvSlotDone (n : Nat) : Nat := 0xF0110 + n * 0x18
/-- CLU_STAT, element `n` of 8 (R162). -/
abbrev cluStat (n : Nat) : Nat := 0x100000 + n * 0x10000
/-- CLU_COUNT, element `n` of 8 (R159). -/
abbrev cluCount (n : Nat) : Nat := 0x100008 + n * 0x10000
/-- CLU_ERR, element `n` of 8 (R166). -/
abbrev cluErr (n : Nat) : Nat := 0x100010 + n * 0x10000
/-- CLU_STR_CTL, element `n` of 8 (R176). -/
abbrev cluStrCtl (n : Nat) : Nat := 0x100100 + n * 0x10000
/-- CLU_STR_POOL, element `n` of 8 (R168). -/
abbrev cluStrPool (n : Nat) : Nat := 0x100108 + n * 0x10000
/-- CLU_STR_STAT, element `n` of 8 (R172). -/
abbrev cluStrStat (n : Nat) : Nat := 0x100110 + n * 0x10000
/-- CLU_STR_EXIST, element `n` of 8 (R169). -/
abbrev cluStrExist (n : Nat) : Nat := 0x100118 + n * 0x10000
/-- CLU_STR_COUNT, element `n` of 8 (R192). -/
abbrev cluStrCount (n : Nat) : Nat := 0x100120 + n * 0x10000
/-- CLU_STR_ERR, element `n` of 8 (R195). -/
abbrev cluStrErr (n : Nat) : Nat := 0x100128 + n * 0x10000
/-- BRM_STAT, element `n` of 16 (R229). -/
abbrev brmStat (n : Nat) : Nat := 0x200000 + n * 0x10000
/-- BRM_READS, element `n` of 16 (R199). -/
abbrev brmReads (n : Nat) : Nat := 0x200008 + n * 0x10000
/-- BRM_SUSP, element `n` of 16 (R230). -/
abbrev brmSusp (n : Nat) : Nat := 0x200010 + n * 0x10000
/-- BRM_ERR, element `n` of 16 (R232). -/
abbrev brmErr (n : Nat) : Nat := 0x200018 + n * 0x10000
/-- BRC_CTL (R197). -/
abbrev brcCtl : Nat := 0x300000
/-- BRC_AREA (R197). -/
abbrev brcArea : Nat := 0x300008
/-- BRC_IDX_CMD (R210). -/
abbrev brcIdxCmd : Nat := 0x300010
/-- BRC_IDX_STAT (R210). -/
abbrev brcIdxStat : Nat := 0x300018
/-- BRC_COUNT (R220). -/
abbrev brcCount : Nat := 0x300020
/-- BRC_APPENDS (R213). -/
abbrev brcAppends : Nat := 0x300028
/-- BRC_ERR (R232). -/
abbrev brcErr : Nat := 0x300030

end Reg

/-- The GCTL block. -/
def regsGctl : List RegDesc := [
  ⟨"GCTL_ID", 0x0, 1, 0x0,
    [⟨"PART", 63, 48, .ro, 0x5358⟩, ⟨"VARIANT", 47, 32, .ro, 8⟩, ⟨"STEPPING", 7, 0, .ro, 0xB0⟩]⟩,
  ⟨"GCTL_BOOT", 0x8, 1, 0x0,
    [⟨"ERROR", 23, 16, .ro, 0⟩, ⟨"RECOVERED", 8, 8, .ro, 0⟩, ⟨"FALLBACK", 7, 7, .ro, 0⟩,
     ⟨"SLOT", 6, 6, .ro, 0⟩, ⟨"KIND", 5, 4, .ro, 0⟩, ⟨"PHASE", 3, 0, .ro, 0⟩]⟩,
  ⟨"GCTL_STRAP", 0x10, 1, 0x0,
    [⟨"REFCLK", 0, 0, .ro, 0⟩, ⟨"ETH0", 1, 1, .ro, 0⟩, ⟨"ETH1", 2, 2, .ro, 0⟩]⟩,
  ⟨"GCTL_IMAGE", 0x18, 1, 0x0,
    [⟨"SEQ", 63, 0, .ro, 0⟩]⟩,
  ⟨"GCTL_CAL", 0x20, 1, 0x0,
    [⟨"AREA", 63, 14, .ro, 0⟩]⟩,
  ⟨"GCTL_RECOVER", 0x28, 1, 0x0,
    [⟨"GO", 0, 0, .wo, 0⟩]⟩]

/-- The LMP block. -/
def regsLmp : List RegDesc := [
  ⟨"LMP_CTL", 0x10000, 1, 0x0,
    [⟨"PERIOD_NS", 34, 8, .rw, 0x7A120⟩, ⟨"RUN", 0, 0, .rw, 0⟩]⟩,
  ⟨"LMP_EDGE", 0x10008, 1, 0x0,
    [⟨"EDGE", 63, 0, .ro, 0⟩]⟩,
  ⟨"LMP_STATUS", 0x10010, 1, 0x0,
    [⟨"RESV_EXCEEDED", 4, 4, .w1c, 0⟩, ⟨"PERIOD_REJECT", 3, 3, .w1c, 0⟩, ⟨"BACKSTEP", 2, 2, .w1c, 0⟩,
     ⟨"EDGE_SKIPPED", 1, 1, .w1c, 0⟩, ⟨"SYNC", 0, 0, .ro, 0⟩]⟩,
  ⟨"LMP_SKIP_COUNT", 0x10018, 1, 0x0,
    [⟨"COUNT", 63, 0, .ro, 0⟩]⟩,
  ⟨"LMP_RESV", 0x10020, 1, 0x0,
    [⟨"ENGINE", 63, 56, .rw, 0x28⟩, ⟨"CLUSTER", 55, 48, .rw, 0x28⟩, ⟨"POWER", 47, 40, .rw, 0x28⟩,
     ⟨"MIGRATION", 39, 32, .rw, 0x28⟩, ⟨"STRAND", 31, 24, .rw, 0x28⟩, ⟨"FABRIC", 23, 16, .rw, 0x28⟩,
     ⟨"DRAM", 15, 8, .rw, 0x28⟩, ⟨"FLASH", 7, 0, .rw, 0x28⟩]⟩,
  ⟨"LMP_RESV_EXCEED", 0x10028, 1, 0x0,
    [⟨"COUNTS", 63, 0, .ro, 0⟩]⟩,
  ⟨"LMP_SEQ_CTL", 0x11000, 16, 0x40,
    [⟨"PHASE", 51, 36, .rw, 0⟩, ⟨"PERIOD", 35, 20, .rw, 1⟩, ⟨"LASTSTAGE", 19, 17, .rw, 0⟩,
     ⟨"NODES", 16, 8, .rw, 0⟩, ⟨"CLASS", 4, 3, .rw, 3⟩, ⟨"GATED", 2, 2, .rw, 0⟩, ⟨"POLICY", 1, 1, .rw, 0⟩,
     ⟨"EN", 0, 0, .rw, 0⟩]⟩,
  ⟨"LMP_SEQ_GRAPH", 0x11008, 16, 0x40,
    [⟨"ADDR", 63, 6, .rw, 0⟩]⟩,
  ⟨"LMP_SEQ_INPUT", 0x11010, 16, 0x40,
    [⟨"ADDR", 63, 3, .rw, 0⟩]⟩,
  ⟨"LMP_SEQ_OUTPUT", 0x11018, 16, 0x40,
    [⟨"ADDR", 63, 3, .rw, 0⟩]⟩,
  ⟨"LMP_SEQ_INST", 0x11020, 16, 0x40,
    [⟨"ADDR", 63, 6, .rw, 0⟩]⟩,
  ⟨"LMP_SEQ_STAT", 0x11028, 16, 0x40,
    [⟨"BADNODE", 23, 16, .ro, 0⟩, ⟨"REASON", 15, 12, .ro, 0⟩, ⟨"INFLIGHT", 11, 4, .ro, 0⟩,
     ⟨"STATE", 1, 0, .ro, 0⟩]⟩,
  ⟨"LMP_SEQ_COUNT", 0x11030, 16, 0x40,
    [⟨"SKIPS", 63, 32, .ro, 0⟩, ⟨"OVERRUNS", 31, 0, .ro, 0⟩]⟩,
  ⟨"LMP_SEQ_ERR", 0x11038, 16, 0x40,
    [⟨"LAMP_EVENT", 4, 4, .w1c, 0⟩, ⟨"NODE_FAILED", 3, 3, .w1c, 0⟩, ⟨"SKIPPED", 2, 2, .w1c, 0⟩,
     ⟨"OVERRUN", 1, 1, .w1c, 0⟩, ⟨"REFUSED", 0, 0, .w1c, 0⟩]⟩,
  ⟨"LMP_SEQ_NSTAT", 0x12000, 16, 0x8,
    [⟨"ADDR", 63, 6, .rw, 0⟩]⟩]

/-- The INT block. -/
def regsInt : List RegDesc := [
  ⟨"INT_PEND", 0x20000, 4, 0x8,
    [⟨"PEND", 63, 0, .w1c, 0⟩]⟩,
  ⟨"INT_EN", 0x20020, 4, 0x8,
    [⟨"EN", 63, 0, .rw, 0⟩]⟩,
  ⟨"INT_ALATCH", 0x20040, 1, 0x0,
    [⟨"TIME", 26, 19, .w1c, 0⟩, ⟨"WTIME", 18, 18, .w1c, 0⟩, ⟨"PERST", 17, 17, .w1c, 0⟩,
     ⟨"PPS", 16, 16, .w1c, 0⟩, ⟨"GPIO", 15, 0, .w1c, 0⟩]⟩,
  ⟨"INT_ERR", 0x20048, 1, 0x0,
    [⟨"BW_REFUSED", 0, 0, .w1c, 0⟩]⟩,
  ⟨"INT_ROUTE", 0x21000, 256, 0x8,
    [⟨"KLOCK", 9, 9, .ro, 0⟩, ⟨"KEEPER", 8, 8, .rw, 0⟩, ⟨"MSIX", 7, 7, .rw, 0⟩, ⟨"VECTOR", 5, 0, .rw, 0⟩]⟩,
  ⟨"INT_BW_ADDR", 0x22000, 48, 0x10,
    [⟨"ADDR", 63, 3, .rw, 0⟩, ⟨"AUTO", 1, 1, .rw, 0⟩, ⟨"EN", 0, 0, .rw, 0⟩]⟩,
  ⟨"INT_BW_COND", 0x22008, 48, 0x10,
    [⟨"F", 63, 48, .rw, 0⟩, ⟨"TARGET", 47, 0, .rw, 0⟩]⟩]

/-- The TIM block. -/
def regsTim : List RegDesc := [
  ⟨"TIM_CTL", 0x30000, 1, 0x0,
    [⟨"PPS_FREE", 8, 8, .rw, 0⟩, ⟨"PPS_OUT_EN", 7, 7, .rw, 0⟩, ⟨"UPLINK", 6, 4, .rw, 0⟩,
     ⟨"ROLE", 1, 0, .rw, 0⟩]⟩,
  ⟨"TIM_INC", 0x30008, 1, 0x0,
    [⟨"INC", 39, 0, .rw, 0x800000000⟩]⟩,
  ⟨"TIM_NOW_LO", 0x30010, 1, 0x0,
    [⟨"N", 63, 0, .ro, 0⟩]⟩,
  ⟨"TIM_NOW_HI", 0x30018, 1, 0x0,
    [⟨"F", 63, 32, .ro, 0⟩, ⟨"N", 31, 0, .ro, 0⟩]⟩,
  ⟨"TIM_TAB_S", 0x30020, 1, 0x0,
    [⟨"S", 63, 0, .ro, 0⟩]⟩,
  ⟨"TIM_TAB_NS", 0x30028, 1, 0x0,
    [⟨"NS", 29, 0, .ro, 0⟩]⟩,
  ⟨"TIM_STEP", 0x30030, 1, 0x0,
    [⟨"STEP", 63, 0, .wo, 0⟩]⟩,
  ⟨"TIM_STATUS", 0x30038, 1, 0x0,
    [⟨"STEPPED", 2, 2, .w1c, 0⟩, ⟨"REFSEL", 1, 1, .ro, 0⟩, ⟨"SYNC", 0, 0, .ro, 0⟩]⟩,
  ⟨"TIM_SERVO", 0x30040, 1, 0x0,
    [⟨"UNLOCK_NS", 47, 32, .rw, 1000⟩, ⟨"LOCK_NS", 31, 16, .rw, 20⟩, ⟨"STEP_NS", 15, 0, .rw, 1000⟩]⟩,
  ⟨"TIM_OFFSET", 0x30048, 1, 0x0,
    [⟨"OFFSET", 31, 0, .ro, 0⟩]⟩,
  ⟨"TIM_DELAY", 0x30050, 1, 0x0,
    [⟨"DELAY", 31, 0, .ro, 0⟩]⟩,
  ⟨"TIM_PPS_STAMP", 0x30058, 1, 0x0,
    [⟨"STAMP", 63, 0, .ro, 0⟩]⟩,
  ⟨"TIM_PPS_OFFSET", 0x30060, 1, 0x0,
    [⟨"NS", 29, 0, .rw, 0⟩]⟩,
  ⟨"TIM_ETH_TX", 0x30068, 2, 0x8,
    [⟨"SEQUENCEID", 63, 48, .ro, 0⟩, ⟨"N", 47, 0, .ro, 0⟩]⟩,
  ⟨"TIM_ERR", 0x30078, 1, 0x0,
    [⟨"TX_STAMP", 4, 4, .w1c, 0⟩, ⟨"PPS_GLITCH", 3, 3, .w1c, 0⟩, ⟨"INC_CLAMP", 2, 2, .w1c, 0⟩,
     ⟨"NO_EXCHANGE", 1, 1, .w1c, 0⟩, ⟨"SYNC_CHANGE", 0, 0, .w1c, 0⟩]⟩]

/-- The PWR block. -/
def regsPwr : List RegDesc := [
  ⟨"PWR_STATE_CTL", 0x40000, 1, 0x0,
    [⟨"TARGET", 2, 0, .rw, 0⟩]⟩,
  ⟨"PWR_STATE", 0x40008, 1, 0x0,
    [⟨"WAKE", 7, 4, .ro, 0⟩, ⟨"HELD", 3, 3, .ro, 0⟩, ⟨"STATE", 2, 0, .ro, 0⟩]⟩,
  ⟨"PWR_WAKE_EN", 0x40010, 1, 0x0,
    [⟨"EN", 19, 0, .rw, 0⟩]⟩,
  ⟨"PWR_WAKE_TIME", 0x40018, 1, 0x0,
    [⟨"TIME", 63, 0, .rw, 0⟩]⟩,
  ⟨"PWR_CAP", 0x40020, 1, 0x0,
    [⟨"RAMP_W", 23, 16, .rw, 20⟩, ⟨"ICAP_A", 15, 8, .rw, 200⟩, ⟨"CAP_W", 7, 0, .rw, 45⟩]⟩,
  ⟨"PWR_DVFS", 0x40028, 1, 0x0,
    [⟨"VDD_MV", 27, 16, .ro, 700⟩, ⟨"ACTIVE", 6, 4, .ro, 3⟩, ⟨"POINT", 2, 0, .rw, 3⟩]⟩,
  ⟨"PWR_BROWN", 0x40030, 1, 0x0,
    [⟨"HOLD_US", 31, 16, .rw, 200⟩, ⟨"BCAP_W", 15, 8, .rw, 45⟩, ⟨"DRAINING", 2, 2, .ro, 0⟩,
     ⟨"ACTIVE", 1, 1, .ro, 0⟩, ⟨"VR_ALERT_EN", 0, 0, .rw, 0⟩]⟩,
  ⟨"PWR_TOKEN", 0x40038, 1, 0x0,
    [⟨"THROTTLED", 63, 48, .ro, 0⟩, ⟨"LOWER", 47, 32, .ro, 0⟩, ⟨"C0", 31, 16, .ro, 0⟩,
     ⟨"BASE", 15, 0, .ro, 0⟩]⟩,
  ⟨"PWR_COUNT", 0x40040, 1, 0x0,
    [⟨"BROWNOUTS", 63, 48, .ro, 0⟩, ⟨"DROOP", 47, 32, .ro, 0⟩, ⟨"THROTTLED", 31, 0, .ro, 0⟩]⟩,
  ⟨"PWR_SPREAD", 0x40048, 1, 0x0,
    [⟨"IO", 2, 2, .rw, 1⟩, ⟨"INTERCONNECT", 1, 1, .rw, 1⟩, ⟨"CORE", 0, 0, .rw, 1⟩]⟩,
  ⟨"PWR_EDGE", 0x40050, 1, 0x0,
    [⟨"TAP", 15, 14, .rw, 1⟩, ⟨"XSPI", 13, 12, .rw, 2⟩, ⟨"I3C", 11, 10, .rw, 1⟩, ⟨"CAN", 9, 8, .rw, 1⟩,
     ⟨"SPI", 7, 6, .rw, 1⟩, ⟨"PPS_OUT", 5, 4, .rw, 1⟩, ⟨"TRIG", 3, 2, .rw, 1⟩, ⟨"GPIO", 1, 0, .rw, 1⟩]⟩,
  ⟨"PWR_VR", 0x40058, 1, 0x0,
    [⟨"DROOP_MV", 15, 8, .rw, 40⟩, ⟨"ADDR", 6, 0, .rw, 0x40⟩]⟩,
  ⟨"PWR_ERR", 0x40060, 1, 0x0,
    [⟨"VR_FAULT", 5, 5, .w1c, 0⟩, ⟨"DROOP", 4, 4, .w1c, 0⟩, ⟨"THROTTLE", 3, 3, .w1c, 0⟩,
     ⟨"DRAIN", 2, 2, .w1c, 0⟩, ⟨"BROWN_END", 1, 1, .w1c, 0⟩, ⟨"BROWNOUT", 0, 0, .w1c, 0⟩]⟩,
  ⟨"PWR_TEMP", 0x40068, 1, 0x0,
    [⟨"PEAK", 47, 32, .ro, 0x8000⟩, ⟨"SENSOR", 19, 16, .ro, 0⟩, ⟨"TMAX", 15, 0, .ro, 0⟩]⟩]

/-- The SEC block. -/
def regsSec : List RegDesc := [
  ⟨"SEC_STAT", 0x50000, 1, 0x0,
    [⟨"BOOTKEY", 23, 16, .ro, 0⟩, ⟨"REVOKED", 15, 12, .ro, 0⟩, ⟨"VALID", 11, 8, .ro, 0⟩,
     ⟨"SIGNED_WL", 6, 6, .ro, 0⟩, ⟨"LEVEL", 5, 4, .ro, 0⟩, ⟨"PENDING", 3, 2, .ro, 0⟩,
     ⟨"LIFECYCLE", 1, 0, .ro, 0⟩]⟩,
  ⟨"SEC_DEVICE_ID", 0x50008, 1, 0x0,
    [⟨"ID", 63, 0, .ro, 0⟩]⟩,
  ⟨"SEC_NONCE", 0x50010, 6, 0x8,
    [⟨"NONCE", 63, 0, .ro, 0⟩]⟩,
  ⟨"SEC_CMD", 0x50040, 1, 0x0,
    [⟨"ADDR", 63, 6, .wo, 0⟩]⟩,
  ⟨"SEC_CMD_STAT", 0x50048, 1, 0x0,
    [⟨"BUSY", 16, 16, .ro, 0⟩, ⟨"TYPE", 15, 8, .ro, 0⟩, ⟨"RESULT", 7, 0, .ro, 0⟩]⟩,
  ⟨"SEC_DEBUG", 0x50050, 1, 0x0,
    [⟨"DOMAINS", 31, 16, .rw, 0⟩, ⟨"LEVEL", 1, 0, .rw, 0⟩]⟩,
  ⟨"SEC_DEBUG_END", 0x50058, 1, 0x0,
    [⟨"END", 63, 0, .ro, 0⟩]⟩,
  ⟨"SEC_SVN", 0x50060, 1, 0x0,
    [⟨"FW", 63, 32, .ro, 0⟩, ⟨"IMAGE", 31, 0, .ro, 0⟩]⟩,
  ⟨"SEC_REMOTE", 0x50068, 1, 0x0,
    [⟨"MGR", 25, 16, .rw, 0⟩, ⟨"ALLOW", 0, 0, .rw, 0⟩]⟩,
  ⟨"SEC_ATTEST", 0x50070, 1, 0x0,
    [⟨"ADDR", 63, 6, .wo, 0⟩]⟩,
  ⟨"SEC_ATTEST_STAT", 0x50078, 1, 0x0,
    [⟨"REPORTS", 63, 8, .ro, 0⟩, ⟨"RESULT", 7, 0, .ro, 0⟩]⟩,
  ⟨"SEC_DKEY_HASH", 0x50080, 6, 0x8,
    [⟨"HASH", 63, 0, .ro, 0⟩]⟩,
  ⟨"SEC_ERR", 0x500B0, 1, 0x0,
    [⟨"TAP_REFUSED", 3, 3, .w1c, 0⟩, ⟨"REMOTE_REFUSED", 2, 2, .w1c, 0⟩, ⟨"SESSION_END", 1, 1, .w1c, 0⟩,
     ⟨"CMD_FAIL", 0, 0, .w1c, 0⟩]⟩]

/-- The OBS block. -/
def regsObs : List RegDesc := [
  ⟨"OBS_STAT", 0x60000, 1, 0x0,
    [⟨"FROZEN", 16, 16, .ro, 0⟩, ⟨"STOPPED", 11, 0, .ro, 0⟩]⟩,
  ⟨"OBS_ERR", 0x60008, 1, 0x0,
    [⟨"FULL", 3, 3, .w1c, 0⟩, ⟨"LOST", 2, 2, .w1c, 0⟩, ⟨"DENIED", 1, 1, .w1c, 0⟩,
     ⟨"RING_BAD", 0, 0, .w1c, 0⟩]⟩,
  ⟨"OBS_FREEZE_CTL", 0x60010, 1, 0x0,
    [⟨"THAW", 33, 33, .wo, 0⟩, ⟨"FIRE", 32, 32, .wo, 0⟩, ⟨"OUTPIN", 31, 28, .rw, 0⟩,
     ⟨"OUT_EN", 27, 27, .rw, 0⟩, ⟨"INPIN", 26, 23, .rw, 0⟩, ⟨"SOURCE", 22, 15, .rw, 0⟩,
     ⟨"CAUSES", 5, 0, .rw, 0⟩]⟩,
  ⟨"OBS_FREEZE_TIME", 0x60018, 1, 0x0,
    [⟨"TIME", 63, 0, .ro, 0⟩]⟩,
  ⟨"OBS_SEQDOM", 0x60020, 1, 0x0,
    [⟨"DOMS", 63, 0, .rw, 0⟩]⟩,
  ⟨"OBS_MARK", 0x60028, 1, 0x0,
    [⟨"VALUE", 63, 4, .wo, 0⟩, ⟨"BUFFER", 3, 0, .wo, 0⟩]⟩,
  ⟨"OBS_TR_CTL", 0x60100, 12, 0x40,
    [⟨"POST", 52, 40, .rw, 0⟩, ⟨"PRE", 39, 27, .rw, 0⟩, ⟨"POLICY", 23, 22, .rw, 0⟩,
     ⟨"ENABLES", 17, 1, .rw, 0⟩, ⟨"EN", 0, 0, .rw, 0⟩]⟩,
  ⟨"OBS_TR_RING", 0x60108, 12, 0x40,
    [⟨"BASE", 63, 16, .rw, 0⟩, ⟨"LOG2", 4, 0, .rw, 0⟩]⟩,
  ⟨"OBS_TR_BUOY", 0x60110, 12, 0x40,
    [⟨"ADDR", 63, 3, .rw, 0⟩]⟩,
  ⟨"OBS_TR_RELEASE", 0x60118, 12, 0x40,
    [⟨"ADDR", 63, 3, .rw, 0⟩]⟩,
  ⟨"OBS_TR_WRPOS", 0x60120, 12, 0x40,
    [⟨"POS", 63, 0, .ro, 0⟩]⟩,
  ⟨"OBS_TR_COUNT", 0x60128, 12, 0x40,
    [⟨"DROP", 63, 32, .ro, 0⟩, ⟨"LOST", 31, 0, .ro, 0⟩]⟩,
  ⟨"OBS_TIER", 0x61000, 8, 0x8,
    [⟨"COUNT", 63, 0, .ro, 0⟩]⟩,
  ⟨"OBS_LINK", 0x61100, 16, 0x8,
    [⟨"COUNT", 63, 0, .ro, 0⟩]⟩,
  ⟨"OBS_DOM", 0x61200, 64, 0x8,
    [⟨"COUNT", 63, 0, .ro, 0⟩]⟩,
  ⟨"OBS_SNAP", 0x63000, 128, 0x8,
    [⟨"COUNT", 63, 0, .ro, 0⟩]⟩,
  ⟨"OBS_LER_SEL", 0x68000, 1, 0x0,
    [⟨"UNIT", 7, 0, .rw, 0⟩]⟩,
  ⟨"OBS_LER_HEAD", 0x68008, 1, 0x0,
    [⟨"HEAD", 63, 0, .ro, 0⟩]⟩,
  ⟨"OBS_LER_DATA", 0x68800, 256, 0x8,
    [⟨"DATA", 63, 0, .ro, 0⟩]⟩]

/-- The CHK block. -/
def regsChk : List RegDesc := [
  ⟨"CHK_CTL", 0x70000, 1, 0x0,
    [⟨"TEST_GAP", 23, 8, .rw, 30⟩, ⟨"AUTO", 7, 7, .rw, 1⟩, ⟨"TEST_EN", 6, 6, .rw, 1⟩,
     ⟨"SOLVER_EN", 5, 5, .rw, 1⟩, ⟨"VISION_EN", 4, 4, .rw, 1⟩, ⟨"TENSOR_EN", 3, 3, .rw, 1⟩,
     ⟨"FRACTION", 2, 0, .rw, 4⟩]⟩,
  ⟨"CHK_SEED", 0x70008, 1, 0x0,
    [⟨"SEED", 63, 0, .rw, 0⟩]⟩,
  ⟨"CHK_STAT", 0x70010, 1, 0x0,
    [⟨"LAST_UNIT", 1, 1, .ro, 0⟩, ⟨"UNRATED_ANY", 0, 0, .ro, 0⟩]⟩,
  ⟨"CHK_MINUTES", 0x70018, 1, 0x0,
    [⟨"MINUTES", 31, 0, .ro, 0⟩]⟩,
  ⟨"CHK_SW_RING", 0x70020, 1, 0x0,
    [⟨"ADDR", 63, 12, .rw, 0⟩]⟩,
  ⟨"CHK_SW_BUOY", 0x70028, 1, 0x0,
    [⟨"ADDR", 63, 3, .rw, 0⟩]⟩,
  ⟨"CHK_JOURNAL", 0x70030, 1, 0x0,
    [⟨"ADDR", 63, 22, .rw, 0⟩]⟩,
  ⟨"CHK_JOUR_HEAD", 0x70038, 1, 0x0,
    [⟨"HEAD", 63, 0, .ro, 0⟩]⟩,
  ⟨"CHK_CPER", 0x70040, 1, 0x0,
    [⟨"ADDR", 63, 20, .rw, 0⟩]⟩,
  ⟨"CHK_CPER_BUOY", 0x70048, 1, 0x0,
    [⟨"ADDR", 63, 3, .rw, 0⟩]⟩,
  ⟨"CHK_TC_LOAD", 0x70050, 1, 0x0,
    [⟨"ADDR", 63, 12, .wo, 0⟩]⟩,
  ⟨"CHK_TC_STAT", 0x70058, 1, 0x0,
    [⟨"RESULT", 7, 0, .ro, 0⟩]⟩,
  ⟨"CHK_TCVER", 0x70060, 1, 0x0,
    [⟨"TCVER", 63, 0, .ro, 0⟩]⟩,
  ⟨"CHK_COUNT", 0x70068, 1, 0x0,
    [⟨"LAPSES", 63, 48, .ro, 0⟩, ⟨"MISMATCHES", 47, 32, .ro, 0⟩, ⟨"CHECKS", 31, 0, .ro, 0⟩]⟩,
  ⟨"CHK_ERR", 0x70070, 1, 0x0,
    [⟨"TC_LOAD", 6, 6, .w1c, 0⟩, ⟨"JOURNAL", 5, 5, .w1c, 0⟩, ⟨"FENCE", 4, 4, .w1c, 0⟩,
     ⟨"CLASSIFIED", 3, 3, .w1c, 0⟩, ⟨"LAPSE", 2, 2, .w1c, 0⟩, ⟨"TEST_FAIL", 1, 1, .w1c, 0⟩,
     ⟨"MISMATCH", 0, 0, .w1c, 0⟩]⟩,
  ⟨"CHK_UNIT_CMD", 0x70078, 1, 0x0,
    [⟨"CMD", 19, 16, .wo, 0⟩, ⟨"UNIT", 15, 0, .wo, 0⟩]⟩,
  ⟨"CHK_UNIT", 0x70100, 164, 0x8,
    [⟨"CHARGED", 15, 8, .ro, 0⟩, ⟨"LEVEL", 4, 2, .ro, 0⟩, ⟨"RATING", 1, 0, .ro, 0⟩]⟩]

/-- The TIR block. -/
def regsTir : List RegDesc := [
  ⟨"TIR_CTL", 0x80000, 1, 0x0,
    [⟨"T1_MIB", 12, 8, .rw, 8⟩, ⟨"SCRUB", 1, 1, .rw, 1⟩, ⟨"EN", 0, 0, .rw, 0⟩]⟩,
  ⟨"TIR_T2_BASE", 0x80008, 1, 0x0,
    [⟨"MIB", 14, 0, .rw, 256⟩]⟩,
  ⟨"TIR_OBJ_TABLE", 0x80010, 1, 0x0,
    [⟨"ADDR", 63, 12, .rw, 0⟩]⟩,
  ⟨"TIR_REQ_RING", 0x80018, 1, 0x0,
    [⟨"ADDR", 63, 14, .rw, 0⟩]⟩,
  ⟨"TIR_REQ_BUOY", 0x80020, 1, 0x0,
    [⟨"ADDR", 63, 3, .rw, 0⟩]⟩,
  ⟨"TIR_CAP", 0x80028, 1, 0x0,
    [⟨"T1", 47, 32, .ro, 0⟩, ⟨"T2", 31, 0, .ro, 0⟩]⟩,
  ⟨"TIR_POOL", 0x80030, 1, 0x0,
    [⟨"T1", 47, 32, .ro, 0⟩, ⟨"T2", 31, 0, .ro, 0⟩]⟩,
  ⟨"TIR_ERR", 0x80038, 1, 0x0,
    [⟨"CFG_BAD", 6, 6, .w1c, 0⟩, ⟨"POOL_EMPTY", 5, 5, .w1c, 0⟩, ⟨"CRC_EXHAUSTED", 4, 4, .w1c, 0⟩,
     ⟨"FLASH_UNCORR", 3, 3, .w1c, 0⟩, ⟨"DRAM_UNCORR", 2, 2, .w1c, 0⟩, ⟨"REQ_FAILED", 1, 1, .w1c, 0⟩,
     ⟨"QUOTA_REJECT", 0, 0, .w1c, 0⟩]⟩,
  ⟨"TIR_MIG_COUNT", 0x80040, 1, 0x0,
    [⟨"COUNT", 63, 0, .ro, 0⟩]⟩,
  ⟨"TIR_CRC_COUNT", 0x80048, 1, 0x0,
    [⟨"FAILED", 63, 32, .ro, 0⟩, ⟨"RESENDS", 31, 0, .ro, 0⟩]⟩,
  ⟨"TIR_ECC_COUNT", 0x80050, 1, 0x0,
    [⟨"FLASH", 63, 48, .ro, 0⟩, ⟨"DRAM", 47, 32, .ro, 0⟩, ⟨"CORRECTED", 31, 0, .ro, 0⟩]⟩,
  ⟨"TIR_DOM_QUOTA", 0x80100, 16, 0x8,
    [⟨"T1", 47, 32, .rw, 0⟩, ⟨"T2", 31, 0, .rw, 0⟩]⟩,
  ⟨"TIR_DOM_USE", 0x80180, 16, 0x8,
    [⟨"T1", 47, 32, .ro, 0⟩, ⟨"T2", 31, 0, .ro, 0⟩]⟩]

/-- The FAB block. -/
def regsFab : List RegDesc := [
  ⟨"FAB_NODE", 0x90000, 1, 0x0,
    [⟨"NODE", 9, 0, .rw, 0⟩]⟩,
  ⟨"FAB_STAT", 0x90008, 1, 0x0,
    [⟨"FAILED", 15, 8, .ro, 0⟩, ⟨"UP", 7, 0, .ro, 0⟩]⟩,
  ⟨"FAB_CTL", 0x90010, 1, 0x0,
    [⟨"RESP_TIMEOUT_US", 15, 0, .rw, 1000⟩]⟩,
  ⟨"FAB_DROPS", 0x90018, 1, 0x0,
    [⟨"LATE", 63, 32, .ro, 0⟩, ⟨"DROPS", 31, 0, .ro, 0⟩]⟩,
  ⟨"FAB_LINK_CTL", 0x90100, 8, 0x20,
    [⟨"DATELINE", 1, 1, .rw, 0⟩, ⟨"EN", 0, 0, .rw, 0⟩]⟩,
  ⟨"FAB_LINK_STAT", 0x90108, 8, 0x20,
    [⟨"PEER", 17, 8, .ro, 0⟩, ⟨"REASON", 7, 4, .ro, 0⟩, ⟨"STATE", 1, 0, .ro, 0⟩]⟩,
  ⟨"FAB_LINK_COUNT", 0x90110, 8, 0x20,
    [⟨"FAILURES", 63, 48, .ro, 0⟩, ⟨"CRC", 47, 32, .ro, 0⟩, ⟨"RESENT", 31, 0, .ro, 0⟩]⟩,
  ⟨"FAB_LINK_ERR", 0x90118, 8, 0x20,
    [⟨"PEER_CHANGE", 3, 3, .w1c, 0⟩, ⟨"FAILED", 2, 2, .w1c, 0⟩, ⟨"CRC", 1, 1, .w1c, 0⟩,
     ⟨"REPLAY", 0, 0, .w1c, 0⟩]⟩,
  ⟨"FAB_ROUTE", 0x92000, 1024, 0x8,
    [⟨"VALID", 8, 8, .rw, 0⟩, ⟨"ALT_EN", 7, 7, .rw, 0⟩, ⟨"ALT", 6, 4, .rw, 0⟩, ⟨"PRI", 2, 0, .rw, 0⟩]⟩]

/-- The HST block. -/
def regsHst : List RegDesc := [
  ⟨"HST_CTL", 0xA0000, 1, 0x0,
    [⟨"CLASS", 1, 0, .rw, 3⟩]⟩,
  ⟨"HST_STAT", 0xA0008, 1, 0x0,
    [⟨"PERST", 11, 11, .ro, 0⟩, ⟨"L1", 10, 10, .ro, 0⟩, ⟨"D3HOT", 9, 9, .ro, 0⟩, ⟨"BME", 8, 8, .ro, 0⟩,
     ⟨"WIDTH", 7, 4, .ro, 0⟩, ⟨"SPEED", 3, 0, .ro, 0⟩]⟩,
  ⟨"HST_ERR", 0xA0010, 1, 0x0,
    [⟨"SVC_FAIL", 5, 5, .w1c, 0⟩, ⟨"FLR", 4, 4, .w1c, 0⟩, ⟨"LINK_DOWN", 3, 3, .w1c, 0⟩,
     ⟨"ATOMIC_FAIL", 2, 2, .w1c, 0⟩, ⟨"WRITE_FAIL", 1, 1, .w1c, 0⟩, ⟨"READ_FAIL", 0, 0, .w1c, 0⟩]⟩,
  ⟨"HST_LASTERR", 0xA0018, 1, 0x0,
    [⟨"OP", 11, 8, .ro, 0⟩, ⟨"STATUS", 7, 0, .ro, 0⟩]⟩,
  ⟨"HST_LASTADDR", 0xA0020, 1, 0x0,
    [⟨"ADDR", 63, 0, .ro, 0⟩]⟩,
  ⟨"HST_BAR2_BASE", 0xA0028, 1, 0x0,
    [⟨"ADDR", 63, 12, .rw, 0⟩]⟩,
  ⟨"HST_BUOY_BASE", 0xA0030, 1, 0x0,
    [⟨"OFF", 34, 12, .rw, 0⟩]⟩,
  ⟨"HST_SIGNAL", 0xA0038, 1, 0x0,
    [⟨"ADDR", 63, 3, .wo, 0⟩]⟩,
  ⟨"HST_SVC_RING", 0xA0040, 1, 0x0,
    [⟨"ADDR", 63, 14, .rw, 0⟩]⟩,
  ⟨"HST_SVC_BUOY", 0xA0048, 1, 0x0,
    [⟨"ADDR", 63, 3, .rw, 0⟩]⟩,
  ⟨"HST_WIN_BASE", 0xA0100, 1, 0x0,
    [⟨"BASE", 63, 12, .rw, 0⟩]⟩,
  ⟨"HST_WIN_CTL", 0xA0108, 1, 0x0,
    [⟨"SIZE", 13, 8, .rw, 12⟩, ⟨"EN", 0, 0, .rw, 0⟩]⟩,
  ⟨"HST_MSIX_TAB", 0xA8000, 128, 0x8,
    [⟨"WORD", 63, 0, .rw, 0⟩]⟩,
  ⟨"HST_MSIX_PBA", 0xA9000, 1, 0x0,
    [⟨"PENDING", 63, 0, .ro, 0⟩]⟩]

/-- The SNS block. -/
def regsSns : List RegDesc := [
  ⟨"SNS_STAT", 0xB0000, 1, 0x0,
    [⟨"ENABLED", 43, 0, .ro, 0⟩]⟩,
  ⟨"SNS_ERR", 0xB0008, 1, 0x0,
    [⟨"ERR", 43, 0, .w1c, 0⟩]⟩,
  ⟨"SNS_TRIG_CTL", 0xB0200, 8, 0x10,
    [⟨"OFFSET", 63, 50, .rw, 0⟩, ⟨"WIDTH", 49, 34, .rw, 1⟩, ⟨"PHASE", 33, 18, .rw, 0⟩,
     ⟨"PERIOD", 17, 2, .rw, 1⟩, ⟨"POL", 1, 1, .rw, 0⟩, ⟨"EN", 0, 0, .rw, 0⟩]⟩,
  ⟨"SNS_TRIG_LAST", 0xB0208, 8, 0x10,
    [⟨"STAMP", 63, 0, .ro, 0⟩]⟩,
  ⟨"SNS_CSI", 0xB0300, 8, 0x8,
    [⟨"RATE", 15, 8, .rw, 0⟩, ⟨"LANES", 1, 0, .rw, 0⟩]⟩,
  ⟨"SNS_CANSYNC", 0xB0380, 2, 0x10,
    [⟨"SYNC_EN", 37, 34, .rw, 0⟩, ⟨"DLC", 33, 30, .rw, 0⟩, ⟨"IDE", 29, 29, .rw, 0⟩, ⟨"ID", 28, 0, .rw, 0⟩]⟩,
  ⟨"SNS_CANSYNC_DATA", 0xB0388, 2, 0x10,
    [⟨"DATA", 63, 0, .rw, 0⟩]⟩,
  ⟨"SNS_CNT", 0xB0400, 44, 0x8,
    [⟨"ERRORS", 63, 48, .ro, 0⟩, ⟨"DROPPED", 47, 32, .ro, 0⟩, ⟨"WRITTEN", 31, 0, .ro, 0⟩]⟩,
  ⟨"SNS_SRC", 0xB0600, 44, 0x8,
    [⟨"DESC", 63, 6, .rw, 0⟩, ⟨"EN", 0, 0, .rw, 0⟩]⟩]

/-- The FUS block. -/
def regsFus : List RegDesc := [
  ⟨"FUS_STAT", 0xC0000, 1, 0x0,
    [⟨"BUSY", 8, 8, .ro, 0⟩, ⟨"QUEUED", 7, 0, .ro, 0⟩]⟩,
  ⟨"FUS_COUNT", 0xC0008, 1, 0x0,
    [⟨"FAULTED", 63, 48, .ro, 0⟩, ⟨"REFUSED", 47, 32, .ro, 0⟩, ⟨"OK", 31, 0, .ro, 0⟩]⟩,
  ⟨"FUS_LATE", 0xC0010, 1, 0x0,
    [⟨"LATE", 63, 0, .ro, 0⟩]⟩,
  ⟨"FUS_ERR", 0xC0018, 1, 0x0,
    [⟨"LOST", 3, 3, .w1c, 0⟩, ⟨"LATE", 2, 2, .w1c, 0⟩, ⟨"FAULT", 1, 1, .w1c, 0⟩, ⟨"REFUSED", 0, 0, .w1c, 0⟩]⟩]

/-- The VIS block. -/
def regsVis : List RegDesc := [
  ⟨"VIS_STAT", 0xD0000, 1, 0x0,
    [⟨"BQUEUE", 31, 24, .ro, 0⟩, ⟨"FQUEUE", 23, 16, .ro, 0⟩, ⟨"SUSPENDED", 15, 8, .ro, 0⟩,
     ⟨"BUSY", 7, 0, .ro, 0⟩]⟩,
  ⟨"VIS_COUNT", 0xD0008, 1, 0x0,
    [⟨"FAULTS", 63, 48, .ro, 0⟩, ⟨"REFUSALS", 47, 32, .ro, 0⟩, ⟨"DONE", 31, 0, .ro, 0⟩]⟩,
  ⟨"VIS_ERR", 0xD0010, 1, 0x0,
    [⟨"REFUSED", 15, 8, .w1c, 0⟩, ⟨"FAULT", 7, 0, .w1c, 0⟩]⟩,
  ⟨"VIS_SLOT_JOB", 0xD0100, 16, 0x18,
    [⟨"JOB", 63, 7, .rw, 0⟩, ⟨"CLASS", 2, 1, .rw, 3⟩, ⟨"EN", 0, 0, .rw, 0⟩]⟩,
  ⟨"VIS_SLOT_LAUNCH", 0xD0108, 16, 0x18,
    [⟨"ADDR", 63, 3, .rw, 0⟩]⟩,
  ⟨"VIS_SLOT_DONE", 0xD0110, 16, 0x18,
    [⟨"ADDR", 63, 3, .rw, 0⟩]⟩]

/-- The FLT block. -/
def regsFlt : List RegDesc := [
  ⟨"FLT_ERR", 0xE0000, 1, 0x0,
    [⟨"COEF_LATE", 3, 3, .w1c, 0⟩, ⟨"DROP", 2, 2, .w1c, 0⟩, ⟨"SAT", 1, 1, .w1c, 0⟩,
     ⟨"CFG_BAD", 0, 0, .w1c, 0⟩]⟩,
  ⟨"FLT_UP", 0xE0008, 1, 0x0,
    [⟨"UP", 63, 0, .w1c, 0⟩]⟩,
  ⟨"FLT_DN", 0xE0010, 1, 0x0,
    [⟨"DN", 63, 0, .w1c, 0⟩]⟩,
  ⟨"FLT_DROPS", 0xE0018, 1, 0x0,
    [⟨"DROPS", 63, 0, .ro, 0⟩]⟩,
  ⟨"FLT_CH_CFG", 0xE1000, 64, 0x40,
    [⟨"SWAP", 45, 45, .wo, 0⟩, ⟨"EN", 44, 44, .rw, 0⟩, ⟨"WLOG", 43, 40, .rw, 0⟩, ⟨"REL", 39, 36, .rw, 0⟩,
     ⟨"ATK", 35, 32, .rw, 0⟩, ⟨"FASTK", 31, 28, .rw, 0⟩, ⟨"HB2", 27, 27, .rw, 0⟩, ⟨"HB1", 26, 26, .rw, 0⟩,
     ⟨"CICRM1", 25, 20, .rw, 1⟩, ⟨"RSHIFT", 18, 15, .rw, 0⟩, ⟨"FMT", 14, 12, .rw, 0⟩,
     ⟨"OFFSET", 11, 6, .rw, 0⟩, ⟨"SRC", 5, 0, .rw, 63⟩]⟩,
  ⟨"FLT_CH_CICG", 0xE1008, 64, 0x40,
    [⟨"CICG", 31, 0, .rw, 0x1000000⟩]⟩,
  ⟨"FLT_CH_CANID", 0xE1010, 64, 0x40,
    [⟨"IDE", 29, 29, .rw, 0⟩, ⟨"ID", 28, 0, .rw, 0⟩]⟩,
  ⟨"FLT_CH_RING", 0xE1018, 64, 0x40,
    [⟨"BASE", 63, 12, .rw, 0⟩, ⟨"NSLOT_LOG2", 4, 0, .rw, 0⟩]⟩,
  ⟨"FLT_CH_BUOY", 0xE1020, 64, 0x40,
    [⟨"ADDR", 63, 3, .rw, 0⟩]⟩,
  ⟨"FLT_CH_THR", 0xE1028, 64, 0x40,
    [⟨"BROWN", 51, 51, .rw, 0⟩, ⟨"SEL", 50, 48, .rw, 0⟩, ⟨"HI", 47, 24, .rw, 0⟩, ⟨"LO", 23, 0, .rw, 0⟩]⟩,
  ⟨"FLT_CH_COEF", 0xE1030, 64, 0x40,
    [⟨"SETN", 39, 39, .wo, 0⟩, ⟨"NTAPSM1", 38, 32, .wo, 0⟩, ⟨"INDEX", 24, 18, .wo, 0⟩,
     ⟨"COEF", 17, 0, .wo, 0⟩]⟩,
  ⟨"FLT_CH_STAT", 0xE1038, 64, 0x40,
    [⟨"GD", 63, 32, .ro, 0⟩, ⟨"FAST", 31, 8, .ro, 0⟩, ⟨"LEVEL", 4, 4, .ro, 0⟩, ⟨"SWAP_PEND", 3, 3, .ro, 0⟩,
     ⟨"ACTIVE", 2, 2, .ro, 0⟩, ⟨"COARSE", 1, 1, .ro, 0⟩, ⟨"RUN", 0, 0, .ro, 0⟩]⟩]

/-- The SLV block. -/
def regsSlv : List RegDesc := [
  ⟨"SLV_CTL", 0xF0000, 1, 0x0,
    [⟨"EN", 0, 0, .rw, 0⟩]⟩,
  ⟨"SLV_AREA", 0xF0008, 1, 0x0,
    [⟨"BASE_MIB", 34, 20, .rw, 0⟩, ⟨"SIZE_MIB", 14, 0, .rw, 0⟩]⟩,
  ⟨"SLV_STAT", 0xF0010, 1, 0x0,
    [⟨"RESIDENT", 24, 16, .ro, 0⟩, ⟨"BUSY", 9, 8, .ro, 0⟩, ⟨"QUEUED", 7, 0, .ro, 0⟩]⟩,
  ⟨"SLV_COUNT", 0xF0018, 1, 0x0,
    [⟨"FAULTS", 63, 48, .ro, 0⟩, ⟨"REFUSALS", 47, 32, .ro, 0⟩, ⟨"DONE", 31, 0, .ro, 0⟩]⟩,
  ⟨"SLV_ERR", 0xF0020, 1, 0x0,
    [⟨"AREA_BAD", 5, 5, .w1c, 0⟩, ⟨"ITERATE_KEPT", 4, 4, .w1c, 0⟩, ⟨"DEADLINE", 3, 3, .w1c, 0⟩,
     ⟨"PIVOT", 2, 2, .w1c, 0⟩, ⟨"FAULT", 1, 1, .w1c, 0⟩, ⟨"REFUSED", 0, 0, .w1c, 0⟩]⟩,
  ⟨"SLV_SLOT_JOB", 0xF0100, 8, 0x18,
    [⟨"JOB", 63, 7, .rw, 0⟩, ⟨"CLASS", 2, 1, .rw, 3⟩, ⟨"EN", 0, 0, .rw, 0⟩]⟩,
  ⟨"SLV_SLOT_LAUNCH", 0xF0108, 8, 0x18,
    [⟨"ADDR", 63, 3, .rw, 0⟩]⟩,
  ⟨"SLV_SLOT_DONE", 0xF0110, 8, 0x18,
    [⟨"ADDR", 63, 3, .rw, 0⟩]⟩]

/-- The CLU block. -/
def regsClu : List RegDesc := [
  ⟨"CLU_STAT", 0x100000, 8, 0x10000,
    [⟨"LAYER", 47, 32, .ro, 0⟩, ⟨"QUEUED", 31, 16, .ro, 0⟩, ⟨"CLASS", 2, 1, .ro, 0⟩, ⟨"BUSY", 0, 0, .ro, 0⟩]⟩,
  ⟨"CLU_COUNT", 0x100008, 8, 0x10000,
    [⟨"FAULTS", 63, 48, .ro, 0⟩, ⟨"REFUSALS", 47, 32, .ro, 0⟩, ⟨"DONE", 31, 0, .ro, 0⟩]⟩,
  ⟨"CLU_ERR", 0x100010, 8, 0x10000,
    [⟨"FORMAT", 3, 3, .w1c, 0⟩, ⟨"RANGE", 2, 2, .w1c, 0⟩, ⟨"FAULT", 1, 1, .w1c, 0⟩,
     ⟨"REFUSED", 0, 0, .w1c, 0⟩]⟩,
  ⟨"CLU_STR_CTL", 0x100100, 8, 0x10000,
    [⟨"PARK_AFTER", 15, 0, .rw, 0x20⟩]⟩,
  ⟨"CLU_STR_POOL", 0x100108, 8, 0x10000,
    [⟨"BASE_MIB", 34, 20, .rw, 0⟩, ⟨"CAP", 7, 0, .rw, 0⟩]⟩,
  ⟨"CLU_STR_STAT", 0x100110, 8, 0x10000,
    [⟨"PARKED", 55, 36, .ro, 0⟩, ⟨"POOLED", 35, 16, .ro, 0⟩, ⟨"RESIDENT", 15, 0, .ro, 0⟩]⟩,
  ⟨"CLU_STR_EXIST", 0x100118, 8, 0x10000,
    [⟨"STOPPED", 39, 20, .ro, 0⟩, ⟨"EXIST", 19, 0, .ro, 0⟩]⟩,
  ⟨"CLU_STR_COUNT", 0x100120, 8, 0x10000,
    [⟨"REFUSED", 63, 48, .ro, 0⟩, ⟨"FAULTS", 47, 32, .ro, 0⟩, ⟨"SPAWNED", 31, 0, .ro, 0⟩]⟩,
  ⟨"CLU_STR_ERR", 0x100128, 8, 0x10000,
    [⟨"KILLED", 3, 3, .w1c, 0⟩, ⟨"POOL_BAD", 2, 2, .w1c, 0⟩, ⟨"POOL_FULL", 1, 1, .w1c, 0⟩,
     ⟨"FAULT", 0, 0, .w1c, 0⟩]⟩]

/-- The BRM block. -/
def regsBrm : List RegDesc := [
  ⟨"BRM_STAT", 0x200000, 16, 0x10000,
    [⟨"SUSPENDED", 3, 3, .ro, 0⟩, ⟨"DIE_FAILED", 2, 1, .ro, 0⟩, ⟨"FAILED", 0, 0, .ro, 0⟩]⟩,
  ⟨"BRM_READS", 0x200008, 16, 0x10000,
    [⟨"READS", 63, 0, .ro, 0⟩]⟩,
  ⟨"BRM_SUSP", 0x200010, 16, 0x10000,
    [⟨"RETRIES", 63, 32, .ro, 0⟩, ⟨"SUSP", 31, 0, .ro, 0⟩]⟩,
  ⟨"BRM_ERR", 0x200018, 16, 0x10000,
    [⟨"CHAN_FAILED", 3, 3, .w1c, 0⟩, ⟨"PROGRAM_FAILED", 2, 2, .w1c, 0⟩, ⟨"DIE_FAILED", 1, 1, .w1c, 0⟩,
     ⟨"UNCORR", 0, 0, .w1c, 0⟩]⟩]

/-- The BRC block. -/
def regsBrc : List RegDesc := [
  ⟨"BRC_CTL", 0x300000, 1, 0x0,
    [⟨"EN", 0, 0, .rw, 0⟩]⟩,
  ⟨"BRC_AREA", 0x300008, 1, 0x0,
    [⟨"BASE_MIB", 34, 20, .rw, 0⟩, ⟨"SIZE_MIB", 14, 0, .rw, 0⟩]⟩,
  ⟨"BRC_IDX_CMD", 0x300010, 1, 0x0,
    [⟨"CMD", 7, 4, .wo, 0⟩, ⟨"INDEX", 3, 0, .wo, 0⟩]⟩,
  ⟨"BRC_IDX_STAT", 0x300018, 1, 0x0,
    [⟨"LAST", 43, 40, .ro, 0⟩, ⟨"RESULT", 39, 32, .ro, 0⟩, ⟨"STATE", 31, 0, .ro, 0⟩]⟩,
  ⟨"BRC_COUNT", 0x300020, 1, 0x0,
    [⟨"REFUSED", 63, 48, .ro, 0⟩, ⟨"INCOMPLETE", 47, 32, .ro, 0⟩, ⟨"QUERIES", 31, 0, .ro, 0⟩]⟩,
  ⟨"BRC_APPENDS", 0x300028, 1, 0x0,
    [⟨"APPENDS", 63, 0, .ro, 0⟩]⟩,
  ⟨"BRC_ERR", 0x300030, 1, 0x0,
    [⟨"MERGE_FAILED", 3, 3, .w1c, 0⟩, ⟨"CMD_FAILED", 2, 2, .w1c, 0⟩, ⟨"BAD_CMD", 1, 1, .w1c, 0⟩,
     ⟨"AREA_BAD", 0, 0, .w1c, 0⟩]⟩]

/-- Every register map of the device (R21). -/
def regTable : List RegDesc :=
  regsGctl ++
  regsLmp ++
  regsInt ++
  regsTim ++
  regsPwr ++
  regsSec ++
  regsObs ++
  regsChk ++
  regsTir ++
  regsFab ++
  regsHst ++
  regsSns ++
  regsFus ++
  regsVis ++
  regsFlt ++
  regsSlv ++
  regsClu ++
  regsBrm ++
  regsBrc

/-- The bits of a field, as a mask. -/
def fieldMask (f : Field) : Word := BitVec.ofNat 64 ((2 ^ (f.hi + 1 - f.lo) - 1) <<< f.lo)

/-- The bits of the fields of one access code. -/
def maskOf (d : RegDesc) (a : Access) : Word :=
  (d.fields.filter (·.acc = a)).foldl (fun m f => m ||| fieldMask f) 0

/-- The reset value the register map gives (R8). -/
def resetOf (d : RegDesc) : Word :=
  d.fields.foldl (fun m f => m ||| BitVec.ofNat 64 (f.reset <<< f.lo)) 0

/-- Does row `d` hold a register at offset `off`? -/
def RegDesc.covers (d : RegDesc) (off : Nat) : Bool :=
  if d.stride = 0 then off == d.off
  else decide (d.off ≤ off) && (off - d.off) % d.stride == 0 && decide ((off - d.off) / d.stride < d.count)

/-- The row that names the register at an 8-byte-aligned register-space offset; none where none stands (R21). -/
def findReg (off : Nat) : Option RegDesc := regTable.find? (·.covers off)

/-- The value the register at `off` resets to: its row's reset value, 0 where no register stands. -/
def regReset (off : Nat) : Word := ((findReg off).map resetOf).getD 0

/-- The bits of a register that read back: everything but write-only and reserved bits (R6). -/
def readMask (d : RegDesc) : Word := maskOf d .ro ||| maskOf d .rw ||| maskOf d .w1c

end Sys2Proof.Machine
end

