-- ==== Sys2Proof/Machine/Store.lean ====
section
/-! DEFINITION. A sparse store in canonical form: keys strictly rising, no entry equal to what an unlisted key reads
as. Memory and the register file are such stores. -/

namespace Sys2Proof.Machine

variable {β : Type} [DecidableEq β]

/-- What key `a` reads as. -/
def kvGet (d : Nat → β) : List (Nat × β) → Nat → β
  | [], a => d a
  | (k, v) :: m, a => if k = a then v else kvGet d m a

/-- Set key `a` to `b`, in canonical form. -/
def kvSet (d : Nat → β) : List (Nat × β) → Nat → β → List (Nat × β)
  | [], a, b => if b = d a then [] else [(a, b)]
  | (k, v) :: m, a, b =>
    if a < k then (if b = d a then (k, v) :: m else (a, b) :: (k, v) :: m)
    else if a = k then (if b = d a then m else (a, b) :: m)
    else (k, v) :: kvSet d m a b

/-- Set consecutive keys from `a`. -/
def kvSetAll (d : Nat → β) (m : List (Nat × β)) (a : Nat) : List β → List (Nat × β)
  | [] => m
  | b :: bs => kvSetAll d (kvSet d m a b) (a + 1) bs

/-- The values of `n` consecutive keys from `a`. -/
def kvRange (d : Nat → β) (m : List (Nat × β)) (a : Nat) : Nat → List β
  | 0 => []
  | n + 1 => kvGet d m a :: kvRange d m (a + 1) n

/-- Forget the entries of a key range. -/
def kvDrop (m : List (Nat × β)) (lo len : Nat) : List (Nat × β) :=
  m.filter (fun e => !(decide (lo ≤ e.1) && decide (e.1 < lo + len)))

/-- Keys strictly rising from above `lo`. -/
def kvSorted : Option Nat → List (Nat × β) → Bool
  | _, [] => true
  | none, (k, _) :: m => kvSorted (some k) m
  | some lo, (k, _) :: m => decide (lo < k) && kvSorted (some k) m

/-- The canonical form: strictly rising keys, no entry equal to what an unlisted key reads as. -/
def kvWf (d : Nat → β) (m : List (Nat × β)) : Bool :=
  kvSorted none m && m.all (fun e => decide (e.2 ≠ d e.1))

end Sys2Proof.Machine
end

