-- ==== Sys2Proof/Machine/Types.lean ====
section
/-! DEFINITION. The plain data the State is made of: operations and their completions, objects and their copies, link
buffers. -/

namespace Sys2Proof.Machine

/-- A range of memory whose unlisted bytes are not the reset contents: zero filled, or unspecified under a stamp
(DEDUCED, log 6). -/
structure Fill where
  lo    : Nat
  len   : Nat
  stamp : Option Nat
  deriving DecidableEq, Repr

/-! ### Operations (R23 to R49) -/

/-- A memory operation as issued (R23, R28). -/
structure Op where
  source  : Source
  cls     : Nat
  code    : Nat
  aop     : Nat
  dst     : Word
  src     : Word
  len     : Nat
  operand : Word
  compare : Word
  signal  : Word
  done    : Word
  deriving DecidableEq, Repr

/-- Where a completion is reported (R28, R64, R188, R389, R426, R432). -/
inductive Origin where
  /-- the issuer's own logic: the completion list only -/
  | plain
  /-- an operation record at this address: STATUS and RESULT are written there (R28) -/
  | record (addr : Word)
  /-- completion record `rec` of a node of an instance, which is named by its `uid` (R64) -/
  | node (seq inst node rec : Nat) (addr : Option Word)
  /-- a slot of the keeper service ring (R432) -/
  | service (addr : Option Word)
  /-- a strand's blocking step (R188); `addr` is the record of an OPREC -/
  | strand (id : Nat) (addr : Option Word)
  /-- a strand's load, or the read of a DONE buoy by JOB (R187, R189) -/
  | load (id : Nat)
  /-- the reading of a WAIT buoy of another node by cluster `c`'s program, under a key (R157) -/
  | poll (c key : Nat)
  /-- the read of QDESC on another node by a query of a Bramble batch (R219) -/
  | qdesc (batch query : Nat)
  /-- a posted store of a strand: a failure goes into SERR (R187) -/
  | store (id : Nat)
  /-- a request packet of another node (R385) -/
  | packet (node : Nat) (tag : Nat) (cls : Nat)
  /-- a host request through a BAR (R426) -/
  | host
  /-- the increment of a write of HST_SIGNAL (R428) -/
  | signal
  /-- the read of an operation record that lies on another node or in the host window, for the issuer that `next` names
  (R546); `cls` replaces the record's class -/
  | fetch (cls : Option Nat) (next : Origin)
  /-- an operation whose strand is no longer there (R183) -/
  | gone
  /-- the write of a result of the relocalisation service, whose counters stand at this address (R248) -/
  | answer (counters : Word)
  /-- a piece of an operation that is reported as a whole (R46) -/
  | part
  deriving DecidableEq, Repr

/-- How far a pending operation has come. Edge counts are values of `Lamp.counted` (R37). -/
inductive Phase where
  /-- held behind a FENCE of its source (R42) -/
  | queued
  /-- a FENCE that waits for the operations issued before it (R42) -/
  | fence
  /-- a WATCH registered at this node since this edge count (R36, R37) -/
  | watch (since : Nat)
  /-- a COPY whose parts are moving (R47) -/
  | copy
  /-- sent to another node, no response yet (R389) -/
  | sent (node : Nat)
  /-- a WATCH at another node, confirmed at this edge count or not yet (R390) -/
  | remoteWatch (node : Nat) (confirmed : Option Nat) (since : Nat)
  /-- held here until a usable link comes UP, or for the ALT wait (R387, R388), since this edge count -/
  | held (node since : Nat)
  /-- a PCIe read or AtomicOp without its completion (R49) -/
  | hostWait
  /-- a COPY of which this status and result stand, whose part report on another node is not answered (R47) -/
  | report (status : Nat) (result : Word)
  /-- done with this status and result, and the increment of a DONE buoy of another node is not answered (R31, R33) -/
  | closing (status : Nat) (result : Word)
  deriving DecidableEq, Repr

/-- An operation that has not completed (R33). -/
structure PendingOp where
  tag    : Nat
  op     : Op
  origin : Origin
  phase  : Phase
  data   : List Byte
  deriving DecidableEq, Repr

/-- A completion an issuer has received (R33, R44). -/
structure Completion where
  source : Source
  code   : Nat
  status : Nat
  result : Word
  deriving DecidableEq, Repr

/-! ### The fabric (R379 to R391) -/

/-- A DATA flit in a transmit buffer: its packet data, at most 244 bytes, and the packets that end in it (R381, R382,
R389). -/
structure Flit where
  seq     : Nat
  cls     : Nat
  vl      : Bool
  payload : List Byte
  resent  : Nat
  ends    : List Packet
  deriving DecidableEq, Repr

/-- The link layer of one link: whether it has trained since the start, its sequence numbers, replay buffer, waiting
flits, credits, the 256-byte flits that it has put on the wire, latest first, and the T0 flits sent within the reservation of this Lamp period (R71, R380
to R384). -/
structure Link where
  trained : Bool
  txSeq   : Nat
  rxSeq   : Nat
  replay  : List Flit
  queue   : List Flit
  credits : List Nat
  wire    : List (List Byte)
  turn    : List Nat
  t0      : Nat
  deriving DecidableEq, Repr

/-- A packet held at this node for a destination (R387): an own operation is named by its tag. -/
structure Held where
  dst : Nat
  vl  : Bool
  own : Bool
  pkt : Packet
  deriving DecidableEq, Repr

/-- The fabric beside its registers: links, held packets, destinations in the 20 µs ALT wait, destinations that run
on ALT (R387, R388). -/
structure Fabric where
  links   : List Link
  held    : List Held
  altWait : List Nat
  onAlt   : List Nat
  deriving DecidableEq, Repr

/-! ### Objects and tiers (R109 to R138) -/

/-- An allocated object (R112): the tier manager's own knowledge, mirrored to the object table. `tier` is the
tier of the single copy while it is not FLUSHED, and `signed`
says that the object was sealed during the CONFIG phase (R470). -/
structure Obj where
  id       : Nat
  base     : Nat
  size     : Nat
  state    : Nat
  domain   : Nat
  home     : Nat
  cluster  : Nat
  tier     : Nat
  promote  : Bool
  flushed  : Bool
  digest   : Nat
  lastUse  : Nat
  gen      : Nat
  signed   : Bool
  deriving DecidableEq, Repr

/-- A copy of one engine tile that is not the home (R114, R124, R130). `cls` is the class of its migration, and `waited` says
that a C0 migration has waited for the one lower-class tile it waits for at most (R125). -/
structure TileCopy where
  obj      : Nat
  tile     : Nat
  tier     : Nat
  cluster  : Nat
  valid    : Bool
  pinned   : Bool
  holds    : Nat
  lastRead : Nat
  pool     : Bool
  cls      : Nat
  waited   : Bool
  deriving DecidableEq, Repr

/-- Where a media error lies: a 64-byte block or codeword of a direct region by its local address, or a block of an
object's home or of a copy (R135 to R138). -/
inductive MediaPlace where
  | direct (addr : Nat)
  | home (obj block : Nat)
  | copy (obj block tier cluster : Nat)
  deriving DecidableEq, Repr

/-- What a read of the place meets (R135, R136, R138). -/
inductive MediaKind where
  | corrected
  | resend (times : Nat)
  | exhausted
  | uncorrectable
  deriving DecidableEq, Repr

/-- One media error of the DRAM or the flash. -/
structure MediaFault where
  place : MediaPlace
  kind  : MediaKind
  deriving DecidableEq, Repr

/-- A tier request under way (R116, R117, R119): its sequence number, OP and object, and for a PLACE the tiles it
waits for. -/
structure TierReq where
  seq     : Nat
  op      : Nat
  obj     : Nat
  tier    : Nat
  cluster : Nat
  lo      : Nat
  hi      : Nat
  deriving DecidableEq, Repr

/-- The tier manager (R109 to R139): objects and copies, GEN of the IDs that are FREE, the next sequence number and the
requests taken since the enable (`base` is the request buoy's count then), requests under way, media errors, tiles to
promote, and whether a KEEP_STATE start kept the memory (R418). -/
structure Tier where
  objs    : List Obj
  copies  : List TileCopy
  gens    : List (Nat × Nat)
  nextSeq : Nat
  taken   : Nat
  base    : Nat
  busy    : List TierReq
  media   : List MediaFault
  promote : List (Nat × Nat)
  kept    : Bool
  deriving DecidableEq, Repr

/-! ### Outside ports -/

/-- A PCIe request of this node to the host (R49): the tag of its operation, the host address and length, and of an
AtomicOp its code (R25: ADD is FetchAdd), operand and compare value. -/
structure HostRead where
  tag    : Nat
  addr   : Nat
  len    : Nat
  atomic : Option (Nat × Word × Word)
  deriving DecidableEq, Repr

/-- The PCIe endpoint beside its registers (R422 to R431). `rootAtom` says whether the host's root port supports AtomicOps:
no command changes it, and it does at reset (R49; DESIGN CHOICE, log 185). Link state, BME and D3hot stand in HST_STAT. `needPerst` says
that the link, down since P3, trains only after PERST_N has been asserted and released (R430); `svc` is the service-ring
slot the keepers take next (R432). -/
structure Endpoint where
  svc      : Nat
  funcMask : Bool
  needPerst : Bool
  rootAtom : Bool
  crs      : Bool
  perst    : Bool
  msix     : List (Word × Word)
  sent     : List Nat
  writes   : List (Nat × List Byte)
  reads    : List HostRead
  replies  : List (List Byte)
  deriving DecidableEq, Repr

/-! ### The Lamp, the sequencers and time -/

/-- The Lamp beside its registers (R52 to R56): the lowest edge number that may occur next, and the edges counted as
R37 counts them; of the Lamp period under way the C0 plane reads served within FLASH and the resources whose
reservation C0 has exceeded, by their place in LMP_RESV (R71). -/
structure Lamp where
  next    : Nat
  counted : Nat
  flash   : Nat
  spent   : List Nat
  deriving DecidableEq, Repr

/-- A sequencer's copy of one node descriptor, and what it counts for it (R60, R62). `taken` is the LAUNCH success count
the unit has taken runs for (R13); `seenOk` and `seenBad` are the DONE counts of the runs that have ended (R64); `full`
says that the launch ahead has reported a full queue (R162), and `fullAt` when. -/
structure NodeDesc where
  kind     : Nat
  stage    : Nat
  preds    : List Nat
  ncomp    : Nat
  job      : Word
  launch   : Word
  done     : Word
  comp     : Word
  taken    : Nat
  seenOk   : Nat
  seenBad  : Nat
  stalls   : Nat
  overruns : Nat
  lastEdge : Nat
  full     : Bool
  fullAt   : Nat
  deriving DecidableEq, Repr

/-- The copy of a graph that a sequencer keeps from its enable on (R62): `counters` and `stride` say where its node
counters are written (R60, R61), `active` that it still admits instances. -/
structure Graph where
  gid      : Nat
  nodes    : List NodeDesc
  cls      : Nat
  last     : Nat
  runOn    : Bool
  gated    : Bool
  period   : Nat
  phase    : Nat
  input    : Word
  output   : Word
  ring     : Word
  counters : Word
  stride   : Nat
  active   : Bool
  started  : Nat
  lastIn   : Nat
  deriving DecidableEq, Repr

/-- Where a node of an instance stands (R63, R64). -/
inductive NodePhase where
  | waiting
  /-- launched at this time (R162); `taken` once its unit has queued the run -/
  | launched (taken : Bool) (at_ : Nat)
  /-- its job has ended and `left` completion records have not completed; `busy` while one is under way -/
  | closing (left : Nat) (busy ok : Bool)
  | finished (ok : Bool)
  deriving DecidableEq, Repr

/-- An instance in flight (R63 to R68). `uid` numbers the instances of a sequencer from reset on, `number` from its
enable on; `begun` is the edge at which its stage was due to begin, `held` that it waits behind one that runs on. -/
structure Inst where
  uid     : Nat
  gid     : Nat
  number  : Nat
  start   : Nat
  time    : Nat
  first   : Nat
  count   : Nat
  stage   : Nat
  begun   : Nat
  held    : Bool
  aborted : Bool
  ranOn   : Bool
  nodes   : List NodePhase
  deriving DecidableEq, Repr

/-- A sequencer beside its registers (R58 to R70): the graphs it keeps (the enabled one, and earlier ones with instances
in flight), and its instances, oldest first. -/
structure Seq where
  graphs  : List Graph
  insts   : List Inst
  nextUid : Nat
  nextGid : Nat
  deriving DecidableEq, Repr

/-- The native time counter and its servo (R316 to R329). `ticks` counts 8 ns ticks since POR_N; `step` is a pending
step; `ppsLast` is the tick of the last accepted PPS_IN edge, `ppsAt` the tick at which the pulse of PPS_OUT began. `got`
are the slave side's t2 and t3 of the exchange that has no result yet, `sentAt` and `backAt` the master side's t1 and t4 by
link (R325), in 0.5 ns units at the tick. `ptpSlave` says which Ethernet ports are in the slave state (R330; at reset none is, DESIGN CHOICE, log 205), and `oneStep` holds
the frames that left stamped in one-step mode, latest first (R331). -/
structure Time where
  n       : Nat
  f       : Nat
  ticks   : Nat
  running : Bool
  step    : Option Int
  inc0    : Nat
  sum     : Int
  good    : Nat
  edges   : Nat
  ppsLast : Option Nat
  ppsOut  : Bool
  ppsAt   : Nat
  got     : Option (Nat × Nat)
  sentAt  : List (Nat × Nat)
  backAt  : List (Nat × Nat)
  ptpSlave : List Bool
  oneStep : List (Nat × List Byte)
  deriving DecidableEq, Repr

/-! ### Observation (R483 to R496) -/

/-- An observation record (R485). -/
structure ObsRec where
  stamp : Nat
  unit  : Nat
  event : Nat
  attr  : Nat
  tag   : Nat
  arg0  : Nat
  arg1  : Nat
  deriving DecidableEq, Repr

/-- A trace buffer (R486 to R488): the undrained records oldest first, the records lost or dropped that a LOST record
must still count, and for a TRIGGER capture the records its post-count still accepts. -/
structure TraceBuf where
  recs : List ObsRec
  lost : Nat
  post : Option Nat
  deriving DecidableEq, Repr

/-- A last-event ring (R491): entries written, and the last 64, latest first. -/
structure Ler where
  unit : Nat
  head : Nat
  recs : List ObsRec
  deriving DecidableEq, Repr

/-- Observation beside its registers. `outpin` is the level of GPIO OUTPIN (R490). -/
structure Obs where
  bufs   : List TraceBuf
  lers   : List Ler
  causes : Nat
  outpin : Bool
  deriving DecidableEq, Repr

/-! ### Power (R477 to R480, R508 to R525, R533, R542) -/

/-- The power arbiter, operating point and power steps beside the PWR registers. `point` is a POINT write that waits
for the next edge and `margin` says that a change of margin waits for it too; `raise` is a point whose clock follows its
voltage, with the tick at which that has settled; `holdAt` is the tick of the brownout request (R520); `vrAck` whether the regulator acknowledges (R512,
R514). `step` is the power state a step under way leads to and `since` the edge count when it began (R477); `woken` says that a
wake event has ended the request of TARGET (R478, DEDUCED, log 52), `wake` keeps the cause of one that arrives during the step
into P3; `off` is P4. -/
structure Power where
  temps    : List Nat
  point    : Option Nat
  margin   : Bool
  raise    : Option (Nat × Nat)
  holdAt   : Nat
  vrAck    : Bool
  prevLow  : Nat
  vrAlert  : Bool
  step     : Option Nat
  since    : Nat
  woken    : Bool
  wake     : Option Nat
  off      : Bool
  halted   : List Nat
  thermtrip : Bool
  deriving DecidableEq, Repr

/-! ### Fuses, OTP and the session (R463 to R476) -/

/-- An owner key hash slot (R464). -/
structure OwnerSlot where
  hash    : List Byte
  valid   : Bool
  revoked : Bool
  deriving DecidableEq, Repr

/-- Fuses and OTP (R464), which nothing but their one-way writes changes. -/
structure Fuses where
  deviceId  : Word
  dkeyHash  : List Byte
  lifecycle : Nat
  pending   : Nat
  owners    : List OwnerSlot
  svnImage  : Nat
  svnFw     : Nat
  endorse   : List Byte
  machine   : List Byte
  dolnexCal : List Byte
  deriving DecidableEq, Repr

/-- The security state beside the SEC registers: nonce draws (R473), D3 sessions since POR_N, digest and versions of the
running image, the slot of its key and KEEP_STATE (R481), a first start in RETIRED still to erase the device (R471); at
the TAP whether EXTEST stands, whether BYPASS is selected, and the last answer shifted out. -/
structure Security where
  draws    : Nat
  d3       : Nat
  imgHash  : List Byte
  imgSvn   : Nat
  fwSvn    : Nat
  keySlot  : Nat
  keep     : Bool
  retire   : Bool
  extest   : Bool
  bypass   : Bool
  tap      : List Byte
  deriving DecidableEq, Repr

/-! ### Start-up (R397 to R421) -/

/-- Start-up beside GCTL: the configuration memory (unlisted bytes read 0xFF; `big` is 512 MiB; `present` that it
answers), the image that starts (0 slot A, 1 slot B, 2 the recovery image), and the slot that failed first (R402, R403,
R420, R421). -/
structure Boot where
  xspi    : List (Nat × Byte)
  big     : Bool
  present : Bool
  image   : Option Nat
  failed  : Option Nat
  deriving DecidableEq, Repr

/-! ### Strands (R167 to R195) -/

/-- What a strand that may not issue waits for (R172). -/
inductive SWait where
  | none
  /-- a load step: opcode, destination register, address and length, whether it has been issued, and its answer
  (R187) -/
  | load (code rd : Nat) (addr : Word) (len : Nat) (issued : Bool) (answer : Option (Nat × List Byte))
  /-- a blocking operation in the list of pending operations, by its tag -/
  | pending (tag rd : Nat)
  /-- a completed operation whose status and result are not yet in the context -/
  | result (status : Nat) (value : Word) (rd : Nat)
  /-- JOB that reads its DONE buoy: destination register, timeout, LAUNCH and DONE, and the answer (R189) -/
  | job (rd limit : Nat) (launch done : Word) (answer : Option (Nat × List Byte))
  /-- JOB whose increment of a LAUNCH buoy on another node is under way: destination register, timeout, DONE and the
  word read from it, and the status of the answer (R189) -/
  | launch (rd limit : Nat) (done word : Word) (answer : Option Nat)
  /-- WATCH, PARK or JOB: destination register, timeout in edges (0 none), the edge count at the start (R178, R189) -/
  | buoy (rd limit since : Nat)
  /-- a spawn: destination register, target cluster, PC and g0 of the new strand (R190) -/
  | spawn (rd cluster : Nat) (pc arg : Word)
  | fence
  /-- END with this EXIT, waiting for the drain (R193) -/
  | drain (exit : Nat)
  deriving DecidableEq, Repr

/-- A strand in existence (R170). The registers stand here while it is resident, in its pool slot otherwise (R171).
`id` is its slot's ID and `sid` the ID field of its context; `batch` its owner's number; `proc` and `ctx` where it is
resident (R167); `ready` orders strands by the time they became READY or began to wait (R176, R177), `waited` is N when
the wait began; `parking` that it is parked once its posted stores have completed (R176); `busy` the cycle of its
processor at which its last step has surely completed (R173, R175). -/
structure Strand where
  id       : Nat
  sid      : Nat
  batch    : Nat
  state    : Nat
  resident : Bool
  proc     : Nat
  ctx      : Nat
  cls      : Nat
  ready    : Nat
  waited   : Nat
  parking  : Bool
  busy     : Nat
  wait     : SWait
  gregs    : List Word
  wide     : List Word
  pc       : Word
  waddr    : Word
  wcond    : Word
  owner    : Word
  lstat    : Nat
  serr     : Nat
  fault    : Nat
  exit     : Nat
  steps    : Nat
  deriving DecidableEq, Repr

/-- A strand spawn batch that has not ended (R180 to R183). `inst` is the uid of the instance that launched it. -/
structure Batch where
  number   : Nat
  seq      : Nat
  inst     : Option Nat
  instNo   : Nat
  node     : Nat
  job      : Word
  clusters : List Nat
  cls      : Nat
  dom      : Nat
  done     : Word
  report   : Word
  aborted  : Bool
  started  : Nat
  endedOk  : Nat
  endedBad : Nat
  faulted  : List (Nat × Nat)
  killed   : Nat
  notSpawned : Nat
  refused  : Nat
  start    : Nat
  deriving DecidableEq, Repr

/-- A run of a unit as its launch queued it: the node or slot it belongs to, its instance, its class, its job record, its
DONE buoy and the time its launch took effect (R13, R162, R257, R305, R336). A slot has `slot` set and no instance. -/
structure Run where
  seq    : Nat
  node   : Nat
  gid    : Nat
  slot   : Option Nat
  uid    : Option Nat
  number : Nat
  cls    : Nat
  dom    : Nat
  job    : Word
  done   : Word
  ring   : Word
  time   : Nat
  deriving DecidableEq, Repr

/-- A reading of a WAIT buoy (R157): asked of another node under a key, its two counts, or the status of a read that
failed. -/
inductive WaitRead where
  | asked (key : Nat)
  | got (ok fail : Nat)
  | bad (status : Nat)
  deriving DecidableEq, Repr

/-- Memory as it stood at an instant: its cells and fills (R96, R263). -/
structure Snap where
  mem   : List Host.Cell
  fills : List Fill
  deriving DecidableEq, Repr

/-! ### Queued runs and solver structures (R257, R260, R305, R336, R344 to R347) -/

/-- A run queued for an engine, with what its record says of queueing as it stood when the run entered (R257, R260,
R337): the units allowed, the WAIT buoy and count, S0 and the failure count (none when unreadable), and the structure IDs
it names. -/
structure QRun where
  run   : Run
  units : Nat
  wait  : Word
  waitn : Nat
  base  : Option (Nat × Nat)
  sids  : List Word
  deriving DecidableEq, Repr

/-- What a fusion job fixes when it is taken (R306, R308): the target instant, the frame number, whether the target is
unsynchronised, each source's block count and the pose count. -/
structure Target where
  t      : Nat
  fseq   : Nat
  unsync : Bool
  heads  : List Nat
  poses  : Nat
  deriving DecidableEq, Repr

/-- A run that an engine has taken, and when: its records, the one it runs, when that began, slices, and whether every
record so far ended with OK (R264, R340), and the memory when it was taken (R263). -/
structure UJob where
  q      : QRun
  taken  : Nat
  raws   : List (List Byte)
  index  : Nat
  start  : Nat
  slices : Nat
  ok     : Bool
  target : Option Target
  old    : Snap
  deriving DecidableEq, Repr

/-- A block of a least-squares structure (R345): kind 0 VEC, 1 SE3, 2 SE3V. -/
structure Blk where
  kind  : Nat
  n     : Nat
  fixed : Bool
  deriving DecidableEq, Repr

/-- A factor slot (R346); `b` none is 0xFFFF_FFFF. Parameter words are binary64 codes. -/
structure Factor where
  ftype   : Nat
  m       : Nat
  enabled : Bool
  a       : Nat
  b       : Option Nat
  params  : List Nat
  deriving DecidableEq, Repr

/-- A joint (R356, R357): words 0–21 as binary64 codes; `parent` none is the base. -/
structure Joint where
  parent : Option Nat
  jtype  : Nat
  words  : List Nat
  deriving DecidableEq, Repr

/-- A resident structure (R344). -/
structure Struct where
  sid     : Word
  body    : Bool
  blks    : List Blk
  facs    : List Factor
  joints  : List Joint
  gravity : List Nat
  bytes   : Nat
  deriving DecidableEq, Repr

/-! ### Integrity (R435 to R462) -/

/-- What a completed result was, for its recomputation and its suspect window (R437, R441): `desc` is the descriptor of a
tensor layer, `job` the run of a vision or solver result, and `struct` the structure as a solver record found it. -/
structure Check where
  id      : Nat
  kind    : Nat
  unit    : Nat
  checker : Nat
  op      : Nat
  crc     : Nat
  fedge   : Nat
  addr    : Word
  pstart  : Nat
  object  : Nat
  layer   : Nat
  tile    : Nat
  desc    : List Byte
  job     : Option UJob
  struct  : Option Struct
  deriving DecidableEq, Repr

/-- An arbitration under way (R440). -/
structure Arb where
  check : Check
  got   : Nat
  arbiter : Nat
  deriving DecidableEq, Repr

/-- A test on a unit (R446, R447): its entry, the scratch range of its content, and the runs still to do. -/
structure TestRun where
  unit    : Nat
  raw     : List Byte
  scratch : Nat
  left    : Nat
  deriving DecidableEq, Repr

/-- One unit in the journal summary (R450, R452): rating and response level. -/
structure UnitSum where
  unit   : Nat
  rating : Nat
  level  : Nat
  deriving DecidableEq, Repr

/-- Integrity beside its registers. Journal, summary, charged events (unit and device-minute) and test content stand in
flash and outlive every reset (R450, R449). -/
structure Integrity where
  counters : List (Nat × Nat)
  checks   : List Check
  arbs     : List Arb
  nextId   : Nat
  journal  : List (List Byte)
  seq      : Nat
  minutes  : Nat
  summary  : List UnitSum
  charged  : List (Nat × Nat)
  windows  : Nat
  tests    : List TestRun
  lastTest : List (Nat × Nat)
  fencing  : List Nat
  content  : List Byte
  loaded   : List Byte
  deriving DecidableEq, Repr

/-! ### Clusters and strand processors (R162, R163, R191) -/

/-- A tensor program that a cluster has taken (R144 to R165): its descriptors, the layer to run or under way (`inLayer`),
the WAIT counts read when layer 0 started and the reading of a WAIT buoy of another node under way (R157), the memory when
the layer started (R96), stalls, weight tiles held (layer and tile, R132), layers done, and the
samples that count once it ends with OK (R436). -/
structure Prog where
  run     : Run
  start   : Nat
  raws    : List (List Byte)
  layer   : Nat
  inLayer : Bool
  waits   : Option (List WaitRead)
  polled  : Option WaitRead
  old     : Snap
  stalls  : Nat
  stalled : Bool
  held    : List (Nat × Nat)
  done    : Nat
  checks  : List Check
  deriving DecidableEq, Repr

/-- A cluster's tensor unit (R162, R163): its queue, the running program, and programs that yielded. -/
structure Cluster where
  queue : List Run
  run   : Option Prog
  susp  : List Prog
  deriving DecidableEq, Repr

/-- A strand processor: the lines it last fetched, newest last (R191), the steps it has issued, C0's steps of this Lamp
period, the context last picked in each class, and what C1 to C3 may still issue of 4, 2 and 1 steps of a round (R71,
R72, R173; at reset DESIGN CHOICE, log 204). -/
structure Proc where
  lines : List (Word × List Byte)
  cycle : Nat
  c0    : Nat
  last  : List Nat
  turn  : List Nat
  deriving DecidableEq, Repr

/-- The strands of the device, their batches, the 16 processors of each of the 8 clusters, and the counter that orders
strands. -/
structure Strands where
  all     : List Strand
  batches : List Batch
  procs   : List Proc
  clock   : Nat
  deriving DecidableEq, Repr

/-! ### Bramble (R196 to R231) -/

/-- A non-empty bucket of a generation (R202 to R204): its key, first page number, number of entries and the generation
that wrote its pages. The entries stand in the pages. -/
structure Bucket where
  key     : Nat
  page    : Nat
  entries : Nat
  by_     : Nat
  deriving DecidableEq, Repr

/-- A generation of an index (R204, R223): the local addresses of its record, its root, its carried tombstone list and its
directory tiles, the non-empty buckets, the carried tombstone list (key and generation) and the queries that hold it. -/
structure Gen where
  num     : Nat
  mpos    : Nat
  addr    : Nat
  root    : Nat
  ctlAt   : Nat
  tiles   : List Nat
  buckets : List Bucket
  ctl     : List (Nat × Nat)
  sweep   : Nat
  holds   : Nat
  deriving DecidableEq, Repr

/-- A merge that has been taken and not published (R224, R225): the merge record, the new generation, whose structures are
not placed yet, the entries of each bucket it rewrites, its counts and the erase blocks it takes. -/
structure Merge where
  raw    : List Byte
  gen    : Gen
  new    : List (Bucket × List (List Byte))
  counts : List Nat
  blocks : Nat
  deriving DecidableEq, Repr

/-- What the internal index of a side list knows of an entry (R217): its position, key, bucket key and whether it is a
tombstone. The entry stands in its slot. -/
structure SideKey where
  pos    : Nat
  key    : Nat
  bucket : Nat
  tomb   : Bool
  deriving DecidableEq, Repr

/-- The erase blocks that hold the pages a merge wrote (R198, R225): the generation, its live pages and the blocks. -/
structure MergeBlocks where
  gen    : Nat
  pages  : Nat
  blocks : Nat
  deriving DecidableEq, Repr

/-- An index (R196, R209 to R214). STATE stands in BRC_IDX_STAT. `gens` has the current generation first; `side` is the
internal index of the side list, by rising position, and `sideAt` the local address of its slot 0; `space` what the index
took of the area when it was opened (R210); `next` is the next update sequence number, `taken` the merge buoy's successes
taken; `blocks` the flash erase blocks held. -/
structure Index where
  head   : Nat
  oldest : Nat
  side   : List SideKey
  sideAt : Nat
  space  : Nat
  gens   : List Gen
  next   : Nat
  taken  : Nat
  merge  : Option Merge
  blocks : List MergeBlocks
  deriving DecidableEq, Repr

/-- A candidate of a query (R217): entry, distances, whether from a side list, and the node that held it. -/
structure Cand where
  dist  : Nat
  sdist : Nat
  side  : Bool
  node  : Nat
  entry : List Byte
  deriving DecidableEq, Repr

/-- A part of a query at another node (R228): its tag, and the probe numbers it owns. -/
structure Part where
  node   : Nat
  tag    : Nat
  probes : List Nat
  deriving DecidableEq, Repr

/-- A query of a batch (R215 to R219). `desc` is the status of the read of QDESC and the bytes, none while another node has
not answered; `status` 0 is running; `searched` says that its local part has run; `parts` are the remote parts without an
answer. -/
structure Query where
  raw      : List Byte
  desc     : Option (Nat × List Byte)
  index    : Nat
  gen      : Nat
  wmark    : Nat
  mpos     : Nat
  start    : Nat
  held     : Bool
  searched : Bool
  status   : Nat
  reason   : Nat
  cands    : List Cand
  parts    : List Part
  found    : Nat
  passed   : Nat
  pages    : Nat
  chanFail : Nat
  nodeFail : List Nat
  probeFail : List Nat
  sideFail : Bool
  deriving DecidableEq, Repr

/-- A query batch that has not ended (R215, R220). -/
structure QBatch where
  number  : Nat
  run     : Run
  report  : Word
  start   : Nat
  queries : List Query
  ok      : Nat
  incomplete : Nat
  refused : Nat
  unwritten : Nat
  aborted : Nat
  deriving DecidableEq, Repr

/-- An answer to a part that another node asked for (R228). -/
structure ShardAnswer where
  node   : Nat
  tag    : Nat
  status : Nat
  failed : List Nat
  pages  : Nat
  passed : Nat
  found  : Nat
  items  : List ShardItem
  deriving DecidableEq, Repr

/-- Bramble beside its registers: indexes that are not ABSENT, query batches, requests and answers it has sent, latest
first, and dies whose program or erase is suspended (R230). -/
structure Bramble where
  indexes   : List (Nat × Index)
  batches   : List QBatch
  nextBatch : Nat
  asked     : List ShardRequest
  answers   : List ShardAnswer
  suspended : List (Nat × Nat)
  deriving DecidableEq, Repr

/-! ### Engines that queue and slice their runs (R257, R258, R260, R305, R336) -/

/-- An engine: its run, and the runs suspended on it (R258). -/
structure Engine where
  run  : Option UJob
  susp : List UJob
  deriving DecidableEq, Repr

/-- A standing slot: the LAUNCH success count it has taken runs for, whether the launch ahead has reported a full queue
(R257, R291), and when. -/
structure Slot where
  taken : Nat
  full  : Bool
  fullAt : Nat
  deriving DecidableEq, Repr

/-- The vision engines (R255 to R258): the two queues, FE0–FE3 and BM0–BM3, and the standing slots. -/
structure Vision where
  fqueue  : List QRun
  bqueue  : List QRun
  engines : List Engine
  slots   : List Slot
  deriving DecidableEq, Repr

/-! ### The solver (R335 to R360) -/

/-- The solver (R335, R336, R343): its queue, SU0 and SU1, the standing slots and the resident structures. -/
structure Solver where
  queue   : List QRun
  units   : List Engine
  slots   : List Slot
  structs : List Struct
  deriving DecidableEq, Repr

/-! ### Sensors and fusion (R293 to R314) -/

/-- A camera frame being received (R300). `stored` says that a line which failed its CRC was stored. `drop` says that no released buffer was found for it. -/
structure CamFrame where
  stamp  : Nat
  unsync : Bool
  lines  : Nat
  crcs   : Nat
  stored : Bool
  hdr    : Bool
  drop   : Bool
  deriving DecidableEq, Repr

/-- A record of an SPI or CAN source as the filter chain reads it (R363, R364): its stamp and UNSYNC flag, a CAN record's
identifier and IDE bit, and the payload written. -/
structure FedRecord where
  stamp   : Nat
  unsync  : Bool
  ident   : Nat
  ide     : Bool
  payload : List Byte
  deriving DecidableEq, Repr

/-- An ingest source beside its registers (R297 to R300): its descriptor as checked at EN, records since EN, whether the
next record carries GAP, the frame or SPI request under way, the last period instant of an SPI source (N, from EN on), and
the last frame record written since EN (R306): SEQ, FS_STAMP and UNSYNC. `fed` is the last ring record of an SPI or CAN
source and `feeds` counts a source's ring records since reset, by which the filter chain tells a new one (DESIGN CHOICE, log 94). -/
structure Source44 where
  desc   : List Byte
  count  : Nat
  gap    : Bool
  frame  : Option CamFrame
  spi    : Option (Nat × Bool)
  spiAt  : Nat
  newest : Option (Nat × Nat × Bool)
  fed    : Option FedRecord
  feeds  : Nat
  deriving DecidableEq, Repr

/-- The sensor ports: the 44 sources; the trigger pins (true is active), with the tick and the edge count of each one's
last start (R301); the sync frames the CAN controllers have sent, latest first: controller, SNS_CANSYNC and its data; and
the command bytes the SPI controllers have shifted out, latest first (R297). -/
structure Sensors where
  sources : List Source44
  trigs   : List Bool
  trigAt  : List (Nat × Nat)
  sent    : List (Nat × Word × Word)
  shifted : List (Nat × List Byte)
  deriving DecidableEq, Repr

/-- The fusion engine (R305). -/
structure Fusion where
  queue : List QRun
  eng   : Engine
  deriving DecidableEq, Repr

/-! ### The relocalisation service (R233 to R252) -/

/-- A keyframe that a SEARCH found: its ID, its tile and its position as three binary32 words (R235). -/
structure Keyframe where
  id   : Word
  tile : Word
  pos  : List Nat
  deriving DecidableEq, Repr

/-- A feature of an input: its normalised coordinates, where the camera model gives them, and its descriptor (R237, R243). -/
structure SvcFeature where
  xy   : Option (Nat × Nat)
  desc : List Byte
  deriving DecidableEq, Repr

/-- A matched feature: its index, its least distance and its landmark (R244). -/
structure Matched where
  feature  : Nat
  dist     : Nat
  landmark : Nat
  deriving DecidableEq, Repr

/-- An input that an instance of the service is working on, as its nodes leave it to the later ones in the scratch area
(R234, R240 to R247): its instance, number, header, camera model record and prior block; the times its stages ended; what
its queries reported; the kept keyframes, the features, the matches and their five words each; the best hypothesis with
its score and its tile-to-camera pose as seven binary32 words, and whether the solver refines it. -/
structure SvcInput where
  seq        : Nat
  uid        : Nat
  u          : Nat
  hdr        : List Byte
  camera     : List Byte
  prior      : Option (List Byte)
  admitAt    : Nat
  ended      : List Nat
  refused    : Bool
  incomplete : Bool
  pages      : Nat
  chanFail   : Nat
  nodeFail   : Nat
  snaps      : List Nat
  kept       : List Keyframe
  feats      : List SvcFeature
  matches_   : List Matched
  corrs      : List (List Nat)
  best       : Nat
  score      : Nat
  pose       : List Nat
  refine     : Bool
  deriving DecidableEq, Repr

/-- An aborted instance of the service, whose inputs a later one answers (R252). -/
structure SvcAborted where
  seq     : Nat
  gid     : Nat
  number  : Nat
  first   : Nat
  count   : Nat
  admitAt : Nat
  deriving DecidableEq, Repr

/-- The relocalisation service between its nodes. -/
structure Service where
  inputs  : List SvcInput
  aborted : List SvcAborted
  deriving DecidableEq, Repr

/-! ### The filter chain (R363 to R377) -/

/-- A coefficient bank (R375). -/
structure Bank where
  ntaps : Nat
  coefs : List Nat
  deriving DecidableEq, Repr

/-- A filter channel beside its registers (R366 to R377): whether the chain has stopped since its last sample; the records
of its source that it has seen (`seen`, DESIGN CHOICE, log 94); the input
count since the switch and the input count up to which records are coarse (DEDUCED, log 56); integrators and combs of the
CIC; histories and input counts of the half-bands; the FIR history; the fast value; records written, and the SAT and GAP
that the next record carries; the detectors with their block under way (records, greatest magnitude, sum of squares); the
first comparator value still to come (`level` none); and the banks. -/
structure Chan where
  resume : Bool
  seen   : Nat
  i      : Nat
  gd     : Nat
  integ  : List Int
  comb   : List Int
  hb1    : List Int
  hb1n   : Nat
  hb2    : List Int
  hb2n   : Nat
  fir    : List Int
  f      : Int
  recs   : Nat
  sat    : Bool
  gap    : Bool
  peak   : Nat
  rms    : Nat
  env    : Nat
  blkN   : Nat
  blkMax : Nat
  blkSum : Nat
  level  : Option Bool
  fine   : Int
  banks  : List Bank
  deriving DecidableEq, Repr

end Sys2Proof.Machine
end

