-- ==== Sys2Proof/Machine/State.lean ====
section
/-! DEFINITION. The state of the block, the ways a step can stop, and the state after reset. -/

namespace Sys2Proof.Machine

/-- The block's state: plain data (DESIGN CHOICE, log 1). `pending` is the queue of commands that wait, first in first out. -/
structure State where
  /-- registers whose value differs from their reset value, by register-space offset (R4, R8, R21) -/
  regs : List (Nat × Word)
  /-- memory by local address, canonical: DRAM, SRAM, object data and flash (R16, R20) -/
  mem : List Host.Cell
  /-- ranges of `mem` whose unlisted bytes are not the reset contents -/
  fills : List Fill
  /-- operations that have not completed (R33) -/
  ops : List PendingOp
  /-- the next operation tag (R385 TAG) -/
  nextTag : Nat
  /-- completions the issuers have received, latest first (R33) -/
  completions : List Completion
  /-- sources signalled to keeper firmware, latest first (R499) -/
  keeperSignals : List Nat
  fab : Fabric
  tier : Tier
  ep : Endpoint
  lamp : Lamp
  seqs : List Seq
  str : Strands
  /-- the tensor units of the clusters (R162) -/
  clus : List Cluster
  /-- the function table of the nonlinear units, as its section stands (R106, R413); before the first section has been
  applied it reads as zeros (DESIGN CHOICE, log 184) -/
  ftab : List Byte
  bram : Bramble
  vis : Vision
  slv : Solver
  sns : Sensors
  fus : Fusion
  svc : Service
  flt : List Chan
  tim : Time
  boot : Boot
  obs : Obs
  integ : Integrity
  power : Power
  fuses : Fuses
  sec : Security
  /-- the model's counter of free values (DESIGN CHOICE, log 7) -/
  freeCtr : Nat
  pending : List Instr
  deriving DecidableEq, Repr

/-- The faults of a step. None of the block's commands ends in a fault. -/
inductive Fault where
  /-- never raised: the spec's failures are statuses (R44) and error bits; safe -/
  | none
  deriving DecidableEq, Repr

/-- The refusals of a step. -/
inductive Refusal where
  /-- raised by `exec` for a command without a meaning; safe -/
  | notModelled (mnemonic : String)
  deriving DecidableEq, Repr

/-- A filter channel as a switch leaves it, with the banks it keeps (R366, R375). -/
def freshChan (banks : List Bank) : Chan :=
  { resume := false, seen := 0, i := 0, gd := 0, integ := List.replicate 4 0, comb := List.replicate 4 0,
    hb1 := List.replicate 11 0, hb1n := 0, hb2 := List.replicate 11 0, hb2n := 0, fir := List.replicate 128 0, f := 0,
    recs := 0, sat := false, gap := false, peak := 0, rms := 0, env := 0, blkN := 0, blkMax := 0, blkSum := 0,
    level := none, fine := 0, banks := banks }

/-- The coefficient bank of reset (R375). -/
def resetBank : Bank := { ntaps := 1, coefs := 0x1FFFF :: List.replicate 127 0 }

/-- A link before its first training (R380, DESIGN CHOICE, log 54). -/
def freshLink : Link :=
  { trained := false, txSeq := 0, rxSeq := 0xFFFF, replay := [], queue := [], credits := [], wire := []
    turn := [4, 2, 1], t0 := 0 }

/-- An engine without a run. -/
def idleEngine : Engine := { run := none, susp := [] }

/-- The machine right after reset: POR_N has risen with every strap low (R398), and the start-up is in its RESET phase
(R400). Every register stands at the reset value of its register map (R8): no entry is listed. Fuses and OTP are blank
(DESIGN CHOICE, log 4); the configuration memory is a blank one of 512 MiB (DESIGN CHOICE, log 8). -/
def State.reset : State :=
  { regs := [], mem := [], fills := [], ops := [], nextTag := 1, completions := [], keeperSignals := []
    fab := { links := List.replicate 8 freshLink, held := [], altWait := [], onAlt := [] }
    tier := { objs := [], copies := [], gens := [], nextSeq := 0, taken := 0, base := 0, busy := [], media := [],
              promote := [], kept := false }
    ep := { svc := 0, funcMask := false, needPerst := false, rootAtom := true, crs := true, perst := false, msix := [], sent := [], writes := [],
            reads := [], replies := [] }
    lamp := { next := 0, counted := 0, flash := 0, spent := [] }
    seqs := List.replicate 16 { graphs := [], insts := [], nextUid := 0, nextGid := 0 }
    str := { all := [], batches := [], clock := 0
             procs := List.replicate 128 { lines := [], cycle := 0, c0 := 0, last := [63, 63, 63, 63], turn := [4, 2, 1] } }
    clus := List.replicate 8 { queue := [], run := none, susp := [] }
    ftab := []
    bram := { indexes := [], batches := [], nextBatch := 0, asked := [], answers := [], suspended := [] }
    vis := { fqueue := [], bqueue := [], engines := List.replicate 8 idleEngine,
             slots := List.replicate 16 { taken := 0, full := false, fullAt := 0 } }
    slv := { queue := [], units := List.replicate 2 idleEngine, slots := List.replicate 8 { taken := 0, full := false, fullAt := 0 },
             structs := [] }
    sns := { sources := List.replicate 44 { desc := [], count := 0, gap := false, frame := none, spi := none, spiAt := 0,
                                            newest := none, fed := none, feeds := 0 }
             trigs := List.replicate 8 false, trigAt := List.replicate 8 (0, 0), sent := [], shifted := [] }
    fus := { queue := [], eng := idleEngine }
    svc := { inputs := [], aborted := [] }
    flt := List.replicate 64 (freshChan [resetBank, resetBank])
    tim := { n := 0, f := 0, ticks := 0, running := false, step := none, inc0 := 0x800000000, sum := 0, good := 0,
             edges := 0, ppsLast := none, ppsOut := false, ppsAt := 0, got := none, sentAt := [], backAt := [], ptpSlave := [false, false], oneStep := [] }
    boot := { xspi := [], big := true, present := true, image := none, failed := none }
    obs := { bufs := List.replicate 12 { recs := [], lost := 0, post := none }, lers := [], causes := 0, outpin := false }
    integ := { counters := [], checks := [], arbs := [], nextId := 0, journal := [], seq := 0, minutes := 0,
               summary := [], charged := [], windows := 0, tests := [], lastTest := [], fencing := [], content := [],
               loaded := [] }
    power := { temps := [], point := none, margin := false, raise := none, holdAt := 0, vrAck := true, prevLow := 0, vrAlert := false, step := none,
               since := 0, woken := false, wake := none, off := false, halted := [], thermtrip := false }
    fuses := { deviceId := 0, dkeyHash := List.replicate 48 0, lifecycle := 0, pending := 0,
               owners := List.replicate 4 { hash := List.replicate 48 0, valid := false, revoked := false },
               svnImage := 0, svnFw := 0, endorse := List.replicate 96 0, machine := [], dolnexCal := [] }
    sec := { draws := 0, d3 := 0, imgHash := List.replicate 48 0, imgSvn := 0, fwSvn := 0, keySlot := 0, keep := false,
             retire := false, extest := false, bypass := false, tap := [] }
    freeCtr := 0, pending := [] }

end Sys2Proof.Machine
end

