-- ==== Sys2Proof/Machine/Keys.lean ====
section
/-! DEFINITION. Signature blocks, the key rule and the chunk format, which images and test content share (R410, R448,
R463 to R469). -/

namespace Sys2Proof.Machine

/-! ### Signatures (R466, R467, R469) -/

/-- The bytes of a signature block (R466). -/
abbrev sigLen : Nat := 4096

/-- MAGIC, FORMAT and the reserved bytes of a signature block (R467 step 1). -/
def sigForm (b : List Byte) : Bool :=
  b.take 4 == [0x53, 0x58, 0x53, 0x42] && u16At b 4 == 1 && u8At b 7 == 0 && allZero (sliceB b 204 4)
    && allZero (sliceB b 400 (sigLen - 400))

/-- Owner slot `k`. -/
def ownerSlot (s : State) (k : Nat) : OwnerSlot := s.fuses.owners.getD k ⟨zeroBytes 48, false, false⟩

/-- The hash of a key is one owner slot's, valid and unrevoked. -/
def ownerKeyOk (s : State) (k : Nat) (key : List Byte) : Bool :=
  let o := ownerSlot s k
  decide (k < 4) && o.valid && !o.revoked && sha384 key == o.hash

/-- The key check of R467 step 2, at the lifecycle in force. -/
def keyOk (s : State) (slot : Nat) (key : List Byte) : Bool :=
  if s.fuses.lifecycle = 1 then ownerKeyOk s slot key else slot == 0xFF && sha384 key == s.fuses.dkeyHash

/-- Steps 1 to 3 of R467 for a signed text. -/
def sigOk (s : State) (b text : List Byte) : Bool :=
  sigForm b && keyOk s (u8At b 6) (sliceB b 8 96) && ecdsaVerify (sliceB b 8 96) (sliceB b 104 96) text

/-! ### Chunks (R410) -/

/-- A chunk: destination, COLD_ONLY, and its bytes (of a ZERO chunk, zeros). -/
structure Chunk where
  dst  : Nat
  cold : Bool
  zero : Bool
  len  : Nat
  data : List Byte
  deriving DecidableEq, Repr

/-- Cut bytes into chunks: none where a header or its data is not whole, or a reserved bit is set. -/
def parseChunks : Nat → List Byte → Option (List Chunk)
  | 0, bs => if bs.isEmpty then some [] else none
  | k + 1, bs =>
    if bs.isEmpty then some []
    else if bs.length < 16 then none
    else
      let len := u32At bs 8
      let zero := u8At bs 12 / 2 % 2 == 1
      let pad := if zero then 0 else (len + 15) / 16 * 16
      if bs.length < 16 + pad ∨ 4 ≤ u8At bs 12 ∨ !allZero (sliceB bs 13 3) then none
      else
        let c : Chunk := ⟨u64At bs 0, u8At bs 12 % 2 == 1, zero, len, if zero then [] else sliceB bs 16 len⟩
        (parseChunks k (bs.drop (16 + pad))).map (c :: ·)

/-- The chunks of a byte string. -/
def chunksOf (bs : List Byte) : Option (List Chunk) := parseChunks (bs.length / 16 + 1) bs

/-! ### Test content (R448) -/

/-- The scratch range of test content is 16 MiB. -/
abbrev scratchLen : Nat := 0x1000000

/-- The header of test content. -/
def testHeaderOk (b : List Byte) : Bool :=
  let scr := u64At b 24
  b.take 4 == [0x53, 0x58, 0x54, 0x43] && u16At b 4 == 1 && u16At b 6 == 0 && decide (1 ≤ u32At b 16)
    && decide (u32At b 16 ≤ 65535) && scr % 0x100000 == 0 && decide (0x01000000000000 ≤ scr)
    && decide (scr + scratchLen ≤ 0x01000800000000) && allZero (sliceB b 32 32)

/-- One test entry, header and chunks. -/
def testEntryOk (e : List Byte) : Bool :=
  decide (u16At e 0 ≤ 4) && u16At e 2 == 0 && decide (u32At e 12 < scratchLen)
    && decide (u32At e 16 + u32At e 20 ≤ scratchLen) && allZero (sliceB e 28 4)
    && (match chunksOf (e.drop 32) with
        | some cs => cs.all (fun c => decide (c.dst + c.len ≤ scratchLen))
        | none => false)

/-- The entries of test content behind its header, as far as their lengths go: `n` entries, and what follows them. -/
def testEntries : Nat → List Byte → Option (List (List Byte) × List Byte)
  | 0, bs => some ([], bs)
  | n + 1, bs =>
    let len := u32At bs 8
    if bs.length < 32 ∨ len < 32 ∨ len % 16 ≠ 0 ∨ bs.length < len then none
    else (testEntries n (bs.drop len)).map (fun r => (bs.take len :: r.1, r.2))

/-- The entries of well-formed test content. -/
def contentEntries (b : List Byte) : Option (List (List Byte)) :=
  if b.length < 64 ∨ !testHeaderOk b then none
  else match testEntries (u32At b 16) (b.drop 64) with
    | some (es, []) => if es.all testEntryOk then some es else none
    | _ => none

/-- TCVER of the content in use; 0 without content. -/
def tcver (b : List Byte) : Nat := u64At b 8

end Sys2Proof.Machine
end

