-- ==== Sys2Proof/Machine/Ops.lean ====
section
/-! DEFINITION. The named operations every meaning is built from: registers and their fields, interrupts, raw memory,
addresses and the checks of 02_addresses_and_memory_operations.md, packets put on links, buoys, and the completion of
an operation. -/

namespace Sys2Proof.Machine

/-! ### Status codes (R44) -/

abbrev stOK : Nat := 0x00
abbrev stACCESS : Nat := 0x01
abbrev stUNMAPPED : Nat := 0x02
abbrev stALIGNMENT : Nat := 0x03
abbrev stLIMIT : Nat := 0x04
abbrev stNO_ROUTE : Nat := 0x05
abbrev stLINK_FAILED : Nat := 0x06
abbrev stUNCORRECTABLE : Nat := 0x07
abbrev stHOST_ABSENT : Nat := 0x08
abbrev stTIMEOUT : Nat := 0x09
abbrev stWATCH_FAILED : Nat := 0x0A
abbrev stNO_RESOURCE : Nat := 0x0B
abbrev stPARTIAL : Nat := 0x0C
abbrev stBAD_RECORD : Nat := 0x0D

/-! ### Registers -/

/-- A word with bits `[hi:lo]` replaced by `v`. -/
def putBits (w : Word) (hi lo v : Nat) : Word :=
  (w &&& ~~~(BitVec.ofNat 64 ((2 ^ (hi + 1 - lo) - 1) <<< lo))) |||
    BitVec.ofNat 64 ((v % 2 ^ (hi + 1 - lo)) <<< lo)

/-- The contents of the register at a register-space offset. -/
def State.reg (s : State) (off : Nat) : Word := kvGet regReset s.regs off

/-- Hardware sets a register. -/
def State.setReg (s : State) (off : Nat) (w : Word) : State :=
  { s with regs := kvSet regReset s.regs off w }

/-- A field of a register, as a number. -/
def State.fld (s : State) (off hi lo : Nat) : Nat := bitsOf (s.reg off) hi lo

/-- Hardware sets a field of a register. -/
def State.setFld (s : State) (off hi lo v : Nat) : State := s.setReg off (putBits (s.reg off) hi lo v)

/-- A bit of a register. -/
def State.bit (s : State) (off i : Nat) : Bool := bitOf (s.reg off) i

/-- Hardware sets or clears a bit of a register. -/
def State.setBit (s : State) (off i : Nat) (b : Bool) : State := s.setFld off i i (if b then 1 else 0)

/-- Add to a count field that saturates at its width. -/
def State.satFld (s : State) (off hi lo add : Nat) : State :=
  s.setFld off hi lo (satAdd (hi + 1 - lo) (s.fld off hi lo) add)

/-- Add to a count field that wraps at its width. -/
def State.wrapFld (s : State) (off hi lo add : Nat) : State := s.setFld off hi lo (s.fld off hi lo + add)

/-- The next free-value counter (DESIGN CHOICE, log 7). -/
def State.bumpFree (s : State) : State := { s with freeCtr := s.freeCtr + 1 }

/-- The codes whose condition holds. -/
def causes (l : List (Bool × Nat)) : List Nat := (l.filter (·.1)).map (·.2)

/-- The code a refusal reports: 0 when nothing applies, the one that applies, and of several a free one where the spec
gives no order among them (DESIGN CHOICE, log 9). -/
def pickCode (s : State) (codes : List Nat) : State × Nat :=
  (if codes.length ≤ 1 then s else s.bumpFree, codes.getD (Config.freeBelow s.freeCtr codes.length) 0)

/-- N[63:0], the stamp of every record (R318, R321). -/
def State.now (s : State) : Nat := s.tim.n % 2 ^ 64

/-- The device's own node number (R386). -/
def State.node (s : State) : Nat := s.fld Reg.fabNode 9 0

/-! ### Interrupts (R498, R499, R429) -/

/-- Can an MSI-X message of vector `v` leave now? -/
def msixOpen (s : State) (v : Nat) : Bool :=
  !s.ep.funcMask && !s.bit (Reg.hstMsixTab (2 * v + 1)) 32 && s.bit Reg.hstStat 8 && !s.bit Reg.hstStat 9
    && decide (s.fld Reg.hstStat 3 0 ≠ 0)

/-- Send the message of vector `v`: a write of the entry's data to the entry's address. -/
def msixSend (s : State) (v : Nat) : State :=
  { s with ep := { s.ep with
      msix := (s.reg (Reg.hstMsixTab (2 * v)), BitVec.ofNat 64 (s.fld (Reg.hstMsixTab (2 * v + 1)) 31 0)) :: s.ep.msix
      sent := v :: s.ep.sent } }

/-- An MSI-X message falls due on vector `v`: sent, or held in the PBA (R429). -/
def msixDue (s : State) (v : Nat) : State :=
  if msixOpen s v then msixSend s v else s.setBit Reg.hstMsixPba v true

/-- Send every held message whose way is open again (R429). -/
def msixRelease (s : State) : State :=
  (List.range 64).foldl (fun s v =>
    if s.bit Reg.hstMsixPba v && msixOpen s v then msixSend (s.setBit Reg.hstMsixPba v false) v else s) s

/-- Deliver newly asserted sources to every target of INT_ROUTE: those on one vector make one message (R499). -/
def deliverAll (s : State) (srcs : List Nat) : State :=
  let on := fun (i : Nat) => srcs.filter (fun n => bitOf (s.reg (Reg.intRoute n)) i)
  let s := (((on 7).map (fun n => bitsOf (s.reg (Reg.intRoute n)) 5 0)).eraseDups).foldl msixDue s
  { s with keeperSignals := (on 8).reverse ++ s.keeperSignals }

/-- Deliver a newly asserted source. -/
def deliver (s : State) (src : Nat) : State := deliverAll s [src]

/-- A rising edge of source `src` (R498, R499), before the freeze trigger sees it. -/
def raiseCore (s : State) (src : Nat) : State :=
  let k := src / 64
  let b := src % 64
  if s.bit (Reg.intPend k) b then s
  else
    let s := s.setBit (Reg.intPend k) b true
    if s.bit (Reg.intEn k) b then deliver s src else s

/-- Hardware sets a sticky bit; a rising edge of it raises its source (R7), before the freeze trigger sees it. -/
def stickyCore (s : State) (off bit : Nat) (src : Option Nat) : State :=
  if s.bit off bit then s
  else
    let s := s.setBit off bit true
    match src with
    | some n => raiseCore s n
    | none => s

/-! ### Raw memory -/

/-- What an unlisted local address reads as: the fill of its range, an erased page of flash (R20), else 0
(DESIGN CHOICE, log 5; DEDUCED, log 6). -/
def memDefault (fills : List Fill) (a : Nat) : Byte :=
  match fills.find? (fun f => decide (f.lo ≤ a) && decide (a < f.lo + f.len)) with
  | some f => match f.stamp with
    | some t => Config.freeByte t a
    | none => 0
  | none => if a >>> 48 = 3 then 0xFF else 0

/-- What an unlisted local address of `s` reads as. -/
def State.dflt (s : State) : Nat → Byte := memDefault s.fills

/-- The byte at a local address. -/
def State.byteAt (s : State) (a : Nat) : Byte := kvGet s.dflt s.mem a

/-- `n` bytes from a local address, without any check. -/
def State.load (s : State) (a n : Nat) : List Byte := kvRange s.dflt s.mem a n

/-- Store bytes at a local address, without any check. -/
def State.store (s : State) (a : Nat) (bs : List Byte) : State :=
  { s with mem := kvSetAll s.dflt s.mem a bs }

/-- The 64-bit word at a local address (R3). -/
def State.word (s : State) (a : Nat) : Word := BitVec.ofNat 64 (leNat (s.load a 8))

/-- Store a 64-bit word (R3). -/
def State.storeWord (s : State) (a : Nat) (w : Word) : State := s.store a (wordBytes w)

/-- Give a range new contents: zeros, or unspecified bytes (DEDUCED, log 6). -/
def State.fillRange (s : State) (lo len : Nat) (zero : Bool) : State :=
  let f : Fill := ⟨lo, len, if zero then none else some s.freeCtr⟩
  { s with
      fills := f :: s.fills.filter (fun g => !(decide (lo ≤ g.lo) && decide (g.lo + g.len ≤ lo + len)))
      mem := kvDrop s.mem lo len
      freeCtr := if zero then s.freeCtr else s.freeCtr + 1 }

/-! ### Addresses (R16 to R22) -/

/-- The node of a global address. -/
def nodeOf (a : Word) : Nat := bitsOf a 63 54

/-- The local address within its node. -/
def localOf (a : Word) : Nat := bitsOf a 53 0

/-- A global address of this node. -/
def State.global (s : State) (la : Nat) : Word := BitVec.ofNat 64 (s.node <<< 54 ||| la)

/-- The region selector of a local address (R16). -/
def regionOf (la : Nat) : Nat := (la >>> 48) % 64

abbrev dramBase : Nat := 0x01000000000000
abbrev sramBase : Nat := 0x02000000000000
abbrev flashBase : Nat := 0x03000000000000
abbrev hostBase : Nat := 0x3E000000000000
abbrev regBase : Nat := 0x3F000000000000
abbrev dramSize : Nat := 0x800000000
abbrev sramSize : Nat := 0xE000000
abbrev flashSize : Nat := 0x80000000000
/-- One cluster's share of the SRAM direct region (R19). -/
abbrev cluStride : Nat := 0x1C00000

/-- Where tile `t`'s SRAM of cluster `c` begins (R19). -/
def tileSram (c t : Nat) : Nat := sramBase + c * cluStride + t * 0x80000

/-- Where the cluster SRAM of cluster `c` begins (R19). -/
def cluSram (c : Nat) : Nat := sramBase + c * cluStride + 0xC00000

/-- Do the bytes leave their region selector (R24)? -/
def crossesRegion (la len : Nat) : Bool := la >>> 48 != (la + len - 1) >>> 48

/-- What an access wants of a place. -/
inductive Want where
  | read
  | write
  | atomic
  | buoy
  deriving DecidableEq, Repr

/-- Is the tier manager enabled? -/
def tierOn (s : State) : Bool := s.bit Reg.tirCtl 0

/-- The object at an object-range address that new accesses see (R112, R117). -/
def objAt (s : State) (a : Nat) : Option Obj :=
  s.tier.objs.find? (fun o => decide (o.base ≤ a) && decide (a < o.base + o.size) && decide (o.state ≠ 4))

/-- The object with an ID. -/
def objOf (s : State) (id : Nat) : Option Obj := s.tier.objs.find? (·.id == id)

/-- Do allocated objects cover every byte from `a` to `e` (R18)? -/
def objCovers (s : State) : Nat → Nat → Nat → Bool
  | 0, _, _ => false
  | k + 1, a, e =>
    if e ≤ a then true
    else match objAt s a with
      | none => false
      | some o => objCovers s k (o.base + o.size) e

/-- Is every object that holds a byte of the span writable (R113)? -/
def objWritable (s : State) (a len : Nat) : Bool :=
  s.tier.objs.all (fun o =>
    o.state == 1 || decide (o.base + o.size ≤ a) || decide (a + len ≤ o.base) || o.state == 4)

/-- Where managed T2 begins, as a local address (R110). -/
def managedT2 (s : State) : Nat := dramBase + s.fld Reg.tirT2Base 14 0 * 0x100000

/-- Bytes of managed T1 at the top of each cluster's SRAM (R110). -/
def managedT1 (s : State) : Nat := s.fld Reg.tirCtl 12 8 * 0x100000

/-- The staging area, exempt until RUNNING (R111, R408). -/
def inStaging (s : State) (la len : Nat) : Bool :=
  decide (s.fld Reg.gctlBoot 3 0 ≠ 7) && decide (0x010007F0000000 ≤ la) && decide (la + len ≤ dramBase + dramSize)

/-- Does the span touch a managed part of T1 or T2 through a direct region while EN is 1 (R111)? -/
def hitsManaged (s : State) (la len : Nat) : Bool :=
  if !tierOn s then false
  else if regionOf la = 1 then decide (managedT2 s < la + len) && !inStaging s la len
  else if regionOf la = 2 then
    (List.range 8).any (fun c =>
      let top := sramBase + (c + 1) * cluStride
      decide (0 < managedT1 s) && decide (top - managedT1 s < la + len) && decide (la < top))
  else false

/-- Does a DRAM span meet the MiB range at `base`, `size` from the start of DRAM? -/
def meetsMib (la len base size : Nat) : Bool :=
  decide (la < dramBase + (base + size) * 0x100000) && decide (dramBase + base * 0x100000 < la + len)

/-- Is a write to DRAM refused because it meets the Bramble area (R197, R209) or the solver area (R343)? -/
def guardedArea (s : State) (la len : Nat) : Bool :=
  let b := s.reg Reg.brcArea
  let v := s.reg Reg.slvArea
  let inBram := s.bit Reg.brcCtl 0 && meetsMib la len (bitsOf b 34 20) (bitsOf b 14 0)
  let off := la - (dramBase + bitsOf b 34 20 * 0x100000)
  let x := off / 0x4000
  let o := off % 0x4000
  let st := s.fld Reg.brcIdxStat (2 * x + 1) (2 * x)
  let header := decide (dramBase + bitsOf b 34 20 * 0x100000 ≤ la) && decide (x < 16)
    && (decide (o + len ≤ 64) || (decide (8192 ≤ o) && decide (o + len ≤ 16384))) && (st == 0 || st == 2)
  (inBram && !header) || (s.bit Reg.slvCtl 0 && meetsMib la len (bitsOf v 34 20) (bitsOf v 14 0))

/-- The register-space offset of a local address. -/
def regOff (la : Nat) : Nat := la - regBase

/-- Is host window access possible, and in range (R49)? -/
def hostCheck (s : State) (la len : Nat) : Nat :=
  if !s.bit Reg.hstWinCtl 0 || !s.bit Reg.hstStat 8 || s.bit Reg.hstStat 9 || s.fld Reg.hstStat 3 0 = 0 then
    stHOST_ABSENT
  else if 2 ^ s.fld Reg.hstWinCtl 13 8 < la - hostBase + len then stUNMAPPED
  else stOK

/-- May node `remote` write this register-space offset (R475)? -/
def remoteWriteOk (s : State) (remote : Option Nat) (off : Nat) : Bool :=
  match remote with
  | none => true
  | some n =>
    if 0x50000 ≤ off ∧ off < 0x60000 then false
    else s.fld Reg.secStat 1 0 = 0 || s.fld Reg.secDebug 1 0 = 3
      || (s.bit Reg.secRemote 0 && s.fld Reg.secRemote 25 16 = n)

/-- The register-space checks, lengths and alignment first (R22, R25, R31, R475). -/
def regCheck (s : State) (la len : Nat) (w : Want) (remote : Option Nat) : Nat :=
  let off := regOff la
  match w with
  | .read =>
    if ¬(len = 4 ∨ len = 8) ∨ la % len ≠ 0 then stALIGNMENT
    else if (findReg (off / 8 * 8)).isNone then stUNMAPPED
    else stOK
  | .write =>
    if len ≠ 8 then stACCESS
    else if la % 8 ≠ 0 then stALIGNMENT
    else if (findReg off).isNone then stUNMAPPED
    else if remoteWriteOk s remote off then stOK
    else stACCESS
  | _ => if (findReg (off / 8 * 8)).isNone then stUNMAPPED else stACCESS

/-- The status of an access to own-node bytes before any byte moves (R18 to R22, R25, R26, R31, R49, R111). The span
lies within one region selector. -/
def placeCheck (s : State) (la len : Nat) (w : Want) (remote : Option Nat) : Nat :=
  let aligned := if (w = .atomic ∨ w = .buoy) ∧ la % 8 ≠ 0 then stALIGNMENT else stOK
  match regionOf la with
  | 0 =>
    if !tierOn s || !objCovers s (s.tier.objs.length + 1) la (la + len) then stUNMAPPED
    else if w ≠ .read && !objWritable s la len then stACCESS
    else aligned
  | 1 =>
    if dramBase + dramSize < la + len then stUNMAPPED
    else if hitsManaged s la len then stACCESS
    else if w ≠ .read && guardedArea s la len then stACCESS
    else aligned
  | 2 =>
    if sramBase + sramSize < la + len then stUNMAPPED
    else if hitsManaged s la len then stACCESS
    else aligned
  | 3 =>
    if flashBase + flashSize < la + len then stUNMAPPED
    else if w = .read then stOK
    else stACCESS
  | 62 =>
    if w = .buoy then stACCESS
    else
      let h := hostCheck s la len
      if h ≠ stOK then h else aligned
  | 63 => if regBase + 2 ^ 32 < la + len then stUNMAPPED else regCheck s la len w remote
  | _ => stUNMAPPED

/-! ### Putting packets on links (R381 to R391) -/

/-- The header and data bytes of a packet (R385). -/
def packetBytes (p : Packet) : List Byte :=
  [p.ptype, p.ctl] ++ leBytes 2 p.src.toNat ++ leBytes 2 p.dst.toNat ++ leBytes 2 p.data.length
    ++ wordBytes p.addr ++ wordBytes p.aux ++ leBytes 4 p.tag.toNat ++ [p.status, p.hops] ++ zeroBytes 2 ++ p.data

/-- Cut bytes into payloads of 244 bytes. -/
def payloads : Nat → List Byte → List (List Byte)
  | 0, _ => []
  | _ + 1, [] => []
  | k + 1, bs => bs.take 244 :: payloads k (bs.drop 244)

/-- New flits for the bytes that a packet has still to send; it ends in the last one. -/
def packetFlits (p : Packet) (vl : Bool) (bs : List Byte) : List Flit :=
  let ps := payloads 20 bs
  ps.zipIdx.map (fun e =>
    ⟨0, p.ctl.toNat % 4, vl, e.1, 0, if e.2 + 1 = ps.length then [p] else []⟩)

/-- The room that the stream's last waiting flit has (R384, R385). -/
def streamRoom (q : List Flit) (cls : Nat) (vl : Bool) : Option (Nat × Nat) :=
  ((List.range q.length).reverse.find? (fun i =>
    match q[i]? with
    | some f => f.cls == cls && f.vl == vl
    | none => false)).bind (fun i => (q[i]?).map (fun f => (i, 244 - f.payload.length)))

/-- A packet joins its stream, back to back with the one before it while that one's last flit still waits (R384,
R385). -/
def joinStream (q : List Flit) (p : Packet) (vl : Bool) : List Flit :=
  let bs := packetBytes p
  match streamRoom q (p.ctl.toNat % 4) vl with
  | none => q ++ packetFlits p vl bs
  | some (i, room) =>
    let rest := bs.drop room
    q.modify i (fun f => { f with
      payload := f.payload ++ bs.take room, ends := f.ends ++ (if rest = [] then [p] else []) }) ++ packetFlits p vl rest

/-- The 256 bytes of a flit (R381); a payload that packets do not fill ends in 0 (DESIGN CHOICE, log 54). -/
def flitBytes (seq ack ftype cls : Nat) (vl : Bool) (credit : Nat) (payload : List Byte) : List Byte :=
  let b := leBytes 2 seq ++ leBytes 2 ack ++ leBytes 1 (ftype + 4 * cls + (if vl then 16 else 0)) ++ leBytes 1 credit
    ++ zeroBytes 2 ++ sliceB payload 0 244
  b ++ leBytes 4 (crc32 b).toNat

/-- A DATA flit as it leaves: its ACK names the last flit received in order. -/
def Flit.bytes (f : Flit) (ack : Nat) : List Byte := flitBytes f.seq ack 1 f.cls f.vl 0 f.payload

/-- The link layer of link `l`. -/
def linkOf (s : State) (l : Nat) : Link := s.fab.links.getD l ⟨false, 0, 0xFFFF, [], [], [], [], [], 0⟩

/-- Change the link layer of link `l`. -/
def State.modLink (s : State) (l : Nat) (f : Link → Link) : State :=
  { s with fab := { s.fab with links := s.fab.links.modify l f } }

/-- The credit index of a flit (R381 CREDIT). -/
def creditIdx (cls : Nat) (vl : Bool) : Nat := cls * 2 + (if vl then 1 else 0)

/-- The power state, 0 to 3 for P0 to P3 (R478). -/
def pState (s : State) : Nat := s.fld Reg.pwrState 2 0

/-- The Lamp period in ns (R51). -/
def lampPeriod (s : State) : Nat := s.fld Reg.lmpCtl 34 8

/-- The most recent edge number (R52). -/
def lampEdgeNo (s : State) : Nat := (s.reg Reg.lmpEdge).toNat

/-- Do Lamp edges occur (R52, R56)? -/
def lampOn (s : State) : Bool :=
  s.bit Reg.lmpCtl 0 && decide (pState s < 2) && s.tim.running && !s.power.thermtrip && !s.sec.extest

/-- What the C0 reservation of resource `r` (its place in LMP_RESV) comes to in one Lamp period, of `num / den` units in
each ns; none while no Lamp period passes (R71; DESIGN CHOICE, log 168). -/
def resvUnits (s : State) (r num den : Nat) : Option Nat :=
  if lampOn s then some (s.fld Reg.lmpResv (8 * r + 7) (8 * r) * lampPeriod s * num / (100 * den)) else none

/-- C0 demand has gone beyond the reservation of resource `r`: counted once in a Lamp period (R71). -/
def exceedResv (s : State) (r : Nat) : State :=
  if s.lamp.spent.contains r then s
  else
    let s := s.satFld Reg.lmpResvExceed (8 * r + 7) (8 * r) 1
    let s := s.setBit Reg.lmpStatus 4 true
    { s with lamp := { s.lamp with spent := r :: s.lamp.spent } }

/-- The T0 flits of one link that the FABRIC reservation covers in a Lamp period: a flit of 256 bytes at 53.125 GB/s
(R71, R379, R381). -/
def linkShare (s : State) : Option Nat := resvUnits s 2 53125 256000

/-- Does the class of a flit count as `cls` at the arbiter: beyond the reservation T0 is served as T1 (R71, R384)? -/
def servedAs (beyond : Bool) (cls c : Nat) : Bool := if beyond ∧ c = 0 then cls == 1 else c == cls

/-- The first waiting flit served as a class whose stream holds credit. -/
def firstReady (beyond : Bool) (k : Link) (cls : Nat) : Option Nat :=
  (List.range k.queue.length).find? (fun i =>
    match k.queue[i]? with
    | some f => servedAs beyond cls f.cls && decide (0 < k.credits.getD (creditIdx f.cls f.vl) 0)
    | none => false)

/-- The flit that the arbiter picks, and what T1 to T3 may still send of their 4, 2 and 1 flits of a round (R72, R384): T0
first, within the FABRIC share (R71), then in weighted round robin, which within a round serves the lower class first
(DESIGN CHOICE, log 12). -/
def nextFlit (beyond : Bool) (k : Link) : Option (Nat × List Nat) :=
  match firstReady beyond k 0 with
  | some i => some (i, k.turn)
  | none =>
    let ready := [1, 2, 3].filter (fun c => (firstReady beyond k c).isSome)
    let left := if ready.any (fun c => decide (0 < k.turn.getD (c - 1) 0)) then k.turn else [4, 2, 1]
    match ready.find? (fun c => decide (0 < left.getD (c - 1) 0)) with
    | none => none
    | some c => (firstReady beyond k c).map (fun i => (i, left.modify (c - 1) (· - 1)))

/-- Has a link sent the T0 flits of its share? -/
def shareSpent (share : Option Nat) (k : Link) : Bool :=
  match share with
  | some n => decide (n ≤ k.t0)
  | none => false

/-- Move waiting flits onto the wire while fewer than 64 are unacknowledged and credit lasts (R382, R384); `share` is
what T0 may send first in a Lamp period (R71). -/
def pumpLink (share : Option Nat) : Nat → Link → Link
  | 0, k => k
  | n + 1, k =>
    if 64 ≤ k.replay.length then k
    else match nextFlit (shareSpent share k) k with
      | none => k
      | some (i, turn) =>
        match k.queue[i]? with
        | none => k
        | some f =>
          let f := { f with seq := k.txSeq }
          pumpLink share n { k with
            turn := turn
            t0 := if f.cls = 0 ∧ !shareSpent share k then k.t0 + 1 else k.t0
            txSeq := (k.txSeq + 1) % 65536
            queue := k.queue.eraseIdx i
            replay := k.replay ++ [f]
            wire := f.bytes k.rxSeq :: k.wire
            credits := k.credits.modify (creditIdx f.cls f.vl) (· - 1) }

/-- Do the T0 flits that wait for a link go beyond its share of the period (R71)? -/
def overShare (share : Option Nat) (k : Link) : Bool :=
  match share with
  | some n => decide (n < k.t0 + (k.queue.filter (·.cls == 0)).length) && k.queue.any (·.cls == 0)
  | none => false

/-- Send what link `l` may send; every DATA flit sent counts 244 bytes (R492). -/
def pump (s : State) (l : Nat) : State :=
  let share := linkShare s
  let s := if overShare share (linkOf s l) then exceedResv s 2 else s
  let n := (linkOf s l).queue.length
  let s := s.modLink l (fun k => pumpLink share k.queue.length k)
  let sent := n - (linkOf s l).queue.length
  if sent = 0 then s
  else s.setReg (Reg.obsLink (2 * l)) (s.reg (Reg.obsLink (2 * l)) + BitVec.ofNat 64 (244 * sent))

/-- Put a packet on link `l`; it leaves on VL 1 from a DATELINE link on (R391). -/
def transmit (s : State) (l : Nat) (p : Packet) (vl : Bool) : State :=
  let vl := vl || s.bit (Reg.fabLinkCtl l) 1
  pump (s.modLink l (fun k => { k with queue := joinStream k.queue p vl })) l

/-- The state code of link `l` (R380). -/
def linkState (s : State) (l : Nat) : Nat := s.fld (Reg.fabLinkStat l) 1 0

/-- What the routing table says of a destination (R387). -/
inductive Route where
  | noRoute
  | failed
  | hold
  | via (l : Nat) (alt : Bool)
  deriving DecidableEq, Repr

/-- The route to a node by entry `dst` of the own table (R387). -/
def routeTo (s : State) (dst : Nat) : Route :=
  let e := s.reg (Reg.fabRoute dst)
  let pri := bitsOf e 2 0
  let alt := bitsOf e 6 4
  let altEn := bitOf e 7
  if !bitOf e 8 then .noRoute
  else if linkState s pri = 2 then .via pri false
  else if altEn && linkState s alt = 2 then .via alt true
  else if linkState s pri = 3 && (!altEn || linkState s alt = 3) then .failed
  else .hold

/-- What became of a packet given to the routing. -/
inductive SendRes where
  | sent
  | held
  | failed (status : Nat)
  deriving DecidableEq, Repr

/-- Hold a packet at this node (R387, R388). -/
def holdPacket (s : State) (dst : Nat) (p : Packet) (vl own : Bool) : State :=
  { s with fab := { s.fab with held := s.fab.held ++ [⟨dst, vl, own, p⟩] } }

/-- Route a packet toward `dst`: put it on a link, hold it, or say why it cannot go (R387, R388). Packets of a
destination with others held stay in order behind them. -/
def sendPacket (s : State) (dst : Nat) (p : Packet) (vl own : Bool) : State × SendRes :=
  match routeTo s dst with
  | .noRoute => (s, .failed stNO_ROUTE)
  | .failed => (s, .failed stLINK_FAILED)
  | .hold => (holdPacket s dst p vl own, .held)
  | .via l alt =>
    if s.fab.altWait.contains dst then (holdPacket s dst p vl own, .held)
    else if alt && linkState s (bitsOf (s.reg (Reg.fabRoute dst)) 2 0) = 3 && !s.fab.onAlt.contains dst then
      let s := { s with fab := { s.fab with altWait := dst :: s.fab.altWait, onAlt := dst :: s.fab.onAlt } }
      (holdPacket s dst p vl own, .held)
    else
      let s := if alt then s else { s with fab := { s.fab with onAlt := s.fab.onAlt.filter (· != dst) } }
      (transmit s l p vl, .sent)

/-- A packet of this node. -/
def ownPacket (s : State) (ptype cls aop dst : Nat) (addr aux : Word) (tag status : Nat) (data : List Byte) : Packet :=
  { ptype := BitVec.ofNat 8 ptype, ctl := BitVec.ofNat 8 (cls % 4 + 4 * (aop % 8)), src := BitVec.ofNat 10 s.node,
    dst := BitVec.ofNat 10 dst, addr := addr, aux := aux, tag := BitVec.ofNat 32 tag,
    status := BitVec.ofNat 8 status, hops := 0, data := data }

/-- Answer a request of another node (R385): a packet of the request's class; a route that fails loses it. -/
def respond (s : State) (node tag cls ptype status : Nat) (aux : Word) (data : List Byte) : State :=
  (sendPacket s node (ownPacket s ptype cls 0 node 0 aux tag status data) false false).1

/-! ### Buoys (R31, R32, R35) -/

/-- The word of a buoy after one increment (R32). -/
def buoyWord (w : Word) (ok : Bool) : Word :=
  if ok then putBits w 47 0 (bitsOf w 47 0 + 1) else putBits w 63 48 (satAdd 16 (bitsOf w 63 48) 1)

/-- The condition of a WATCH on a buoy's word (R35): the status it completes with. -/
def watchCond (w cond : Word) : Option Nat :=
  let f := bitsOf cond 63 48
  if f ≠ 0 ∧ f ≤ bitsOf w 63 48 then some stWATCH_FAILED
  else if (bitsOf w 47 0 + 2 ^ 48 - bitsOf cond 47 0) % 2 ^ 48 < 2 ^ 47 then some stOK
  else none

/-- The status of naming a buoy on the own node (R31). -/
def buoyCheck (s : State) (la : Nat) : Nat :=
  if crossesRegion la 8 then stUNMAPPED else placeCheck s la 8 .buoy none

end Sys2Proof.Machine
end

