-- ==== Sys2Proof/Machine/Obs.lean ====
section
/-! DEFINITION. Observation as every unit uses it: trace records, last-event rings and the freeze (R483 to R496). -/

namespace Sys2Proof.Machine

/-- The debug level (R474). -/
def debugLevel (s : State) : Nat := s.fld Reg.secDebug 1 0

/-- Is the freeze standing (R490)? -/
def frozen (s : State) : Bool := s.bit Reg.obsStat 16

/-- The trace buffer of a unit (R486); none for the bonded DRAM. -/
def traceBufOf (unit : Nat) : Option Nat :=
  if unit < 8 then some unit
  else if unit < 136 then some ((unit - 8) / 16)
  else if unit < 144 then some 8
  else if unit < 147 then some 9
  else if unit < 163 then some 10
  else if 164 ≤ unit ∧ unit < 190 then some 11
  else none

/-- The records one trace buffer holds (R486). -/
abbrev traceCap : Nat := 8192

/-- The records of a TRIGGER capture kept from before the freeze. -/
def trPre (s : State) (n : Nat) : Nat := s.fld (Reg.obsTrCtl n) 39 27

/-- The trace buffer's POST, held at 8,190 − PRE (R488). -/
def trPost (s : State) (n : Nat) : Nat := min (s.fld (Reg.obsTrCtl n) 52 40) (8190 - trPre s n)

/-- The buffer `n`. -/
def trBuf (s : State) (n : Nat) : TraceBuf := s.obs.bufs.getD n ⟨[], 0, none⟩

/-- Replace buffer `n`. -/
def State.setTrBuf (s : State) (n : Nat) (b : TraceBuf) : State :=
  { s with obs := { s.obs with bufs := s.obs.bufs.set n b } }

/-- Does a record that has come stand before `x`: records with equal stamps stand in ascending UNIT order (R486)? The records
FREEZE and LOST keep their places. -/
def ObsRec.ahead (r x : ObsRec) : Bool :=
  x.stamp == r.stamp && decide (r.unit < x.unit) && x.event != 0x0E && x.event != 0x0F && r.event != 0x0E
    && r.event != 0x0F

/-- The records of a buffer with one more: in STAMP order, then UNIT order (R486). -/
def addRec (rs : List ObsRec) (r : ObsRec) : List ObsRec :=
  let tail := (rs.reverse.takeWhile r.ahead).reverse
  rs.take (rs.length - tail.length) ++ r :: tail

/-- Buffer `n` takes a record, under its full-buffer policy (R488, R490). Under STALL the unit waits at its event until
a slot frees, so no record is lost; that wait itself is timing, which the model leaves out. A FREEZE record is always
written: a STOP buffer that is full takes it too (DESIGN CHOICE, log 200). -/
def trPush (s : State) (n : Nat) (r : ObsRec) (forced : Bool) : State :=
  let b := trBuf s n
  let full := decide (traceCap ≤ b.recs.length)
  let s := if full then stickyCore s Reg.obsErr 3 (some 200) else s
  match s.fld (Reg.obsTrCtl n) 23 22 with
  | 0 =>
    if frozen s && !forced then s
    else if full then s.setTrBuf n { b with recs := addRec (b.recs.drop 1) r, lost := b.lost + 1 }
    else s.setTrBuf n { b with recs := addRec b.recs r }
  | 1 =>
    if frozen s && !forced then s
    else if full && !forced then s.setTrBuf n { b with lost := b.lost + 1 }
    else s.setTrBuf n { b with recs := addRec b.recs r }
  | 2 =>
    match b.post with
    | none => s.setTrBuf n { b with recs := addRec (if full then b.recs.drop 1 else b.recs) r }
    | some 0 => s.satFld (Reg.obsTrCount n) 63 32 1
    | some (k + 1) =>
      let s := s.setTrBuf n { b with recs := addRec b.recs r, post := some k }
      if k = 0 then s.setBit Reg.obsStat n true else s
  | _ => if frozen s && !forced then s else s.setTrBuf n { b with recs := addRec b.recs r }

/-- Do the last-event rings take entries: not during a freeze (R490), nor before a warm start is RUNNING (R491)? -/
def lerOpen (s : State) : Bool :=
  !frozen s && !(s.fld Reg.gctlBoot 5 4 == 1 && s.fld Reg.gctlBoot 3 0 != 7)

/-- A unit's last-event ring takes an entry (R491). -/
def lerPush (s : State) (r : ObsRec) : State :=
  let upd := fun (l : Ler) => { l with head := l.head + 1, recs := (r :: l.recs).take 64 }
  let ls := s.obs.lers
  { s with obs := { s.obs with
      lers := if ls.any (·.unit == r.unit) then ls.map (fun l => if l.unit == r.unit then upd l else l)
              else ls ++ [upd ⟨r.unit, 0, []⟩] } }

/-- The ATTR byte (R485). -/
def obsAttr (s : State) (cls dom : Nat) (global : Bool) : Nat :=
  cls % 4 + dom % 16 * 4 + (if global then 64 else 0) + (if s.bit Reg.timStatus 0 then 0 else 128)

/-- The 32 bytes of an observation record (R485). -/
def obsBytes (r : ObsRec) : List Byte :=
  leBytes 8 r.stamp ++ leBytes 2 r.unit ++ leBytes 1 r.event ++ leBytes 1 r.attr ++ leBytes 4 r.tag
    ++ leBytes 8 r.arg0 ++ leBytes 8 r.arg1

/-- The domain of work launched by sequencer `n` (R484). -/
def seqDomain (s : State) (n : Nat) : Nat := s.fld Reg.obsSeqdom (4 * n + 3) (4 * n)

/-- The units of a trace buffer (R486). -/
def bufUnits (n : Nat) : List Nat := (List.range 190).filter (fun u => traceBufOf u == some n)

/-- A record of a buffer itself, FREEZE or LOST: the spec does not say which of its units it names (free, log 7). -/
def bufRec (s : State) (n event tag arg0 : Nat) : State × ObsRec :=
  let us := bufUnits n
  (s.bumpFree, ⟨s.now, us.getD (Config.freeBelow s.freeCtr us.length) 0, event, obsAttr s 0 0 true, tag, arg0, 0⟩)

/-- The freeze of one buffer: its FREEZE record, and for TRIGGER the start of the post-count (R490). A TRIGGER capture
that stands already takes the record as it takes every later one (R488). -/
def freezeBuf (causes : Nat) (s : State) (n : Nat) : State :=
  let c := s.reg (Reg.obsTrCtl n)
  if !bitOf c 0 then s
  else
    let e := bufRec s n 0x0E causes 0
    let s := e.1
    if bitsOf c 23 22 = 2 ∧ (trBuf s n).post.isSome then trPush s n e.2 true
    else if bitsOf c 23 22 = 2 then
      let b := trBuf s n
      let kept := b.recs.drop (b.recs.length - trPre s n)
      let s := s.setTrBuf n { b with recs := kept ++ [e.2], post := some (trPost s n) }
      if trPost s n = 0 then s.setBit Reg.obsStat n true else s
    else
      let s := trPush s n e.2 true
      s.setBit Reg.obsStat n true

/-- Copy every counter into OBS_SNAP (R490 step 4). -/
def snapCounters (s : State) : State :=
  (List.range 128).foldl (fun s i => s.setReg (Reg.obsSnap i) (s.reg (0x61000 + 8 * i))) s

/-- A freeze with these cause bits (R490, R496): nothing but its cause bits when already frozen. -/
def freezeNow (s : State) (causes : Nat) : State :=
  let s := { s with obs := { s.obs with causes := s.obs.causes ||| causes } }
  let s := if causes.testBit 1 then raiseCore s 205 else s
  if frozen s then s
  else
    let s := (List.range 12).foldl (freezeBuf causes) s
    let s := s.setBit Reg.obsStat 16 true
    let s := snapCounters s
    let s := s.setReg Reg.obsFreezeTime (BitVec.ofNat 64 s.now)
    let s := if s.bit Reg.obsFreezeCtl 27 then { s with obs := { s.obs with outpin := true } } else s
    raiseCore s 202

/-- Cause `i` occurs: a freeze when OBS_FREEZE_CTL enables it (R490). -/
def freezeCause (s : State) (i : Nat) : State := if s.bit Reg.obsFreezeCtl i then freezeNow s (2 ^ i) else s

/-- The interrupt source of OBS_FREEZE_CTL has risen between two states (R490). -/
def freezeRisen (before s : State) : State :=
  let src := s.fld Reg.obsFreezeCtl 22 15
  if s.bit Reg.obsFreezeCtl 5 && s.bit (Reg.intPend (src / 64)) (src % 64)
      && !before.bit (Reg.intPend (src / 64)) (src % 64) then freezeNow s 32 else s

/-- A rising edge of source `src` (R490, R498, R499). -/
def raise (s : State) (src : Nat) : State := freezeRisen s (raiseCore s src)

/-- Hardware sets a sticky bit; a rising edge of it raises its source (R7). -/
def sticky (s : State) (off bit : Nat) (src : Option Nat) : State := freezeRisen s (stickyCore s off bit src)

/-- An event enters its unit's last-event ring, and its trace buffer when that records the code (R486, R491). -/
def obsPush (s : State) (r : ObsRec) : State :=
  let s := if lerOpen s then lerPush s r else s
  match traceBufOf r.unit with
  | none => s
  | some n =>
    let c := s.reg (Reg.obsTrCtl n)
    if bitOf c 0 && decide (1 ≤ debugLevel s) && bitOf c (1 + r.event) then freezeRisen s (trPush s n r false) else s

/-- An event of a unit (R485). -/
def obsEvent (s : State) (unit event cls dom : Nat) (global : Bool) (tag arg0 arg1 : Nat) : State :=
  obsPush s ⟨s.now, unit, event, obsAttr s cls dom global, tag, arg0, arg1⟩

/-- Add to a 64-bit wrapping counter (R492). -/
def count (s : State) (off n : Nat) : State := s.setReg off (s.reg off + BitVec.ofNat 64 n)

/-- Charge a domain with the T2 bytes and flash pages that work has moved between two states (R492). -/
def chargeDomain (before : State) (dom : Nat) (s : State) : State :=
  let d := fun (i : Nat) => (s.reg (Reg.obsTier i) - before.reg (Reg.obsTier i)).toNat
  let s := count s (Reg.obsDom (4 * dom + 3)) (d 2 + d 3)
  count s (Reg.obsDom (4 * dom + 2)) (d 4 / 16384)

/-- Bytes moved through a tier port (R492): index 0–7 of OBS_TIER. -/
def countTier (s : State) (i n : Nat) : State := count s (Reg.obsTier i) n

end Sys2Proof.Machine
end

