-- ==== Sys2Proof/Machine/Events.lean ====
section
/-! DEFINITION. Stores and increments by a unit before the waits that they satisfy are served, the records of the journal,
and the media errors that an increment meets (R32, R135, R136, R138, R450, R461). -/

namespace Sys2Proof.Machine

/-- The journal summary of a unit (R450). -/
def unitSum (s : State) (u : Nat) : UnitSum := (s.integ.summary.find? (·.unit == u)).getD ⟨u, 0, 0⟩

/-- The clock of an operating point in MHz (R513). -/
def pointMHz (p : Nat) : Nat := [1000, 1400, 1700, 2000].getD p 2000

/-- The units that share the clock domain of `u` (R455). -/
def domainUnits (u : Nat) : List Nat :=
  if u < 8 then u :: (List.range 16).map (fun p => 8 + 16 * u + p)
  else if u < 136 then
    let c := (u - 8) / 16
    c :: (List.range 16).map (fun p => 8 + 16 * c + p)
  else [u]

/-- The unit's clock in MHz: the point's clock at 90, 80 or 70 percent by the highest level of its domain (R455,
R513). -/
def unitMHz (s : State) (u : Nat) : Nat :=
  let f := pointMHz (s.fld Reg.pwrDvfs 6 4)
  let l := ((domainUnits u).map (fun v => (unitSum s v).level)).foldl max 0
  if l < 4 then f else f * (if l = 4 then 90 else if l = 5 then 80 else 70) / 100

/-- An event of the journal before it has its SEQ (R450). -/
structure JEvent where
  unit    : Nat
  kind    : Nat
  op      : Nat
  addr    : Word
  detail  : Nat
  expect  : Nat
  got     : Nat
  other   : Nat
  arbiter : Nat
  deriving DecidableEq, Repr

/-- An event that carries nothing but unit and kind. -/
def plainEvent (unit kind : Nat) : JEvent := ⟨unit, kind, 0, 0, 0, 0, 0, 0xFFFF, 0xFFFF⟩

/-- The 64-byte event record (R450). -/
def eventBytes (s : State) (e : JEvent) : List Byte :=
  let m := unitSum s e.unit
  leBytes 8 s.integ.seq ++ leBytes 8 s.now ++ leBytes 4 s.integ.minutes ++ leBytes 2 e.unit ++ leBytes 1 e.kind
    ++ leBytes 1 e.op ++ leBytes 2 (s.power.temps.getD (Config.nearestSensor e.unit % 16) 0)
    ++ leBytes 2 (s.fld Reg.pwrDvfs 27 16) ++ leBytes 2 (unitMHz s e.unit) ++ leBytes 1 m.level ++ leBytes 1 m.rating
    ++ wordBytes e.addr ++ leBytes 4 e.detail ++ leBytes 4 e.expect ++ leBytes 4 e.got ++ leBytes 2 e.other
    ++ leBytes 2 e.arbiter ++ zeroBytes 8

/-- The Dolnex section type of a CPER record, as its EFI GUID bytes (R461). -/
def cperType : List Byte :=
  [0xd1, 0x52, 0x3c, 0x7a, 0x04, 0x9e, 0x6f, 0x4b, 0x8c, 0x21, 0x53, 0x58, 0xb0, 0xc4, 0xe9, 0x17]

/-- The severity of an event kind (R461). -/
def cperSeverity (kind : Nat) : Nat :=
  if kind = 1 ∨ kind = 2 ∨ kind = 3 ∨ kind = 5 ∨ kind = 6 then 0 else if kind = 8 ∨ kind = 9 then 2 else 3

/-- The 328-byte CPER record of an event (R461). -/
def cperBytes (seq kind : Nat) (event window : List Byte) : List Byte :=
  let sev := leBytes 4 (cperSeverity kind)
  [0x43, 0x50, 0x45, 0x52] ++ leBytes 2 0x0101 ++ leBytes 4 0xFFFFFFFF ++ leBytes 2 1 ++ sev ++ leBytes 4 0
    ++ leBytes 4 328 ++ zeroBytes 8 ++ zeroBytes 16 ++ zeroBytes 16 ++ cperType ++ cperType ++ leBytes 8 seq
    ++ zeroBytes 24
    ++ (leBytes 4 200 ++ leBytes 4 128 ++ leBytes 2 0x0100 ++ zeroBytes 2 ++ leBytes 4 (if kind = 1 then 1 else 0)
        ++ cperType ++ zeroBytes 16 ++ sev ++ zeroBytes 20)
    ++ event ++ (if window.isEmpty then zeroBytes 64 else window)

/-! ### Stores and increments, without the waits they satisfy -/

/-- The unit-side write of bytes at a global address of the own node: its status. -/
def rawStore (s : State) (a : Word) (bs : List Byte) : State × Nat :=
  let la := localOf a
  if nodeOf a ≠ s.node then (s, stNO_ROUTE)
  else if bs.isEmpty then (s, stOK)
  else if crossesRegion la bs.length then (s, stLIMIT)
  else
    let r := regionOf la
    let st := placeCheck s la bs.length .write none
    if st ≠ stOK then (s, st)
    else if r = 0 ∨ r = 1 ∨ r = 2 then (s.store la bs, stOK)
    else (s, stACCESS)

/-- The packet of an increment of another node's buoy: a PUT_SIGNAL without data, in the class of the work it reports
(R59), `tag` 0 when nothing waits for its response (DESIGN CHOICE, log 13). -/
def bumpPacket (s : State) (a : Word) (ok : Bool) (cls tag : Nat) : Packet :=
  ownPacket s 0x03 cls 0 (nodeOf a) a a tag (if ok then stOK else stBAD_RECORD) []

/-- One increment of a buoy by its word (R32): its status, the buoy unchanged when it breaks R31. A buoy of another node is
reached by a packet of class `cls`. -/
def rawBump (s : State) (a : Word) (ok : Bool) (cls : Nat) : State × Nat :=
  if nodeOf a ≠ s.node then
    let r := sendPacket s (nodeOf a) (bumpPacket s a ok cls 0) false false
    match r.2 with
    | .failed st => (r.1, st)
    | _ => (r.1, stOK)
  else
    let la := localOf a
    let st := buoyCheck s la
    if st ≠ stOK then (s, st) else (s.storeWord la (buoyWord (s.word la) ok), stOK)

/-- Journal one event (R450, R451, R461): the flash journal, the DRAM mirror, the CPER record and its buoy, whose own
increment meets no media error (DESIGN CHOICE, log 178). A flash write that fails is shown, and the mirror goes on; whether
it fails is free (DESIGN CHOICE, log 197). `window` is the suspect-window record of a MISMATCH. -/
def journalRaw (s : State) (e : JEvent) (window : List Byte) : State :=
  let seq := s.integ.seq
  let b := eventBytes s e
  let fails := Config.journalFails seq
  let s := { s with integ := { s.integ with
      journal := if fails then s.integ.journal else (b :: s.integ.journal).take 1048576, seq := seq + 1 } }
  let s := if fails then sticky s Reg.chkErr 5 (some 189) else s
  let s := s.setReg Reg.chkJourHead (BitVec.ofNat 64 (seq + 1))
  let slot := s.reg Reg.chkJournal + BitVec.ofNat 64 (seq % 65536 * 64)
  let s := if regionOf (localOf slot) = 1 then (rawStore s slot b).1 else s
  let s := (rawStore s (s.reg Reg.chkCper + BitVec.ofNat 64 (seq % 2048 * 512)) (cperBytes seq e.kind b window)).1
  let buoy := s.reg Reg.chkCperBuoy
  if buoy = 0 then s else (rawBump s buoy true 3).1

/-! ### Media errors of DRAM (R135, R136, R138) -/

/-- Is the error one that no correction removes? -/
def badKind (k : MediaKind) : Bool :=
  match k with
  | .uncorrectable => true
  | .exhausted => true
  | _ => false

/-- An access met uncorrectable DRAM data (R138): the count, the sticky bit, the journal event. -/
def uncorrRaw (s : State) (la : Nat) : State :=
  let s := s.satFld Reg.tirEccCount 47 32 1
  let s := sticky s Reg.tirErr 2 none
  journalRaw s { plainEvent 163 5 with addr := s.global la, detail := stUNCORRECTABLE } []

/-- A media error is gone. -/
def State.dropFault (s : State) (f : MediaFault) : State :=
  { s with tier := { s.tier with media := s.tier.media.filter (· != f) } }

/-- A DRAM block fails after its third re-send (R135). -/
def crcExhausted (s : State) : State :=
  let s := s.satFld Reg.tirCrcCount 31 0 3
  let s := s.satFld Reg.tirCrcCount 63 32 1
  sticky s Reg.tirErr 4 none

/-- A read of DRAM meets a media error (R135, R136, R138). -/
def meetRaw (la : Nat) (s : State) (f : MediaFault) : State :=
  match f.kind with
  | .corrected => (s.satFld Reg.tirEccCount 31 0 1).dropFault f
  | .resend n => (s.satFld Reg.tirCrcCount 31 0 n).dropFault f
  | .exhausted => (uncorrRaw (crcExhausted s) la).dropFault f
  | .uncorrectable => uncorrRaw s la

/-- Does the error lie in the 64-byte DRAM block of a local address, in the direct region or in the single copy of an
object in T2? -/
def MediaFault.atBlock (s : State) (la : Nat) (f : MediaFault) : Bool :=
  match f.place with
  | .direct a => regionOf la == 1 && a / 64 == la / 64
  | .home id b =>
    match objAt s la with
    | some o => o.id == id && !o.flushed && o.tier == 2 && (la - o.base) / 64 == b
    | none => false
  | .copy _ _ _ _ => false

/-- The media errors that an access to one word of DRAM meets. -/
def wordFaults (s : State) (la : Nat) : List MediaFault := s.tier.media.filter (MediaFault.atBlock s la)

end Sys2Proof.Machine
end

