-- ==== Sys2Proof/Machine/Complete.lean ====
section
/-! DEFINITION. Buoy increments, the completion of operations, and what every change of a buoy brings with it: the
WATCHes, strands and buoy-watch sources that wait on it (R29, R32 to R39, R64, R178, R188, R507). -/

namespace Sys2Proof.Machine

/-! ### Buoy-watch sources (R506, R507) -/

/-- Test one armed buoy-watch source after a change (R506, R507). -/
def buoyWatchTest (s : State) (b : Nat) : State :=
  let a := s.reg (Reg.intBwAddr b)
  if !bitOf a 0 then s
  else
    let la := localOf a / 8 * 8
    let w := s.word la
    match watchCond w (s.reg (Reg.intBwCond b)) with
    | none => s
    | some st =>
      let s := if st = stOK ∧ bitOf a 1 then
          s.setFld (Reg.intBwCond b) 47 0 (bitsOf w 47 0 + 1)
        else s.setBit (Reg.intBwAddr b) 0 false
      -- each time the condition holds the source makes a rising edge
      raise s (208 + b)

/-- The buoy-watch sources that are armed: only a register that differs from its reset value can hold EN. -/
def armedWatches (s : State) : List Nat :=
  s.regs.filterMap (fun e =>
    if 0x22000 ≤ e.1 ∧ e.1 < 0x22300 ∧ e.1 % 16 = 0 ∧ bitOf e.2 0 then some ((e.1 - 0x22000) / 16) else none)

/-- Test every armed buoy-watch source (R507). -/
def buoyWatchAll (s : State) : State := (armedWatches s).foldl buoyWatchTest s

/-! ### Contexts of strands (R170, R171) -/

/-- The strand with an ID. -/
def strandOf (s : State) (id : Nat) : Option Strand := s.str.all.find? (·.id == id)

/-- The home cluster of a strand ID (R169). -/
def homeCluster (id : Nat) : Nat := id / 524288 % 8

/-- The local address of a strand's pool slot (R168, R169). -/
def slotAddr (s : State) (id : Nat) : Nat :=
  dramBase + s.fld (Reg.cluStrPool (homeCluster id)) 34 20 * 0x100000 + id % 524288 * 256

/-- The edges left of a wait (R170 DEADLINE). -/
def strandDeadline (s : State) (t : Strand) : Nat :=
  match t.wait with
  | .buoy _ limit since => limit - (s.lamp.counted - since)
  | .job _ limit _ _ _ => limit
  | .launch _ limit _ _ _ => limit
  | .pending tag _ =>
    match s.ops.find? (·.tag == tag) with
    | some p =>
      match p.phase with
      | .remoteWatch _ _ since => p.op.len - (s.lamp.counted - since)
      | .held _ since => if p.op.code = 5 then p.op.len - (s.lamp.counted - since) else 0
      | _ => 0
    | none => 0
  | _ => 0

/-- The STATE word (R170). -/
def stateWord (t : Strand) : Nat :=
  t.state + (if t.resident then 8 else 0) + t.cls % 4 * 16 + t.lstat % 256 * 256 + t.serr % 256 * 65536
    + t.fault % 256 * 2 ^ 24 + t.exit % 65536 * 2 ^ 32

/-- The 256 bytes of a context (R170). -/
def contextBytes (s : State) (t : Strand) : List Byte :=
  t.gregs.flatMap wordBytes ++ t.wide.flatMap wordBytes ++ wordBytes t.pc
    ++ wordBytes (if t.state = 3 then t.waddr else 0) ++ wordBytes t.wcond ++ wordBytes t.owner
    ++ leBytes 8 t.sid ++ leBytes 8 (stateWord t) ++ leBytes 8 (strandDeadline s t) ++ leBytes 8 t.steps

/-- Replace a strand. -/
def State.setStrand (s : State) (t : Strand) : State :=
  { s with str := { s.str with all := s.str.all.map (fun u => if u.id == t.id then t else u) } }

/-- Replace a strand, and its pool slot when it is not resident (R171). -/
def saveStrand (s : State) (t : Strand) : State :=
  let s := s.setStrand t
  if t.resident then s else s.store (slotAddr s t.id) (contextBytes s t)

/-- A register of a strand, from its pool slot while it is not resident. -/
def setGreg (t : Strand) (r : Nat) (w : Word) : Strand := { t with gregs := t.gregs.set r w }

/-- The context read back from a pool slot (R171): all of it as the slot holds it. Which slot holds which batch's strand,
and whether it is READY, waits or has stopped, stands in the pool's own lists (DESIGN CHOICE, log 189). -/
def loadContext (s : State) (t : Strand) : Strand :=
  let b := s.load (slotAddr s t.id) 256
  { t with
      gregs := (List.range 16).map (fun i => wordAt b (8 * i))
      wide := (List.range 8).map (fun i => wordAt b (128 + 8 * i))
      pc := wordAt b 192
      wcond := wordAt b 208
      owner := wordAt b 216
      sid := u64At b 224 % 2 ^ 22
      cls := u8At b 232 / 16 % 4
      fault := u8At b 235
      lstat := u8At b 233
      serr := u8At b 234
      exit := u16At b 236
      steps := u64At b 248 }

/-- A strand becomes READY, with the stamp of this moment (R177). -/
def readyAt (s : State) (t : Strand) : State :=
  saveStrand s { t with state := 1, wait := .none, ready := s.str.clock, parking := false, busy := 0 }

/-- The moment has passed: what becomes READY from now on bears a later stamp (R177). -/
def State.tickReady (s : State) : State := { s with str := { s.str with clock := s.str.clock + 1 } }

/-- A strand becomes READY at a moment of its own (R177). -/
def makeReady (s : State) (t : Strand) : State := (readyAt s t).tickReady

/-- The context of a strand whose wait has ended: status into LSTAT, value into gd (R178, R188). -/
def waitOver (s : State) (t : Strand) (rd status : Nat) (value : Word) : Strand :=
  let t := if t.resident then t else loadContext s t
  { (setGreg t rd value) with lstat := status, waddr := 0 }

/-- A wait of a strand ends, and the strand is READY (R178, R188). -/
def endWait (s : State) (t : Strand) (rd status : Nat) (value : Word) : State :=
  makeReady s (waitOver s t rd status value)

/-- An operation of a strand has completed (R188): a WATCH ends the wait, any other leaves its result for
STRAND_OP_COMPLETE. -/
def strandResult (s : State) (id status : Nat) (value : Word) : State :=
  match strandOf s id with
  | none => s
  | some t =>
    match t.wait with
    | .pending _ rd =>
      if t.state = 3 then endWait s t rd status value
      else if t.state = 2 then s.setStrand { t with wait := .result status value rd }
      else s
    | _ => s

/-- A load of a strand has completed: the answer waits for STRAND_OP_COMPLETE (R187, R189). -/
def strandLoaded (s : State) (id status : Nat) (data : List Byte) : State :=
  match strandOf s id with
  | none => s
  | some t =>
    match t.wait with
    | .load code rd addr len issued _ => s.setStrand { t with wait := .load code rd addr len issued (some (status, data)) }
    | .job rd limit launch done _ => s.setStrand { t with wait := .job rd limit launch done (some (status, data)) }
    | .launch rd limit done word _ => s.setStrand { t with wait := .launch rd limit done word (some status) }
    | _ => s

/-- Have the posted stores of the strand completed (R176)? -/
def storesDone (s : State) (id : Nat) : Bool :=
  s.ops.all (fun p => match p.origin with
    | .store i => i != id
    | _ => true)

/-- A posted store of a strand has completed: the first failure goes into SERR (R187), and after the last a strand that is
to be parked is (R176). -/
def storeEnded (s : State) (id status : Nat) : State :=
  match strandOf s id with
  | none => s
  | some t =>
    let t := if t.resident then t else loadContext s t
    let u := if status ≠ stOK ∧ t.serr = 0 then { t with serr := status } else t
    if u.parking ∧ u.resident ∧ storesDone s id then saveStrand s { u with resident := false, parking := false }
    else if u.serr = t.serr then s
    else saveStrand s u

/-- What the wait of a strand on an own-node buoy has come to (R178): destination register, status and word, none while
its condition does not hold. -/
def wokenBy (s : State) (t : Strand) : Option (Nat × Nat × Word) :=
  match t.wait with
  | .buoy rd _ _ =>
    let w := s.word (localOf t.waddr)
    (watchCond w t.wcond).map (fun st => (rd, st, w))
  | _ => none

/-- A strand wakes when its condition holds. -/
def wakeStrand (s : State) (t : Strand) : State :=
  match wokenBy s t with
  | some (rd, st, w) => readyAt s (waitOver s t rd st w)
  | none => s

/-- Test the waits of strands on own-node buoys and the buoy-watch sources (R178, R507): every strand whose condition holds
becomes READY, all of them at one moment (R177); their pool slots have changed, which is tested again. -/
def settleStrands : Nat → State → State
  | 0, s => buoyWatchAll s
  | n + 1, s =>
    let s := buoyWatchAll s
    if s.str.all.any (fun t => (wokenBy s t).isSome) then settleStrands n (s.str.all.foldl wakeStrand s).tickReady else s

/-! ### Increments -/

/-- Strands and buoy-watch sources see a change of memory (R178, R507). -/
def settleOnce (s : State) : State := settleStrands s.str.all.length s

/-- One increment of a buoy (R32): its status, the buoy unchanged when it breaks R31 or cannot be read (R138). -/
def bumpCore (s : State) (a : Word) (ok : Bool) (cls : Nat) : State × Nat :=
  let la := localOf a
  let hit := if nodeOf a = s.node ∧ buoyCheck s la = stOK then wordFaults s la else []
  let s := hit.foldl (meetRaw la) s
  if hit.any (fun f => badKind f.kind) then (s, stUNCORRECTABLE)
  else
    let r := rawBump s a ok cls
    (if nodeOf a = s.node ∧ r.2 = stOK then settleOnce r.1 else r.1, r.2)

/-- Increment a DONE buoy when there is one (R33). -/
def bumpDone (s : State) (a : Word) (ok : Bool) (cls : Nat) : State := if a = 0 then s else (bumpCore s a ok cls).1

/-! ### Completing operations -/

/-- The status of a DONE buoy of this node (R31); OK where there is none, and for one of another node, which answers for
itself. -/
def doneCheck (s : State) (done : Word) : Nat :=
  if done = 0 ∨ nodeOf done ≠ s.node then stOK else buoyCheck s (localOf done)

/-- The failures of an operation: its own, and that of its DONE buoy (R31), a FENCE's among them although R42 gives it OK
alone (DESIGN CHOICE, log 169). -/
def doneFaults (done status : Nat) : List Nat :=
  causes [(status != stOK, status), (done != stOK && done != status, done)]

/-- Bytes for the host window leave as a posted PCIe write (R49). -/
def postHost (s : State) (la : Nat) (bs : List Byte) : State :=
  let a := (s.reg Reg.hstWinBase).toNat + (la - hostBase)
  countTier { s with ep := { s.ep with writes := (a, bs) :: s.ep.writes } } 6 bs.length

/-- Bytes of a record of another node travel there as a PUT of the operation's class (R28, R40; tag 0: nothing waits for
its response). -/
def putAway (s : State) (a : Word) (cls : Nat) (bs : List Byte) : State :=
  (sendPacket s (nodeOf a) (ownPacket s 2 cls 0 (nodeOf a) a 0 0 0 bs) false false).1

/-- Write STATUS and RESULT of a record (R28, R29). A record that cannot be written keeps both, and its DONE buoy still
counts the operation's status (DESIGN CHOICE, log 170). -/
def writeResult (s : State) (a : Word) (cls status : Nat) (result : Word) : State :=
  let st := [BitVec.ofNat 8 status]
  if nodeOf a ≠ s.node then putAway (putAway s (a + 7) cls st) (a + 56) cls (wordBytes result)
  else
    let la := localOf a
    if placeCheck s la 64 .write none ≠ stOK then s
    else if regionOf la = 62 then postHost (postHost s (la + 7) st) (la + 56) (wordBytes result)
    else (s.store (la + 7) st).storeWord (la + 56) result

/-- A completion record of a node has completed (R64). -/
def nodeRecordDone (s : State) (seq inst node status : Nat) : State :=
  let upd := fun (i : Inst) =>
    if i.uid == inst then
      { i with nodes := i.nodes.modify node (fun p =>
          match p with
          | .closing left _ ok => .closing (left - 1) false (ok && status == stOK)
          | p => p) }
    else i
  { s with seqs := s.seqs.modify seq (fun q => { q with insts := q.insts.map upd }) }

/-- The record of an operation, where STATUS and RESULT are written. -/
def Origin.recordAddr : Origin → Option Word
  | .record a => some a
  | .node _ _ _ _ a => a
  | .service a => a
  | .strand _ a => a
  | _ => none

/-- The issuer of a record that was not read: neither STATUS nor RESULT is written (R546). -/
def Origin.unread : Origin → Origin
  | .record _ => .plain
  | .node q x i r _ => .node q x i r none
  | .service _ => .service none
  | .strand id _ => .strand id none
  | o => o

/-- Write STATUS and RESULT of the operation's record, when it has one (R29). -/
def putResult (s : State) (o : Origin) (cls status : Nat) (result : Word) : State :=
  match o.recordAddr with
  | some a => writeResult s a cls status result
  | none => s

/-- A host operation has failed (R426, R428, R434): its bit of HST_ERR, its status, operation code and address. -/
def hostFailed (s : State) (bit code status : Nat) (addr : Word) : State :=
  let s := sticky s Reg.hstErr bit (some 112)
  (s.setReg Reg.hstLasterr (BitVec.ofNat 64 (status + code * 256))).setReg Reg.hstLastaddr addr

/-- The reading of a WAIT buoy of another node has come (R157). -/
def WaitRead.answer (key status : Nat) (data : List Byte) (w : WaitRead) : WaitRead :=
  if w = .asked key then
    (if status = stOK then .got (bitsOf (wordAt data 0) 47 0) (bitsOf (wordAt data 0) 63 48) else .bad status)
  else w

/-- A program takes it where it asked. -/
def Prog.answer (key status : Nat) (data : List Byte) (p : Prog) : Prog :=
  { p with waits := p.waits.map (·.map (WaitRead.answer key status data))
           polled := p.polled.map (WaitRead.answer key status data) }

/-- The program of cluster `c` that asked takes it. -/
def pollDone (s : State) (c key status : Nat) (data : List Byte) : State :=
  { s with clus := s.clus.modify c (fun k => { k with
      run := k.run.map (Prog.answer key status data), susp := k.susp.map (Prog.answer key status data) }) }

/-- A query of a Bramble batch takes the answer of the read of its QDESC (R219). -/
def qdescDone (s : State) (batch query status : Nat) (data : List Byte) : State :=
  { s with bram := { s.bram with batches := s.bram.batches.map (fun b =>
      if b.number == batch then { b with queries := b.queries.modify query (fun q => { q with desc := some (status, data) }) }
      else b) } }

/-- A saturating u32 counter at an address of this node, which is skipped where it cannot be written (R248). -/
def countAt (s : State) (a : Word) (n : Nat) : State :=
  (rawStore s a (leBytes 4 (satAdd 32 (u32At (s.load (localOf a) 4) 0) n))).1

/-- Report a completion where the operation came from. -/
def reportTo (s : State) (o : Origin) (op : Op) (status : Nat) (result : Word) (data : List Byte) : State :=
  match o with
  | .plain => s
  | .part => s
  | .gone => s
  | .fetch _ _ => s
  | .record _ => s
  | .node seq inst node _ _ => nodeRecordDone s seq inst node status
  | .service _ => if status = stOK then s else sticky s Reg.hstErr 5 (some 115)
  | .strand id _ => strandResult s id status result
  | .load id => strandLoaded s id status data
  | .poll c key => pollDone s c key status data
  | .qdesc b q => qdescDone s b q status data
  | .store id => storeEnded s id status
  | .answer a => if status = stOK then s else countAt s (a + 24) 1
  | .packet node tag cls => respond s node tag cls 0x10 status result data
  | .signal => if status = stOK then s else hostFailed s 2 4 status op.dst
  | .host =>
    let ok := status == stOK
    let s := if ok then s else hostFailed s (if op.code = 1 then 0 else if op.code = 4 then 2 else 1) op.code status op.dst
    if op.code = 1 then
      { s with ep := { s.ep with replies := (if ok then data else List.replicate op.len 0xFF) :: s.ep.replies } }
    else if op.code = 4 then
      { s with ep := { s.ep with replies :=
          (if ok then wordBytes result else List.replicate 8 0xFF) :: s.ep.replies } }
    else s

/-- The issuer receives the completion (R33), and its origin the report. -/
def finishWith (s : State) (o : Origin) (op : Op) (status : Nat) (result : Word) (data : List Byte) : State :=
  let s := reportTo (putResult s o op.cls status result) o op status result data
  if o = .part then s else { s with completions := ⟨op.source, op.code, status, result⟩ :: s.completions }

/-- Of several failures one is reported, which is free (DESIGN CHOICE, log 14). -/
def finalStatus (s : State) (done status : Nat) : State × Nat := pickCode s (doneFaults done status)

/-- An operation whose DONE buoy lies on another node: STATUS and RESULT are written (R29), the increment is sent, and
the operation completes with its response (R31, R33; DESIGN CHOICE, log 13). -/
def sendDone (s : State) (o : Origin) (op : Op) (status : Nat) (result : Word) (data : List Byte) : State :=
  let s := putResult s o op.cls status result
  let tag := s.nextTag
  let s := { s with nextTag := tag + 1 }
  let r := sendPacket s (nodeOf op.done) (bumpPacket s op.done (status == stOK) op.cls tag) false true
  match r.2 with
  | .failed st =>
    let p := finalStatus r.1 st status
    finishWith p.1 o op p.2 result data
  | _ => { r.1 with ops := r.1.ops ++ [⟨tag, op, o, .closing status result, data⟩] }

/-- An operation completes with one status (R33): result and status are written before DONE is incremented (R29). The
own WATCHes that this satisfies are left to `settle`. -/
def completeWith (s : State) (o : Origin) (op : Op) (status : Nat) (result : Word) (data : List Byte) : State :=
  if op.done ≠ 0 ∧ nodeOf op.done ≠ s.node then sendDone s o op status result data
  else
    let p := finalStatus s (doneCheck s op.done) status
    bumpDone (finishWith p.1 o op p.2 result data) op.done (p.2 == stOK) op.cls

/-- An operation that was never read from its record (R546). -/
def noOp (src : Source) : Op := ⟨src, 0, 0, 0, 0, 0, 0, 0, 0, 0, 0⟩

/-- An operation completes. A record that could not be read completes for the issuer that waits for it, without a RESULT
(R546: free, log 80). -/
def completeCore (s : State) (o : Origin) (op : Op) (status : Nat) (result : Word) (data : List Byte) : State :=
  match o with
  | .fetch _ next => completeWith s.bumpFree next.unread (noOp op.source) status (Config.freeWord s.freeCtr) []
  | _ => completeWith s o op status result data

/-- What a pending WATCH on this node's buoy has come to: none while neither condition holds (R35, R36). -/
def watchEnds (s : State) (p : PendingOp) : Option (Nat × Word) :=
  match p.phase with
  | .watch _ =>
    let w := s.word (localOf p.op.dst)
    (watchCond w p.op.operand).map (fun st => (st, w))
  | _ => none

/-- The first pending WATCH whose condition holds, with its status and the buoy's word (R36, DESIGN CHOICE, log 15). -/
def nextSatisfied (s : State) : List PendingOp → Option (PendingOp × Nat × Word)
  | [] => none
  | p :: ps =>
    match watchEnds s p with
    | some (st, w) => some (p, st, w)
    | none => nextSatisfied s ps

/-- Take a pending operation off the list. -/
def State.dropOp (s : State) (tag : Nat) : State := { s with ops := s.ops.filter (·.tag != tag) }

/-- Complete every pending WATCH whose condition holds, until none does (R36, R39). -/
def settleWatches : Nat → State → State
  | 0, s => s
  | n + 1, s =>
    match nextSatisfied s s.ops with
    | none => s
    | some (p, st, w) => settleWatches n (settleOnce (completeCore (s.dropOp p.tag) p.origin p.op st w []))

/-- After a change of memory: every wait whose condition now holds completes (R36, R39, R178, R507). -/
def settle (s : State) : State :=
  let s := settleOnce s
  settleWatches s.ops.length s

/-- One increment of a buoy and everything it satisfies. -/
def bump (s : State) (a : Word) (ok : Bool) (cls : Nat) : State × Nat :=
  let r := bumpCore s a ok cls
  (settle r.1, r.2)

/-- An increment by a unit that has no use for its status. -/
def bumpTo (s : State) (a : Word) (ok : Bool) (cls : Nat) : State := if a = 0 then s else (bump s a ok cls).1

/-- A pending or immediate operation completes, with everything that follows. -/
def complete (s : State) (o : Origin) (op : Op) (status : Nat) (result : Word) (data : List Byte) : State :=
  settle (completeCore s o op status result data)

/-- The increment of a DONE buoy on another node has been answered (R31, R33): the operation completes, and a record
whose status this changes is written again. -/
def closeOp (s : State) (p : PendingOp) (status : Nat) (result : Word) (answer : Nat) : State :=
  let f := finalStatus (s.dropOp p.tag) answer status
  settle (finishWith f.1 p.origin p.op f.2 result p.data)

/-- A pending operation completes; of one that waits for its DONE buoy, `status` is what became of the increment, and of
a COPY that waits for its part report, what became of the report (R47). -/
def completeOp (s : State) (p : PendingOp) (status : Nat) (result : Word) (data : List Byte) : State :=
  match p.phase with
  | .closing st res => closeOp s p st res status
  | .report st res => complete (s.dropOp p.tag) p.origin p.op (if status = stOK then st else status) res []
  | _ => complete (s.dropOp p.tag) p.origin p.op status result data

/-- RESULT of an operation that failed before it had one (R28): nothing was transferred, but an operation lost on the way
may have taken effect (R45), and a word that was not read has no value (free, log 7). -/
def openResult (s : State) (op : Op) (status : Nat) : State × Word :=
  if op.code = 4 ∨ op.code = 5 then (s.bumpFree, Config.freeWord s.freeCtr)
  else if op.code = 7 ∨ status ≠ stLINK_FAILED then (s, 0)
  else (s.bumpFree, BitVec.ofNat 64 (Config.freeBelow s.freeCtr (op.len + 1)))

/-- A pending operation fails. -/
def failOp (s : State) (p : PendingOp) (status : Nat) : State :=
  let r := openResult s p.op status
  completeOp r.1 p status r.2 []

/-- The unit-side write of bytes at a global address of the own node, and the waits it satisfies (R36): its status. -/
def hwStore (s : State) (a : Word) (bs : List Byte) : State × Nat :=
  let r := rawStore s a bs
  (if r.2 = stOK ∧ bs ≠ [] then settle r.1 else r.1, r.2)

end Sys2Proof.Machine
end

