-- ==== Sys2Proof/Machine/Send.lean ====
section
/-! DEFINITION. Own operations on their way: the packets they travel in, what holds a later operation behind an earlier
one, and the increment of HST_SIGNAL (R40, R42, R385, R387, R389, R428). -/

namespace Sys2Proof.Machine

/-- Is the other side of the transfer outside the device's memory: a host request or a request packet carries its own
bytes, or takes them with the response? -/
def Origin.carries : Origin → Bool
  | .answer _ => true
  | .host => true
  | .packet _ _ _ => true
  | .load _ => true
  | .poll _ _ => true
  | .qdesc _ _ => true
  | .store _ => true
  | .fetch _ _ => true
  | .gone => true
  | .plain => false
  | .record _ => false
  | .node _ _ _ _ _ => false
  | .service _ => false
  | .strand _ _ => false
  | .signal => false
  | .part => false

/-- Does the operation read an operation record (R546)? -/
def Origin.fetches : Origin → Bool
  | .fetch _ _ => true
  | _ => false

/-! ### Packets of own operations (R385, R389) -/

/-- The request packet of an operation. The LEN of a GET request is the length it asks for (DESIGN CHOICE, log 74). -/
def requestPacket (s : State) (op : Op) (tag : Nat) (data : List Byte) : Packet :=
  let dst := nodeOf op.dst
  match op.code with
  | 1 => ownPacket s 1 op.cls 0 dst op.dst 0 tag 0 (zeroBytes op.len)
  | 2 => ownPacket s 2 op.cls 0 dst op.dst 0 tag 0 data
  | 3 => ownPacket s 3 op.cls 0 dst op.dst op.signal tag 0 data
  | 4 => ownPacket s 4 op.cls op.aop dst op.dst op.operand tag 0 (if op.aop = 2 then wordBytes op.compare else [])
  | _ => ownPacket s 5 op.cls 0 dst op.dst op.operand tag 0 []

/-- Keep an operation on the list. -/
def State.addOp (s : State) (p : PendingOp) : State := { s with ops := s.ops ++ [p] }

/-- Send a pending operation to its node, or end it with what the route says (R387). -/
def sendOp (s : State) (p : PendingOp) (data : List Byte) : State :=
  let n := nodeOf p.op.dst
  let r := sendPacket s n (requestPacket s p.op p.tag data) false true
  match r.2 with
  | .sent =>
    r.1.addOp { p with phase := if p.op.code = 5 then .remoteWatch n none s.lamp.counted else .sent n, data := data }
  | .held => r.1.addOp { p with phase := .held n s.lamp.counted, data := data }
  | .failed st =>
    let e := openResult r.1 p.op st
    complete e.1 p.origin p.op st (if st = stLINK_FAILED ∧ p.op.code < 4 then 0 else e.2) []

/-- Ask the host: a PCIe read or an AtomicOp of `n` bytes for a local address in the window (R49). -/
def hostRequestAt (s : State) (tag la n : Nat) (atomic : Option (Nat × Word × Word)) : State :=
  let a := (s.reg Reg.hstWinBase).toNat + (la - hostBase)
  countTier { s with ep := { s.ep with reads := ⟨tag, a, n, atomic⟩ :: s.ep.reads } } 6 n

/-- A host read or AtomicOp of an operation leaves as a PCIe request (R49). -/
def askHost (s : State) (p : PendingOp) : State :=
  let la := if p.op.code = 2 ∨ p.op.code = 3 then localOf p.op.src else localOf p.op.dst
  let n := if p.op.code = 4 then 8 else p.op.len
  (hostRequestAt s p.tag la n (if p.op.code = 4 then some (p.op.aop, p.op.operand, p.op.compare) else none)).addOp
    { p with phase := .hostWait }

/-- Take the packet of an own operation off the held ones. -/
def State.dropHeld (s : State) (tag : Nat) : State :=
  { s with fab := { s.fab with held := s.fab.held.filter (fun h => !(h.own && h.pkt.tag == BitVec.ofNat 32 tag)) } }

/-! ### What holds an operation back (R40, R42, R427) -/

/-- Do two operations of a source take effect in the order they were issued: writes and atomics of one class to one node
(R40)? -/
def inOrder (q p : Op) : Bool :=
  decide (2 ≤ q.code) && decide (q.code ≤ 4) && decide (2 ≤ p.code) && decide (p.code ≤ 4) && q.cls == p.cls
    && nodeOf q.dst == nodeOf p.dst

/-- Must a new operation wait: behind a FENCE of its source (R42), behind a record of it that is still being read
(R546), behind an earlier write that waits for the host (R40), or, for a host read, behind earlier posted writes
(R427)? -/
def mustQueue (s : State) (p : PendingOp) : Bool :=
  s.ops.any (fun q => q.op.source == p.op.source && decide (q.tag < p.tag)
      && (q.phase == .fence || q.phase == .queued || q.origin.fetches || (q.phase == .hostWait && inOrder q.op p.op)))
    || (p.origin == .host && p.op.code == 1
        && s.ops.any (fun q => q.origin == .host && decide (q.tag < p.tag) && (q.op.code == 2 || q.op.code == 3)))

/-- Does an operation wait for the DONE buoy of another node? -/
def Phase.isClosing : Phase → Bool
  | .closing _ _ => true
  | _ => false

/-- Are operations of the source, issued before this one, not complete (R42)? One that waits for its DONE buoy bears the
tag of the increment, and was issued before. -/
def busyBefore (s : State) (p : PendingOp) : Bool :=
  s.ops.any (fun q => q.op.source == p.op.source && (decide (q.tag < p.tag) || q.phase.isClosing))

/-! ### HST_SIGNAL (R428) -/

/-- One success on a buoy, as an ATOMIC of the host interface: on another node it travels as ATOMIC ADD of 1 (R13, R385,
R428; DESIGN CHOICE, log 13). -/
def startSignal (s : State) (p : PendingOp) : State :=
  if nodeOf p.op.dst = s.node then
    let r := bump s p.op.dst true p.op.cls
    complete r.1 p.origin p.op r.2 0 []
  else sendOp s p []

/-- A write of HST_SIGNAL (R428): the increment is issued in HST_CTL.CLASS, behind the host writes before it. -/
def hstSignal (s : State) (v : Word) : State :=
  let op : Op := ⟨.host, s.fld Reg.hstCtl 1 0, 4, 0, v &&& ~~~7, 0, 8, 1, 0, 0, 0⟩
  let p : PendingOp := ⟨s.nextTag, op, .signal, .queued, []⟩
  let s := { s with nextTag := s.nextTag + 1 }
  if mustQueue s p then s.addOp p else startSignal s p

/-! ### Operation records (R28, R546) -/

/-- Is a record malformed (R28)? -/
def recordBad (b : List Byte) : Bool :=
  let c := wordAt b 0
  let op := bitsOf c 3 0
  let aop := bitsOf c 6 4
  let zero := fun (o : Nat) => u64At b o == 0
  bitOf c 7 || bitsOf c 15 10 != 0 || bitsOf c 55 47 != 0
    || op == 0 || decide (7 < op) || (aop != 0 && op != 4) || aop == 7
    || (bitsOf c 46 16 != 0 && (op == 4 || op == 7))
    || (!zero 16 && !(op == 1 || op == 2 || op == 3 || op == 6))
    || (!zero 24 && !(op == 4 || op == 5))
    || (!zero 32 && !(op == 4 && aop == 2))
    || (!zero 40 && !(op == 3 || op == 6))

/-- The operation of a record (R28). `cls` replaces the record's class where the issuer's applies. -/
def recordOp (src : Source) (cls : Option Nat) (b : List Byte) : Op :=
  let c := wordAt b 0
  { source := src, cls := cls.getD (bitsOf c 9 8), code := bitsOf c 3 0, aop := bitsOf c 6 4, dst := wordAt b 8,
    src := wordAt b 16, len := if bitsOf c 3 0 = 4 then 8 else bitsOf c 46 16, operand := wordAt b 24,
    compare := wordAt b 32, signal := wordAt b 40, done := wordAt b 48 }

/-- A malformed record ends with BAD_RECORD and no other effect (R23, R28). -/
def rejectRecord (s : State) (o : Origin) (op : Op) : State :=
  let e := openResult s op stBAD_RECORD
  complete e.1 o op stBAD_RECORD e.2 []

/-- A record of another node or of the host window has been read: its operation waits to be issued in the place of the
read (R546). -/
def takeRecord (s : State) (p : PendingOp) (cls : Option Nat) (next : Origin) (b : List Byte) : State :=
  let op := recordOp p.op.source cls b
  if next = .gone then s
  else if recordBad b then rejectRecord s next op
  else s.addOp { p with op := op, origin := next, phase := .queued, data := [] }

end Sys2Proof.Machine
end

