-- ==== Sys2Proof/Machine/Journal.lean ====
section
/-! DEFINITION. The integrity journal as every unit uses it: event records, their DRAM mirror and their CPER records,
classification and response levels (R450 to R457, R461). -/

namespace Sys2Proof.Machine

/-- Is the unit fenced? -/
def unitFenced (s : State) (u : Nat) : Bool := decide ((unitSum s u).rating = 3)

/-- Charged events of a unit within the last 60,000 device-minutes: fewer than that many have passed since (R454;
DESIGN CHOICE, log 207). -/
def chargedCount (s : State) (u : Nat) : Nat :=
  (s.integ.charged.filter (fun e => e.1 == u && decide (s.integ.minutes < e.2 + 60000))).length

/-- Show a unit's summary in CHK_UNIT; more than 255 charged events show as 255 (DESIGN CHOICE, log 207). -/
def showUnit (s : State) (u : Nat) : State :=
  let m := unitSum s u
  if 164 ≤ u then s
  else s.setReg (Reg.chkUnit u)
    (BitVec.ofNat 64 (m.rating % 4 + m.level % 8 * 4 + min (chargedCount s u) 255 * 256))

/-- CHK_STAT.UNRATED_ANY (R453). -/
def showUnrated (s : State) : State :=
  s.setBit Reg.chkStat 0 ((List.range 164).any (fun u => (unitSum s u).rating == 0))

/-- Set a unit's rating and level. -/
def setUnit (s : State) (u rating level : Nat) : State :=
  let ms := s.integ.summary.filter (·.unit != u)
  showUnrated <| showUnit { s with integ := { s.integ with
      summary := if rating = 0 ∧ level = 0 then ms else insertBy (fun a b => decide (a.unit < b.unit)) ⟨u, rating, level⟩ ms } } u

/-- The setpoint of an operating point in mV (R513). -/
def pointMV (p : Nat) : Nat := [550, 600, 650, 700].getD p 700

/-- The margin of VDD_CORE in mV: that of the highest level of any unit (R455); a fenced unit's counts as level 3's
(DEDUCED, log 201). -/
def coreMargin (s : State) : Nat :=
  25 * min 3 ((s.integ.summary.map (·.level)).foldl max 0)

/-- Journal one event (R450, R451, R461), and the waits that its record and its buoy satisfy (R36). -/
def journal (s : State) (e : JEvent) (window : List Byte) : State := settle (journalRaw s e window)

/-- The cluster whose interrupt sources a unit uses (R462). -/
def unitCluster (u : Nat) : Option Nat :=
  if u < 8 then some u else if u < 136 then some ((u - 8) / 16) else none

/-- Source `base + 4n` for a unit of cluster n (R462). -/
def raiseCluster (s : State) (u base : Nat) : State :=
  match unitCluster u with
  | some n => raise s (base + 4 * n)
  | none => s

/-- The units of the same kind as `u` that R457 never fences all of. -/
def kindUnits (u : Nat) : List Nat :=
  if u < 8 then List.range 8
  else if u < 136 then (List.range 16).map (fun p => 8 + 16 * ((u - 8) / 16) + p)
  else if u < 140 then [136, 137, 138, 139]
  else if u < 144 then [140, 141, 142, 143]
  else if u < 146 then [144, 145]
  else []

/-- May the unit be fenced (R456, R457)? -/
def fenceable (s : State) (u : Nat) : Bool := (kindUnits u).any (fun v => v != u && !unitFenced s v)

/-- The commanded VDD_CORE of a point: its setpoint plus the margin, at most 0.80 V (R513). -/
def vddOf (s : State) (point : Nat) : Nat := min 800 (pointMV point + coreMargin s)

/-- Command VDD_CORE (R512): a regulator that does not acknowledge sets VR_FAULT, and the change is abandoned. The
result says whether the voltage was set. -/
def setVdd (s : State) (mv : Nat) : State × Bool :=
  if s.fld Reg.pwrDvfs 27 16 = mv then (s, true)
  else if s.power.vrAck then (s.setFld Reg.pwrDvfs 27 16 mv, true)
  else (sticky s Reg.pwrErr 5 (some 7), false)

/-- The margin takes effect, at the active point (R513, R514). -/
def applyMargin (s : State) : State :=
  (setVdd { s with power := { s.power with margin := false } } (vddOf s (s.fld Reg.pwrDvfs 6 4))).1

/-- A change of margin, made in the same way as one of POINT: at the next Lamp edge, or at once while no edges occur
(R514). -/
def showVdd (s : State) : State :=
  if lampOn s then { s with power := { s.power with margin := true } } else applyMargin s

/-- A POINT takes effect (R514): a rise raises the voltage and leaves the clock to DVFS_CLOCK_RAISE; a fall lowers the
clock and then the voltage. A regulator fault keeps the previous point (R512). -/
def applyPoint (s : State) (p : Nat) : State :=
  let s := { s with power := { s.power with point := none, margin := false } }
  if s.fld Reg.pwrDvfs 6 4 < p then
    let old := s.fld Reg.pwrDvfs 27 16
    let r := setVdd s (vddOf s p)
    if r.2 then
      -- ΔV ÷ 2.5 mV/µs + 10 µs, in ticks of 8 ns
      { r.1 with power := { r.1.power with raise := some (p, s.tim.ticks + (vddOf s p - old) * 50 + 1250) } }
    else r.1
  else
    let old := s.fld Reg.pwrDvfs 6 4
    let s := { s with power := { s.power with raise := none } }
    let r := setVdd (s.setFld Reg.pwrDvfs 6 4 p) (vddOf s p)
    if r.2 then r.1 else r.1.setFld Reg.pwrDvfs 6 4 old

/-- What waits for a Lamp edge, or for edges to stop: a POINT, or a change of margin (R514). -/
def applyPower (s : State) : State :=
  match s.power.point with
  | some p => applyPoint s p
  | none => if s.power.margin then applyMargin s else s

/-- The fence of a unit, as its event is journalled (R456, R458, R462). It takes effect at the unit's next boundary
(FENCE_EFFECT). -/
def fenceEvent (s : State) (u : Nat) : State :=
  let s := { s with integ := { s.integ with fencing := s.integ.fencing ++ [u] } }
  let s := sticky s Reg.chkErr 4 (some 187)
  raiseCluster (journal (showVdd s) (plainEvent u 9) []) u 35

/-- A level step, as its event is journalled (R455, R458, R462): VDD_CORE follows the margin. -/
def responseEvent (s : State) (u : Nat) : State :=
  raiseCluster (journal (showVdd s) (plainEvent u 8) []) u 35

/-- A unit that would be the last of its kind to be fenced stays at level 6, with LAST_UNIT set; units 146 to 163 are
never fenced (R456, R457). -/
def lastUnit (s : State) (u : Nat) : State :=
  if (kindUnits u).isEmpty then s else s.setBit Reg.chkStat 1 true

/-- Fence a unit, or leave it at level 6 (R456, R457). -/
def fenceUnit (s : State) (u : Nat) : State :=
  if fenceable s u then fenceEvent (setUnit s u 3 7) u
  else responseEvent (lastUnit (setUnit s u (unitSum s u).rating 6) u) u

/-- A charged event (R451, R454, R455): the rating and level that follow from it stand when it is journalled, and the
step it takes is journalled after it. -/
def chargeEvent (s : State) (e : JEvent) : State :=
  let u := e.unit
  let s := { s with integ := { s.integ with charged := (u, s.integ.minutes) :: s.integ.charged } }
  let m := unitSum s u
  if m.rating = 3 then journal (showUnit s u) e []
  else
    let classify := decide (m.rating < 2) && decide (3 ≤ chargedCount s u)
    let up := s.bit Reg.chkCtl 7 && (classify || m.rating == 2)
    let target := if classify then 1 else m.level + 1
    let fence := up && decide (7 ≤ target) && fenceable s u
    let level := if fence then 7 else if up then min target 6 else m.level
    let s := setUnit s u (if fence then 3 else if classify then 2 else m.rating) level
    let s := journal s e []
    let s := if classify then sticky s Reg.chkErr 3 (some 186) else s
    if !up then s
    else if fence then fenceEvent s u
    else if 7 ≤ target then lastUnit s u
    else responseEvent s u

/-- A read met uncorrectable DRAM data, or flash data of a channel (R138): counts, sticky bits, the journal event. -/
def uncorrEvent (s : State) (flash : Option Nat) (la : Nat) : State :=
  match flash with
  | some ch =>
    let s := s.satFld Reg.tirEccCount 63 48 1
    let s := sticky s Reg.tirErr 3 none
    let s := sticky s (Reg.brmErr ch) 0 (some (64 + 2 * ch))
    journal s { plainEvent (147 + ch) 6 with addr := s.global la, detail := stUNCORRECTABLE } []
  | none => settle (uncorrRaw s la)

end Sys2Proof.Machine
end

