-- ==== Sys2Proof/Machine/Quota.lean ====
section
/-! DEFINITION. The object table, and what each domain's copies are charged to (R112, R128 to R131). -/

namespace Sys2Proof.Machine

/-! ### The object table (R112) -/

/-- How many engine tiles of an object have a copy in tier `t` (R112). -/
def tilesIn (s : State) (o : Obj) (t : Nat) : Nat :=
  let n := o.size / 4096
  if !o.flushed && o.tier == t then n
  else if o.flushed && o.home == t then n
  else
    ((s.tier.copies.filter (fun c => c.obj == o.id && c.tier == t && c.valid)).map (·.tile)).eraseDups.length

/-- The 64-byte descriptor of an object (R112). -/
def objBytes (s : State) (o : Obj) : List Byte :=
  leBytes 8 o.base ++ leBytes 8 o.size ++ leBytes 1 o.state ++ leBytes 1 o.domain ++ leBytes 1 o.home
    ++ leBytes 1 o.cluster ++ leBytes 1 ((if o.promote then 1 else 0) + (if o.flushed then 2 else 0)) ++ zeroBytes 3
    ++ leBytes 4 o.digest ++ zeroBytes 4 ++ leBytes 4 (tilesIn s o 1) ++ leBytes 4 (tilesIn s o 2)
    ++ leBytes 8 o.lastUse ++ leBytes 8 o.gen ++ zeroBytes 8

/-- The local address of descriptor `id` in the object table. -/
def objEntry (s : State) (id : Nat) : Nat := localOf (s.reg Reg.tirObjTable) + 64 * id

/-- Write an object's descriptor to the object table (R112). -/
def syncObj (s : State) (id : Nat) : State :=
  match objOf s id with
  | some o => s.store (objEntry s id) (objBytes s o)
  | none => s

/-- Replace an object and its descriptor. -/
def State.setObj (s : State) (o : Obj) : State :=
  syncObj { s with tier := { s.tier with objs := s.tier.objs.map (fun p => if p.id == o.id then o else p) } } o.id

/-! ### Spaces, charges and quotas (R128 to R131) -/

/-- A space of copies: managed T2, or managed T1 of a cluster. -/
structure Space where
  tier    : Nat
  cluster : Nat
  deriving DecidableEq, Repr

/-- T2, or T1 of a cluster. -/
def spaceOf (tier cluster : Nat) : Space := ⟨tier, if tier = 1 then cluster else 0⟩

/-- Every space. -/
def spaces : List Space := ⟨2, 0⟩ :: (List.range 8).map (fun c => ⟨1, c⟩)

/-- Engine tiles of a managed space (R110). The staging area is not taken off (DESIGN CHOICE, log 195). -/
def managedTiles (s : State) (p : Space) : Nat :=
  if p.tier = 2 then (32768 - s.fld Reg.tirT2Base 14 0) * 256 else s.fld Reg.tirCtl 12 8 * 256

/-- The quota of a domain in a space (R128). -/
def quotaOf (s : State) (d : Nat) (p : Space) : Nat :=
  if p.tier = 2 then s.fld (Reg.tirDomQuota d) 31 0 else s.fld (Reg.tirDomQuota d) 47 32

/-- The pool of a space: the tiles that no quota covers (R128). -/
def poolSize (s : State) (p : Space) : Nat :=
  managedTiles s p - ((List.range 16).map (fun d => quotaOf s d p)).foldl (· + ·) 0

/-- Does the copy stand in the space? -/
def TileCopy.inSpace (c : TileCopy) (p : Space) : Bool := c.tier == p.tier && (p.tier == 2 || c.cluster == p.cluster)

/-- The tiles that a domain's writable objects and homes hold in a space (R130). -/
def fixedTiles (s : State) (d : Nat) (p : Space) : Nat :=
  (s.tier.objs.filter (fun o => o.domain == d
    && ((!o.flushed && spaceOf o.tier o.cluster == p) || (o.home != 0 && spaceOf o.home o.cluster == p)))).foldl
      (fun n o => n + o.size / 4096) 0

/-- The domain of an object ID. -/
def domainOf (s : State) (obj : Nat) : Nat := ((objOf s obj).map (·.domain)).getD 0

/-- A domain's copies in a space. -/
def domCopies (s : State) (d : Nat) (p : Space) : List TileCopy :=
  s.tier.copies.filter (fun c => c.inSpace p && domainOf s c.obj == d)

/-- Tiles charged to a domain's quota in a space. -/
def quotaUsed (s : State) (d : Nat) (p : Space) : Nat :=
  fixedTiles s d p + ((domCopies s d p).filter (fun c => !c.pool)).length

/-- Tiles of the pool in use. -/
def poolUsed (s : State) (p : Space) : Nat := (s.tier.copies.filter (fun c => c.inSpace p && c.pool)).length

/-- A copy's age in units of 1,024 ns (R131). -/
def copyAge (s : State) (c : TileCopy) : Nat := (s.now - c.lastRead) / 1024

/-- Is `a` evicted before `b`: greater age, then higher object ID, then higher tile (R131)? -/
def olderThan (s : State) (a b : TileCopy) : Bool :=
  let x := copyAge s a
  let y := copyAge s b
  decide (y < x) || (x == y && (decide (b.obj < a.obj) || (a.obj == b.obj && decide (b.tile < a.tile))))

/-- May the copy be evicted at all (R131)? One that is not yet valid stays (DESIGN CHOICE, log 181). -/
def TileCopy.evictable (c : TileCopy) : Bool := c.valid && !c.pinned && c.holds == 0

/-- Are the two the same copy? -/
def TileCopy.same (a b : TileCopy) : Bool :=
  a.obj == b.obj && a.tile == b.tile && a.tier == b.tier && a.cluster == b.cluster

/-- Change one copy. -/
def State.modCopy (s : State) (c : TileCopy) (f : TileCopy → TileCopy) : State :=
  { s with tier := { s.tier with copies := s.tier.copies.map (fun e => if e.same c then f e else e) } }

/-- Does a media error lie in the copy? -/
def MediaFault.inCopy (c : TileCopy) (f : MediaFault) : Bool :=
  match f.place with
  | .copy obj b tier cluster => obj == c.obj && b / 64 == c.tile && tier == c.tier && cluster == c.cluster
  | _ => false

/-- Take one copy away, and its media errors with it (R138). -/
def dropCopy (s : State) (c : TileCopy) : State :=
  syncObj { s with tier := { s.tier with
    copies := s.tier.copies.filter (fun e => !e.same c), media := s.tier.media.filter (fun f => !f.inCopy c) } } c.obj

/-- Quota tiles of a domain came free: its pool copies of least age move in (R130). -/
def pullPool (d : Nat) (p : Space) : Nat → State → State
  | 0, s => s
  | n + 1, s =>
    if quotaOf s d p ≤ quotaUsed s d p then s
    else
      let young := fun (a b : TileCopy) =>
        let x := copyAge s a
        let y := copyAge s b
        decide (x < y) || (x == y && (decide (a.obj < b.obj) || (a.obj == b.obj && decide (a.tile < b.tile))))
      match leastBy young ((domCopies s d p).filter (·.pool)) with
      | none => s
      | some c => pullPool d p n (s.modCopy c (fun e => { e with pool := false }))

/-- Room for something that draws only on quota (R130): a free quota tile, or one made free within the quota. Copies that
`keep` names stay. -/
def takeQuota (s : State) (d : Nat) (p : Space) (keep : TileCopy → Bool) : Option State :=
  if quotaUsed s d p < quotaOf s d p then some s
  else
    match leastBy (olderThan s) ((domCopies s d p).filter (fun c => !c.pool && c.evictable && !keep c)) with
    | none => none
    | some c =>
      if poolUsed s p < poolSize s p then some (s.modCopy c (fun e => { e with pool := true })) else some (dropCopy s c)

/-- Room for an unpinned copy (R131): the state, and whether it takes a pool tile. -/
def takeAny (s : State) (d : Nat) (p : Space) (keep : TileCopy → Bool) : Option (State × Bool) :=
  if quotaUsed s d p < quotaOf s d p then some (s, false)
  else if poolUsed s p < poolSize s p then some (s, true)
  else
    match leastBy (olderThan s) (s.tier.copies.filter (fun c => c.inSpace p && c.pool && c.evictable && !keep c)) with
    | some c => some (dropCopy s c, true)
    | none =>
      match leastBy (olderThan s) ((domCopies s d p).filter (fun c => !c.pool && c.evictable && !keep c)) with
      | some c => some (dropCopy s c, false)
      | none => none

end Sys2Proof.Machine
end

