-- ==== Sys2Proof/Machine/Float.lean ====
section
/-! DEFINITION. The number formats of 04_tensor_arithmetic.md (R82 to R85) and IEEE 754 arithmetic on them: exact
values as an integer times a power of two, rounded once. -/

namespace Sys2Proof.Machine

/-- An exact value: NaN, an infinity, or `(-1)^neg * m * 2^e`. -/
inductive Fl where
  | nan
  | inf (neg : Bool)
  | fin (neg : Bool) (m : Nat) (e : Int)
  deriving DecidableEq, Repr

/-- A floating-point format (R83): exponent and mantissa widths and the bias; `noInf` marks E4M3, which has no
infinity and one NaN mantissa. -/
structure Fmt where
  ebits : Nat
  mbits : Nat
  bias  : Nat
  noInf : Bool
  deriving DecidableEq, Repr

/-- FP8 E4M3 (R83). -/
def fmtE4M3 : Fmt := ⟨4, 3, 7, true⟩
/-- FP8 E5M2 (R83). -/
def fmtE5M2 : Fmt := ⟨5, 2, 15, false⟩
/-- IEEE binary16 (R83). -/
def fmtFP16 : Fmt := ⟨5, 10, 15, false⟩
/-- BF16 (R83). -/
def fmtBF16 : Fmt := ⟨8, 7, 127, false⟩
/-- IEEE binary32 (R83). -/
def fmtF32 : Fmt := ⟨8, 23, 127, false⟩
/-- IEEE binary64 (R338). -/
def fmtF64 : Fmt := ⟨11, 52, 1023, false⟩

/-- The exponent of the format's least subnormal. -/
def Fmt.emin (f : Fmt) : Int := 1 - (f.bias : Int) - (f.mbits : Int)

/-- The canonical NaN (R85; R338 for binary64). -/
def Fmt.nan (f : Fmt) : Nat :=
  if f.noInf then 2 ^ (f.ebits + f.mbits) - 1
  else (2 ^ f.ebits - 1) * 2 ^ f.mbits + 2 ^ (f.mbits - 1)

/-- The code of the largest finite magnitude (R83). -/
def Fmt.maxFinite (f : Fmt) : Nat :=
  if f.noInf then 2 ^ (f.ebits + f.mbits) - 2 else (2 ^ f.ebits - 1) * 2 ^ f.mbits - 1

/-- The code of +infinity. -/
def Fmt.infinity (f : Fmt) : Nat := (2 ^ f.ebits - 1) * 2 ^ f.mbits

/-- The sign bit of the format, or 0. -/
def Fmt.signBit (f : Fmt) (neg : Bool) : Nat := if neg then 2 ^ (f.ebits + f.mbits) else 0

/-- The exact value of a code (R83, R84, R85). -/
def Fmt.decode (f : Fmt) (c : Nat) : Fl :=
  let neg := (c >>> (f.ebits + f.mbits)) % 2 == 1
  let e := (c >>> f.mbits) % 2 ^ f.ebits
  let m := c % 2 ^ f.mbits
  if e = 2 ^ f.ebits - 1 ∧ (if f.noInf then m = 2 ^ f.mbits - 1 else m ≠ 0) then .nan
  else if e = 2 ^ f.ebits - 1 ∧ f.noInf = false then .inf neg
  else if e = 0 then .fin neg m f.emin
  else .fin neg (2 ^ f.mbits + m) (f.emin + (e : Int) - 1)

/-- The rounding modes of R97; `sr r` is stochastic rounding with the draw `r` of R101. -/
inductive RMode where
  | rne
  | rtz
  | sr (r : Nat)
  deriving DecidableEq, Repr

/-- Round `m / 2^s` to an integer. `m` may carry a sticky low bit. -/
def roundShift (mode : RMode) (m s : Nat) : Nat :=
  let q := m >>> s
  let r := m % 2 ^ s
  match mode with
  | .rtz => q
  | .rne => if 2 * r > 2 ^ s ∨ (2 * r = 2 ^ s ∧ q % 2 = 1) then q + 1 else q
  | .sr d => if (r * 2 ^ 32) / 2 ^ s + d ≥ 2 ^ 32 then q + 1 else q

/-- Round the magnitude `m * 2^e` to the format's grid as if the exponent range had no upper limit (R98): the
magnitude's code, which exceeds `maxFinite` when the value overflows. -/
def Fmt.roundMag (f : Fmt) (mode : RMode) (m : Nat) (e : Int) : Nat :=
  if m = 0 then 0 else
  let q : Int := max (e + (Nat.log2 m : Int) - (f.mbits : Int)) f.emin
  let n := if q ≤ e then m <<< (e - q).toNat else roundShift mode m (q - e).toNat
  (q - f.emin).toNat * 2 ^ f.mbits + n

/-- IEEE rounding to a code with round-to-nearest-even: overflow gives infinity (R90.5). -/
def Fmt.encode (f : Fmt) : Fl → Nat
  | .nan => f.nan
  | .inf neg => f.signBit neg + f.infinity
  | .fin neg m e =>
    let c := f.roundMag .rne m e
    f.signBit neg + (if c > f.maxFinite then f.infinity else c)

/-- Negation of an exact value. -/
def Fl.negate : Fl → Fl
  | .nan => .nan
  | .inf n => .inf (!n)
  | .fin n m e => .fin (!n) m e

/-- The signed integer mantissa. -/
def signedMant (neg : Bool) (m : Nat) : Int := if neg then -(m : Int) else (m : Int)

/-- The exact sum of two finite values as a mantissa at the lower exponent. -/
def alignSum (m1 : Int) (e1 : Int) (m2 : Int) (e2 : Int) : Int × Int :=
  let e := min e1 e2
  (m1 * ((2 ^ (e1 - e).toNat : Nat) : Int) + m2 * ((2 ^ (e2 - e).toNat : Nat) : Int), e)

/-- The exact sum, with the IEEE sign of an exact zero under round-to-nearest-even. -/
def Fl.add : Fl → Fl → Fl
  | .nan, _ => .nan
  | _, .nan => .nan
  | .inf a, .inf b => if a = b then .inf a else .nan
  | .inf a, _ => .inf a
  | _, .inf b => .inf b
  | .fin n1 m1 e1, .fin n2 m2 e2 =>
    let s := alignSum (signedMant n1 m1) e1 (signedMant n2 m2) e2
    if s.1 = 0 then .fin (n1 && n2) 0 0 else .fin (decide (s.1 < 0)) s.1.natAbs s.2

/-- The exact product. -/
def Fl.mul : Fl → Fl → Fl
  | .nan, _ => .nan
  | _, .nan => .nan
  | .inf a, .inf b => .inf (a != b)
  | .inf a, .fin n m _ => if m = 0 then .nan else .inf (a != n)
  | .fin n m _, .inf b => if m = 0 then .nan else .inf (n != b)
  | .fin n1 m1 e1, .fin n2 m2 e2 => .fin (n1 != n2) (m1 * m2) (e1 + e2)

/-- The quotient to `p` significant bits and a sticky bit. -/
def Fl.div (p : Nat) : Fl → Fl → Fl
  | .nan, _ => .nan
  | _, .nan => .nan
  | .inf _, .inf _ => .nan
  | .inf a, .fin n _ _ => .inf (a != n)
  | .fin n _ _, .inf b => .fin (n != b) 0 0
  | .fin n1 m1 e1, .fin n2 m2 e2 =>
    if m2 = 0 then (if m1 = 0 then .nan else .inf (n1 != n2))
    else
      let k := p + 3 + Nat.log2 m2
      let q := (m1 <<< k) / m2
      let r := (m1 <<< k) % m2
      .fin (n1 != n2) (2 * q + (if r = 0 then 0 else 1)) (e1 - e2 - (k : Int) - 1)

/-- The square root to `p` significant bits and a sticky bit. -/
def Fl.sqrt (p : Nat) : Fl → Fl
  | .nan => .nan
  | .inf true => .nan
  | .inf false => .inf false
  | .fin n m e =>
    if m = 0 then .fin n 0 0
    else if n then .nan
    else
      let k0 := 2 * (p + 3)
      let k := if (e - (k0 : Int)) % 2 = 0 then k0 else k0 + 1
      let a := m <<< k
      let r := isqrt a
      .fin false (2 * r + (if r * r = a then 0 else 1)) ((e - (k : Int)) / 2 - 1)

/-- Is `a < b`, with -0 equal to +0 and every comparison with a NaN false? -/
def Fl.lt : Fl → Fl → Bool
  | .nan, _ => false
  | _, .nan => false
  | .inf a, .inf b => a && !b
  | .inf a, .fin _ _ _ => a
  | .fin _ _ _, .inf b => !b
  | .fin n1 m1 e1, .fin n2 m2 e2 =>
    decide ((alignSum (signedMant n1 m1) e1 (-(signedMant n2 m2)) e2).1 < 0)

/-- Is the value a NaN? -/
def Fl.isNan : Fl → Bool
  | .nan => true
  | _ => false

/-- Is the value finite? -/
def Fl.isFin : Fl → Bool
  | .fin _ _ _ => true
  | _ => false

/-- The magnitude of the value. -/
def Fl.abs : Fl → Fl
  | .nan => .nan
  | .inf _ => .inf false
  | .fin _ m e => .fin false m e

/-- An integer as an exact value. -/
def Fl.ofInt (v : Int) : Fl := .fin (decide (v < 0)) v.natAbs 0

/-- floor of a finite value; 0 otherwise. -/
def Fl.floor : Fl → Int
  | .fin n m e =>
    let v := signedMant n m
    if 0 ≤ e then v * ((2 ^ e.toNat : Nat) : Int) else v / ((2 ^ (-e).toNat : Nat) : Int)
  | _ => 0

/-- A finite value times `2^k`. -/
def Fl.scale (k : Int) : Fl → Fl
  | .fin n m e => .fin n m (e + k)
  | x => x

/-! ### binary32 operations, each rounded once with round-to-nearest-even (R185, R102, R303) -/

/-- binary32 sum. -/
def f32add (a b : Nat) : Nat := fmtF32.encode ((fmtF32.decode a).add (fmtF32.decode b))
/-- binary32 difference. -/
def f32sub (a b : Nat) : Nat := fmtF32.encode ((fmtF32.decode a).add (fmtF32.decode b).negate)
/-- binary32 product. -/
def f32mul (a b : Nat) : Nat := fmtF32.encode ((fmtF32.decode a).mul (fmtF32.decode b))
/-- binary32 fusedMultiplyAdd `a * b + c`. -/
def f32fma (a b c : Nat) : Nat :=
  fmtF32.encode (((fmtF32.decode a).mul (fmtF32.decode b)).add (fmtF32.decode c))
/-- binary32 quotient. -/
def f32div (a b : Nat) : Nat := fmtF32.encode (Fl.div 24 (fmtF32.decode a) (fmtF32.decode b))
/-- binary32 square root. -/
def f32sqrt (a : Nat) : Nat := fmtF32.encode (Fl.sqrt 24 (fmtF32.decode a))
/-- binary32 `a < b` (R186 FLT). -/
def f32lt (a b : Nat) : Bool := (fmtF32.decode a).lt (fmtF32.decode b)
/-- The opposite sign. -/
def f32neg (a : Nat) : Nat := a ^^^ 0x80000000
/-- binary32 of an integer. -/
def f32ofInt (v : Int) : Nat := fmtF32.encode (Fl.ofInt v)

/-- i64 of a value rounded toward zero, saturating, with 0 for a NaN (R186 FCVTFI). -/
def truncI64 (x : Fl) : Int :=
  match x with
  | .nan => 0
  | .inf true => -(2 ^ 63)
  | .inf false => 2 ^ 63 - 1
  | .fin n m e =>
    let t : Nat := if 0 ≤ e then m <<< (min e.toNat 4096) else m >>> (-e).toNat
    clampI (signedMant n t) (-(2 ^ 63)) (2 ^ 63 - 1)

/-! ### binary64 operations (R338) -/

/-- binary64 sum. -/
def f64add (a b : Nat) : Nat := fmtF64.encode ((fmtF64.decode a).add (fmtF64.decode b))
/-- binary64 difference. -/
def f64sub (a b : Nat) : Nat := fmtF64.encode ((fmtF64.decode a).add (fmtF64.decode b).negate)
/-- binary64 product. -/
def f64mul (a b : Nat) : Nat := fmtF64.encode ((fmtF64.decode a).mul (fmtF64.decode b))
/-- binary64 fusedMultiplyAdd. -/
def f64fma (a b c : Nat) : Nat :=
  fmtF64.encode (((fmtF64.decode a).mul (fmtF64.decode b)).add (fmtF64.decode c))
/-- binary64 quotient. -/
def f64div (a b : Nat) : Nat := fmtF64.encode (Fl.div 53 (fmtF64.decode a) (fmtF64.decode b))
/-- binary64 square root. -/
def f64sqrt (a : Nat) : Nat := fmtF64.encode (Fl.sqrt 53 (fmtF64.decode a))
/-- binary64 `a < b`. -/
def f64lt (a b : Nat) : Bool := (fmtF64.decode a).lt (fmtF64.decode b)
/-- The opposite sign, NaN kept canonical. -/
def f64neg (a : Nat) : Nat := fmtF64.encode (fmtF64.decode a).negate
/-- binary64 of an integer. -/
def f64ofInt (v : Int) : Nat := fmtF64.encode (Fl.ofInt v)
/-- Is the code a finite binary64? -/
def f64finite (a : Nat) : Bool := (fmtF64.decode a).isFin
/-- Is the code a finite binary32? -/
def f32finite (a : Nat) : Bool := (fmtF32.decode a).isFin
/-- binary64 1.0. -/
def f64one : Nat := 0x3FF0000000000000
/-- binary32 1.0. -/
def f32one : Nat := 0x3F800000

/-! ### Correctly rounded sin, cos and atan (R303, R338, R274)

Each is evaluated in fixed point with far more bits than any rounding of these formats can need, then rounded
once. -/

/-- Sum of `x^(2k+1) / d^(2k+1) ...`: the alternating series of atan(1/n) scaled by `2^w`. -/
def atanInvAux : Nat → Nat → Nat → Nat → Int → Int → Int
  | 0, _, _, _, _, acc => acc
  | fuel + 1, n2, k, p, sgn, acc =>
    if p = 0 then acc
    else atanInvAux fuel n2 (k + 2) (p / n2) (-sgn) (acc + sgn * ((p / k : Nat) : Int))

/-- atan(1/n) in units of `2^-w`. -/
def atanInv (w n : Nat) : Int := atanInvAux w (n * n) 1 (2 ^ w / n) 1 0

/-- pi in units of `2^-w` (Machin's formula, 32 guard bits). -/
def piFix (w : Nat) : Nat :=
  ((16 * atanInv (w + 32) 5 - 4 * atanInv (w + 32) 239) / ((2 ^ 32 : Nat) : Int)).toNat

/-- The fraction bits of the fixed-point trigonometry. -/
def trigBits : Nat := 1400

/-- Taylor series in fixed point: `term` times `r2 / ((k+1)(k+2))`, alternating. -/
def taylorAux : Nat → Nat → Nat → Nat → Int → Int → Int
  | 0, _, _, _, _, acc => acc
  | fuel + 1, r2, k, term, sgn, acc =>
    if term = 0 then acc
    else
      taylorAux fuel r2 (k + 2) ((term * r2 >>> trigBits) / ((k + 1) * (k + 2))) (-sgn) (acc + sgn * (term : Int))

/-- sin(r) in units of `2^-trigBits`, for 0 ≤ r < pi/2. -/
def sinSmall (r : Nat) : Int := taylorAux 600 (r * r >>> trigBits) 1 r 1 0

/-- cos(r) in units of `2^-trigBits`, for 0 ≤ r < pi/2. -/
def cosSmall (r : Nat) : Int := taylorAux 600 (r * r >>> trigBits) 0 (2 ^ trigBits) 1 0

/-- The quadrant of `m * 2^e` and the remainder in units of `2^-trigBits`. -/
def trigReduce (m : Nat) (e : Int) : Nat × Nat :=
  let halfPi := piFix (trigBits + 1100) / 2
  let x : Nat := if 0 ≤ e + (trigBits + 1100 : Int) then m <<< (e + (trigBits + 1100 : Int)).toNat
    else m >>> (-(e + (trigBits + 1100 : Int))).toNat
  ((x / halfPi) % 4, (x % halfPi) >>> 1100)

/-- sin of a finite value, as an exact fixed-point value. -/
def flSin : Fl → Fl
  | .fin n m e =>
    if m = 0 then .fin n 0 0
    else if e + (Nat.log2 m : Int) < -40 then
      -- x - x^3/6 rounds as the value just below |x|
      .fin n (m * 2 ^ 80 - 1) (e - 80)
    else
      let q := trigReduce m e
      let v : Int := match q.1 with
        | 0 => sinSmall q.2
        | 1 => cosSmall q.2
        | 2 => -(sinSmall q.2)
        | _ => -(cosSmall q.2)
      .fin (n != decide (v < 0)) v.natAbs (-(trigBits : Int))
  | _ => .nan

/-- cos of a finite value, as an exact fixed-point value. -/
def flCos : Fl → Fl
  | .fin _ m e =>
    if m = 0 then .fin false 1 0
    else if e + (Nat.log2 m : Int) < -200 then .fin false (2 ^ 400 - 1) (-400)
    else
      let q := trigReduce m e
      let v : Int := match q.1 with
        | 0 => cosSmall q.2
        | 1 => -(sinSmall q.2)
        | 2 => -(cosSmall q.2)
        | _ => sinSmall q.2
      .fin (decide (v < 0)) v.natAbs (-(trigBits : Int))
  | _ => .nan

/-- binary64 sin, correctly rounded (R338). -/
def f64sin (a : Nat) : Nat := fmtF64.encode (flSin (fmtF64.decode a))
/-- binary64 cos, correctly rounded (R338). -/
def f64cos (a : Nat) : Nat := fmtF64.encode (flCos (fmtF64.decode a))

/-- The fraction bits of the fixed-point arctangent. -/
def atanBits : Nat := 480

/-- Euler's series of atan: terms `t * 2k/(2k+1) * y`, with `y = x^2/(1+x^2)`. -/
def eulerAux : Nat → Nat → Nat → Nat → Nat → Nat
  | 0, _, _, _, acc => acc
  | fuel + 1, y, k, t, acc =>
    if t = 0 then acc
    else eulerAux fuel y (k + 1) ((t * y >>> atanBits) * (2 * k) / (2 * k + 1)) (acc + t)

/-- atan(a / b) in units of `2^-atanBits`, for 0 ≤ a ≤ b, 0 < b. -/
def atanRatio (a b : Nat) : Nat :=
  let s := a * a + b * b
  eulerAux 500 ((a * a <<< atanBits) / s) 1 ((a * b <<< atanBits) / s) 0

/-- atan of a non-negative ratio in units of `2^-atanBits`. -/
def atanPos (a b : Nat) : Nat :=
  if a ≤ b then atanRatio a b else piFix atanBits / 2 - atanRatio b a

/-- binary32 atan, correctly rounded (R303). -/
def f32atan (a : Nat) : Nat :=
  match fmtF32.decode a with
  | .nan => fmtF32.nan
  | .inf n => fmtF32.signBit n + fmtF32.encode (.fin false (piFix atanBits) (-(atanBits : Int) - 1))
  | .fin n m e =>
    if m = 0 then a
    else if e + (Nat.log2 m : Int) < -60 then fmtF32.encode (.fin n (m * 2 ^ 80 - 1) (e - 80))
    else
      let r := if 0 ≤ e then atanPos (m <<< e.toNat) 1 else atanPos m (2 ^ (-e).toNat)
      fmtF32.encode (.fin n r (-(atanBits : Int)))

/-- round(atan2(y, x) * 128 / pi) mod 256 (R274): the angle in units of 2pi / 256. -/
def atan2Units (y x : Int) : Nat :=
  if y = 0 ∧ x = 0 then 0 else
  let a := atanPos y.natAbs (max x.natAbs 1)
  let a := if x = 0 then piFix atanBits / 2 else a
  let pi := piFix atanBits
  let t : Int := if x < 0 then (pi : Int) - a else a
  let t : Int := if y < 0 then -t else t
  let num : Int := 256 * t + pi
  ((num / (2 * (pi : Int))) % 256).toNat

end Sys2Proof.Machine
end

