-- ==== Sys2Proof/Machine/Tensor.lean ====
section
/-! DEFINITION. Tensor arithmetic as exact functions of bytes: engine tiles, cell steps, output conversion, the
nonlinear unit (04_tensor_arithmetic.md, R145 to R155). -/

namespace Sys2Proof.Machine

/-- An operand as it was read: none where a byte could not be read. -/
abbrev Blob := Array (Option Byte)

/-- A byte of an operand. -/
def blobByte (b : Blob) (i : Nat) : Nat := (((b[i]?).getD none).getD 0).toNat

/-- Could the `n` bytes at `o` not all be read? -/
def blobBad (b : Blob) (o n : Nat) : Bool := (List.range n).any (fun i => ((b[o + i]?).getD none).isNone)

/-- `n` little-endian bytes of an operand. -/
def blobLe (b : Blob) (o : Nat) : Nat → Nat
  | 0 => 0
  | n + 1 => blobByte b o + 256 * blobLe b (o + 1) n

/-! ### Formats and engine tiles (R81, R148, R149) -/

/-- The floating-point format of a code (R81). -/
def opFmt (f : Nat) : Option Fmt :=
  match f with
  | 2 => some fmtE4M3
  | 3 => some fmtE5M2
  | 4 => some fmtFP16
  | 5 => some fmtBF16
  | 6 => some fmtF32
  | _ => none

/-- The engine-tile geometry of a format: tile rows and columns, block columns, bytes of a block (R148). -/
structure Geom where
  rows  : Nat
  cols  : Nat
  bcols : Nat
  bsize : Nat
  deriving DecidableEq, Repr

/-- The table of R148. -/
def geomOf (f : Nat) : Geom :=
  match f with
  | 0 => ⟨64, 128, 8, 16⟩
  | 4 => ⟨64, 32, 4, 32⟩
  | 5 => ⟨64, 32, 4, 32⟩
  | 6 => ⟨32, 32, 4, 64⟩
  | 7 => ⟨56, 128, 8, 16⟩
  | 8 => ⟨32, 32, 4, 64⟩
  | _ => ⟨64, 64, 4, 16⟩

/-- Bytes of one element that fills whole bytes. -/
def elemBytes (f : Nat) : Nat := if f = 4 ∨ f = 5 then 2 else if f = 6 ∨ f = 8 then 4 else 1

/-- Is the element a nibble? -/
def isNibble (f : Nat) : Bool := f == 0 || f == 7

/-- Engine tiles across a row of `q` columns. -/
def tileCols (f q : Nat) : Nat := ceilDiv q (geomOf f).cols

/-- Engine tiles of a tensor. -/
def tensorTiles (f r q : Nat) : Nat := ceilDiv r (geomOf f).rows * tileCols f q

/-- Bytes of a tensor's engine tiles. -/
def tensorBytes (f r q : Nat) : Nat := 4096 * tensorTiles f r q

/-- The engine tile of element (r, c). -/
def tileIndex (f q r c : Nat) : Nat := (r / (geomOf f).rows) * tileCols f q + c / (geomOf f).cols

/-- The offset of element (r, c) within its engine tile (R148). -/
def inTile (f r c : Nat) : Nat :=
  let g := geomOf f
  let lr := r % g.rows
  let lc := c % g.cols
  let blk := (lr / 4) * (g.cols / g.bcols) + lc / g.bcols
  let within := if isNibble f then (lr % 4) * 4 + (lc % 8) / 2 else ((lr % 4) * 4 + lc % 4) * elemBytes f
  blk * g.bsize + within

/-- The byte offset of element (r, c) of a tensor of `q` columns. -/
def elemOff (f q r c : Nat) : Nat := tileIndex f q r c * 4096 + inTile f r c

/-- The offset of the scale pair of a BSQ4 element within its engine tile (R149). -/
def scaleInTile (r c : Nat) : Nat := 3584 + ((r % 56) * 4 + (c % 128) / 32) * 2

/-- The offset of the scale pair of a BSQ4 element. -/
def scaleOff (q r c : Nat) : Nat := tileIndex 7 q r c * 4096 + scaleInTile r c

/-- The code of element (r, c) (R82, R83). -/
def elemCode (f : Nat) (b : Blob) (q r c : Nat) : Nat :=
  let o := elemOff f q r c
  if isNibble f then (if c % 2 = 0 then blobByte b o % 16 else blobByte b o / 16) else blobLe b o (elemBytes f)

/-- Could the element's bytes not be read? -/
def elemBad (f : Nat) (b : Blob) (q r c : Nat) : Bool :=
  blobBad b (elemOff f q r c) (elemBytes f) || (f == 7 && blobBad b (scaleOff q r c) 2)

/-- The value of a BSQ4 element (R87). -/
def bsqValue (q e m : Nat) : Fl :=
  if e = 255 then .nan
  else
    let v := sextN 4 q
    .fin (decide (v < 0)) v.natAbs ((e : Int) - 127 - m)

/-- The exact value of a code that is not BSQ4. -/
def codeValue (f code : Nat) : Fl :=
  match opFmt f with
  | some t => t.decode code
  | none => Fl.ofInt (sextN (if f = 0 then 4 else if f = 8 then 32 else 8) code)

/-- The exact value of element (r, c) (R83, R87). -/
def elemValue (f : Nat) (b : Blob) (q r c : Nat) : Fl :=
  let code := elemCode f b q r c
  if f = 7 then
    let o := scaleOff q r c
    bsqValue code (blobByte b o) (blobByte b (o + 1) / 4 ^ (c % 32 / 8) % 4)
  else codeValue f code

/-- The integer of an INT4 or INT8 element. -/
def elemInt (f : Nat) (b : Blob) (q r c : Nat) : Int := sextN (if f = 0 then 4 else 8) (elemCode f b q r c)

/-! ### Operand pairs (R79) -/

/-- Do INT8 and INT4 operands accumulate in INT32? -/
def intPair (a b : Nat) : Bool := decide (a ≤ 1) && decide (b ≤ 1)

/-- The step width K_S of an operand pair; none where the table of R79 has no row. -/
def stepWidth (a b : Nat) (sparse : Bool) : Option Nat :=
  if a = 1 ∧ (b = 0 ∨ b = 1 ∨ b = 7) then some (if sparse then 8 else 4)
  else if (a = 0 ∧ b = 0) ∨ (a = 7 ∧ b = 7) then some (if sparse then 16 else 8)
  else if (a = 2 ∨ a = 3) ∧ (b = 2 ∨ b = 3) then some (if sparse then 8 else 4)
  else if a = b ∧ (a = 4 ∨ a = 5 ∨ a = 6) then (if sparse then none else some 4)
  else none

/-! ### The tensor descriptor (R145) -/

/-- A tensor descriptor. -/
structure Layer where
  raw    : List Byte
  opc    : Nat
  afmt   : Nat
  bfmt   : Nat
  ofmt   : Nat
  round  : Nat
  sat    : Bool
  sparse : Bool
  skip   : Bool
  initEn : Bool
  fuse   : Bool
  last   : Bool
  ksplit : Nat
  occOut : Bool
  waitn  : Nat
  m      : Nat
  n      : Nat
  k      : Nat
  scale  : Nat
  mult   : Int
  shift  : Nat
  zp     : Int
  range  : Bool
  rangeFail : Bool
  digest : Bool
  func   : Nat
  a      : Word
  b      : Word
  c      : Word
  init   : Word
  occ    : Word
  aux    : Word
  seed   : Word
  eps    : Nat
  lo     : Nat
  hi     : Nat
  wait   : Word
  post   : Word
  prog   : Word
  deriving DecidableEq, Repr

/-- Read a descriptor (R145). -/
def parseLayer (raw : List Byte) : Layer :=
  let t := wordAt raw 0
  { raw := raw, opc := bitsOf t 3 0, afmt := bitsOf t 7 4, bfmt := bitsOf t 11 8, ofmt := bitsOf t 15 12,
    round := bitsOf t 17 16, sat := bitOf t 18, sparse := bitOf t 19, skip := bitOf t 20, initEn := bitOf t 21,
    fuse := bitOf t 22, last := bitOf t 23, ksplit := bitsOf t 27 24 + 1, occOut := bitOf t 28,
    waitn := bitsOf t 47 32, m := u32At raw 8, n := u32At raw 12, k := u32At raw 16, scale := u32At raw 20,
    mult := sextN 32 (u32At raw 24), shift := u8At raw 28, zp := sextN 8 (u8At raw 29),
    range := u8At raw 30 % 2 == 1, rangeFail := u8At raw 30 / 2 % 2 == 1, digest := u8At raw 30 / 4 % 2 == 1,
    func := u8At raw 31, a := wordAt raw 32, b := wordAt raw 40, c := wordAt raw 48, init := wordAt raw 56,
    occ := wordAt raw 64, aux := wordAt raw 72, seed := wordAt raw 80, eps := u32At raw 88, lo := u32At raw 92,
    hi := u32At raw 96, wait := wordAt raw 104, post := wordAt raw 112, prog := wordAt raw 120 }

/-- A matrix product or a geometry composition. -/
def Layer.isMat (l : Layer) : Bool := l.opc == 1 || l.opc == 2

/-- Does the layer accumulate in INT32? -/
def Layer.isInt (l : Layer) : Bool := l.opc == 1 && intPair l.afmt l.bfmt

/-- The step width of the layer. -/
def Layer.ks (l : Layer) : Nat := if l.opc = 2 then 4 else max 1 ((stepWidth l.afmt l.bfmt l.sparse).getD 4)

/-- Steps of the reduction, S (R154). -/
def Layer.steps (l : Layer) : Nat := ceilDiv l.k l.ks

/-- Steps of a part, Lp (R154). -/
def Layer.partLen (l : Layer) : Nat := ceilDiv l.steps l.ksplit

/-- Columns of A as stored. -/
def Layer.acols (l : Layer) : Nat := if l.isMat then l.k else l.n

/-- Columns of B as stored (R150, R153). -/
def Layer.bcols (l : Layer) : Nat := if l.sparse then 2 * ceilDiv l.k 4 else l.k

/-- Bytes of an occupancy map (R152). -/
def mapBytes (r q : Nat) : Nat := ceilDiv (ceilDiv r 4 * ceilDiv q 4) 8

/-- The operands of a layer. -/
structure Operands where
  a    : Blob
  b    : Blob
  init : Blob
  occ  : Blob
  aux  : Blob

/-! ### Products and accumulation (R89 to R94) -/

/-- The occupancy bit of element (r, c) in the map of a tensor of `q` columns (R152): its index. -/
def occIndex (q r c : Nat) : Nat := (r / 4) * ceilDiv q 4 + c / 4

/-- Is the block of A that holds (i, k) computed (R94)? -/
def Layer.occupied (l : Layer) (o : Operands) (i k : Nat) : Bool :=
  !l.skip || (let x := occIndex l.k i k; blobByte o.occ (x / 8) / 2 ^ (x % 8) % 2 == 1)

/-- The index nibble of group `g` of column `j` (R153). -/
def Layer.nibble (l : Layer) (o : Operands) (j g : Nat) : Nat := elemCode 0 o.aux (ceilDiv l.k 4) j g

/-- The positions that step `t` contributes for output (i, j): k, and where B stores it (R89, R93). -/
def Layer.positions (l : Layer) (o : Operands) (i j t : Nat) : List (Nat × Nat) :=
  let ps :=
    if l.sparse then
      (List.range (l.ks / 4)).flatMap (fun d =>
        let g := t * (l.ks / 4) + d
        if ceilDiv l.k 4 ≤ g then []
        else
          let x := l.nibble o j g
          [(4 * g + x % 4, 2 * g), (4 * g + x / 4 % 4, 2 * g + 1)])
    else (List.range l.ks).map (fun d => (t * l.ks + d, t * l.ks + d))
  ps.filter (fun p => decide (p.1 < l.k) && l.occupied o i p.1)

/-- One step of an FP32 accumulator (R90). -/
def fpStep (c : Nat) (ps : List Fl) : Nat :=
  let cv := fmtF32.decode c
  let all := cv :: ps
  if all.any Fl.isNan then fmtF32.nan
  else if all.any (fun x => x == .inf false) && all.any (fun x => x == .inf true) then fmtF32.nan
  else if all.any (fun x => x == .inf false) then fmtF32.infinity
  else if all.any (fun x => x == .inf true) then fmtF32.signBit true + fmtF32.infinity
  else
    match ps.foldl Fl.add (.fin false 0 0) with
    | .fin _ 0 _ => c
    | t => fmtF32.encode (cv.add t)

/-- sat32 (R91), and whether it clamped. -/
def satStep (c t : Int) : Int × Nat :=
  let v := c + t
  let r := clampI v (-(2 ^ 31)) (2 ^ 31 - 1)
  (r, if r = v then 0 else 1)

/-- An accumulator: INT32 or the code of an FP32. -/
inductive Acc where
  | int (v : Int)
  | flt (c : Nat)
  deriving DecidableEq, Repr

/-- The steps of part `p` (R154). -/
def Layer.partSteps (l : Layer) (p : Nat) : List Nat :=
  (List.range l.partLen).map (fun d => p * l.partLen + d) |>.filter (fun t => decide (t < l.steps))

/-- A part of an INT32 reduction, with its saturation count (R91, R92). -/
def Layer.intPart (l : Layer) (o : Operands) (i j p : Nat) (c0 : Int) : Int × Nat :=
  (l.partSteps p).foldl (fun r t =>
    let sum := (l.positions o i j t).foldl (fun acc e =>
      acc + elemInt l.afmt o.a l.k i e.1 * elemInt l.bfmt o.b l.bcols j e.2) 0
    let x := satStep r.1 sum
    (x.1, r.2 + x.2)) (c0, 0)

/-- A part of an FP32 reduction (R90, R92). -/
def Layer.fpPart (l : Layer) (o : Operands) (i j p c0 : Nat) : Nat :=
  (l.partSteps p).foldl (fun c t =>
    fpStep c ((l.positions o i j t).map (fun e =>
      match elemValue l.afmt o.a l.k i e.1, elemValue l.bfmt o.b l.bcols j e.2 with
      | x, y => x.mul y))) c0

/-- A part of a geometry chain (R102). -/
def Layer.geoPart (l : Layer) (o : Operands) (i j p c0 : Nat) : Nat :=
  (l.partSteps p).foldl (fun c t =>
    (l.positions o i j t).foldl (fun c e => f32fma (elemCode 6 o.a l.k i e.1) (elemCode 6 o.b l.k j e.2) c) c) c0

/-- The initial value of column `j` (R155). -/
def Layer.initCode (l : Layer) (o : Operands) (j : Nat) : Nat := if l.initEn then blobLe o.init (4 * j) 4 else 0

/-- The accumulator of output (i, j), with the saturated steps (R92). -/
def Layer.accumulate (l : Layer) (o : Operands) (i j : Nat) : Acc × Nat :=
  let c0 := l.initCode o j
  let rest := (List.range (l.ksplit - 1)).map (· + 1)
  if l.isInt then
    let r := rest.foldl (fun (r : Int × Nat) p =>
      let x := l.intPart o i j p 0
      let y := satStep r.1 x.1
      (y.1, r.2 + x.2 + y.2)) (l.intPart o i j 0 (sextN 32 c0))
    (.int r.1, r.2)
  else if l.opc = 2 then
    (.flt (rest.foldl (fun r p => f32add r (l.geoPart o i j p 0)) (l.geoPart o i j 0 c0)), 0)
  else
    (.flt (rest.foldl (fun r p => fpStep r [fmtF32.decode (l.fpPart o i j p 0)]) (l.fpPart o i j 0 c0)), 0)

/-! ### The nonlinear unit (R104 to R108) -/

/-- A coefficient of the function table: the bytes of the FUNC_TABLE section (R106, R413). -/
def coef (tab : List Byte) (seg i : Nat) : Fl := fmtF32.decode (u32At tab (16 * seg + 4 * i))

/-- One fma whose multiplier `t` is exact. -/
def fmaFl (a t c : Fl) : Fl := fmtF32.decode (fmtF32.encode ((a.mul t).add c))

/-- Segment and `t` of `u` = `m * 2^e` in [0, 1): floor(64u) and 64u − floor(64u), in the odd half of rsqrt too (DEDUCED,
log 180). -/
def segmentOf (m : Nat) (e : Int) : Nat × Fl :=
  let e6 := e + 6
  if 0 ≤ e6 then (m <<< e6.toNat, .fin false 0 0)
  else
    let k := (-e6).toNat
    (m >>> k, .fin false (m % 2 ^ k) e6)

/-- The polynomial of a segment at `t` (R105). -/
def poly (tab : List Byte) (seg : Nat) (t : Fl) : Fl :=
  fmaFl (fmaFl (fmaFl (coef tab seg 3) t (coef tab seg 2)) t (coef tab seg 1)) t (coef tab seg 0)

/-- A table evaluated at `u` = `m * 2^e`, its segments from `base`. -/
def tabled (tab : List Byte) (base m : Nat) (e : Int) : Fl :=
  let s := segmentOf m e
  poly tab (base + s.1) s.2

/-- The fraction and exponent of a finite non-zero value: u = m − 1 as `frac * 2^(-w)`, and e (R105). -/
def mantParts (m : Nat) (e : Int) : Nat × Nat × Int :=
  let w := Nat.log2 m
  (m - 2 ^ w, w, e + w)

/-- x − floor(x) of a finite value, as `m * 2^e`. -/
def fracPart (neg : Bool) (m : Nat) (e : Int) : Nat × Int :=
  if 0 ≤ e then (0, 0)
  else
    let k := (-e).toNat
    ((signedMant neg m % ((2 ^ k : Nat) : Int)).toNat, e)

/-- exp2 (R105). -/
def fnExp2 (tab : List Byte) (x : Nat) : Nat :=
  match fmtF32.decode x with
  | .nan => fmtF32.nan
  | .inf true => 0
  | .inf false => fmtF32.infinity
  | .fin neg m e =>
    let f := fracPart neg m e
    -- beyond these bounds every table value overflows, or rounds to zero
    fmtF32.encode ((tabled tab 0 f.1 f.2).scale (clampI (Fl.floor (.fin neg m e)) (-100000) 100000))

/-- exp (R105). -/
def fnExp (tab : List Byte) (x : Nat) : Nat := fnExp2 tab (f32mul x 0x3FB8AA3B)

/-- log2 (R105). -/
def fnLog2 (tab : List Byte) (x : Nat) : Nat :=
  match fmtF32.decode x with
  | .nan => fmtF32.nan
  | .inf true => fmtF32.nan
  | .inf false => fmtF32.infinity
  | .fin neg m e =>
    if m = 0 then fmtF32.signBit true + fmtF32.infinity
    else if neg then fmtF32.nan
    else
      let p := mantParts m e
      fmtF32.encode ((Fl.ofInt p.2.2).add (tabled tab 64 p.1 (-(p.2.1 : Int))))

/-- ln (R105). -/
def fnLn (tab : List Byte) (x : Nat) : Nat := f32mul (fnLog2 tab x) 0x3F317218

/-- The sign applied to a value. -/
def Fl.withSign (neg : Bool) (x : Fl) : Fl := if neg then x.negate else x

/-- recip (R105). -/
def fnRecip (tab : List Byte) (x : Nat) : Nat :=
  match fmtF32.decode x with
  | .nan => fmtF32.nan
  | .inf n => fmtF32.signBit n
  | .fin neg m e =>
    if m = 0 then fmtF32.signBit neg + fmtF32.infinity
    else
      let p := mantParts m e
      fmtF32.encode (((tabled tab 128 p.1 (-(p.2.1 : Int))).scale (-p.2.2)).withSign neg)

/-- rsqrt (R105). -/
def fnRsqrt (tab : List Byte) (x : Nat) : Nat :=
  match fmtF32.decode x with
  | .nan => fmtF32.nan
  | .inf true => fmtF32.nan
  | .inf false => 0
  | .fin neg m e =>
    if m = 0 then fmtF32.signBit neg + fmtF32.infinity
    else if neg then fmtF32.nan
    else
      let p := mantParts m e
      fmtF32.encode ((tabled tab (if p.2.2 % 2 = 0 then 192 else 256) p.1 (-(p.2.1 : Int))).scale (-(p.2.2 / 2)))

/-- sqrt (R105). -/
def fnSqrt (tab : List Byte) (x : Nat) : Nat :=
  match fmtF32.decode x with
  | .nan => fmtF32.nan
  | .inf true => fmtF32.nan
  | .inf false => fmtF32.infinity
  | .fin neg m _ => if m = 0 then x else if neg then fmtF32.nan else f32mul x (fnRsqrt tab x)

/-- tanh (R105). -/
def fnTanh (tab : List Byte) (x : Nat) : Nat :=
  match fmtF32.decode x with
  | .nan => fmtF32.nan
  | .inf n => fmtF32.signBit n + f32one
  | .fin neg m e =>
    if m = 0 then x
    else if !(Fl.fin false m e).lt (.fin false 8 0) then fmtF32.signBit neg + f32one
    else fmtF32.encode ((tabled tab 320 m (e - 3)).withSign neg)

/-- sigmoid (R105). -/
def fnSigmoid (tab : List Byte) (x : Nat) : Nat :=
  match fmtF32.decode x with
  | .inf true => 0
  | .inf false => f32one
  | _ => f32fma 0x3F000000 (fnTanh tab (f32mul 0x3F000000 x)) 0x3F000000

/-- sin2pi and cos2pi (R105). -/
def fnTrig (tab : List Byte) (base x : Nat) : Nat :=
  match fmtF32.decode x with
  | .fin neg m e =>
    let f := fracPart neg m e
    fmtF32.encode (tabled tab base f.1 f.2)
  | _ => fmtF32.nan

/-- A function of the nonlinear unit by its code (R105). -/
def nonlinear (tab : List Byte) (code x : Nat) : Nat :=
  match code with
  | 0 => fnExp2 tab x
  | 1 => fnExp tab x
  | 2 => fnLog2 tab x
  | 3 => fnLn tab x
  | 4 => fnRecip tab x
  | 5 => fnRsqrt tab x
  | 6 => fnSqrt tab x
  | 7 => fnTanh tab x
  | 8 => fnSigmoid tab x
  | 9 => f32mul x (fnSigmoid tab x)
  | 10 => f32mul x (fnSigmoid tab (f32mul x 0x3FD9DB23))
  | 11 => fnTrig tab 384 x
  | _ => fnTrig tab 448 x

/-- Softmax of a row (R107). -/
def softmaxRow (tab : List Byte) (xs : List Nat) : List Nat :=
  let m := xs.foldl (fun m x => if f32lt m x then x else m) (xs.headD 0)
  if xs.any (fun x => (fmtF32.decode x).isNan) || !f32finite m then xs.map (fun _ => fmtF32.nan)
  else
    let es := xs.map (fun x => fnExp tab (f32sub x m))
    let r := fnRecip tab (es.foldl f32add 0)
    es.map (fun e => f32mul e r)

/-- Normalisation of a row with gains and biases (R108). -/
def normRow (tab : List Byte) (layerMode : Bool) (eps : Nat) (xs gs bs : List Nat) : List Nat :=
  let inv := f32div f32one (f32ofInt xs.length)
  let mu := if layerMode then f32mul (xs.foldl f32add 0) inv else 0
  let ds := xs.map (fun x => f32sub x mu)
  let v := ds.foldl (fun v d => f32fma d d v) 0
  let r := fnRsqrt tab (f32fma v inv eps)
  (ds.zip (gs.zip bs)).map (fun e => f32fma (f32mul e.1 r) e.2.1 e.2.2)

/-! ### Output conversion (R97 to R101, R88) -/

/-- The counts of R100. -/
structure Counts where
  overs  : Nat
  nan   : Nat
  clamp : Nat
  deriving DecidableEq, Repr

/-- The sum of two counts. -/
def Counts.add (a b : Counts) : Counts := ⟨a.overs + b.overs, a.nan + b.nan, a.clamp + b.clamp⟩

/-- The draw of R101 for an index. -/
def srDraw (seed : Word) (index : Nat) : Nat := (mixHash seed (BitVec.ofNat 64 index)).toNat / 2 ^ 32

/-- The rounding mode of the layer at an output index. -/
def Layer.rmode (l : Layer) (index : Nat) : RMode :=
  match l.round with
  | 0 => .rne
  | 1 => .rtz
  | _ => .sr (srDraw l.seed index)

/-- Round `v / 2^s` to an integer (R97, R101). -/
def roundInt (mode : RMode) (v : Int) (s : Nat) : Int :=
  let q := v / ((2 ^ s : Nat) : Int)
  let r := (v % ((2 ^ s : Nat) : Int)).toNat
  match mode with
  | .rne => if 2 * r > 2 ^ s ∨ (2 * r = 2 ^ s ∧ q % 2 = 1) then q + 1 else q
  | .rtz => if v < 0 ∧ r ≠ 0 then q + 1 else q
  | .sr d => if 2 ^ 32 ≤ r * 2 ^ 32 / 2 ^ s + d then q + 1 else q

/-- Round a finite value to an integer. -/
def roundFin (mode : RMode) (neg : Bool) (m : Nat) (e : Int) : Int :=
  if 0 ≤ e then signedMant neg m * ((2 ^ e.toNat : Nat) : Int) else roundInt mode (signedMant neg m) (-e).toNat

/-- The limits of an integer output (R99). -/
def outLimits (f : Nat) : Int × Int := if f = 0 then (-8, 7) else (-128, 127)

/-- sat_w with its CLAMP count (R99, R100). -/
def satOut (f : Nat) (q : Int) : Nat × Counts :=
  let l := outLimits f
  let v := clampI q l.1 l.2
  (codeN (if f = 0 then 4 else 8) v, ⟨0, 0, if v = q then 0 else 1⟩)

/-- A value to a float output (R98, R100). -/
def floatOut (t : Fmt) (mode : RMode) (sat : Bool) (p : Fl) : Nat × Counts :=
  match p with
  | .nan => (t.nan, ⟨0, 1, 0⟩)
  | .inf neg =>
    if sat then (t.signBit neg + t.maxFinite, ⟨1, 0, 0⟩)
    else if t.noInf then (t.nan, ⟨1, 1, 0⟩)
    else (t.signBit neg + t.infinity, ⟨1, 0, 0⟩)
  | .fin neg m e =>
    let c := t.roundMag mode m e
    if c ≤ t.maxFinite then (t.signBit neg + c, ⟨0, 0, 0⟩)
    else if sat || mode == .rtz then (t.signBit neg + t.maxFinite, ⟨1, 0, 0⟩)
    else if t.noInf then (t.nan, ⟨1, 1, 0⟩)
    else (t.signBit neg + t.infinity, ⟨1, 0, 0⟩)

/-- Stage 2 of R97: a binary32 `p` to any output but BSQ4 and INT32. -/
def Layer.stage2 (l : Layer) (p index : Nat) : Nat × Counts :=
  let v := fmtF32.decode p
  match opFmt l.ofmt with
  | some t => floatOut t (l.rmode index) l.sat v
  | none =>
    let lim := outLimits l.ofmt
    let w := if l.ofmt = 0 then 4 else 8
    match v with
    | .nan => (codeN w (clampI l.zp lim.1 lim.2), ⟨0, 1, 0⟩)
    | .inf neg => (codeN w (if neg then lim.1 else lim.2), ⟨0, 0, 1⟩)
    | .fin neg m e => satOut l.ofmt (roundFin (l.rmode index) neg m e + l.zp)

/-- Stage 1 of R97: `p` of an accumulator. -/
def Layer.stage1 (l : Layer) (acc : Acc) : Nat :=
  let v := match acc with
    | .int c => Fl.ofInt c
    | .flt c => fmtF32.decode c
  fmtF32.encode (v.mul (fmtF32.decode l.scale))

/-- floor(log2 |x|) of a finite non-zero value. -/
def lgFin (m : Nat) (e : Int) : Int := e + (Nat.log2 m : Int)

/-- The greatest floor(log2) of the finite non-zero values, if any. -/
def lgMax (xs : List Fl) : Option Int :=
  xs.foldl (fun b x =>
    match x with
    | .fin _ m e => if m = 0 then b else some (match b with
      | none => lgFin m e
      | some y => max y (lgFin m e))
    | _ => b) none

/-- A BSQ4 block: elements, exponent, micro-shifts. -/
structure BsqBlock where
  q : List Nat
  e : Nat
  m : List Nat
  deriving DecidableEq, Repr

/-- One element of a block: its code and whether it was clamped (R88). -/
def bsqElem (l : Layer) (e m : Int) (x : Fl) (index : Nat) : Nat × Nat :=
  match x with
  | .fin neg mm ee =>
    let n := roundFin (l.rmode index) neg mm (ee + 127 + m - e)
    let v := clampI n (-8) 7
    (codeN 4 v, if v = n then 0 else 1)
  | _ => (0, 0)

/-- Encode 32 values, those beyond the tensor given as none (R88, R100). -/
def bsqEncode (l : Layer) (xs : List (Option (Fl × Nat))) : BsqBlock × Counts :=
  let vs := xs.map (fun x => (x.map (·.1)).getD (.fin false 0 0))
  let live := (xs.filter (·.isSome)).length
  let infs := (vs.filter (fun v => v == .inf true || v == .inf false)).length
  if vs.any (fun v => !v.isFin) then (⟨List.replicate 32 0, 255, [0, 0, 0, 0]⟩, ⟨infs, live, 0⟩)
  else
    match lgMax vs with
    | none => (⟨List.replicate 32 0, 0, [0, 0, 0, 0]⟩, ⟨0, 0, 0⟩)
    | some a =>
      let e := clampI (a - 2 + 127) 0 254
      let ms := (List.range 4).map (fun j =>
        match lgMax ((vs.drop (8 * j)).take 8) with
        | none => 0
        | some s => clampI ((e - 127) - (s - 2)) 0 3)
      let qs := xs.zipIdx.map (fun x => match x.1 with
        | some v => bsqElem l e (ms.getD (x.2 / 8) 0) v.1 v.2
        | none => (0, 0))
      (⟨qs.map (·.1), e.toNat, ms.map Int.toNat⟩, ⟨0, 0, (qs.map (·.2)).foldl (· + ·) 0⟩)

/-! ### A whole layer -/

/-- What one row of outputs holds before its conversion: INT32 accumulators that take the integer path, or values `p`. -/
inductive Pre where
  | int (c : Int)
  | val (p : Nat)
  deriving DecidableEq, Repr

/-- Does an INT32 accumulator go straight to an integer output (R97, R99)? -/
def Layer.intPath (l : Layer) : Bool := l.isInt && (l.ofmt == 0 || l.ofmt == 1 || l.ofmt == 8)

/-- The inputs of the nonlinear operations: element (i, j) widened and scaled (R147). -/
def Layer.input (l : Layer) (o : Operands) (i j : Nat) : Nat :=
  fmtF32.encode ((elemValue l.afmt o.a l.n i j).mul (fmtF32.decode l.scale))

/-- Row `i` before its conversion, columns `js` of a product or the whole row of OPC 4 to 6, with saturated steps. -/
def Layer.preRow (l : Layer) (tab : List Byte) (o : Operands) (i : Nat) (js : List Nat) : List Pre × Nat :=
  match l.opc with
  | 3 => (js.map (fun j => .val (nonlinear tab l.func (l.input o i j))), 0)
  | 4 =>
    let ys := softmaxRow tab ((List.range l.n).map (l.input o i))
    (js.map (fun j => .val (ys.getD j 0)), 0)
  | 5 | 6 =>
    let gs := (List.range l.n).map (fun j => blobLe o.init (4 * j) 4)
    let bs := (List.range l.n).map (fun j => if l.aux = 0 then 0 else blobLe o.aux (4 * j) 4)
    let ys := normRow tab (l.opc == 5) l.eps ((List.range l.n).map (l.input o i)) gs bs
    (js.map (fun j => .val (ys.getD j 0)), 0)
  | _ =>
    let rs := js.map (l.accumulate o i)
    (rs.map (fun r =>
        match r.1 with
        | .int c => if l.intPath then Pre.int c
          else
            let p := l.stage1 (.int c)
            .val (if l.fuse then nonlinear tab l.func p else p)
        | .flt c =>
          let p := l.stage1 (.flt c)
          .val (if l.fuse then nonlinear tab l.func p else p)),
      (rs.map (·.2)).foldl (· + ·) 0)

/-- Converted elements of a row: code, and for BSQ4 the block's exponent and micro-shift byte. -/
structure Elem where
  i    : Nat
  j    : Nat
  code : Nat
  e    : Nat
  m    : Nat
  deriving DecidableEq, Repr

/-- Convert one element that is not BSQ4. -/
def Layer.convert (l : Layer) (i j : Nat) (p : Pre) : Elem × Counts :=
  let index := i * l.n + j
  let r : Nat × Counts := match p with
    | .int c =>
      if l.ofmt = 8 then (codeN 32 c, ⟨0, 0, 0⟩)
      else satOut l.ofmt (roundInt (l.rmode index) (c * l.mult) l.shift + l.zp)
    | .val p => l.stage2 p index
  (⟨i, j, r.1, 0, 0⟩, r.2)

/-- The value of a `Pre`. -/
def Pre.value : Pre → Nat
  | .int c => f32ofInt c
  | .val p => p

/-- Convert the 32-element blocks of a row whose columns start at a multiple of 32 (R86, R88). -/
def Layer.convertBsq (l : Layer) (i j0 : Nat) : Nat → List Pre → List Elem × Counts
  | 0, _ => ([], ⟨0, 0, 0⟩)
  | k + 1, ps =>
    if ps.isEmpty then ([], ⟨0, 0, 0⟩)
    else
      let here := ps.take 32
      let xs := (List.range 32).map (fun d =>
        (here[d]?).map (fun p => (fmtF32.decode p.value, i * l.n + j0 + d)))
      let r := bsqEncode l xs
      let mb := (r.1.m.zipIdx.map (fun x => x.1 * 4 ^ x.2)).foldl (· + ·) 0
      let es := (List.range here.length).map (fun d => (⟨i, j0 + d, r.1.q.getD d 0, r.1.e, mb⟩ : Elem))
      let t := l.convertBsq i (j0 + 32) k (ps.drop 32)
      (es ++ t.1, r.2.add t.2)

/-- Row `i`, columns `j0` to `j1 − 1`, converted (R97 to R101). -/
def Layer.row (l : Layer) (tab : List Byte) (o : Operands) (j0 j1 : Nat) (i : Nat) : List Elem × Counts :=
  let js := (List.range (j1 - j0)).map (· + j0)
  let r := l.preRow tab o i js
  let c : List Elem × Counts :=
    if l.ofmt = 7 then l.convertBsq i j0 (js.length / 32 + 1) r.1
    else
      let es := (js.zip r.1).map (fun x => l.convert i x.1 x.2)
      (es.map (·.1), (es.map (·.2)).foldl Counts.add ⟨0, 0, 0⟩)
  (c.1, c.2.add ⟨0, 0, r.2⟩)

/-- The bytes of one engine tile of C from its elements; all else is 0 (R151). -/
def tileBytes (f : Nat) (es : List Elem) : List Byte :=
  let put := fun (b : Array Byte) (o v : Nat) => b.setIfInBounds o (BitVec.ofNat 8 v)
  (es.foldl (fun (b : Array Byte) e =>
    let o := inTile f e.i e.j
    if isNibble f then
      let b := put b o ((b.getD o 0).toNat + e.code * (if e.j % 2 = 0 then 1 else 16))
      if f = 7 then put (put b (scaleInTile e.i e.j) e.e) (scaleInTile e.i e.j + 1) e.m else b
    else
      (List.range (elemBytes f)).foldl (fun b x => put b (o + x) (e.code / 256 ^ x)) b)
    (Array.replicate 4096 0)).toList

/-- One engine tile of C: its index, its elements, its bytes and its counts. -/
structure OutTile where
  index  : Nat
  elems  : List Elem
  bytes  : List Byte
  counts : Counts
  deriving DecidableEq, Repr

/-- The rows and columns of C that tile `t` holds, clipped to the tensor. -/
def Layer.tileSpan (l : Layer) (t : Nat) : (Nat × Nat) × (Nat × Nat) :=
  let g := geomOf l.ofmt
  let tc := tileCols l.ofmt l.n
  let r0 := t / tc * g.rows
  let c0 := t % tc * g.cols
  ((r0, min l.m (r0 + g.rows)), (c0, min l.n (c0 + g.cols)))

/-- Compute one engine tile of C. -/
def Layer.outTile (l : Layer) (tab : List Byte) (o : Operands) (t : Nat) : OutTile :=
  let sp := l.tileSpan t
  let rows := (List.range (sp.1.2 - sp.1.1)).map (fun d => l.row tab o sp.2.1 sp.2.2 (sp.1.1 + d))
  let es := rows.flatMap (·.1)
  ⟨t, es, tileBytes l.ofmt es, (rows.map (·.2)).foldl Counts.add ⟨0, 0, 0⟩⟩

/-- Has column `j` an index group with idx0 ≥ idx1 (R93)? -/
def Layer.badIndex (l : Layer) (o : Operands) (j : Nat) : Bool :=
  l.sparse && (List.range (ceilDiv l.k 4)).any (fun g =>
    let x := l.nibble o j g
    decide (x / 4 % 4 ≤ x % 4))

/-- Does tile `t` depend on a faulty index group? -/
def Layer.tileFormatBad (l : Layer) (o : Operands) (t : Nat) : Bool :=
  let sp := l.tileSpan t
  (List.range (sp.2.2 - sp.2.1)).any (fun d => l.badIndex o (sp.2.1 + d))

/-- Does row `i` use a byte of A or of its occupancy map that could not be read? -/
def Layer.rowBad (l : Layer) (o : Operands) (i : Nat) : Bool :=
  (List.range l.acols).any (fun k =>
    (l.skip && blobBad o.occ (occIndex l.k i k / 8) 1) || (l.occupied o i k && elemBad l.afmt o.a l.acols i k))

/-- Does column `j` use a byte of B, the indices, the bias, the gain or the norm bias that could not be read? -/
def Layer.colBad (l : Layer) (o : Operands) (j : Nat) : Bool :=
  (l.isMat && (List.range l.bcols).any (fun k => elemBad l.bfmt o.b l.bcols j k))
    || (l.sparse && (List.range (ceilDiv l.k 4)).any (fun g => elemBad 0 o.aux (ceilDiv l.k 4) j g))
    || (l.initEn && blobBad o.init (4 * j) 4)
    || (decide (4 < l.opc) && l.aux != 0 && blobBad o.aux (4 * j) 4)

/-- Does tile `t` depend on a byte that could not be read (R159)? A product or a row of OPC 4 to 6 uses whole rows of A, FUNC
its own element, and every output its own column's values beside A. -/
def Layer.tileReadBad (l : Layer) (o : Operands) (t : Nat) : Bool :=
  let sp := l.tileSpan t
  let cols := List.range (sp.2.2 - sp.2.1)
  (List.range (sp.1.2 - sp.1.1)).any (fun d =>
      if l.opc = 3 then cols.any (fun e => elemBad l.afmt o.a l.acols (sp.1.1 + d) (sp.2.1 + e))
      else l.rowBad o (sp.1.1 + d))
    || cols.any (fun d => l.colBad o (sp.2.1 + d))

/-! ### Occupancy of outputs and output checks (R152, R161) -/

/-- Set bit `x` of a bit map. -/
def setMapBit (b : Array Byte) (x : Nat) : Array Byte :=
  b.setIfInBounds (x / 8) ((b.getD (x / 8) 0) ||| BitVec.ofNat 8 (2 ^ (x % 8)))

/-- The occupancy map of the output (R152). -/
def Layer.outMap (l : Layer) (es : List Elem) : List Byte :=
  (es.foldl (fun b e => if e.code = 0 then b else setMapBit b (occIndex l.n e.i e.j))
    (Array.replicate (mapBytes l.m l.n) (0 : Byte))).toList

/-- The exact value of an output element (R161). -/
def Layer.elemOut (l : Layer) (e : Elem) : Fl :=
  if l.ofmt = 7 then bsqValue e.code e.e (e.m / 4 ^ (e.j % 32 / 8) % 4) else codeValue l.ofmt e.code

/-- Outputs that are NaN or outside [LO, HI] (R161). -/
def Layer.outside (l : Layer) (es : List Elem) : Nat :=
  let lo := fmtF32.decode l.lo
  let hi := fmtF32.decode l.hi
  (es.filter (fun e =>
    let v := l.elemOut e
    v.isNan || v.lt lo || hi.lt v)).length

/-- The elements of all tiles in ascending linear index. -/
def Layer.linear (l : Layer) (ts : List OutTile) : List Elem :=
  let arr : Array Elem := ts.foldl (fun a t =>
    t.elems.foldl (fun a e => a.setIfInBounds (e.i * l.n + e.j) e) a) (Array.replicate (l.m * l.n) ⟨0, 0, 0, 0, 0⟩)
  arr.toList

/-- MIN, MAX, MEAN and CRC of a layer (R161). -/
def Layer.digestOf (l : Layer) (ts : List OutTile) : Nat × Nat × Nat × Nat :=
  let vs := (l.linear ts).map l.elemOut |>.filter (fun v => !v.isNan)
  let crc := (crc32 (ts.flatMap (·.bytes))).toNat
  match vs with
  | [] => (fmtF32.nan, fmtF32.nan, fmtF32.nan, crc)
  | v :: rest =>
    let mn := rest.foldl (fun b x => if x.lt b then x else b) v
    let mx := rest.foldl (fun b x => if b.lt x then x else b) v
    let sum := vs.foldl (fun a x => fmtF64.encode ((fmtF64.decode a).add x)) 0
    let mean := f64div sum (f64ofInt vs.length)
    (fmtF32.encode mn, fmtF32.encode mx, fmtF32.encode (fmtF64.decode mean), crc)

end Sys2Proof.Machine
end

