-- ==== Sys2Proof/Machine/Stream.lean ====
section
/-! DEFINITION. Copies of tiles, and the weight tiles that running programs hold and ask for (R123, R124, R132 to R134,
R156). -/

namespace Sys2Proof.Machine

/-! ### Copies (R123, R124, R132) -/

/-- Does the tile's home or single copy stand in the space? -/
def homeIn (o : Obj) (p : Space) : Bool :=
  if o.flushed then spaceOf o.home o.cluster == p else spaceOf o.tier o.cluster == p

/-- The copy of a tile in a space. -/
def copyIn (s : State) (obj tile : Nat) (p : Space) : Option TileCopy :=
  s.tier.copies.find? (fun c => c.obj == obj && c.tile == tile && c.inSpace p)

/-- Add a copy that is not yet valid: its migration runs in class `cls` (R125). -/
def addCopy (s : State) (obj tile : Nat) (p : Space) (pinned pool : Bool) (holds cls : Nat) : State :=
  { s with tier := { s.tier with copies := s.tier.copies ++
      [⟨obj, tile, p.tier, p.cluster, false, pinned, holds, s.now, pool, cls, false⟩] } }

/-- Ask for a weight tile in a space and hold it (R132): false when it cannot be placed (R134). -/
def holdTile (s : State) (o : Obj) (tile : Nat) (p : Space) (cls : Nat) : State × Bool :=
  if homeIn o p then (s, true)
  else
    match copyIn s o.id tile p with
    | some c => (s.modCopy c (fun e => { e with holds := e.holds + 1 }), true)
    | none =>
      match takeAny s o.domain p (fun _ => false) with
      | some r => (addCopy r.1 o.id tile p false r.2 1 cls, true)
      | none => (sticky s Reg.tirErr 5 none, false)

/-- Release a held weight tile: an unpinned copy remains (R132). -/
def unholdTile (s : State) (obj tile : Nat) (p : Space) : State :=
  match copyIn s obj tile p with
  | some c => s.modCopy c (fun e => { e with holds := e.holds - 1 })
  | none => s

/-- Is the tile valid in the space (R133)? -/
def tileReady (s : State) (o : Obj) (tile : Nat) (p : Space) : Bool :=
  homeIn o p || ((copyIn s o.id tile p).map (·.valid)).getD false

/-! ### Tensor units and their programs -/

/-- Cluster `c`'s tensor unit. -/
def cluOf (s : State) (c : Nat) : Cluster := s.clus.getD c ⟨[], none, []⟩

/-- Change cluster `c`'s tensor unit. -/
def State.modClu (s : State) (c : Nat) (f : Cluster → Cluster) : State := { s with clus := s.clus.modify c f }

/-- Layer `i` of a program. -/
def Prog.layerAt (p : Prog) (i : Nat) : Layer := parseLayer (p.raws.getD i [])

/-- The program word (R141). -/
def Prog.word (p : Prog) : Word := (p.layerAt 0).prog

/-- Layers of a program. -/
def Prog.layers (p : Prog) : Nat := p.raws.length

/-- STREAM (R145). -/
def streamOf (w : Word) : Nat := bitsOf w 5 4

/-- The space the weights of a program are streamed into (R156). -/
def streamSpace (w : Word) : Space := if bitsOf w 7 6 = 0 then spaceOf 1 (bitsOf w 2 0) else ⟨2, 0⟩

/-- Bytes of the operands of a layer (R148, R152, R153, R155). -/
def Layer.aBytes (l : Layer) : Nat := tensorBytes l.afmt l.m l.acols
def Layer.bBytes (l : Layer) : Nat := if l.isMat then tensorBytes l.bfmt l.n l.bcols else 0
def Layer.cBytes (l : Layer) : Nat := tensorBytes l.ofmt l.m l.n
def Layer.auxBytes (l : Layer) : Nat := if l.sparse then tensorBytes 0 l.n (ceilDiv l.k 4) else 4 * l.n
def Layer.mapOut (l : Layer) : Nat := if l.occOut then mapBytes l.m l.n else 0

/-- Engine tiles of a layer's weights (R156). -/
def Layer.weightTiles (l : Layer) : Nat :=
  if l.isMat then l.bBytes / 4096 + (if l.sparse then l.auxBytes / 4096 else 0) else 0

/-! ### Weight streaming (R132 to R134, R156) -/

/-- The weight tiles of layer `i` as tiles of WOBJ. -/
def weightList (s : State) (p : Prog) (i : Nat) : List Nat :=
  let l := p.layerAt i
  match objOf s (bitsOf p.word 31 16) with
  | none => []
  | some o =>
    if !l.isMat then []
    else
      let span := fun (a : Word) (n : Nat) => (List.range (n / 4096)).map (fun t => (localOf a - o.base) / 4096 + t)
      span l.b l.bBytes ++ (if l.sparse then span l.aux l.auxBytes else [])

/-- The weight tiles of the layers of a window, by layer (R132). -/
def windowTiles (s : State) (p : Prog) : List (Nat × Nat) :=
  (List.range (min (bitsOf p.word 13 8 + 1) (p.layers - p.layer))).flatMap (fun i =>
    (weightList s p (p.layer + i)).map (fun t => (p.layer + i, t)))

/-- The first `left` weight tiles of a schedule from layer `i` on (R132). -/
def scheduleTiles (s : State) (p : Prog) : Nat → Nat → Nat → List (Nat × Nat)
  | 0, _, _ => []
  | k + 1, i, left =>
    if p.layers ≤ i ∨ left = 0 then []
    else
      let ts := (weightList s p i).take left
      ts.map (fun t => (i, t)) ++ scheduleTiles s p k (i + 1) (left - ts.length)

/-- The weight tiles that a program asks for now, in layer order: its window, or in schedule mode what BUDGET reaches ahead
of the executing layer, tile by tile (R132; DEDUCED, log 179). -/
def wantedTiles (s : State) (p : Prog) : List (Nat × Nat) :=
  match streamOf p.word with
  | 1 => windowTiles s p
  | 2 => scheduleTiles s p p.layers (if p.inLayer then p.layer + 1 else p.layer) (bitsOf p.word 63 32)
  | _ => []

/-- Ask for one weight tile that is not yet held. -/
def requestTile (o : Obj) (r : State × Prog) (e : Nat × Nat) : State × Prog :=
  if r.2.held.contains e then r
  else
    let h := holdTile r.1 o e.2 (streamSpace r.2.word) r.2.run.cls
    (h.1, if h.2 then { r.2 with held := r.2.held ++ [e] } else r.2)

/-- The tier manager is asked for the tiles of the window or the schedule (R132); a tile that finds no room is asked for
again at each release (R134). -/
def requestTiles (s : State) (p : Prog) : State × Prog :=
  match objOf s (bitsOf p.word 31 16) with
  | none => (s, p)
  | some o => (wantedTiles s p).foldl (requestTile o) (s, p)

/-- Are the weights of the layer to run valid in the target tier (R133)? -/
def weightsReady (s : State) (p : Prog) : Bool :=
  if streamOf p.word = 0 then true
  else match objOf s (bitsOf p.word 31 16) with
    | none => true
    | some o => (weightList s p p.layer).all (fun t =>
        p.held.contains (p.layer, t) && tileReady s o t (streamSpace p.word))

/-- Release held tiles (R132). -/
def releaseHeld (s : State) (p : Prog) (sel : Nat → Bool) : State × Prog :=
  let gone := p.held.filter (fun e => sel e.1)
  let s := gone.foldl (fun s e => unholdTile s (bitsOf p.word 31 16) e.2 (streamSpace p.word)) s
  (s, { p with held := p.held.filter (fun e => !sel e.1) })

/-- One program retries its placements. -/
def retryProg (r : State × List Prog) (p : Prog) : State × List Prog :=
  let q := requestTiles r.1 p
  (q.1, r.2 ++ [q.2])

/-- Programs that stream, running and suspended, retry their placements after a release of tiles (R134). -/
def retryTiles (s : State) : State :=
  (List.range 8).foldl (fun s c =>
    let k := cluOf s c
    let run := k.run.toList.foldl retryProg (s, [])
    let susp := k.susp.foldl retryProg (run.1, [])
    susp.1.modClu c (fun k => { k with run := run.2.head?, susp := susp.2 })) s

/-! ### Releases (R127, R130, R138) -/

/-- Release a copy, and let pool copies take a quota tile it held. -/
def freeCopy (s : State) (c : TileCopy) : State :=
  let d := domainOf s c.obj
  let s := dropCopy s c
  if c.pool then s else pullPool d (spaceOf c.tier c.cluster) 1 s

end Sys2Proof.Machine
end

