-- ==== Sys2Proof/Machine/Access.lean ====
section
/-! DEFINITION. Reads and writes of memory on this node as every unit sees them: which copy serves a read, what the
media do to it, and the blocks a write leaves alone (R46, R122, R123, R135 to R138, R545). -/

namespace Sys2Proof.Machine

/-! ### Media (R135 to R138) -/

/-- One media error met by a read of DRAM, or of a flash channel (R135 to R138): its counts, its sticky bits and whether
the error stays. -/
def meetFault (s : State) (f : MediaFault) (flash : Option Nat) (la : Nat) : State :=
  match flash, f.kind with
  | none, _ => settle (meetRaw la s f)
  | some _, .corrected => s.dropFault f
  | some ch, .resend n => (s.satFld (Reg.brmSusp ch) 63 32 n).dropFault f
  | some ch, _ => uncorrEvent (s.satFld (Reg.brmSusp ch) 63 32 7) (some ch) la

/-- Pages read on a flash channel (R230, R492). -/
def countPages (s : State) (ch pages : Nat) : State :=
  countTier (count s (Reg.brmReads ch) pages) 4 (pages * 16384)

/-- The flash channel of a flash-direct local address (R199). -/
def flashChannel (la : Nat) : Nat := (la - flashBase) / 2 ^ 39 % 16

/-- Is a flash channel declared failed (R545)? -/
def channelFailed (s : State) (c : Nat) : Bool := s.bit (Reg.brmStat c) 0

/-- Has any channel failed? -/
def anyChannelFailed (s : State) : Bool := s.regs.any (fun e =>
  decide (0x200000 ≤ e.1) && decide (e.1 < 0x300000) && e.1 % 0x10000 == 0 && bitOf e.2 0)

/-- Is flash being programmed: by a merge or by a flush to a T3 home (R116, R225)? -/
def flashBusy (s : State) : Bool :=
  s.bram.indexes.any (fun e => e.2.merge.isSome) || s.tier.busy.any (fun r => r.op == 2 && r.tier == 3)

/-- A program or erase of flash on a channel may fail: the block is retired and the data is written elsewhere
(BRMn_ERR.PROGRAM_FAILED). When one fails is free (DESIGN CHOICE, log 191). -/
def programFlash (s : State) (ch : Nat) : State :=
  if (Config.freeWord s.freeCtr).getLsbD 0 then sticky s.bumpFree (Reg.brmErr ch) 2 (some (64 + 2 * ch)) else s.bumpFree

/-- As `programFlash`, on some channel. -/
def programAny (s : State) : State := programFlash s.bumpFree (Config.freeBelow s.freeCtr 16)

/-- The erase blocks that hold what is left of a merge's pages: once some are dead, between the fewest that hold the rest
and those held before (R225; free, log 35). -/
def trimBlocks (ctr : Nat) (gens : List Gen) (m : MergeBlocks) : MergeBlocks :=
  let live := ((gens.flatMap (·.buckets)).filter (fun b => b.by_ == m.gen)).eraseDups
  let pages := (live.map (fun b => ceilDiv b.entries 127)).foldl (· + ·) 0
  if m.pages ≤ pages then m
  else
    let lo := ceilDiv pages 1024
    ⟨m.gen, pages, lo + Config.freeBelow ctr (min m.blocks pages - lo + 1)⟩

/-- The erase blocks of an index whose generations have changed (R225). -/
def liveBlocks (ctr : Nat) (i : Index) : Index :=
  { i with blocks := (i.blocks.zipIdx.map (fun e => trimBlocks (ctr + e.2) i.gens e.1)).filter (fun m => m.blocks != 0) }

/-- The flash erase blocks that Bramble holds (R198), those of merges under way among them. -/
def bramBlocks (s : State) : Nat :=
  (s.bram.indexes.map (fun e => (e.2.blocks.map (·.blocks)).foldl (· + ·) 0
    + (e.2.merge.map (·.blocks)).getD 0)).foldl (· + ·) 0

/-- A C0 read may meet a die that programs or erases, which it suspends (R230). Which die a page lies on, and which dies
are programming, the spec does not say: a free choice while flash is being programmed (DESIGN CHOICE, log 31). -/
def peSuspend (s : State) (ch cls : Nat) : State :=
  if cls ≠ 0 ∨ !flashBusy s then s
  else
    let w := Config.freeWord s.freeCtr
    let die := if w.getLsbD 1 then 1 else 0
    let s := s.bumpFree
    if !w.getLsbD 0 || s.bram.suspended.contains (ch, die) then s
    else
      let s := { s with bram := { s.bram with suspended := (ch, die) :: s.bram.suspended } }
      let s := (s.satFld (Reg.brmSusp ch) 31 0 1).setBit (Reg.brmStat ch) 3 true
      obsEvent s (147 + ch) 0x09 cls 0 true ch die 0

/-- The class that flash serves plane reads of class `cls` in: C0 beyond the FLASH reservation of the Lamp period counts as
C1 (R71). The device has 192 planes, and a plane read slot is 24 µs (R199). -/
def flashClass (s : State) (cls pages : Nat) : State × Nat :=
  if cls ≠ 0 then (s, cls)
  else match resvUnits s 0 192 24000 with
    | none => (s, 0)
    | some n =>
      let s := { s with lamp := { s.lamp with flash := s.lamp.flash + pages } }
      if s.lamp.flash ≤ n then (s, 0) else (exceedResv s 0, 1)

/-- The LDPC retries that a codeword with an error takes (R137). -/
def MediaFault.retries (f : MediaFault) : Nat :=
  match f.kind with
  | .corrected => 0
  | .resend n => n
  | _ => 7

/-- The LDPC retries of errors. -/
def retriesOf (fs : List MediaFault) : Nat := (fs.map MediaFault.retries).foldl (· + ·) 0

/-- Pages of a channel, with their LDPC retries, are read in plane read slots of a class, a retry in one more (R71, R137,
R230), with a PAGE event each (R485; retries beyond 15 read as 15, DESIGN CHOICE, log 199). -/
def readPages (s : State) (ch cls : Nat) (pages : List (Nat × Nat)) : State :=
  let n := pages.length
  let f := flashClass (countPages s ch n) cls (n + (pages.map (·.2)).foldl (· + ·) 0)
  let s := pages.foldl (fun s p => obsEvent s (147 + ch) 0x08 cls 0 true ch p.1 (cls % 4 + min 15 p.2 * 256)) f.1
  peSuspend s ch f.2

/-- Bytes with the error of the places that hold them: none where the byte could not be read. -/
def markBad (la : Nat) (bad : List (Nat × Nat)) (bs : List Byte) : List (Option Byte) :=
  if bad.isEmpty then bs.map some
  else bs.zipIdx.map (fun e =>
    if bad.any (fun r => decide (r.1 ≤ la + e.2) && decide (la + e.2 < r.1 + r.2)) then none else some e.1)

/-- The errors of a direct region in the blocks of `gran` bytes that `[la, la + len)` reaches. -/
def directFaults (s : State) (gran la len : Nat) : List MediaFault :=
  s.tier.media.filter (fun f =>
    match f.place with
    | .direct a => decide (a / gran * gran < la + len) && decide (la < a / gran * gran + gran) && regionOf a == regionOf la
    | _ => false)

/-- Read bytes of a direct region: the errors of its 64-byte blocks or 4 KiB codewords. -/
def readDirect (s : State) (la len : Nat) : State × List (Option Byte) :=
  let flash := regionOf la == 3
  let gran := if flash then 4096 else 64
  let hit := directFaults s gran la len
  let s := hit.foldl (fun s f => meetFault s f (if flash then some (flashChannel la) else none) la) s
  let bad := hit.filterMap (fun f =>
    match f.place with
    | .direct a => if badKind f.kind then some (a / gran * gran, gran) else none
    | _ => none)
  (s, markBad la bad (s.load la len))

/-- Read bytes of one channel of the flash direct region: a failed channel answers nothing (R545); pages read are counted
and traced. -/
def readChannel (s : State) (la len cls : Nat) : State × List (Option Byte) :=
  let c := flashChannel la
  if channelFailed s c then (s, List.replicate len none)
  else
    let p0 := (la - flashBase) / 16384
    let p1 := (la - flashBase + len - 1) / 16384
    let hit := directFaults s 4096 la len
    let pages := (List.range (p1 - p0 + 1)).map (fun i =>
      (p0 + i, retriesOf (hit.filter (fun f =>
        match f.place with
        | .direct a => (a - flashBase) / 16384 == p0 + i
        | _ => false))))
    readDirect (readPages s c cls pages) la len

/-- Read bytes of the flash direct region, channel by channel. -/
def readFlash (s : State) (la len cls : Nat) : State × List (Option Byte) :=
  let n := 2 ^ 39 - (la - flashBase) % 2 ^ 39
  if len ≤ n then readChannel s la len cls
  else
    let a := readChannel s la n cls
    let b := readChannel a.1 (la + n) (len - n) cls
    (b.1, a.2 ++ b.2)

/-! ### Which copy serves an object read (R122) -/

/-- A copy that can serve a tile: its tier, its cluster, and whether it is the home or single copy. -/
structure Serving where
  tier    : Nat
  cluster : Nat
  home    : Bool
  deriving DecidableEq, Repr

/-- The copies of a tile, best first: T1 of the issuer's cluster, T1 of the lowest other cluster, T2, the home (R122). -/
def servings (s : State) (o : Obj) (tile : Nat) (cluster : Option Nat) : List Serving :=
  let single : List Serving :=
    if !o.flushed then [⟨o.tier, o.cluster, true⟩] else [⟨o.home, o.cluster, true⟩]
  let cs := single ++ (s.tier.copies.filter (fun c => c.obj == o.id && c.tile == tile && c.valid)).map
    (fun c => ⟨c.tier, c.cluster, false⟩)
  let rank := fun (v : Serving) =>
    if v.tier = 1 then (if some v.cluster = cluster then 0 else 1 + v.cluster) else 8 + v.tier
  sortBy (fun a b => decide (rank a < rank b)) cs

/-- The media place of a block served by a copy. -/
def servedFaults (s : State) (o : Obj) (tile : Nat) (v : Serving) : List MediaFault :=
  s.tier.media.filter (fun f =>
    match f.place with
    | .home obj b => v.home && obj == o.id && b / 64 == tile
    | .copy obj b t c => !v.home && obj == o.id && b / 64 == tile && t == v.tier && c == v.cluster
    | .direct _ => false)

/-- A copy is released (R127, R138), and programs that stream retry their placements (R134). -/
def releaseCopy (s : State) (obj tile tier cluster : Nat) : State :=
  match s.tier.copies.find? (fun c => c.obj == obj && c.tile == tile && c.tier == tier && c.cluster == cluster) with
  | some c => retryTiles (freeCopy s c)
  | none => s

/-- The media block of a served tile that an error spoils: a 64-byte DRAM block, or in T3 the whole 4 KiB codeword (R136,
R137). -/
def spoiled (o : Obj) (v : Serving) (f : MediaFault) : Nat × Nat :=
  let b := match f.place with
    | .home _ b => b
    | .copy _ b _ _ => b
    | .direct _ => 0
  if v.tier = 3 then (o.base + b / 64 * 4096, 4096) else (o.base + b * 64, 64)

/-- Read the bytes `[lo, lo + len)` of one tile of an object, offsets from BASE, from the copy that serves it. -/
def readTile (s : State) (o : Obj) (lo len cls : Nat) (cluster : Option Nat) : State × List (Option Byte) :=
  let tile := lo / 4096
  let la := o.base + lo
  match servings s o tile cluster with
  | [] => (s, (s.load la len).map some)
  | v :: _ =>
    let s := { s with tier := { s.tier with copies := s.tier.copies.map (fun c =>
        if !v.home && c.obj == o.id && c.tile == tile && c.tier == v.tier && c.cluster == v.cluster then
          { c with lastRead := s.now } else c) } }
    let s := if v.tier = 1 then countTier s 0 len else if v.tier = 2 then countTier s 2 len
      else s
    let ch := Config.homeChannel o.id o.gen (lo / 16384) % 16
    if v.tier == 3 && anyChannelFailed s && channelFailed s ch then (s, List.replicate len none)
    else
      let hit := (servedFaults s o tile v).filter (fun f =>
        let r := spoiled o v f
        decide (r.1 < la + len) && decide (la < r.1 + r.2))
      let page := ch * 2 ^ 25 + Config.homePage o.id o.gen (lo / 16384) % 2 ^ 25
      let s := if v.tier = 3 then readPages s ch cls [(page, retriesOf hit)] else s
      let s := hit.foldl (fun s f => meetFault s f (if v.tier = 3 then some ch else none) la) s
      let bad := (hit.filter (fun f => badKind f.kind)).map (spoiled o v)
      let s := if bad.isEmpty || v.home then s else releaseCopy s o.id tile v.tier v.cluster
      let s := if o.promote && v.tier == 3 && !s.tier.promote.contains (o.id, tile) then
          { s with tier := { s.tier with promote := s.tier.promote ++ [(o.id, tile)] } }
        else s
      (s, markBad la bad (s.load la len))

/-- Read object-range bytes tile by tile (R122, R124). -/
def readObjects (cls : Nat) (cluster : Option Nat) : Nat → State → Nat → Nat → State × List (Option Byte)
  | 0, s, la, len => (s, (s.load la len).map some)
  | k + 1, s, la, len =>
    if len = 0 then (s, [])
    else match objAt s la with
      | none => (s, List.replicate len none)
      | some o =>
        let lo := la - o.base
        let n := min len (4096 - lo % 4096)
        let s := s.setObj { o with lastUse := s.now }
        let r := readTile s o lo n cls cluster
        let t := readObjects cls cluster k r.1 (la + n) (len - n)
        (t.1, r.2 ++ t.2)

/-- The cluster a source reads for (R122). -/
def sourceCluster : Source → Option Nat
  | .strand id => some (homeCluster id.toNat)
  | .engine u => if u.toNat < 8 then some u.toNat else none
  | _ => none

/-- Read bytes that `placeCheck` allows in regions 0 to 3; none where a byte is uncorrectable (R46). -/
def readBytes (s : State) (la len cls : Nat) (cluster : Option Nat) : State × List (Option Byte) :=
  match regionOf la with
  | 0 => readObjects cls cluster (len / 4096 + 2) s la len
  | 1 => readDirect (countTier s 2 len) la len
  | 2 =>
    let s := if (la - sramBase) % cluStride < 0xC00000 then s else countTier s 0 len
    readDirect s la len
  | _ => readFlash s la len cls

/-- Does a write of `[la, la + len)` reach the 64-byte block of the error, and replace it whole? -/
def MediaFault.written (s : State) (la len : Nat) (f : MediaFault) : Option Bool :=
  let a := match f.place with
    | .direct a => some (a / 64 * 64)
    | .home id b => (objOf s id).map (fun o => o.base + b * 64)
    | .copy _ _ _ _ => none
  match a with
  | some a =>
    if a < la + len ∧ la < a + 64 then some (decide (la ≤ a) && decide (a + 64 ≤ la + len)) else none
  | none => none

/-- A write meets a media error (R135, R138): the block's re-sends are counted; a block that no re-send carries is
uncorrectable from then on (DESIGN CHOICE, log 178); an error in a block that is replaced whole is gone. -/
def writeFault (la len : Nat) (s : State) (f : MediaFault) : State :=
  match f.written s la len with
  | none => s
  | some whole =>
    match f.kind with
    | .resend n => (s.satFld Reg.tirCrcCount 31 0 n).dropFault f
    | .exhausted =>
      let s := (settle (uncorrRaw (crcExhausted s) la)).dropFault f
      { s with tier := { s.tier with media := s.tier.media ++ [{ f with kind := .uncorrectable }] } }
    | _ => if whole then s.dropFault f else s

/-- Media errors that a write of `[la, la + len)` meets. -/
def mendBlocks (s : State) (la len : Nat) : State := s.tier.media.foldl (writeFault la len) s

/-- Write bytes that `placeCheck` allows in regions 0 to 2. -/
def writeBytes (s : State) (la : Nat) (bs : List Byte) : State :=
  let s := match regionOf la with
    | 0 => match objAt s la with
      | some o => countTier s (if o.tier = 1 then 1 else 3) bs.length
      | none => s
    | 1 => countTier s 3 bs.length
    | _ => if (la - sramBase) % cluStride < 0xC00000 then s else countTier s 1 bs.length
  mendBlocks (s.store la bs) la bs.length

/-- Write bytes some of which could not be read: every 64-byte block of the destination that would receive one keeps
its contents (R46). The count is the bytes written. -/
def writeBlocks : Nat → State → Nat → List (Option Byte) → State × Nat
  | 0, s, _, _ => (s, 0)
  | k + 1, s, la, bs =>
    if bs.isEmpty then (s, 0)
    else
      let n := min bs.length (64 - la % 64)
      let part := bs.take n
      let r := if part.all (·.isSome) then (writeBytes s la (part.filterMap id), n) else (s, 0)
      let t := writeBlocks k r.1 (la + n) (bs.drop n)
      (t.1, r.2 + t.2)

/-- Write what a read gave, whole when every byte is good. -/
def writeData (s : State) (la : Nat) (bs : List (Option Byte)) : State × Nat :=
  if bs.all (·.isSome) then (writeBytes s la (bs.filterMap id), bs.length)
  else writeBlocks (bs.length / 64 + 2) s la bs

/-- Bytes some of which could not be read leave for the host window: every 64-byte block that would receive one is left
out (R46). The count is the bytes sent. -/
def postBlocks : Nat → State → Nat → List (Option Byte) → State × Nat
  | 0, s, _, _ => (s, 0)
  | k + 1, s, la, bs =>
    if bs.isEmpty then (s, 0)
    else
      let n := min bs.length (64 - la % 64)
      let part := bs.take n
      let r := if part.all (·.isSome) then (postHost s la (part.filterMap id), n) else (s, 0)
      let t := postBlocks k r.1 (la + n) (bs.drop n)
      (t.1, r.2 + t.2)

/-- What a read gave leaves for the host window, in one write when every byte is good. -/
def postData (s : State) (la : Nat) (bs : List (Option Byte)) : State × Nat :=
  if bs.all (·.isSome) then (postHost s la (bs.filterMap id), bs.length) else postBlocks (bs.length / 64 + 2) s la bs

/-- A unit reads bytes of the own node with every check: status, and the bytes when it is OK (R18, R46, R122). -/
def unitRead (s : State) (a : Word) (len cls : Nat) (cluster : Option Nat) : State × Nat × List Byte :=
  let la := localOf a
  if nodeOf a ≠ s.node then (s, stNO_ROUTE, [])
  else if len = 0 then (s, stOK, [])
  else if crossesRegion la len then (s, stLIMIT, [])
  else
    let st := placeCheck s la len .read none
    if st ≠ stOK then (s, st, [])
    else if regionOf la < 4 then
      let r := readBytes s la len cls cluster
      if r.2.all (·.isSome) then (r.1, stOK, r.2.filterMap id) else (r.1, stUNCORRECTABLE, [])
    else (s, stACCESS, [])

/-- A unit writes bytes of the own node with every check (R18, R26). -/
def unitWrite (s : State) (a : Word) (bs : List Byte) : State × Nat :=
  let la := localOf a
  if nodeOf a ≠ s.node then (s, stNO_ROUTE)
  else if bs.isEmpty then (s, stOK)
  else if crossesRegion la bs.length then (s, stLIMIT)
  else
    let st := placeCheck s la bs.length .write none
    if st ≠ stOK then (s, st)
    else if regionOf la < 3 then (settle (writeBytes s la bs), stOK)
    else if regionOf la = 62 then (postHost s la bs, stOK)
    else (s, stACCESS)

/-- Write without a use for the status. -/
def unitPut (s : State) (a : Word) (bs : List Byte) : State := (unitWrite s a bs).1

/-! ### Memory that changes while a unit reads it (R96, R263) -/

/-- The memory as it stands. -/
def State.snap (s : State) : Snap := ⟨s.mem, s.fills⟩

/-- Bytes read at `la` by a unit that may have read each 64-byte block at any time since `old`: of a block that has changed,
the old or the new bytes, which is free (R96, R263). -/
def mixBlocks (old : Snap) : Nat → State → Nat → List (Option Byte) → State × List (Option Byte)
  | 0, s, _, bs => (s, bs)
  | k + 1, s, la, bs =>
    if bs.isEmpty then (s, [])
    else
      let n := min bs.length (64 - la % 64)
      let was := kvRange (memDefault old.fills) old.mem la n
      let part := bs.take n
      let r := if part.all (·.isSome) && part != was.map some then
          (s.bumpFree, if (Config.freeWord s.freeCtr).getLsbD 0 then was.map some else part)
        else (s, part)
      let t := mixBlocks old k r.1 (la + n) (bs.drop n)
      (t.1, r.2 ++ t.2)

/-- As `mixBlocks`, where memory has changed at all. -/
def mixed (old : Snap) (s : State) (la : Nat) (bs : List (Option Byte)) : State × List (Option Byte) :=
  if old = s.snap then (s, bs) else mixBlocks old (bs.length / 64 + 2) s la bs

/-- A unit reads what memory held at `old`, with every check of a read that it makes now (R308, R314). -/
def keptRead (old : Snap) (s : State) (a : Word) (len cls : Nat) : State × Nat × List Byte :=
  let r := unitRead s a len cls none
  if r.2.1 ≠ stOK then r else (r.1, stOK, kvRange (memDefault old.fills) old.mem (localOf a) len)

/-- A unit reads an input of its job, which began at `old`, with every check. -/
def oldRead (old : Snap) (s : State) (a : Word) (len cls : Nat) : State × Nat × List Byte :=
  let r := unitRead s a len cls none
  if r.2.1 ≠ stOK then r
  else
    let m := mixed old r.1 (localOf a) (r.2.2.map some)
    (m.1, stOK, m.2.filterMap id)

end Sys2Proof.Machine
end

