-- ==== Sys2Proof/Machine/StrandOps.lean ====
section
/-! DEFINITION. What happens to strands and their batches whoever causes it: pools and spawns, faults, ends, kills and
the batch report (R167 to R183, R192, R193). -/

namespace Sys2Proof.Machine

/-! ### Pools (R168, R169) -/

/-- The pool of cluster `c`: where it starts, in MiB from the start of DRAM, and its size in MiB (a unit of CAP is 4,096
slots of 256 bytes). -/
def poolSpan (s : State) (c : Nat) : Nat × Nat :=
  (s.fld (Reg.cluStrPool c) 34 20, s.fld (Reg.cluStrPool c) 7 0)

/-- Do two MiB ranges overlap? -/
def spansMeet (a b : Nat × Nat) : Bool :=
  decide (a.1 < b.1 + b.2) && decide (b.1 < a.1 + a.2) && decide (a.2 ≠ 0) && decide (b.2 ≠ 0)

/-- The check of a pool at a batch launch or a spawn (R168). -/
def poolOk (s : State) (c : Nat) : Bool :=
  let p := poolSpan s c
  decide (p.2 ≠ 0) && decide (p.1 + p.2 ≤ s.fld Reg.tirT2Base 14 0)
    && (List.range 8).all (fun o => o == c || !spansMeet p (poolSpan s o))
    && !spansMeet p (s.fld Reg.brcArea 34 20, s.fld Reg.brcArea 14 0)
    && !spansMeet p (s.fld Reg.slvArea 34 20, s.fld Reg.slvArea 14 0)

/-- The strands of cluster `c`, in every state but FREE. -/
def clusterStrands (s : State) (c : Nat) : List Strand := s.str.all.filter (fun t => homeCluster t.id == c)

/-- Has the strand ended, faulted or been killed? -/
def Strand.stopped (t : Strand) : Bool := decide (4 ≤ t.state)

/-- CLUn_STR_STAT as it reads. -/
def strStatView (s : State) (c : Nat) : Word :=
  let ts := clusterStrands s c
  let n := fun (p : Strand → Bool) => (ts.filter p).length
  BitVec.ofNat 64 (n (fun t => t.resident && !t.stopped)
    + n (fun t => !t.resident && t.state == 1) * 2 ^ 16 + n (fun t => !t.resident && t.state == 3) * 2 ^ 36)

/-- CLUn_STR_EXIST as it reads: a strand exists until its slot is FREE (R172, DEDUCED, log 19). -/
def strExistView (s : State) (c : Nat) : Word :=
  let ts := clusterStrands s c
  BitVec.ofNat 64 (ts.length + (ts.filter (·.stopped)).length * 2 ^ 20)

/-- The lowest number from `k` on that a rising list leaves out. -/
def firstGap : List Nat → Nat → Nat
  | [], k => k
  | x :: xs, k => if x = k then firstGap xs (k + 1) else if x < k then firstGap xs k else k

/-- The lowest free slot of a pool (R169). -/
def freeSlot (s : State) (c : Nat) : Option Nat :=
  let used := sortBy (fun a b => decide (a < b)) ((clusterStrands s c).map (fun t => t.id % 524288))
  let k := firstGap used 0
  if k < s.fld (Reg.cluStrPool c) 7 0 * 4096 then some k else none

/-! ### Batches -/

/-- The batch with a number. -/
def batchOf (s : State) (n : Nat) : Option Batch := s.str.batches.find? (·.number == n)

/-- Replace a batch. -/
def State.setBatch (s : State) (b : Batch) : State :=
  { s with str := { s.str with batches := s.str.batches.map (fun c => if c.number == b.number then b else c) } }

/-- One strand comes to exist in cluster `c`, READY in the pool (R169, R181, R190). -/
def spawnStrand (s : State) (c : Nat) (b : Batch) (pc : Word) (gregs : List Word) (cls : Nat) : Option (State × Nat) :=
  match freeSlot s c with
  | none => none
  | some slot =>
    let id := c * 524288 + slot
    let t : Strand :=
      { id := id, sid := id, batch := b.number, state := 1, resident := false, proc := 0, ctx := 0, cls := cls,
        ready := s.str.clock, waited := 0, parking := false, busy := 0, wait := .none, gregs := gregs, wide := List.replicate 8 0, pc := pc, waddr := 0, wcond := 0, owner := b.job,
        lstat := 0, serr := 0, fault := 0, exit := 0, steps := 0 }
    let s := { s with str := { s.str with all := s.str.all ++ [t], clock := s.str.clock + 1 } }
    let s := settle (s.store (slotAddr s id) (contextBytes s t))
    let s := match batchOf s b.number with
      | some b => s.setBatch { b with started := b.started + 1 }
      | none => s
    some (s.wrapFld (Reg.cluStrCount c) 31 0 1, id)

/-- The status of a batch whose strands have all stopped: the first that applies (R182). -/
def batchStatus (b : Batch) : Nat :=
  if b.aborted then 3 else if !b.faulted.isEmpty then 4 else if b.notSpawned ≠ 0 then 5 else if b.endedBad ≠ 0 then 6 else 1

/-- The batch report (R182). -/
def batchReport (s : State) (b : Batch) (status reason : Nat) : List Byte :=
  let f := leastBy (fun x y => decide (x.1 < y.1)) b.faulted
  leBytes 1 status ++ leBytes 1 reason ++ leBytes 1 ((f.map (·.2)).getD 0) ++ zeroBytes 1
    ++ leBytes 4 ((f.map (·.1)).getD 0xFFFFFFFF) ++ leBytes 4 b.started ++ leBytes 4 b.endedOk ++ leBytes 4 b.endedBad
    ++ leBytes 4 b.faulted.length ++ leBytes 4 b.killed ++ leBytes 4 b.notSpawned ++ leBytes 4 b.refused ++ zeroBytes 4
    ++ leBytes 8 b.start ++ leBytes 8 s.now ++ zeroBytes 8

/-- The issuer of an operation whose strand no longer exists: its effects and its record's STATUS and DONE stay (R183). -/
def Origin.orphan (ids : List Nat) : Origin → Origin
  | .strand id a => if ids.contains id then (match a with
      | some a => .record a
      | none => .plain) else .strand id a
  | .load id => if ids.contains id then .gone else .load id
  | .store id => if ids.contains id then .gone else .store id
  | .fetch c o => .fetch c (o.orphan ids)
  | o => o

/-- A batch ends: its slots become free, its report is written and DONE is incremented (R169, R182). -/
def endBatch (s : State) (b : Batch) (status reason : Nat) : State :=
  let ids := (s.str.all.filter (·.batch == b.number)).map (·.id)
  let s := { s with
    ops := s.ops.map (fun p => { p with origin := p.origin.orphan ids })
    str := { s.str with
      batches := s.str.batches.filter (·.number != b.number), all := s.str.all.filter (·.batch != b.number) } }
  let s := if b.report = 0 then s else unitPut s b.report (batchReport s b status reason)
  let s := obsEvent s (b.clusters.headD 0) 0x02 b.cls b.dom false b.node status
    ((s.now + 2 ^ 64 - b.start) % 2 ^ 64)
  bumpTo s b.done (status == 1) b.cls

/-- End a batch all of whose strands have stopped (R182). -/
def checkBatch (s : State) (n : Nat) : State :=
  match batchOf s n with
  | none => s
  | some b =>
    if (s.str.all.filter (·.batch == n)).all (·.stopped) then endBatch s b (batchStatus b) 0 else s

/-! ### Stopping -/

/-- Stop a strand in a state and count it in its batch, without ending the batch. The context goes to the pool slot. -/
def stopStrandCore (s : State) (t : Strand) (state : Nat) : State :=
  let s := settle (saveStrand s { t with state := state, resident := false, wait := .none, waddr := 0, parking := false })
  match batchOf s t.batch with
  | none => s
  | some b =>
    let b := match state with
      | 4 => if t.exit = 0 ∧ t.serr = 0 then { b with endedOk := b.endedOk + 1 } else { b with endedBad := b.endedBad + 1 }
      | 5 => { b with faulted := b.faulted ++ [(t.id, t.fault)] }
      | _ => { b with killed := b.killed + 1, faulted := b.faulted.filter (fun f => f.1 != t.id) }
    s.setBatch b

/-- A strand ends with its EXIT (R193). -/
def endStrand (s : State) (t : Strand) (exit : Nat) : State :=
  checkBatch (stopStrandCore s { t with exit := exit } 4) t.batch

/-- A fault stops a strand at the faulting step (R192). -/
def faultStrand (s : State) (t : Strand) (code : Nat) (lstat : Option Nat) : State :=
  let c := homeCluster t.id
  let s := s.satFld (Reg.cluStrCount c) 47 32 1
  let s := s.setBit (Reg.cluStrErr c) 0 true
  checkBatch (stopStrandCore s { t with fault := code, lstat := lstat.getD t.lstat } 5) t.batch

/-- The WATCH at another node that a strand waits in is withdrawn (R183, R390). One that it issued by OPREC is not
recalled. -/
def withdrawWatch (s : State) (t : Strand) : State :=
  match t.wait with
  | .pending tag _ =>
    if t.state ≠ 3 then s else
    match s.ops.find? (·.tag == tag) with
    | some p =>
      match p.phase with
      | .remoteWatch n _ _ =>
        (sendPacket (s.dropOp tag) n (ownPacket s 0x06 p.op.cls 0 n p.op.dst 0 tag 0 []) false false).1
      | .held _ _ => if p.op.code = 5 then (s.dropOp tag).dropHeld tag else s
      | .queued => if p.op.code = 5 then s.dropOp tag else s
      | _ => s
    | none => s
  | _ => s

/-- ABORT reaches a strand: any state but FREE and ENDED becomes KILLED (R172, R183). -/
def killStrand (s : State) (id : Nat) : State :=
  match strandOf s id with
  | none => s
  | some t =>
    if t.state = 4 ∨ t.state = 6 then s
    else
      let s := withdrawWatch s t
      stopStrandCore s (if t.resident then t else loadContext s t) 6

/-- ABORT of a batch (R183): its strands are killed and it ends with ABORTED. -/
def abortBatch (s : State) (b : Batch) : State :=
  let s := s.setBatch { b with aborted := true }
  let s := b.clusters.foldl (fun s c => s.setBit (Reg.cluStrErr c) 3 true) s
  let s := ((s.str.all.filter (·.batch == b.number)).map (·.id)).foldl killStrand s
  checkBatch s b.number

/-- ABORT of the batches that a node of an instance launched (R68, R183). -/
def abortBatches (s : State) (seq uid node : Nat) : State :=
  (s.str.batches.filter (fun b => b.seq == seq && b.inst == some uid && b.node == node && !b.aborted)).foldl abortBatch s

/-! ### Timeouts and parking -/

/-- Park a strand (R176): its context goes to the pool slot, once its posted stores have completed. -/
def parkStrand (s : State) (t : Strand) : State :=
  if !t.resident then s
  else if storesDone s t.id then settle (saveStrand s { t with resident := false, parking := false })
  else s.setStrand { t with parking := true }

/-- The strand with an ID is written out, if it exists (R456). -/
def parkId (s : State) (id : Nat) : State :=
  match strandOf s id with
  | some t => if t.state = 2 then s else parkStrand s t
  | none => s

end Sys2Proof.Machine
end

