-- ==== Sys2Proof/Machine/Time.lean ====
section
/-! DEFINITION. The native time counter, its servo, PPS and PTP stamps (12_time.md). -/

namespace Sys2Proof.Machine

/-- `k` ticks of the counter at once (R316): N and F, without a step. -/
def timeAfter (n f inc k : Nat) : Nat × Nat :=
  let t := n * 2 ^ 32 + f + k * inc
  (t / 2 ^ 32 % 2 ^ 96, t % 2 ^ 32)

/-- Add a signed step to N, never below 0 (R323). -/
def stepN (n : Nat) (d : Int) : Nat := ((n : Int) + d).toNat % 2 ^ 96

/-- A pending step is applied (R323, R55, R326): N moves, STEPPED is set, a backward step sets BACKSTEP, and the sum of
offsets is cleared. -/
def applyStep (s : State) : State :=
  match s.tim.step with
  | none => s
  | some d =>
    let s := { s with tim := { s.tim with n := stepN s.tim.n d, step := none, sum := 0 } }
    let s := sticky s Reg.timStatus 2 (some 181)
    if d < 0 then s.setBit Reg.lmpStatus 2 true else s

/-- One 8 ns tick of the time clock (R316, R317, R319): nothing while the counter is stopped. -/
def tickTime (s : State) : State :=
  if !s.tim.running then s
  else
    let t := timeAfter s.tim.n s.tim.f (s.fld Reg.timInc 39 0) 1
    applyStep { s with tim := { s.tim with n := t.1, f := t.2, ticks := s.tim.ticks + 1 } }

/-- The ticks until N is at least `target`. -/
def ticksTo (s : State) (target : Nat) : Nat :=
  let inc := s.fld Reg.timInc 39 0
  if target ≤ s.tim.n ∨ inc = 0 then 0
  else (target * 2 ^ 32 - s.tim.n * 2 ^ 32 - s.tim.f + inc - 1) / inc

/-- Time passes, without a step, until N is at least `target`: the counter is carried on tick by tick, and `lamp.next`
never falls behind the edge that N has reached. The edges on the way are run by the caller (`runEdges`). -/
def passTime (s : State) (target : Nat) : State :=
  let k := ticksTo s target
  if !s.tim.running || k == 0 then s
  else
    let t := timeAfter s.tim.n s.tim.f (s.fld Reg.timInc 39 0) k
    let s := { s with tim := { s.tim with n := t.1, f := t.2, ticks := s.tim.ticks + k } }
    { s with lamp := { s.lamp with next := max s.lamp.next (if lampPeriod s = 0 then 0 else s.tim.n / lampPeriod s) } }

/-- Time passes until N is at least `target` (DESIGN CHOICE, log 3); a pending step is applied at the first tick (R323). -/
def advanceTo (s : State) (target : Nat) : State :=
  passTime (if s.tim.step.isSome then tickTime s else s) target

/-- N and F in 0.5 ns units (R325). -/
def halfNs (s : State) : Nat := 2 * s.tim.n + s.tim.f / 2 ^ 31

/-- PPS_OUT is inactive while it is not enabled, or unsynchronised and not free-running (R329). -/
def gatePps (s : State) : State :=
  if s.bit Reg.timCtl 7 && (s.bit Reg.timStatus 0 || s.bit Reg.timCtl 8) then s
  else { s with tim := { s.tim with ppsOut := false } }

/-- SYNC takes a value; a change of it sets TIM_ERR.SYNC_CHANGE (R326, R53). -/
def setSync (s : State) (b : Bool) : State :=
  if s.bit Reg.timStatus 0 = b then s
  else sticky (gatePps ((s.setBit Reg.timStatus 0 b).setBit Reg.lmpStatus 0 b)) Reg.timErr 0 (some 176)

/-- The limits of TIM_INC (R318). -/
def incMin : Nat := 0x07FF000000
def incMax : Nat := 0x0801000000

/-- TIM_INC takes a value, held to its limits (R318). -/
def setInc (s : State) (v : Int) : State :=
  let c := clampI v incMin incMax
  let s := s.setFld Reg.timInc 39 0 c.toNat
  if c = v then s else sticky s Reg.timErr 2 (some 178)

/-- A signed step is added to the pending one (R323). -/
def addStep (s : State) (d : Int) : State :=
  { s with tim := { s.tim with step := some (s.tim.step.getD 0 + d) } }

/-- SYNC after an offset (R326): 8 consecutive offsets within LOCK_NS set it, one beyond UNLOCK_NS clears it. -/
def syncOf (s : State) (th : Int) : State :=
  let good := if th.natAbs ≤ 2 * s.fld Reg.timServo 31 16 then s.tim.good + 1 else 0
  let s := { s with tim := { s.tim with good := good } }
  if 2 * s.fld Reg.timServo 47 32 < th.natAbs then setSync s false
  else if 8 ≤ good then setSync s true
  else s

/-- Half of an integer; of an odd one, which of the two integers nearest to it the spec does not say (free, log 18). -/
def halve (s : State) (v : Int) : State × Int :=
  if v % 2 = 0 then (s, v / 2) else (s.bumpFree, v / 2 + Config.freeBelow s.freeCtr 2)

/-- The hardware servo acts on an offset in 0.5 ns units over a period of `per` ns (R326). A step is a whole number of
ns. -/
def servo (s : State) (th : Int) (per : Nat) : State :=
  let s := s.setFld Reg.timOffset 31 0 (codeN 32 th)
  let s :=
    if !s.bit Reg.timStatus 0 && decide (2 * s.fld Reg.timServo 15 0 < th.natAbs) then
      let h := halve s th
      let s := addStep h.1 (-h.2)
      { s with tim := { s.tim with sum := 0 } }
    else
      let sum := s.tim.sum + th
      let corr := divTrunc ((16 * th + sum) * 2 ^ 27) per
      setInc { s with tim := { s.tim with sum := sum } } ((s.tim.inc0 : Int) - corr)
  syncOf s th

/-! ### PTP (R330, R331) -/

/-- A big-endian 16-bit field. -/
def be16 (bs : List Byte) (o : Nat) : Nat := u8At bs o * 256 + u8At bs (o + 1)

/-- Where a frame's EtherType stands: past at most one 802.1Q tag. -/
def etherTypeAt (bs : List Byte) : Nat := if be16 bs 12 = 0x8100 then 16 else 12

/-- Where the UDP header of an IPv4 frame begins. -/
def udpAt (bs : List Byte) : Nat :=
  let ip := etherTypeAt bs + 2
  ip + u8At bs ip % 16 * 4

/-- Is the frame's payload UDP over IPv4? -/
def isUdp4 (bs : List Byte) : Bool := be16 bs (etherTypeAt bs) == 0x0800 && u8At bs (etherTypeAt bs + 2 + 9) == 17

/-- Is a frame a PTP message of a transport that R330 names: UDP over IPv4 on port 319 or 320, or IEEE 802.3 with its
EtherType (the numbers are those of IEEE 1588: PRESUMED, log 202)? -/
def isPtp (bs : List Byte) : Bool :=
  be16 bs (etherTypeAt bs) == 0x88F7 || (isUdp4 bs && [319, 320].contains (be16 bs (udpAt bs + 2)))

/-- Where the PTP message of such a frame begins. -/
def ptpAt (bs : List Byte) : Nat := if isUdp4 bs then udpAt bs + 8 else etherTypeAt bs + 2

/-- A one-step Sync as it leaves the port (R331, R322): the Tabnum form of the stamp in originTimestamp, which stands 34
bytes into the message (PRESUMED, log 202), and over UDP/IPv4 a checksum of 0. -/
def oneStepFrame (bs : List Byte) (n : Nat) : List Byte :=
  let bs := overlay bs (ptpAt bs + 34) (beBytes 6 (n / 10 ^ 9) ++ beBytes 4 (n % 10 ^ 9))
  if isUdp4 bs then overlay bs (udpAt bs + 6) [0, 0] else bs

/-- The keeper servo acts on a PTP message (R330, R331): the port takes the state that the best master clock algorithm
gives it; in slave state under MASTER_PTP the servo writes TIM_INC and TIM_STEP, and SYNC follows its offsets as R326 says
(DESIGN CHOICE, log 167). TIM_OFFSET keeps its last value. A frame that is no PTP message of R330 changes nothing. -/
def ptpServo (s : State) (port : Nat) (bs : List Byte) (p : Option PtpServo) : State :=
  match p with
  | none => s
  | some p =>
    if !isPtp bs then s
    else
    let s := { s with tim := { s.tim with ptpSlave := s.tim.ptpSlave.set port p.slave } }
    if p.slave = true ∧ s.fld Reg.timCtl 1 0 = 2 ∧ pState s < 2 then
      let s := setInc s p.inc.toNat
      syncOf (if p.step = 0 then s else addStep s p.step) p.offset
    else s

/-- A write of TIM_CTL: a change of ROLE clears SYNC and takes INC0 (R324, R326). -/
def writeTimCtl (s : State) (v : Word) : State :=
  let changed := bitsOf v 1 0 ≠ s.fld Reg.timCtl 1 0
  let s := gatePps (s.setReg Reg.timCtl (v &&& 0x1F3))
  if changed then
    let s := setSync s false
    { s with tim := { s.tim with inc0 := s.fld Reg.timInc 39 0, good := 0, edges := 0 } }
  else s

/-- INC_WRITE (R318): TIM_INC, clamped, effective at the next tick. -/
def execIncWrite (value : Word) (s : State) : Host.Outcome State Fault Refusal :=
  .next (setInc s (bitsOf value 39 0))

/-- TIME_STEP (R323): a signed amount is added to the pending step. -/
def execTimeStep (d : Word) (s : State) : Host.Outcome State Fault Refusal :=
  .next (addStep s d.toInt)

/-- A read of TIM_NOW_LO (R321): the low part, and copies of the high part, the fraction and the Tabnum form. -/
def nowRead (s : State) : State :=
  let n := s.tim.n
  let s := s.setReg Reg.timNowLo (BitVec.ofNat 64 n)
  let s := s.setReg Reg.timNowHi (BitVec.ofNat 64 (n / 2 ^ 64 + s.tim.f * 2 ^ 32))
  let s := s.setReg Reg.timTabS (BitVec.ofNat 64 (n / 10 ^ 9))
  s.setReg Reg.timTabNs (BitVec.ofNat 64 (n % 10 ^ 9))

/-- NOW_READ (R321, R322). -/
def execNowRead (s : State) : Host.Outcome State Fault Refusal := .next (nowRead s)

/-- ROLE_WRITE (R324, R326): ROLE and UPLINK of TIM_CTL. -/
def execRoleWrite (role : BitVec 2) (uplink : Fin 8) (s : State) : Host.Outcome State Fault Refusal :=
  .next (writeTimCtl s (putBits (putBits (s.reg Reg.timCtl) 1 0 role.toNat) 6 4 uplink.val))

/-- EXCHANGE_RECEIVE (R325): in SLAVE, an exchange on the uplink is stamped (t2) and answered on the same link at the same
tick (t3; DESIGN CHOICE, log 203); on any other link the answer to an exchange sent there is stamped (t4). -/
def execExchangeReceive (link : Fin 8) (pkt : Packet) (s : State) : Host.Outcome State Fault Refusal :=
  if linkState s link.val ≠ 2 ∨ 2 ≤ pState s ∨ pkt.ptype ≠ 0x20 then .next s
  else if s.fld Reg.timCtl 1 0 = 3 ∧ s.fld Reg.timCtl 6 4 = link.val then
    let s := { s with tim := { s.tim with got := some (halfNs s, halfNs s) } }
    .next (transmit s link.val { pkt with src := BitVec.ofNat 10 s.node, dst := pkt.src, hops := 0 } false)
  else if s.tim.sentAt.any (·.1 == link.val) then
    .next { s with tim := { s.tim with
      backAt := (link.val, halfNs s) :: s.tim.backAt.filter (·.1 != link.val) } }
  else .next s

/-- Does an instant lie in the 8 ns tick that begins at `tick` (R325: stamps are of 0.5 ns resolution)? -/
def inTick (tick t : Nat) : Bool := decide (tick ≤ t) && decide (t < tick + 16)

/-- Were t2 and t3 stamped here: do they lie in the ticks of the exchange that waits for its result (R325)? -/
def stampedHere (s : State) (t2 t3 : Nat) : Bool :=
  match s.tim.got with
  | some (a, b) => inTick a t2 && inTick b t3
  | none => false

/-- EXCHANGE_RESULT (R325, R326, R327): offset and delay of the four instants, given in 0.5 ns units, and the servo. t1 and
t4 are the master side's, t2 and t3 this node's, which lie in the ticks that it stamped; an uplink that is not UP
completes no exchange. -/
def execExchangeResult (t1 t2 t3 t4 : Nat) (s : State) : Host.Outcome State Fault Refusal :=
  if s.fld Reg.timCtl 1 0 = 3 ∧ pState s < 2 ∧ linkState s (s.fld Reg.timCtl 6 4) = 2 ∧ stampedHere s t2 t3 = true then
    let a : Int := (t2 : Int) - t1
    let b : Int := (t4 : Int) - t3
    let d := halve s (a + b)
    let o := halve d.1 (a - b)
    let s := o.1.setFld Reg.timDelay 31 0 (codeN 32 d.2)
    let s := { s with tim := { s.tim with edges := 0, got := none } }
    .next (servo s o.2 (lampPeriod s))
  else .next s

/-- EXCHANGE_LOSS (R326): 16 Lamp edges have passed without an exchange, so SYNC falls; the next 16 are counted anew. -/
def execExchangeLoss (s : State) : Host.Outcome State Fault Refusal :=
  if s.fld Reg.timCtl 1 0 = 3 ∧ 16 ≤ s.tim.edges then
    .next (setSync (sticky { s with tim := { s.tim with edges := 0 } } Reg.timErr 1 (some 177)) false)
  else .next s

/-- The PPS offset of a stamp in ns, in −5·10⁸ to 5·10⁸ − 1 (R328). -/
def ppsTheta (stamp off : Nat) : Int :=
  let m : Int := ((stamp : Int) - off) % 1000000000
  if m < 500000000 then m else m - 1000000000

/-- PPS_EDGE (R328): an edge less than 0.5 s after the last accepted one is a glitch; any other is stamped, and feeds
the servo in MASTER_PPS. -/
def execPpsEdge (s : State) : Host.Outcome State Fault Refusal :=
  let glitch := match s.tim.ppsLast with
    | some t => decide (s.tim.ticks < t + 62500000)
    | none => false
  if glitch then .next (sticky s Reg.timErr 3 (some 179))
  else
    let s := s.setReg Reg.timPpsStamp (BitVec.ofNat 64 s.now)
    let s := { s with tim := { s.tim with ppsLast := some s.tim.ticks } }
    if s.fld Reg.timCtl 1 0 = 1 then
      .next (servo s (2 * ppsTheta s.now (s.fld Reg.timPpsOffset 29 0)) 1000000000)
    else .next s

/-- Do the sensor and Ethernet ports run: in P0 and P1 (R294, R320)? -/
def portsOn (s : State) : Bool := decide (pState s < 2) && !s.power.thermtrip && !s.sec.extest

/-- PTP_TX_STAMP (R320, R331): the stamp of a transmitted event message, into TIM_ETH_TX or into the message; a stopped
port sends none. -/
def execPtpTxStamp (port : Fin 2) (mode : PtpMode) (s : State) : Host.Outcome State Fault Refusal :=
  if !portsOn s then .next s
  else match mode with
  | .twoStep seq =>
    let s := s.setReg (Reg.timEthTx port.val) (BitVec.ofNat 64 (s.tim.n % 2 ^ 48 + seq.toNat * 2 ^ 48))
    .next (sticky s Reg.timErr 4 (some 180))
  | .oneStep frame =>
    .next { s with tim := { s.tim with oneStep := (port.val, oneStepFrame frame s.tim.n) :: s.tim.oneStep } }

end Sys2Proof.Machine
end

