-- ==== Sys2Proof/Machine/Lamp.lean ====
section
/-! DEFINITION. The Lamp and the sixteen sequencers (03_lamp_tick_and_frame_graphs.md). -/

namespace Sys2Proof.Machine

/-! ### Sequencers as data -/

/-- Sequencer `q`. -/
def seqOf (s : State) (q : Nat) : Seq := s.seqs.getD q ⟨[], [], 0, 0⟩

/-- Change sequencer `q`. -/
def State.modSeq (s : State) (q : Nat) (f : Seq → Seq) : State := { s with seqs := s.seqs.modify q f }

/-- A graph that sequencer `q` keeps. -/
def graphOf (s : State) (q gid : Nat) : Option Graph := (seqOf s q).graphs.find? (·.gid == gid)

/-- The enabled graph of sequencer `q`. -/
def activeGraph (s : State) (q : Nat) : Option Graph := (seqOf s q).graphs.find? (·.active)

/-- Change a graph. -/
def State.modGraph (s : State) (q gid : Nat) (f : Graph → Graph) : State :=
  s.modSeq q (fun k => { k with graphs := k.graphs.map (fun g => if g.gid == gid then f g else g) })

/-- Change a node of a graph. -/
def State.modNode (s : State) (q gid i : Nat) (f : NodeDesc → NodeDesc) : State :=
  s.modGraph q gid (fun g => { g with nodes := g.nodes.modify i f })

/-- An instance in flight, by its uid. -/
def instOf (s : State) (q uid : Nat) : Option Inst := (seqOf s q).insts.find? (·.uid == uid)

/-- Change an instance. -/
def State.modInst (s : State) (q uid : Nat) (f : Inst → Inst) : State :=
  s.modSeq q (fun k => { k with insts := k.insts.map (fun i => if i.uid == uid then f i else i) })

/-- Set the phase of a node of an instance. -/
def State.setPhase (s : State) (q uid i : Nat) (p : NodePhase) : State :=
  s.modInst q uid (fun x => { x with nodes := x.nodes.set i p })

/-- Has the node finished? -/
def NodePhase.isFinished : NodePhase → Bool
  | .finished _ => true
  | _ => false

/-- Is a job of the node under way? -/
def NodePhase.isLaunched : NodePhase → Bool
  | .launched _ _ => true
  | _ => false

/-- A sequencer event: a bit of LMP_SEQn_ERR (R77). -/
def seqErr (s : State) (q bit : Nat) : State := sticky s (Reg.lmpSeqErr q) bit (some (16 + q))

/-- LMP_SEQn_STAT as it reads. -/
def seqStatView (s : State) (q : Nat) : Word :=
  let k := seqOf s q
  let state :=
    if k.graphs.any (·.active) then (if k.insts.any (fun i => i.ranOn && !i.aborted) then 2 else 1)
    else if k.insts.isEmpty then 0 else 3
  putBits (putBits (s.reg (Reg.lmpSeqStat q)) 11 4 (min k.insts.length 8)) 1 0 state

/-- Write the device's own bytes of a node: STALLS, OVERRUNS, LAST_EDGE (R60, R61). -/
def putCounters (s : State) (q gid i : Nat) : State :=
  match graphOf s q gid with
  | none => s
  | some g =>
    match g.nodes[i]? with
    | none => s
    | some n => (hwStore s (g.counters + BitVec.ofNat 64 (g.stride * i))
        (leBytes 4 n.stalls ++ leBytes 4 n.overruns ++ leBytes 8 n.lastEdge)).1

/-- A unit reports a stall of a node (R69). -/
def stallNode (s : State) (q gid i cause : Nat) : State :=
  let s := s.modNode q gid i (fun n => { n with stalls := satAdd 32 n.stalls 1 })
  let s := putCounters s q gid i
  match graphOf s q gid with
  | none => s
  | some g => obsEvent s (164 + q) 0x04 g.cls (seqDomain s q) false i cause 0

/-- A unit reports a stall of the node that an instance's run belongs to. -/
def stallRun (s : State) (q uid i cause : Nat) : State :=
  match instOf s q uid with
  | none => s
  | some x => stallNode s q x.gid i cause

/-- Has the instance been aborted, or has it ended? -/
def instStopped (s : State) (q uid : Nat) : Bool :=
  match instOf s q uid with
  | none => true
  | some x => x.aborted

/-! ### Buoys as sequencers and units read them -/

/-- Read a buoy of the own node (R31): none where it breaks R31 or cannot be read. -/
def readBuoy (s : State) (a : Word) : State × Option Word :=
  if nodeOf a ≠ s.node ∨ buoyCheck s (localOf a) ≠ stOK then (s, none)
  else
    let r := unitRead s a 8 0 none
    if r.2.1 = stOK then (r.1, some (wordAt r.2.2 0)) else (r.1, none)

/-- Both counts of a buoy of the own node, zero where it cannot be read. -/
def countsOf (s : State) (a : Word) : Nat × Nat :=
  match (readBuoy s a).2 with
  | some w => (bitsOf w 47 0, bitsOf w 63 48)
  | none => (0, 0)

/-! ### The end of an instance (R67) -/

/-- The STATUS of an instance that ends (R67). -/
def instStatus (x : Inst) : Nat :=
  if x.aborted then 2 else if x.nodes.any (· == .finished false) then 3 else if x.ranOn then 4 else 1

/-- Forget graphs that are neither enabled nor have an instance in flight. -/
def retireGraphs (s : State) (q : Nat) : State :=
  s.modSeq q (fun k => { k with graphs := k.graphs.filter (fun g => g.active || k.insts.any (·.gid == g.gid)) })

/-- An instance ends: STATUS into its record, then the output buoy (R67). -/
def endInst (s : State) (q : Nat) (x : Inst) : State :=
  let st := instStatus x
  let g := graphOf s q x.gid
  let s := s.modSeq q (fun k => { k with insts := k.insts.filter (·.uid != x.uid) })
  let s := { s with svc := { s.svc with inputs := s.svc.inputs.filter (fun e => !(e.seq == q && e.uid == x.uid)) } }
  match g with
  | none => s
  | some g =>
    let s := if g.ring = 0 then s
      else unitPut s (g.ring + BitVec.ofNat 64 (32 * (x.number % 16) + 28)) [BitVec.ofNat 8 st]
    let s := bumpTo s g.output (st == 1) g.cls
    let s := if st = 3 then seqErr s q 3 else s
    let s := obsEvent s (164 + q) 0x02 g.cls (seqDomain s q) false 0 st ((s.now + 2 ^ 64 - x.time) % 2 ^ 64)
    retireGraphs s q

/-- End an instance when nothing of it is under way (R64, R68). -/
def checkInst (s : State) (q uid : Nat) : State :=
  match instOf s q uid with
  | none => s
  | some x =>
    let ended := if x.aborted then x.nodes.all (fun p => !p.isLaunched) else x.nodes.all (·.isFinished)
    if ended then endInst s q x else s

/-! ### Launching nodes (R63, R64) -/

/-- A node finishes (R60, R64): LAST_EDGE is written. -/
def finishNode (s : State) (q uid gid i : Nat) (ok : Bool) : State :=
  let s := s.setPhase q uid i (.finished ok)
  let s := s.modNode q gid i (fun n => { n with lastEdge := lampEdgeNo s })
  putCounters s q gid i

/-- The unit that a node needs, as far as a later run waits for it: its kind, and of a tensor program its cluster (R145),
of a vision job its kind of engine (R255). -/
def unitNeeded (s : State) (n : NodeDesc) : Nat × Nat :=
  let job := localOf n.job
  (n.kind, if n.kind = 1 then bitsOf (s.word (job + 120)) 2 0
    else if n.kind = 2 then (if bitsOf (s.word job) 3 0 ≤ 2 then 0 else 1) else 0)

/-- Does a unit that a node needs still stop from an aborted instance of the sequencer (R68)? -/
def unitStopping (s : State) (q uid : Nat) (n : NodeDesc) : Bool :=
  (seqOf s q).insts.any (fun y => y.uid != uid && y.aborted &&
    (match graphOf s q y.gid with
     | some g => y.nodes.zipIdx.any (fun e => e.1.isLaunched &&
         (match g.nodes[e.2]? with
          | some m => unitNeeded s m == unitNeeded s n
          | none => false))
     | none => false))

/-- Launch a node: one success of its LAUNCH buoy. A node whose unit still stops from an aborted instance counts a stall
(R68); a failing increment fails the node (R64). -/
def launchNode (s : State) (q : Nat) (x : Inst) (i : Nat) (n : NodeDesc) : State :=
  let cls := ((graphOf s q x.gid).map (·.cls)).getD 3
  let others := (seqOf s q).insts.filter (fun y => y.gid == x.gid && y.uid != x.uid
    && (y.nodes.getD i .waiting).isLaunched)
  let s := if unitStopping s q x.uid n then stallNode s q x.gid i 3 else s
  let s := if others.isEmpty then
      let c := countsOf s n.done
      s.modNode q x.gid i (fun n => { n with seenOk := c.1, seenBad := c.2 })
    else s
  let s := s.setPhase q x.uid i (.launched false s.now)
  let r := bump s n.launch true cls
  if r.2 = stOK then r.1 else finishNode r.1 q x.uid x.gid i false

/-- One waiting node of the instance: failed with a predecessor, or launched once all have succeeded and its stage has
begun (R63, R64). -/
def tryNode (q uid : Nat) (s : State) (i : Nat) : State :=
  match instOf s q uid with
  | none => s
  | some x =>
    match graphOf s q x.gid with
    | none => s
    | some g =>
      match g.nodes[i]?, x.nodes[i]? with
      | some n, some .waiting =>
        if x.aborted then s
        else if n.preds.any (fun p => x.nodes.getD p .waiting == .finished false) then s.setPhase q uid i (.finished false)
        else if n.stage ≤ x.stage ∧ n.preds.all (fun p => x.nodes.getD p .waiting == .finished true) then
          launchNode s q x i n
        else s
      | _, _ => s

/-- Launch or fail what can be, in ascending order (predecessors have lower indices), and end the instance when nothing
is left. -/
def advanceInst (s : State) (q uid : Nat) : State :=
  match instOf s q uid with
  | none => s
  | some x => checkInst ((List.range x.nodes.length).foldl (tryNode q uid) s) q uid

/-! ### Edges (R65 to R70) -/

/-- One overrun of a node (R68): COUNT.OVERRUNS and the event count once for each late node (DESIGN CHOICE, log 176). -/
def overrunNode (q gid edge : Nat) (runOn : Bool) (cls : Nat) (s : State) (i : Nat) : State :=
  let s := s.modNode q gid i (fun n => { n with overruns := satAdd 32 n.overruns 1 })
  let s := putCounters s q gid i
  let s := s.satFld (Reg.lmpSeqCount q) 31 0 1
  let s := seqErr s q 1
  freezeCause (obsEvent s (164 + q) 0x05 cls (seqDomain s q) false i edge (if runOn then 1 else 0)) 1

/-- KIND, STAGE and predecessors of the nine nodes of the relocalisation service (R233). -/
def serviceNodes : List (Nat × Nat × List Nat) :=
  [(5, 0, []), (6, 0, [0]), (5, 0, [1]), (5, 0, [0]), (6, 1, []), (5, 1, [4]), (5, 2, []), (4, 2, [6]), (5, 2, [7])]

/-- How many strands or queries a batch runs for each admitted input: the node and the number (R233). -/
def serviceCounts : List (Nat × Nat) := [(0, 1), (1, 1), (2, 1), (3, 1), (4, 4), (5, 1), (6, 256), (8, 1)]

/-- The job record of node `i` of a graph, as it stands in memory. -/
def nodeRecord (s : State) (g : Graph) (i : Nat) : List Byte :=
  match g.nodes[i]? with
  | some n => if nodeOf n.job = s.node then s.load (localOf n.job) 64 else zeroBytes 64
  | none => zeroBytes 64

/-- The parameter block of the service, when a graph that a sequencer runs is the service's (R233, R234): gated, class C0,
period 1, phase 0, three stages, ABORT, its nine nodes, their batches with PER_INPUT set and the table's numbers, and one
ARG for all strand batches. A graph of this shape does the service's work (DESIGN CHOICE, log 165). -/
def serviceArg (s : State) (g : Graph) : Option Word :=
  let arg := wordAt (nodeRecord s g 0) 16
  let shape := g.gated && g.cls == 0 && g.period == 1 && g.phase == 0 && g.last == 2 && !g.runOn
    && g.nodes.map (fun n => (n.kind, n.stage, n.preds)) == serviceNodes
  let rec_ := fun (c : Nat × Nat) =>
    let b := nodeRecord s g c.1
    u32At b 8 == c.2 && (if c.1 = 1 ∨ c.1 = 4 then u8At b 12 % 2 == 1 else u8At b 13 % 2 == 1 && wordAt b 16 == arg)
  if shape && arg != 0 && nodeOf arg == s.node && serviceCounts.all rec_ then some arg else none

/-- An instance of the service has been aborted: a later one will answer its inputs (R252). -/
def noteAborted (s : State) (q : Nat) (x : Inst) : State :=
  match graphOf s q x.gid with
  | none => s
  | some g =>
    if (serviceArg s g).isSome then
      { s with svc := { s.svc with aborted := s.svc.aborted ++ [⟨q, x.gid, x.number, x.first, x.count, x.time⟩] } }
    else s

/-- ABORT of an instance (R68): no further launch or completion record, strand batches killed; the other units stop at
their own cancellation points. -/
def abortInst (s : State) (q uid : Nat) : State :=
  let s := s.modInst q uid (fun x => { x with
    aborted := true
    nodes := x.nodes.map (fun p => match p with
      | .waiting => .finished false
      | .closing _ _ _ => .finished false
      | p => p) })
  match instOf s q uid with
  | none => s
  | some x =>
    let s := (List.range x.nodes.length).foldl (fun s i =>
      if (x.nodes.getD i .waiting).isLaunched then abortBatches s q uid i else s) (noteAborted s q x)
    checkInst s q uid

/-- One sampling of an instance at an edge (R65, R68): late nodes overrun; a finished stage gives way to the next. -/
def sampleOnce (s : State) (q edge : Nat) (x : Inst) (g : Graph) : State :=
  let late := (List.range g.nodes.length).filter (fun i =>
    (g.nodes[i]?.map (·.stage)) == some x.stage && !(x.nodes.getD i (.finished true)).isFinished)
  if !late.isEmpty then
    let s := late.foldl (overrunNode q g.gid edge g.runOn g.cls) s
    if g.runOn then s.modInst q x.uid (fun x => { x with ranOn := true }) else abortInst s q x.uid
  else if g.last ≤ x.stage then s
  else
    let ahead := ((seqOf s q).insts.takeWhile (·.uid != x.uid)).any (fun o =>
      o.gid == x.gid && !o.aborted && decide (o.stage ≤ x.stage + 1))
    if ahead then s.modInst q x.uid (fun x => { x with held := true })
    else
      let s := s.modInst q x.uid (fun x => { x with
        stage := x.stage + 1
        begun := if x.ranOn || x.held then edge else x.begun + 1
        held := false })
      advanceInst s q x.uid

/-- Sample an instance at an edge: the edge ends every stage that edges up to it would have ended (R65, R70, DEDUCED, log 20). -/
def sampleInst (q edge uid : Nat) : Nat → State → State
  | 0, s => s
  | k + 1, s =>
    match instOf s q uid with
    | none => s
    | some x =>
      match graphOf s q x.gid with
      | none => s
      | some g =>
        if x.aborted || decide (edge ≤ x.begun) then s
        else
          let t := sampleOnce s q edge x g
          match instOf t q uid with
          | none => t
          | some y => if y.stage = x.stage then t else sampleInst q edge uid k t

/-- A skipped instance that sets SKIPPED (R66, R68). -/
def skipInst (s : State) (q : Nat) : State := seqErr (s.satFld (Reg.lmpSeqCount q) 63 32 1) q 2

/-- An instance starts (R67): its record, then its stage-0 launches. -/
def startInst (s : State) (q edge : Nat) (g : Graph) (first count : Nat) : State :=
  let uid := (seqOf s q).nextUid
  let number := g.started
  let x : Inst :=
    { uid := uid, gid := g.gid, number := number, start := edge, time := s.now, first := first, count := count,
      stage := 0, begun := edge, held := false, aborted := false, ranOn := false,
      nodes := List.replicate g.nodes.length .waiting }
  let s := s.modGraph q g.gid (fun g => { g with started := g.started + 1 })
  let s := s.modSeq q (fun k => { k with insts := k.insts ++ [x], nextUid := uid + 1 })
  let s := if g.ring = 0 then s
    else unitPut s (g.ring + BitVec.ofNat 64 (32 * (number % 16)))
      (leBytes 8 number ++ leBytes 8 edge ++ leBytes 8 first ++ leBytes 4 count ++ zeroBytes 4)
  let s := obsEvent s (164 + q) 0x01 g.cls (seqDomain s q) false 0 0 number
  advanceInst s q uid

/-- May instances start: not while a brownout drains (R520) or the step into P2 is under way (R57)? -/
def admissionOpen (s : State) : Bool := !s.bit Reg.pwrBrown 2 && s.power.step != some 2

/-- An instance edge of an enabled graph: admission (R66, R68). -/
def admitInst (s : State) (q edge : Nat) (g : Graph) : State :=
  let s := obsEvent s (164 + q) 0x0C g.cls 0 true q edge 0
  if !admissionOpen s then s
  else if (seqOf s q).insts.any (fun i => i.gid == g.gid && i.ranOn && !i.aborted) then skipInst s q
  else if !g.gated then startInst s q edge g 0 0
  else
    let r := readBuoy s g.input
    match r.2 with
    | none => skipInst r.1 q
    | some w =>
      let now := bitsOf w 47 0
      let d := (now + 2 ^ 48 - g.lastIn) % 2 ^ 48
      if d = 0 ∨ 2 ^ 47 ≤ d then r.1
      else startInst (r.1.modGraph q g.gid (fun g => { g with lastIn := now })) q edge g g.lastIn d

/-- How many of the edges `lo` to `lo + n − 1` are instance edges (R58). -/
def instanceEdges (g : Graph) (lo n : Nat) : Nat :=
  let off := (g.phase + g.period - lo % g.period) % g.period
  if n ≤ off then 0 else (n - 1 - off) / g.period + 1

/-- A Lamp edge at one sequencer: skips (R70), samples (R65), admission (R66). -/
def edgeSeq (edge skipped : Nat) (s : State) (q : Nat) : State :=
  let s := match activeGraph s q with
    | none => s
    | some g =>
      let n := if skipped = 0 then 0 else instanceEdges g (edge - skipped) skipped
      if n = 0 then s else seqErr (s.satFld (Reg.lmpSeqCount q) 63 32 n) q 4
  let s := ((seqOf s q).insts.map (·.uid)).foldl (fun s uid => sampleInst q edge uid 9 s) s
  match activeGraph s q with
  | none => s
  | some g => if (edge + g.period - g.phase) % g.period = 0 then admitInst s q edge g else s

/-- Is anything of class C0 in flight? -/
def c0Active (s : State) : Bool :=
  s.ops.any (·.op.cls == 0) || s.seqs.any (fun k => k.insts.any (fun i => k.graphs.any (fun g => g.gid == i.gid && g.cls == 0)))

/-- The reservations of the period that ends (R71). FLASH, FABRIC, STRAND and POWER have been judged as their demand
arose; of DRAM, MIGRATION, CLUSTER and ENGINE the spec does not give a unit's demand, so which of them C0 exceeded is free
(DESIGN CHOICE, log 21). The counts of the next period begin. -/
def edgeReservations (s : State) : State :=
  let s :=
    if !c0Active s then s
    else
      let w := Config.freeWord s.freeCtr
      ([1, 4, 6, 7].filter (fun i => w.getLsbD i)).foldl exceedResv s.bumpFree
  { s with
      lamp := { s.lamp with flash := 0, spent := [] }
      str := { s.str with procs := s.str.procs.map (fun p => { p with c0 := 0 }) }
      fab := { s.fab with links := s.fab.links.map (fun k => { k with t0 := 0 }) } }

/-- A time exchange leaves for the neighbour of link `l`, in T0; t1 is stamped (R73, R325). -/
def sendExchange (s : State) (l : Nat) : State :=
  let s := { s with tim := { s.tim with sentAt := (l, halfNs s) :: s.tim.sentAt.filter (·.1 != l) } }
  transmit s l (ownPacket s 0x20 0 0 (s.fld (Reg.fabLinkStat l) 17 8) 0 0 0 0 []) false

/-- Time exchanges sent at an edge (R325): unless the role is FREE, on the UP links but the own uplink whose neighbour is
a SLAVE of this node. Which neighbours are the block does not hold: free (DEDUCED, log 22). -/
def edgeExchanges (s : State) : State :=
  let role := s.fld Reg.timCtl 1 0
  let ls := (List.range 8).filter (fun l => linkState s l == 2 && !(role == 3 && s.fld Reg.timCtl 6 4 == l))
  if role = 0 ∨ ls.isEmpty then s
  else (ls.filter (fun l => (Config.freeWord s.freeCtr).getLsbD l)).foldl sendExchange s.bumpFree

/-- Confirms of remote WATCHes, every 16 Lamp edges (R390). `before` is the count of edges before this one. -/
def edgeConfirms (before : Nat) (s : State) : State :=
  s.ops.foldl (fun s p =>
    match p.phase, p.origin with
    | .watch since, .packet node tag cls =>
      if (before - since) / 16 < (s.lamp.counted - since) / 16 then
        respond s node tag cls 0x11 stOK 0 []
      else s
    | _, _ => s) s

/-- A Lamp edge (R52): LMP_EDGE, edges passed over (R55), the edges since the last exchange (R326), and every
sequencer. -/
def doEdge (s : State) : State :=
  let e := s.tim.n / lampPeriod s
  let skipped := e - s.lamp.next
  let before := s.lamp.counted
  let s := s.setReg Reg.lmpEdge (BitVec.ofNat 64 e)
  let s := { s with lamp := { s.lamp with next := e + 1, counted := before + 1 + skipped }, tim := { s.tim with edges := s.tim.edges + 1 } }
  let s := if skipped = 0 then s
    else (count s Reg.lmpSkipCount skipped).setBit Reg.lmpStatus 1 true
  let s := applyPower s
  let s := edgeReservations s
  let s := (List.range 16).foldl (edgeSeq e skipped) s
  edgeConfirms before (edgeExchanges s)

/-- Is an edge due at this instant (R52)? -/
def edgeDue (s : State) : Bool := lampOn s && decide (s.lamp.next ≤ s.tim.n / lampPeriod s)

/-- Time passes until N is at least `target` (DESIGN CHOICE, log 3), and every Lamp edge on the way occurs (R52). -/
def runEdges : Nat → State → Nat → State
  | 0, s, target => passTime s target
  | k + 1, s, target =>
    if edgeDue s then runEdges k (doEdge s) target
    else if lampOn s ∧ s.lamp.next * lampPeriod s ≤ target then
      runEdges k (doEdge (passTime s (s.lamp.next * lampPeriod s))) target
    else passTime s target

/-- Time passes until N is at least `target`; a pending step is applied at the first tick (R323), and an edge that it
makes due occurs (R55). -/
def runTo (s : State) (target : Nat) : State :=
  let s := if s.tim.step.isSome then tickTime s else s
  runEdges ((target - s.tim.n) / lampPeriod s + 2) s target

/-- Time passes until the time clock has ticked `tick` times (DESIGN CHOICE, log 3). -/
def runTicks (s : State) (tick : Nat) : State :=
  let left := tick - s.tim.ticks
  if left = 0 then s else runTo s (timeAfter s.tim.n s.tim.f (s.fld Reg.timInc 39 0) left).1

/-- LAMP_EDGE (R52): the next edge occurs; time passes until it is due (DESIGN CHOICE, log 3). -/
def execLampEdge (s : State) : Host.Outcome State Fault Refusal :=
  let s := if lampOn s && s.tim.step.isSome then tickTime s else s
  if !lampOn s then .next s
  else if edgeDue s then .next (doEdge s)
  else .next (doEdge (advanceTo s (s.lamp.next * lampPeriod s)))

/-- STEP_APPLY (R323): at the next tick the pending step is added, and an edge that it makes due occurs. -/
def execStepApply (s : State) : Host.Outcome State Fault Refusal :=
  if s.tim.step.isNone then .next s
  else
    let s := tickTime s
    .next (if edgeDue s then doEdge s else s)

/-- What the block does at a tick of its time clock when no command waits (DESIGN CHOICE, log 2). -/
def idleTick (s : State) : State :=
  let s := tickTime s
  if edgeDue s then doEdge s else s

/-! ### PPS_OUT (R329) -/

/-- PPS_OUT_START (R329): time passes to the next whole second, and PPS_OUT goes active there when it is enabled and
synchronised, or free-running. -/
def execPpsOutStart (s : State) : Host.Outcome State Fault Refusal :=
  if s.bit Reg.timCtl 7 && (s.bit Reg.timStatus 0 || s.bit Reg.timCtl 8) then
    let s := if s.tim.step.isSome then idleTick s else s
    let s := if s.tim.n % 1000000000 < 8 then s else runTo s ((s.tim.n / 1000000000 + 1) * 1000000000)
    .next (if s.tim.n % 1000000000 < 8 ∧ s.tim.running then
        gatePps { s with tim := { s.tim with ppsOut := true, ppsAt := s.tim.ticks } } else s)
  else .next s

/-- PPS_OUT_END (R329): 100 µs of ticks after it went active PPS_OUT returns inactive. -/
def execPpsOutEnd (s : State) : Host.Outcome State Fault Refusal :=
  if !s.tim.ppsOut then .next s
  else
    let s := runTicks s (s.tim.ppsAt + 12500)
    .next { s with tim := { s.tim with ppsOut := false } }

/-! ### LMP_CTL and LMP_RESV -/

/-- The first edge after the Lamp starts (R54, R56). -/
def restartLamp (s : State) : State :=
  { s with lamp := { s.lamp with next := max (lampEdgeNo s + 1) (s.tim.n / lampPeriod s + 1) } }

/-- A write of LMP_CTL (R51, R54). A POINT change that waited for an edge takes effect when RUN falls (R514). -/
def writeLmpCtl (s : State) (v : Word) : State :=
  let run := s.bit Reg.lmpCtl 0
  let run' := bitOf v 0
  let per := clampN (bitsOf v 34 8) 100000 100000000
  let s :=
    if run && run' then
      if per = lampPeriod s then s else s.setBit Reg.lmpStatus 3 true
    else s.setFld Reg.lmpCtl 34 8 per
  let s := s.setBit Reg.lmpCtl 0 run'
  if !run && run' then restartLamp s
  else if run && !run' then applyPower s
  else s

/-- A write of LMP_RESV: each field at most 40, and the counts of LMP_RESV_EXCEED cleared (R71). -/
def writeLmpResv (s : State) (v : Word) : State :=
  let s := s.setReg Reg.lmpResv (BitVec.ofNat 64 (leNat ((List.range 8).map (fun i =>
    BitVec.ofNat 8 (min 40 (bitsOf v (8 * i + 7) (8 * i)))))))
  s.setReg Reg.lmpResvExceed 0

/-- LAMP_RUN (R54). -/
def execLampRun (run : Bool) (s : State) : Host.Outcome State Fault Refusal :=
  .next (writeLmpCtl s (putBits (s.reg Reg.lmpCtl) 0 0 (if run then 1 else 0)))

/-- LAMP_PERIOD_SET (R51, R54): PERIOD_NS is written and RUN is kept. -/
def execLampPeriodSet (ns : Nat) (s : State) : Host.Outcome State Fault Refusal :=
  .next (writeLmpCtl s (putBits (s.reg Reg.lmpCtl) 34 8 (min ns (2 ^ 27 - 1))))

/-- LMP_RESV_WRITE (R71). -/
def execLmpResvWrite (value : Word) (s : State) : Host.Outcome State Fault Refusal := .next (writeLmpResv s value)

/-! ### Enabling graphs (R60 to R62) -/

/-- Where a span may hold a graph or node status: `some true` writable, `some false` in a SEALED object, none elsewhere
or unreadable (R60, R61). -/
def graphPlace (s : State) (a : Word) (len : Nat) : State × Option Bool :=
  let la := localOf a
  if nodeOf a ≠ s.node ∨ 2 < regionOf la then (s, none)
  else
    let r := unitRead s a len 0 none
    if r.2.1 ≠ stOK then (r.1, none)
    else if regionOf la ≠ 0 then (r.1, some true)
    else
      match objAt s la with
      | some o => (r.1, if o.state = 1 then some true else if o.state = 3 then some false else none)
      | none => (r.1, none)

/-- Does the span lie in objects sealed during the CONFIG phase (R470)? -/
def signedPlace (s : State) (a : Word) (len : Nat) : Bool :=
  let la := localOf a
  match objAt s la with
  | some o => o.state == 3 && o.signed && decide (la + len ≤ o.base + o.size) && regionOf la == 0
  | none => false

/-- The reserved bits of a node CTRL word (R60). -/
def ctrlReserved (c : Word) : Bool := bitOf c 7 || bitsOf c 15 12 != 0 || bitsOf c 63 24 != 0

/-- Why a node refuses the graph: the codes of REASON from 3 to 7 that apply (R62). -/
def nodeCauses (raw : List Byte) (last i : Nat) : List Nat :=
  let c := wordAt raw (64 * i)
  let kind := bitsOf c 3 0
  let stage := bitsOf c 6 4
  let np := bitsOf c 11 8
  causes [(kind == 0 || decide (7 ≤ kind), 3), (ctrlReserved c, 4), (decide (8 < np), 5), (decide (last < stage), 6),
    ((List.range (min np 8)).any (fun j =>
      let p := u8At raw (64 * i + 32 + j)
      decide (i ≤ p) || decide (stage < bitsOf (wordAt raw (64 * p)) 6 4)), 7)]

/-- The first failing node with the codes that apply to it. -/
def graphCauses (raw : List Byte) (last nodes : Nat) : Option (List Nat × Nat) :=
  (List.range nodes).findSome? (fun i => if (nodeCauses raw last i).isEmpty then none else some (nodeCauses raw last i, i))

/-- The graph is refused (R62). -/
def refuseGraph (s : State) (q reason node : Nat) : State :=
  let s := s.setBit (Reg.lmpSeqCtl q) 0 false
  let s := s.setFld (Reg.lmpSeqStat q) 15 12 reason
  seqErr (s.setFld (Reg.lmpSeqStat q) 23 16 node) q 0

/-- The copy of node `i` (R60, R62). -/
def readNode (s : State) (raw : List Byte) (i : Nat) : NodeDesc :=
  let c := wordAt raw (64 * i)
  let launch := wordAt raw (64 * i + 16)
  let done := wordAt raw (64 * i + 24)
  { kind := bitsOf c 3 0, stage := bitsOf c 6 4, preds := (List.range (bitsOf c 11 8)).map (fun j => u8At raw (64 * i + 32 + j)),
    ncomp := bitsOf c 23 16, job := wordAt raw (64 * i + 8), launch := launch, done := done,
    comp := wordAt raw (64 * i + 40), taken := (countsOf s launch).1, seenOk := (countsOf s done).1,
    seenBad := (countsOf s done).2, stalls := 0, overruns := 0, lastEdge := 0, full := false, fullAt := 0 }

/-- EN is written to 1 (R62): the checks, and the copy of an accepted graph. LMP_SEQn_CTL already holds the other fields.
BADNODE is 0 where the reported check is of no node (DEDUCED, log 10). An accepted enable leaves REASON and BADNODE of the
last refusal as they stand (DESIGN CHOICE, log 175), and is accepted while instances of an earlier graph are in flight
(DESIGN CHOICE, log 174). -/
def enableGraph (s : State) (q : Nat) : State :=
  let c := s.reg (Reg.lmpSeqCtl q)
  let nodes := bitsOf c 16 8
  let period := bitsOf c 35 20
  let phase := bitsOf c 51 36
  let base := s.reg (Reg.lmpSeqGraph q)
  let nstat := s.reg (Reg.lmpSeqNstat q)
  -- an array without a valid length is judged by its place alone
  let n := if 256 < nodes then 0 else nodes
  let r := graphPlace s base (64 * n)
  let s := r.1
  let stat := if n ≠ 0 ∧ r.2 = some false then
      (if nstat = 0 then (s, none) else graphPlace s nstat (16 * n))
    else (s, some true)
  let s := stat.1
  let placeBad := (n != 0 && r.2.isNone) || (n == 0 && (nodeOf base != s.node || decide (2 < regionOf (localOf base))))
    || stat.2 != some true || (s.bit Reg.secStat 6 && !signedPlace s base (64 * n))
  let raw := if placeBad then [] else (unitRead s base (64 * n) 0 none).2.2
  let bad := if placeBad then none else graphCauses raw (bitsOf c 19 17) n
  let input := s.reg (Reg.lmpSeqInput q)
  let inp := if bitOf c 2 then readBuoy s input else (s, some 0)
  let p := pickCode inp.1 (causes [(n == 0 || period == 0 || decide (period ≤ phase), 1), (placeBad, 2)]
    ++ (bad.map (·.1)).getD [] ++ causes [(inp.2.isNone, 8)])
  let s := p.1
  if p.2 ≠ 0 then refuseGraph s q p.2 (if 3 ≤ p.2 ∧ p.2 ≤ 7 then (bad.map (·.2)).getD 0 else 0)
  else
    let g : Graph :=
      { gid := (seqOf s q).nextGid, nodes := (List.range nodes).map (readNode s raw), cls := bitsOf c 4 3,
        last := bitsOf c 19 17, runOn := bitOf c 1, gated := bitOf c 2, period := period, phase := phase,
        input := input, output := s.reg (Reg.lmpSeqOutput q), ring := s.reg (Reg.lmpSeqInst q),
        counters := if r.2 = some true then base + 48 else nstat, stride := if r.2 = some true then 64 else 16,
        active := true, started := 0, lastIn := bitsOf (inp.2.getD 0) 47 0 }
    let s := s.modSeq q (fun k => { k with graphs := k.graphs ++ [g], nextGid := k.nextGid + 1 })
    let s := s.setReg (Reg.lmpSeqCount q) 0
    (List.range nodes).foldl (fun s i => putCounters s q g.gid i) s

/-- EN is written to 0: admission stops and instances in flight finish (R66). -/
def disableGraph (s : State) (q : Nat) : State :=
  retireGraphs (s.modSeq q (fun k => { k with graphs := k.graphs.map (fun g => { g with active := false }) })) q

/-- A write of LMP_SEQn_CTL: while EN is 1 only EN changes. -/
def writeSeqCtl (s : State) (q : Nat) (v : Word) : State :=
  let en := s.bit (Reg.lmpSeqCtl q) 0
  if en then
    if bitOf v 0 then s else disableGraph (s.setBit (Reg.lmpSeqCtl q) 0 false) q
  else
    let s := s.setReg (Reg.lmpSeqCtl q) (v &&& 0x000FFFFFFFFFFF1F)
    if bitOf v 0 then enableGraph s q else s

/-- GRAPH_ENABLE (R62). -/
def execGraphEnable (seq : Fin 16) (s : State) : Host.Outcome State Fault Refusal :=
  .next (writeSeqCtl s seq.val (putBits (s.reg (Reg.lmpSeqCtl seq.val)) 0 0 1))

/-- GRAPH_DISABLE (R66). -/
def execGraphDisable (seq : Fin 16) (s : State) : Host.Outcome State Fault Refusal :=
  .next (writeSeqCtl s seq.val (putBits (s.reg (Reg.lmpSeqCtl seq.val)) 0 0 0))

/-! ### Runs that units take -/

/-- The LAUNCH successes of a node that its unit has not taken. -/
def launchesAhead (s : State) (n : NodeDesc) : Nat :=
  let d := ((countsOf s n.launch).1 + 2 ^ 48 - n.taken) % 2 ^ 48
  if 2 ^ 47 ≤ d then 0 else d

/-- The graph and node of a launch that the unit of node `i` has not taken. -/
def peekLaunch (s : State) (q i : Nat) (kinds : List Nat) : Option (Graph × NodeDesc) :=
  (seqOf s q).graphs.findSome? (fun g =>
    match g.nodes[i]? with
    | some n => if kinds.contains n.kind && decide (0 < launchesAhead s n) then some (g, n) else none
    | none => none)

/-- Is a node launched, and its run not yet taken? -/
def NodePhase.untaken : NodePhase → Bool
  | .launched false _ => true
  | _ => false

/-- When a launch of the node took effect (R162): the sequencer's increment, or, of an increment by software, the moment
the unit saw it (DESIGN CHOICE, log 177). -/
def launchTime (s : State) (n : NodeDesc) (p : Option NodePhase) : Nat :=
  match p with
  | some (.launched _ t) => t
  | _ => if n.full then n.fullAt else s.now

/-- The unit of a node takes the next run: one for each success of LAUNCH (R13). The run serves the oldest instance that
launched the node and whose run is not yet taken. -/
def takeLaunch (s : State) (q i : Nat) (kinds : List Nat) : Option (State × Run) :=
  match peekLaunch s q i kinds with
  | none => none
  | some (g, n) =>
    let x := (seqOf s q).insts.find? (fun x => x.gid == g.gid && (x.nodes.getD i .waiting).untaken)
    let time := launchTime s n (x.bind (fun x => x.nodes[i]?))
    let s := s.modNode q g.gid i (fun n => { n with taken := (n.taken + 1) % 2 ^ 48, full := false })
    let s := match x with
      | some x => s.setPhase q x.uid i (.launched true time)
      | none => s
    some (s, { seq := q, node := i, gid := g.gid, slot := none, uid := x.map (·.uid), number := (x.map (·.number)).getD 0,
               cls := g.cls, dom := seqDomain s q, job := n.job, done := n.done, ring := g.ring, time := time })

/-- Has the instance a run serves been aborted (R68)? -/
def runAborted (s : State) (r : Run) : Bool :=
  match r.uid with
  | some u => instStopped s r.seq u
  | none => false

/-- A unit's queue order (R162, R257, R305, R336): class, launch time, then sequencers before slots, each by number. -/
def runBefore (a b : Run) : Bool :=
  let k := fun (r : Run) => [r.cls, r.time, (match r.slot with
    | some n => 16 + n
    | none => r.seq)]
  decide (k a < k b)

/-- A launch ahead of the unit finds its queue full (R162, R257): one stall. -/
def reportFull (s : State) (q gid i : Nat) : State :=
  stallNode (s.modNode q gid i (fun n => { n with full := true, fullAt := s.now })) q gid i 2

/-- A stall of the node a run belongs to (R69). -/
def stallOf (s : State) (r : Run) (cause : Nat) : State :=
  if r.slot.isSome then s else stallNode s r.seq r.gid r.node cause

/-- START and END of a run (R485): the tag is the node index, or 0x100 + slot. -/
def runTag (r : Run) : Nat :=
  match r.slot with
  | some n => 0x100 + n
  | none => r.node

/-- A run is taken. -/
def obsStart (s : State) (unit : Nat) (r : Run) : State :=
  obsEvent s unit 0x01 r.cls r.dom false (runTag r) r.job.toNat r.number

/-- A run has ended with a status. -/
def obsEnd (s : State) (unit : Nat) (r : Run) (status start : Nat) : State :=
  obsEvent s unit 0x02 r.cls r.dom false (runTag r) status ((s.now + 2 ^ 64 - start) % 2 ^ 64)

end Sys2Proof.Machine
end

