-- ==== Sys2Proof/Machine/Fabric.lean ====
section
/-! DEFINITION. The link layer and the routing of packets at this node (15_fabric_links.md). What a consumed request
does stands in PacketOps.lean. -/

namespace Sys2Proof.Machine

/-! ### Packets that are lost, held or sent on (R387 to R389) -/

/-- The pending operation of this node whose packet carries a tag: sent, held, or a remote WATCH. -/
def sentOp (s : State) (tag : BitVec 32) : Option PendingOp :=
  s.ops.find? (fun p => BitVec.ofNat 32 p.tag == tag && (match p.phase with
    | .sent _ => true
    | .held _ _ => true
    | .closing _ _ => true
    | .report _ _ => true
    | .remoteWatch _ _ _ => true
    | _ => false))

/-- An operation of this node ends by what the fabric reports of its packet (R389). -/
def failOwn (s : State) (tag : BitVec 32) (status : Nat) : State :=
  match sentOp s tag with
  | some p => failOp s p status
  | none => s

/-- Is it a request, whose loss a notice reports (R385, R389)? -/
def isRequest (p : Packet) : Bool := decide (1 ≤ p.ptype.toNat) && decide (p.ptype.toNat ≤ 5)

/-- A packet is dropped (R389): counted, and reported to its source by a failure notice when that is routable. -/
def dropPacket (s : State) (p : Packet) (status : Nat) : State :=
  let s := s.satFld Reg.fabDrops 31 0 1
  if !isRequest p then s
  else if p.src.toNat = s.node then failOwn s p.tag status
  else (sendPacket s p.src.toNat (ownPacket s 0x12 (p.ctl.toNat % 4) 0 p.src.toNat 0 0 p.tag.toNat status []) false false).1

/-- Note that an operation's held packet has left this node. -/
def markSent (s : State) (tag : BitVec 32) : State :=
  { s with ops := s.ops.map (fun p =>
      if BitVec.ofNat 32 p.tag == tag then
        match p.phase with
        | .held n since =>
          if p.op.code = 5 then { p with phase := .remoteWatch n none since } else { p with phase := .sent n }
        | _ => p
      else p) }

/-- Try a held packet again: it leaves, stays held, or fails with its route (R387). -/
def retryHeld (s : State) (h : Held) : State :=
  let r := sendPacket s h.dst h.pkt h.vl h.own
  match r.2 with
  | .sent => if h.own then markSent r.1 h.pkt.tag else r.1
  | .held => r.1
  | .failed st => if h.own then failOwn r.1 h.pkt.tag st else dropPacket r.1 h.pkt st

/-- A link or a route has changed: every held packet is tried again, in the order held. One whose route has
gone ends with NO_ROUTE (DESIGN CHOICE, log 195). -/
def sendHeld (s : State) : State :=
  let hs := s.fab.held
  hs.foldl retryHeld { s with fab := { s.fab with held := [] } }

/-! ### Link states (R380, R383) -/

/-- Link `l` takes a state; FAB_STAT shows it. -/
def setLinkState (s : State) (l st : Nat) : State :=
  let s := s.setFld (Reg.fabLinkStat l) 1 0 st
  (s.setBit Reg.fabStat l (st == 2)).setBit Reg.fabStat (8 + l) (st == 3)

/-- A bit of FAB_LINKn_ERR (R396). -/
def linkErr (s : State) (l bit : Nat) : State := sticky s (Reg.fabLinkErr l) bit (some (96 + 2 * l))

/-- The packets held in a link's buffers: those with a flit that waits or is unacknowledged. -/
def linkPackets (k : Link) : List Packet := (k.replay ++ k.queue).flatMap (·.ends)

/-- A link loses what its buffers hold (R383, R389). -/
def loseLink (s : State) (l : Nat) : State :=
  let ps := linkPackets (linkOf s l)
  let s := s.modLink l (fun k => { k with replay := [], queue := [] })
  ps.foldl (fun s p => dropPacket s p stLINK_FAILED) s

/-- A link enters FAILED (R380, R383, R396). -/
def failLink (s : State) (l reason : Nat) : State :=
  let s := (setLinkState s l 3).setFld (Reg.fabLinkStat l) 7 4 reason
  let s := s.satFld (Reg.fabLinkCount l) 63 48 1
  let s := raise (linkErr s l 2) (97 + 2 * l)
  let s := freezeCause (obsEvent s (180 + l) 0x0B 0 0 true l reason 0) 3
  sendHeld (loseLink s l)

/-- A link goes DOWN: EN was written 0. Packets in its buffers are lost as those of a failed link are (DEDUCED, log 53). -/
def downLink (s : State) (l : Nat) : State :=
  if linkState s l = 0 then s else sendHeld (loseLink (setLinkState s l 0) l)

/-- A link that is DOWN with EN 1 starts training in P0 and P1 (R380). -/
def startTraining (s : State) (l : Nat) : State :=
  if s.bit (Reg.fabLinkCtl l) 0 && linkState s l == 0 && decide (pState s < 2) then setLinkState s l 1 else s

/-- A write of FAB_LINKn_CTL (R380, R391). -/
def writeLinkCtl (s : State) (l : Nat) (v : Word) : State :=
  let s := s.setReg (Reg.fabLinkCtl l) (v &&& 3)
  if bitOf v 0 then startTraining s l else downLink s l

/-- LINK_ENABLE (R380). -/
def execLinkEnable (l : Fin 8) (s : State) : Host.Outcome State Fault Refusal :=
  .next (writeLinkCtl s l.val (putBits (s.reg (Reg.fabLinkCtl l.val)) 0 0 1))

/-- LINK_DISABLE (R380). -/
def execLinkDisable (l : Fin 8) (s : State) : Host.Outcome State Fault Refusal :=
  .next (writeLinkCtl s l.val (putBits (s.reg (Reg.fabLinkCtl l.val)) 0 0 0))

/-- TRAINING_COMPLETE (R380, R384): the link is UP with fresh sequence numbers and 32 credits for each buffer, and PEER
is recorded. Flits that a stop in P2 left unacknowledged wait again (DESIGN CHOICE, log 54). -/
def execTrainingComplete (l : Fin 8) (peer : BitVec 10) (s : State) : Host.Outcome State Fault Refusal :=
  if linkState s l.val = 1 ∧ pState s < 2 then
    let k := linkOf s l.val
    let s := if k.trained && s.fld (Reg.fabLinkStat l.val) 17 8 != peer.toNat then linkErr s l.val 3 else s
    let s := (setLinkState s l.val 2).setFld (Reg.fabLinkStat l.val) 17 8 peer.toNat
    let s := s.modLink l.val (fun k => { k with
      trained := true, txSeq := 0, rxSeq := 0xFFFF, replay := []
      queue := k.replay.map (fun f => { f with resent := 0 }) ++ k.queue, credits := List.replicate 8 32
      turn := [4, 2, 1] })
    .next (sendHeld (pump s l.val))
  else .next s

/-- TRAINING_TIMEOUT (R380): 100 ms without training, or a lane that failed it (R379). A link trains in P0 and P1 only;
one that P2 has stopped starts to train as P2 is left. -/
def execTrainingTimeout (l : Fin 8) (laneFailed : Bool) (s : State) : Host.Outcome State Fault Refusal :=
  if linkState s l.val = 1 ∧ pState s < 2 then .next (failLink s l.val (if laneFailed then 2 else 1)) else .next s

/-- LINK_SILENCE (R383): no valid flit for 2 µs. -/
def execLinkSilence (l : Fin 8) (s : State) : Host.Outcome State Fault Refusal :=
  if linkState s l.val = 2 then .next (failLink s l.val 4) else .next s

/-- LINK_RETRAIN (R401): keeper firmware writes EN 0 and then EN 1 on an enabled link that failed by a training
timeout, once RUNNING. -/
def execLinkRetrain (l : Fin 8) (s : State) : Host.Outcome State Fault Refusal :=
  let c := s.reg (Reg.fabLinkCtl l.val)
  if bitOf c 0 ∧ linkState s l.val = 3 ∧ s.fld (Reg.fabLinkStat l.val) 7 4 = 1 ∧ s.fld Reg.gctlBoot 3 0 = 7 then
    .next (writeLinkCtl (writeLinkCtl s l.val (putBits c 0 0 0)) l.val (putBits c 0 0 1))
  else .next s

/-! ### Flits (R381 to R384) -/

/-- A control flit leaves on link `l`: its ACK names the last flit received in order. -/
def sendCtl (s : State) (l ftype buf freed : Nat) : State :=
  s.modLink l (fun k => { k with wire := flitBytes 0 k.rxSeq ftype 0 false (buf + 16 * freed) [] :: k.wire })

/-- An ACK frees the flits of the replay buffer up to the one it names (R382). -/
def takeAck (s : State) (l ack : Nat) : State :=
  let k := linkOf s l
  if k.replay.any (·.seq == ack) then
    pump (s.modLink l (fun k => { k with
      replay := (k.replay.dropWhile (·.seq != ack)).drop 1 })) l
  else s

/-- Replay every unacknowledged flit in SEQ order (R382); one re-sent 16 times already fails the link (R383). -/
def replayLink (s : State) (l : Nat) : State :=
  let k := linkOf s l
  let n := k.replay.length
  if n = 0 then s
  else if k.replay.any (fun f => decide (16 ≤ f.resent)) then failLink s l 3
  else
    let rs := k.replay.map (fun f => { f with resent := f.resent + 1 })
    let s := s.modLink l (fun k => { k with replay := rs, wire := (rs.map (·.bytes k.rxSeq)).reverse ++ k.wire })
    let s := count (s.wrapFld (Reg.fabLinkCount l) 31 0 n) (Reg.obsLink (2 * l)) (244 * n)
    obsEvent (linkErr s l 0) (180 + l) 0x0A 0 0 true l n 0

/-- NAK (R382). -/
def nakLink (s : State) (l ack : Nat) : State :=
  if linkState s l = 2 then replayLink (takeAck s l ack) l else s

/-- A flit is discarded: a NAK names the last good one (R382). -/
def discardFlit (s : State) (l : Nat) : State := sendCtl s l 2 0 0

/-- A flit whose CRC fails, or of FTYPE 3 (R381). -/
def badFlit (s : State) (l : Nat) : State :=
  discardFlit (linkErr (s.satFld (Reg.fabLinkCount l) 47 32 1) l 1) l

/-- A valid flit at link `l`: ACK and credits are taken; DATA is accepted in SEQ order, and its buffer freed at once
(DESIGN CHOICE, log 55). -/
def goodFlit (s : State) (l : Nat) (b : List Byte) : State :=
  let s := takeAck s l (u16At b 2)
  let c := u8At b 5
  let s := pump (s.modLink l (fun k => { k with credits := k.credits.modify (c % 8) (· + c / 16) })) l
  match u8At b 4 % 4 with
  | 0 => s
  | 1 =>
    let k := linkOf s l
    if u16At b 0 = (k.rxSeq + 1) % 65536 then
      let s := s.modLink l (fun k => { k with rxSeq := u16At b 0 })
      let s := count s (Reg.obsLink (2 * l + 1)) 244
      sendCtl s l 0 (u8At b 4 / 4 % 4 * 2 + u8At b 4 / 16 % 2) 1
    else discardFlit s l
  | _ => nakLink s l (u16At b 2)

/-- FLIT_RECEIVE (R381, R382, R384): a link that is not UP discards every flit. -/
def execFlitReceive (l : Fin 8) (bytes : List Byte) (s : State) : Host.Outcome State Fault Refusal :=
  if linkState s l.val ≠ 2 then .next s
  else
    let b := sliceB bytes 0 256
    if (crc32 (b.take 252)).toNat ≠ u32At b 252 ∨ u8At b 4 % 4 = 3 then .next (badFlit s l.val)
    else .next (goodFlit s l.val b)

/-- NAK (R382). -/
def execNak (l : Fin 8) (ack : BitVec 16) (s : State) : Host.Outcome State Fault Refusal :=
  .next (nakLink s l.val ack.toNat)

/-- REPLAY_TIMEOUT (R382): 1 µs without an ACK for the oldest unacknowledged flit. -/
def execReplayTimeout (l : Fin 8) (s : State) : Host.Outcome State Fault Refusal :=
  if linkState s l.val = 2 then .next (replayLink s l.val) else .next s

/-! ### Held and forwarded packets (R387 to R389) -/

/-- Forward a packet (R387, R389, R391): HOPS counts the forwardings, and a packet of 32 hops is dropped; the spec does
not say which of the two statuses its notice then carries (free, log 7). -/
def forwardPacket (s : State) (p : Packet) (vl : Bool) : State :=
  let p := { p with hops := p.hops + 1 }
  if 32 ≤ p.hops.toNat then dropPacket s.bumpFree p (stNO_ROUTE + Config.freeBelow s.freeCtr 2)
  else
    let r := sendPacket s p.dst.toNat p vl false
    match r.2 with
    | .failed st => dropPacket r.1 p st
    | _ => r.1

/-- HOLD_TIMEOUT (R387): the oldest packet held for a destination has been held for RESP_TIMEOUT_US. -/
def execHoldTimeout (dst : BitVec 10) (s : State) : Host.Outcome State Fault Refusal :=
  match s.fab.held.find? (·.dst == dst.toNat) with
  | none => .next s
  | some h =>
    if s.fab.altWait.contains dst.toNat then .next s
    else
      let s := { s with fab := { s.fab with held := s.fab.held.erase h } }
      .next (if h.own then failOwn s h.pkt.tag stLINK_FAILED else dropPacket s h.pkt stLINK_FAILED)

/-- ALT_WAIT_END (R388): 20 µs after the switch to ALT, what waited is sent. -/
def execAltWaitEnd (dst : BitVec 10) (s : State) : Host.Outcome State Fault Refusal :=
  if s.fab.altWait.contains dst.toNat then
    .next (sendHeld { s with fab := { s.fab with altWait := s.fab.altWait.filter (· != dst.toNat) } })
  else .next s

/-- A response or notice that finds no operation waiting: late, so dropped and counted (R389), unless it is of a part of a
COPY, which COPY_COMPLETE answers for, or of an increment (tag 0), which has no operation. -/
def lateAnswer (s : State) (tag : BitVec 32) : State :=
  if tag = 0 ∨ s.ops.any (fun p => BitVec.ofNat 32 p.tag == tag && p.phase == .copy) then s
  else s.satFld Reg.fabDrops 63 32 1

/-- FAILURE_NOTICE (R389): the operation completes with the notice's status; a late notice is dropped and counted. -/
def execFailureNotice (tag : BitVec 32) (status : Byte) (s : State) : Host.Outcome State Fault Refusal :=
  match sentOp s tag with
  | some p => .next (failOp s p status.toNat)
  | none => .next (lateAnswer s tag)

/-- WATCH_CONFIRM (R390). A confirm is neither a response nor a notice: a late one is dropped and not counted (R385,
R389). -/
def execWatchConfirm (tag : BitVec 32) (s : State) : Host.Outcome State Fault Refusal :=
  match sentOp s tag with
  | some p =>
    match p.phase with
    | .remoteWatch n _ since =>
      .next { s with ops := s.ops.map (fun q =>
        if q.tag == p.tag then { q with phase := .remoteWatch n (some s.lamp.counted) since } else q) }
    | _ => .next s
  | none => .next s

/-- WATCH_CONFIRM_LOSS (R390): 32 Lamp edges since the last confirm complete the WATCH with LINK_FAILED, and a cancel is
sent. -/
def execWatchConfirmLoss (tag : BitVec 32) (s : State) : Host.Outcome State Fault Refusal :=
  match sentOp s tag with
  | some p =>
    match p.phase with
    | .remoteWatch n (some c) _ =>
      if c + 32 ≤ s.lamp.counted then
        let s := failOp s p stLINK_FAILED
        .next (sendPacket s n (ownPacket s 0x06 p.op.cls 0 n p.op.dst 0 tag.toNat 0 []) false false).1
      else .next s
    | _ => .next s
  | none => .next s

/-- Withdraw the WATCH that another node has cancelled (R390). -/
def cancelWatch (s : State) (node tag : Nat) : State :=
  { s with ops := s.ops.filter (fun p =>
      match p.phase, p.origin with
      | .watch _, .packet n t _ => !(n == node && t == tag)
      | _, _ => true) }

/-- WATCH_CANCEL (R390). -/
def execWatchCancel (node : BitVec 10) (tag : BitVec 32) (s : State) : Host.Outcome State Fault Refusal :=
  .next (cancelWatch s node.toNat tag.toNat)

/-! ### Power states (R380) -/

/-- Links at the entry to P2: UP links go to TRAINING. -/
def idleLinks (s : State) : State :=
  (List.range 8).foldl (fun s l => if linkState s l = 2 then setLinkState s l 1 else s) s

/-- Links when P2 is left: an enabled link that is DOWN trains. -/
def wakeLinks (s : State) : State := (List.range 8).foldl startTraining s

end Sys2Proof.Machine
end

