-- ==== Sys2Proof/Machine/Reset.lean ====
section
/-! DEFINITION. What the resets clear and what they keep (R8, R397, R416, R417, R474, R504, R505). -/

namespace Sys2Proof.Machine

/-! ### What the SEC block shows of the fuses (R464, R471, R474) -/

/-- One bit for each owner slot. -/
def ownerBits (f : OwnerSlot → Bool) (s : State) : Nat :=
  (s.fuses.owners.zipIdx.map (fun e => if f e.1 then 2 ^ e.2 else 0)).foldl (· + ·) 0

/-- SEC_STAT, SEC_DEVICE_ID, SEC_SVN and SEC_DKEY_HASH take what fuses, OTP and the session hold. -/
def showSec (s : State) : State :=
  let s := s.setFld Reg.secStat 1 0 s.fuses.lifecycle
  let s := s.setFld Reg.secStat 3 2 s.fuses.pending
  let s := s.setFld Reg.secStat 5 4 (debugLevel s)
  let s := s.setFld Reg.secStat 11 8 (ownerBits (·.valid) s)
  let s := s.setFld Reg.secStat 15 12 (ownerBits (·.revoked) s)
  let s := s.setReg Reg.secDeviceId s.fuses.deviceId
  let s := s.setReg Reg.secSvn (BitVec.ofNat 64 (s.fuses.svnImage + s.fuses.svnFw * 2 ^ 32))
  (List.range 6).foldl (fun s i => s.setReg (Reg.secDkeyHash i) (wordAt s.fuses.dkeyHash (8 * i))) s

/-! ### Debug sessions (R474, R494) -/

/-- May level `lvl` with domain mask `mask` see a record (R493)? FREEZE and LOST records, which are always written, stand
for no unit's work (DEDUCED, log 68). -/
def levelSees (lvl mask : Nat) (r : ObsRec) : Bool :=
  decide (2 ≤ lvl) || (lvl == 1 && decide (14 ≤ r.event) && decide (r.event ≤ 15)) || (lvl == 1 && r.attr / 64 % 2 == 0 && mask / 2 ^ (r.attr / 4 % 16) % 2 == 1)

/-- The level has fallen: undrained records it no longer permits are discarded and counted in a LOST record, and STALL
becomes STOP (R494). -/
def levelFall (s : State) : State :=
  let lvl := debugLevel s
  let mask := s.fld Reg.secDebug 31 16
  (List.range 12).foldl (fun s n =>
    let b := trBuf s n
    let keep := b.recs.filter (levelSees lvl mask)
    let s := s.setTrBuf n { b with recs := keep, lost := b.lost + (b.recs.length - keep.length) }
    if lvl < 3 ∧ s.fld (Reg.obsTrCtl n) 23 22 = 3 then s.setFld (Reg.obsTrCtl n) 23 22 1 else s) s

/-- HELD shows a step into P2 or P3 that waits on a halted keeper (R479). -/
def showHeld (s : State) : State :=
  let held := (s.power.step == some 2 || s.power.step == some 3) && !s.power.halted.isEmpty
  if held && !s.bit Reg.pwrState 3 then raise (s.setBit Reg.pwrState 3 true) 2 else s.setBit Reg.pwrState 3 held

/-- The debug level takes a value (R474, R482): a fall discards records, and the end of a D3 session releases keeper
halts (R479). -/
def setLevel (s : State) (lvl mask : Nat) (until_ : Nat) : State :=
  let old := debugLevel s
  let s := (s.setFld Reg.secDebug 1 0 lvl).setFld Reg.secDebug 31 16 mask
  let s := s.setReg Reg.secDebugEnd (BitVec.ofNat 64 until_)
  let s := if lvl < old ∨ (lvl = 1 ∧ old = 1) then levelFall s else s
  let s := if lvl < 3 then showHeld { s with power := { s.power with halted := [] } } else s
  let s := if lvl = 3 ∧ old ≠ 3 then { s with sec := { s.sec with d3 := s.sec.d3 + 1 } } else s
  showSec (if lvl = old then s else raise s 194)

/-- The session ends (R474): the level returns to D0, and SEC_ERR shows it. -/
def endSession (s : State) : State :=
  if debugLevel s = 0 then s else sticky (setLevel s 0 0 0) Reg.secErr 1 (some 195)

/-! ### Resets (R8, R397, R416 to R418) -/

/-- Does the register keep its contents through WARM_RST_N and P3: a retention register, or the straps (R333, R398, R478,
R492, R504)? -/
def keptReg (off : Nat) : Bool :=
  off == Reg.gctlStrap || (decide (0x20000 ≤ off) && decide (off < 0x20040))
    || (decide (0x21000 ≤ off) && decide (off < 0x22300))
    || off == Reg.timCtl || off == Reg.timInc || off == Reg.timServo || off == Reg.timPpsOffset
    || off == Reg.pwrWakeEn || off == Reg.pwrWakeTime || (decide (0x61000 ≤ off) && decide (off < 0x61400))

/-- An INT_ROUTE register at a start: KLOCK and, with it, KEEPER fall (R501). -/
def unlockRoute (e : Nat × Word) : Nat × Word :=
  if 0x21000 ≤ e.1 ∧ e.1 < 0x22000 ∧ bitOf e.2 9 then (e.1, e.2 &&& 0xBF) else e

/-- The registers that outlive a reset of everything but the always-on domain. -/
def keptRegs (s : State) : List (Nat × Word) :=
  ((s.regs.filter (fun e => keptReg e.1)).map unlockRoute).filter (fun e => e.2 != regReset e.1)

/-- An index after the device has stopped: no merge, no query, its current generation alone (R418). -/
def restIndex (ctr : Nat) (i : Index) : Index :=
  liveBlocks ctr { i with merge := none, gens := (i.gens.take 1).map (fun g => { g with holds := 0 }) }

/-- The cells that `keep` names, with the fills that stay: no cell that equals what its address then reads as. -/
def keptCells (mem : List Host.Cell) (fills : List Fill) (keep : Nat → Bool) : List Host.Cell :=
  mem.filter (fun c => keep c.1 && c.2 != memDefault fills c.1)

/-- The fills of the regions that `keep` names. -/
def keptFills (fills : List Fill) (keep : Nat → Bool) : List Fill := fills.filter (fun f => keep (regionOf f.lo))

/-- Every unit outside the always-on domain is reset (R397): operations in flight never complete (R417), SRAM contents
are unspecified (R418). Flash, DRAM, the configuration memory, fuses, the journal and the pins keep what they hold; the
tier manager's objects and Bramble's indexes stand as their tables in DRAM and flash do. -/
def resetDomain (s : State) : State :=
  let r := State.reset
  let t : State := { r with
    regs := keptRegs s
    mem := keptCells s.mem (keptFills s.fills (· != 2)) (fun a => regionOf a != 2)
    fills := keptFills s.fills (· != 2)
    nextTag := s.nextTag
    completions := s.completions
    ep := { r.ep with perst := s.ep.perst, rootAtom := s.ep.rootAtom }
    tier := { r.tier with objs := s.tier.objs, gens := s.tier.gens, copies := []
                          media := s.tier.media.filter (fun f => match f.place with
                            | .copy _ _ _ _ => false
                            | _ => true) }
    bram := { r.bram with indexes := s.bram.indexes.map (fun e => (e.1, restIndex (s.freeCtr + 64 * e.1) e.2)), nextBatch := s.bram.nextBatch }
    sns := { r.sns with sources := r.sns.sources.zipIdx.map (fun e => { e.1 with
      gap := (s.sns.sources[e.2]?.map (·.gap)).getD false }) }
    tim := { s.tim with
      step := none, sum := 0, good := 0, edges := 0, ppsOut := false, got := none, sentAt := [], backAt := []
      ptpSlave := [false, false], oneStep := [] }
    boot := s.boot
    obs := { r.obs with lers := s.obs.lers }
    integ := { r.integ with
      counters := s.integ.counters, nextId := s.integ.nextId, journal := s.integ.journal, seq := s.integ.seq
      minutes := s.integ.minutes, summary := s.integ.summary, charged := s.integ.charged, loaded := s.integ.loaded }
    power := { r.power with vrAlert := s.power.vrAlert, thermtrip := s.power.thermtrip, vrAck := s.power.vrAck }
    fuses := s.fuses
    sec := { r.sec with draws := s.sec.draws, d3 := s.sec.d3, retire := s.sec.retire }
    freeCtr := s.freeCtr + 1024
    pending := s.pending }
  let t := t.fillRange sramBase sramSize false
  let t := t.setFld Reg.pwrTemp 47 32 (s.fld Reg.pwrTemp 47 32)
  let t := t.setBit Reg.timStatus 1 (t.bit Reg.gctlStrap 0)
  showSec (t.setBit Reg.hstStat 11 t.ep.perst)

/-- A start of any kind (R416, R471, R473): the lifecycle that is pending takes effect and a new nonce is drawn. -/
def beginStart (s : State) (kind phase : Nat) : State :=
  let retire := s.fuses.pending == 2 && s.fuses.lifecycle != 2
  let s := { s with
    fuses := { s.fuses with lifecycle := s.fuses.pending }
    sec := { s.sec with draws := s.sec.draws + 1, retire := s.sec.retire || retire }
    boot := { s.boot with image := none, failed := none } }
  showSec ((s.setFld Reg.gctlBoot 5 4 kind).setFld Reg.gctlBoot 3 0 phase)

/-- The device as POR_N leaves it (R397): only flash, the configuration memory, fuses, OTP and the pins keep what they
hold. DRAM and SRAM read as memory that nothing has written (DESIGN CHOICE, log 5). The first records after P2 to P4 carry
GAP (R294). -/
def porReset (s : State) : State :=
  let r := State.reset
  let t : State := { r with
    mem := keptCells s.mem (keptFills s.fills (· == 3)) (fun a => regionOf a == 3)
    fills := keptFills s.fills (· == 3)
    completions := s.completions
    ep := { r.ep with perst := s.ep.perst, rootAtom := s.ep.rootAtom }
    tier := { r.tier with media := s.tier.media.filter (fun f => match f.place with
      | .direct a => regionOf a == 3
      | _ => false) }
    sns := { r.sns with sources := r.sns.sources.zipIdx.map (fun e => { e.1 with
      gap := (s.sns.sources[e.2]?.map (·.gap)).getD false || s.power.off || s.power.thermtrip }) }
    boot := { r.boot with xspi := s.boot.xspi, big := s.boot.big, present := s.boot.present }
    integ := { r.integ with
      journal := s.integ.journal, seq := s.integ.seq, minutes := s.integ.minutes, summary := s.integ.summary
      charged := s.integ.charged, loaded := s.integ.loaded }
    power := { r.power with vrAlert := s.power.vrAlert }
    fuses := s.fuses
    sec := { r.sec with draws := s.sec.draws, retire := s.sec.retire }
    freeCtr := s.freeCtr
    pending := s.pending }
  showSec (t.setBit Reg.hstStat 11 t.ep.perst)

/-! ### What a start finds in memory (R418) -/

/-- Objects after a start that keeps the memory (R418): RETIRING ones are FREE with GEN one higher; objects of T1 stand
with unspecified contents. -/
def keepObjects (s : State) : State :=
  let gone := s.tier.objs.filter (·.state == 4)
  let s : State := { s with tier := { s.tier with
    objs := s.tier.objs.filter (·.state != 4)
    gens := gone.map (fun (o : Obj) => (o.id, o.gen + 1)) ++ s.tier.gens.filter (fun e => gone.all (fun (o : Obj) => o.id != e.1))
    kept := true } }
  s.tier.objs.foldl (fun s o =>
    if (if o.flushed then o.home else o.tier) = 1 then s.fillRange o.base o.size false else s) s

/-- A start that keeps nothing: DRAM reads as memory nothing has written (DESIGN CHOICE, log 5), and no object or index stands
(R418). -/
def dropMemory (s : State) : State :=
  { s with
    mem := keptCells s.mem (keptFills s.fills (fun r => decide (2 ≤ r))) (fun a => decide (2 ≤ regionOf a))
    fills := keptFills s.fills (fun r => decide (2 ≤ r))
    tier := { s.tier with objs := [], gens := [], kept := false
                          media := s.tier.media.filter (fun f => match f.place with
                            | .direct a => regionOf a == 3
                            | _ => false) }
    bram := { s.bram with indexes := [] } }

end Sys2Proof.Machine
end

