-- ==== Sys2Proof/Machine/Sample.lean ====
section
/-! DEFINITION. Sampling of completed results for recomputation (R435 to R437, R445). -/

namespace Sys2Proof.Machine

/-- The units that may recompute a result of unit `u`, the next first (R435): the other solver unit for a solver. -/
def checkOrder (u : Nat) : List Nat :=
  if u < 8 then (List.range 8).map (fun i => (u + 1 + i) % 8)
  else if u < 140 then (List.range 4).map (fun i => 136 + (u - 136 + 1 + i) % 4)
  else if u < 144 then (List.range 4).map (fun i => 140 + (u - 140 + 1 + i) % 4)
  else [289 - u]

/-- The next unfenced unit of the same kind after `u` (R435). -/
def nextChecker (s : State) (u : Nat) : Nat :=
  ((checkOrder u).find? (fun v => !unitFenced s v)).getD ((checkOrder u).headD u)

/-- The threshold that HASH >> 32 stays below: 2^32 times the unit's check fraction (R445). -/
def checkLimit (s : State) (u : Nat) : Nat :=
  let c := s.fld Reg.chkCtl 2 0
  if c = 0 then 0 else 2 ^ (23 + c) * (if (unitSum s u).rating = 0 then 2 else 1)

/-- The result counter of a unit (R436). -/
def resultCount (s : State) (u : Nat) : Nat := ((s.integ.counters.find? (fun e => e.1 == u)).map (·.2)).getD 0

/-- The ID of the object that holds an address, or 0xFFFF (R441). -/
def objectIdAt (s : State) (a : Word) : Nat :=
  if nodeOf a = s.node ∧ regionOf (localOf a) = 0 then ((objAt s (localOf a)).map (·.id)).getD 0xFFFF else 0xFFFF

/-- A unit completes a result: its counter advances, and the check of a sampled one (R436, R437). `kind` is 0 tensor,
1 vision, 2 solver; `crc` is the producer's. What the checker recomputes it from follows. -/
def sampleResult (s : State) (unit kind op : Nat) (addr : Word) (crc pstart layer tile : Nat) (desc : List Byte)
    (job : Option UJob) (struct : Option Struct) : State × Option Check :=
  let n := resultCount s unit
  let s := { s with integ := { s.integ with
      counters := (unit, (n + 1) % 2 ^ 64) :: s.integ.counters.filter (fun e => e.1 != unit) } }
  let h := (mixHash (s.reg Reg.chkSeed) (BitVec.ofNat 64 (2 ^ 32 * unit + n))).toNat / 2 ^ 32
  if s.bit Reg.chkCtl (3 + kind) && decide (h < checkLimit s unit) then
    let c : Check :=
      { id := s.integ.nextId, kind := kind, unit := unit, checker := nextChecker s unit, op := op, crc := crc,
        fedge := (s.reg Reg.lmpEdge).toNat, addr := addr, pstart := pstart, object := objectIdAt s addr,
        layer := layer, tile := tile, desc := desc, job := job, struct := struct }
    ({ s with integ := { s.integ with nextId := s.integ.nextId + 1 } }, some c)
  else (s, none)

/-- Checks wait on their checkers (R437). -/
def postChecks (s : State) (cs : List Check) : State :=
  { s with integ := { s.integ with checks := s.integ.checks ++ cs } }

end Sys2Proof.Machine
end

