-- ==== Sys2Proof/Machine/Tier.lean ====
section
/-! DEFINITION. The tier manager: objects, quotas, copies and its request ring (05_memory_tiers.md). -/

namespace Sys2Proof.Machine

/-! ### Room -/

/-- Room for `n` tiles that draw only on quota. -/
def roomFor (d : Nat) (p : Space) (n : Nat) : Nat → State → Option State
  | 0, s => if quotaUsed s d p + n ≤ quotaOf s d p then some s else none
  | k + 1, s =>
    if quotaUsed s d p + n ≤ quotaOf s d p then some s
    else
      match leastBy (olderThan s) ((domCopies s d p).filter (fun c => !c.pool && c.evictable)) with
      | none => none
      | some c =>
        roomFor d p n k (if poolUsed s p < poolSize s p then s.modCopy c (fun e => { e with pool := true }) else dropCopy s c)

/-! ### Placing (R121) -/

/-- Give one tile a copy in a space, for a PLACE (R121): none when there is no room. -/
def placeTile (o : Obj) (p : Space) (pin : Bool) (cls : Nat) (keep : TileCopy → Bool) (s : State) (tile : Nat) : Option State :=
  if homeIn o p then some s
  else
    match copyIn s o.id tile p with
    | some c =>
      if !pin || c.pinned then some s
      else if c.pool then
        (takeQuota s o.domain p keep).map (fun s => s.modCopy c (fun e => { e with pinned := true, pool := false }))
      else some (s.modCopy c (fun e => { e with pinned := true }))
    | none =>
      if pin then (takeQuota s o.domain p keep).map (fun s => addCopy s o.id tile p true false 0 cls)
      else (takeAny s o.domain p keep).map (fun r => addCopy r.1 o.id tile p false r.2 0 cls)

/-! ### Requests (R119 to R121) -/

/-- The local address of the slot of a sequence number. -/
def tierSlot (s : State) (seq : Nat) : Word := s.reg Reg.tirReqRing + BitVec.ofNat 64 (64 * (seq % 256))

/-- A request completes: RESULT and STATUS, then DONE (R119). -/
def tierDone (s : State) (seq status : Nat) (result : Word) : State :=
  let a := tierSlot s seq
  let done := wordAt (unitRead s (a + 32) 8 3 none).2.2 0
  let s := if status = 0 then s else sticky s Reg.tirErr 1 none
  let s := unitPut s (a + 40) (wordBytes (if status = 0 then result else 0))
  let s := unitPut s (a + 1) [BitVec.ofNat 8 status]
  bumpTo s done (status == 0) 3

/-- Requests under way on an object complete with a status. -/
def endBusy (s : State) (sel : TierReq → Bool) (status : Nat) (result : Word) : State :=
  let done := s.tier.busy.filter sel
  let s := { s with tier := { s.tier with busy := s.tier.busy.filter (fun r => !sel r) } }
  done.foldl (fun s r => tierDone s r.seq status result) s

/-- What a request answers: a status and a result, or the fact that it waits. -/
inductive TierAns where
  | done (status : Nat) (result : Nat)
  | wait (req : TierReq)
  deriving DecidableEq, Repr

/-- GEN of an ID. -/
def genOf (s : State) (id : Nat) : Nat :=
  match objOf s id with
  | some o => o.gen
  | none => ((s.tier.gens.find? (fun e => e.1 == id)).map (·.2)).getD 0

/-- The lowest free 64 KiB-aligned range of a size (R119), the allocated ranges given in rising order. -/
def lowestRange (size : Nat) : List (Nat × Nat) → Nat → Option Nat
  | [], k => if k + size ≤ 0x100000000000 then some k else none
  | (base, len) :: rest, k =>
    if k + size ≤ base then some k else lowestRange size rest (max k ((base + len + 0xFFFF) / 0x10000 * 0x10000))

/-- Why a request is refused before anything is allocated: the codes of STATUS that apply to OP `op` (R118 to R120, R470);
`pre` says that a reserved bit of the record is set. -/
def tierCauses (s : State) (pre : Bool) (op id : Nat) (a0 a1 a2 : Word) : List Nat :=
  let ob := objOf s id
  let tier := bitsOf a1 5 4
  let size := a0.toNat
  let locked := s.bit Reg.secStat 6 && ob.any (·.signed)
  let span := a0.toNat % 4096 != 0 || a1.toNat % 4096 != 0 || a1 == 0
    || ob.any (fun o => decide (o.size < a0.toNat + a1.toNat))
  let unsealed := ob.any (·.state != 3)
  match op with
  | 1 => causes [(pre || (a1 &&& ~~~(0x1F3F#64)) != 0 || a2 != 0 || !(tier == 1 || tier == 2) || size % 4096 != 0
      || size == 0, 1), (ob.isSome, 3), (decide (2 ^ 42 < size), 5)]
  | 2 => causes [(pre || a0 != 0 || a2 != 0 || (a1 &&& ~~~(3#64)) != 0 || bitsOf a1 1 0 == 0
      || ob.any (fun o => decide (bitsOf a1 1 0 < o.tier)), 1), (ob.isNone, 2), (ob.any (·.state != 1), 3)]
  | 3 => causes [(pre || a0 != 0 || a1 != 0 || a2 != 0, 1), (ob.isNone, 2), (ob.any (·.state == 4) || locked, 3)]
  | 4 => causes [(pre || (a2 &&& ~~~(0x707#64)) != 0 || !(bitsOf a2 1 0 == 1 || bitsOf a2 1 0 == 2) || span, 1),
      (ob.isNone, 2), (unsealed, 3)]
  | 5 => causes [(pre || a2 != 0 || span, 1), (ob.isNone, 2), (unsealed || locked, 3)]
  | 6 => causes [(pre || a2 != 0 || span, 1), (ob.isNone, 2), (unsealed, 3)]
  | _ => [1]

/-- CREATE (R118, R119). -/
def tierCreate (s : State) (id : Nat) (a0 a1 : Word) : State × TierAns :=
  let size := a0.toNat
  let tier := bitsOf a1 5 4
  let cluster := bitsOf a1 10 8
  let d := bitsOf a1 3 0
  let ranges := sortBy (fun a b => decide (a.1 < b.1)) (s.tier.objs.map (fun o => (o.base, o.size)))
  let p := spaceOf tier cluster
  match lowestRange size ranges 0, roomFor d p (size / 4096) s.tier.copies.length s with
  | some base, some s =>
    let gen := genOf s id + 1
    let o : Obj :=
      { id := id, base := base, size := size, state := 1, domain := d, home := 0, cluster := cluster, tier := tier,
        promote := bitOf a1 12, flushed := false, digest := 0, lastUse := 0, gen := gen, signed := false }
    let s := { s with tier := { s.tier with
        objs := s.tier.objs ++ [o], gens := s.tier.gens.filter (fun e => e.1 != id) } }
    let s := s.fillRange base size (bitOf a1 11)
    (syncObj s id, .done 0 base)
  | _, _ => (s, .done 4 0)

/-- Flash erase blocks of a T3 home (R198, DESIGN CHOICE, log 23). -/
def homeBlocks (size : Nat) : Nat := ceilDiv size 0x1000000

/-- Free erase blocks of the common pool: 7 TiB usable (R198, R199). -/
def flashFree (s : State) : Nat :=
  458752 - bramBlocks s - (s.tier.objs.filter (fun o => o.home == 3)).foldl (fun n o => n + homeBlocks o.size) 0

/-- The CRC-32 of an object's contents (R112). -/
def objDigest (s : State) (o : Obj) : Nat := (crc32 (s.load o.base o.size)).toNat

/-- The errors of an object's single copy. -/
def homeFaults (s : State) (o : Obj) : List MediaFault :=
  s.tier.media.filter (fun f =>
    match f.place with
    | .home id _ => id == o.id
    | _ => false)

/-- Does a read of the object's single copy meet uncorrectable data (R138)? Its counts and events are kept. -/
def readWhole (s : State) (o : Obj) : State × Bool :=
  let hit := homeFaults s o
  let s := hit.foldl (fun s f => meetFault s f none (match f.place with
    | .home _ b => o.base + b * 64
    | _ => o.base)) s
  (s, hit.any (fun f => badKind f.kind))

/-- The home copy of an object is complete: SEALED, and an original above the home becomes ordinary copies (R116), read last
at the object's LAST_USE (DESIGN CHOICE, log 183). A seal to the own tier that meets uncorrectable data answers as one to a
lower tier (DESIGN CHOICE, log 182). -/
def sealEnd (s : State) (o : Obj) : State × TierAns :=
  let r := readWhole s o
  let s := r.1
  if r.2 then (s, .done 6 0)
  else
    let dig := objDigest s o
    let n := o.size / 4096
    let s := if o.home = o.tier then s
      else
        let old := (List.range n).map (fun t =>
          ({ obj := o.id, tile := t, tier := o.tier, cluster := if o.tier = 1 then o.cluster else 0, valid := true,
             pinned := false, holds := 0, lastRead := o.lastUse, pool := false, cls := 3, waited := false } : TileCopy))
        let s := count s Reg.tirMigCount n
        { s with tier := { s.tier with copies := s.tier.copies ++ old } }
    (s.setObj { o with state := 3, flushed := true, digest := dig, gen := o.gen + 1 }, .done 0 dig)

/-- SEAL (R115, R116, R120): the seal point, after the space of a lower home is reserved. `config` says that it comes
from the CONFIG phase (R470). -/
def tierSeal (s : State) (seq id : Nat) (a1 : Word) (config : Bool) : State × TierAns :=
  let home := bitsOf a1 1 0
  match objOf s id with
  | none => (s, .done 2 0)
  | some o =>
    let n := o.size / 4096
    let room : Option State :=
      if home = o.tier then some s
      else if home = 2 then roomFor o.domain ⟨2, 0⟩ n s.tier.copies.length s
      else if homeBlocks o.size ≤ flashFree s then some s else none
    match room with
    | none => (s, .done 4 0)
    | some s =>
      let o := { o with state := 2, home := home, gen := o.gen + 1, signed := config }
      let s := s.setObj o
      if home = o.tier then sealEnd s o else (s, .wait ⟨seq, 2, id, home, 0, 0, 0⟩)

/-- FREE (R117): RETIRING; copies go when it completes. -/
def tierFree (s : State) (seq id : Nat) : State × TierAns :=
  match objOf s id with
  | none => (s, .done 2 0)
  | some o => (s.setObj { o with state := 4, gen := o.gen + 1 }, .wait ⟨seq, 3, id, 0, 0, 0, 0⟩)

/-- Is no copy of a PLACE still on its way? One that was valid may have been evicted or dropped since (DEDUCED, log 26). -/
def placeReady (s : State) (r : TierReq) : Bool :=
  (List.range (r.hi - r.lo)).all (fun i => (copyIn s r.obj (r.lo + i) ⟨r.tier, r.cluster⟩).all (·.valid))

/-- PLACE requests whose copies are all in place complete (R121). -/
def settlePlaces (s : State) : State :=
  (s.tier.busy.filter (fun r => r.op == 4)).foldl (fun s r =>
    if placeReady s r then endBusy s (fun q => q == r) 0 (BitVec.ofNat 64 (r.hi - r.lo)) else s) s

/-- PLACE (R121): all tiles or none, its migrations in the class of the request (R125). -/
def tierPlace (s : State) (seq cls id : Nat) (a0 a1 a2 : Word) : State × TierAns :=
  let tier := bitsOf a2 1 0
  let pin := bitOf a2 2
  match objOf s id with
  | none => (s, .done 2 0)
  | some o =>
    let p := spaceOf tier (bitsOf a2 10 8)
    let lo := a0.toNat / 4096
    let n := a1.toNat / 4096
    let keep := fun (c : TileCopy) => c.obj == id && c.inSpace p && decide (lo ≤ c.tile) && decide (c.tile < lo + n)
    match (List.range n).foldlM (fun s i => placeTile o p pin cls keep s (lo + i)) s with
    | none => (if pin then s else sticky s Reg.tirErr 5 none, .done 4 0)
    | some s =>
      let r : TierReq := ⟨seq, 4, id, p.tier, p.cluster, lo, lo + n⟩
      let s := syncObj s id
      if placeReady s r then (s, .done 0 n) else (s, .wait r)

/-- DROP and UNPIN of one tile in one space (R119). -/
def releaseTile (drop : Bool) (id tile : Nat) (s : State) (p : Space) : State :=
  match copyIn s id tile p with
  | none => s
  | some c =>
    if drop && c.holds == 0 then freeCopy s c else s.modCopy c (fun e => { e with pinned := false })

/-- DROP and UNPIN (R119, R127); programs that stream retry their placements (R134). -/
def tierRelease (s : State) (drop : Bool) (id : Nat) (a0 a1 : Word) : State × TierAns :=
  let lo := a0.toNat / 4096
  let s := (List.range (a1.toNat / 4096)).foldl (fun s i => spaces.foldl (releaseTile drop id (lo + i)) s) s
  (retryTiles (syncObj s id), .done 0 0)

/-- What a request that is not refused does, by its OP (R119). -/
def tierOp (s : State) (seq cls op id : Nat) (a0 a1 a2 : Word) (config : Bool) : State × TierAns :=
  if op = 1 then tierCreate s id a0 a1
  else if op = 2 then tierSeal s seq id a1 config
  else if op = 3 then tierFree s seq id
  else if op = 4 then tierPlace s seq cls id a0 a1 a2
  else tierRelease s (op == 5) id a0 a1

/-- A request by its fields: its refusal, of several causes a free one (DESIGN CHOICE, log 9), or what it does. -/
def tierRun (s : State) (seq cls : Nat) (pre : Bool) (op id : Nat) (a0 a1 a2 : Word) (config : Bool) : State × TierAns :=
  let p := pickCode s (tierCauses s pre op id a0 a1 a2)
  if p.2 ≠ 0 then (p.1, .done p.2 0) else tierOp p.1 seq cls op id a0 a1 a2 config

/-- One request record (R119). -/
def tierExec (s : State) (seq : Nat) (raw : List Byte) (config : Bool) : State × TierAns :=
  let c := wordAt raw 0
  tierRun s seq (bitsOf c 5 4) (bitsOf c 7 6 != 0 || !allZero (sliceB raw 48 16)) (bitsOf c 3 0) (bitsOf c 31 16) (wordAt raw 8)
    (wordAt raw 16) (wordAt raw 24) config

/-- Has the request buoy announced a request that is not yet taken (DEDUCED, log 24)? -/
def tierRung (s : State) : Bool :=
  let b := s.reg Reg.tirReqBuoy
  if b = 0 then true
  else
    let d := ((countsOf s b).1 + 2 ^ 48 - s.tier.base) % 2 ^ 48
    decide (s.tier.taken < d) && decide (d < 2 ^ 47)

/-- The next request, when its slot is ready and its OP is the command's (a reserved OP belongs to every command). -/
def tierTake (s : State) (op : Nat) : State :=
  if !tierOn s || !tierRung s then s
  else
    let seq := s.tier.nextSeq
    let r := unitRead s (tierSlot s seq) 64 3 none
    let c := wordAt r.2.2 0
    let o := bitsOf c 3 0
    if r.2.1 ≠ stOK ∨ bitsOf c 63 32 ≠ seq % 2 ^ 32 ∨ ¬(o = op ∨ o = 0 ∨ 6 < o) then s
    else
      let s := { r.1 with tier := { r.1.tier with nextSeq := seq + 1, taken := s.tier.taken + 1 } }
      let t := tierExec s seq r.2.2 false
      match t.2 with
      | .done st res => tierDone t.1 seq st (BitVec.ofNat 64 res)
      | .wait q => { t.1 with tier := { t.1.tier with busy := t.1.tier.busy ++ [q] } }

/-- CREATE (R118, R119). -/
def execCreate (s : State) : Host.Outcome State Fault Refusal := .next (tierTake s 1)

/-- SEAL (R115, R116). -/
def execSeal (s : State) : Host.Outcome State Fault Refusal := .next (tierTake s 2)

/-- FREE (R117). -/
def execFree (s : State) : Host.Outcome State Fault Refusal := .next (tierTake s 3)

/-- PLACE (R121). -/
def execPlace (s : State) : Host.Outcome State Fault Refusal := .next (tierTake s 4)

/-- DROP (R119, R127). -/
def execDrop (s : State) : Host.Outcome State Fault Refusal := .next (settlePlaces (tierTake s 5))

/-- UNPIN (R119). -/
def execUnpin (s : State) : Host.Outcome State Fault Refusal := .next (tierTake s 6)

/-- SEAL_FLUSH_COMPLETE (R116): the home copy of a SEALING object is written. A flush that read uncorrectable data leaves
the object SEALING (R120). -/
def execSealFlushComplete (obj : BitVec 16) (s : State) : Host.Outcome State Fault Refusal :=
  match objOf s obj.toNat with
  | none => .next s
  | some o =>
    if o.state = 2 ∧ s.tier.busy.any (fun r => r.op == 2 && r.obj == o.id) then
      let r := sealEnd (if o.home = 3 then programAny s else s) o
      match r.2 with
      | .done st res =>
        .next (endBusy r.1 (fun q => q.op == 2 && q.obj == o.id) st (BitVec.ofNat 64 res))
      | .wait _ => .next r.1
    else .next s

/-- An object is gone: copies, contents and descriptor (R117). -/
def removeObj (s : State) (o : Obj) : State :=
  let s := { s with
    mem := kvDrop s.mem o.base o.size
    fills := s.fills.filter (fun f => !(decide (o.base ≤ f.lo) && decide (f.lo + f.len ≤ o.base + o.size)))
    tier := { s.tier with
      objs := s.tier.objs.filter (fun p => p.id != o.id)
      copies := s.tier.copies.filter (fun c => c.obj != o.id)
      promote := s.tier.promote.filter (fun e => e.1 != o.id)
      media := s.tier.media.filter (fun f => match f.place with
        | .direct _ => true
        | .home id _ => id != o.id
        | .copy id _ _ _ => id != o.id)
      gens := (o.id, o.gen + 1) :: s.tier.gens.filter (fun e => e.1 != o.id) } }
  s.store (objEntry s o.id) (zeroBytes 48 ++ leBytes 8 (o.gen + 1) ++ zeroBytes 8)

/-- The tiles of a removed object come free: pool copies take quota tiles (R130), and programs that stream retry their
placements (R134). -/
def forgetObj (s : State) (o : Obj) : State :=
  let s := removeObj s o
  retryTiles (spaces.foldl (fun s p => pullPool o.domain p s.tier.copies.length s) s)

/-- FREE_COMPLETE (R117): the last access and copy are gone. Other requests under way on the object end with
BAD_STATE (DESIGN CHOICE, log 25). -/
def execFreeComplete (obj : BitVec 16) (s : State) : Host.Outcome State Fault Refusal :=
  match objOf s obj.toNat with
  | none => .next s
  | some o =>
    if o.state = 4 then
      let s := forgetObj s o
      let s := endBusy s (fun r => r.op == 3 && r.obj == o.id) 0 0
      .next (endBusy s (fun r => r.obj == o.id) 3 0)
    else .next s

/-- One copied tile: the source is read as any read would be (R122, R138), in the class of the migration; the copy becomes
valid unless the source is uncorrectable (DEDUCED, log 26). Until a read uses it, its age counts from then (DESIGN CHOICE,
log 183). -/
def copyTile (s : State) (o : Obj) (tile cls : Nat) (p : Space) : State :=
  let r := readTile s o (tile * 4096) 4096 cls (if p.tier = 1 then some p.cluster else none)
  let s := r.1
  if r.2.all (·.isSome) then
    match copyIn s o.id tile p with
    | none => s
    | some c =>
      let s := s.modCopy c (fun e => { e with valid := true, lastRead := s.now })
      let s := countTier s (if p.tier = 1 then 1 else 3) 4096
      syncObj (count s Reg.tirMigCount 1) o.id
  else s

/-- The mover of a migration (R126): out of T3, or between T2 and T1. -/
def fromFlash (s : State) (c : TileCopy) : Bool :=
  match objOf s c.obj with
  | none => false
  | some o => (servings s o c.tile none).head?.any (fun v => v.tier == 3)

/-- The C0 migrations that wait on the mover of a lower-class one (R125). -/
def c0Ahead (s : State) (c : TileCopy) : List TileCopy :=
  if c.cls = 0 then [] else s.tier.copies.filter (fun e => !e.valid && e.cls == 0 && fromFlash s e == fromFlash s c)

/-- May the tile of a migration arrive: a C0 migration waits for at most one lower-class tile, the one in flight (R125;
DESIGN CHOICE, log 186)? -/
def moverFree (s : State) (c : TileCopy) : Bool := (c0Ahead s c).all (fun e => !e.waited)

/-- The C0 migrations that wait on the mover have waited for this tile. -/
def passC0 (s : State) (c : TileCopy) : State :=
  (c0Ahead s c).foldl (fun s e => s.modCopy e (fun e => { e with waited := true })) s

/-- TILE_COPY_VALID (R124): all 4,096 bytes of a copy are in place. A lower-class tile that a C0 migration pre-empts does not
arrive before it (R125). -/
def execTileCopyValid (obj : BitVec 16) (tile : Nat) (tier : BitVec 2) (cluster : Fin 8) (s : State) :
    Host.Outcome State Fault Refusal :=
  let p := spaceOf tier.toNat cluster.val
  match objOf s obj.toNat, copyIn s obj.toNat tile p with
  | some o, some c =>
    if c.valid || !moverFree s c then .next s else .next (settlePlaces (copyTile (passC0 s c) o tile c.cls p))
  | _, _ => .next s

/-- PROMOTE_COPY (R123): a tile read from T3 is copied into T2, if there is room for it. -/
def execPromoteCopy (obj : BitVec 16) (tile : Nat) (s : State) : Host.Outcome State Fault Refusal :=
  if !s.tier.promote.contains (obj.toNat, tile) then .next s
  else
    let s := { s with tier := { s.tier with promote := s.tier.promote.filter (· != (obj.toNat, tile)) } }
    match objOf s obj.toNat with
    | none => .next s
    | some o =>
      if o.state ≠ 3 ∨ (copyIn s o.id tile ⟨2, 0⟩).isSome then .next s
      else
        match takeAny s o.domain ⟨2, 0⟩ (fun _ => false) with
        | none => .next (sticky s Reg.tirErr 5 none)
        | some r => .next (copyTile (addCopy r.1 o.id tile ⟨2, 0⟩ false r.2 0 3) o tile 3 ⟨2, 0⟩)

/-! ### Registers (R129, R139) -/

/-- Move a domain's excess unpinned quota copies into the pool (R129). -/
def shedQuota (d : Nat) (p : Space) : Nat → State → State
  | 0, s => s
  | n + 1, s =>
    if quotaUsed s d p ≤ quotaOf s d p then s
    else
      match leastBy (olderThan s) ((domCopies s d p).filter (fun c => !c.pool && !c.pinned)) with
      | none => s
      | some c => shedQuota d p n (s.modCopy c (fun e => { e with pool := true }))

/-- Evict pool copies until the pool holds them (R129, R131). -/
def shrinkPool (p : Space) : Nat → State → State
  | 0, s => s
  | n + 1, s =>
    if poolUsed s p ≤ poolSize s p then s
    else
      match leastBy (olderThan s) (s.tier.copies.filter (fun c => c.inSpace p && c.pool && c.evictable)) with
      | none => s
      | some c => shrinkPool p n (dropCopy s c)

/-- A write of TIR_DOMn_QUOTA (R129); programs that stream retry their placements (R134). -/
def writeQuota (s : State) (d : Nat) (v : Word) : State :=
  let t2 := bitsOf v 31 0
  let t1 := bitsOf v 47 32
  let others := (List.range 16).filter (· != d)
  let sum := fun (p : Space) => (others.map (fun e => quotaOf s e p)).foldl (· + ·) 0
  let pins := fun (p : Space) => fixedTiles s d p + ((domCopies s d p).filter (·.pinned)).length
  let bad := decide (managedTiles s ⟨2, 0⟩ < t2 + sum ⟨2, 0⟩) || decide (managedTiles s ⟨1, 0⟩ < t1 + sum ⟨1, 0⟩)
    || spaces.any (fun p => decide ((if p.tier = 2 then t2 else t1) < pins p))
  if bad then sticky s Reg.tirErr 0 none
  else
    let s := s.setReg (Reg.tirDomQuota d) (v &&& 0x0000FFFFFFFFFFFF)
    retryTiles (spaces.foldl (fun s p =>
      let n := s.tier.copies.length
      shrinkPool p n (pullPool d p n (shedQuota d p n s))) s)

/-- QUOTA_WRITE (R129). -/
def execQuotaWrite (dom : Fin 16) (value : Word) (s : State) : Host.Outcome State Fault Refusal :=
  .next (writeQuota s dom.val value)

/-- TIR_CAP as it reads. -/
def tirCapView (s : State) : Word :=
  BitVec.ofNat 64 (managedTiles s ⟨2, 0⟩ + managedTiles s ⟨1, 0⟩ * 2 ^ 32)

/-- TIR_POOL as it reads: free pool tiles, T1 of the cluster with fewest. -/
def tirPoolView (s : State) : Word :=
  let free := fun (p : Space) => poolSize s p - poolUsed s p
  BitVec.ofNat 64 (free ⟨2, 0⟩ % 2 ^ 32
    + ((List.range 8).map (fun c => free ⟨1, c⟩)).foldl min (free ⟨1, 0⟩) * 2 ^ 32)

/-- TIR_DOMn_USE as it reads: tiles charged, quota and pool, T1 in the cluster where the domain holds most. -/
def tirUseView (s : State) (d : Nat) : Word :=
  let held := fun (p : Space) => fixedTiles s d p + (domCopies s d p).length
  BitVec.ofNat 64 (held ⟨2, 0⟩ % 2 ^ 32 + ((List.range 8).map (fun c => held ⟨1, c⟩)).foldl max 0 * 2 ^ 32)

/-- Does the object table lie in unmanaged DRAM of the own node (R112)? -/
def tableOk (s : State) : Bool :=
  let a := s.reg Reg.tirObjTable
  nodeOf a == s.node && regionOf (localOf a) == 1 && decide (localOf a + 0x400000 ≤ managedT2 s)

/-- The tier manager starts (R111, R112, R119): the claim word gives the next sequence number, the managed parts hold
unspecified bytes unless a KEEP_STATE start kept them, and every descriptor is written. -/
def tierStart (s : State) : State :=
  let claim := wordAt (unitRead s (s.reg Reg.tirReqRing + 0x4000) 8 3 none).2.2 0
  let kept := s.tier.kept
  let s := { s with tier := { s.tier with
      nextSeq := claim.toNat, taken := 0, base := (countsOf s (s.reg Reg.tirReqBuoy)).1, busy := [], kept := false } }
  let s := if kept then s
    else
      let s := s.fillRange (managedT2 s) (dramBase + dramSize - managedT2 s) false
      let s := (List.range 8).foldl (fun s c =>
        s.fillRange (sramBase + (c + 1) * cluStride - managedT1 s) (managedT1 s) false) s
      s.tier.objs.foldl (fun s o =>
        if !o.flushed || o.home != 3 then s.fillRange o.base o.size false else s) s
  let s := s.fillRange (localOf (s.reg Reg.tirObjTable)) 0x400000 true
  let s := s.tier.gens.foldl (fun s e => s.store (objEntry s e.1 + 48) (leBytes 8 e.2)) s
  s.tier.objs.foldl (fun s o => syncObj s o.id) s

/-- A write of TIR_CTL (R112, R139). -/
def writeTirCtl (s : State) (v : Word) : State :=
  let was := tierOn s
  let s := if was then s else s.setFld Reg.tirCtl 12 8 (min 16 (bitsOf v 12 8))
  let s := s.setBit Reg.tirCtl 1 (bitOf v 1)
  if was then s.setBit Reg.tirCtl 0 (bitOf v 0)
  else if !bitOf v 0 then s
  else if tableOk s then tierStart (s.setBit Reg.tirCtl 0 true)
  else sticky s Reg.tirErr 6 none

/-- TIER_ENABLE (R112). -/
def execTierEnable (s : State) : Host.Outcome State Fault Refusal :=
  .next (writeTirCtl s (putBits (s.reg Reg.tirCtl) 0 0 1))

/-! ### Media errors (R135 to R138) -/

/-- What goes wrong in a place: a DRAM block, or a flash codeword. -/
def freeKind (flash : Bool) (w : Word) : MediaKind :=
  match bitsOf w 2 1 with
  | 0 => .corrected
  | 1 => .resend (1 + bitsOf w 15 8 % (if flash then 7 else 3))
  | 2 => if flash then .uncorrectable else .exhausted
  | _ => .uncorrectable

/-- A place of the media by two free words: a block of DRAM, a codeword of flash, a block of an object's home in T2 or T3,
or of a copy in T2. -/
def freePlace (s : State) (w v : Word) : Option (MediaPlace × Bool) :=
  let n := v.toNat
  match bitsOf w 4 3 with
  | 0 => some (.direct (dramBase + n % (dramSize / 64) * 64), false)
  | 1 => some (.direct (flashBase + n % (flashSize / 4096) * 4096), true)
  | 2 =>
    match s.tier.objs[bitsOf w 31 16 % s.tier.objs.length]? with
    | none => none
    | some o =>
      let t := if o.flushed then o.home else o.tier
      if t = 1 then none else some (.home o.id (n % (o.size / 64)), t == 3)
  | _ =>
    match s.tier.copies[bitsOf w 31 16 % s.tier.copies.length]? with
    | none => none
    | some c => if c.tier = 2 ∧ c.valid then some (.copy c.obj (c.tile * 64 + n % 64) 2 c.cluster, false) else none

/-- Media errors arise outside the model's commands: whether one does, where and of which kind is free (DESIGN CHOICE,
log 187). -/
def mediaArrives (s : State) : State :=
  let w := Config.freeWord s.freeCtr
  let v := Config.freeWord (s.freeCtr + 1)
  let s := s.bumpFree.bumpFree
  if !w.getLsbD 0 then s
  else match freePlace s w v with
    | none => s
    | some e => { s with tier := { s.tier with media := s.tier.media ++ [⟨e.1, freeKind e.2 w⟩] } }

/-- The local address of a media error in DRAM: none where it lies elsewhere. -/
def dramAddr (s : State) (f : MediaFault) : Option Nat :=
  match f.place with
  | .direct a => if regionOf a = 1 then some a else none
  | .home id b =>
    match objOf s id with
    | some o => if (if o.flushed then o.home else o.tier) = 2 then some (o.base + b * 64) else none
    | none => none
  | .copy id b t _ => if t = 2 then (objOf s id).map (fun o => o.base + b * 64) else none

/-- The scrub reads a block with a media error (R136): a copy with uncorrectable data is released (R138). -/
def scrubFault (s : State) (f : MediaFault) : State :=
  match dramAddr s f with
  | none => s
  | some la =>
    let s := meetFault s f none la
    match f.place with
    | .copy id b t c => if badKind f.kind then releaseCopy s id (b / 64) t c else s
    | _ => s

/-- PATROL_SCRUB (R136): all of T2 is read; what the reads meet is corrected, or handled as R138 states. -/
def execPatrolScrub (s : State) : Host.Outcome State Fault Refusal :=
  if tierOn s && s.bit Reg.tirCtl 1 then .next (s.tier.media.foldl scrubFault s) else .next s

end Sys2Proof.Machine
end

