-- ==== Sys2Proof/Machine/Cluster.lean ====
section
/-! DEFINITION. Tensor programs: launch, checks, layers, weight streaming, handshakes, faults and the report
(06_tensor_programs.md). -/

namespace Sys2Proof.Machine

/-- CLUn_STAT as it reads. -/
def cluStatView (s : State) (c : Nat) : Word :=
  let k := cluOf s c
  match k.run with
  | some p => BitVec.ofNat 64 (1 + p.run.cls % 4 * 2 + min k.queue.length 256 * 2 ^ 16 + p.layer % 65536 * 2 ^ 32)
  | none => BitVec.ofNat 64 (min k.queue.length 256 * 2 ^ 16)

/-- The cluster that runs a program of cluster `c`: `c`, or the next unfenced one (R456). -/
def runsOn (s : State) (c : Nat) : Nat :=
  (((List.range 8).map (fun i => (c + i) % 8)).find? (fun v => !unitFenced s v)).getD c

/-! ### The descriptors of a program (R140 to R144) -/

/-- The report of a program (R142). -/
def Prog.report (p : Prog) : Word := p.run.job + BitVec.ofNat 64 (128 * p.layers)

/-- The inputs a layer reads: address, bytes, alignment. -/
def Layer.inputs (l : Layer) : List (Word × Nat × Nat) :=
  [(l.a, l.aBytes, 4096)]
    ++ (if l.isMat then [(l.b, l.bBytes, 4096)] else [])
    ++ (if l.initEn then [(l.init, 4 * l.n, 64)] else [])
    ++ (if l.skip then [(l.occ, mapBytes l.m l.k, 64)] else [])
    ++ (if l.sparse then [(l.aux, l.auxBytes, 4096)]
        else if (l.opc = 5 ∨ l.opc = 6) ∧ l.aux ≠ 0 then [(l.aux, l.auxBytes, 64)] else [])

/-- Does a range lie where REASON 0x02 asks (R144)? -/
def rangeOk (s : State) (a : Word) (len align : Nat) : Bool :=
  let la := localOf a
  let n := max len 1
  a.toNat % align == 0 && nodeOf a == s.node &&
    (match regionOf la with
     | 0 => tierOn s && objCovers s (s.tier.objs.length + 1) la (la + n)
     | 1 => decide (la + n ≤ dramBase + dramSize)
     | 2 => decide (la + n ≤ sramBase + sramSize)
     | _ => false)

/-- Does the range lie in no read-only object (R114)? -/
def rangeWritable (s : State) (a : Word) (len : Nat) : Bool :=
  regionOf (localOf a) != 0 || objWritable s (localOf a) (max len 1)

/-- Do two ranges share a byte? -/
def rangesMeet (a : Word) (n : Nat) (b : Word) (m : Nat) : Bool :=
  decide (a.toNat < b.toNat + m) && decide (b.toNat < a.toNat + n)

/-- Does a weight range lie within WOBJ (R156)? -/
def inWobj (s : State) (id : Nat) (a : Word) (len : Nat) : Bool :=
  match objOf s id with
  | some o => nodeOf a == s.node && regionOf (localOf a) == 0 && decide (o.base ≤ localOf a)
      && decide (localOf a + len ≤ o.base + o.size)
  | none => false

/-- REASON 0x05: a format not allowed (R81, R145, R146). -/
def Layer.badFormat (l : Layer) : Bool :=
  decide (8 < l.afmt) || decide (8 < l.ofmt)
    || (match l.opc with
        | 1 => decide (8 < l.bfmt) || l.afmt == 6 || l.bfmt == 6
        | 2 => l.afmt != 6 || l.bfmt != 6 || l.ofmt != 6
        | _ => l.bfmt != 0 || l.afmt < 2 || decide (5 < l.afmt) || l.ofmt == 8)

/-- REASON 0x0B: a reserved bit, or a field or flag that R145 and R146 give as 0. -/
def Layer.badReserved (l : Layer) (first : Bool) : Bool :=
  let c := wordAt l.raw 0
  let norm := l.opc == 5 || l.opc == 6
  bitsOf c 31 29 != 0 || bitsOf c 63 48 != 0 || 8 ≤ u8At l.raw 30 || u32At l.raw 100 != 0
    || (first && (bitOf l.prog 3 || bitsOf l.prog 15 14 != 0))
    || (l.fuse && l.opc != 1) || (l.initEn && (l.opc == 3 || l.opc == 4))
    || (!l.isMat && l.b != 0) || (!l.initEn && !norm && l.init != 0) || (!l.skip && l.occ != 0)
    || (!l.sparse && !norm && l.aux != 0)

/-- REASON 0x08: M, N or K out of range (R146). -/
def Layer.badShape (l : Layer) : Bool :=
  l.m == 0 || decide (16777216 < l.m) || l.n == 0 || decide (1048576 < l.n)
    || (if l.isMat then l.k == 0 || decide (1048576 < l.k) else l.k != 0)

/-- REASON 0x09: KSPLIT leaves an empty part (R154). -/
def Layer.badSplit (l : Layer) : Bool := l.isMat && decide (l.steps ≤ (l.ksplit - 1) * l.partLen)

/-- REASON 0x0A: SPARSE or SKIP where it is not available (R146). -/
def Layer.badFlags (l : Layer) : Bool := (l.sparse || l.skip) && l.opc != 1

/-- REASON 0x0C: the output overlaps an input, the array or the report (R144). -/
def Layer.badOverlap (l : Layer) (job : Word) (count : Nat) : Bool :=
  let fixed := [(job, 128 * count), (job + BitVec.ofNat 64 (128 * count), 64 + 32 * count)]
  (l.inputs.map (fun e => (e.1, e.2.1)) ++ fixed).any (fun e => rangesMeet l.c (l.cBytes + l.mapOut) e.1 e.2)

/-- REASON 0x0E: streaming fields (R145, R156). `most` is the most weight tiles of any layer. -/
def Layer.badStream (s : State) (l : Layer) (first : Bool) (w : Word) (most : Nat) : Bool :=
  let id := bitsOf w 31 16
  let streams := streamOf w = 1 ∨ streamOf w = 2
  (first && (streamOf w == 3 || decide (1 < bitsOf w 7 6)
      || (decide streams && ((objOf s id).map (·.state)) != some 3)
      || (streamOf w == 2 && decide (bitsOf w 63 32 < most))))
    || (decide streams && l.isMat && !inWobj s id l.b l.bBytes)
    || (decide streams && l.sparse && !inWobj s id l.aux l.auxBytes)

/-- The REASON of the lowest code that applies to layer `i`; none when every check passes (R144). -/
def layerReason (s : State) (job w : Word) (count most i : Nat) (l : Layer) : Option Nat :=
  let mat := l.isMat
  let checks : List (Nat × Bool) :=
    [(0x01, i != 0 && l.prog != 0),
     (0x02, l.inputs.any (fun e => !rangeOk s e.1 e.2.1 e.2.2) || !rangeOk s l.c (l.cBytes + l.mapOut) 4096),
     (0x03, l.opc == 0 || decide (6 < l.opc)),
     (0x04, mat && (stepWidth l.afmt l.bfmt l.sparse).isNone),
     (0x05, l.badFormat),
     (0x06, l.round == 3),
     (0x07, (l.opc == 3 || l.fuse) && decide (12 < l.func)),
     (0x08, l.badShape),
     (0x09, l.badSplit),
     (0x0A, l.badFlags),
     (0x0B, l.badReserved (i == 0)),
     (0x0C, l.badOverlap job count),
     (0x0D, !rangeWritable s l.c (l.cBytes + l.mapOut)),
     (0x0E, l.badStream s (i == 0) w most),
     (0x0F, l.fuse && l.isInt && (l.ofmt == 0 || l.ofmt == 1 || l.ofmt == 8)),
     (0x10, l.ofmt == 8 && !l.isInt),
     (0x11, decide (62 < l.shift)),
     (0x12, (decide (4 ≤ l.opc) && decide (65536 < l.n)) || ((l.opc == 5 || l.opc == 6) && !l.initEn))]
  (checks.find? (·.2)).map (·.1)

/-- Read descriptors up to LAST: those read, whether one could not be read, and the state (R140). -/
def readDescs (job : Word) (cls c : Nat) : Nat → Nat → State → State × List (List Byte) × Bool
  | 0, _, s => (s, [], false)
  | k + 1, i, s =>
    let r := unitRead s (job + BitVec.ofNat 64 (128 * i)) 128 cls (some c)
    if r.2.1 ≠ stOK then (r.1, [], true)
    else if bitOf (wordAt r.2.2 0) 23 then (r.1, [r.2.2], false)
    else
      let t := readDescs job cls c k (i + 1) r.1
      (t.1, r.2.2 :: t.2.1, t.2.2)

/-- Check every descriptor (R144): REASON and FAULT_LAYER. -/
def checkProg (s : State) (job : Word) (raws : List (List Byte)) (unread : Bool) : Option (Nat × Nat) :=
  let la := localOf job
  let placed := job.toNat % 128 == 0 && nodeOf job == s.node
    && (regionOf la == 1 || regionOf la == 2 || regionOf la == 0) && rangeWritable s job (128 * raws.length)
  let ls := raws.map parseLayer
  let w := (ls.head?.map (·.prog)).getD 0
  let most := (ls.map Layer.weightTiles).foldl max 0
  if !placed || raws.isEmpty then some (0x02, 0)
  else
    match ls.zipIdx.findSome? (fun e => (layerReason s job w raws.length most e.2 e.1).map (fun r => (r, e.2))) with
    | some r =>
      if !unread && raws.length == 4096 && r.2 == 4095 && !((ls.getLast?.map (·.last)).getD true) then some (0x01, 4095)
      else some r
    | none =>
      if unread then some (0x02, raws.length)
      else if !((ls.getLast?.map (·.last)).getD true) then some (0x01, 4095)
      else none

/-! ### The end of a program (R142, R159, R160) -/

/-- The report header. -/
def progHeader (s : State) (p : Prog) (status mstatus reason layer : Nat) : List Byte :=
  leBytes 1 status ++ leBytes 1 mstatus ++ leBytes 1 reason ++ zeroBytes 1 ++ leBytes 2 (if status = 1 then 0 else layer)
    ++ leBytes 2 p.done ++ leBytes 8 p.start ++ leBytes 8 s.now ++ leBytes 4 (min p.stalls 0xFFFFFFFF) ++ zeroBytes 36

/-- The bit of CLUn_ERR that a status sets. -/
def progErrBit (status : Nat) : Option Nat :=
  match status with
  | 2 => some 0
  | 3 => some 1
  | 4 => some 1
  | 6 => some 1
  | 7 => some 2
  | 5 => some 3
  | _ => none

/-- Count a program's end and set its event (R159, R166). -/
def countProg (s : State) (c status : Nat) : State :=
  let s :=
    if status = 1 then s.wrapFld (Reg.cluCount c) 31 0 1
    else if status = 2 then s.satFld (Reg.cluCount c) 47 32 1
    else s.satFld (Reg.cluCount c) 63 48 1
  match progErrBit status with
  | some b => sticky s (Reg.cluErr c) b (some (32 + 4 * c))
  | none => s

/-- A program ends: records of layers that did not complete, header, counts, DONE (R142, R160). Samples count only
after OK (R436). -/
def endProg (s : State) (c : Nat) (p : Prog) (status mstatus reason layer : Nat) : State :=
  let r := releaseHeld s p (fun _ => true)
  let s := r.1
  let p := r.2
  let s := (List.range (p.layers - p.done)).foldl (fun s i =>
      unitPut s (p.report + BitVec.ofNat 64 (64 + 32 * (p.done + i))) (zeroBytes 32)) s
  let s := unitPut s p.report (progHeader s p status mstatus reason layer)
  let s := countProg s c status
  let s := obsEnd s c p.run status p.start
  let s := if status = 1 then postChecks s p.checks else s
  retryTiles (bumpTo s p.run.done (status == 1) p.run.cls)

/-! ### Queues (R162, R163) -/

/-- PROGRAM_LAUNCH (R13, R162): one run of the node joins the queue of its cluster, or stays pending on a full queue. -/
def execProgramLaunch (seq : Fin 16) (node : Nat) (s : State) : Host.Outcome State Fault Refusal :=
  match peekLaunch s seq.val node [1] with
  | none => .next s
  | some (g, n) =>
    let r := unitRead s (n.job + 120) 8 g.cls none
    let s := r.1
    let c := runsOn s (if r.2.1 = stOK then bitsOf (wordAt r.2.2 0) 2 0 else 0)
    if 256 ≤ (cluOf s c).queue.length then
      if n.full then .next s
      else
        .next (reportFull s seq.val g.gid node)
    else
      match takeLaunch s seq.val node [1] with
      | none => .next s
      | some (s, run) => .next (s.modClu c (fun k => { k with queue := insertBy runBefore run k.queue }))

/-- Take a program from the queue: START, the checks, and its first tiles (R132, R144). -/
def takeProg (s : State) (c : Nat) (run : Run) : State :=
  let s := obsStart s c run
  let start := s.now
  let r := readDescs run.job run.cls c 4096 0 s
  let s := r.1
  let p : Prog :=
    { run := run, start := start, raws := r.2.1, layer := 0, inLayer := false, waits := none, polled := none,
      old := s.snap, stalls := 0, stalled := false, held := [], done := 0, checks := [] }
  match checkProg s run.job r.2.1 r.2.2 with
  | some e => endProg s c p 2 0 e.1 e.2
  | none =>
    let t := requestTiles s p
    t.1.modClu c (fun k => { k with run := some t.2 })

/-- The next program of an idle cluster: one that yielded resumes unless a program of higher class is queued, else the head of
the queue (R162, R163). -/
def nextProg (s : State) (c : Nat) : State :=
  let k := cluOf s c
  match leastBy (fun a b => runBefore a.run b.run) k.susp, k.queue with
  | some p, r :: rs =>
    if r.cls < p.run.cls then takeProg (s.modClu c (fun k => { k with queue := rs })) c r
    else s.modClu c (fun k => { k with run := some p, susp := k.susp.filter (fun q => q.run != p.run) })
  | some p, [] => s.modClu c (fun k => { k with run := some p, susp := k.susp.filter (fun q => q.run != p.run) })
  | none, r :: rs => takeProg (s.modClu c (fun k => { k with queue := rs })) c r
  | none, [] => s

/-- Must the running program yield at this layer boundary (R163)? -/
def mustYield (s : State) (c : Nat) : Bool :=
  match (cluOf s c).run with
  | some p => !p.inLayer && (cluOf s c).queue.any (fun r => decide (r.cls < p.run.cls))
  | none => false

/-- PROGRAM_TAKE (R144, R162, R163): the cluster, idle or at a layer boundary that yields, takes its next program. A
fenced cluster takes none (R456). -/
def execProgramTake (cluster : Fin 8) (s : State) : Host.Outcome State Fault Refusal :=
  let c := cluster.val
  if unitFenced s c then .next s
  else if mustYield s c then
    .next (nextProg (s.modClu c (fun k => { k with run := none, susp := k.susp ++ k.run.toList })) c)
  else if (cluOf s c).run.isNone then .next (nextProg s c)
  else .next s

/-! ### Layers (R133, R143, R157) -/

/-- The memory status of a buoy that cannot be read. -/
def buoyStatus (s : State) (a : Word) : Nat :=
  if nodeOf a ≠ s.node then stNO_ROUTE
  else
    let b := buoyCheck s (localOf a)
    if b ≠ stOK then b else (unitRead s a 8 0 none).2.1

/-- A WAIT buoy of the own node is read. -/
def readWait (s : State) (a : Word) : WaitRead :=
  match (readBuoy s a).2 with
  | some w => .got (bitsOf w 47 0) (bitsOf w 63 48)
  | none => .bad (buoyStatus s a)

/-- A WAIT buoy of another node is asked for: a GET of its word by the cluster, under the operation's tag (R157; DEDUCED,
log 188). -/
def askWait (s : State) (c cls key : Nat) (a : Word) : State :=
  let op : Op := ⟨.engine (BitVec.ofNat 8 c), cls, 1, 0, a, 0, 8, 0, 0, 0, 0⟩
  sendOp s ⟨key, op, .poll c key, .queued, []⟩ []

/-- What a WAIT says now (R157): none while it holds, a final status and memory status, or go. -/
inductive WaitRes where
  | go
  | hold
  | fail (status mstatus : Nat)
  deriving DecidableEq, Repr

/-- The WAIT of a layer: a reading of its buoy against the one made when layer 0 started (R157). -/
def waitRes (l : Layer) (base now : WaitRead) : WaitRes :=
  match base, now with
  | .bad st, _ => .fail 3 st
  | _, .bad st => .fail 3 st
  | .got n f, .got m g =>
    if f < g then .fail 6 0
    else if (m + 2 ^ 49 - n - l.waitn) % 2 ^ 48 < 2 ^ 47 then .go
    else .hold
  | _, _ => .hold

/-- Put the running program back. -/
def State.setProg (s : State) (c : Nat) (p : Prog) : State := s.modClu c (fun k => { k with run := some p })

/-- The cluster runs no program any more. -/
def State.clearProg (s : State) (c : Nat) : State := s.modClu c (fun k => { k with run := none })

/-- The running program stops for an ABORT (R159, R165). -/
def abortProg (s : State) (c : Nat) (p : Prog) : State := endProg (s.clearProg c) c p 8 0 0 p.layer

/-- The WAIT buoys of a program's layers as layer 0 starts (R157): those of the own node are read, the others are to be asked
for under the tags from `s.nextTag` on. -/
def firstWaits (s : State) (p : Prog) : List WaitRead :=
  (List.range p.layers).map (fun i =>
    let a := (p.layerAt i).wait
    if a = 0 then .got 0 0 else if nodeOf a = s.node then readWait s a else .asked (s.nextTag + i))

/-- The program of cluster `c` as it now stands. -/
def progNow (s : State) (c : Nat) (p : Prog) : Prog := (cluOf s c).run.getD p

/-- The program with the WAIT buoys read, or asked for, as layer 0 starts. -/
def waitsRead (s : State) (c : Nat) (p : Prog) : State × Prog :=
  match p.waits with
  | some _ => (s, p)
  | none =>
    let ws := firstWaits s p
    let p := { p with waits := some ws }
    let s := { s.setProg c p with nextTag := s.nextTag + p.layers }
    let s := ws.zipIdx.foldl (fun s e =>
      match e.1 with
      | .asked key => askWait s c p.run.cls key (p.layerAt e.2).wait
      | _ => s) s
    (s, progNow s c p)

/-- A reading of the WAIT buoy of the layer to run, asked for where it lies on another node and the first has come. -/
def pollWait (s : State) (c : Nat) (p : Prog) (base : WaitRead) : State × Prog :=
  let a := (p.layerAt p.layer).wait
  match base, p.polled with
  | .got _ _, none =>
    if nodeOf a = s.node then (s, { p with polled := some (readWait s a) })
    else
      let key := s.nextTag
      let p := { p with polled := some (.asked key) }
      let s := askWait { s.setProg c p with nextTag := key + 1 } c p.run.cls key a
      (s, progNow s c p)
  | _, _ => (s, p)

/-- The layer to run begins; in schedule mode the tier manager runs ahead of it (R132). -/
def beginLayer (s : State) (c : Nat) (p : Prog) : State :=
  let r := requestTiles s { p with inLayer := true, stalled := false, polled := none, old := s.snap }
  r.1.setProg c r.2

/-- The layer's WAIT decides (R157); a reading that does not let the layer begin is made again. -/
def layerWait (s : State) (c : Nat) (p : Prog) : State :=
  let l := p.layerAt p.layer
  let r := waitsRead s c p
  if l.wait = 0 then beginLayer r.1 c r.2
  else
    let base := (r.2.waits.getD []).getD p.layer (.got 0 0)
    let q := pollWait r.1 c r.2 base
    let now := q.2.polled.getD base
    match waitRes l base now with
    | .fail st ms => endProg (q.1.clearProg c) c q.2 st ms 0 p.layer
    | .go => beginLayer q.1 c q.2
    | .hold => q.1.setProg c (match now with
      | .got _ _ => { q.2 with polled := none }
      | _ => q.2)

/-- The layer to run finds its weights late: one stall (R133). -/
def lateWeights (s : State) (c : Nat) (p : Prog) : State :=
  if p.stalled then s.setProg c p
  else stallOf (s.setProg c { p with stalled := true, stalls := p.stalls + 1 }) p.run 1

/-- LAYER_START (R133, R157): the layer begins when its weights are valid and its WAIT is met; weights that are late when the
previous layer finishes, or for layer 0 at its LAYER_START, report one stall (DEDUCED, log 179). -/
def execLayerStart (cluster : Fin 8) (s : State) : Host.Outcome State Fault Refusal :=
  let c := cluster.val
  match (cluOf s c).run with
  | none => .next s
  | some p =>
    if p.inLayer || mustYield s c || unitFenced s c then .next s
    else if runAborted s p.run then .next (abortProg s c p)
    else
      let r := requestTiles s p
      if !weightsReady r.1 r.2 then .next (lateWeights r.1 c r.2) else .next (layerWait r.1 c r.2)

/-- What reading an operand has given so far: the state, the bytes, and the statuses of failed reads. -/
structure Reading where
  st    : State
  bytes : List (Option Byte)
  bad   : List Nat

/-- One piece of an operand. Blocks that changed since the layer started are old or new (R96). -/
def readPiece (cls c : Nat) (old : Snap) (r : Reading) (a : Word) (n : Nat) : Reading :=
  let la := localOf a
  let st := placeCheck r.st la n .read none
  if st ≠ stOK then ⟨r.st, r.bytes ++ List.replicate n none, r.bad ++ [st]⟩
  else
    let t := readBytes r.st la n cls (some c)
    let m := mixed old t.1 la t.2
    ⟨m.1, r.bytes ++ m.2, if m.2.all (·.isSome) then r.bad else r.bad ++ [stUNCORRECTABLE]⟩

/-- An engine tile of an operand: whole, or the 64-byte blocks that `need` names (R94). -/
def readPart (cls c : Nat) (old : Snap) (need : Nat → Bool) (r : Reading) (a : Word) (n : Nat) : Reading :=
  let bs := List.range (ceilDiv n 64)
  if bs.all need then readPiece cls c old r a n
  else bs.foldl (fun r b =>
    let k := min 64 (n - 64 * b)
    if need b then readPiece cls c old r (a + BitVec.ofNat 64 (64 * b)) k
    else { r with bytes := r.bytes ++ List.replicate k (some 0) }) r

/-- Read an operand, engine tile by engine tile; `need t b` says whether block `b` of tile `t` is read (R94). -/
def readOperand (s : State) (a : Word) (len cls c : Nat) (old : Snap) (need : Nat → Nat → Bool) : State × Blob × List Nat :=
  let r := (List.range (ceilDiv len 4096)).foldl (fun r t =>
    readPart cls c old (need t) r (a + BitVec.ofNat 64 (4096 * t)) (min 4096 (len - 4096 * t))) ⟨s, [], []⟩
  (r.st, r.bytes.toArray, r.bad)

/-- Does the 4 × 4 block (br, bc) of an engine tile of A lie in the 64-byte block `b`, scales among it (R148, R149)? -/
def Layer.blockIn (l : Layer) (br bc b : Nat) : Bool :=
  inTile l.afmt (4 * br) (4 * bc) / 64 == b
    || (l.afmt == 7 && (List.range 4).any (fun d => scaleInTile (4 * br + d) (4 * bc) / 64 == b))

/-- Does the 64-byte block `b` of engine tile `t` of A hold an element of a 4 × 4 block whose occupancy bit is set (R94)? -/
def Layer.aNeeded (l : Layer) (occ : Blob) (t b : Nat) : Bool :=
  !l.skip ||
    (let g := geomOf l.afmt
     let tc := tileCols l.afmt l.k
     let r0 := t / tc * g.rows
     let c0 := t % tc * g.cols
     (List.range (g.rows / 4)).any (fun br => (List.range (g.cols / 4)).any (fun bc =>
       let i := r0 + 4 * br
       let k := c0 + 4 * bc
       decide (i < l.m) && decide (k < l.k) && l.occupied ⟨#[], #[], #[], occ, #[]⟩ i k
         && l.blockIn br bc b)))

/-- Read every operand of a layer: the operands and the statuses of failed reads. -/
def readOperands (s : State) (c cls : Nat) (old : Snap) (l : Layer) : State × Operands × List Nat :=
  let all := fun (_ _ : Nat) => true
  let o := if l.skip then readOperand s l.occ (mapBytes l.m l.k) cls c old all else (s, #[], [])
  let a := readOperand o.1 l.a l.aBytes cls c old (l.aNeeded o.2.1)
  let b := if l.isMat then readOperand a.1 l.b l.bBytes cls c old all else (a.1, #[], [])
  let i := if l.initEn then readOperand b.1 l.init (4 * l.n) cls c old all else (b.1, #[], [])
  let x := if l.sparse || (decide (4 < l.opc) && l.aux != 0) then readOperand i.1 l.aux l.auxBytes cls c old all
    else (i.1, #[], [])
  (x.1, ⟨a.2.1, b.2.1, i.2.1, o.2.1, x.2.1⟩, a.2.2 ++ b.2.2 ++ i.2.2 ++ o.2.2 ++ x.2.2)

/-- Write some output tiles in address order: none, or the status of the first write that failed. -/
def writeTiles (s : State) (l : Layer) (ts : List OutTile) : State × Option Nat :=
  ts.foldl (fun r t =>
    let w := unitWrite r.1 (l.c + BitVec.ofNat 64 (4096 * t.index)) t.bytes
    (w.1, if r.2.isSome ∨ w.2 = stOK then r.2 else some w.2)) (s, none)

/-- The tiles of `ts` that a free choice lets through: R159 does not fix the order of tiles (DESIGN CHOICE, log 27). -/
def freeTiles (s : State) (ts : List Nat) : State × List Nat :=
  ts.foldl (fun r t =>
    (r.1.bumpFree, if (Config.freeWord r.1.freeCtr).getLsbD 0 then r.2 ++ [t] else r.2)) (s, [])

/-- A layer stops at a fault: tiles that do not depend on it may have been written, POST fails, and the program ends
(R158, R159). -/
def faultLayer (s : State) (c : Nat) (p : Prog) (l : Layer) (o : Operands) (good : List Nat) (status mstatus : Nat) :
    State :=
  let f := freeTiles s good
  let s := (writeTiles f.1 l (f.2.map (l.outTile s.ftab o))).1
  let s := bumpTo s l.post false p.run.cls
  endProg (s.clearProg c) c p status mstatus 0 p.layer

/-- The layer record (R160, R161), and the OUTSIDE count. -/
def layerRecord (l : Layer) (ts : List OutTile) : List Byte × Nat × (Nat × Nat × Nat × Nat) :=
  let n := (ts.map (·.counts)).foldl Counts.add ⟨0, 0, 0⟩
  let out := if l.range then (ts.map (fun t => l.outside t.elems)).foldl (· + ·) 0 else 0
  let d := if l.digest then l.digestOf ts else (0, 0, 0, 0)
  let sat := fun (x : Nat) => leBytes 4 (min x 0xFFFFFFFF)
  (sat n.overs ++ sat n.nan ++ sat n.clamp ++ sat out ++ leBytes 4 d.1 ++ leBytes 4 d.2.1 ++ leBytes 4 d.2.2.1
    ++ leBytes 4 d.2.2.2, out, d)

/-- Sample every output tile of a layer (R435, R436). -/
def sampleTiles (s : State) (c : Nat) (p : Prog) (l : Layer) (ts : List OutTile) : State × List Check :=
  ts.foldl (fun r t =>
    let x := sampleResult r.1 c 0 l.opc (l.c + BitVec.ofNat 64 (4096 * t.index)) (crc32 t.bytes).toNat p.start
      p.layer t.index (p.raws.getD p.layer []) none none
    (x.1, r.2 ++ x.2.toList)) (s, [])

/-- A layer's outputs stand: record, events, POST, samples, and the next layer or the end (R142, R158, R161, R444). -/
def finishLayer (s : State) (c : Nat) (p : Prog) (l : Layer) (ts : List OutTile) : State :=
  let r := layerRecord l ts
  let d := r.2.2
  let s := unitPut s (p.report + BitVec.ofNat 64 (64 + 32 * p.layer)) r.1
  let s := obsEvent s c 0x03 p.run.cls p.run.dom false p.layer (d.1 + d.2.1 * 2 ^ 32) (d.2.2.1 + d.2.2.2 * 2 ^ 32)
  let s := if 0 < r.2.1 then journal s { plainEvent c 7 with op := l.opc, addr := l.c } [] else s
  let x := sampleTiles s c p l ts
  let failed := l.rangeFail && decide (0 < r.2.1)
  let s := bumpTo x.1 l.post (!failed) p.run.cls
  let p := { p with done := p.layer + 1, checks := p.checks ++ x.2 }
  if failed then endProg (s.clearProg c) c p 7 0 0 p.layer
  else if l.last then endProg (s.clearProg c) c p 1 0 0 0
  else
    let h := releaseHeld s p (fun i => i == p.layer)
    let q := requestTiles h.1 { h.2 with layer := p.layer + 1, inLayer := false }
    let s := if weightsReady q.1 q.2 then q.1.setProg c q.2 else lateWeights q.1 c q.2
    retryTiles s

/-- Run the layer under way to its end (R143, R159). -/
def runLayer (s : State) (c : Nat) (p : Prog) : State :=
  let l := p.layerAt p.layer
  let r := readOperands s c p.run.cls p.old l
  let s := r.1
  let o := r.2.1
  let tiles := List.range (tensorTiles l.ofmt l.m l.n)
  let readBad := tiles.filter (l.tileReadBad o)
  let fmtBad := tiles.filter (fun t => !readBad.contains t && l.tileFormatBad o t)
  let good := tiles.filter (fun t => !readBad.contains t && !fmtBad.contains t)
  let mst := r.2.2.getD (Config.freeBelow s.freeCtr r.2.2.length) stUNCORRECTABLE
  if !r.2.2.isEmpty && (fmtBad.isEmpty || (Config.freeWord s.freeCtr).getLsbD 1) then
    faultLayer s.bumpFree c p l o good 3 mst
  else if !fmtBad.isEmpty then faultLayer s.bumpFree c p l o good 5 0
  else
    let ts := tiles.map (l.outTile s.ftab o)
    let bad := ts.filterMap (fun t =>
      let st := placeCheck s (localOf l.c + 4096 * t.index) 4096 .write none
      if st = stOK then none else some st)
    match bad with
    | st :: _ => faultLayer s c p l o good 4 st
    | [] =>
      let s := (writeTiles s l ts).1
      let m := if l.occOut then
          unitWrite s (l.c + BitVec.ofNat 64 l.cBytes) (l.outMap (ts.flatMap (·.elems)))
        else (s, stOK)
      if m.2 ≠ stOK then faultLayer m.1 c p l o [] 4 m.2
      else finishLayer m.1 c p l ts

/-- LAYER_END (R142, R143, R158 to R161): every output of the layer is written. The busy cycles it took are free
(DESIGN CHOICE, log 28). -/
def execLayerEnd (cluster : Fin 8) (s : State) : Host.Outcome State Fault Refusal :=
  let c := cluster.val
  match (cluOf s c).run with
  | none => .next s
  | some p =>
    if !p.inLayer then .next s
    else if runAborted s p.run then .next (abortProg s c p)
    else
      let t := chargeDomain s p.run.dom (runLayer s c p)
      .next (count t.bumpFree (Reg.obsDom (4 * p.run.dom)) (Config.freeNat t.freeCtr))

/-- Cancel a program that was never taken or that yielded: its report is found by its descriptors (DESIGN CHOICE, log 29). -/
def cancelQueued (s : State) (c : Nat) (run : Run) : State :=
  let r := readDescs run.job run.cls c 4096 0 s
  let p : Prog :=
    { run := run, start := s.now, raws := r.2.1, layer := 0, inLayer := false, waits := none, polled := none,
      old := s.snap, stalls := 0, stalled := false, held := [], done := 0, checks := [] }
  endProg r.1 c p 8 0 0 0

/-- PROGRAM_CANCEL (R68, R165): the programs of aborted instances on this cluster stop, writing no output tile still in
progress. -/
def execProgramCancel (cluster : Fin 8) (s : State) : Host.Outcome State Fault Refusal :=
  let c := cluster.val
  let s := match (cluOf s c).run with
    | some p => if runAborted s p.run then abortProg s c p else s
    | none => s
  let ps := (cluOf s c).susp.filter (fun p => runAborted s p.run)
  let qs := (cluOf s c).queue.filter (runAborted s)
  let s := s.modClu c (fun k => { k with
    susp := k.susp.filter (fun p => !ps.contains p), queue := k.queue.filter (fun r => !qs.contains r) })
  let s := ps.foldl (fun s p => endProg s c p 8 0 0 p.layer) s
  .next (qs.foldl (fun s r => cancelQueued s c r) s)

end Sys2Proof.Machine
end

