-- ==== Sys2Proof/Machine/Engines.lean ====
section
/-! DEFINITION. What the vision engines, the solver and the fusion engine share: queues, WAITs, slices, suspension and
standing slots (R256 to R260, R291, R305, R335, R336). -/

namespace Sys2Proof.Machine

/-! ### Records -/

/-- Does an address lie where R264, R305 and R339 ask: aligned, on the own node, in DRAM, SRAM or an object? -/
def addrOk (s : State) (a : Word) (align : Nat) : Bool :=
  a.toNat % align == 0 && nodeOf a == s.node && decide (regionOf (localOf a) ≤ 2)

/-- As `addrOk`, with 0 for none. -/
def addrOk0 (s : State) (a : Word) (align : Nat) : Bool := a == 0 || addrOk s a align

/-- Do two byte ranges, given as address and length, share a byte? -/
def overlap (a b : Word × Nat) : Bool := rangesMeet a.1 a.2 b.1 b.2

/-! ### Queues (R257, R260, R336) -/

/-- The runs a queue holds (R257). -/
abbrev queueCap : Nat := 64

/-- A run as it enters a queue (R260): `raw` holds its record's first 32 bytes, with WAIT at byte 16. -/
def enterRun (s : State) (run : Run) (wait : Word) (units waitn : Nat) (sids : List Word) : QRun :=
  { run := run, units := units, wait := wait, waitn := waitn, sids := sids,
    base := if wait = 0 then none else (readBuoy s wait).2.map (fun w => (bitsOf w 47 0, bitsOf w 63 48)) }

/-- What the WAIT of a queued run says now (R260). An address that the record check refuses does not wait. -/
def QRun.waits (s : State) (r : QRun) : WaitRes :=
  if r.wait = 0 ∨ !addrOk s r.wait 8 then .go
  else match r.base, (readBuoy s r.wait).2 with
    | some b, some w =>
      if b.2 < bitsOf w 63 48 then .fail 5 0
      else if (bitsOf w 47 0 + 2 ^ 49 - b.1 - r.waitn) % 2 ^ 48 < 2 ^ 47 then .go
      else .hold
    | _, _ => .fail 3 (buoyStatus s r.wait)

/-- Does the UNITS mask of a run allow unit `u`? Fenced units count as clear bits, and a mask that then allows none as 0
(R456). -/
def QRun.allows (s : State) (u : Nat) (r : QRun) : Bool :=
  let ok := (kindUnits u).zipIdx.filter (fun e => r.units.testBit e.2 && !unitFenced s e.1)
  ok.isEmpty || ok.any (fun e => e.1 == u)

/-- May unit `u` take the queued run: its UNITS allow it and its WAIT does not hold it back (R257, R260)? A run of an
aborted instance waits no longer: it is taken to end (R68, R259). -/
def QRun.eligible (s : State) (u : Nat) (r : QRun) : Bool :=
  r.allows s u && (r.waits s != .hold || runAborted s r.run)

/-- Queue order (R257). -/
def qBefore (a b : QRun) : Bool := runBefore a.run b.run

/-- The first run of a queue that `ok` accepts, and the rest. -/
def pickRun (ok : QRun → Bool) : List QRun → Option (QRun × List QRun)
  | [] => none
  | r :: rs => if ok r then some (r, rs) else (pickRun ok rs).map (fun e => (e.1, r :: e.2))

/-- The suspended run of an engine that resumes first (R258). -/
def bestSusp (e : Engine) : Option UJob := leastBy (fun a b => runBefore a.q.run b.q.run) e.susp

/-- What an engine does next: continue, resume a suspended run, or take a queued one (R258). -/
inductive Pick where
  | stay
  | resume (j : UJob)
  | take (r : QRun) (rest : List QRun)
  deriving DecidableEq, Repr

/-- The choice of an engine, with the class it holds already (R258): a queued run is taken when its class is higher than
that of the run or of the suspended run that would go on (DEDUCED, log 38). -/
def choose (e : Engine) (queue : List QRun) (ok : QRun → Bool) : Pick :=
  let held := match e.run with
    | some j => some j.q.run.cls
    | none => (bestSusp e).map (·.q.run.cls)
  match pickRun ok queue with
  | some (r, rest) =>
    if (match held with
        | some c => decide (r.run.cls < c)
        | none => true) then .take r rest
    else if e.run.isSome then .stay
    else match bestSusp e with
      | some j => .resume j
      | none => .stay
  | none =>
    if e.run.isSome then .stay
    else match bestSusp e with
      | some j => .resume j
      | none => .stay

/-- The engine suspends its run (R258). -/
def Engine.suspend (e : Engine) : Engine := { run := none, susp := e.susp ++ e.run.toList }

/-- The engine resumes a suspended run. -/
def Engine.resume (e : Engine) (j : UJob) : Engine := { run := some j, susp := e.susp.filter (· != j) }

/-- SUSPEND and RESUME events (R485). -/
def obsSlice (s : State) (unit event : Nat) (r : Run) : State :=
  obsEvent s unit event r.cls r.dom false (runTag r) r.job.toNat 0

/-! ### Standing slots (R256, R291, R335) -/

/-- The registers of a standing slot. -/
structure SlotRegs where
  job    : Nat
  launch : Nat
  done   : Nat

/-- Vision slot `n`. -/
def visSlot (n : Nat) : SlotRegs := ⟨Reg.visSlotJob n, Reg.visSlotLaunch n, Reg.visSlotDone n⟩

/-- Solver slot `n`. -/
def slvSlot (n : Nat) : SlotRegs := ⟨Reg.slvSlotJob n, Reg.slvSlotLaunch n, Reg.slvSlotDone n⟩

/-- The LAUNCH buoy's success count. -/
def slotCount (s : State) (r : SlotRegs) : Nat := (countsOf s (s.reg r.launch)).1

/-- Launches of an enabled slot that its unit has not queued (R256). -/
def slotAhead (s : State) (r : SlotRegs) (k : Slot) : Bool :=
  let d := (slotCount s r + 2 ^ 48 - k.taken) % 2 ^ 48
  s.bit r.job 0 && decide (0 < d) && decide (d < 2 ^ 47)

/-- The launch ahead finds its queue full, seen now (R257, DESIGN CHOICE, log 177). -/
def Slot.see (k : Slot) (s : State) : Slot := if k.full then k else { k with full := true, fullAt := s.now }

/-- The unit takes the launch ahead. -/
def Slot.take (k : Slot) : Slot := { k with taken := (k.taken + 1) % 2 ^ 48, full := false }

/-- The run of a slot's launch (R256). -/
def slotRun (s : State) (r : SlotRegs) (n : Nat) (k : Slot) : Run :=
  { seq := 0, node := 0, gid := 0, slot := some n, uid := none, number := 0, cls := s.fld r.job 2 1, dom := 0,
    job := s.reg r.job &&& ~~~0x7F, done := s.reg r.done, ring := 0, time := if k.full then k.fullAt else s.now }

/-- A write of a slot's JOB register (R291): only EN changes while EN is 1; the baseline is taken when EN rises. -/
def writeSlotJob (s : State) (r : SlotRegs) (v : Word) : State × Option Slot :=
  let on := s.bit r.job 0
  let s := if on then s.setBit r.job 0 (bitOf v 0)
    else s.setReg r.job (v &&& ~~~0x78)
  (s, if !on && bitOf v 0 then some ⟨slotCount s r, false, 0⟩ else none)

/-- Write a vision slot's JOB register. -/
def writeVisSlot (s : State) (n : Nat) (v : Word) : State :=
  let r := writeSlotJob s (visSlot n) v
  match r.2 with
  | some k => { r.1 with vis := { r.1.vis with slots := r.1.vis.slots.set n k } }
  | none => r.1

/-- Write a solver slot's JOB register (R335). -/
def writeSlvSlot (s : State) (n : Nat) (v : Word) : State :=
  let r := writeSlotJob s (slvSlot n) v
  match r.2 with
  | some k => { r.1 with slv := { r.1.slv with slots := r.1.slv.slots.set n k } }
  | none => r.1

/-- Write the JOB register of a slot. -/
def writeSlot (s : State) (slot : SlotRef) (v : Word) : State :=
  match slot with
  | .vis n => writeVisSlot s n.val v
  | .slv n => writeSlvSlot s n.val v

/-- The JOB register of a slot. -/
def slotJobReg : SlotRef → Nat
  | .vis n => Reg.visSlotJob n.val
  | .slv n => Reg.slvSlotJob n.val

/-- SLOT_ENABLE (R291): EN is written as 1. -/
def execSlotEnable (slot : SlotRef) (s : State) : Host.Outcome State Fault Refusal :=
  .next (writeSlot s slot (s.reg (slotJobReg slot) ||| 1))

/-- SLOT_DISABLE (R291): EN is written as 0. -/
def execSlotDisable (slot : SlotRef) (s : State) : Host.Outcome State Fault Refusal :=
  .next (writeSlot s slot (s.reg (slotJobReg slot) &&& ~~~1))

end Sys2Proof.Machine
end

