-- ==== Sys2Proof/Machine/Vision.lean ====
section
/-! DEFINITION. The vision engines: queues, job records, images, DETECT, MATCH, STEREO and FLOW
(10_vision_engines.md). Engines 0–3 are FE0–FE3, 4–7 BM0–BM3; their units are 136 to 143. -/

namespace Sys2Proof.Machine

/-- Engine `e`. -/
def visEngine (s : State) (e : Nat) : Engine := s.vis.engines.getD e ⟨none, []⟩

/-- Change engine `e`. -/
def State.modVis (s : State) (e : Nat) (f : Engine → Engine) : State :=
  { s with vis := { s.vis with engines := s.vis.engines.modify e f } }

/-- The queue of the feature engines or of the block matchers. -/
def visQueue (s : State) (block : Bool) : List QRun := if block then s.vis.bqueue else s.vis.fqueue

/-- Replace a queue. -/
def State.setVisQueue (s : State) (block : Bool) (q : List QRun) : State :=
  if block then { s with vis := { s.vis with bqueue := q } } else { s with vis := { s.vis with fqueue := q } }

/-- VIS_STAT as it reads. -/
def visStatView (s : State) : Word :=
  let mask := fun (p : Engine → Bool) =>
    ((s.vis.engines.zipIdx).foldl (fun a e => if p e.1 then a + 2 ^ e.2 else a) 0)
  BitVec.ofNat 64 (mask (·.run.isSome) + mask (fun e => !e.susp.isEmpty) * 2 ^ 8 + s.vis.fqueue.length * 2 ^ 16
    + s.vis.bqueue.length * 2 ^ 24)

/-! ### Job records (R264 to R267) -/

/-- JTYPE of a record. -/
def visType (raw : List Byte) : Nat := bitsOf (wordAt raw 0) 3 0

/-- BAND of a record. -/
def visBand (raw : List Byte) : Nat := bitsOf (wordAt raw 0) 63 32

/-- REPORT of a record. -/
def visReportAt (raw : List Byte) : Word := wordAt raw 8

/-- PROG of a record. -/
def visProg (raw : List Byte) : Word := wordAt raw 24

/-- An image: its descriptor (R265). -/
structure ImgDesc where
  addr   : Word
  w      : Nat
  h      : Nat
  stride : Nat
  fmt    : Nat
  sat    : Nat
  deriving DecidableEq, Repr

/-- The image descriptor at byte `o` of a record. -/
def imgDesc (raw : List Byte) (o : Nat) : ImgDesc :=
  ⟨wordAt raw o, u16At raw (o + 8), u16At raw (o + 10), u32At raw (o + 12), u8At raw (o + 16), u16At raw (o + 18)⟩

/-- Bytes of a pixel. -/
def ImgDesc.pix (i : ImgDesc) : Nat := if i.fmt = 1 then 2 else 1

/-- The bytes an image takes. -/
def ImgDesc.span (i : ImgDesc) : Word × Nat :=
  (i.addr, if i.fmt = 2 then tensorBytes 1 i.h i.w else i.stride * (i.h - 1) + i.w * i.pix)

/-- Reserved bytes of an image descriptor. -/
def imgReserved (raw : List Byte) (o : Nat) : Bool := u8At raw (o + 17) != 0 || u32At raw (o + 20) != 0

/-- REASON 0x03 of one image (R265). -/
def ImgDesc.bad (i : ImgDesc) : Bool :=
  decide (i.w < 32) || decide (8192 < i.w) || decide (i.h < 32) || decide (8192 < i.h) || decide (2 < i.fmt)
    || (if i.fmt = 2 then i.stride != 0 else i.stride % 64 != 0 || decide (i.stride < i.w * i.pix))

/-- REASON 0x02 of one image. -/
def ImgDesc.place (s : State) (i : ImgDesc) : Bool := addrOk s i.addr (if i.fmt = 2 then 4096 else 64)

/-- Is one of the byte ranges of a record not 0 (its reserved bytes)? -/
def reservedSet (raw : List Byte) (rs : List (Nat × Nat)) : Bool := rs.any (fun r => !allZero (sliceB raw r.1 r.2))

/-- REASON 0x01: reserved JTYPE, another kind of engine, reserved bits (R266). -/
def visReserved (block : Bool) (raw : List Byte) : Bool :=
  let ty := visType raw
  bitsOf (wordAt raw 0) 31 24 != 0 ||
    (match ty with
     | 1 => block || imgReserved raw 32 || decide (3 < u8At raw 58) || reservedSet raw [(84, 4), (96, 32)]
     | 2 => block || reservedSet raw [(81, 7), (104, 24)]
     | 3 => !block || imgReserved raw 32 || imgReserved raw 56 || decide (3 < u8At raw 96)
         || reservedSet raw [(97, 3), (112, 16)]
     | 4 => !block || imgReserved raw 32 || imgReserved raw 56 || decide (3 < u8At raw 103) || reservedSet raw [(125, 3)]
     | _ => true)

/-- REASON 0x02: addresses (R264). Bytes 32 to 127 of a reserved type have no meaning, and no check from here on looks at
them. -/
def visPlaceBad (s : State) (raw : List Byte) : Bool :=
  let at_ := fun (o align : Nat) => addrOk s (wordAt raw o) align
  let at0 := fun (o align : Nat) => addrOk0 s (wordAt raw o) align
  !(at0 8 64 && at0 16 8 && at0 24 8 &&
    (match visType raw with
     | 1 => (imgDesc raw 32).place s && at_ 64 64 && at_ 72 64 && (u8At raw 57 == 0 || at_ 88 64)
     | 2 => at_ 32 1 && at_ 48 1 && at0 56 8 && at_ 96 64
     | 3 => (imgDesc raw 32).place s && (imgDesc raw 56).place s && at_ 80 64 && at0 104 64
     | 4 => (imgDesc raw 32).place s && (imgDesc raw 56).place s && at_ 80 64 && at_ 88 64 && at0 104 64 && at0 112 64
     | _ => true))

/-- REASON 0x03: image geometry (R265). -/
def visImageBad (raw : List Byte) : Bool :=
  let a := imgDesc raw 32
  let b := imgDesc raw 56
  match visType raw with
  | 1 => a.bad
  | 2 => false
  | 0 => false
  | n => decide (n ≤ 4) && (a.bad || b.bad || a.w != b.w || a.h != b.h || a.fmt != b.fmt)

/-- Is a byte outside a range? -/
def outside (v lo hi : Nat) : Bool := decide (v < lo) || decide (hi < v)

/-- Is BSIZE not one of its five values? -/
def badBlock (v : Nat) : Bool := !([3, 5, 7, 9, 11].contains v)

/-- REASON 0x04: type fields. -/
def visFieldBad (raw : List Byte) : Bool :=
  let w := (imgDesc raw 32).w
  match visType raw with
  | 1 =>
    visBand raw != 0 || outside (u8At raw 56) 9 12 || decide (2 < u8At raw 57) || u8At raw 59 == 0
      || outside (u8At raw 62) 1 32 || outside (u8At raw 63) 1 32 || outside (u32At raw 80) 1 65536
      || (u8At raw 57 == 0 && wordAt raw 88 != 0)
  | 2 =>
    visBand raw != 0 || outside (u32At raw 40) 1 65536 || outside (u32At raw 44) 1 65536 || decide (8191 < u16At raw 72)
      || decide (8191 < u16At raw 74) || outside (u8At raw 76) 1 8 || outside (u8At raw 77) 1 100
      || decide (512 < u16At raw 78) || outside (u8At raw 80) 1 2
  | 3 =>
    u32At raw 88 % 64 != 0 || decide (u32At raw 88 < 4 * w) || outside (u16At raw 92) 4 256 || badBlock (u8At raw 94)
      || decide (7 < u8At raw 95)
  | 4 =>
    u32At raw 96 % 128 != 0 || decide (u32At raw 96 < 4 * w) || decide (64 < u8At raw 100) || decide (32 < u8At raw 101)
      || badBlock (u8At raw 102) || decide (7 < u8At raw 124) || ((wordAt raw 104 == 0) != (wordAt raw 112 == 0))
  | _ => false

/-- The bytes of a 72-byte feature list. -/
def featSpan (a : Word) (n : Nat) : Word × Nat := (a, 72 * n)

/-- Outputs and inputs of a record, as ranges; the inputs leave out a prediction that equals its output (R290). -/
def visRanges (raw : List Byte) : List (Word × Nat) × List (Word × Nat) :=
  let a := imgDesc raw 32
  let b := imgDesc raw 56
  let plane := fun (o stride n : Nat) => (wordAt raw o, stride * (a.h - 1) + n * a.w)
  let keep := fun (p : Word × Nat) (out : Word) => if p.1 = 0 ∨ p.1 = out then [] else [p]
  match visType raw with
  | 1 => ([(wordAt raw 64, 72 * u32At raw 80), (wordAt raw 72, 8 * u32At raw 80)],
      a.span :: (if u8At raw 57 = 0 then [] else [(wordAt raw 88, 65536)]))
  | 2 => ([(wordAt raw 96, u32At raw 40 * (16 + 16 * u8At raw 76))],
      [featSpan (wordAt raw 32) (u32At raw 40), featSpan (wordAt raw 48) (u32At raw 44)]
        ++ (if wordAt raw 56 = 0 then [] else [(wordAt raw 56, 8 * u32At raw 40)]))
  | 3 => ([plane 80 (u32At raw 88) 4], [a.span, b.span] ++ keep (plane 104 (u32At raw 88) 4) (wordAt raw 80))
  | 4 => ([plane 80 (u32At raw 96) 4, plane 88 (u32At raw 96 / 2) 2],
      [a.span, b.span] ++ keep (plane 104 (u32At raw 96) 4) (wordAt raw 80)
        ++ keep (plane 112 (u32At raw 96 / 2) 2) (wordAt raw 88))
  | _ => ([], [])

/-- Do two entries of a list overlap? -/
def anyOverlap : List (Word × Nat) → Bool
  | [] => false
  | r :: rs => rs.any (overlap r) || anyOverlap rs

/-- REASON 0x06: an output overlaps an input, the record, the report or another output. -/
def visOverlapBad (job : Word) (raw : List Byte) : Bool :=
  let r := visRanges raw
  let fixed := (job, 128) :: (if visReportAt raw = 0 then [] else [(visReportAt raw, 64)])
  r.1.any (fun o => (r.2 ++ fixed).any (overlap o)) || anyOverlap r.1

/-- The pair table (R275). -/
def pairTable (s : State) (old : Snap) (cls : Nat) (raw : List Byte) : State × Nat × List Byte :=
  oldRead old s (wordAt raw 88) 65536 cls

/-- REASON 0x05: a pair-table offset outside −15 to 15. -/
def pairsBad (bs : List Byte) : Bool := bs.any (fun b => decide (15 < b.toInt.natAbs))

/-- Why a record is refused before its pair table, if any, is read: the codes of REASON that apply (R266). -/
def visCauses (s : State) (block : Bool) (job : Word) (raw : List Byte) : List Nat :=
  causes [(visReserved block raw, 1), (visPlaceBad s raw, 2), (visImageBad raw, 3), (visFieldBad raw, 4),
    (visOverlapBad job raw, 6)]

/-- What a run has written and counted. -/
structure VisOut where
  count   : Nat
  found   : Nat
  trunc   : Bool
  reasons : List Nat
  bytes   : List Byte

/-- Nothing written. -/
def VisOut.none : VisOut := ⟨0, 0, false, List.replicate 7 0, []⟩

/-- The job report (R267). -/
def visReport (s : State) (j : UJob) (status mst reason : Nat) (o : VisOut) : List Byte :=
  leBytes 1 status ++ leBytes 1 mst ++ leBytes 1 reason ++ leBytes 1 (if o.trunc then 1 else 0) ++ leBytes 4 o.count
    ++ leBytes 4 o.found ++ o.reasons.flatMap (leBytes 4) ++ leBytes 8 j.start ++ leBytes 8 s.now
    ++ leBytes 4 j.slices ++ zeroBytes 4

/-- The record of a vision run. -/
def UJob.raw (j : UJob) : List Byte := j.raws.headD []

/-- Count a run's end and set its event (R267, R292). -/
def countVis (s : State) (e status : Nat) : State :=
  if status = 1 then s.wrapFld Reg.visCount 31 0 1
  else if status = 2 then sticky (s.satFld Reg.visCount 47 32 1) Reg.visErr (8 + e) (some (152 + e))
  else
    let s := s.satFld Reg.visCount 63 48 1
    if status = 6 then s else sticky s Reg.visErr e (some (152 + e))

/-- A run ends: PROG fails with a fault, the report is written, and DONE is incremented (R261, R267). -/
def endVis (s : State) (e : Nat) (j : UJob) (status mst reason : Nat) (o : VisOut) : State :=
  let raw := j.raw
  let s := if (status = 3 ∨ status = 4 ∨ status = 5) ∧ visBand raw ≠ 0 ∧ 2 < visType raw then
      bumpTo s (visProg raw) false j.q.run.cls else s
  let rep := visReportAt raw
  let s := if !raw.isEmpty && rep != 0 && addrOk s rep 64 then unitPut s rep (visReport s j status mst reason o) else s
  let s := countVis s e status
  let s := obsEnd s (136 + e) j.q.run status j.start
  bumpTo s j.q.run.done (status == 1) j.q.run.cls

/-! ### Launch and take (R256 to R260, R266) -/

/-- Queue a vision run by the kind of engine its record names; a record that cannot be read queues for the feature
engines (DESIGN CHOICE, log 40). -/
def visEnter (s : State) (job : Word) (cls : Nat) : State × Bool × (State → Run → QRun) :=
  let r := unitRead s job 32 cls none
  let raw := if r.2.1 = stOK then r.2.2 else []
  let c := wordAt raw 0
  let ty := bitsOf c 3 0
  (r.1, ty == 3 || ty == 4, fun s run => enterRun s run (wordAt raw 16) (bitsOf c 7 4) (bitsOf c 23 8) [])

/-- VISION_LAUNCH (R256, R257): one LAUNCH success queues one run, or stays pending with a stall on a full queue. -/
def execVisionLaunch (l : Launcher) (s : State) : Host.Outcome State Fault Refusal :=
  match l with
  | .node seq node =>
    match peekLaunch s seq.val node.toNat [2] with
    | none => .next s
    | some (g, n) =>
      let t := visEnter s n.job g.cls
      let s := t.1
      if queueCap ≤ (visQueue s t.2.1).length then
        if n.full then .next s
        else .next (reportFull s seq.val g.gid node.toNat)
      else match takeLaunch s seq.val node.toNat [2] with
        | none => .next s
        | some (s, run) => .next (s.setVisQueue t.2.1 (insertBy qBefore (t.2.2 s run) (visQueue s t.2.1)))
  | .slot n =>
    let i := n.toNat
    let k := s.vis.slots.getD i ⟨0, false, 0⟩
    if !slotAhead s (visSlot i) k then .next s
    else
      let run := slotRun s (visSlot i) i k
      let t := visEnter s run.job run.cls
      let s := t.1
      if queueCap ≤ (visQueue s t.2.1).length then
        .next { s with vis := { s.vis with slots := s.vis.slots.set i (k.see s) } }
      else
        let s := { s with vis := { s.vis with slots := s.vis.slots.set i k.take } }
        .next (s.setVisQueue t.2.1 (insertBy qBefore (t.2.2 s run) (visQueue s t.2.1)))

/-- Engine `e` takes a queued run: START, its record, the checks (R266); a failed WAIT ends it (R260). -/
def takeVis (s : State) (e : Nat) (r : QRun) : State :=
  let block := decide (4 ≤ e)
  let s := obsStart s (136 + e) r.run
  let start := s.now
  let placed := r.run.job.toNat % 128 == 0 && addrOk s r.run.job 128
  let t := if placed then unitRead s r.run.job 128 r.run.cls none else (s, stOK, [])
  let s := t.1
  let j : UJob := { q := r, taken := start, raws := [t.2.2], index := 0, start := start, slices := 0, ok := true, target := none, old := s.snap }
  if runAborted s r.run then endVis s e j 6 0 0 .none
  else if !placed then endVis s e j 2 0 2 .none
  else if t.2.1 ≠ stOK then endVis s e j 3 t.2.1 0 .none
  else
    match r.waits s with
    | .fail st m => endVis s e j st m 0 .none
    | _ =>
      let cs := visCauses s block r.run.job t.2.2
      -- the table can be read where the record's fields pass (DEDUCED, log 39)
      let p := if cs.all (· == 6) ∧ visType t.2.2 = 1 ∧ u8At t.2.2 57 ≠ 0 then pairTable s s.snap r.run.cls t.2.2
        else (s, stOK, [])
      let k := pickCode p.1 (cs ++ (if pairsBad p.2.2 then [5] else []))
      let s := k.1
      if k.2 ≠ 0 then endVis s e j 2 0 k.2 .none
      else if p.2.1 ≠ stOK then endVis s e j 3 p.2.1 0 .none
      else s.modVis e (fun k => { k with run := some j })

/-- Engine `e` takes or resumes a run (R257, R258): a fenced engine takes none (R456). -/
def nextVis (s : State) (e : Nat) : State :=
  if unitFenced s (136 + e) then s
  else
    let block := decide (4 ≤ e)
    let k := visEngine s e
    match choose k (visQueue s block) (QRun.eligible s (136 + e)) with
    | .stay => s
    | .resume j => obsSlice (s.modVis e (·.resume j)) (136 + e) 0x07 j.q.run
    | .take r rest =>
      let s := match k.run with
        | some j => obsSlice (s.modVis e (·.suspend)) (136 + e) 0x06 j.q.run
        | none => s
      takeVis (s.setVisQueue block rest) e r

/-- VISION_RUN_TAKE (R257, R260, R266): an idle engine takes the first eligible run, or resumes a suspended one. -/
def execVisionRunTake (engine : Fin 8) (s : State) : Host.Outcome State Fault Refusal :=
  if (visEngine s engine.val).run.isSome then .next s else .next (nextVis s engine.val)

/-- The run of engine `e` leaves it. -/
def State.clearVis (s : State) (e : Nat) : State := s.modVis e (fun k => { k with run := none })

/-- A slice boundary of engine `e` (R258, R259): suspended runs and the run of an aborted instance end, and a higher run
takes the engine. -/
def sliceVis (s : State) (e : Nat) : State :=
  let s := s.modVis e (fun k => { k with run := k.run.map (fun j => { j with slices := j.slices + 1 }) })
  let dead := (visEngine s e).susp.filter (fun j => runAborted s j.q.run)
  let s := s.modVis e (fun k => { k with susp := k.susp.filter (fun j => !dead.contains j) })
  let s := dead.foldl (fun s j => endVis s e j 6 0 0 .none) s
  match (visEngine s e).run with
  | none => s
  | some j =>
    if runAborted s j.q.run then endVis (s.clearVis e) e j 6 0 0 .none else nextVis s e

/-! ### Images -/

/-- An image that has been read: its size and its pixels, row by row. -/
structure Img where
  w   : Nat
  h   : Nat
  sat : Nat
  px  : Array Nat

/-- The pixel at (x, y), inside the image. -/
def Img.px_ (g : Img) (x y : Int) : Int := (g.px.getD (y.toNat * g.w + x.toNat) 0 : Nat)

/-- Pixels of a row's bytes. -/
def rowPixels (fmt : Nat) (w : Nat) (bs : List Byte) : List Nat :=
  if fmt = 1 then (List.range w).map (fun x => u16At bs (2 * x)) else (bs.take w).map (·.toNat)

/-- Read an image (R265): none with the memory status of a read that fails (R268). -/
def readImg (s : State) (old : Snap) (cls : Nat) (d : ImgDesc) : State × Except Nat Img :=
  if d.fmt = 2 then
    let r := oldRead old s d.addr (tensorBytes 1 d.h d.w) cls
    if r.2.1 ≠ stOK then (r.1, .error r.2.1)
    else
      let b := r.2.2.toArray
      (r.1, .ok ⟨d.w, d.h, d.sat, ((List.range (d.h * d.w)).map (fun i =>
        (b.getD (elemOff 1 d.w (i / d.w) (i % d.w)) 0).toNat)).toArray⟩)
  else
    let r := (List.range d.h).foldl (fun (r : State × Except Nat (Array Nat)) y =>
      match r.2 with
      | .error e => (r.1, .error e)
      | .ok px =>
        let t := oldRead old r.1 (d.addr + BitVec.ofNat 64 (y * d.stride)) (d.w * d.pix) cls
        if t.2.1 ≠ stOK then (t.1, .error t.2.1) else (t.1, .ok (px ++ (rowPixels d.fmt d.w t.2.2).toArray))) (s, .ok #[])
    (r.1, r.2.map (fun px => ⟨d.w, d.h, d.sat, px⟩))

/-! ### DETECT (R269 to R276) -/

/-- The test circle (R270). -/
def circle : List (Int × Int) :=
  [(0, -3), (1, -3), (2, -2), (3, -1), (3, 0), (3, 1), (2, 2), (1, 3), (0, 3), (-1, 3), (-2, 2), (-3, 1), (-3, 0),
   (-3, -1), (-2, -2), (-1, -3)]

/-- The greatest, over the 16 starts, of the least of `arc` consecutive differences (R270). -/
def arcScore (arc : Nat) (ds : List Int) : Int :=
  let two := ds ++ ds
  let at_ := fun (st : Nat) =>
    match (two.drop st).take arc with
    | [] => 0
    | d :: r => r.foldl min d
  (List.range 15).foldl (fun m i => max m (at_ (i + 1))) (at_ 0)

/-- The score of a tested pixel: 0 unless it exceeds THRESH (R270). -/
def cornerScore (g : Img) (arc thresh : Nat) (x y : Nat) : Nat :=
  let c := g.px_ x y
  let ds := circle.map (fun o => g.px_ (x + o.1) (y + o.2) - c)
  let v := max (arcScore arc ds) (arcScore arc (ds.map (fun d => -d)))
  if (thresh : Int) < v then v.toNat else 0

/-- The scores of every pixel (R269). -/
def scoreMap (g : Img) (arc thresh b : Nat) : Array Nat :=
  ((List.range (g.w * g.h)).map (fun i =>
    let x := i % g.w
    let y := i / g.w
    if b ≤ x ∧ x + b < g.w ∧ b ≤ y ∧ y + b < g.h then cornerScore g arc thresh x y else 0)).toArray

/-- The eight neighbours of a pixel. -/
def neighbours : List (Int × Int) :=
  [(-1, -1), (0, -1), (1, -1), (-1, 0), (1, 0), (-1, 1), (0, 1), (1, 1)]

/-- The score at (x, y), 0 outside. -/
def scoreAt (g : Img) (sc : Array Nat) (x y : Int) : Nat :=
  if x < 0 ∨ y < 0 ∨ (g.w : Int) ≤ x ∨ (g.h : Int) ≤ y then 0 else sc.getD (y.toNat * g.w + x.toNat) 0

/-- Does the corner at raster position `i` survive suppression (R271)? -/
def survives (g : Img) (sc : Array Nat) (i : Nat) : Bool :=
  let v := sc.getD i 0
  decide (0 < v) && neighbours.all (fun o =>
    let n := scoreAt g sc ((i % g.w : Nat) + o.1) ((i / g.w : Nat) + o.2)
    decide (n < v) || (n == v && (decide (0 < o.2) || (o.2 == 0 && decide (0 < o.1)))))

/-- The sub-pixel offset of one axis (R272). -/
def subOffset (lo mid hi : Nat) : Int :=
  let den : Int := (lo : Int) + hi - 2 * mid
  clampI (if den = 0 then 0 else divHalfAway (128 * ((lo : Int) - hi)) den) (-128) 128

/-- A surviving corner: its raster position, score and cell (R273). -/
structure Corner where
  pos   : Nat
  score : Nat
  cell  : Nat

/-- The features in output order: cells ascending, in each the first TOPN by score and raster order (R273). -/
def cellOrder (topn : Nat) (cs : List Corner) : List Corner :=
  let before := fun (a b : Corner) => decide ([a.cell, 65535 - a.score, a.pos] < [b.cell, 65535 - b.score, b.pos])
  let sorted := sortBy before cs
  (sorted.foldl (fun (r : Nat × Nat × List Corner) c =>
    let n := if r.1 = c.cell then r.2.1 + 1 else 1
    (c.cell, n, if n ≤ topn then c :: r.2.2 else r.2.2)) (0, 0, [])).2.2.reverse

/-- The offsets of the disc of R274. -/
def disc : List (Int × Int) :=
  (List.range 31).flatMap (fun (j : Nat) => (List.range 31).filterMap (fun (i : Nat) =>
    let dx : Int := (i : Int) - 15
    let dy : Int := (j : Int) - 15
    if dx * dx + dy * dy ≤ 225 then some (dx, dy) else none))

/-- The orientation of a corner (R274). -/
def orientation (g : Img) (x y : Nat) : Nat :=
  let m10 := (disc.map (fun d => d.1 * g.px_ (x + d.1) (y + d.2))).foldl (· + ·) 0
  let m01 := (disc.map (fun d => d.2 * g.px_ (x + d.1) (y + d.2))).foldl (· + ·) 0
  atan2Units m01 m10

/-- The sum of the 5 × 5 pixels around a point (R275). -/
def boxSum (g : Img) (x y : Int) : Int :=
  ((List.range 25).map (fun i => g.px_ (x + ((i % 5 : Nat) : Int) - 2) (y + ((i / 5 : Nat) : Int) - 2))).foldl (· + ·) 0

/-- The descriptor of a corner: 64 bytes (R275, R276). -/
def descriptor (g : Img) (pairs : Array Byte) (o nbits x y : Nat) : List Byte :=
  let r := (o + 4) / 8 % 32
  let off := fun (k c : Nat) => (pairs.getD ((r * 512 + k) * 4 + c) 0).toInt
  leBytes 64 ((List.range nbits).foldl (fun a k =>
    if boxSum g (x + off k 0) (y + off k 1) < boxSum g (x + off k 2) (y + off k 3) then a + 2 ^ k else a) 0)

/-- The feature record and the attribute word of a corner (R272, R276). -/
def featureBytes (g : Img) (sc : Array Nat) (raw : List Byte) (pairs : Array Byte) (c : Corner) : List Byte × List Byte :=
  let x := c.pos % g.w
  let y := c.pos / g.w
  let flags := u8At raw 58
  let sub := flags / 2 % 2 == 1
  let v := fun (dx dy : Int) => scoreAt g sc (x + dx) (y + dy)
  let ox := if sub then subOffset (v (-1) 0) c.score (v 1 0) else 0
  let oy := if sub then subOffset (v 0 (-1)) c.score (v 0 1) else 0
  let o := if flags % 2 = 1 then orientation g x y else 0
  let d := match u8At raw 57 with
    | 0 => zeroBytes 64
    | b => descriptor g pairs o (256 * b) x y
  (leBytes 4 (codeN 32 ((x : Int) * 256 + ox)) ++ leBytes 4 (codeN 32 ((y : Int) * 256 + oy)) ++ d,
   leBytes 2 c.score ++ leBytes 1 o ++ zeroBytes 1 ++ leBytes 4 c.cell)

/-- How a run's work ends: OK, or a fault with its memory status, and what was written. -/
structure VisEnd where
  status : Nat
  mst    : Nat
  out    : VisOut

/-- Write a list of pieces in order until one fails (R268): the state, the pieces written and the failing status. -/
def writePieces (s : State) (ps : List (Word × List Byte)) : State × Nat × Nat :=
  ps.foldl (fun r p =>
    if r.2.2 ≠ stOK then r
    else
      let w := unitWrite r.1 p.1 p.2
      if w.2 = stOK then (w.1, r.2.1 + 1, stOK) else (w.1, r.2.1, w.2)) (s, 0, stOK)

/-- DETECT (R269 to R276). -/
def runDetect (s : State) (old : Snap) (cls : Nat) (raw : List Byte) : State × VisEnd :=
  let i := readImg s old cls (imgDesc raw 32)
  let p := if u8At raw 57 = 0 then (i.1, stOK, []) else pairTable i.1 old cls raw
  let s := p.1
  match i.2 with
  | .error e => (s, ⟨3, e, .none⟩)
  | .ok g =>
    if p.2.1 ≠ stOK then (s, ⟨3, p.2.1, .none⟩)
    else
      let b := if u8At raw 58 % 2 = 1 ∨ u8At raw 57 ≠ 0 then 17 else 4
      let sc := scoreMap g (u8At raw 56) (u16At raw 60) b
      let gw := 16 * u8At raw 62
      let gh := 16 * u8At raw 63
      let cs := (List.range (g.w * g.h)).filterMap (fun i =>
        if survives g sc i then
          some (⟨i, sc.getD i 0, i / g.w / gh * ceilDiv g.w gw + i % g.w / gw⟩ : Corner) else none)
      let all := cellOrder (u8At raw 59) cs
      let feats := all.take (u32At raw 80)
      let recs := feats.map (featureBytes g sc raw p.2.2.toArray)
      let ps := recs.zipIdx.flatMap (fun e =>
        [(wordAt raw 64 + BitVec.ofNat 64 (72 * e.2), e.1.1), (wordAt raw 72 + BitVec.ofNat 64 (8 * e.2), e.1.2)])
      let w := writePieces s ps
      let out : VisOut := ⟨w.2.1 / 2, cs.length, decide (feats.length < all.length), List.replicate 7 0,
        recs.flatMap (·.1) ++ recs.flatMap (·.2)⟩
      (w.1, ⟨if w.2.2 = stOK then 1 else 4, w.2.2, out⟩)

/-! ### MATCH (R277 to R279) -/

/-- The result of one query (R278, R279): `q` and `ts` are feature records, `dx dy` the prediction. -/
def matchOne (raw : List Byte) (q : List Byte) (dx dy : Int) (ts : List (List Byte)) : List Byte × Bool :=
  let nb := 32 * u8At raw 80
  let px : Int := (u32At q 0 : Int) + dx
  let py : Int := (u32At q 4 : Int) + dy
  let cands := ts.zipIdx.filterMap (fun t =>
    if ((u32At t.1 0 : Int) - px).natAbs ≤ 256 * u16At raw 72 ∧ ((u32At t.1 4 : Int) - py).natAbs ≤ 256 * u16At raw 74 then
      some (hamming (sliceB q 8 nb) (sliceB t.1 8 nb), t.2)
    else none)
  let ranked := sortBy (fun a b => decide (a.1 < b.1)) cands
  let km := u8At raw 76
  let d1 := (ranked.head?.map (·.1)).getD 0
  let d2 := ((ranked.drop 1).head?.map (·.1)).getD (8 * nb)
  let ratio := decide (u8At raw 77 * d2 < 100 * d1)
  let kept := if ranked.isEmpty || ratio then [] else (ranked.filter (fun c => decide (c.1 ≤ u16At raw 78))).take km
  let slot := fun (c : Nat × Nat) => wordBytes (wordAt raw 88 + BitVec.ofNat 64 c.2) ++ leBytes 2 c.1 ++ zeroBytes 6
  let empty := List.replicate 10 (0xFF : Byte) ++ zeroBytes 6
  (leBytes 1 kept.length ++ leBytes 1 (if ranked.isEmpty then 2 else if ratio then 1 else 0) ++ zeroBytes 2
    ++ leBytes 4 cands.length ++ leBytes 2 (if ranked.isEmpty then 0xFFFF else d2) ++ zeroBytes 6
    ++ kept.flatMap slot ++ (List.replicate (km - kept.length) empty).flatMap (fun e => e), !kept.isEmpty)

/-- The `i`-th `n`-byte piece of a byte string. -/
def piece (bs : List Byte) (n i : Nat) : List Byte := sliceB bs (n * i) n

/-- MATCH (R277 to R279). -/
def runMatch (s : State) (old : Snap) (cls : Nat) (raw : List Byte) : State × VisEnd :=
  let nq := u32At raw 40
  let nt := u32At raw 44
  let q := oldRead old s (wordAt raw 32) (72 * nq) cls
  let t := oldRead old q.1 (wordAt raw 48) (72 * nt) cls
  let p := if wordAt raw 56 = 0 then (t.1, stOK, []) else oldRead old t.1 (wordAt raw 56) (8 * nq) cls
  let s := p.1
  match [q.2.1, t.2.1, p.2.1].find? (· != stOK) with
  | some e => (s, ⟨3, e, .none⟩)
  | none =>
    let ts := (List.range nt).map (piece t.2.2 72)
    let res := (List.range nq).map (fun i =>
      let d := if wordAt raw 56 = 0 then sliceB raw 64 8 else piece p.2.2 8 i
      matchOne raw (piece q.2.2 72 i) (sextN 32 (u32At d 0)) (sextN 32 (u32At d 4)) ts)
    let n := 16 + 16 * u8At raw 76
    let w := writePieces s (res.zipIdx.map (fun e => (wordAt raw 96 + BitVec.ofNat 64 (n * e.2), e.1.1)))
    let out : VisOut := ⟨w.2.1, ((res.take w.2.1).filter (·.2)).length, false, List.replicate 7 0, res.flatMap (·.1)⟩
    (w.1, ⟨if w.2.2 = stOK then 1 else 4, w.2.2, out⟩)

/-! ### Block matching (R280 to R290) -/

/-- Does the block of half-width `h` around (x, y) lie inside the image? -/
def Img.holds (g : Img) (h : Nat) (x y : Int) : Bool :=
  decide (0 ≤ x - h) && decide (x + h < g.w) && decide (0 ≤ y - h) && decide (y + h < g.h)

/-- The offsets of a block of half-width `h`. -/
def blockOffsets (h : Nat) : List (Int × Int) :=
  (List.range (2 * h + 1)).flatMap (fun (j : Nat) => (List.range (2 * h + 1)).map (fun (i : Nat) => ((i : Int) - h, (j : Int) - h)))

/-- The cost of a candidate: the sum of absolute differences of two blocks. -/
def sad (a b : Img) (h : Nat) (xa ya xb yb : Int) : Nat :=
  ((blockOffsets h).map (fun o => (a.px_ (xa + o.1) (ya + o.2) - b.px_ (xb + o.1) (yb + o.2)).natAbs)).foldl (· + ·) 0

/-- The texture of a block: adjacent pairs in rows, and in columns for FLOW (R284). -/
def texture (g : Img) (h : Nat) (x y : Int) (cols : Bool) : Nat :=
  let n := fun (dx dy : Int) =>
    ((blockOffsets h).map (fun o =>
      if o.1 + dx ≤ h ∧ o.2 + dy ≤ h then
        (g.px_ (x + o.1 + dx) (y + o.2 + dy) - g.px_ (x + o.1) (y + o.2)).natAbs else 0)).foldl (· + ·) 0
  n 1 0 + (if cols then n 0 1 else 0)

/-- Is a pixel of the block saturated (R284)? -/
def saturated (g : Img) (h : Nat) (x y : Int) : Bool :=
  g.sat != 0 && (blockOffsets h).any (fun o => g.px_ (x + o.1) (y + o.2) == (g.sat : Int))

/-- A candidate: its displacement and its cost. -/
structure Move where
  u    : Int
  v    : Int
  cost : Nat

/-- The best candidate: least cost, the first of equals in the order given (R281). -/
def bestMove (cs : List Move) : Option Move := leastBy (fun a b => decide (a.cost < b.cost)) cs

/-- The candidates of a window, v outermost, that keep the block inside the searched image (R280, R288): `u0 v0` is the
first displacement, `nu nv` the counts. `ref` is searched from (x, y) into `tgt`; STEREO displaces by −u. -/
def moves (ref tgt : Img) (h : Nat) (x y : Int) (stereo : Bool) (u0 v0 : Int) (nu nv : Nat) : List Move :=
  (List.range nv).flatMap (fun (j : Nat) => (List.range nu).filterMap (fun (i : Nat) =>
    let u := u0 + i
    let v := v0 + j
    let tx := if stereo then x - u else x + u
    if tgt.holds h tx (y + v) then some ⟨u, v, sad ref tgt h x y tx (y + v)⟩ else none))

/-- The confidence of the best candidate (R283). -/
def confidence (cs : List Move) (b : Move) : Nat :=
  match (cs.filter (fun c => decide (2 ≤ max (c.u - b.u).natAbs (c.v - b.v).natAbs))).map (·.cost) with
  | [] => 0
  | c :: r =>
    let c2 := r.foldl min c
    if c2 = 0 then 0 else 255 * (c2 - b.cost) / c2

/-- The cost of a displacement among the candidates. -/
def costAt (cs : List Move) (u v : Int) : Option Nat := (cs.find? (fun c => c.u == u && c.v == v)).map (·.cost)

/-- The sub-pixel part of one axis (R282). -/
def subMove (lo mid hi : Option Nat) : Int :=
  match lo, mid, hi with
  | some a, some b, some c =>
    let den : Int := (a : Int) + c - 2 * b
    clampI (if den = 0 then 0 else divHalfAway (16 * ((a : Int) - c)) den) (-16) 16
  | _, _, _ => 0

/-- Least and greatest displacement on an axis. -/
def edgesOf (f : Move → Int) : List Move → Int × Int
  | [] => (0, 0)
  | c :: cs => cs.foldl (fun r c => (min r.1 (f c), max r.2 (f c))) (f c, f c)

/-- What a pixel receives: reason, two components in 1/32 px, confidence. -/
structure PixOut where
  reason : Nat
  a      : Int
  b      : Int
  conf   : Nat

/-- A pixel whose reason leaves value and confidence 0 (R286). -/
def PixOut.zero (reason : Nat) : PixOut := ⟨reason, 0, 0, 0⟩

/-- One STEREO pixel (R280 to R286): `pred` is its prediction word. -/
def stereoPixel (l r : Img) (raw : List Byte) (x y : Nat) (pred : Option Nat) : PixOut :=
  let h := u8At raw 94 / 2
  let nd := u16At raw 92
  let flags := u8At raw 96
  let use := match pred with
    | some w => [0, 1, 4].contains (natBits w 27 24)
    | none => false
  let c := if use then (natBits (pred.getD 0) 15 0 + 16) / 32 else 0
  let lo := c - nd / 2
  let lo := if 2047 < lo + nd - 1 then 2048 - nd else lo
  let cs := moves l r h x y true lo 0 nd 1
  match (if l.holds h x y then bestMove cs else none) with
  | none => .zero 5
  | some b =>
    if texture l h x y false < u32At raw 100 then .zero 2
    else if saturated l h x y then .zero 6
    else
      let back := bestMove ((List.range nd).filterMap (fun (i : Nat) =>
        let d : Int := (lo : Int) + i
        let lx := (x : Int) - b.u + d
        if l.holds h lx y then some (⟨d, 0, sad r l h ((x : Int) - b.u) y lx y⟩ : Move) else none))
      let occluded := flags % 2 == 1 && (match back with
        | some k => decide (u8At raw 95 < (k.u - b.u).natAbs)
        | none => false)
      if occluded then .zero 3
      else
        let e := edgesOf (·.u) cs
        let atEdge := b.u == e.1 || b.u == e.2
        let conf := confidence cs b
        let sub := if flags / 2 % 2 = 1 ∧ !atEdge then subMove (costAt cs (b.u - 1) 0) (some b.cost) (costAt cs (b.u + 1) 0) else 0
        if atEdge && b.u != 0 then ⟨4, b.u * 32, 0, conf⟩
        else ⟨if use then 0 else 1, b.u * 32 + sub, 0, conf⟩

/-- One FLOW pixel (R281 to R289): the prediction as vector and confidence words. -/
def flowPixel (p c : Img) (raw : List Byte) (x y : Nat) (pred : Option (Nat × Nat)) : PixOut :=
  let h := u8At raw 102 / 2
  let wx := u8At raw 100
  let wy := u8At raw 101
  let flags := u8At raw 103
  let use := match pred with
    | some w => [0, 1, 4].contains (natBits w.2 11 8)
    | none => false
  let v := (pred.getD (0, 0)).1
  let centre := fun (code w : Nat) =>
    if use then clampI (divHalfAway (sextN 16 code) 32) (-(1023 - (w : Int))) (1023 - w) else 0
  let cu := centre (natBits v 15 0) wx
  let cv := centre (natBits v 31 16) wy
  let nu := 2 * wx + 1
  let nv := 2 * wy + 1
  let cs := moves p c h x y false (cu - wx) (cv - wy) nu nv
  match (if p.holds h x y then bestMove cs else none) with
  | none => .zero 5
  | some b =>
    if texture p h x y true < u32At raw 120 then .zero 2
    else if saturated p h x y then .zero 6
    else
      let back := bestMove (moves c p h (x + b.u) (y + b.v) false (-b.u - wx) (-b.v - wy) nu nv)
      let occluded := flags % 2 == 1 && (match back with
        | some k => decide (u8At raw 124 < (k.u + b.u).natAbs) || decide (u8At raw 124 < (k.v + b.v).natAbs)
        | none => false)
      if occluded then .zero 3
      else
        let eu := edgesOf (·.u) cs
        let ev := edgesOf (·.v) cs
        let onU := b.u == eu.1 || b.u == eu.2
        let onV := b.v == ev.1 || b.v == ev.2
        let sub := flags / 2 % 2 == 1
        let su := if sub && !onU then subMove (costAt cs (b.u - 1) b.v) (some b.cost) (costAt cs (b.u + 1) b.v) else 0
        let sv := if sub && !onV then subMove (costAt cs b.u (b.v - 1)) (some b.cost) (costAt cs b.u (b.v + 1)) else 0
        ⟨if onU || onV then 4 else if use then 0 else 1, b.u * 32 + su, b.v * 32 + sv, confidence cs b⟩

/-- The run of a plane, row by row. -/
structure PlaneRun where
  s     : State
  stop  : Option (Nat × Nat)
  out   : VisOut
  conf  : List Byte

/-- Count one row's reasons. -/
def countReasons (cs : List Nat) (ps : List PixOut) : List Nat :=
  ps.foldl (fun cs p => cs.modify p.reason (· + 1)) cs

/-- One output row is written; at the end of a band PROG counts a success (R261, R268). -/
def planeRow (cls : Nat) (raw : List Byte) (height y : Nat) (r : PlaneRun) (ps : List PixOut) (ws : List (Word × List Byte)) : PlaneRun :=
  let w := writePieces r.s ws
  if w.2.2 ≠ stOK then { r with s := w.1, stop := some (4, w.2.2) }
  else
    let out := { r.out with
      count := r.out.count + ps.length
      reasons := countReasons r.out.reasons ps
      bytes := r.out.bytes ++ (ws.headD (0, [])).2 }
    let r := { r with s := w.1, out := out, conf := r.conf ++ ((ws.drop 1).headD (0, [])).2 }
    let band := visBand raw
    if band ≠ 0 ∧ visProg raw ≠ 0 ∧ ((y + 1) % band = 0 ∨ y + 1 = height) then
      let b := bump r.s (visProg raw) true cls
      { r with s := b.1, stop := if b.2 = stOK then none else some (4, b.2) }
    else r

/-- STEREO over every row (R280 to R287, R290). -/
def runStereo (s : State) (old : Snap) (cls : Nat) (raw : List Byte) : State × VisEnd :=
  let l := readImg s old cls (imgDesc raw 32)
  let r := readImg l.1 old cls (imgDesc raw 56)
  match l.2, r.2 with
  | .ok a, .ok b =>
    let st := u32At raw 88
    let res := (List.range a.h).foldl (fun (k : PlaneRun) y =>
      if k.stop.isSome then k
      else
        let p := if wordAt raw 104 = 0 then (k.s, stOK, []) else
          oldRead old k.s (wordAt raw 104 + BitVec.ofNat 64 (y * st)) (4 * a.w) cls
        if p.2.1 ≠ stOK then { k with s := p.1, stop := some (3, p.2.1) }
        else
          let ps := (List.range a.w).map (fun x =>
            stereoPixel a b raw x y (if wordAt raw 104 = 0 then none else some (u32At p.2.2 (4 * x))))
          let bs := ps.flatMap (fun o => leBytes 4 (codeN 16 o.a + o.conf * 2 ^ 16 + o.reason * 2 ^ 24))
          planeRow cls raw a.h y { k with s := p.1 } ps [(wordAt raw 80 + BitVec.ofNat 64 (y * st), bs)])
      ⟨r.1, none, .none, []⟩
    (res.s, ⟨(res.stop.map (·.1)).getD 1, (res.stop.map (·.2)).getD 0, res.out⟩)
  | .error e, _ => (r.1, ⟨3, e, .none⟩)
  | _, .error e => (r.1, ⟨3, e, .none⟩)

/-- FLOW over every row (R281 to R290). -/
def runFlow (s : State) (old : Snap) (cls : Nat) (raw : List Byte) : State × VisEnd :=
  let p := readImg s old cls (imgDesc raw 32)
  let c := readImg p.1 old cls (imgDesc raw 56)
  match p.2, c.2 with
  | .ok a, .ok b =>
    let st := u32At raw 96
    let none_ := wordAt raw 104 == 0
    let res := (List.range a.h).foldl (fun (k : PlaneRun) y =>
      if k.stop.isSome then k
      else
        let v := if none_ then (k.s, stOK, []) else
          oldRead old k.s (wordAt raw 104 + BitVec.ofNat 64 (y * st)) (4 * a.w) cls
        let f := if none_ then (v.1, stOK, []) else
          oldRead old v.1 (wordAt raw 112 + BitVec.ofNat 64 (y * (st / 2))) (2 * a.w) cls
        if v.2.1 ≠ stOK ∨ f.2.1 ≠ stOK then
          { k with s := f.1, stop := some (3, if v.2.1 ≠ stOK then v.2.1 else f.2.1) }
        else
          let ps := (List.range a.w).map (fun x =>
            flowPixel a b raw x y (if none_ then none else some (u32At v.2.2 (4 * x), u16At f.2.2 (2 * x))))
          planeRow cls raw a.h y { k with s := f.1 } ps
            [(wordAt raw 80 + BitVec.ofNat 64 (y * st), ps.flatMap (fun o => leBytes 2 (codeN 16 o.a) ++ leBytes 2 (codeN 16 o.b))),
             (wordAt raw 88 + BitVec.ofNat 64 (y * (st / 2)), ps.flatMap (fun o => leBytes 2 (o.conf + o.reason * 256)))])
      ⟨c.1, none, .none, []⟩
    (res.s, ⟨(res.stop.map (·.1)).getD 1, (res.stop.map (·.2)).getD 0, { res.out with bytes := res.out.bytes ++ res.conf }⟩)
  | .error e, _ => (c.1, ⟨3, e, .none⟩)
  | _, .error e => (c.1, ⟨3, e, .none⟩)

/-! ### The commands that end a run -/

/-- The first output address of a record (R441). -/
def visFirst (raw : List Byte) : Word :=
  match visType raw with
  | 1 => wordAt raw 64
  | 2 => wordAt raw 96
  | _ => wordAt raw 80

/-- The run of engine `e`, when its record is of type `ty`, does its work and ends (R259, R267, R435, R436). -/
def workVis (s : State) (e ty : Nat) (work : State → Snap → Nat → List Byte → State × VisEnd) : State :=
  match (visEngine s e).run with
  | none => s
  | some j =>
    if visType j.raw ≠ ty then s
    else if runAborted s j.q.run then endVis (s.clearVis e) e { j with slices := j.slices + 1 } 6 0 0 .none
    else
      let r := work s j.old j.q.run.cls j.raw
      let before := s
      let s := chargeDomain before j.q.run.dom r.1
      let j := { j with slices := j.slices + 1 }
      let s := endVis (s.clearVis e) e j r.2.status r.2.mst 0 r.2.out
      if r.2.status = 1 then
        let c := sampleResult s (136 + e) 1 ty (visFirst j.raw) (crc32 r.2.out.bytes).toNat j.start 0 0 []
          (some { j with old := ⟨[], []⟩ }) none
        postChecks c.1 c.2.toList
      else s

/-- DETECT (R269 to R276): the run of the engine. -/
def execDetect (engine : Fin 8) (s : State) : Host.Outcome State Fault Refusal := .next (workVis s engine.val 1 runDetect)

/-- MATCH (R277 to R279). -/
def execMatchFeatures (engine : Fin 8) (s : State) : Host.Outcome State Fault Refusal :=
  .next (workVis s engine.val 2 runMatch)

/-- STEREO (R280 to R287). -/
def execStereo (engine : Fin 8) (s : State) : Host.Outcome State Fault Refusal := .next (workVis s engine.val 3 runStereo)

/-- FLOW (R281 to R290). -/
def execFlow (engine : Fin 8) (s : State) : Host.Outcome State Fault Refusal := .next (workVis s engine.val 4 runFlow)

end Sys2Proof.Machine
end

