-- ==== Sys2Proof/Machine/Sensors.lean ====
section
/-! DEFINITION. Sensor ingest: sources, rings, cameras and trigger outputs (R293 to R302, R315). -/

namespace Sys2Proof.Machine

/-- Source `n`. -/
def srcOf (s : State) (n : Nat) : Source44 := s.sns.sources.getD n ⟨[], 0, false, none, none, 0, none, none, 0⟩

/-- Change source `n`. -/
def State.modSrc (s : State) (n : Nat) (f : Source44 → Source44) : State :=
  { s with sns := { s.sns with sources := s.sns.sources.modify n f } }

/-- Is the source enabled? -/
def srcOn (s : State) (n : Nat) : Bool := s.bit (Reg.snsSrc n) 0

/-- The interrupt source of bit `n` of SNS_ERR (R315). -/
def snsInt (n : Nat) : Nat := if n < 32 then 120 + n / 4 else 96 + n

/-- A source's event bit. -/
def snsErr (s : State) (n : Nat) : State := sticky s Reg.snsErr n (some (snsInt n))

/-- One error of a source (R293). -/
def snsCountErr (s : State) (n : Nat) : State := snsErr (s.satFld (Reg.snsCnt n) 63 48 1) n

/-! ### Descriptors (R297) -/

/-- BASE of the source's descriptor. -/
def srcBase (s : State) (n : Nat) : Word := wordAt (srcOf s n).desc 0
/-- NSLOT. -/
def srcSlots (s : State) (n : Nat) : Nat := u32At (srcOf s n).desc 8
/-- SLOT. -/
def srcSlot (s : State) (n : Nat) : Nat := u32At (srcOf s n).desc 12
/-- BUOY. -/
def srcBuoy (s : State) (n : Nat) : Word := wordAt (srcOf s n).desc 16
/-- RELEASE. -/
def srcRelease (s : State) (n : Nat) : Word := wordAt (srcOf s n).desc 24

/-- Is the number a power of two between two others? -/
def powerIn (v lo hi : Nat) : Bool := decide (lo ≤ v) && decide (v ≤ hi) && 2 ^ Nat.log2 v == v

/-- May a unit keep a ring at this range (R297, R365): DRAM, SRAM or a writable object of the own node? -/
def ringOk (s : State) (a : Word) (len : Nat) : Bool :=
  addrOk s a 4096 && !crossesRegion (localOf a) (max len 1) && placeCheck s (localOf a) (max len 1) .write none == stOK

/-- May a unit watch this buoy of the own node (R31)? -/
def buoyOk (s : State) (a : Word) : Bool := a.toNat % 8 == 0 && nodeOf a == s.node && buoyCheck s (localOf a) == stOK

/-- May the source increment or read this buoy (R31)? Of one on another node only its alignment can be checked. -/
def sourceBuoyOk (s : State) (a : Word) : Bool := a.toNat % 8 == 0 && (nodeOf a != s.node || buoyCheck s (localOf a) == stOK)

/-- The data types a camera may accept (R293). -/
def camTypes : List Nat := [0x1E, 0x2A, 0x2B, 0x2C, 0x2D, 0x2E]

/-- The check of a descriptor at EN (R297). -/
def descOk (s : State) (n : Nat) (d : List Byte) : Bool :=
  let slots := u32At d 8
  let slot := u32At d 12
  let rel := wordAt d 24
  ringOk s (wordAt d 0) (slots * slot) && sourceBuoyOk s (wordAt d 16) && (rel == 0 || sourceBuoyOk s rel) &&
  (if n < 32 then
    !outside slots 1 16 && slot % 4096 == 0 && slot != 0 && !outside (u16At d 36) 32 8192 && !outside (u16At d 38) 32 8192
      && u32At d 40 % 64 == 0 && decide (u8At d 44 ≤ 1) && camTypes.contains (u8At d 45) && u64At d 48 % 64 == 0
      && s.fld (Reg.snsCsi (n / 4)) 1 0 != 3
   else
    powerIn slots 16 65536 && powerIn slot 64 16384 &&
    (if n < 34 then true
     else if n < 42 then
      decide (u8At d 36 ≤ 3) && decide (3 ≤ u8At d 37) && decide (u8At d 38 ≤ 8) && !outside (u8At d 39) 1 64
        && decide (u8At d 48 ≤ 2) && (u8At d 48 != 2 || decide (31250 ≤ u32At d 52))
     else decide (u8At d 36 ≤ 3) && decide (u8At d 37 ≤ 4)))

/-- A write of SNS_SRCn (R297): the descriptor is checked, and copied, when EN rises. -/
def writeSnsSrc (s : State) (n : Nat) (v : Word) : State :=
  if srcOn s n then
    let s := (s.setBit (Reg.snsSrc n) 0 (bitOf v 0)).setBit Reg.snsStat n (bitOf v 0)
    if bitOf v 0 then s else s.modSrc n (fun k => { k with frame := none, spi := none })
  else
    let s := s.setReg (Reg.snsSrc n) (v &&& ~~~0x3F)
    if !bitOf v 0 then s
    else
      let r := unitRead s (v &&& ~~~0x3F) 64 3 none
      if r.2.1 = stOK ∧ descOk r.1 n r.2.2 then
        ((r.1.setBit (Reg.snsSrc n) 0 true).setBit Reg.snsStat n true).modSrc n (fun k =>
          { k with desc := r.2.2, count := 0, frame := none, spi := none, spiAt := r.1.tim.n, newest := none })
      else snsErr r.1 n

/-- SOURCE_ENABLE (R297). -/
def execSourceEnable (n : Fin 44) (s : State) : Host.Outcome State Fault Refusal :=
  .next (writeSnsSrc s n.val (s.reg (Reg.snsSrc n.val) ||| 1))

/-! ### Records (R295, R296, R298, R299) -/

/-- A stamp taken now, less DELAY_NS (R295). -/
def stampNow (s : State) (n : Nat) : Nat := codeN 64 ((s.now : Int) - sextN 32 (u32At (srcOf s n).desc 32))

/-- Is the time counter unsynchronised (R296)? -/
def unsynced (s : State) : Bool := !s.bit Reg.timStatus 0

/-- May the source write its next record (R298)? The difference of the counts is taken modulo 2^48 in the sense of R35
(DESIGN CHOICE, log 48). What the source knows at this moment of a buoy of another node is free. -/
def released (s : State) (n : Nat) : Bool :=
  let rel := srcRelease s n
  let d := ((srcOf s n).count + 2 ^ 48 - (countsOf s rel).1) % 2 ^ 48
  if rel = 0 then true
  else if nodeOf rel ≠ s.node then Config.freeBelow s.freeCtr 2 == 1
  else decide (d < srcSlots s n) || decide (2 ^ 47 ≤ d)

/-- The state after the source has looked at RELEASE: the next look at one of another node is a new one. -/
def lookedRelease (s : State) (n : Nat) : State :=
  if srcRelease s n ≠ 0 ∧ nodeOf (srcRelease s n) ≠ s.node then s.bumpFree else s

/-- A record is dropped (R298). -/
def dropRecord (s : State) (n : Nat) : State :=
  bumpTo (snsErr (s.satFld (Reg.snsCnt n) 47 32 1) n) (srcBuoy s n) false 3

/-- The FLAGS bit of a condition. -/
def flagBit (b : Bool) (i : Nat) : Nat := if b then 2 ^ i else 0

/-- Write a ring record, or drop it (R298, R299). -/
def ringRecord (s : State) (n stamp : Nat) (unsync : Bool) (payload : List Byte) (info cflags dlc : Nat) : State :=
  if !released s n then dropRecord (lookedRelease s n) n
  else
    let s := lookedRelease s n
    let k := srcOf s n
    let room := srcSlot s n - 32
    let cut := decide (room < payload.length)
    let head := leBytes 8 stamp ++ leBytes 4 payload.length
      ++ leBytes 1 (flagBit unsync 0 + flagBit k.gap 1 + flagBit cut 2) ++ zeroBytes 3 ++ leBytes 8 k.count
      ++ leBytes 4 info ++ leBytes 1 cflags ++ leBytes 1 dlc ++ zeroBytes 2
    let w := unitWrite s (srcBase s n + BitVec.ofNat 64 (k.count % srcSlots s n * srcSlot s n)) (head ++ payload.take room)
    if w.2 ≠ stOK then dropRecord w.1 n
    else
      let fed := if n < 34 then none else some ⟨stamp, unsync, info, cflags % 2 == 1, payload.take room⟩
      let s := w.1.modSrc n (fun k => { k with count := k.count + 1, gap := false, fed := fed, feeds := k.feeds + 1 })
      let s := s.wrapFld (Reg.snsCnt n) 31 0 1
      let s := if cut then snsErr s n else s
      bumpTo s (srcBuoy s n) true 3

/-! ### Ethernet, SPI, CAN (R293, R299) -/

/-- EtherType and UDP destination port (0 without one) of a frame with at most one 802.1Q tag. -/
def etherFields (bs : List Byte) : Nat × Nat :=
  let o := etherTypeAt bs
  let ty := be16 bs o
  let ip := o + 2
  let port :=
    if ty = 0x0800 ∧ u8At bs (ip + 9) = 17 then be16 bs (ip + u8At bs ip % 16 * 4 + 2)
    else if ty = 0x86DD ∧ u8At bs (ip + 6) = 17 then be16 bs (ip + 42)
    else 0
  (ty, port)

/-- The filter that accepts a frame: its index, 4 for accept-all, none (R297). -/
def etherFilter (d : List Byte) (bs : List Byte) : Option Nat :=
  let f := etherFields bs
  let fs := (List.range 4).map (fun i => (u16At d (36 + 4 * i), u16At d (38 + 4 * i)))
  if fs.all (· == (0, 0)) then some 4
  else (List.range 4).find? (fun i =>
    match fs[i]? with
    | some (ty, port) => (ty != 0 || port != 0) && ty == f.1 && (port == 0 || port == f.2)
    | none => false)

/-- ETHERNET_FRAME (R293, R295, R299): stamped, filtered and written as a ring record; a bad FCS, a frame beyond 9,216
bytes, a second 802.1Q tag and a pause frame are dropped as errors. -/
def execEthernetFrame (port : Fin 2) (bytes : List Byte) (fcsOk : Bool) (ptp : Option PtpServo) (s : State) :
    Host.Outcome State Fault Refusal :=
  let n := 32 + port.val
  if !srcOn s n || !portsOn s then .next s
  else if !fcsOk || decide (9216 < bytes.length) || [0x8100, 0x8808].contains (etherFields bytes).1 then
    .next (snsCountErr s n)
  else match etherFilter (srcOf s n).desc bytes with
    | none => .next s
    | some i => .next (ptpServo (ringRecord s n (stampNow s n) (unsynced s) bytes i 0 0) port.val bytes ptp)

/-- In period mode (TRIG 2) time passes to the next period instant, PERIOD_NS after another, the first PERIOD_NS after EN
(R297; DESIGN CHOICE, log 193); one that has gone by is not made up for. -/
def spiInstant (s : State) (k : Nat) : State :=
  let d := (srcOf s k).desc
  let per := u32At d 52
  if u8At d 48 ≠ 2 ∨ per = 0 then s
  else
    let last := (srcOf s k).spiAt
    let due := last + per * max 1 ((s.tim.n - last + per - 1) / per)
    let s := if s.tim.n < due then runTo s due else s
    s.modSrc k (fun r => { r with spiAt := due })

/-- SPI_DATA_READY (R295, R297): the edge of the data-ready input that TRIG picks, or in period mode the next period
instant, is stamped and starts a transfer: the WLEN command bytes are shifted out. -/
def execSpiDataReady (n : Fin 8) (s : State) : Host.Outcome State Fault Refusal :=
  let k := 34 + n.val
  if !srcOn s k || !portsOn s then .next s
  else
    let s := spiInstant s k
    if !srcOn s k || !portsOn s || (srcOf s k).spi.isSome then .next s
    else
      let d := (srcOf s k).desc
      let s := { s with sns := { s.sns with shifted := (n.val, sliceB d 40 (u8At d 38)) :: s.sns.shifted } }
      .next (s.modSrc k (fun r => { r with spi := some (stampNow s k, unsynced s) }))

/-- SPI_TRANSFER_DONE (R299): the RLEN bytes read become a record with the stamp of the data-ready edge. -/
def execSpiTransferDone (n : Fin 8) (bytes : List Byte) (s : State) : Host.Outcome State Fault Refusal :=
  let k := 34 + n.val
  match (srcOf s k).spi with
  | none => .next s
  | some (stamp, unsync) =>
    let s := s.modSrc k (fun r => { r with spi := none })
    if !srcOn s k || !portsOn s then .next s
    else .next (ringRecord s k stamp unsync (sliceB bytes 0 (u8At (srcOf s k).desc 39)) 0 0 0)

/-- Does a CAN source accept an identifier (R297)? -/
def canAccepts (d : List Byte) (ident : Nat) : Bool :=
  [40, 48].any (fun o => ident &&& u32At d o == u32At d (o + 4))

/-- CAN_FRAME (R293, R299): stamped, filtered and written as a ring record; non-ISO CAN FD is dropped as an error. -/
def execCanFrame (c : Fin 2) (hdr : CanHeader) (bytes : List Byte) (s : State) : Host.Outcome State Fault Refusal :=
  let n := 42 + c.val
  if !srcOn s n || !portsOn s then .next s
  else if hdr.fdf && hdr.nonIso then .next (snsCountErr s n)
  else if !canAccepts (srcOf s n).desc hdr.ident.toNat then .next s
  else
    let flags := flagBit hdr.ide 0 + flagBit hdr.fdf 1 + flagBit hdr.brs 2 + flagBit hdr.esi 3 + flagBit hdr.rtr 4
    .next (ringRecord s n (stampNow s n) (unsynced s) (bytes.take 64) hdr.ident.toNat flags hdr.dlc.toNat)

/-! ### Cameras (R300) -/

/-- HEIGHT of a camera's descriptor. -/
def camHeight (s : State) (n : Nat) : Nat := u16At (srcOf s n).desc 38

/-- The buffer of the frame being received. -/
def camBuf (s : State) (n : Nat) : Word :=
  srcBase s n + BitVec.ofNat 64 ((srcOf s n).count % srcSlots s n * srcSlot s n)

/-- A frame ends, with the stamp of its frame end or without one (R300): its record, then BUOY. -/
def endFrame (s : State) (n : Nat) (fe : Option Nat) : State :=
  let k := srcOf s n
  match k.frame with
  | none => s
  | some f =>
    let s := s.modSrc n (fun k => { k with frame := none })
    if f.drop then dropRecord s n
    else
      let h := camHeight s n
      let bad := flagBit f.stored 2 + flagBit f.hdr 3 + flagBit (decide (f.lines < h)) 4
        + flagBit (decide (h < f.lines)) 5 + flagBit fe.isNone 6
      let bytes := leBytes 8 k.count ++ leBytes 8 f.stamp ++ leBytes 8 (fe.getD 0) ++ leBytes 2 (min f.lines 65535)
        ++ leBytes 1 (flagBit (f.unsync || (fe.isSome && unsynced s)) 0 + flagBit k.gap 1 + bad) ++ zeroBytes 1 ++ leBytes 4 f.crcs
        ++ wordBytes (camBuf s n) ++ zeroBytes 24
      let at_ := wordAt k.desc 48 + BitVec.ofNat 64 (64 * (k.count % srcSlots s n))
      let s := if nodeOf at_ = s.node then unitPut s at_ bytes else putAway s at_ 3 bytes
      let s := s.modSrc n (fun r => { r with
        count := r.count + 1, gap := false, newest := some (k.count, f.stamp, f.unsync) })
      let s := s.wrapFld (Reg.snsCnt n) 31 0 1
      -- CRC and header errors were counted line by line (DEDUCED, log 110)
      let s := if bad < 16 then s else snsCountErr s n
      bumpTo s (srcBuoy s n) (bad == 0) 3

/-- FRAME_START (R295, R300): a frame under way ends with NO_FE, and a new one begins. -/
def execFrameStart (n : Fin 32) (s : State) : Host.Outcome State Fault Refusal :=
  if !srcOn s n.val || !portsOn s then .next s
  else
    let s := endFrame s n.val none
    let f : CamFrame := ⟨stampNow s n.val, unsynced s, 0, 0, false, false, !released s n.val⟩
    .next ((lookedRelease s n.val).modSrc n.val (fun k => { k with frame := some f }))

/-- FRAME_END (R300). -/
def execFrameEnd (n : Fin 32) (s : State) : Host.Outcome State Fault Refusal :=
  if !srcOn s n.val || !portsOn s then .next s else .next (endFrame s n.val (some (stampNow s n.val)))

/-- The stored bytes of a line: U8 for RAW8 and YUV422, else U16 right-aligned (R300). -/
def lineBytes (dt : Nat) (ps : List (BitVec 16)) : List Byte :=
  if dt = 0x1E ∨ dt = 0x2A then ps.map (fun p => p.setWidth 8)
  else ps.flatMap (fun p => leBytes 2 (p.toNat % 2 ^ (2 * (dt - 0x2B) + 10)))

/-- LINE_RECEIVED (R293, R300): a line of the accepted type becomes the next row. -/
def execLineReceived (n : Fin 32) (dt : Byte) (pixels : List (BitVec 16)) (headerOk crcOk : Bool) (s : State) :
    Host.Outcome State Fault Refusal :=
  let k := srcOf s n.val
  if !srcOn s n.val || !portsOn s then .next s
  else if !headerOk then
    .next (snsCountErr (s.modSrc n.val (fun k => { k with frame := k.frame.map (fun f => { f with hdr := true }) })) n.val)
  else if dt = 0x12 then .next s
  else if dt.toNat ≠ u8At k.desc 45 then .next (snsCountErr s n.val)
  else match k.frame with
    | none => .next s
    | some f =>
      let s := s.modSrc n.val (fun k => { k with frame := some { f with
        lines := f.lines + 1, crcs := f.crcs + (if crcOk then 0 else 1) } })
      let s := if crcOk then s else snsCountErr s n.val
      if f.drop || decide (camHeight s n.val ≤ f.lines) then .next s
      else
        let s := if crcOk then s
          else s.modSrc n.val (fun k => { k with frame := k.frame.map (fun f => { f with stored := true }) })
        .next (unitPut s (camBuf s n.val + BitVec.ofNat 64 (f.lines * u32At k.desc 40))
        (lineBytes dt.toNat (pixels.take (u16At k.desc 36))))

/-! ### Triggers (R301) -/

/-- A write of SNS_TRIGn_CTL: PERIOD and WIDTH of 0 set 1, OFFSET held at P / 8 − 1 (R301). -/
def writeTrigCtl (s : State) (n : Nat) (v : Word) : State :=
  let off := min (bitsOf v 63 50) (lampPeriod s / 8 - 1)
  let v := putBits v 63 50 off
  let v := if bitsOf v 49 34 = 0 then putBits v 49 34 1 else v
  let v := if bitsOf v 17 2 = 0 then putBits v 17 2 1 else v
  s.setReg (Reg.snsTrigCtl n) v

/-- Does the last Lamp edge start trigger `n` (R301)? -/
def trigDue (s : State) (n : Nat) : Bool :=
  let c := s.reg (Reg.snsTrigCtl n)
  let p := bitsOf c 17 2
  bitOf c 0 && lampOn s && (lampEdgeNo s + p * 65536 - bitsOf c 33 18) % p == 0

/-- The tick and the edge count of trigger `n`'s last start. -/
def trigStart (s : State) (n : Nat) : Nat × Nat := s.sns.trigAt.getD n (0, 0)

/-- TRIGGER_START (R301): the pin goes active at its offset after the edge, once for an edge; the start is stamped and
begins, or restarts, the width count, and the CAN controller of the trigger's parity sends its sync frame when enabled. -/
def execTriggerStart (n : Fin 8) (s : State) : Host.Outcome State Fault Refusal :=
  if !trigDue s n.val || (trigStart s n.val).2 == s.lamp.counted then .next s
  else
    let edge := s.lamp.counted
    let at_ := lampEdgeNo s * lampPeriod s + 8 * s.fld (Reg.snsTrigCtl n.val) 63 50
    let s := if s.tim.n < at_ then runTo s at_ else s
    let s := s.setReg (Reg.snsTrigLast n.val) (BitVec.ofNat 64 s.now)
    let s := { s with sns := { s.sns with
      trigs := s.sns.trigs.set n.val true, trigAt := s.sns.trigAt.set n.val (s.tim.ticks, edge) } }
    let c := n.val % 2
    if s.bit (Reg.snsCansync c) (34 + n.val / 2) then
      .next { s with sns := { s.sns with sent := (c, s.reg (Reg.snsCansync c), s.reg (Reg.snsCansyncData c)) :: s.sns.sent } }
    else .next s

/-- TRIGGER_END (R301): WIDTH ticks of 8 ns after its last start the pin returns. -/
def execTriggerEnd (n : Fin 8) (s : State) : Host.Outcome State Fault Refusal :=
  if s.sns.trigs.getD n.val false = false then .next s
  else
  let s := runTicks s ((trigStart s n.val).1 + s.fld (Reg.snsTrigCtl n.val) 49 34)
  .next { s with sns := { s.sns with trigs := s.sns.trigs.set n.val false } }

/-- The ports stop in P2 to P4 (R294): frames and transfers under way are lost, and the next record of every enabled
source carries GAP. -/
def stopPorts (s : State) : State :=
  { s with sns := { s.sns with
      sources := s.sns.sources.map (fun k => { k with gap := true, frame := none, spi := none })
      trigs := s.sns.trigs.map (fun _ => false) } }

end Sys2Proof.Machine
end

