-- ==== Sys2Proof/Machine/Power.lean ====
section
/-! DEFINITION. Power states, the power arbiter, the operating point, brownout and temperature (R477 to R480, R508 to
R525, R533, R542). -/

namespace Sys2Proof.Machine

/-! ### The step machine (R477, R479, R521) -/

/-- TARGET. -/
def pwrTarget (s : State) : Nat := s.fld Reg.pwrStateCtl 2 0

/-- Is any instance in flight, or any check pending (R57, R439)? -/
def drainBusy (s : State) : Bool := s.seqs.any (fun q => !q.insts.isEmpty) || !s.integ.checks.isEmpty

/-- The power state the device moves toward (R477, R520, R521): TARGET, held at P1 once a wake event has ended the
request (DEDUCED, log 52); during a brownout TARGET 3, or P2 when a drain has completed, or nothing. -/
def pwrGoal (s : State) : Nat :=
  let t := if s.power.woken then min (pwrTarget s) 1 else pwrTarget s
  if !s.bit Reg.pwrBrown 1 then t
  else if t = 3 then 3
  else if s.bit Reg.pwrBrown 2 && !drainBusy s then 2
  else pState s

/-- Begin the next step toward the goal, when none is under way (R477). -/
def nextStep (s : State) : State :=
  if s.power.step.isSome || s.power.off || s.power.thermtrip || pState s == 3 then s
  else
    let p := pState s
    let g := pwrGoal s
    if g = p then s
    else showHeld { s with power := { s.power with
      step := some (if p < g then p + 1 else p - 1), since := s.lamp.counted } }

/-- A step completes (R477, R482): the state is entered and the next step begins. -/
def enterPower (s : State) (p : Nat) : State :=
  let s := { s with power := { s.power with step := none } }
  nextStep (showHeld (raise (s.setFld Reg.pwrState 2 0 p) 1))

/-- A write of PWR_STATE_CTL (R477): 4 to 7 set 3. -/
def writeTarget (s : State) (v : Word) : State :=
  let s := s.setFld Reg.pwrStateCtl 2 0 (min 3 (bitsOf v 2 0))
  nextStep { s with power := { s.power with woken := false } }

/-- POWER_TARGET (R477). -/
def execPowerTarget (value : Word) (s : State) : Host.Outcome State Fault Refusal := .next (writeTarget s value)

/-- P0_TO_P1 (R477): completes at the next Lamp edge while edges occur. An edge since the step began is that edge;
otherwise time passes to it. -/
def execP0ToP1 (s : State) : Host.Outcome State Fault Refusal :=
  let s := nextStep s
  if pState s = 0 ∧ s.power.step = some 1 then
    let s := if lampOn s && s.lamp.counted == s.power.since then
        doEdge (if edgeDue s then s else advanceTo s (s.lamp.next * lampPeriod s))
      else s
    .next (enterPower s 1)
  else .next s

/-- P1_TO_P0 (R477). -/
def execP1ToP0 (s : State) : Host.Outcome State Fault Refusal :=
  let s := nextStep s
  if pState s = 1 ∧ s.power.step = some 0 then .next (enterPower s 0) else .next s

/-- What the entry to P2 does (R56, R294, R326, R366, R380, R430, R514, R520): ports off, links idle, SYNC falls, PCIe
L1, a waiting POINT at once; an enabled filter channel switches when it resumes. -/
def idleDevice (s : State) : State :=
  let s := setSync (idleLinks (stopPorts s)) false
  let s := if s.fld Reg.hstStat 3 0 = 0 then s else s.setBit Reg.hstStat 10 true
  let s := applyPower s
  { s.setBit Reg.pwrBrown 2 false with flt := s.flt.map (fun c => { c with resume := true }) }

/-- P1_TO_P2 (R57, R439, R477, R479): only after instances and checks, and with no keeper halted. -/
def execP1ToP2 (s : State) : Host.Outcome State Fault Refusal :=
  let s := nextStep s
  if pState s = 1 ∧ s.power.step = some 2 ∧ !drainBusy s ∧ s.power.halted.isEmpty then
    .next (enterPower (idleDevice s) 2)
  else .next s

/-- P2_TO_P1 (R56, R380, R430, R477): links train again, PCIe returns to L0 and the Lamp restarts. -/
def execP2ToP1 (s : State) : Host.Outcome State Fault Refusal :=
  let s := nextStep s
  if pState s = 2 ∧ s.power.step = some 1 then
    .next (wakeLinks (restartLamp (enterPower (s.setBit Reg.hstStat 10 false) 1)))
  else .next s

/-! ### Brownout (R520, R521) -/

/-- Does a request stand: VR_ALERT_N low while enabled, or a BROWN channel with LEVEL 0? -/
def brownStands (s : State) : Bool :=
  (s.power.vrAlert && s.bit Reg.pwrBrown 0)
    || (List.range 64).any (fun n => s.bit (Reg.fltChThr n) 51 && !s.bit (Reg.fltChStat n) 4)

/-- The drain begins (R520). -/
def startDrain (s : State) : State := nextStep (sticky (s.setBit Reg.pwrBrown 2 true) Reg.pwrErr 2 (some 4))

/-- A brownout request (R520, R521), taken in P0 and P1: keeper halts are released, and a step from P1 to P0 ends in
P1. -/
def brownoutRequest (s : State) : State :=
  if 2 ≤ pState s then s
  else
    let s := s.satFld Reg.pwrCount 63 48 1
    if s.bit Reg.pwrBrown 1 then s
    else
      let s := sticky (s.setBit Reg.pwrBrown 1 true) Reg.pwrErr 0 (some 0)
      let s := showHeld { s with power := { s.power with
        halted := [], holdAt := s.tim.ticks, step := if s.power.step = some 0 then none else s.power.step } }
      if s.fld Reg.pwrBrown 31 16 = 0 then startDrain s else s

/-- A brownout ends (R521). -/
def endBrownout (s : State) : State :=
  if !s.bit Reg.pwrBrown 1 then s
  else
    let s := (s.setBit Reg.pwrBrown 1 false).setBit Reg.pwrBrown 2 false
    nextStep (sticky s Reg.pwrErr 1 (some 3))

/-- VR_ALERT (R520): a falling edge of VR_ALERT_N. -/
def execVrAlert (s : State) : Host.Outcome State Fault Refusal :=
  let s := { s with power := { s.power with vrAlert := true } }
  .next (if s.bit Reg.pwrBrown 0 then brownoutRequest s else s)

/-- May the drain begin: a brownout in P0 or P1 whose request still stands (R520)? -/
def drainDue (s : State) : Bool :=
  s.bit Reg.pwrBrown 1 && !s.bit Reg.pwrBrown 2 && decide (pState s < 2) && brownStands s

/-- BROWNOUT_DRAIN (R520): time passes to HOLD_US after the request (DESIGN CHOICE, log 3), and a request that still stands
begins the drain. -/
def execBrownoutDrain (s : State) : Host.Outcome State Fault Refusal :=
  if !drainDue s then .next s
  else
    let s := runTicks s (s.power.holdAt + 125 * s.fld Reg.pwrBrown 31 16)
    .next (if drainDue s then startDrain s else s)

/-- BROWNOUT_END (R521): VR_ALERT_N is high; ACTIVE clears when every BROWN channel has LEVEL 1. -/
def execBrownoutEnd (s : State) : Host.Outcome State Fault Refusal :=
  let s := { s with power := { s.power with vrAlert := false } }
  .next (if brownStands s then s else endBrownout s)

/-! ### P3, P4 and wakes (R417, R477, R478, R502, R503, R511) -/

/-- The code of a wake cause in PWR_STATE.WAKE. -/
def wakeCode : WakeCause → Nat
  | .gpio _ => 1
  | .pps => 2
  | .perst => 3
  | .time => 4
  | .interrupt => 5

/-- The bit of PWR_WAKE_EN and, below 19, of INT_ALATCH. -/
def wakeBit : WakeCause → Nat
  | .gpio p => p.val
  | .pps => 16
  | .perst => 17
  | .time => 18
  | .interrupt => 19

/-- A bit of INT_ALATCH (R502); while the clocks run, a TIME latch is also a pending source. -/
def latchBit (s : State) (i : Nat) : State := s.setBit Reg.intAlatch i true

/-- Is any source asserted (R499, R500)? -/
def anyAsserted (s : State) : Bool :=
  (List.range 4).any (fun k => (s.reg (Reg.intPend k) &&& s.reg (Reg.intEn k)) != 0)

/-- The region clocks restart after P3 (R503): every TIME latch sets the pending bit of its source. Sources 182 and 183 are
never raised (R334). -/
def latchRestart (s : State) : State :=
  (List.range 6).foldl (fun s j => if s.bit Reg.intAlatch (19 + j) then raise s (176 + j) else s) s

/-- P3 is left (R416, R477): a start of kind wake from the ROM phase, TARGET 0. -/
def wakeP3 (s : State) (code : Nat) : State :=
  let s := latchRestart ((s.setFld Reg.pwrState 2 0 0).setFld Reg.pwrState 7 4 code)
  beginStart (raise s 1) 2 2

/-- P2_TO_P3 (R417, R474, R477, R479): the session ends and everything outside the always-on domain loses its state. The
command is the whole step (DEDUCED, log 166). A wake event that arrived during it then wakes the device. -/
def execP2ToP3 (s : State) : Host.Outcome State Fault Refusal :=
  let s := nextStep s
  if pState s = 2 ∧ s.power.step = some 3 ∧ s.power.halted.isEmpty then
    let w := s.power.wake
    let latched := s.reg Reg.intAlatch
    -- INT_ALATCH is of the always-on domain (R502)
    let s := (resetDomain (raise (endSession s) 1)).setReg Reg.intAlatch latched
    let s := { s with obs := { s.obs with lers := [] }, ep := { s.ep with needPerst := true } }
    let s := s.setFld Reg.pwrState 2 0 3
    match w with
    | some c => .next (wakeP3 s c)
    | none => .next s
  else .next s

/-- Does the cause stand as an event (R478, R500)? Time passes to the wake time, and an interrupt needs an asserted
source in P2. -/
def wakeStands (s : State) : WakeCause → Bool
  | .interrupt => pState s == 2 && anyAsserted s
  | _ => true

/-- A wake event (R478, R479, R502, R521): the edge is latched, and wakes the device from P2 or P3 when enabled. -/
def wakeEvent (s : State) (cause : WakeCause) : State :=
  if s.power.off ∨ s.power.thermtrip then s
  else
    let b := wakeBit cause
    let s := match cause with
      | .time => if s.now < (s.reg Reg.pwrWakeTime).toNat then runTo s (s.reg Reg.pwrWakeTime).toNat else s
      | _ => s
    let s := if b < 19 then latchBit s b else s
    if !s.bit Reg.pwrWakeEn b || !wakeStands s cause then s
    else if pState s = 3 then wakeP3 s (wakeCode cause)
    else if pState s = 2 then
      if s.power.step = some 3 then { s with power := { s.power with wake := some (wakeCode cause) } }
      else
        let s := endBrownout (s.setFld Reg.pwrState 7 4 (wakeCode cause))
        nextStep { s with power := { s.power with woken := true } }
    else s

/-- WAKE_EVENT (R478). -/
def execWakeEvent (cause : WakeCause) (s : State) : Host.Outcome State Fault Refusal := .next (wakeEvent s cause)

/-- ASYNC_LATCH (R502, R503): an edge of a latched input; the always-on domain is off in P4 only. Sources 182 and 183 have
no edge (R334). -/
def execAsyncLatch (bit : Fin 27) (s : State) : Host.Outcome State Fault Refusal :=
  if s.power.off ∨ 25 ≤ bit.val then .next s else .next (latchBit s bit.val)

/-- AON_LOSS (R511): a reset as POR_N's, into P4. -/
def execAonLoss (s : State) : Host.Outcome State Fault Refusal :=
  let s := porReset s
  .next { s with power := { s.power with off := true } }

/-- THERMTRIP (R417, R533): every unit outside the always-on domain stops, as WARM_RST_N stops it, until POR_N. -/
def execThermtrip (s : State) : Host.Outcome State Fault Refusal :=
  let s := resetDomain (endSession s)
  .next { s with power := { s.power with thermtrip := true } }

/-! ### The arbiter (R515 to R518) -/

/-- One round of weighted round robin at 4 : 2 : 1 (R72): tokens left, demands left and grants of C1 to C3. -/
def wrrRound (left : Nat) (d g : Nat × Nat × Nat) : Nat × (Nat × Nat × Nat) × (Nat × Nat × Nat) :=
  let a := min left (min 4 d.1)
  let b := min (left - a) (min 2 d.2.1)
  let c := min (left - a - b) (min 1 d.2.2)
  (left - a - b - c, (d.1 - a, d.2.1 - b, d.2.2 - c), (g.1 + a, g.2.1 + b, g.2.2 + c))

/-- Rounds until no token or no demand is left. -/
def wrr : Nat → Nat → Nat × Nat × Nat → Nat × Nat × Nat → Nat × Nat × Nat
  | 0, _, _, g => g
  | k + 1, left, d, g =>
    if left = 0 ∨ d.1 + d.2.1 + d.2.2 = 0 then g
    else
      let r := wrrRound left d g
      wrr k r.1 r.2.1 r.2.2

/-- How many of `n` clients are throttled when their class gets less than it needs: the spec gives the grant of a class
and not how clients of one class share it, so some number from 1 to `n` (DESIGN CHOICE, log 58). -/
def throttledOf (s : State) (short : Bool) (n : Nat) : State × Nat :=
  if !short then (s, 0) else (s.bumpFree, 1 + Config.freeBelow s.freeCtr n)

/-- POWER_WINDOW (R516 to R518): the demands of the clients, by class in tokens of 0.25 W, and BASE in tokens. C0 demand
beyond LMP_RESV.POWER is recorded in the Lamp period (R71). -/
def powerWindow (s : State) (demands : List PowerDemand) (base : Nat) : State :=
  let sum := fun (c : Nat) => ((demands.filter (·.cls.toNat == c)).map (·.tokens)).foldl (· + ·) 0
  let num := fun (c : Nat) => (demands.filter (fun d => d.cls.toNat == c && d.tokens != 0)).length
  let cap := if s.bit Reg.pwrBrown 1 then s.fld Reg.pwrBrown 15 8 else s.fld Reg.pwrCap 7 0
  -- in units of 0.25 mW: the lower of the cap and the current limit, less BASE; whole watts (DEDUCED, log 57)
  let lim := min (cap * 4000) (s.fld Reg.pwrCap 15 8 * s.fld Reg.pwrDvfs 27 16 * 4)
  let avail := (lim - base * 1000) / 4000 * 4
  let share := cap * 4 * s.fld Reg.lmpResv 47 40 / 100
  let g0 := min (sum 0) (min share avail)
  let s := if share < sum 0 ∧ lampOn s then exceedResv s 5 else s
  let excess := sum 0 - g0
  let d := (sum 1 + excess, sum 2, sum 3)
  let low := min (avail - g0) (s.power.prevLow + s.fld Reg.pwrCap 23 16 * 4)
  let g := wrr (low + 1) low d (0, 0, 0)
  let granted := g.1 + g.2.1 + g.2.2
  let r1 := throttledOf s (decide (g.1 < d.1)) (num 1 + (if excess = 0 then 0 else num 0))
  let r2 := throttledOf r1.1 (decide (g.2.1 < d.2.1)) (num 2)
  let r3 := throttledOf r2.1 (decide (g.2.2 < d.2.2)) (num 3)
  let thr := r1.2 + r2.2 + r3.2
  let s := r3.1.setReg Reg.pwrToken (BitVec.ofNat 64
    (base % 65536 + g0 % 65536 * 2 ^ 16 + granted % 65536 * 2 ^ 32 + thr % 65536 * 2 ^ 48))
  let s := { s with power := { s.power with prevLow := granted } }
  if thr = 0 then s else sticky (s.wrapFld Reg.pwrCount 31 0 1) Reg.pwrErr 3 (some 5)

/-- POWER_WINDOW: windows exist in P0 and P1, where clients run. -/
def execPowerWindow (demands : List PowerDemand) (base : Nat) (s : State) : Host.Outcome State Fault Refusal :=
  if pState s < 2 then .next (powerWindow s demands base) else .next s

/-! ### The operating point, droop and temperature (R512 to R514, R519, R542) -/

/-- A write of PWR_DVFS.POINT (R513, R514): 4 to 7 set 3; it waits for the next Lamp edge while edges occur. -/
def writePoint (s : State) (v : Word) : State :=
  let p := min 3 (bitsOf v 2 0)
  let s := s.setFld Reg.pwrDvfs 2 0 p
  if lampOn s then { s with power := { s.power with point := some p } } else applyPoint s p

/-- DVFS_POINT (R512 to R514): `ack` says whether the regulator acknowledges VOUT_COMMAND from now on. -/
def execDvfsPoint (value : Word) (ack : Bool) (s : State) : Host.Outcome State Fault Refusal :=
  .next (writePoint { s with power := { s.power with vrAck := ack } } value)

/-- The clock follows the voltage (R514). -/
def raiseClock (s : State) : State :=
  match s.power.raise with
  | none => s
  | some p => { s with power := { s.power with raise := none } }.setFld Reg.pwrDvfs 6 4 p.1

/-- DVFS_CLOCK_RAISE (R514): time passes until the voltage has settled (DESIGN CHOICE, log 3), and the clock rises unless a
change on the way has taken the point back. -/
def execDvfsClockRaise (s : State) : Host.Outcome State Fault Refusal :=
  match s.power.raise with
  | none => .next s
  | some p => .next (raiseClock (runTicks s p.2))

/-- DROOP (R519): the regions have clocks to stretch outside P3, P4 and a trip only (R477, R533). -/
def execDroop (s : State) : Host.Outcome State Fault Refusal :=
  if pState s = 3 ∨ s.power.off ∨ s.power.thermtrip then .next s
  else .next (sticky (s.satFld Reg.pwrCount 47 32 1) Reg.pwrErr 4 (some 6))

/-- TEMP_UPDATE (R542): the sixteen readings, i16 in 1/16 °C. Which of several sensors
with the highest reading SENSOR names is free (DESIGN CHOICE, log 60). -/
def execTempUpdate (readings : List (BitVec 16)) (s : State) : Host.Outcome State Fault Refusal :=
  let rs : List (BitVec 16) := readings.take 16
  match leastBy (fun (a b : BitVec 16 × Nat) => decide (b.1.toInt < a.1.toInt)) rs.zipIdx with
  | none => .next s
  | some m =>
    let s := { s with power := { s.power with temps := rs.map BitVec.toNat } }
    let p := pickCode s ((rs.zipIdx.filter (fun e => e.1 == m.1)).map (·.2))
    let s := (p.1.setFld Reg.pwrTemp 15 0 m.1.toNat).setFld Reg.pwrTemp 19 16 p.2
    if sextN 16 (s.fld Reg.pwrTemp 47 32) < m.1.toInt then .next (s.setFld Reg.pwrTemp 47 32 m.1.toNat) else .next s

end Sys2Proof.Machine
end

