-- ==== Sys2Proof/Machine/Boot.lean ====
section
/-! DEFINITION. Start-up as far as the flash channels: resets, the choice and the checks of an image, the firmware and
DRAM training (R397 to R405, R416 to R421, R467). What the sections do stands in Startup.lean. -/

namespace Sys2Proof.Machine

/-! ### Images (R402 to R405, R421) -/

/-- The phase of start-up (R400). -/
def bootPhase (s : State) : Nat := s.fld Reg.gctlBoot 3 0

/-- The kind of start: 0 cold, 1 warm, 2 wake (R416). -/
def bootKind (s : State) : Nat := s.fld Reg.gctlBoot 5 4

/-- Bytes of an image: slot A, slot B, or the recovery image in cluster 0's SRAM (R403, R421). -/
def imageBytes (s : State) (img off len : Nat) : List Byte :=
  match img with
  | 0 => kvRange (fun _ => 0xFF) s.boot.xspi off len
  | 1 => kvRange (fun _ => 0xFF) s.boot.xspi (0x10000000 + off) len
  | _ => s.load (cluSram 0 + off) len

/-- The largest image: a slot, or what a host may place in cluster SRAM (R404, R421). -/
def imageMax (img : Nat) : Nat := if img < 2 then 0x10000000 else 0x1000000

/-- Is the slot a candidate (R403)? -/
def isCandidate (s : State) (img : Nat) : Bool :=
  let h := imageBytes s img 0 256
  (img != 1 || s.boot.big) && h.take 4 == [0x53, 0x4E, 0x52, 0x58] && u16At h 4 == 1
    && u32At h 28 == s.fld Reg.gctlId 63 32 && decide (u8At h 32 ≤ 0xB0) && decide (0xB0 ≤ u8At h 33)

/-- One entry of the section table (R405). -/
structure Sect where
  type   : Nat
  opt    : Bool
  off    : Nat
  len    : Nat
  digest : List Byte
  deriving DecidableEq, Repr

/-- Section table entry `i`. -/
def sectOf (s : State) (img i : Nat) : Sect :=
  let e := imageBytes s img (0x100 + 64 * i) 64
  ⟨u16At e 0, u16At e 2 % 2 == 1, u32At e 4, u32At e 8, sliceB e 16 48⟩

/-- The section table. -/
def sectsOf (s : State) (img : Nat) : List Sect :=
  (List.range (min 252 (u16At (imageBytes s img 0 256) 6))).map (sectOf s img)

/-- The contents of a section. -/
def sectBytes (s : State) (img : Nat) (e : Sect) : List Byte := imageBytes s img e.off e.len

/-- The checks of R467 on an image. -/
def imageTrusted (s : State) (img : Nat) : Bool :=
  let h := imageBytes s img 0 256
  let b := imageBytes s img 0x4000 sigLen
  let fwKey := sliceB b 208 96
  sigOk s b (imageBytes s img 0 0x4000)
    && decide (s.fuses.svnImage ≤ u32At h 20)
    && sha384 fwKey == s.fuses.dkeyHash
    && (match (sectsOf s img).find? (·.type == 1) with
        | some e => ecdsaVerify fwKey (sliceB b 304 96) (e.digest ++ sliceB b 200 4)
        | none => false)
    && decide (s.fuses.svnFw ≤ u32At b 200)

/-! ### Phases and failures (R400, R419, R420, R434) -/

/-- PHASE takes a value; entering RUNNING, FAILED or RECOVERY raises source 116. -/
def setPhase (s : State) (p : Nat) : State :=
  let old := bootPhase s
  let s := s.setFld Reg.gctlBoot 3 0 p
  if p ≠ old ∧ 7 ≤ p ∧ p ≤ 9 then raise s 116 else s

/-- Restart from the ROM phase: once firmware runs it first resets every unit outside the always-on domain (R420). -/
def romAgain (s : State) : State :=
  let b := s.reg Reg.gctlBoot
  if bootPhase s < 4 then s else (resetDomain s).setReg Reg.gctlBoot b

/-- An image has failed with an error (R420, R421). A second failure leaves ERROR as the first slot's (DEDUCED, log 71). -/
def bootFail (s : State) (code : Nat) : State :=
  if code = 6 then setPhase (s.setFld Reg.gctlBoot 23 16 6) 8
  else
    let img := s.boot.image.getD 2
    let again := img < 2 ∧ s.boot.failed.isNone ∧ isCandidate s (1 - img)
    let s := romAgain s
    let s := if s.boot.failed.isSome ∧ img < 2 then s else s.setFld Reg.gctlBoot 23 16 code
    if again then
      let s := { s with boot := { s.boot with image := none, failed := some img } }
      (s.setBit Reg.gctlBoot 7 true).setFld Reg.gctlBoot 3 0 2
    else setPhase { s with boot := { s.boot with image := none } } 9

/-- The ROM has accepted an image: what the device shows and reports of it from now on (R404, R481). -/
def acceptImage (s : State) (img : Nat) : State :=
  let h := imageBytes s img 0 256
  let b := imageBytes s img 0x4000 sigLen
  let flags := u32At h 24
  let s := { s with
    boot := { s.boot with image := some img }
    sec := { s.sec with
      imgHash := sha384 (imageBytes s img 0 0x4000), imgSvn := u32At h 20, fwSvn := u32At b 200
      keySlot := u8At b 6, keep := flags % 2 == 1 } }
  let s := (s.setBit Reg.gctlBoot 6 (img == 1)).setBit Reg.gctlBoot 8 (img == 2)
  let s := s.setReg Reg.gctlImage (wordAt h 8)
  let s := s.setFld Reg.secStat 23 16 (u8At b 6)
  (s.setBit Reg.secStat 6 (flags / 2 % 2 == 1)).setFld Reg.gctlBoot 3 0 2

/-- The slots in the order the ROM tries them (R403): the higher SEQ first, slot A when equal. -/
def slotOrder (s : State) : List Nat :=
  let seq := fun (i : Nat) => u64At (imageBytes s i 0 256) 8
  let cs := [0, 1].filter (isCandidate s)
  if cs == [0, 1] ∧ seq 0 < seq 1 then [1, 0] else cs

/-- BOOT_IMAGE_CHECK (R403, R420, R467): the ROM chooses a slot and checks it. -/
def execBootImageCheck (s : State) : Host.Outcome State Fault Refusal :=
  if ¬(bootPhase s = 1 ∨ bootPhase s = 2) ∨ s.boot.image.isSome then .next s
  else
    let s := s.setFld Reg.gctlBoot 3 0 2
    if !s.boot.present then .next (setPhase (s.setFld Reg.gctlBoot 23 16 1) 9)
    else match (slotOrder s).filter (fun i => s.boot.failed != some i) with
      | [] => .next (setPhase (if s.boot.failed.isSome then s else s.setFld Reg.gctlBoot 23 16 2) 9)
      | c :: _ =>
        if imageTrusted s c then .next (acceptImage s c)
        else .next (bootFail { s with boot := { s.boot with image := some c } } 3)

/-- A write of GCTL_RECOVER (R421): in RECOVERY the image in cluster SRAM is checked as a slot is. One that is no
candidate is NO_IMAGE. -/
def recoverGo (s : State) : State :=
  if bootPhase s ≠ 9 then s
  else if !isCandidate s 2 then s.setFld Reg.gctlBoot 23 16 2
  else if imageTrusted s 2 then acceptImage s 2
  else s.setFld Reg.gctlBoot 23 16 3

/-- RECOVER_GO (R421). -/
def execRecoverGo (s : State) : Host.Outcome State Fault Refusal := .next (recoverGo s)

/-! ### Resets and the first phases (R397, R398, R400) -/

/-- POR_N (R397, R398): a cold start, with the straps as the pin edge finds them. -/
def execPorN (straps : BitVec 3) (s : State) : Host.Outcome State Fault Refusal :=
  let s := beginStart (porReset s) 0 0
  .next ((s.setReg Reg.gctlStrap (BitVec.ofNat 64 straps.toNat)).setBit Reg.timStatus 1 (bitOf (BitVec.ofNat 64 straps.toNat) 0))

/-- PLL_LOCK (R319, R400, R512): the time counter starts from 0. `ack` says whether the core regulator acknowledges its
first VOUT_COMMAND. -/
def execPllLock (ack : Bool) (s : State) : Host.Outcome State Fault Refusal :=
  if s.power.off ∨ bootPhase s ≠ 0 ∨ s.tim.running then .next s
  else
    let s := { s with tim := { s.tim with running := true }, power := { s.power with vrAck := ack } }
    let s := s.setFld Reg.gctlBoot 3 0 1
    .next (if ack then s else sticky s Reg.pwrErr 5 (some 7))

/-- WARM_RST_N (R397, R416, R417, R474): a warm start. It needs the always-on domain and its clock; THERMTRIP and P4
end with POR_N only (R533, R477). -/
def execWarmRstN (s : State) : Host.Outcome State Fault Refusal :=
  if s.power.off ∨ s.power.thermtrip ∨ !s.tim.running then .next s
  else .next (beginStart (resetDomain (endSession s)) 1 2)

/-- The journal summary is restored and shown (R452, R453), and a new seed drawn (R436). -/
def keeperStart (s : State) : State :=
  let s := (List.range 164).foldl showUnit s
  let s := showVdd (showUnrated s)
  let s := s.setFld Reg.chkMinutes 31 0 s.integ.minutes
  let s := s.setReg Reg.chkJourHead (BitVec.ofNat 64 s.integ.seq)
  s.bumpFree.setReg Reg.chkSeed (Config.freeWord s.freeCtr)

/-- FIRMWARE_LOADED (R400): the digest of the keeper firmware, and firmware starts on all four keepers. -/
def execFirmwareLoaded (s : State) : Host.Outcome State Fault Refusal :=
  match s.boot.image with
  | none => .next s
  | some img =>
    if bootPhase s ≠ 2 then .next s
    else match (sectsOf s img).find? (·.type == 1) with
      | none => .next (bootFail s 5)
      | some e =>
        if 0x800000 < e.len ∨ imageMax img < e.off + e.len then .next (bootFail s 5)
        else if sha384 (sectBytes s img e) ≠ e.digest then .next (bootFail s 4)
        else .next (keeperStart (s.setFld Reg.gctlBoot 3 0 4))

/-- Does this start keep the memory (R418)? -/
def keepsMemory (s : State) : Bool := bootKind s != 0 && s.sec.keep

/-- DRAM_TRAINED (R400, R408, R418): DRAM is ready, and the image is in the staging area. -/
def execDramTrained (s : State) : Host.Outcome State Fault Refusal :=
  if bootPhase s ≠ 4 then .next s
  else
    let s := if keepsMemory s then keepObjects s else dropMemory s
    let s := s.fillRange 0x010007F0000000 0x10000000 false
    .next (s.setFld Reg.gctlBoot 3 0 5)

/-- DRAM_TRAIN_TIMEOUT (R400, R420): 200 ms without trained DRAM. -/
def execDramTrainTimeout (s : State) : Host.Outcome State Fault Refusal :=
  if bootPhase s ≠ 4 then .next s else .next (bootFail s 6)

end Sys2Proof.Machine
end

