-- ==== Sys2Proof/Machine/Bramble.lean ====
section
/-! DEFINITION. Bramble: indexes, updates, queries, merges, shards and flash channels
(08_bramble_index.md). -/

namespace Sys2Proof.Machine

/-! ### The area and the index headers (R196, R197, R209) -/

/-- Is Bramble enabled? -/
def bramOn (s : State) : Bool := s.bit Reg.brcCtl 0

/-- The area in MiB from the start of DRAM: base and size. -/
def bramSpan (s : State) : Nat × Nat := (s.fld Reg.brcArea 34 20, s.fld Reg.brcArea 14 0)

/-- The local address of an index header (R209). -/
def hdrAddr (s : State) (x : Nat) : Nat := dramBase + (bramSpan s).1 * 0x100000 + x * 0x4000

/-- A write of BRC_CTL (R197). -/
def writeBrcCtl (s : State) (v : Word) : State :=
  if bramOn s || !bitOf v 0 then s.setBit Reg.brcCtl 0 (bitOf v 0)
  else
    let p := bramSpan s
    let ok := decide (p.1 + p.2 ≤ s.fld Reg.tirT2Base 14 0)
      && (List.range 8).all (fun c => !spansMeet p (poolSpan s c))
      && !spansMeet p (s.fld Reg.slvArea 34 20, s.fld Reg.slvArea 14 0)
    if ok then s.setBit Reg.brcCtl 0 true else s.setBit Reg.brcErr 0 true

/-- A write of BRC_AREA (R231). -/
def writeBrcArea (s : State) (v : Word) : State :=
  if bramOn s then s else s.setReg Reg.brcArea (v &&& 0x00000007FFF07FFF)

/-- BRAMBLE_ENABLE (R197). -/
def execBrambleEnable (s : State) : Host.Outcome State Fault Refusal :=
  .next (writeBrcCtl s (putBits (s.reg Reg.brcCtl) 0 0 1))

/-- The STATE of an index: 0 ABSENT, 1 OPEN, 2 CLOSED, 3 BUSY. -/
def idxState (s : State) (x : Nat) : Nat := s.fld Reg.brcIdxStat (2 * x + 1) (2 * x)

/-- Set the STATE of an index. -/
def setIdxState (s : State) (x v : Nat) : State := s.setFld Reg.brcIdxStat (2 * x + 1) (2 * x) v

/-- An index. -/
def idxOf (s : State) (x : Nat) : Option Index := (s.bram.indexes.find? (fun e => e.1 == x)).map (·.2)

/-- Change an index. -/
def State.modIdx (s : State) (x : Nat) (f : Index → Index) : State :=
  { s with bram := { s.bram with indexes := s.bram.indexes.map (fun e => if e.1 == x then (e.1, f e.2) else e) } }

/-- Bytes of an index header. -/
def hdrBytes (s : State) (x off n : Nat) : List Byte := s.load (hdrAddr s x + off) n

/-- CTRL of an index header. -/
def hdrCtrl (s : State) (x : Nat) : Word := wordAt (hdrBytes s x 0 8) 0

/-- B (R207). -/
def idxB (s : State) (x : Nat) : Nat := bitsOf (hdrCtrl s x) 4 0

/-- The side-list capacity (R209). -/
def sideCap (s : State) (x : Nat) : Nat := 2 ^ bitsOf (hdrCtrl s x) 20 16

/-- URING (R212). -/
def uringOf (s : State) (x : Nat) : Word := wordAt (hdrBytes s x 24 8) 0

/-- SHARD (R227). -/
def shardOf (s : State) (x : Nat) : Word := wordAt (hdrBytes s x 8 8) 0

/-- DIGEST over the header (R209). -/
def hdrDigest (s : State) (x : Nat) : Nat :=
  (crc32 (hdrBytes s x 0 16 ++ hdrBytes s x 24 40 ++ hdrBytes s x 8192 8192)).toNat

/-- Bramble writes bytes of its area (R196), and the waits that this satisfies complete (R36). -/
def areaWrite (s : State) (la : Nat) (bs : List Byte) : State := settle (writeBytes s la bs)

/-- Write the device's fields of a header (R209, R214): OLDEST is the lowest MERGE_POS of the current generation and of
those a query holds; bytes 88 to 127 are 0. -/
def syncHdr (s : State) (x : Nat) : State :=
  match idxOf s x with
  | none => s
  | some i =>
    let old := (i.gens.map (·.mpos)).foldl min ((i.gens.head?.map (·.mpos)).getD 0)
    let s := s.modIdx x (fun i => { i with oldest := old, side := i.side.filter (fun e => decide (old ≤ e.pos)) })
    areaWrite s (hdrAddr s x + 64)
      (wordBytes (s.global ((i.gens.head?.map (·.addr)).getD 0)) ++ leBytes 8 i.head ++ leBytes 8 old ++ zeroBytes 40)

/-- The outcome of a command (R210). -/
def idxResult (s : State) (x res : Nat) : State :=
  let s := (s.setFld Reg.brcIdxStat 39 32 res).setFld Reg.brcIdxStat 43 40 x
  if res = 0 then s else s.setBit Reg.brcErr 2 true

/-! ### Sketches and bucket keys (R205 to R208) -/

/-- The sketch of a descriptor (R206). -/
def sketchOf (s : State) (x : Nat) (desc : List Byte) : List Byte :=
  let m := hdrBytes s x 8192 8192
  (List.range 16).map (fun j => BitVec.ofNat 8 (((List.range 8).map (fun i =>
    (popBytes (List.zipWith (· &&& ·) desc (sliceB m (64 * (8 * j + i)) 64)) % 2) * 2 ^ i)).foldl (· + ·) 0))

/-- The bucket key of a sketch or of an item key (R207). -/
def bucketKey (s : State) (x : Nat) (sketch : List Byte) (key : Nat) : Nat :=
  let c := hdrCtrl s x
  let b := bitsOf c 4 0
  if bitOf c 5 then (key >>> bitsOf c 11 6) % 2 ^ b
  else
    let sel := hdrBytes s x 32 30
    let v := leNat sketch
    ((List.range b).map (fun j => (v >>> u8At sel j) % 2 * 2 ^ j)).foldl (· + ·) 0

/-- Strictly rising lists of `k` numbers from `lo` below `n`, in lexicographic order. -/
def chooseFrom : Nat → Nat → Nat → List (List Nat)
  | _, _, 0 => [[]]
  | 0, _, _ + 1 => []
  | f + 1, lo, k + 1 =>
    -- those that begin with `lo`, then those that begin later; `f` counts the numbers left
    ((chooseFrom f (lo + 1) k).map (lo :: ·)) ++ chooseFrom f (lo + 1) (k + 1)

/-- The first `p` probes from `k0` (R208): distance 0, 1, 2 and 3, which make 299 keys where B is 12 and more above it. -/
def probesOf (b k0 p : Nat) : List Nat :=
  let ds := (List.range (b + 1)).flatMap (fun d => if 3 < d then [] else chooseFrom b 0 d)
  (ds.take p).map (fun bits => bits.foldl (fun k i => k ^^^ 2 ^ i) k0)

/-! ### Entries (R200, R201, R203) -/

/-- The key of an entry. -/
def entKey (e : List Byte) : Nat := u64At e 80

/-- FE of an entry. -/
def entFe (e : List Byte) : Nat := u32At e 88

/-- Is it a tombstone? -/
def entTomb (e : List Byte) : Bool := entFe e / 2 ^ 24 % 2 == 1

/-- EPOCH of an entry. -/
def entEpoch (e : List Byte) : Nat := entFe e % 2 ^ 24

/-- The entry with an EPOCH, VALID clear. -/
def entWith (e : List Byte) (epoch : Nat) : List Byte :=
  overlay e 88 (leBytes 4 (epoch % 2 ^ 24 + (if entTomb e then 2 ^ 24 else 0)))

/-- The order of R203: KEY, DESC, PAYLOAD. -/
def entBefore (a b : List Byte) : Bool :=
  decide ([entKey a, leNat (sliceB a 16 64), leNat (sliceB a 92 36)] < [entKey b, leNat (sliceB b 16 64), leNat (sliceB b 92 36)])

/-- The bucket key of an entry that is no tombstone. -/
def entBucket (s : State) (x : Nat) (e : List Byte) : Nat := bucketKey s x (sliceB e 0 16) (entKey e)

/-- The node that owns a bucket key (R227): the own node for an index that is not sharded, none for an invalid entry. -/
def ownerOf (s : State) (x key : Nat) : Option Nat :=
  if shardOf s x = 0 then some s.node
  else
    let r := unitRead s (shardOf s x + BitVec.ofNat 64 (2 * (key >>> (idxB s x - 12)))) 2 3 none
    let v := leNat r.2.2
    if r.2.1 = stOK ∧ 2 ^ 15 ≤ v then some (v % 1024) else none

/-! ### Opening, closing, destroying (R210) -/

/-- Does the update ring lie where R209 allows? -/
def uringOk (s : State) (a : Word) : Bool :=
  let la := localOf a
  let n := 0x90040
  nodeOf a == s.node && a.toNat % 0x100000 == 0 &&
    (match regionOf la with
     | 0 => tierOn s && objCovers s (s.tier.objs.length + 1) la (la + n) && objWritable s la n
     | 1 => decide (la + n ≤ managedT2 s) && !meetsMib la n (bramSpan s).1 (bramSpan s).2
     | _ => false)

/-- Is the shard table valid (R227)? -/
def shardOk (s : State) (a : Word) : Bool :=
  a = 0 || (a.toNat % 8192 == 0 && nodeOf a == s.node &&
    (let r := unitRead s a 8192 3 none
     r.2.1 == stOK && (List.range 4096).all (fun i =>
       let v := u16At r.2.2 (2 * i)
       decide (2 ^ 15 ≤ v) && v / 1024 % 32 == 0)))

/-- The header checks of OPEN (R209, R210). -/
def hdrOk (s : State) (x : Nat) : Bool :=
  let c := hdrCtrl s x
  let b := bitsOf c 4 0
  let sel := hdrBytes s x 32 30
  decide (12 ≤ b) && decide (b ≤ 30) && bitsOf c 15 12 == 0 && bitsOf c 63 21 == 0 && decide (16 ≤ bitsOf c 20 16)
    && decide (bitsOf c 20 16 ≤ 24) && allZero (hdrBytes s x 20 4) && allZero (hdrBytes s x 62 2)
    && allZero (hdrBytes s x 88 8104)
    && (List.range 30).all (fun j => if j < b then decide (u8At sel j < 128) else u8At sel j == 0)
    && uringOk s (uringOf s x) && shardOk s (shardOf s x)

/-! ### Places in the area and on flash (R196, R203, R204, R223) -/

/-- The gaps that used ranges (address and length, by rising address) leave between two addresses. -/
def gapsOf (hi : Nat) : Nat → List (Nat × Nat) → List (Nat × Nat)
  | lo, [] => if lo < hi then [(lo, hi)] else []
  | lo, (a, n) :: us => (if lo < min a hi then [(lo, min a hi)] else []) ++ gapsOf hi (max lo (a + n)) us

/-- The aligned places of `n` units in a gap: the first, and how many. -/
def fitsOf (n align : Nat) (g : Nat × Nat) : Nat × Nat :=
  let first := ceilDiv g.1 align * align
  (first, if first + n ≤ g.2 then (g.2 - first - n) / align + 1 else 0)

/-- The place with a number among those of the gaps. -/
def nthFit (align : Nat) : List (Nat × Nat) → Nat → Nat
  | [], _ => 0
  | (first, n) :: fs, k => if k < n then first + k * align else nthFit align fs (k - n)

/-- Some place for `n` units in the gaps, none when they have none: which one is free (DESIGN CHOICE, log 30). -/
def placeIn (ctr n align : Nat) (gaps : List (Nat × Nat)) : Option Nat :=
  let fs := gaps.map (fitsOf n align)
  let total := (fs.map (·.2)).foldl (· + ·) 0
  if total = 0 then none else some (nthFit align fs (Config.freeBelow ctr total))

/-- What the structures of a generation take of the area. -/
def genSpans (g : Gen) : List (Nat × Nat) :=
  (g.addr, 64) :: (g.root, 8 * g.tiles.length) :: (g.ctlAt, 16 * g.ctl.length) :: g.tiles.map (fun a => (a, 4096))

/-- Bytes that an index takes in the area (R210). -/
def idxSpace (s : State) (x : Nat) : Nat := sideCap s x * 128 + 2 * 2 ^ idxB s x * 8 + sideCap s x * 16

/-- Bytes of the area that headers and the indexes that stand leave (R210). -/
def areaLeft (s : State) : Nat :=
  (bramSpan s).2 * 0x100000 - 0x40000 - (s.bram.indexes.map (fun e => e.2.space)).foldl (· + ·) 0

/-- Everything that stands in the area but the headers: side lists, and the structures of generations (R196). -/
def areaSpans (s : State) : List (Nat × Nat) :=
  s.bram.indexes.flatMap (fun e => (e.2.sideAt, sideCap s e.1 * 128) :: e.2.gens.flatMap genSpans)

/-- Places for structures of these sizes in the area, none of them over another (DESIGN CHOICE, log 30). -/
def placeAll : List Nat → State → List (Nat × Nat) → List Nat → State × Option (List Nat)
  | [], s, _, out => (s, some out)
  | n :: ns, s, used, out =>
    let lo := dramBase + (bramSpan s).1 * 0x100000
    let gaps := gapsOf (lo + (bramSpan s).2 * 0x100000) (lo + 0x40000) (sortBy (fun a b => decide (a.1 < b.1)) used)
    match placeIn s.freeCtr n 64 gaps with
    | none => (s.bumpFree, none)
    | some a => placeAll ns s.bumpFree ((a, n) :: used) (out ++ [a])

/-- The bytes of a directory tile (R204). -/
def dirTileBytes (g : Gen) (t : Nat) : List Byte :=
  (g.buckets.filter (fun b => b.key / 512 == t)).foldl (fun bs b =>
    overlay bs (b.key % 512 * 8)
      (leBytes 8 (b.page % 2 ^ 29 + ceilDiv b.entries 127 * 2 ^ 32 + b.entries * 2 ^ 40))) (zeroBytes 4096)

/-- Write a generation's new directory tiles, its root, its tombstone list and its record into the area (R204, R223, R225
step 6). -/
def writeGen (s : State) (g : Gen) (tiles : List Nat) : State :=
  let pages := (g.buckets.map (fun b => ceilDiv b.entries 127)).foldl (· + ·) 0
  let ents := (g.buckets.map (fun b => b.entries)).foldl (· + ·) 0
  let s := tiles.foldl (fun s t => areaWrite s (g.tiles.getD t 0) (dirTileBytes g t)) s
  let s := areaWrite s g.root (g.tiles.flatMap (fun a => wordBytes (s.global a)))
  let s := areaWrite s g.ctlAt (g.ctl.flatMap (fun e => leBytes 8 e.1 ++ leBytes 4 e.2 ++ zeroBytes 4))
  areaWrite s g.addr (leBytes 8 g.num ++ leBytes 8 g.mpos ++ wordBytes (s.global g.root) ++ wordBytes (s.global g.ctlAt)
    ++ leBytes 4 g.ctl.length ++ leBytes 4 pages ++ leBytes 8 ents ++ leBytes 8 g.sweep ++ leBytes 8 s.now)

/-- The directory tiles of an index: 512 buckets each (R204). -/
def tileCount (s : State) (x : Nat) : Nat := 2 ^ (idxB s x - 9)

/-- An index is opened for the first time: generation 0, which has no entries (R210; the first sequence number DESIGN CHOICE,
log 163). SPACE also when what the rule counts fits and no place is left (DESIGN CHOICE, log 30). -/
def createIndex (s : State) (x : Nat) : State :=
  let n := tileCount s x
  let p := placeAll ([sideCap s x * 128, 64, 8 * n, 0] ++ List.replicate n 4096) s (areaSpans s) []
  match p.2 with
  | none => idxResult p.1 x 3
  | some as =>
    let s := p.1
    let g : Gen := { num := 0, mpos := 0, addr := as.getD 1 0, root := as.getD 2 0, ctlAt := as.getD 3 0,
                     tiles := as.drop 4, buckets := [], ctl := [], sweep := 0, holds := 0 }
    let ring := uringOf s x
    let i : Index :=
      { head := 0, oldest := 0, side := [], sideAt := as.getD 0 0, space := idxSpace s x, gens := [g],
        next := (s.word (localOf ring + 0x80000)).toNat, taken := (countsOf s (ring + 0x80018)).1, merge := none,
        blocks := [] }
    let s := { s with bram := { s.bram with indexes := s.bram.indexes ++ [(x, i)] } }
    let s := writeGen s g (List.range n)
    let s := areaWrite s (hdrAddr s x + 16) (leBytes 4 (hdrDigest s x))
    idxResult (setIdxState (syncHdr s x) x 1) x 0

/-- OPEN (R210). -/
def openCmd (s : State) (x : Nat) : State :=
  if !bramOn s then idxResult s x 1
  else if idxState s x = 0 then
    if !hdrOk s x then idxResult s x 2
    else if areaLeft s < idxSpace s x then idxResult s x 3
    else createIndex s x
  else if idxState s x = 2 then
    if hdrDigest s x = u32At (hdrBytes s x 16 4) 0 then idxResult (setIdxState s x 1) x 0 else idxResult s x 2
  else idxResult s x 1

/-- A closing index is CLOSED once its queries and its merge have finished (R210). -/
def closeCheck (s : State) (x : Nat) : State :=
  match idxOf s x with
  | none => s
  | some i =>
    if idxState s x = 3 ∧ i.merge.isNone ∧ i.gens.all (fun g => g.holds == 0) then idxResult (setIdxState s x 2) x 0 else s

/-- CLOSE (R210). -/
def closeCmd (s : State) (x : Nat) : State :=
  if bramOn s ∧ idxState s x = 1 then closeCheck (setIdxState s x 3) x else idxResult s x 1

/-- DESTROY (R210). -/
def destroyCmd (s : State) (x : Nat) : State :=
  if bramOn s ∧ idxState s x = 2 then
    let s := { s with bram := { s.bram with indexes := s.bram.indexes.filter (fun e => e.1 != x) } }
    idxResult (setIdxState s x 0) x 0
  else idxResult s x 1

/-- A write of BRC_IDX_CMD (R210). -/
def writeIdxCmd (s : State) (v : Word) : State :=
  let x := bitsOf v 3 0
  match bitsOf v 7 4 with
  | 0 => s
  | 1 => openCmd s x
  | 2 => closeCmd s x
  | 3 => destroyCmd s x
  | _ => s.setBit Reg.brcErr 1 true

/-- OPEN (R210). -/
def execOpenIndex (index : Fin 16) (s : State) : Host.Outcome State Fault Refusal := .next (openCmd s index.val)

/-- CLOSE (R210). -/
def execCloseIndex (index : Fin 16) (s : State) : Host.Outcome State Fault Refusal := .next (closeCmd s index.val)

/-- DESTROY (R210). -/
def execDestroyIndex (index : Fin 16) (s : State) : Host.Outcome State Fault Refusal := .next (destroyCmd s index.val)

/-! ### Updates (R211 to R214) -/

/-- The update statuses that apply to an entry (R213). -/
def updateFaults (s : State) (x : Nat) (i : Index) (e : List Byte) : List Nat :=
  let open_ := idxState s x = 1
  let wrong := !entTomb e && ownerOf s x (bucketKey s x (sketchOf s x (sliceB e 16 64)) (entKey e)) != some s.node
  (if entKey e = 2 ^ 64 - 1 ∨ 2 ^ 26 ≤ entFe e then [1] else [])
    ++ (if i.head - i.oldest = sideCap s x then [2] else []) ++ (if wrong then [3] else []) ++ (if open_ then [] else [4])

/-- UPDATE_TAKE (R213): the next slot of an index's update ring, when it is ready. Of several causes for a refusal the
reported one is free (DESIGN CHOICE, log 32). -/
def execUpdateTake (index : Fin 16) (s : State) : Host.Outcome State Fault Refusal :=
  let x := index.val
  match idxOf s x with
  | none => .next s
  | some i =>
    let ring := uringOf s x
    let slot := ring + BitVec.ofNat 64 (128 * (i.next % 4096))
    let r := unitRead s slot 128 3 none
    let e := r.2.2
    if !bramOn s || r.2.1 ≠ stOK || entFe e / 2 ^ 25 % 2 ≠ 1 || entEpoch e ≠ i.next % 2 ^ 24 then .next s
    else
      let fs := updateFaults s x i e
      let p := pickCode r.1 fs
      let st := p.2
      let s := p.1
      let body := if entTomb e then zeroBytes 80 ++ e.drop 80 else sketchOf s x (sliceB e 16 64) ++ e.drop 16
      let s := if fs.isEmpty then
          let s := areaWrite s (i.sideAt + i.head % sideCap s x * 128) (entWith body i.head)
          let k : SideKey := ⟨i.head, entKey e, if entTomb e then 0 else entBucket s x body, entTomb e⟩
          count (syncHdr (s.modIdx x (fun i => { i with head := i.head + 1, side := i.side ++ [k] })) x) Reg.brcAppends 1
        else s
      let s := s.modIdx x (fun j => { j with next := j.next + 1 })
      let s := unitPut s (ring + BitVec.ofNat 64 (0x81000 + 8 * (i.next % 4096)))
        (leBytes 8 ((if fs.isEmpty then i.head % 2 ^ 48 else 0) + st * 2 ^ 56))
      let s := unitPut s (slot + 88) (leBytes 4 (entFe e - 2 ^ 25))
      .next (bumpTo s (ring + 0x80010) (st == 0) 3)

/-! ### What a query sees (R217, R218, R221, R222) -/

/-- The index has a generation with this number. -/
def genAt (i : Index) (n : Nat) : Option Gen := i.gens.find? (·.num == n)

/-- The side list of a snapshot: positions MERGE_POS to W − 1 (R221). -/
def sideOf (i : Index) (mpos w : Nat) : List SideKey :=
  i.side.filter (fun e => decide (mpos ≤ e.pos) && decide (e.pos < w))

/-- Read the side-list slot of a position (R211, R229): none when it cannot be read. -/
def readSide (s : State) (x cls : Nat) (i : Index) (pos : Nat) : State × Option (List Byte) :=
  let r := unitRead s (s.global (i.sideAt + pos % sideCap s x * 128)) 128 cls none
  (r.1, if r.2.1 = stOK then some r.2.2 else none)

/-- Is a page entry hidden (R222, rules 1 and 2)? -/
def pageHidden (ctl : List (Nat × Nat)) (tombs : List SideKey) (e : List Byte) : Bool :=
  ctl.any (fun t => t.1 == entKey e &&
      (let d := (t.2 % 2 ^ 24 + 2 ^ 24 - entEpoch e) % 2 ^ 24
       decide (1 ≤ d) && decide (d ≤ 2 ^ 23 - 1)))
    || tombs.any (fun t => t.key == entKey e)

/-- Is a side-list entry hidden (R222, rule 3)? -/
def sideHidden (tombs : List SideKey) (e : SideKey) : Bool := tombs.any (fun t => decide (e.pos < t.pos) && t.key == e.key)

/-- Read the directory entry of a bucket by way of the root (R204, R229): page, pages and entries, none when it cannot be
read. -/
def readDirEntry (s : State) (cls : Nat) (g : Gen) (key : Nat) : State × Option (Nat × Nat × Nat) :=
  let r := unitRead s (s.global (g.root + key / 512 * 8)) 8 cls none
  if r.2.1 ≠ stOK then (r.1, none)
  else
    let t := unitRead r.1 (wordAt r.2.2 0 + BitVec.ofNat 64 (key % 512 * 8)) 8 cls none
    let w := wordAt t.2.2 0
    (t.1, if t.2.1 = stOK then some (bitsOf w 28 0, bitsOf w 39 32, bitsOf w 54 40) else none)

/-- Is a page the one that the reader expects (R204)? -/
def pageOk (x key pidx : Nat) (b : List Byte) : Bool :=
  u64At b 0 == key && u8At b 20 == x && u8At b 18 == pidx && u32At b 24 == (crc32 (b.drop 128)).toNat

/-- The entries of a page (R202). -/
def pageEntries (b : List Byte) : List (List Byte) :=
  (List.range (min (u16At b 16) 127)).map (fun e => sliceB b (128 + 128 * e) 128)

/-- Read page `p` of a bucket: what the pages before it have given, and what it gives. -/
def readPage (x cls key first : Nat) (r : State × List (List Byte) × Nat × List Nat) (p : Nat) :
    State × List (List Byte) × Nat × List Nat :=
  let page := (first + p) % 2 ^ 29
  let ch := page / 2 ^ 25
  let d := readFlash r.1 (flashBase + page * 16384) 16384 cls
  let b := d.2.filterMap id
  let ok := b.length == 16384 && pageOk x key p b
  (d.1, if ok then r.2.1 ++ pageEntries b else r.2.1, if channelFailed r.1 ch then r.2.2.1 else r.2.2.1 + 1,
    if ok then r.2.2.2 else r.2.2.2 ++ [ch])

/-- Read the pages of a bucket (R204, R229, R545): entries of the pages that could be read, pages read, and the channels
that failed. A page of a channel that is declared failed is not read. -/
def readBucket (s : State) (x cls key first n : Nat) : State × List (List Byte) × Nat × List Nat :=
  (List.range n).foldl (readPage x cls key first) (s, [], 0, [])

/-- What the local part of a query gives: `chans` are the channels that failed, `failed` the probes, and `sideBad` says that
a side-list slot could not be read (R229). -/
structure Search where
  cands  : List Cand
  pages  : Nat
  passed : Nat
  found  : Nat
  chans  : List Nat
  failed : List Nat
  sideBad : Bool
  deriving DecidableEq, Repr

/-- A query's filters and distances (R215). -/
structure Filter where
  fetch   : Bool
  sketch  : List Byte
  desc    : List Byte
  thresh  : Nat
  maxdist : Nat
  kmask   : Word
  kmatch  : Word
  deriving DecidableEq, Repr

/-- The key filter (R215): KMASK 0 passes every key. -/
def keyPasses (f : Filter) (key : Nat) : Bool := f.kmask = 0 || (BitVec.ofNat 64 key &&& f.kmask) == f.kmatch

/-- The result order (R217 step 7); a FETCH has every distance 0 (R218). -/
def candBefore (a b : Cand) : Bool :=
  decide (a.dist < b.dist) || (a.dist == b.dist && entBefore a.entry b.entry)

/-- One probe: the pages of its bucket are read (R217 step 2). -/
def probeBucket (x cls : Nat) (g : Gen) (tombs : List SideKey) (r : State × Search) (p : Nat × Nat) : State × Search :=
  let d := readDirEntry r.1 cls g p.2
  match d.2 with
  | none => (d.1, { r.2 with failed := r.2.failed ++ [p.1] })
  | some (first, n, _) =>
    let t := readBucket d.1 x cls p.2 first n
    let es := (t.2.1.filter (fun e => !entTomb e && !pageHidden g.ctl tombs e)).map
      (fun e => (⟨0, 0, false, d.1.node, e⟩ : Cand))
    (t.1, { r.2 with
      cands := r.2.cands ++ es, pages := r.2.pages + t.2.2.1, chans := r.2.chans ++ t.2.2.2,
      failed := if t.2.2.2.isEmpty then r.2.failed else r.2.failed ++ [p.1] })

/-- One entry of the side list is read (R217 step 3). -/
def takeSide (x cls : Nat) (i : Index) (r : State × Search) (e : SideKey) : State × Search :=
  let d := readSide r.1 x cls i e.pos
  match d.2 with
  | none => (d.1, { r.2 with sideBad := true })
  | some b => (d.1, { r.2 with cands := r.2.cands ++ [⟨0, 0, true, d.1.node, b⟩] })

/-- Steps 2 to 6 of R217 on one node, over its probes numbered as the query numbers them. -/
def searchLocal (s : State) (x cls : Nat) (g : Gen) (w : Nat) (f : Filter) (probes : List (Nat × Nat)) : State × Search :=
  match idxOf s x with
  | none => (s, ⟨[], 0, 0, 0, [], [], false⟩)
  | some i =>
    let side := sideOf i g.mpos w
    let tombs := side.filter (·.tomb)
    let pg := probes.foldl (probeBucket x cls g tombs) (s, ⟨[], 0, 0, 0, [], [], false⟩)
    let pg := (side.filter (fun e => !e.tomb && !sideHidden tombs e && probes.any (fun p => p.2 == e.bucket)
      && keyPasses f e.key)).foldl (takeSide x cls i) pg
    let cs := pg.2.cands.filter (fun c => keyPasses f (entKey c.entry))
    if f.fetch then (pg.1, { pg.2 with cands := sortBy candBefore cs, found := cs.length })
    else
      let p1 := (cs.map (fun c => { c with sdist := hamming f.sketch (sliceB c.entry 0 16) })).filter
        (fun c => decide (c.sdist ≤ f.thresh))
      let p2 := (p1.map (fun c => { c with dist := hamming f.desc (sliceB c.entry 16 64) })).filter
        (fun c => decide (c.dist ≤ f.maxdist))
      (pg.1, { pg.2 with cands := sortBy candBefore p2, passed := p1.length, found := p2.length })

/-! ### Batches and admission (R215, R216, R220) -/

/-- The batch with a number. -/
def qbatchOf (s : State) (n : Nat) : Option QBatch := s.bram.batches.find? (·.number == n)

/-- Replace a batch. -/
def State.setQBatch (s : State) (b : QBatch) : State :=
  { s with bram := { s.bram with batches := s.bram.batches.map (fun c => if c.number == b.number then b else c) } }

/-- Replace a query of a batch. -/
def State.setQuery (s : State) (b : QBatch) (j : Nat) (q : Query) : State :=
  s.setQBatch { b with queries := b.queries.set j q }

/-- A query's OUT. -/
def Query.out (q : Query) : Word := wordAt q.raw 16
/-- A query's P. -/
def Query.probes (q : Query) : Nat := bitsOf (wordAt q.raw 0) 15 8 + 1
/-- Is it a FETCH? -/
def Query.fetch (q : Query) : Bool := bitOf (wordAt q.raw 0) 4
/-- Items of a SEARCH. -/
def Query.items (q : Query) : Nat := bitsOf (wordAt q.raw 0) 23 16 + 1
/-- MAXOUT of a FETCH. -/
def Query.maxout (q : Query) : Nat := u32At q.raw 48

/-- Why a query is refused: the codes of REASON that apply (R219; MAXDIST and BKEY DEDUCED, log 162). `desc` is the status
of the read of a QDESC on the own node. -/
def queryCauses (s : State) (raw : List Byte) (desc : Nat) : List Nat :=
  let c := wordAt raw 0
  let x := bitsOf c 3 0
  let fetch := bitOf c 4
  let bkey := u64At raw 24
  let keymode := bitOf (hdrCtrl s x) 5
  let qdesc := wordAt raw 8
  let out := wordAt raw 16
  causes [(!bramOn s || idxState s x != 1, 1),
    (decide (bitsOf c 7 6 ≠ 0 ∨ bitsOf c 63 42 ≠ 0 ∨ !allZero (sliceB raw 52 12) ∨ 128 < bitsOf c 31 24
      ∨ 512 < bitsOf c 41 32 ∨ 2 ^ idxB s x ≤ bkey
      ∨ (fetch ∧ (bitsOf c 23 16 ≠ 0 ∨ u32At raw 48 = 0 ∨ 65536 < u32At raw 48))
      ∨ (!fetch ∧ (u32At raw 48 ≠ 0 ∨ (!keymode ∧ bkey ≠ 0)))), 2),
    (decide (out.toNat % 64 ≠ 0 ∨ nodeOf out ≠ s.node ∨ qdesc.toNat % 64 ≠ 0
      ∨ (!fetch ∧ nodeOf qdesc = s.node ∧ desc ≠ stOK)), 3)]

/-- The result header (R219). -/
def queryHeader (s : State) (q : Query) : List Byte :=
  let nodes := sortBy (fun a b => decide (a < b)) q.nodeFail.eraseDups
  let low := (nodes ++ List.replicate 4 0xFFFF).take 4
  leBytes 1 q.status ++ leBytes 1 q.reason ++ leBytes 2 q.chanFail ++ leBytes 4 q.found ++ leBytes 8 q.gen
    ++ leBytes 8 q.wmark ++ leBytes 8 q.mpos ++ leBytes 4 q.pages ++ leBytes 4 q.passed ++ leBytes 2 nodes.length
    ++ low.flatMap (leBytes 2) ++ leBytes 2 q.probes
    ++ leBytes 1 ((if q.fetch && decide (q.maxout < q.found) then 1 else 0) + (if q.sideFail then 2 else 0))
    ++ zeroBytes 11 ++ leBytes 32 ((q.probeFail.eraseDups.map (fun p => 2 ^ p)).foldl (· + ·) 0)
    ++ leBytes 8 q.start ++ leBytes 8 s.now ++ zeroBytes 16

/-- The items of a result (R219). -/
def queryItems (q : Query) : List Byte :=
  if q.fetch then (q.cands.take q.maxout).flatMap (·.entry)
  else
    let it := (q.cands.take q.items).map (fun c =>
      leBytes 8 (entKey c.entry) ++ leBytes 2 c.dist ++ leBytes 1 c.sdist ++ leBytes 1 (if c.side then 1 else 0)
        ++ leBytes 2 c.node ++ zeroBytes 2 ++ sliceB c.entry 88 40 ++ zeroBytes 8)
    (it ++ List.replicate (q.items - it.length)
      (List.replicate 8 0xFF ++ [0xFF, 0xFF] ++ zeroBytes 54)).flatMap id

/-- Generations that are neither current nor held are freed, with the pages that no other has (R225). -/
def freeGens (s : State) (x : Nat) : State :=
  let s' := s.modIdx x (fun i =>
    liveBlocks s.freeCtr { i with gens := i.gens.take 1 ++ (i.gens.drop 1).filter (fun g => g.holds != 0) })
  syncHdr { s' with freeCtr := s.freeCtr + 64 } x

/-- A query lets go of its generation (R216, R225). -/
def unholdGen (s : State) (q : Query) : State :=
  if !q.held then s
  else
    let s := s.modIdx q.index (fun i => { i with gens := i.gens.map (fun g =>
      if g.num == q.gen then { g with holds := g.holds - 1 } else g) })
    closeCheck (freeGens s q.index) q.index

/-- The batch report (R220). -/
def qReport (s : State) (b : QBatch) (status reason : Nat) : List Byte :=
  leBytes 1 status ++ leBytes 1 reason ++ zeroBytes 2 ++ leBytes 4 b.ok ++ leBytes 4 b.incomplete ++ leBytes 4 b.refused
    ++ leBytes 4 b.unwritten ++ leBytes 4 b.aborted ++ zeroBytes 8 ++ leBytes 8 b.start ++ leBytes 8 s.now ++ zeroBytes 16

/-- A batch ends: report, then DONE (R220). -/
def endQBatch (s : State) (b : QBatch) (status reason : Nat) : State :=
  let s := { s with bram := { s.bram with batches := s.bram.batches.filter (·.number != b.number) } }
  let s := if b.report = 0 ∨ b.report.toNat % 64 ≠ 0 then s else unitPut s b.report (qReport s b status reason)
  let s := obsEnd s 188 b.run status b.start
  bumpTo s b.run.done (status == 1) b.run.cls

/-- End a batch all of whose queries have written their headers (R220). -/
def checkQBatch (s : State) (n : Nat) : State :=
  match qbatchOf s n with
  | none => s
  | some b =>
    if b.queries.all (fun q => q.status != 0) then
      endQBatch s b (if b.aborted ≠ 0 ∨ runAborted s b.run then 3 else if b.refused ≠ 0 ∨ b.unwritten ≠ 0 then 4 else 1) 0
    else s

/-- A query writes its items, then its header, and counts (R219, R220). -/
def finishQuery (s : State) (n j : Nat) (q : Query) : State :=
  let a := if q.status = 1 ∨ q.status = 2 then unitWrite s (q.out + 128) (queryItems q) else (s, stOK)
  let h := unitWrite a.1 q.out (queryHeader a.1 q)
  let written := a.2 = stOK ∧ h.2 = stOK
  let s := h.1.wrapFld Reg.brcCount 31 0 1
  let s := if q.status = 2 then s.satFld Reg.brcCount 47 32 1 else if q.status = 3 then s.satFld Reg.brcCount 63 48 1 else s
  let s := match qbatchOf s n with
    | none => s
    | some b =>
      let b := { b with queries := b.queries.set j q }
      s.setQBatch (if ¬written then { b with unwritten := b.unwritten + 1 }
        else match q.status with
          | 1 => { b with ok := b.ok + 1 }
          | 2 => { b with incomplete := b.incomplete + 1 }
          | 3 => { b with refused := b.refused + 1 }
          | _ => { b with aborted := b.aborted + 1 })
  checkQBatch (unholdGen s q) n

/-- The value that a SEARCH looks for (R215): read when the query is admitted, on another node by a GET whose answer comes
later (DESIGN CHOICE, log 34); a FETCH reads none. -/
def readQdesc (s : State) (cls : Nat) (raw : List Byte) : State × Option (Nat × List Byte) :=
  let a := wordAt raw 8
  if bitOf (wordAt raw 0) 4 then (s, some (stOK, zeroBytes 64))
  else if nodeOf a = s.node then
    let r := unitRead s a 64 cls none
    (r.1, some r.2)
  else (s, none)

/-- Ask another node for the QDESC of a query. -/
def askQdesc (s : State) (cls batch j : Nat) (q : Query) : State :=
  if q.status ≠ 0 ∨ q.desc.isSome then s
  else
    let op : Op := ⟨.engine 188, cls, 1, 0, wordAt q.raw 8, 0, 64, 0, 0, 0, 0⟩
    let tag := s.nextTag
    sendOp { s with nextTag := tag + 1 } ⟨tag, op, .qdesc batch j, .queued, []⟩ []

/-- Admit one query of a batch (R216): its snapshot, or its refusal. A query whose descriptor cannot be read names no
result address and is refused without one (DEDUCED, log 33). -/
def admitQuery (s : State) (cls : Nat) (a : Word) : State × Query :=
  let r := unitRead s a 64 cls none
  let raw := r.2.2
  let d := if r.2.1 = stOK then readQdesc r.1 cls raw else (r.1, none)
  let s := d.1
  let x := bitsOf (wordAt raw 0) 3 0
  let base : Query :=
    { raw := raw, desc := d.2, index := x, gen := 0, wmark := 0, mpos := 0, start := s.now, held := false, searched := false,
      status := 0, reason := 0, cands := [], parts := [], found := 0, passed := 0, pages := 0, chanFail := 0,
      nodeFail := [], probeFail := [], sideFail := false }
  if r.2.1 ≠ stOK then (s, { base with status := 3, reason := 3, raw := zeroBytes 64 })
  else
    let p := pickCode s (queryCauses s raw ((d.2.map (·.1)).getD stOK))
    let s := p.1
    match p.2 with
    | 0 =>
      match idxOf s x with
      | some i =>
        match i.gens with
        | g :: gs =>
          (s.modIdx x (fun i => { i with gens := { g with holds := g.holds + 1 } :: gs }),
            { base with gen := g.num, wmark := i.head, mpos := g.mpos, held := true })
        | [] => (s, { base with status := 3, reason := 1 })
      | none => (s, { base with status := 3, reason := 1 })
    | n => (s, { base with status := 3, reason := n })

/-- FIRST and COUNT of an instance as its record in the ring gives them (R67, R181, R215): free where the record cannot be
read (DESIGN CHOICE, log 81). -/
def admittedRange (s : State) (ring : Word) (number cls : Nat) : State × Nat × Nat :=
  let r := unitRead s (ring + BitVec.ofNat 64 (32 * (number % 16))) 32 cls none
  let s := r.1
  if r.2.1 = stOK then (s, u64At r.2.2 16, u32At r.2.2 24)
  else (s.bumpFree.bumpFree, (Config.freeWord s.freeCtr).toNat, Config.freeBelow (s.freeCtr + 1) (2 ^ 32))

/-- The query addresses of a batch (R215): one list, or COUNT for each admitted input. -/
def queryAddrs (s : State) (run : Run) (raw : List Byte) : State × List Word :=
  let qs := wordAt raw 0
  let n := u32At raw 8
  if u8At raw 12 % 2 = 0 then (s, (List.range n).map (fun j => qs + BitVec.ofNat 64 (64 * j)))
  else
    let r := admittedRange s (wordAt raw 16) run.number run.cls
    let first := r.2.1
    let inputs := r.2.2
    (r.1, (List.range inputs).flatMap (fun k => (List.range n).map (fun j =>
      qs + BitVec.ofNat 64 (64 * (((first + 1 + k) % 2 ^ 48 % u16At raw 14) * n + j)))))

/-- Why a job record is refused: the codes of REASON that apply (R220). -/
def qbatchCauses (s : State) (job : Word) (readOk : Bool) (raw : List Byte) : List Nat :=
  let qs := wordAt raw 0
  if !readOk then [1]
  else
    causes [(decide (job.toNat % 64 ≠ 0 ∨ nodeOf job ≠ s.node ∨ qs.toNat % 64 ≠ 0 ∨ nodeOf qs ≠ s.node
        ∨ u64At raw 24 % 64 ≠ 0), 1),
      (decide (2 ≤ u8At raw 12 ∨ u8At raw 13 ≠ 0 ∨ !allZero (sliceB raw 32 32)), 2),
      (decide (u8At raw 12 % 2 = 1 ∧ (u64At raw 16 = 0 ∨ u16At raw 14 = 0)), 3)]

/-- QUERY_BATCH_LAUNCH (R215, R216, R220): every query of the batch is admitted at once; refused ones write their header.
A batch whose instance has been aborted is launched and ends by QUERY_ABORT. -/
def execQueryBatchLaunch (seq : Fin 16) (node : Nat) (s : State) : Host.Outcome State Fault Refusal :=
  match takeLaunch s seq.val node [6] with
  | none => .next s
  | some (s, run) =>
    let s := obsStart s 188 run
    let r := unitRead s run.job 64 run.cls none
    let s := r.1
    let raw := r.2.2
    let b : QBatch :=
      { number := s.bram.nextBatch, run := run, report := if r.2.1 = stOK then wordAt raw 24 else 0, start := s.now,
        queries := [], ok := 0, incomplete := 0, refused := 0, unwritten := 0, aborted := 0 }
    let s := { s with bram := { s.bram with nextBatch := s.bram.nextBatch + 1, batches := s.bram.batches ++ [b] } }
    let p := pickCode s (qbatchCauses s run.job (r.2.1 == stOK) raw)
    let s := p.1
    match p.2 with
    | 0 =>
      let t := queryAddrs s run raw
      let u := t.2.foldl (fun (u : State × List Query) a =>
        let v := admitQuery u.1 run.cls a
        (v.1, u.2 ++ [v.2])) (t.1, [])
      let unread := fun (q : Query) => q.status == 3 && allZero q.raw && q.reason == 3
      let s := u.1.setQBatch { b with
        queries := u.2.map (fun q => if q.status == 3 && !unread q then { q with status := 0 } else q),
        refused := (u.2.filter unread).length }
      let s := u.2.zipIdx.foldl (fun s e => if e.1.status = 3 && !unread e.1 then finishQuery s b.number e.2 e.1 else s) s
      let s := u.2.zipIdx.foldl (fun s e => askQdesc s run.cls b.number e.2 e.1) s
      .next (if (qbatchOf s b.number).any (fun b => b.queries.isEmpty || b.queries.all (fun q => q.status == 3)) then
          checkQBatch s b.number else s)
    | reason => .next (endQBatch s b 2 reason)

/-! ### Searching (R217, R218, R227, R228) -/

/-- The probes of a query with their numbers, and the filters. -/
def queryPlan (s : State) (q : Query) (desc : List Byte) : List (Nat × Nat) × Filter :=
  let c := wordAt q.raw 0
  let sk := sketchOf s q.index desc
  let k0 := if q.fetch || bitOf (hdrCtrl s q.index) 5 then u64At q.raw 24 else bucketKey s q.index sk 0
  ((probesOf (idxB s q.index) k0 q.probes).zipIdx.map (fun e => (e.2, e.1)),
    ⟨q.fetch, sk, desc, bitsOf c 31 24, bitsOf c 41 32, wordAt q.raw 32, wordAt q.raw 40⟩)

/-- Ask another node for its part of a query: a request on its route, or a part that fails at once (R228, R229). -/
def askPart (s : State) (b : QBatch) (q : Query) (f : Filter) (node : Nat) (mine : List (Nat × Nat)) : State × Query :=
  let fail := { q with nodeFail := q.nodeFail ++ [node], probeFail := q.probeFail ++ mine.map (·.1) }
  match routeTo s node with
  | .noRoute => (s, fail)
  | .failed => (s, fail)
  | _ =>
    let req : ShardRequest :=
      { node := BitVec.ofNat 10 node, tag := BitVec.ofNat 32 s.nextTag, cls := BitVec.ofNat 2 b.run.cls,
        index := BitVec.ofNat 4 q.index, mode := q.fetch, digest := BitVec.ofNat 32 (u32At (hdrBytes s q.index 16 4) 0),
        sketch := f.sketch, desc := f.desc, thresh := f.thresh, maxdist := f.maxdist, kmask := f.kmask,
        kmatch := f.kmatch, count := if q.fetch then q.maxout else q.items, probes := mine.map (·.2) }
    ({ s with nextTag := s.nextTag + 1, bram := { s.bram with asked := req :: s.bram.asked } },
      { q with parts := q.parts ++ [⟨node, s.nextTag, mine.map (·.1)⟩] })

/-- Run the local part of a query and ask the other owners for theirs. -/
def runQuery (s : State) (b : QBatch) (q : Query) (desc : List Byte) : State × Query :=
  let plan := queryPlan s q desc
  let local_ := bitOf (wordAt q.raw 0) 5 || shardOf s q.index = 0
  let owner := fun (k : Nat) => if local_ then some s.node else ownerOf s q.index k
  let first := (plan.1.headD (0, 0)).2
  let owners := plan.1.map (fun p => (p, owner (if q.fetch then first else p.2)))
  let mine := (owners.filter (fun e => e.2 == some s.node)).map (·.1)
  let lost := (owners.filter (fun e => e.2.isNone)).map (fun e => e.1.1)
  let others := ((owners.filterMap (·.2)).filter (· != s.node)).eraseDups
  match (idxOf s q.index).bind (fun i => genAt i q.gen) with
  | none => (s, q)
  | some g =>
    let r := searchLocal s q.index b.run.cls g q.wmark plan.2 mine
    let f := r.2
    let q := { q with
      searched := true, cands := f.cands, pages := f.pages, passed := f.passed, found := f.found, sideFail := f.sideBad,
      chanFail := (f.chans.eraseDups.map (fun c => 2 ^ c)).foldl (· + ·) 0, probeFail := f.failed ++ lost }
    others.foldl (fun t n =>
      askPart t.1 b t.2 plan.2 n ((owners.filter (fun e => e.2 == some n)).map (·.1))) (r.1, q)

/-- SEARCH and FETCH of one query of a batch. -/
def searchCmd (s : State) (batch query : Nat) (fetch : Bool) : State :=
  match qbatchOf s batch with
  | none => s
  | some b =>
    match b.queries[query]? with
    | none => s
    | some q =>
      if q.status ≠ 0 ∨ q.searched ∨ q.fetch ≠ fetch ∨ runAborted s b.run then s
      else match q.desc with
        | none => s
        | some (st, d) =>
          if st ≠ stOK then finishQuery s batch query { q with status := 3, reason := 3 }
          else
            let r := runQuery s b q d
            chargeDomain s b.run.dom (r.1.setQuery b query r.2)

/-- SEARCH (R217, R228): the query waits until its QDESC has been read, and one that cannot be read is REFUSED (R219). -/
def execSearch (batch query : Nat) (s : State) : Host.Outcome State Fault Refusal := .next (searchCmd s batch query false)

/-- FETCH (R218). -/
def execFetch (batch query : Nat) (s : State) : Host.Outcome State Fault Refusal := .next (searchCmd s batch query true)

/-- Did every part of the query succeed (R229)? -/
def Query.whole (q : Query) : Bool :=
  q.chanFail == 0 && q.probeFail.isEmpty && q.nodeFail.isEmpty && !q.sideFail

/-- QUERY_COMPLETE (R219, R229): all parts have ended, so items and header are written. -/
def execQueryComplete (batch query : Nat) (s : State) : Host.Outcome State Fault Refusal :=
  match qbatchOf s batch with
  | none => .next s
  | some b =>
    match b.queries[query]? with
    | none => .next s
    | some q =>
      if q.status ≠ 0 ∨ !q.searched ∨ !q.parts.isEmpty then .next s
      else .next (finishQuery s batch query { q with status := if q.whole then 1 else 2 })

/-- QUERY_ABORT (R220): an unfinished query of an aborted instance writes a header without items. -/
def execQueryAbort (batch query : Nat) (s : State) : Host.Outcome State Fault Refusal :=
  match qbatchOf s batch with
  | none => .next s
  | some b =>
    match b.queries[query]? with
    | none => .next (if runAborted s b.run ∧ b.queries.isEmpty then checkQBatch s batch else s)
    | some q =>
      if q.status ≠ 0 ∨ !runAborted s b.run then .next s
      else .next (finishQuery s batch query { q with
        status := 4, cands := [], parts := [], found := 0, passed := 0, pages := 0, chanFail := 0, nodeFail := [],
        probeFail := [], sideFail := false })

/-- SHARD_PART (R228): another node's part, with a snapshot taken now. The status of a part that an index not OPEN, or
another DIGEST, refuses is some status other than OK; a part whose side list cannot be read answers UNCORRECTABLE
(DESIGN CHOICE, log 192). -/
def execShardPart (req : ShardRequest) (s : State) : Host.Outcome State Fault Refusal :=
  let x := req.index.toNat
  let answer := fun (s : State) (a : ShardAnswer) => ({ s with bram := { s.bram with answers := a :: s.bram.answers } } : State)
  match idxOf s x with
  | some i =>
    match i.gens.head? with
    | some g =>
      if bramOn s ∧ idxState s x = 1 ∧ u32At (hdrBytes s x 16 4) 0 = req.digest.toNat then
        let f : Filter := ⟨req.mode, req.sketch, req.desc, req.thresh, req.maxdist, req.kmask, req.kmatch⟩
        let r := searchLocal s x req.cls.toNat g i.head f (req.probes.zipIdx.map (fun e => (e.2, e.1)))
        let items := (r.2.cands.take req.count).map (fun c => (⟨c.dist, c.sdist, c.side, c.entry⟩ : ShardItem))
        .next (answer r.1 (if r.2.sideBad then ⟨req.node.toNat, req.tag.toNat, stUNCORRECTABLE, [], 0, 0, 0, []⟩
          else ⟨req.node.toNat, req.tag.toNat, stOK, r.2.failed, r.2.pages, r.2.passed, r.2.found, items⟩))
      else .next (answer s.bumpFree
        ⟨req.node.toNat, req.tag.toNat, 1 + Config.freeBelow s.freeCtr 13, [], 0, 0, 0, []⟩)
    | none => .next s
  | none => .next (answer s.bumpFree
      ⟨req.node.toNat, req.tag.toNat, 1 + Config.freeBelow s.freeCtr 13, [], 0, 0, 0, []⟩)

/-- A remote part of a query has ended (R228, R229): its items are merged, or its probes and node count as failed. -/
def partEnd (q : Query) (p : Part) (status : Nat) (failed : List Nat) (pages passed found : Nat) (items : List ShardItem) :
    Query :=
  let q := { q with parts := q.parts.filter (fun r => r.tag != p.tag) }
  if status ≠ 0 then { q with nodeFail := q.nodeFail ++ [p.node], probeFail := q.probeFail ++ p.probes }
  else
    { q with
      cands := sortBy candBefore (q.cands ++ items.map (fun t => ⟨t.dist, t.sdist, t.side, p.node, t.entry⟩))
      pages := q.pages + pages
      passed := q.passed + passed
      found := q.found + found
      probeFail := q.probeFail ++ failed.map (fun f => p.probes.getD f 0) }

/-- SHARD_REPLY (R228, R229). -/
def execShardReply (batch query : Nat) (node : BitVec 10) (status : Byte) (failed : List Nat) (pages passed found : Nat)
    (items : List ShardItem) (s : State) : Host.Outcome State Fault Refusal :=
  match qbatchOf s batch with
  | none => .next s
  | some b =>
    match b.queries[query]? with
    | none => .next s
    | some q =>
      match q.parts.find? (fun p => p.node == node.toNat) with
      | some p =>
        if q.status = 0 then .next (s.setQuery b query (partEnd q p status.toNat failed pages passed found items)) else .next s
      | none => .next s

/-- A part of a query without an answer fails (R229): true when the tag was one of them. -/
def partTimeout (s : State) (tag : Nat) : Option State :=
  s.bram.batches.findSome? (fun b =>
    b.queries.zipIdx.findSome? (fun e =>
      (e.1.parts.find? (fun p => p.tag == tag)).map (fun p =>
        s.setQuery b e.2 (partEnd e.1 p stLINK_FAILED [] 0 0 0 []))))

/-! ### Merges (R224 to R226) -/

/-- An update of a merge: key, entry, whether a tombstone. -/
structure Upd where
  key  : Nat
  tomb : Bool
  ent  : List Byte
  deriving DecidableEq, Repr

/-- The entries of an import object (R225 step 2): none when it is a BAD_IMPORT, and whether it could be read. -/
def importOf (s : State) (x id : Nat) : State × Option (List Upd) × Bool :=
  match objOf s id with
  | none => (s, none, true)
  | some o =>
    if o.state ≠ 3 ∨ o.size % 128 ≠ 0 then (s, none, true)
    else
      let r := readObjects 3 none (o.size / 4096 + 2) s o.base o.size
      if r.2.any (·.isNone) then (r.1, some [], false)
      else
        let data := r.2.filterMap (fun e => e)
        let es := (List.range (o.size / 128)).map (fun k =>
          let e := sliceB data (128 * k) 128
          let e := if entTomb e then zeroBytes 80 ++ e.drop 80 else sketchOf s x (sliceB e 16 64) ++ e.drop 16
          (⟨entKey e, entTomb e, e⟩ : Upd))
        let bad := es.any (fun u => decide (2 ^ 26 ≤ entFe u.ent)
          || (!u.tomb && ownerOf s x (entBucket s x u.ent) != some s.node))
        (r.1, if bad then none else some es, true)

/-- Inserts that no later tombstone of the same key hides (R225 step 3). -/
def survivors : List Upd → List Upd
  | [] => []
  | u :: us => if u.tomb || us.any (fun v => v.tomb && v.key == u.key) then survivors us else u :: survivors us

/-- The new carried list of an incremental merge (R225 step 5): the highest generation per key, by rising key. -/
def carry (old : List (Nat × Nat)) (keys : List Nat) (gen : Nat) : List (Nat × Nat) :=
  let new := keys.eraseDups
  sortBy (fun a b => decide (a.1 < b.1))
    ((old.filter (fun e => !new.contains e.1)) ++ new.map (fun k => (k, gen % 2 ^ 24)))

/-- One rewritten bucket, whose pages are not placed yet, its entries, how many were dropped as unreadable, and whether a
page or the directory entry could not be read. -/
def mergeBucket (s : State) (x : Nat) (g : Gen) (hide : List (Nat × Nat)) (ins : List Upd) (key : Nat) :
    State × (Bucket × List (List Byte)) × Nat × Bool :=
  let old := (g.buckets.find? (·.key == key)).getD ⟨key, 0, 0, 0⟩
  let d := readDirEntry s 3 g key
  let r : State × List (List Byte) × Bool := match d.2 with
    | none => (d.1, [], old.entries != 0)
    | some (first, n, _) =>
      let t := readBucket d.1 x 3 key first n
      (t.1, t.2.1, !t.2.2.2.isEmpty)
  let kept := r.2.1.filter (fun e => !pageHidden hide [] e)
  let mine := (ins.filter (fun u => entBucket s x u.ent == key)).map (·.ent)
  let es := (sortBy entBefore (kept ++ mine)).map (fun e => entWith e (g.num + 1))
  (r.1, (⟨key, 0, es.length, g.num + 1⟩, es), old.entries - r.2.1.length, r.2.2)

/-- The updates of the side list that a merge takes (R225 step 2), and whether every slot could be read. -/
def sideUpds (s : State) (x : Nat) (i : Index) (es : List SideKey) : State × List Upd × Bool :=
  es.foldl (fun (r : State × List Upd × Bool) e =>
    let d := readSide r.1 x 3 i e.pos
    match d.2 with
    | some b => (d.1, r.2.1 ++ [⟨e.key, e.tomb, b⟩], r.2.2)
    | none => (d.1, r.2.1, false)) (s, [], true)

/-- The pages that live buckets take on flash, all indexes together (R203). -/
def livePages (s : State) : List (Nat × Nat) :=
  s.bram.indexes.flatMap (fun e => (e.2.gens ++ (e.2.merge.map (·.gen)).toList).flatMap (fun g =>
    (g.buckets.filter (fun b => b.entries != 0)).map (fun b => (b.page, ceilDiv b.entries 127))))

/-- Places for the pages of rewritten buckets: consecutive numbers of one channel that no live bucket has (R203), otherwise
free (DESIGN CHOICE, log 30). A bucket without entries has no pages. -/
def placePages : List (Bucket × List (List Byte)) → State → List (Nat × Nat) → List (Bucket × List (List Byte)) →
    State × Option (List (Bucket × List (List Byte)))
  | [], s, _, out => (s, some out)
  | b :: bs, s, used, out =>
    let n := ceilDiv b.1.entries 127
    if n = 0 then placePages bs s used (out ++ [b])
    else
      let us := sortBy (fun a b => decide (a.1 < b.1)) used
      let gaps := (List.range 16).flatMap (fun c => gapsOf ((c + 1) * 2 ^ 25) (c * 2 ^ 25) us)
      match placeIn s.freeCtr n 1 gaps with
      | none => (s.bumpFree, none)
      | some p => placePages bs s.bumpFree ((p, n) :: used) (out ++ [({ b.1 with page := p }, b.2)])

/-- Erase blocks that a merge of so many pages takes: between the fewest that hold them and one a page (DESIGN CHOICE, log 35). -/
def mergeBlocks (s : State) (pages : Nat) : Nat :=
  let lo := ceilDiv pages 1024
  lo + Config.freeBelow s.freeCtr (pages - lo + 1)

/-- What a merge comes to: a status, or the new generation. -/
inductive MergeRes where
  | fail (status : Nat)
  | ok (m : Merge)
  deriving DecidableEq, Repr

/-- The merge of the current generation with the updates of a record (R225 steps 1 to 6, R226). A failure of the record
comes first, then those of the steps in their order; within either the status is free where several apply (DEDUCED, log 36). -/
def mergeWork (s : State) (x : Nat) (i : Index) (g : Gen) (raw : List Byte) : State × MergeRes :=
  let c := wordAt raw 0
  let e := if u64At raw 8 = 0 then i.head else min (u64At raw 8) i.head
  let sweep := bitOf c 0
  let p := pickCode s (causes [
    (decide (bitsOf c 7 2 ≠ 0 ∨ bitsOf c 63 33 ≠ 0 ∨ !allZero (sliceB raw 48 16) ∨ e < g.mpos), 1),
    (!sweep && decide (2 ^ 22 ≤ g.num + 1 - g.sweep), 6)])
  if p.2 ≠ 0 then (p.1, .fail p.2)
  else
    let imp := if bitOf c 32 then importOf s x (bitsOf c 31 16) else (s, some [], true)
    let s := imp.1
    match imp.2.1 with
    | none => (s, .fail 2)
    | some us =>
      let sd := sideUpds s x i (sideOf i g.mpos e)
      let s := sd.1
      let readable := imp.2.2 && sd.2.2
      let ups := sd.2.1 ++ us
      let tombs := (ups.filter (·.tomb)).map (·.key)
      let ins := survivors ups
      let hide := carry g.ctl tombs (g.num + 1)
      let touched := (ins.map (fun u => entBucket s x u.ent)).eraseDups
      let keys := sortBy (fun a b => decide (a < b))
        (if sweep then (g.buckets.map (·.key) ++ touched).eraseDups else touched)
      let r := keys.foldl (fun (r : State × List (Bucket × List (List Byte)) × Nat × Bool) k =>
        let b := mergeBucket r.1 x g hide ins k
        (b.1, r.2.1 ++ [b.2.1], r.2.2.1 + b.2.2.1, r.2.2.2 || b.2.2.2)) (s, [], 0, false)
      let s := r.1
      let pages := (r.2.1.map (fun b => ceilDiv b.1.entries 127)).foldl (· + ·) 0
      let blocks := mergeBlocks s pages
      let pl := placePages r.2.1 s.bumpFree (livePages s) []
      let s := pl.1
      let ctl := if sweep then [] else hide
      let p := pickCode s (causes [(decide (flashFree s < blocks) || pl.2.isNone, 3), (!readable || (r.2.2.2 && !bitOf c 1), 4),
        (r.2.1.any (fun b => decide (32385 < b.1.entries)), 5)])
      if p.2 ≠ 0 then (p.1, .fail p.2)
      else if sideCap s x < ctl.length then (s, .fail 7)
      else
        let new := pl.2.getD []
        let keep := g.buckets.filter (fun b => !keys.contains b.key)
        let g' : Gen :=
          { num := g.num + 1, mpos := e, addr := 0, root := 0, ctlAt := 0, tiles := g.tiles,
            buckets := sortBy (fun a b => decide (a.key < b.key)) (keep ++ (new.map (·.1)).filter (fun b => b.entries != 0)),
            ctl := ctl, sweep := if sweep then g.num + 1 else g.sweep, holds := 0 }
        (s, .ok ⟨raw, g', new, [new.length, (new.map (fun b => b.1.entries)).foldl (· + ·) 0, r.2.2.1], blocks⟩)

/-- A merge ends: STATUS, RESULT and COUNTS, then DONE (R225 step 8, R226). -/
def mergeEnd (s : State) (x : Nat) (raw : List Byte) (status gen : Nat) (counts : List Nat) : State :=
  let a := uringOf s x + 0x90000
  let s := if status = 0 then s else s.setBit Reg.brcErr 3 true
  let s := unitPut s (a + 24) (leBytes 8 gen ++ counts.flatMap (leBytes 4) ++ zeroBytes (16 - 4 * counts.length))
  let s := unitPut s (a + 1) [BitVec.ofNat 8 status]
  closeCheck (bumpTo s (wordAt raw 16) (status == 0) 3) x

/-- A merge's work is done: it fails here, or waits to be published with its flash blocks held (R225, R226). -/
def mergeBegun (x : Nat) (raw : List Byte) (w : State × MergeRes) : State :=
  match w.2 with
  | .fail st => mergeEnd w.1 x raw st 0 []
  | .ok m => w.1.modIdx x (fun i => { i with merge := some m })

/-- MERGE_START (R224, R225): the index takes one increment of its merge buoy and reads the merge record. A merge that
fails ends here. -/
def execMergeStart (index : Fin 16) (s : State) : Host.Outcome State Fault Refusal :=
  let x := index.val
  match idxOf s x with
  | none => .next s
  | some i =>
    let ring := uringOf s x
    let d := ((countsOf s (ring + 0x80018)).1 + 2 ^ 48 - i.taken) % 2 ^ 48
    match i.gens with
    | [] => .next s
    | g :: _ =>
      if !bramOn s || idxState s x ≠ 1 || i.merge.isSome || d = 0 || 2 ^ 47 ≤ d then .next s
      else
        let s := s.modIdx x (fun i => { i with taken := (i.taken + 1) % 2 ^ 48 })
        let r := unitRead s (ring + 0x90000) 64 3 none
        if r.2.1 ≠ stOK then .next (mergeEnd r.1 x (zeroBytes 64) 1 0 [])
        else .next (mergeBegun x r.2.2 (mergeWork r.1 x i g r.2.2))

/-- A page that is programmed has no error of what stood there before. -/
def freshPage (s : State) (page : Nat) : State :=
  { s with tier := { s.tier with media := s.tier.media.filter (fun f => match f.place with
      | .direct a => !(decide (flashBase + page * 16384 ≤ a) && decide (a < flashBase + (page + 1) * 16384))
      | _ => true) } }

/-- Write the pages of a bucket to flash (R202, R203); a program that fails is done again elsewhere (R231). -/
def writePages (x gen : Nat) (s : State) (b : Bucket × List (List Byte)) : State :=
  let n := ceilDiv b.1.entries 127
  (List.range n).foldl (fun s p =>
    let es := (b.2.drop (127 * p)).take 127
    let body := es.flatMap (fun e => e) ++ zeroBytes (16256 - 128 * es.length)
    let page := b.1.page + p
    let s := programFlash (countTier s 5 16384) (page / 2 ^ 25)
    settle ((freshPage s page).store (flashBase + page * 16384)
      (leBytes 8 b.1.key ++ leBytes 8 gen ++ leBytes 2 es.length ++ leBytes 1 p ++ leBytes 1 n ++ leBytes 1 x ++ zeroBytes 3
        ++ leBytes 4 (crc32 body).toNat ++ zeroBytes 100 ++ body))) s

/-- The tiles that a merge changes (R225 step 6). -/
def changedTiles (m : Merge) : List Nat := (m.new.map (fun b => b.1.key / 512)).eraseDups

/-- A merge publishes: pages, changed tiles, root, tombstone list and record are written, and GENREC names the generation
(R225 steps 6 to 8). -/
def publish (s : State) (x : Nat) (m : Merge) (as : List Nat) : State :=
  let ts := changedTiles m
  let tiles := (ts.zip (as.drop 3)).foldl (fun l e => l.set e.1 e.2) m.gen.tiles
  let g := { m.gen with addr := as.getD 0 0, root := as.getD 1 0, ctlAt := as.getD 2 0, tiles := tiles }
  let s := m.new.foldl (writePages x g.num) s
  let s := writeGen s g ts
  let pages := (m.new.map (fun b => ceilDiv b.1.entries 127)).foldl (· + ·) 0
  let s := s.modIdx x (fun i =>
    { i with gens := g :: i.gens, merge := none, blocks := i.blocks ++ [⟨g.num, pages, m.blocks⟩] })
  mergeEnd (freeGens s x) x m.raw 0 g.num m.counts

/-- MERGE_PUBLISH (R225 steps 6 to 8): the new generation is written and published in one cycle. While the area has no place
left for what the merge adds, it waits for a query to let go of a generation (DESIGN CHOICE, log 30). -/
def execMergePublish (index : Fin 16) (s : State) : Host.Outcome State Fault Refusal :=
  let x := index.val
  match (idxOf s x).bind (·.merge) with
  | none => .next s
  | some m =>
    let p := placeAll ([64, 8 * m.gen.tiles.length, 16 * m.gen.ctl.length] ++ (changedTiles m).map (fun _ => 4096)) s
      (areaSpans s) []
    match p.2 with
    | none => .next p.1
    | some as => .next (publish p.1 x m as)

/-! ### Channels and dies (R230, R232, R545) -/

/-- A channel is declared failed. -/
def failChannel (s : State) (ch : Nat) : State :=
  if channelFailed s ch then s
  else
    let s := s.setBit (Reg.brmStat ch) 0 true
    raise (sticky s (Reg.brmErr ch) 3 (some (64 + 2 * ch))) (65 + 2 * ch)

/-- CHANNEL_FAILED (R232, R545). -/
def execChannelFailed (ch : Fin 16) (s : State) : Host.Outcome State Fault Refusal := .next (failChannel s ch.val)

/-- DIE_FAILED (BRMn_STAT): the die has stopped responding; with both dies failed the channel is. -/
def execDieFailed (ch : Fin 16) (die : Fin 2) (s : State) : Host.Outcome State Fault Refusal :=
  let c := ch.val
  if s.bit (Reg.brmStat c) (1 + die.val) then .next s
  else
    let s := s.setBit (Reg.brmStat c) (1 + die.val) true
    let s := sticky s (Reg.brmErr c) 1 (some (64 + 2 * c))
    .next (if s.bit (Reg.brmStat c) 1 && s.bit (Reg.brmStat c) 2 then failChannel s c else s)

/-- PROGRAM_RESUME (R230): no C0 read waits for the die any more. -/
def execProgramResume (ch : Fin 16) (die : Fin 2) (s : State) : Host.Outcome State Fault Refusal :=
  let s := { s with bram := { s.bram with suspended := s.bram.suspended.filter (· != (ch.val, die.val)) } }
  .next (s.setBit (Reg.brmStat ch.val) 3 (s.bram.suspended.any (fun e => e.1 == ch.val)))

end Sys2Proof.Machine
end

