-- ==== Sys2Proof/Machine/Endpoint.lean ====
section
/-! DEFINITION. The PCIe endpoint: its resets, its link and power, its configuration writes, and HST_SIGNAL (R422 to
R434). What a request of the host does stands in HostOps.lean. -/

namespace Sys2Proof.Machine

/-- Is the PCIe link up? -/
def pcieUp (s : State) : Bool := decide (s.fld Reg.hstStat 3 0 ≠ 0)

/-- Host operations in progress complete inside the device, and their PCIe completions are discarded (R431). -/
def discardHost (s : State) : State :=
  { s with ops := s.ops.map (fun p => if p.origin == .host then { p with origin := .gone } else p) }

/-- Operations that wait for the host end when it can no longer answer (R44, R49, DEDUCED, log 72). -/
def endHostWaits (s : State) : State :=
  (s.ops.filter (fun p => p.phase == .hostWait)).foldl (fun s p => failOp s p stHOST_ABSENT) s

/-- The configuration space, the MSI-X table and the PBA are reset, and HST_STAT with bus master enable (R431). Link and
pin stand in HST_STAT as they are (DESIGN CHOICE, log 70). -/
def resetFunction (s : State) : State :=
  let s := { s with regs := s.regs.filter (fun e => !(decide (0xA8000 ≤ e.1) && decide (e.1 < 0xA9008)))
                    ep := { s.ep with funcMask := false } }
  endHostWaits (discardHost ((s.setBit Reg.hstStat 8 false).setBit Reg.hstStat 9 false))

/-- The link goes down. -/
def linkDownPcie (s : State) : State := (s.setFld Reg.hstStat 7 0 0).setBit Reg.hstStat 10 false

/-- PERST_N (R397, R423, R430, R431): its falling edge resets the endpoint; its rising edge lets the link train, and is
latched as a wake event. -/
def execPerstN (asserted : Bool) (s : State) : Host.Outcome State Fault Refusal :=
  let s := { s with ep := { s.ep with perst := asserted } }
  if s.power.off ∨ s.power.thermtrip then .next s
  else if asserted then
    let s := (linkDownPcie (resetFunction s)).setBit Reg.hstStat 11 true
    .next (sticky { s with ep := { s.ep with crs := true } } Reg.hstErr 3 (some 113))
  else
    let s := s.setBit Reg.hstStat 11 false
    .next (wakeEvent { s with ep := { s.ep with crs := true, needPerst := false } } .perst)

/-- May a configuration request reach the function: a link, no reset, and no retry status (R423)? -/
def configOpen (s : State) : Bool := pcieUp s && !s.ep.perst && !s.ep.crs

/-- FLR (R431). -/
def execFlr (s : State) : Host.Outcome State Fault Refusal :=
  .next (if configOpen s then sticky (resetFunction s) Reg.hstErr 4 (some 114) else s)

/-- PCIE_CRS_END (R423): 1 ms after the latest reset edge. -/
def execPcieCrsEnd (s : State) : Host.Outcome State Fault Refusal :=
  .next { s with ep := { s.ep with crs := s.ep.perst } }

/-- D3HOT_ENTRY (R430). -/
def execD3hotEntry (s : State) : Host.Outcome State Fault Refusal :=
  .next (if configOpen s then s.setBit Reg.hstStat 9 true else s)

/-- PCIE_LINK_DOWN (R431, R434): the link leaves L0 and L1 for down. -/
def execPcieLinkDown (s : State) : Host.Outcome State Fault Refusal :=
  .next (if pcieUp s then endHostWaits (sticky (linkDownPcie s) Reg.hstErr 3 (some 113)) else s)

/-- PCIE_LINK_UP (R422, R429, R430): the link trains at a rate and a width of the table; not in P3 or P4, nor under
PERST_N. -/
def execPcieLinkUp (speed : Fin 6) (width : BitVec 4) (s : State) : Host.Outcome State Fault Refusal :=
  let w := width.toNat
  if s.ep.perst ∨ s.ep.needPerst ∨ s.power.off ∨ s.power.thermtrip ∨ pState s = 3 ∨ pcieUp s ∨ speed.val = 0
      ∨ ¬(w = 1 ∨ w = 2 ∨ w = 4 ∨ w = 8) then .next s
  else
    let s := (s.setFld Reg.hstStat 7 0 (speed.val + 16 * w)).setBit Reg.hstStat 10 (pState s == 2)
    .next (msixRelease s)

/-- CONFIGURATION_WRITE (R429, R430): held messages leave once their way is open. -/
def execConfigurationWrite (w : ConfigWrite) (s : State) : Host.Outcome State Fault Refusal :=
  if !configOpen s then .next s
  else match w with
    | .busMaster on => .next (msixRelease (s.setBit Reg.hstStat 8 on))
    | .functionMask on => .next (msixRelease { s with ep := { s.ep with funcMask := on } })
    | .powerD0 => .next (msixRelease (s.setBit Reg.hstStat 9 false))

/-- HST_SIGNAL (R428). -/
def execHstSignal (value : Word) (s : State) : Host.Outcome State Fault Refusal := .next (hstSignal s value)

end Sys2Proof.Machine
end

