-- ==== Sys2Proof/Machine/Filter.lean ====
section
/-! DEFINITION. The filter chain (14_filter_chain.md). -/

namespace Sys2Proof.Machine

/-- Channel `n`. -/
def chanOf (s : State) (n : Nat) : Chan := s.flt.getD n (freshChan [resetBank, resetBank])

/-- Change channel `n`. -/
def State.modChan (s : State) (n : Nat) (f : Chan → Chan) : State := { s with flt := s.flt.modify n f }

/-- A field of FLT_CHn_CFG. -/
def cfgFld (s : State) (n hi lo : Nat) : Nat := s.fld (Reg.fltChCfg n) hi lo

/-- An event bit of FLT_ERR (R378). -/
def fltErr (s : State) (bit : Nat) : State := sticky s Reg.fltErr bit (some (168 + bit))

/-- CICR (R365). -/
def cicR (s : State) (n : Nat) : Nat := cfgFld s n 25 20 + 1

/-- The decimation D. -/
def decimation (s : State) (n : Nat) : Nat := cicR s n * 2 ^ (cfgFld s n 26 26 + cfgFld s n 27 27)

/-- The active bank (R375). -/
def activeBank (s : State) (n : Nat) : Nat := s.fld (Reg.fltChStat n) 2 2

/-- A bank of a channel. -/
def bankOf (s : State) (n b : Nat) : Bank := (chanOf s n).banks.getD b resetBank

/-- The group delay (R370). -/
def groupDelay (s : State) (n : Nat) : Nat :=
  let r := cicR s n
  2 * (r - 1) + 5 * r * cfgFld s n 26 26 + 10 * r * cfgFld s n 27 27
    + ceilDiv ((bankOf s n (activeBank s n)).ntaps - 1) 2 * decimation s n

/-- Width of an input format in bytes (R364). -/
def fmtBytes (f : Nat) : Nat := if f < 4 then 2 else 4

/-- The checks at EN (R365). The base of a ring is a multiple of 4 KiB by its field. -/
def chanOk (s : State) (n : Nat) : Bool :=
  let src := cfgFld s n 5 0
  let fmt := cfgFld s n 14 12
  let k := s.fld (Reg.fltChRing n) 4 0
  ((decide (34 ≤ src) && decide (src ≤ 43)) || (decide (48 ≤ src) && decide (src ≤ 51)) || src == 63)
    && decide (fmt < 6) && decide (s.fld (Reg.fltChThr n) 50 48 < 5) && decide (cfgFld s n 25 20 ≠ 0)
    && decide (cfgFld s n 11 6 + fmtBytes fmt ≤ 64) && decide (4 ≤ k) && decide (k ≤ 16)
    && ringOk s (s.reg (Reg.fltChRing n) &&& ~~~0xFFF) (32 * 2 ^ k)

/-- A switch (R366): histories, detectors and comparator are 0, and the input count restarts. -/
def switchChan (s : State) (n : Nat) : State :=
  let gd := groupDelay s n
  let s := s.modChan n (fun c => { freshChan c.banks with seen := c.seen, recs := c.recs, gap := c.gap, gd := gd })
  let s := (s.setFld (Reg.fltChStat n) 63 32 gd).setFld (Reg.fltChStat n) 31 8 0
  (s.setBit (Reg.fltChStat n) 4 false).setBit (Reg.fltChStat n) 1 true

/-- A bank swap takes effect (R370, R375): it never makes a record coarse (DEDUCED, log 56). -/
def swapBank (s : State) (n : Nat) : State :=
  let s := (s.setFld (Reg.fltChStat n) 2 2 (1 - activeBank s n)).setBit (Reg.fltChStat n) 3 false
  let gd := groupDelay s n
  (s.setFld (Reg.fltChStat n) 63 32 gd).modChan n (fun c => { c with gd := min c.gd gd })

/-- A SWAP request (R375). -/
def requestSwap (s : State) (n : Nat) : State :=
  if s.bit (Reg.fltChStat n) 3 then fltErr s 3
  else if s.bit (Reg.fltChCfg n) 44 then s.setBit (Reg.fltChStat n) 3 true
  else swapBank s n

/-- The records that the channel's source has written (R363). -/
def feedsOf (s : State) (n : Nat) : Nat := (srcOf s (cfgFld s n 5 0)).feeds

/-- EN rises (R365, R366, R370). -/
def enableChan (s : State) (n : Nat) : State :=
  if chanOk s n then
    let s := (s.setBit (Reg.fltChCfg n) 44 true).setBit (Reg.fltChStat n) 0 true
    switchChan (s.modChan n (fun c => { c with seen := feedsOf s n, recs := 0, gap := false, resume := false })) n
  else fltErr s 0

/-- A write of FLT_CHn_CFG: while EN is 1 it changes only EN and SWAP. -/
def writeChanCfg (s : State) (n : Nat) (v : Word) : State :=
  let was := s.bit (Reg.fltChCfg n) 44
  let s := if was then s else s.setReg (Reg.fltChCfg n) (v &&& 0xFFFFFF7FFFF)
  let s := if bitOf v 45 then requestSwap s n else s
  if was && !bitOf v 44 then
    let s := (s.setBit (Reg.fltChCfg n) 44 false).setBit (Reg.fltChStat n) 0 false
    if s.bit (Reg.fltChStat n) 3 then swapBank s n else s
  else if !was && bitOf v 44 then enableChan s n
  else s

/-- CHANNEL_ENABLE (R365, R366). -/
def execChannelEnable (ch : Fin 64) (s : State) : Host.Outcome State Fault Refusal :=
  .next (writeChanCfg s ch.val (putBits (s.reg (Reg.fltChCfg ch.val)) 44 44 1))

/-- SWAP (R375). -/
def execSwap (ch : Fin 64) (s : State) : Host.Outcome State Fault Refusal := .next (requestSwap s ch.val)

/-- Change the inactive bank, unless a swap is pending (R375). -/
def modBank (s : State) (n : Nat) (f : Bank → Bank) : State :=
  if s.bit (Reg.fltChStat n) 3 then fltErr s 3
  else
    let b := 1 - activeBank s n
    s.modChan n (fun c => { c with banks := c.banks.modify b f })

/-- Write one coefficient of the inactive bank. -/
def writeCoef (s : State) (n index coef : Nat) : State :=
  modBank s n (fun b => { b with coefs := b.coefs.set index coef })

/-- Set NTAPS of the inactive bank. -/
def writeTaps (s : State) (n taps : Nat) : State := modBank s n (fun b => { b with ntaps := taps })

/-- A write of FLT_CHn_COEF. -/
def writeChanCoef (s : State) (n : Nat) (v : Word) : State :=
  if bitOf v 39 then writeTaps s n (bitsOf v 38 32 + 1) else writeCoef s n (bitsOf v 24 18) (bitsOf v 17 0)

/-- COEF_WRITE (R375). -/
def execCoefWrite (ch : Fin 64) (index : BitVec 7) (coef : BitVec 18) (s : State) : Host.Outcome State Fault Refusal :=
  .next (writeCoef s ch.val index.toNat coef.toNat)

/-- COEF_SETN (R375). -/
def execCoefSetn (ch : Fin 64) (ntapsM1 : BitVec 7) (s : State) : Host.Outcome State Fault Refusal :=
  .next (writeTaps s ch.val (ntapsM1.toNat + 1))

/-! ### A sample (R364 to R377) -/

/-- The chain drops a sample (R364, R374). -/
def dropSample (s : State) (n : Nat) : State :=
  (fltErr (count s Reg.fltDrops 1) 2).modChan n (fun c => { c with gap := true })

/-- sat24, and whether it clamped (R364). -/
def sat24 (v : Int) : Int × Bool :=
  let c := clampI v (-(2 ^ 23)) (2 ^ 23 - 1)
  (c, c != v)

/-- What a sample is read from (R364): a record's payload, or a conversion code. -/
inductive ChanInput where
  | payload (bs : List Byte)
  | code (c : Nat)

/-- An input of a channel, with its stamp and whether the time counter was unsynchronised at it (R295, R296, R364). -/
structure ChanFeed where
  input  : ChanInput
  stamp  : Nat
  unsync : Bool

/-- The value of an input, none where the payload ends before it (R364). OFFSET and FMT are not looked at for a conversion
code (DESIGN CHOICE, log 206). -/
def inputValue (s : State) (n : Nat) (x : ChanInput) : Option Int :=
  let fmt := cfgFld s n 14 12
  let off := cfgFld s n 11 6
  let sh := cfgFld s n 18 15
  match x with
  | .code c => some ((c / 2 ^ sh : Nat) : Int)
  | .payload bs =>
    let w := fmtBytes fmt
    if bs.length < off + w then none
    else
      let b := sliceB bs off w
      let v := leNat (if fmt % 2 = 1 then b.reverse else b)
      if fmt = 2 ∨ fmt = 3 then some ((v / 2 ^ sh : Nat) : Int) else some (sextN (8 * w) v / ((2 ^ sh : Nat) : Int))

/-- Wrap to 48-bit two's complement. -/
def wrap48 (v : Int) : Int := sextN 48 (codeN 48 v)

/-- The four integrators (R367): each adds the one before it. -/
def integrate : List Int → Int → List Int
  | [], _ => []
  | a :: as, x =>
    let v := wrap48 (a + x)
    v :: integrate as v

/-- The four combs (R367): their histories, and the output. -/
def combs : List Int → Int → List Int × Int
  | [], c => ([], c)
  | z :: zs, c =>
    let r := combs zs (wrap48 (c - z))
    (c :: r.1, r.2)

/-- The half-band taps h[0] to h[10] (R368). -/
def halfTaps : List Int := [799, 0, -6645, 0, 38614, 65536, 38614, 0, -6645, 0, 799]

/-- Σ h[k]·u[m − k], with the latest value first in the history. -/
def fir (h u : List Int) : Int := (List.zipWith (· * ·) h u).foldl (· + ·) 0

/-- A half-band stage takes `u` (R368): its history, count, and the output on every second input. -/
def halfBand (on : Bool) (hist : List Int) (cnt : Nat) (u : Int) : List Int × Nat × Option (Int × Bool) :=
  if !on then (hist, cnt, some (u, false))
  else
    let h := (u :: hist).take 11
    (h, cnt + 1, if (cnt + 1) % 2 = 0 then some (sat24 (rneShift (fir halfTaps h) 17)) else none)

/-- The fine path (R367 to R369): the channel, and the fine value where one comes out. -/
def finePath (s : State) (n : Nat) (c : Chan) (x : Int) : Chan × Option Int :=
  let ig := integrate c.integ x
  let c := { c with integ := ig }
  if c.i % cicR s n ≠ 0 then (c, none)
  else
    let r := combs c.comb (ig.getD 3 0)
    let y := sat24 (rneShift (r.2 * (s.fld (Reg.fltChCicg n) 31 0 : Nat)) 32)
    let c := { c with comb := r.1, sat := c.sat || y.2 }
    let a := halfBand (s.bit (Reg.fltChCfg n) 26) c.hb1 c.hb1n y.1
    let c := { c with hb1 := a.1, hb1n := a.2.1 }
    match a.2.2 with
    | none => (c, none)
    | some u =>
      let b := halfBand (s.bit (Reg.fltChCfg n) 27) c.hb2 c.hb2n u.1
      let c := { c with hb2 := b.1, hb2n := b.2.1, sat := c.sat || u.2 }
      match b.2.2 with
      | none => (c, none)
      | some v =>
        let bank := c.banks.getD (activeBank s n) resetBank
        let h := (v.1 :: c.fir).take 128
        let z := sat24 (rneShift (fir ((bank.coefs.take bank.ntaps).map (sextN 18 ·)) h) 17)
        ({ c with fir := h, sat := c.sat || v.2 || z.2 }, some z.1)

/-- The detectors take a fine value (R376): the channel, and whether a block ended. -/
def detectors (s : State) (n : Nat) (c : Chan) (y : Int) : Chan × Bool :=
  let m := y.natAbs
  let env := if c.env < m then c.env + (m - c.env) / 2 ^ cfgFld s n 35 32
    else ((c.env : Int) + ((m : Int) - c.env) / ((2 ^ cfgFld s n 39 36 : Nat) : Int)).toNat
  let w := 2 ^ cfgFld s n 43 40
  let c := { c with env := env, blkN := c.blkN + 1, blkMax := max c.blkMax m, blkSum := c.blkSum + m * m }
  if c.blkN < w then (c, false)
  else ({ c with peak := c.blkMax, rms := isqrt (c.blkSum / w), blkN := 0, blkMax := 0, blkSum := 0 }, true)

/-- A DN event (R377, R378, R520). -/
def downEvent (s : State) (n : Nat) : State :=
  let brown := s.bit (Reg.fltChThr n) 51
  let s := if brown && !s.bit Reg.fltDn n then raise s 174 else s
  let s := sticky s Reg.fltDn n (some 173)
  if brown then brownoutRequest s else s

/-- The comparator tests a value (R377). -/
def compare (s : State) (n : Nat) (v : Int) : State :=
  let lo := sextN 24 (s.fld (Reg.fltChThr n) 23 0)
  let hi := sextN 24 (s.fld (Reg.fltChThr n) 47 24)
  let set := fun (s : State) (b : Bool) =>
    (s.setBit (Reg.fltChStat n) 4 b).modChan n (fun c => { c with level := some b })
  match (chanOf s n).level with
  | none => if lo ≤ v then set s true else downEvent (set s false) n
  | some true => if v < lo then downEvent (set s false) n else s
  | some false => if hi < v then sticky (set s true) Reg.fltUp n (some 172) else s

/-- Write an output record (R373). -/
def writeRecord (s : State) (n : Nat) (stamp : Nat) (unsync coarse : Bool) (value : Int) : State :=
  let c := chanOf s n
  let slot := c.recs % 2 ^ s.fld (Reg.fltChRing n) 4 0
  let bs := leBytes 8 stamp ++ leBytes 4 (codeN 32 value) ++ leBytes 4 (codeN 32 c.f) ++ leBytes 4 c.peak
    ++ leBytes 4 c.rms ++ leBytes 4 c.env
    ++ leBytes 1 (flagBit coarse 0 + flagBit c.sat 1 + flagBit unsync 2 + flagBit c.gap 3) ++ leBytes 3 c.recs
  let s := s.modChan n (fun c => { c with recs := c.recs + 1, sat := false, gap := false })
  let s := unitPut s ((s.reg (Reg.fltChRing n) &&& ~~~0xFFF) + BitVec.ofNat 64 (32 * slot)) bs
  bumpTo s (s.reg (Reg.fltChBuoy n)) true 3

/-- What one input does to a channel: whether a stage clamped, the fine value past the group delay, and whether a detector
block ended. -/
structure ChanStep where
  chan : Chan
  sat  : Bool
  fine : Option Int
  blk  : Bool

/-- The fast value, the fine path and the detectors take an input (R366 to R372, R376). -/
def chanStep (s : State) (n : Nat) (c : Chan) (x : Int × Bool) : ChanStep :=
  let i := c.i + 1
  let f := if i = 1 then x.1 else c.f + (x.1 - c.f) / ((2 ^ cfgFld s n 31 28 : Nat) : Int)
  let r := finePath s n { c with i := i, f := f, sat := x.2 } x.1
  let k := { r.1 with sat := c.sat || r.1.sat }
  match r.2.filter (fun _ => decide (c.gd < i)) with
  | some y =>
    let d := detectors s n { k with fine := y } y
    ⟨d.1, r.1.sat, some y, d.2⟩
  | none => ⟨k, r.1.sat, none, false⟩

/-- One input sample (R364 to R377). -/
def chanSample (s : State) (n : Nat) (v : Int) (stamp : Nat) (unsync : Bool) : State :=
  let k := chanStep s n (chanOf s n) (sat24 v)
  let c := k.chan
  let sel := s.fld (Reg.fltChThr n) 50 48
  let s := s.modChan n (fun _ => c)
  let s := s.setFld (Reg.fltChStat n) 31 8 (codeN 24 c.f)
  let s := if sel = 1 then compare s n c.f else s
  let s := match k.fine with
    | some y =>
      let s := s.setBit (Reg.fltChStat n) 1 false
      let s := if sel = 0 then compare s n y else if sel = 4 then compare s n c.env else s
      if k.blk && sel = 2 then compare s n c.peak else if k.blk && sel = 3 then compare s n c.rms else s
    | none => s
  let s := if k.sat then fltErr s 1 else s
  if c.i = 1 ∨ c.i % decimation s n = 0 then
    match k.fine with
    | some y => writeRecord s n stamp unsync false y
    | none => writeRecord s n stamp unsync true c.f
  else s

/-- What the channel's source feeds it (R363): the latest record of an SPI source whose FC is not 0xFF, or of a CAN source
with FLT_CHn_CANID's identifier, that the channel has not taken yet; or a conversion of its ADC
SMON0 to SMON3, stamped at this instant; a record comes with no code. The table
has a row of its own for a sample, so the source's own command does not run the chain (DESIGN CHOICE, log 94). -/
def feedOf (s : State) (n : Nat) (x : FilterInput) (smon : Fin 4) (code : BitVec 16) : Option ChanFeed :=
  let src := cfgFld s n 5 0
  match x with
  | .adc => if src = 48 + smon.val then some ⟨.code code.toNat, s.now % 2 ^ 64, unsynced s⟩ else none
  | .record =>
    let k := srcOf s src
    if (chanOf s n).seen < k.feeds ∧ srcOn s src then
      match k.fed with
      | none => none
      | some r =>
        let takes := if src < 42 then decide (34 ≤ src) && u8At k.desc 56 != 0xFF
          else s.fld (Reg.fltChCanid n) 28 0 == r.ident && s.bit (Reg.fltChCanid n) 29 == r.ide
        if takes then some ⟨.payload r.payload, r.stamp, r.unsync⟩ else none
    else none

/-- Does the channel take samples (R363, R366)? Not while SRC names no source. -/
def chanRuns (s : State) (n : Nat) : Bool := s.bit (Reg.fltChCfg n) 44 && cfgFld s n 5 0 != 63 && portsOn s

/-- The channel has taken what its source has written so far. -/
def chanTakes (s : State) (n : Nat) : State := s.modChan n (fun c => { c with seen := feedsOf s n })

/-- A pending bank swap, and the switch of a resume, take effect at this input sample (R366, R375). -/
def beginSample (s : State) (n : Nat) : State :=
  let s := if s.bit (Reg.fltChStat n) 3 then swapBank s n else s
  if (chanOf s n).resume then switchChan (s.modChan n (fun c => { c with gap := true })) n else s

/-- FILTER_SAMPLE (R364): one record of the channel's source, or one conversion. -/
def execFilterSample (ch : Fin 64) (input : FilterInput) (smon : Fin 4) (code : BitVec 16) (s : State) : Host.Outcome State Fault Refusal :=
  let n := ch.val
  if !chanRuns s n then .next s
  else match feedOf s n input smon code with
    | none => .next s
    | some x =>
      let s := chanTakes s n
      match inputValue s n x.input with
      | none => .next (dropSample s n)
      | some v => .next (chanSample (beginSample s n) n v x.stamp x.unsync)

/-- FILTER_DROP (R374). -/
def execFilterDrop (ch : Fin 64) (s : State) : Host.Outcome State Fault Refusal :=
  if chanRuns s ch.val then .next (dropSample (chanTakes s ch.val) ch.val) else .next s

/-- FLT_CHn_STAT as it reads: RUN is set while the channel takes samples. -/
def chanStatView (s : State) (n : Nat) : Word := putBits (s.reg (Reg.fltChStat n)) 0 0 (if chanRuns s n then 1 else 0)

end Sys2Proof.Machine
end

