-- ==== Sys2Proof/Machine/Geometry.lean ====
section
/-! DEFINITION. Vectors, quaternions and rotations on floating-point codes, each operation rounded once (R309, R338,
R346): the same forms in binary32 for fusion and in binary64 for the solver. -/

namespace Sys2Proof.Machine

/-- The operations of a floating-point format on its codes. -/
structure Arith where
  add  : Nat → Nat → Nat
  sub  : Nat → Nat → Nat
  mul  : Nat → Nat → Nat
  div  : Nat → Nat → Nat
  fma  : Nat → Nat → Nat → Nat
  sqrt : Nat → Nat
  neg  : Nat → Nat
  lt   : Nat → Nat → Bool
  one  : Nat
  two  : Nat

/-- binary32. -/
def ar32 : Arith := ⟨f32add, f32sub, f32mul, f32div, f32fma, f32sqrt, f32neg, f32lt, 0x3F800000, 0x40000000⟩

/-- binary64. -/
def ar64 : Arith := ⟨f64add, f64sub, f64mul, f64div, f64fma, f64sqrt, f64neg, f64lt, 0x3FF0000000000000, 0x4000000000000000⟩

/-- Element `i` of a list of codes; +0 beyond the end. -/
def at0 (v : List Nat) (i : Nat) : Nat := v.getD i 0

/-- A sum of products from an initial value, one fma a term, in ascending index (R338). -/
def Arith.dot (A : Arith) (c : Nat) (xs ys : List Nat) : Nat := (List.zip xs ys).foldl (fun c p => A.fma p.1 p.2 c) c

/-- A sum of products that starts from its first product (R309). -/
def Arith.dotFirst (A : Arith) : List Nat → List Nat → Nat
  | x :: xs, y :: ys => A.dot (A.mul x y) xs ys
  | _, _ => 0

/-- The Hamilton product of quaternions w, x, y, z: each component from its first product, in ascending index of the left
factor (PRESUMED, log 42). -/
def Arith.quatMul (A : Arith) (p q : List Nat) : List Nat :=
  let n := A.neg
  let w := at0 q 0
  let x := at0 q 1
  let y := at0 q 2
  let z := at0 q 3
  [A.dotFirst p [w, n x, n y, n z], A.dotFirst p [x, w, z, n y], A.dotFirst p [y, n z, w, x], A.dotFirst p [z, y, n x, w]]

/-- The conjugate. -/
def Arith.quatConj (A : Arith) (q : List Nat) : List Nat := [at0 q 0, A.neg (at0 q 1), A.neg (at0 q 2), A.neg (at0 q 3)]

/-- norm(q) (R309). -/
def Arith.quatNorm (A : Arith) (q : List Nat) : Nat := A.sqrt (A.dotFirst q q)

/-- q / norm(q). -/
def Arith.quatUnit (A : Arith) (q : List Nat) : List Nat :=
  let n := A.quatNorm q
  q.map (fun c => A.div c n)

/-- The rotation of a quaternion, row by row (R309). -/
def Arith.rot (A : Arith) (q : List Nat) : List (List Nat) :=
  let p := fun (i j : Nat) => A.mul (at0 q i) (at0 q j)
  let dia := fun (i j : Nat) => A.sub A.one (A.mul A.two (A.add (p i i) (p j j)))
  let plus := fun (i j k : Nat) => A.mul A.two (A.add (p i j) (p 0 k))
  let minus := fun (i j k : Nat) => A.mul A.two (A.sub (p i j) (p 0 k))
  [[dia 2 3, minus 1 2 3, plus 1 3 2], [plus 1 2 3, dia 1 3, minus 2 3 1], [minus 1 3 2, plus 2 3 1, dia 1 2]]

/-- A matrix times a vector, each row from its initial value. -/
def Arith.matVec (A : Arith) (m : List (List Nat)) (v init : List Nat) : List Nat :=
  m.zipIdx.map (fun r => A.dot (at0 init r.2) r.1 v)

/-- The product of two matrices, each element from +0. -/
def Arith.matMul (A : Arith) (m n : List (List Nat)) (cols : Nat) : List (List Nat) :=
  m.map (fun r => (List.range cols).map (fun j => A.dot 0 r (n.map (fun c => at0 c j))))

/-- The transpose of a matrix of `cols` columns. -/
def transpose (m : List (List Nat)) (cols : Nat) : List (List Nat) :=
  (List.range cols).map (fun j => m.map (fun r => at0 r j))

/-- The sum of two vectors. -/
def Arith.vadd (A : Arith) (a b : List Nat) : List Nat := List.zipWith A.add a b

/-- Is the code a zero of either sign? -/
def Arith.isZero (A : Arith) (c : Nat) : Bool := c == 0 || A.neg c == 0

end Sys2Proof.Machine
end

