-- ==== Sys2Proof/Machine/SolverMath.lean ====
section
/-! DEFINITION. The solver's arithmetic: blocks, factors, the iteration, the factorisation and articulated bodies
(R345 to R360). Every number is a binary64 code. -/

namespace Sys2Proof.Machine

/-! ### Blocks (R345, R346) -/

/-- The tangent dimension of a block. -/
def Blk.dim (b : Blk) : Nat := match b.kind with
  | 0 => b.n
  | 1 => 6
  | _ => 6 + b.n

/-- Words of a slot that a block uses. -/
def Blk.words (b : Blk) : Nat := match b.kind with
  | 0 => b.n
  | 1 => 7
  | _ => 7 + b.n

/-- A slot with its unused words 0 (R345). -/
def Blk.clean (b : Blk) (slot : List Nat) : List Nat :=
  (List.range 16).map (fun i => if i < b.words then at0 slot i else 0)

/-- x ⊞ (ω, τ) on quaternion and translation, seven words (R346). -/
def se3Plus (x d : List Nat) : List Nat :=
  let A := ar64
  let w := d.take 3
  let th := A.sqrt (A.dotFirst w w)
  let half := f64mul th 0x3FE0000000000000
  let s := f64div (f64sin half) th
  let dq := if A.isZero th then [f64one, 0, 0, 0] else f64cos half :: w.map (f64mul s)
  let q := A.quatUnit (A.quatMul dq (x.take 4))
  let q := if f64lt (at0 q 0) 0 then q.map f64neg else q
  let r := A.matVec (A.rot dq) ((x.drop 4).take 3) (List.replicate 3 0)
  q ++ A.vadd r ((d.drop 3).take 3)

/-- x ⊟ y on quaternion and translation: (ω, τ) (R346). -/
def se3Minus (x y : List Nat) : List Nat :=
  let A := ar64
  let e := A.quatMul (x.take 4) (A.quatConj (y.take 4))
  let s := if f64lt (at0 e 0) 0 then 0xC000000000000000 else A.two
  let r := A.matVec (A.rot e) ((y.drop 4).take 3) (List.replicate 3 0)
  [f64mul s (at0 e 1), f64mul s (at0 e 2), f64mul s (at0 e 3)]
    ++ List.zipWith f64sub ((x.drop 4).take 3) r

/-- slot ⊞ δ (R346). -/
def Blk.plus (b : Blk) (x d : List Nat) : List Nat :=
  b.clean (match b.kind with
    | 0 => List.zipWith f64add (x.take b.n) d
    | 1 => se3Plus x d
    | _ => se3Plus x d ++ List.zipWith f64add ((x.drop 7).take b.n) (d.drop 6))

/-- slot ⊟ slot (R346). -/
def Blk.minus (b : Blk) (x y : List Nat) : List Nat :=
  match b.kind with
  | 0 => List.zipWith f64sub (x.take b.n) (y.take b.n)
  | 1 => se3Minus x y
  | _ => se3Minus x y ++ List.zipWith f64sub ((x.drop 7).take b.n) ((y.drop 7).take b.n)

/-- Pose · pose: q = a.q ⊗ b.q, t = R(a.q) b.t + a.t. -/
def se3Mul (a b : List Nat) : List Nat :=
  let A := ar64
  A.quatMul (a.take 4) (b.take 4)
    ++ A.vadd (A.matVec (A.rot (a.take 4)) ((b.drop 4).take 3) [0, 0, 0]) ((a.drop 4).take 3)

/-- A pose applied to a point. -/
def se3Apply (a p : List Nat) : List Nat :=
  let A := ar64
  A.vadd (A.matVec (A.rot (a.take 4)) p [0, 0, 0]) ((a.drop 4).take 3)

/-! ### Factors (R346) -/

/-- The values of every block. -/
abbrev Values := Array (List Nat)

/-- The block `k` of a structure. -/
def Struct.blk (st : Struct) (k : Nat) : Blk := st.blks.getD k ⟨0, 0, false⟩

/-- Parameter words of a factor type (R346, DEDUCED, log 43). -/
def factorWords (ftype m na nb : Nat) : Nat :=
  match ftype with
  | 1 => 16 + na
  | 2 => 13
  | 3 => 4
  | 4 => 7
  | _ => 2 * m + m * (na + nb) + 32

/-- Tangent dimensions of a factor's blocks. -/
def Struct.dims (st : Struct) (f : Factor) : Nat × Nat :=
  ((st.blk f.a).dim, (f.b.map (fun b => (st.blk b).dim)).getD 0)

/-- A reprojected point: the residual, and whether z ≤ 0 (R346). -/
def reproject (p uv : List Nat) : List Nat × Bool :=
  let z := at0 p 2
  if f64lt z 0 || ar64.isZero z then ([0, 0], true)
  else ([f64sub (f64div (at0 p 0) z) (at0 uv 0), f64sub (f64div (at0 p 1) z) (at0 uv 1)], false)

/-- The residual r of a factor, and whether a reprojection lies at z ≤ 0 (R346). -/
def Struct.residual (st : Struct) (x : Values) (f : Factor) : List Nat × Bool :=
  let a := x.getD f.a []
  let b := match f.b with
    | some k => x.getD k []
    | none => []
  let p := f.params
  match f.ftype with
  | 1 => ((st.blk f.a).minus a (p.take 16), false)
  | 2 => (se3Minus b (se3Mul a (p.take 7)), false)
  | 3 => reproject (se3Apply a (b.take 3)) p
  | 4 => reproject (se3Apply a ((p.drop 4).take 3)) p
  | _ =>
    let d := st.dims f
    let n := d.1 + d.2
    let jo := 2 * f.m
    let la := jo + f.m * n
    let v := (st.blk f.a).minus a ((p.drop la).take 16)
      ++ (match f.b with
          | some k => (st.blk k).minus b ((p.drop (la + 16)).take 16)
          | none => [])
    ((List.range f.m).map (fun i =>
      f64add (ar64.dot 0 ((p.drop (jo + i * n)).take n) v) (at0 p (f.m + i))), false)

/-- The weights of a factor (R346). -/
def Struct.weights (st : Struct) (f : Factor) : List Nat :=
  match f.ftype with
  | 1 => (f.params.drop 16).take (st.blk f.a).dim
  | 2 => (f.params.drop 7).take 6
  | 3 => (f.params.drop 2).take 2
  | 4 => (f.params.drop 2).take 2
  | _ => f.params.take f.m

/-- The weighted residual (R346). -/
def weighted (w r : List Nat) : List Nat := List.zipWith f64mul w r

/-- The enabled factors, ascending. -/
def Struct.active (st : Struct) : List Factor := st.facs.filter (·.enabled)

/-- The cost C(x) (R348). -/
def Struct.cost (st : Struct) (x : Values) : Nat :=
  st.active.foldl (fun c f =>
    let r := weighted (st.weights f) (st.residual x f).1
    ar64.dot c r r) 0

/-- Reprojection factors with z ≤ 0 (R341). -/
def Struct.behind (st : Struct) (x : Values) : Nat := (st.active.filter (fun f => (st.residual x f).2)).length

/-- The free coordinates, as block and coordinate, ascending (R346). -/
def Struct.coords (st : Struct) : List (Nat × Nat) :=
  st.blks.zipIdx.flatMap (fun e => if e.1.fixed then [] else (List.range e.1.dim).map (fun c => (e.2, c)))

/-- A block moved by ±2^−20 in one coordinate. -/
def Struct.nudge (st : Struct) (x : Values) (k c : Nat) (neg : Bool) : Values :=
  let h := if neg then 0xBEB0000000000000 else 0x3EB0000000000000
  let b := st.blk k
  x.set! k (b.plus (x.getD k []) ((List.range b.dim).map (fun i => if i = c then h else 0)))

/-- A column of a Jacobian from the residuals at +h and −h (R348). -/
def jacColumn (plus minus : List Nat) : List Nat :=
  List.zipWith (fun a b => f64mul (f64sub a b) 0x4120000000000000) plus minus

/-- The blocks of a factor whose coordinates are free. -/
def Struct.freeBlocks (st : Struct) (f : Factor) : List Nat :=
  ((f.a :: f.b.toList).eraseDups).filter (fun k => !(st.blk k).fixed)

/-- Normal equations as they accumulate: H row by row and g, over free coordinates (R348). -/
structure Normal where
  h : Array (Array Nat)
  g : Array Nat

/-- Nothing accumulated. -/
def Normal.zero (n : Nat) : Normal := ⟨Array.replicate n (Array.replicate n 0), Array.replicate n 0⟩

/-- Accumulate one factor's weighted Jacobian columns, at the positions of their coordinates, and weighted residual
(R348): rows ascending. -/
def Normal.addRows (k : Normal) (cols : List (Nat × List Nat)) (rw : List Nat) : Normal :=
  cols.foldl (fun k c =>
    let g := k.g.modify c.1 (fun v => ar64.dot v c.2 rw)
    let h := k.h.modify c.1 (fun row => cols.foldl (fun row d => row.modify d.1 (fun v => ar64.dot v c.2 d.2)) row)
    ⟨h, g⟩) k

/-- Position of a coordinate among the free ones. -/
def coordAt (cs : List (Nat × Nat)) (k c : Nat) : Nat := cs.findIdx (· == (k, c))

/-- H and g at x (R348). -/
def Struct.normal (st : Struct) (x : Values) : Normal :=
  let cs := st.coords
  st.active.foldl (fun k f =>
    let r := st.residual x f
    if r.2 then k
    else
      let w := st.weights f
      let cols := (st.freeBlocks f).flatMap (fun b => (List.range (st.blk b).dim).map (fun c =>
        (coordAt cs b c, weighted w (jacColumn (st.residual (st.nudge x b c false) f).1 (st.residual (st.nudge x b c true) f).1))))
      k.addRows cols (weighted w r.1)) (Normal.zero cs.length)

/-! ### Symbolic factorisation (R344, R350) -/

/-- The off-diagonal non-zero blocks of A below each block: one list a column, rising. -/
def Struct.pattern (st : Struct) : Array (List Nat) :=
  st.facs.foldl (fun cols f =>
    match f.b with
    | some b =>
      if b = f.a then cols
      else cols.modify (min f.a b) (fun l => if l.contains (max f.a b) then l else insertBy (fun x y => decide (x < y)) (max f.a b) l)
    | none => cols) (Array.replicate st.blks.length [])

/-- The pattern of L: eliminating a block joins its later neighbours. -/
def fillPattern (cols : Array (List Nat)) : Array (List Nat) :=
  (List.range cols.size).foldl (fun cols k =>
    match cols.getD k [] with
    | [] => cols
    | p :: rest => cols.modify p (fun l =>
        rest.foldl (fun l i => if l.contains i then l else insertBy (fun x y => decide (x < y)) i l) l)) cols

/-- FILL: off-diagonal non-zero blocks of L (R341). -/
def fillCount (cols : Array (List Nat)) : Nat := (cols.toList.map (·.length)).foldl (· + ·) 0

/-! ### Numeric factorisation (R350, R351) -/

/-- The pivot test of R351: the pivot, and whether it was regularised. -/
def pivotTest (thresh d a : Nat) : Nat × Bool :=
  let abs := fun (v : Nat) => if f64lt v 0 then f64neg v else v
  let m := abs a
  if ar64.isZero d || f64lt d 0 || f64lt d (f64mul thresh m) then
    (f64mul thresh (if f64lt m f64one then f64one else m), true)
  else (d, false)

/-- The factors of LDLᵀ so far: L by rows, d, and the positions regularised, latest first. -/
structure Ldl where
  l    : Array (Array Nat)
  d    : Array Nat
  regs : List Nat

/-- A running value of the factorisation: `A[i][j]` less the terms of the columns before `j` (R350). -/
def ldlSum (nz : Nat → Nat → Bool) (f : Ldl) (i j a : Nat) : Nat :=
  (List.range j).foldl (fun s k =>
    if nz i k && nz j k then
      f64fma (f64neg ((f.l.getD i #[]).getD k 0)) (f64mul ((f.l.getD j #[]).getD k 0) (f.d.getD k 0)) s
    else s) a

/-- LDLᵀ over the free coordinates in ascending order (R350, R351): `nz i j` for i ≥ j says which elements are
structurally non-zero. -/
def factorise (n : Nat) (a : Array (Array Nat)) (nz : Nat → Nat → Bool) (thresh : Nat) : Ldl :=
  (List.range n).foldl (fun f j =>
    let el := fun (i : Nat) => (a.getD i #[]).getD j 0
    let p := pivotTest thresh (ldlSum nz f j j (el j)) (el j)
    let f := { f with d := f.d.set! j p.1, regs := if p.2 then j :: f.regs else f.regs }
    (List.range (n - j - 1)).foldl (fun f k =>
      let i := j + 1 + k
      if nz i j then { f with l := f.l.modify i (fun row => row.set! j (f64div (ldlSum nz f i j (el i)) p.1)) } else f) f)
    ⟨Array.replicate n (Array.replicate n 0), Array.replicate n 0, []⟩

/-- Solve with a right-hand side: forward, division by d, back (R350). -/
def ldlSolve (n : Nat) (f : Ldl) (nz : Nat → Nat → Bool) (rhs : Array Nat) : Array Nat :=
  let el := fun (i k : Nat) => (f.l.getD i #[]).getD k 0
  let y := (List.range n).foldl (fun (y : Array Nat) i =>
    y.set! i ((List.range i).foldl (fun s k => if nz i k then f64fma (f64neg (el i k)) (y.getD k 0) s else s) (y.getD i 0))) rhs
  let z := (List.range n).foldl (fun (z : Array Nat) i => z.set! i (f64div (z.getD i 0) (f.d.getD i 0))) y
  (List.range n).foldl (fun (x : Array Nat) r =>
    let i := n - 1 - r
    x.set! i ((List.range (n - 1 - i)).foldl (fun s q =>
      let k := i + 1 + q
      if nz k i then f64fma (f64neg (el k i)) (x.getD k 0) s else s) (x.getD i 0))) z

/-! ### Iterations (R348, R349, R353) -/

/-- A least-squares problem as the iteration sees it: the coordinate number of each free coordinate, the cost, the
normal equations, the pattern, and the update of a state by δ with whether it met a limit. -/
structure Problem where
  coords : List Nat
  cost   : Values → Nat
  normal : Values → Normal
  nz     : Nat → Nat → Bool
  apply  : Values → Array Nat → Values × Bool

/-- Where the iterations stand. -/
structure Iter where
  x       : Values
  c       : Nat
  lam     : Nat
  bestX   : Values
  bestC   : Nat
  best    : Nat
  done    : Nat
  npiv    : Nat
  piv0    : Option Nat
  kept    : Bool
  clamped : Bool
  stop    : Bool

/-- Are all words of a state finite? -/
def valuesFinite (x : Values) : Bool := x.toList.all (fun v => v.all f64finite)

/-- LM's λ after a rejected step (R349). -/
def lamUp (l : Nat) : Nat :=
  let v := f64mul l 0x4010000000000000
  if f64lt 0x4270000000000000 v then 0x4270000000000000 else v

/-- LM's λ after an accepted step (R349). -/
def lamDown (l : Nat) : Nat :=
  let v := f64mul l 0x3FD0000000000000
  if f64lt v 0x3D70000000000000 then 0x3D70000000000000 else v

/-- One iteration (R348, R349, R353). RNE(H_ii × (1 + λ)) is one rounding, of H_ii × λ + H_ii. -/
def iterate (p : Problem) (lm : Bool) (thresh : Nat) (t : Iter) : Iter :=
  if t.stop then t
  else
    let n := p.coords.length
    let k := p.normal t.x
    let a := if lm then
        (List.range n).foldl (fun (h : Array (Array Nat)) i =>
          h.modify i (fun row => row.modify i (fun v => f64fma v t.lam v))) k.h
      else k.h
    let f := factorise n a p.nz thresh
    let r := p.apply t.x (ldlSolve n f p.nz (k.g.map f64neg))
    let c := p.cost r.1
    let t := { t with
      done := t.done + 1
      npiv := t.npiv + f.regs.length
      piv0 := match t.piv0 with
        | some v => some v
        | none => f.regs.getLast?.map (fun i => p.coords.getD i 0)
      clamped := t.clamped || r.2 }
    let bad := !valuesFinite r.1 || !f64finite c || f.d.any (fun d => !f64finite d)
    if bad then
      if lm then { t with kept := true, lam := lamUp t.lam } else { t with kept := true, stop := true }
    else if lm && !f64lt c t.c then { t with lam := lamUp t.lam }
    else
      let t := { t with x := r.1, c := c, lam := if lm then lamDown t.lam else t.lam }
      if f64lt c t.bestC then { t with bestX := r.1, bestC := c, best := t.done } else t

/-- `k` iterations from a start state with its cost. -/
def iterations (p : Problem) (lm : Bool) (thresh k : Nat) (x : Values) (c lam : Nat) : Iter :=
  (List.range k).foldl (fun t _ => iterate p lm thresh t)
    ⟨x, c, lam, x, c, 0, 0, 0, none, false, false, false⟩

/-- The problem of a least-squares structure (R348, R350). -/
def Struct.problem (st : Struct) : Problem :=
  let cs := (st.coords).toArray
  let cols := fillPattern st.pattern
  { coords := cs.toList.map (fun e => 16 * e.1 + e.2)
    cost := st.cost
    normal := st.normal
    nz := fun i j =>
      let a := (cs.getD i (0, 0)).1
      let b := (cs.getD j (0, 0)).1
      a == b || (cols.getD (min a b) []).contains (max a b)
    apply := fun x d =>
      ((st.blks.zipIdx.foldl (fun (r : Values × Nat) e =>
        if e.1.fixed then r
        else (r.1.set! e.2 (e.1.plus (r.1.getD e.2 []) ((List.range e.1.dim).map (fun c => d.getD (r.2 + c) 0))), r.2 + e.1.dim))
        (x, 0)).1, false) }

/-! ### Articulated bodies (R356 to R360) -/

/-- Joint `i` of a body. -/
def Struct.joint (st : Struct) (i : Nat) : Joint := st.joints.getD i ⟨none, 0, []⟩

/-- The axis of a joint. -/
def Joint.axis (j : Joint) : List Nat := j.words.take 3

/-- The skew matrix of a vector. -/
def skew (v : List Nat) : List (List Nat) :=
  let n := f64neg
  [[0, n (at0 v 2), at0 v 1], [at0 v 2, 0, n (at0 v 0)], [n (at0 v 1), at0 v 0, 0]]

/-- The revolute rotation c·1 + s·[a]× + (1 − c)·a aᵀ, term by term (R359). -/
def axisRot (a : List Nat) (q : Nat) : List (List Nat) :=
  let c := f64cos q
  let s := f64sin q
  let k := f64sub f64one c
  (skew a).zipIdx.map (fun r => r.1.zipIdx.map (fun e =>
    let start := if r.2 = e.2 then c else 0
    f64fma (f64mul k (at0 a r.2)) (at0 a e.2) (f64fma s e.1 start)))

/-- The pose of link i in link p: rotation matrix and translation (R359). -/
def Joint.pose (j : Joint) (q : Nat) : List (List Nat) × List Nat :=
  let A := ar64
  let fr := A.rot ((j.words.drop 3).take 4)
  let ft := (j.words.drop 7).take 3
  match j.jtype with
  | 1 => (A.matMul fr (axisRot j.axis q) 3, ft)
  | 2 => (fr, A.vadd (A.matVec fr (j.axis.map (f64mul q)) [0, 0, 0]) ft)
  | _ => (fr, ft)

/-- The quaternion of a rotation matrix, for FK's output: from the greatest of its trace and its diagonal elements
(DESIGN CHOICE, log 44). -/
def quatOf (m : List (List Nat)) : List Nat :=
  let el := fun (i k : Nat) => at0 (m.getD i []) k
  let one := f64one
  let root := fun (a b c : Nat) (neg : Bool) =>
    let s := if neg then f64sub (f64sub (f64add one a) b) c else f64add (f64add (f64add one a) b) c
    f64mul 0x4000000000000000 (f64sqrt s)
  let quarter := fun (s : Nat) => f64mul s 0x3FD0000000000000
  let tr := f64add (f64add (el 0 0) (el 1 1)) (el 2 2)
  let dif := fun (i k s : Nat) => f64div (f64sub (el i k) (el k i)) s
  let sum := fun (i k s : Nat) => f64div (f64add (el i k) (el k i)) s
  if f64lt 0 tr then
    let s := root (el 0 0) (el 1 1) (el 2 2) false
    [quarter s, dif 2 1 s, dif 0 2 s, dif 1 0 s]
  else if f64lt (el 1 1) (el 0 0) && f64lt (el 2 2) (el 0 0) then
    let s := root (el 0 0) (el 1 1) (el 2 2) true
    [dif 2 1 s, quarter s, sum 0 1 s, sum 0 2 s]
  else if f64lt (el 2 2) (el 1 1) then
    let s := root (el 1 1) (el 0 0) (el 2 2) true
    [dif 0 2 s, sum 0 1 s, quarter s, sum 1 2 s]
  else
    let s := root (el 2 2) (el 0 0) (el 1 1) true
    [dif 1 0 s, sum 0 2 s, sum 1 2 s, quarter s]

/-- Link poses in the base frame as rotation and translation (R359). -/
def Struct.links (st : Struct) (qs : List Nat) : Array (List (List Nat) × List Nat) :=
  let A := ar64
  st.joints.zipIdx.foldl (fun (ps : Array (List (List Nat) × List Nat)) e =>
    let rel := e.1.pose (at0 qs e.2)
    match e.1.parent with
    | some p =>
      let b := ps.getD p ([], [])
      ps.push (A.matMul b.1 rel.1 3, A.vadd (A.matVec b.1 rel.2 [0, 0, 0]) b.2)
    | none => ps.push rel) #[]

/-- Link poses in the base frame, seven words each (R358). -/
def Struct.fk (st : Struct) (qs : List Nat) : List (List Nat) := (st.links qs).toList.map (fun l => quatOf l.1 ++ l.2)

/-- The spatial motion transform of a pose, 6 × 6, angular part first: E = Rᵀ, and −E [t]× (R359). -/
def spatialX (pose : List (List Nat) × List Nat) : List (List Nat) :=
  let e := transpose pose.1 3
  let b := (ar64.matMul e (skew pose.2) 3).map (fun r => r.map f64neg)
  e.map (fun r => r ++ [0, 0, 0]) ++ (List.zip b e).map (fun r => r.1 ++ r.2)

/-- S of a joint (R359). -/
def Joint.s (j : Joint) : List Nat :=
  match j.jtype with
  | 1 => j.axis ++ [0, 0, 0]
  | 2 => [0, 0, 0] ++ j.axis
  | _ => List.replicate 6 0

/-- The spatial inertia about the link frame's origin, by the parallel-axis expression (R359). -/
def Joint.inertia (j : Joint) : List (List Nat) :=
  let w := fun (i : Nat) => at0 j.words i
  let m := w 10
  let c := (j.words.drop 11).take 3
  let cc := ar64.dot 0 c c
  let ic := [[w 14, w 15, w 16], [w 15, w 17, w 18], [w 16, w 18, w 19]]
  let mc := (skew c).map (fun r => r.map (f64mul m))
  let top := ic.zipIdx.map (fun r => r.1.zipIdx.map (fun e =>
    let p := f64mul (at0 c r.2) (at0 c e.2)
    f64fma m (f64sub (if r.2 = e.2 then cc else 0) p) e.1))
  let mi := (List.range 3).map (fun i => (List.range 3).map (fun k => if i = k then m else 0))
  (List.zip top mc).map (fun r => r.1 ++ r.2) ++ (List.zip (transpose mc 3) mi).map (fun r => r.1 ++ r.2)

/-- A 6 × 6 matrix times a vector, each row one sum from +0 in ascending index (R338, R359). -/
def mul6 (m : List (List Nat)) (v : List Nat) : List Nat := ar64.matVec m v (List.replicate 6 0)

/-- The rows of two 3 × 3 matrices side by side. -/
def beside (a b : List (List Nat)) : List (List Nat) := (List.zip a b).map (fun r => r.1 ++ r.2)

/-- The 3 × 3 zero matrix. -/
def zero33 : List (List Nat) := List.replicate 3 [0, 0, 0]

/-- v ×m u: the motion cross product, row by row (R359). -/
def crossM (v u : List Nat) : List Nat :=
  let w := skew (v.take 3)
  mul6 (beside w zero33 ++ beside (skew (v.drop 3)) w) u

/-- v ×f f: the force cross product, row by row (R359). -/
def crossF (v f : List Nat) : List Nat :=
  let w := skew (v.take 3)
  mul6 (beside w (skew (v.drop 3)) ++ beside zero33 w) f

/-- A vector times a number. -/
def scale6 (v : List Nat) (k : Nat) : List Nat := v.map (fun e => f64mul e k)

/-- Six zeros. -/
def zero6 : List Nat := List.replicate 6 0

/-- Element `i` of an array of vectors. -/
def vecAt (a : Array (List Nat)) (i : Nat) : List Nat := a.getD i zero6

/-- What a parent index reads: the base's value without one. -/
def ofParent (a : Array (List Nat)) (p : Option Nat) (base : List Nat) : List Nat :=
  match p with
  | some i => vecAt a i
  | none => base

/-- a of the base: −gravity (R359). -/
def Struct.baseAcc (st : Struct) : List Nat := [0, 0, 0] ++ st.gravity.map f64neg

/-- The motion transforms of every joint. -/
def Struct.xs (st : Struct) (qs : List Nat) : Array (List (List Nat)) :=
  (st.joints.zipIdx.map (fun e => spatialX (e.1.pose (at0 qs e.2)))).toArray

/-- v of every link (R359). -/
def Struct.vels (st : Struct) (xs : Array (List (List Nat))) (qd : List Nat) : Array (List Nat) :=
  st.joints.zipIdx.foldl (fun (v : Array (List Nat)) e =>
    v.push (ar64.vadd (mul6 (xs.getD e.2 []) (ofParent v e.1.parent zero6)) (scale6 e.1.s (at0 qd e.2)))) #[]

/-- Recursive Newton-Euler (R359): τ. -/
def Struct.inverse (st : Struct) (qs qd qdd : List Nat) : List Nat :=
  let A := ar64
  let xs := st.xs qs
  let v := st.vels xs qd
  let a := st.joints.zipIdx.foldl (fun (a : Array (List Nat)) e =>
    let i := e.2
    let sq := scale6 e.1.s (at0 qd i)
    a.push (A.vadd (A.vadd (mul6 (xs.getD i []) (ofParent a e.1.parent st.baseAcc)) (scale6 e.1.s (at0 qdd i)))
      (crossM (vecAt v i) sq))) #[]
  let f := st.joints.zipIdx.map (fun e =>
    let m := e.1.inertia
    A.vadd (mul6 m (vecAt a e.2)) (crossF (vecAt v e.2) (mul6 m (vecAt v e.2))))
  ((List.range st.joints.length).foldl (fun (r : Array (List Nat) × List Nat) k =>
    let i := st.joints.length - 1 - k
    let j := st.joint i
    let t := if j.jtype = 0 then 0 else A.dot 0 j.s (vecAt r.1 i)
    let fs := match j.parent with
      | some p => r.1.modify p (fun fp => A.vadd fp (mul6 (transpose (xs.getD i []) 6) (vecAt r.1 i)))
      | none => r.1
    (fs, t :: r.2)) (f.toArray, [])).2

/-- The state of the articulated-body recursion. -/
structure Aba where
  ia   : Array (List (List Nat))
  pa   : Array (List Nat)
  us   : Array (List Nat)
  d    : Array Nat
  u    : Array Nat
  regs : List Nat

/-- Articulated-body recursion (R359): q̈, and the joints whose pivot was regularised, in order (R351). -/
def Struct.forward (st : Struct) (qs qd tau : List Nat) (thresh : Nat) : List Nat × List Nat :=
  let A := ar64
  let n := st.joints.length
  let xs := st.xs qs
  let v := st.vels xs qd
  let cs := (st.joints.zipIdx.map (fun e => crossM (vecAt v e.2) (scale6 e.1.s (at0 qd e.2)))).toArray
  let start : Aba :=
    { ia := (st.joints.map (·.inertia)).toArray
      pa := (st.joints.zipIdx.map (fun e => crossF (vecAt v e.2) (mul6 e.1.inertia (vecAt v e.2)))).toArray
      us := Array.replicate n zero6, d := Array.replicate n 0, u := Array.replicate n 0, regs := [] }
  let r := (List.range n).foldl (fun (k : Aba) q =>
    let i := n - 1 - q
    let j := st.joint i
    let m := k.ia.getD i []
    let pa := vecAt k.pa i
    let us := mul6 m j.s
    let p := pivotTest thresh (A.dot 0 j.s us) (A.dot 0 j.s (mul6 j.inertia j.s))
    let ui := f64sub (at0 tau i) (A.dot 0 j.s pa)
    let moves := j.jtype != 0
    let k := if moves then
        { k with us := k.us.set! i us, d := k.d.set! i p.1, u := k.u.set! i ui, regs := if p.2 then k.regs ++ [i] else k.regs }
      else k
    match j.parent with
    | none => k
    | some par =>
      let x := xs.getD i []
      let xt := transpose x 6
      let ia := if moves then
          m.zipIdx.map (fun r => r.1.zipIdx.map (fun e =>
            f64sub e.1 (f64div (f64mul (at0 us r.2) (at0 us e.2)) p.1)))
        else m
      let pb := A.vadd pa (mul6 ia (vecAt cs i))
      let pb := if moves then A.vadd pb (us.map (fun e => f64div (f64mul e ui) p.1)) else pb
      { k with
        ia := k.ia.modify par (fun b => List.zipWith A.vadd b (A.matMul (A.matMul xt ia 6) x 6))
        pa := k.pa.modify par (fun b => A.vadd b (mul6 xt pb)) }) start
  let out := st.joints.zipIdx.foldl (fun (o : Array (List Nat) × List Nat) e =>
    let i := e.2
    let a' := A.vadd (mul6 (xs.getD i []) (ofParent o.1 e.1.parent st.baseAcc)) (vecAt cs i)
    let qdd := if e.1.jtype = 0 then 0
      else f64div (f64sub (r.u.getD i 0) (A.dot 0 (vecAt r.us i) a')) (r.d.getD i 0)
    (o.1.push (A.vadd a' (scale6 e.1.s qdd)), o.2 ++ [qdd])) (#[], [])
  (out.2, r.regs)

/-- An IK target: joint and pose (R360). -/
structure Target6 where
  joint : Nat
  pose  : List Nat

/-- The joints that move, ascending (R360). -/
def Struct.movers (st : Struct) : List Nat :=
  (st.joints.zipIdx.filter (fun e => e.1.jtype != 0)).map (·.2)

/-- The joint values of an IK state. -/
def Struct.ikQs (st : Struct) (x : Values) : List Nat :=
  let ms := st.movers
  (List.range st.joints.length).map (fun i =>
    if ms.contains i then at0 (x.getD (ms.findIdx (· == i)) []) 0 else 0)

/-- The residuals of IK: one pose difference a target (R360). -/
def Struct.ikResiduals (st : Struct) (ts : List Target6) (x : Values) : List (List Nat) :=
  let ps := (st.fk (st.ikQs x)).toArray
  ts.map (fun t => se3Minus (ps.getD t.joint []) t.pose)

/-- Clamp a joint value into its limits (R360). -/
def Joint.limit (j : Joint) (q : Nat) : Nat × Bool :=
  let lo := at0 j.words 20
  let hi := at0 j.words 21
  if !f64lt lo hi then (q, false)
  else if f64lt q lo then (lo, true)
  else if f64lt hi q then (hi, true)
  else (q, false)

/-- The problem of IK (R360): one VEC(1) block for each joint that moves. -/
def Struct.ikProblem (st : Struct) (ts : List Target6) : Problem :=
  let ms := st.movers
  let n := ms.length
  let unit := List.replicate 6 f64one
  { coords := (List.range n).map (16 * ·)
    cost := fun x => (st.ikResiduals ts x).foldl (fun c r =>
      let w := weighted unit r
      ar64.dot c w w) 0
    normal := fun x =>
      let move := fun (i h : Nat) => st.ikResiduals ts (x.modify i (fun v => [f64add (at0 v 0) h]))
      let cols := (List.range n).map (fun i => List.zipWith jacColumn (move i 0x3EB0000000000000) (move i 0xBEB0000000000000))
      (st.ikResiduals ts x).zipIdx.foldl (fun k r =>
        k.addRows (cols.zipIdx.map (fun c => (c.2, weighted unit (c.1.getD r.2 [])))) (weighted unit r.1)) (Normal.zero n)
    nz := fun _ _ => true
    apply := fun x d =>
      (List.range n).foldl (fun (r : Values × Bool) i =>
        let l := (st.joint (ms.getD i 0)).limit (f64add (at0 (x.getD i []) 0) (d.getD i 0))
        (r.1.set! i [l.1], r.2 || l.2)) (x, false) }

end Sys2Proof.Machine
end

