-- ==== Sys2Proof/Machine/Solver.lean ====
section
/-! DEFINITION. The solver: area, job records, chains, resident structures, deltas, SOLVE and BODY
(13_solver.md). The units are 144 and 145. -/

namespace Sys2Proof.Machine

/-- Unit SUu. -/
def slvUnit (s : State) (u : Nat) : Engine := s.slv.units.getD u ⟨none, []⟩

/-- Change unit SUu. -/
def State.modSlv (s : State) (u : Nat) (f : Engine → Engine) : State :=
  { s with slv := { s.slv with units := s.slv.units.modify u f } }

/-- SLV_STAT as it reads. -/
def slvStatView (s : State) : Word :=
  let busy := fun (u : Nat) => if (slvUnit s u).run.isSome then 1 else 0
  BitVec.ofNat 64 (s.slv.queue.length + busy 0 * 2 ^ 8 + busy 1 * 2 ^ 9 + s.slv.structs.length * 2 ^ 16)

/-- Is the solver enabled? -/
def slvOn (s : State) : Bool := s.bit Reg.slvCtl 0

/-- The solver area in MiB. -/
def slvSpan (s : State) : Nat × Nat := (s.fld Reg.slvArea 34 20, s.fld Reg.slvArea 14 0)

/-- A write of SLV_CTL (R343): an enable checks the area, and begins with no structure (DEDUCED, log 45). -/
def writeSlvCtl (s : State) (v : Word) : State :=
  if slvOn s || !bitOf v 0 then s.setBit Reg.slvCtl 0 (bitOf v 0)
  else
    let p := slvSpan s
    let ok := decide (p.1 + p.2 ≤ s.fld Reg.tirT2Base 14 0)
      && (List.range 8).all (fun c => !spansMeet p (poolSpan s c))
      && !spansMeet p (s.fld Reg.brcArea 34 20, s.fld Reg.brcArea 14 0)
    if ok then { (s.setBit Reg.slvCtl 0 true) with slv := { s.slv with structs := [] } }
    else sticky s Reg.slvErr 5 (some 164)

/-- A write of SLV_AREA (R361). -/
def writeSlvArea (s : State) (v : Word) : State :=
  if slvOn s then s else s.setReg Reg.slvArea (v &&& 0x00000007FFF07FFF)

/-- SOLVER_ENABLE (R343). -/
def execSolverEnable (s : State) : Host.Outcome State Fault Refusal :=
  .next (writeSlvCtl s (putBits (s.reg Reg.slvCtl) 0 0 1))

/-! ### Job records (R339 to R341) -/

/-- JTYPE. -/
def slvType (raw : List Byte) : Nat := bitsOf (wordAt raw 0) 3 0
/-- LM. -/
def slvLm (raw : List Byte) : Bool := bitOf (wordAt raw 0) 6
/-- WARM. -/
def slvWarm (raw : List Byte) : Bool := bitOf (wordAt raw 0) 7
/-- ITERS. -/
def slvIters (raw : List Byte) : Nat := bitsOf (wordAt raw 0) 15 8
/-- MODE. -/
def slvMode (raw : List Byte) : Nat := bitsOf (wordAt raw 0) 19 16
/-- Is the record an IK? -/
def slvIk (raw : List Byte) : Bool := slvType raw == 4 && slvMode raw == 3
/-- SID. -/
def slvSid (raw : List Byte) : Word := wordAt raw 24
/-- DEADLINE. -/
def slvDeadline (raw : List Byte) : Nat := u64At raw 72
/-- THRESH, with its default. -/
def slvThresh (raw : List Byte) : Nat := if u64At raw 88 = 0 then 0x3D719799812DEA11 else u64At raw 88
/-- LAMBDA0, with its default. -/
def slvLambda0 (raw : List Byte) : Nat := if u64At raw 80 = 0 then 0x3F50000000000000 else u64At raw 80
/-- CHAIN. -/
def slvChain (raw : List Byte) : Nat := u16At raw 106

/-- The resident structure of a record. -/
def structOf (s : State) (sid : Word) : Option Struct := s.slv.structs.find? (·.sid == sid)

/-- Why a record is refused as it stands: the codes of REASON from 1 to 4 that apply (R341); `first` for the record that
names the chain. -/
def slvCauses (s : State) (first : Bool) (raw : List Byte) : List Nat :=
  let c := wordAt raw 0
  let ty := slvType raw
  let okA := fun (o align : Nat) => addrOk0 s (wordAt raw o) align
  let named := fun (must : Bool) (o align : Nat) => if must then addrOk s (wordAt raw o) align else okA o align
  let st := structOf s (slvSid raw)
  let kindBad : Bool := match ty, st with
    | 1, k => k.isSome
    | 2, k => k.isNone
    | 3, some k => k.body
    | 4, some k => !k.body
    | 3, none => true
    | 4, none => true
    | _, _ => false
  let th := u64At raw 88
  causes [
    (decide (ty = 0 ∨ 4 < ty ∨ (ty = 4 ∧ 3 < slvMode raw) ∨ bitsOf c 31 20 ≠ 0 ∨ bitsOf c 63 48 ≠ 0 ∨ u32At raw 68 ≠ 0
      ∨ !allZero (sliceB raw 108 20)), 1),
    (!(okA 8 64 && okA 16 8 && named (ty == 1 || ty == 4) 32 1 && named (ty == 3) 40 1
      && named (ty == 3 || ty == 4) 48 1 && named (u32At raw 64 != 0) 56 32 && named (slvIk raw) 96 64), 2),
    (!slvOn s || slvSid raw == 0 || kindBad, 3),
    (decide ((if ty = 3 ∨ slvIk raw then outside (slvIters raw) 1 64 else slvIters raw ≠ 0) ∨ 65536 < u32At raw 64
      ∨ (th ≠ 0 ∧ outside th 0x3C32725DD1D243AC 0x3F50624DD2F1A9FC)
      ∨ (if slvIk raw then outside (u16At raw 104) 1 16 else u16At raw 104 ≠ 0)
      ∨ (if first then 255 < slvChain raw else slvChain raw ≠ 0)), 4)]

/-- A binary64 word as the solver writes it: every NaN is the canonical one (R338). -/
def solverWord (v : Nat) : List Byte := leBytes 8 (if (fmtF64.decode v).isNan then fmtF64.nan else v)

/-- What a record reports beside its status (R341). -/
structure SlvOut where
  flags  : Nat
  iters  : Nat
  best   : Nat
  cost0  : Nat
  cost   : Nat
  npiv   : Nat
  piv0   : Option Nat
  lambda : Nat
  behind : Nat

/-- Nothing to report. -/
def SlvOut.none : SlvOut := ⟨0, 0, 0, 0, 0, 0, Option.none, 0, 0⟩

/-- The solver writes at a global address of the own node: its own area is not barred to it (R343). -/
def slvWrite (s : State) (a : Word) (bs : List Byte) : State × Nat :=
  let la := localOf a
  if slvOn s ∧ nodeOf a = s.node ∧ regionOf la = 0 ∧ !bs.isEmpty ∧ !crossesRegion la bs.length
      ∧ placeCheck (s.setBit Reg.slvCtl 0 false) la bs.length .write none = stOK then
    (settle (writeBytes s la bs), stOK)
  else unitWrite s a bs

/-- What a structure takes in the solver area has changed, and which bytes of the area hold it the spec does not say: the
area's contents are unspecified (R343, R344; DESIGN CHOICE, log 194). -/
def areaStirred (s : State) : State :=
  let p := slvSpan s
  if p.2 = 0 then s else settle (s.fillRange (dramBase + p.1 * 0x100000) (p.2 * 0x100000) false)

/-- The job report (R341). -/
def slvReport (s : State) (j : UJob) (status mst reason : Nat) (o : SlvOut) : List Byte :=
  leBytes 1 status ++ leBytes 1 mst ++ leBytes 1 reason ++ leBytes 1 o.flags ++ leBytes 2 o.iters ++ leBytes 2 o.best
    ++ leBytes 8 o.cost0 ++ leBytes 8 o.cost ++ leBytes 4 (min o.npiv 0xFFFFFFFF) ++ leBytes 4 (o.piv0.getD 0xFFFFFFFF)
    ++ solverWord o.lambda ++ leBytes 8 j.start ++ leBytes 8 s.now ++ leBytes 4 j.slices ++ leBytes 4 o.behind

/-- The record that a job runs. -/
def UJob.current (j : UJob) : List Byte := j.raws.getD j.index []

/-- Records of the job's chain (R340). -/
def UJob.chain (j : UJob) : Nat :=
  let c := slvChain (j.raws.headD [])
  1 + (if 255 < c then 0 else c)

/-- Count a record's end and set its events (R362). -/
def countSlv (s : State) (status flags : Nat) : State :=
  let s :=
    if status = 1 then s.wrapFld Reg.slvCount 31 0 1
    else if status = 2 then sticky (s.satFld Reg.slvCount 47 32 1) Reg.slvErr 0 (some 164)
    else
      let s := s.satFld Reg.slvCount 63 48 1
      if status = 6 then s else sticky s Reg.slvErr 1 (some 164)
  let s := if flags.testBit 0 then sticky s Reg.slvErr 2 (some 165) else s
  let s := if flags.testBit 1 then sticky s Reg.slvErr 3 (some 166) else s
  if flags.testBit 2 then sticky s Reg.slvErr 4 (some 166) else s

/-- A record ends with its report (R341). -/
def endRecord (s : State) (j : UJob) (status mst reason : Nat) (o : SlvOut) : State :=
  let rep := wordAt j.current 8
  let s := if !j.current.isEmpty && rep != 0 && addrOk s rep 64 then (slvWrite s rep (slvReport s j status mst reason o)).1
    else s
  countSlv s status o.flags

/-- A run ends after its last record's `status`: DONE once (R340). -/
def endSlv (s : State) (u : Nat) (j : UJob) (status : Nat) : State :=
  let s := obsEnd s (144 + u) j.q.run status j.taken
  bumpTo s j.q.run.done (j.ok && status == 1) j.q.run.cls

/-- How a record's work ends. -/
structure SlvEnd where
  status : Nat
  mst    : Nat
  reason : Nat
  out    : SlvOut
  crc    : Option Nat

/-- A record that ends without a result. -/
def SlvEnd.stop (status mst reason : Nat) : SlvEnd := ⟨status, mst, reason, .none, none⟩

/-! ### Deltas (R347) -/

/-- Is a delta record invalid for a structure and a record (R347)? -/
def deltaBad (st : Struct) (solve : Bool) (e : List Byte) : Bool :=
  let op := u8At e 0
  let n := u8At e 1
  let w := u16At e 2
  let i := u32At e 4
  let tail := !allZero (sliceB e (8 + 8 * min n 3) (24 - 8 * min n 3))
  let writes := fun (words : Nat) => outside n 1 3 || tail || decide (words < w + n)
  let plain := n != 0 || tail
  match op with
  | 1 => st.body || (match st.facs[i]? with
      | some f => let d := st.dims f; writes (factorWords f.ftype f.m d.1 d.2)
      | none => true)
  | 2 => st.body || plain || decide (st.facs.length ≤ i)
  | 3 => st.body || plain || decide (st.facs.length ≤ i)
  | 4 => !solve || decide (st.blks.length ≤ i) || writes 16
  | 5 => st.body || plain || decide (st.blks.length ≤ i)
  | 6 => st.body || plain || decide (st.blks.length ≤ i)
  | 7 => !st.body || decide (st.joints.length ≤ i) || writes 22
  | 8 => !st.body || writes 3
  | _ => true

/-- Write a delta's words over a list of words. -/
def deltaWords (e : List Byte) (ws : List Nat) : List Nat :=
  (List.range (u8At e 1)).foldl (fun ws k => ws.set (u16At e 2 + k) (u64At e (8 + 8 * k))) ws

/-- Apply a delta to the resident structure (R347). SET_STATE changes only a job's start. -/
def applyDelta (st : Struct) (e : List Byte) : Struct :=
  let i := u32At e 4
  let fac := fun (f : Factor → Factor) => { st with facs := st.facs.modify i f }
  let blk := fun (f : Blk → Blk) => { st with blks := st.blks.modify i f }
  match u8At e 0 with
  | 1 => fac (fun f => { f with params := deltaWords e f.params })
  | 2 => fac (fun f => { f with enabled := true })
  | 3 => fac (fun f => { f with enabled := false })
  | 5 => blk (fun b => { b with fixed := true })
  | 6 => blk (fun b => { b with fixed := false })
  | 7 => { st with joints := st.joints.modify i (fun j => { j with words := deltaWords e j.words }) }
  | 8 => { st with gravity := deltaWords e st.gravity }
  | _ => st

/-- Apply the SET_STATE deltas to a start state (R354). -/
def applyStart (st : Struct) (es : List (List Byte)) (x : Values) : Values :=
  es.foldl (fun x e =>
    if u8At e 0 = 4 then x.modify (u32At e 4) (fun v => (st.blk (u32At e 4)).clean (deltaWords e v)) else x) x

/-- Is a delta record invalid for every structure, because of its own bytes or because it is not a SOLVE's? -/
def deltaBadAlone (solve : Bool) (e : List Byte) : Bool :=
  let op := u8At e 0
  let n := u8At e 1
  let tail := !allZero (sliceB e (8 + 8 * min n 3) (24 - 8 * min n 3))
  if op = 1 ∨ op = 4 ∨ op = 7 ∨ op = 8 then outside n 1 3 || tail || (op == 4 && !solve)
  else if op = 2 ∨ op = 3 ∨ op = 5 ∨ op = 6 then n != 0 || tail
  else true

/-- The delta records of a record: a status and the records. -/
def readDeltas (s : State) (cls : Nat) (raw : List Byte) : State × Nat × List (List Byte) :=
  let n := u32At raw 64
  if n = 0 then (s, stOK, [])
  else
    let r := unitRead s (wordAt raw 56) (32 * n) cls none
    (r.1, r.2.1, if r.2.1 = stOK then (List.range n).map (piece r.2.2 32) else [])

/-- Is one of a record's deltas invalid (R347)? Where no structure is resident the delta's own bytes are judged. -/
def deltasBad (s : State) (raw : List Byte) (es : List (List Byte)) : Bool :=
  let solve := slvType raw == 3
  match structOf s (slvSid raw) with
  | some st => es.any (deltaBad st solve)
  | none => es.any (deltaBadAlone solve)

/-- Read and check a record's deltas (R347): the structure with its deltas applied and the delta records, or how the record
ends. Nothing is changed. -/
def checkDeltas (s : State) (cls : Nat) (raw : List Byte) : State × Except SlvEnd (Struct × List (List Byte)) :=
  match structOf s (slvSid raw) with
  | none => (s, .error (.stop 2 0 3))
  | some st =>
    let r := readDeltas s cls raw
    if r.2.1 ≠ stOK then (r.1, .error (.stop 3 r.2.1 0))
    else if r.2.2.any (deltaBad st (slvType raw == 3)) then (r.1, .error (.stop 2 0 5))
    else (r.1, .ok (r.2.2.foldl applyDelta st, r.2.2))

/-- A resident structure takes new contents (R347). -/
def setStruct (s : State) (st : Struct) (es : List (List Byte)) : State :=
  let s := { s with slv := { s.slv with structs := s.slv.structs.map (fun k => if k.sid == st.sid then st else k) } }
  if es.all (fun e => u8At e 0 == 4) then s else areaStirred s

/-- Read, check and apply a record's deltas (R347): the structure afterwards and the delta records, or how the record
ends. -/
def takeDeltas (s : State) (cls : Nat) (raw : List Byte) : State × Except SlvEnd (Struct × List (List Byte)) :=
  let c := checkDeltas s cls raw
  match c.2 with
  | .ok (st, es) => (setStruct c.1 st es, .ok (st, es))
  | .error e => (c.1, .error e)

/-- REASON of a record as it stands, 0 when it is not refused (R341): an invalid delta comes before anything else (R347),
and of the other codes that apply one is reported, which is free (DESIGN CHOICE, log 9). The deltas of a record without another fault are
checked where they are applied. -/
def slvRefusal (s : State) (cls : Nat) (first : Bool) (raw : List Byte) : State × Nat :=
  let cs := slvCauses s first raw
  if cs.isEmpty then (s, 0)
  else
    let n := u32At raw 64
    let d := if n ≠ 0 ∧ n ≤ 65536 ∧ addrOk s (wordAt raw 56) 32 then readDeltas s cls raw else (s, stOK, [])
    if d.2.1 = stOK ∧ deltasBad d.1 raw d.2.2 = true then (d.1, 5) else pickCode d.1 cs

/-- Begin the record at `j.index` and those after it, until one passes its checks or the chain ends (R340, R341); `last`
is the status of the record before. -/
def beginRecords (u : Nat) : Nat → Nat → State → UJob → State
  | 0, last, s, j => endSlv s u j last
  | k + 1, last, s, j =>
    if j.chain ≤ j.index then endSlv s u j last
    else
      let r := if j.index < j.raws.length then (s, stOK, j.current)
        else unitRead s (j.q.run.job + BitVec.ofNat 64 (128 * j.index)) 128 j.q.run.cls none
      let s := r.1
      let j := { j with
        start := s.now, slices := 0, raws := if j.index < j.raws.length then j.raws else j.raws ++ [r.2.2] }
      let next := fun (st : Nat) (s : State) => beginRecords u k st s { j with index := j.index + 1, ok := false }
      if !slvOn s then next 2 (endRecord s j 2 0 3 .none)
      else if r.2.1 ≠ stOK then next 3 (endRecord s j 3 r.2.1 0 .none)
      else
        let p := slvRefusal s j.q.run.cls (j.index = 0) j.current
        if p.2 ≠ 0 then next 2 (endRecord p.1 j 2 0 p.2 .none)
        else p.1.modSlv u (fun e => { e with run := some j })

/-- A record ends, and the next one begins (R340). -/
def nextRecord (s : State) (u : Nat) (j : UJob) (status mst reason : Nat) (o : SlvOut) : State :=
  let s := s.modSlv u (fun e => { e with run := none })
  let s := endRecord s { j with slices := j.slices + 1 } status mst reason o
  beginRecords u 257 status s { j with index := j.index + 1, ok := j.ok && status == 1 }

/-- The run of an aborted instance ends with the record it stands at (R259, R342, DEDUCED, log 46). -/
def abortSlv (s : State) (u : Nat) (j : UJob) : State := endSlv (endRecord s j 6 0 0 .none) u j 6

/-! ### Launch and take (R335 to R337) -/

/-- The structure IDs of a chain as its records stand (R337). -/
def chainSids (cls : Nat) (job : Word) : Nat → Nat → State → State × List Word
  | 0, _, s => (s, [])
  | k + 1, i, s =>
    let r := unitRead s (job + BitVec.ofNat 64 (128 * i)) 128 cls none
    let t := chainSids cls job k (i + 1) r.1
    (t.1, if r.2.1 = stOK then slvSid r.2.2 :: t.2 else t.2)

/-- A run as it enters the solver's queue (R336). -/
def slvEnter (s : State) (run : Run) : State × QRun :=
  let r := unitRead s run.job 128 run.cls none
  let raw := if r.2.1 = stOK then r.2.2 else []
  let c := wordAt raw 0
  let t := chainSids run.cls run.job (if raw.isEmpty || 255 < slvChain raw then 1 else 1 + slvChain raw) 0 r.1
  (t.1, enterRun t.1 run (wordAt raw 16) (bitsOf c 5 4) (bitsOf c 47 32) t.2)

/-- Queue a run. -/
def State.queueSlv (s : State) (q : QRun) : State :=
  { s with slv := { s.slv with queue := insertBy qBefore q s.slv.queue } }

/-- SOLVER_LAUNCH (R335, R336): one LAUNCH success queues one run, or stays pending with a stall on a full queue. -/
def execSolverLaunch (l : Launcher) (s : State) : Host.Outcome State Fault Refusal :=
  let full := decide (queueCap ≤ s.slv.queue.length)
  match l with
  | .node seq node =>
    match peekLaunch s seq.val node.toNat [4] with
    | none => .next s
    | some (g, n) =>
      if full then
        if n.full then .next s
        else .next (reportFull s seq.val g.gid node.toNat)
      else match takeLaunch s seq.val node.toNat [4] with
        | none => .next s
        | some (s, run) =>
          let t := slvEnter s run
          .next (t.1.queueSlv t.2)
  | .slot n =>
    let i := n.toNat
    let k := s.slv.slots.getD i ⟨0, false, 0⟩
    if 8 ≤ i ∨ !slotAhead s (slvSlot i) k then .next s
    else if full then .next { s with slv := { s.slv with slots := s.slv.slots.set i (k.see s) } }
    else
      let s := { s with slv := { s.slv with slots := s.slv.slots.set i k.take } }
      let t := slvEnter s (slotRun s (slvSlot i) i k)
      .next (t.1.queueSlv t.2)

/-- Structure IDs held by a unit's running and suspended runs (R337). -/
def heldSids (e : Engine) : List Word := (e.run.toList ++ e.susp).flatMap (·.q.sids)

/-- Unit SUu takes a queued run (R260, R336, R341). -/
def takeSlv (s : State) (u : Nat) (r : QRun) : State :=
  let s := obsStart s (144 + u) r.run
  let placed := r.run.job.toNat % 128 == 0 && addrOk s r.run.job 128
  let t := if placed then unitRead s r.run.job 128 r.run.cls none else (s, stOK, [])
  let j : UJob := { q := r, taken := s.now, raws := [t.2.2], index := 0, start := s.now, slices := 0, ok := true, target := none, old := s.snap }
  let s := t.1
  if runAborted s r.run then abortSlv s u j
  else if !slvOn s then beginRecords u 257 1 s (if t.2.1 = stOK then j else { j with raws := [[]] })
  else if !placed then endSlv (endRecord s j 2 0 2 .none) u j 2
  else if t.2.1 ≠ stOK then endSlv (endRecord s j 3 t.2.1 0 .none) u j 3
  else
    match r.waits s with
    | .fail st m => endSlv (endRecord s j st m 0 .none) u j st
    | _ => beginRecords u 257 1 s j

/-- Unit SUu takes or resumes a run: not one whose structure the other unit holds (R337). -/
def nextSlv (s : State) (u : Nat) : State :=
  if unitFenced s (144 + u) then s
  else
    let k := slvUnit s u
    let held := heldSids (slvUnit s (1 - u))
    match choose k s.slv.queue (fun r => r.eligible s (144 + u) && !r.sids.any held.contains) with
    | .stay => s
    | .resume j => obsSlice (s.modSlv u (·.resume j)) (144 + u) 0x07 j.q.run
    | .take r rest =>
      let s := match k.run with
        | some j => obsSlice (s.modSlv u (·.suspend)) (144 + u) 0x06 j.q.run
        | none => s
      takeSlv { s with slv := { s.slv with queue := rest } } u r

/-- SOLVER_RUN_TAKE (R336, R337, R341): an idle unit takes the first eligible run, or resumes a suspended one. -/
def execSolverRunTake (u : Fin 2) (s : State) : Host.Outcome State Fault Refusal :=
  if (slvUnit s u.val).run.isSome then .next s else .next (nextSlv s u.val)

/-! ### LOAD and DROP (R344) -/

/-- A block entry (R345). -/
def parseBlk (w : Word) : Blk := ⟨bitsOf w 1 0, bitsOf w 7 4, bitOf w 8⟩

/-- Is a block entry invalid (R345)? -/
def blkBad (w : Word) : Bool :=
  let b := parseBlk w
  bitsOf w 3 2 != 0 || bitsOf w 63 9 != 0
    || (match b.kind with
        | 0 => b.n == 0
        | 1 => b.n != 0
        | 2 => b.n == 0 || decide (9 < b.n)
        | _ => true)

/-- A factor entry without its parameters (R346). -/
def parseFactor (e : List Byte) : Factor :=
  ⟨u8At e 0, u8At e 1, (u8At e 2).testBit 0, u32At e 4, if u32At e 8 = 0xFFFFFFFF then none else some (u32At e 8), []⟩

/-- Is a factor entry invalid (R346)? -/
def factorBad (s : State) (st : Struct) (e : List Byte) : Bool :=
  let f := parseFactor e
  let isSe3 := fun (k : Nat) => (st.blk k).kind != 0
  let n := st.blks.length
  let bOk := match f.b with
    | some b => decide (b < n)
    | none => true
  decide (1 < u8At e 2) || u8At e 3 != 0 || u32At e 12 != 0 || decide (n ≤ f.a) || !bOk || !addrOk s (wordAt e 16) 8
    || (f.ftype != 5 && f.m != 0)
    || (match f.ftype, f.b with
        | 1, none => false
        | 2, some b => !isSe3 f.a || !isSe3 b
        | 3, some b => (st.blk f.a).kind != 1 || (st.blk b).kind != 0 || (st.blk b).n != 3
        | 4, none => (st.blk f.a).kind != 1
        | 5, _ => outside f.m 1 15
        | _, _ => true)

/-- A joint entry (R357). -/
def parseJoint (e : List Byte) : Joint :=
  ⟨if u16At e 0 = 0xFFFF then none else some (u16At e 0), u8At e 2, (List.range 22).map (fun i => u64At e (8 + 8 * i))⟩

/-- Is joint entry `i` invalid (R356, R357)? -/
def jointBad (i : Nat) (e : List Byte) : Bool :=
  decide (2 < u8At e 2) || !allZero (sliceB e 3 5) || !allZero (sliceB e 184 8)
    || (u16At e 0 != 0xFFFF && decide (i ≤ u16At e 0))

/-- Read the parameter words of every factor; none at a read that fails. -/
def readParams (s : State) (cls : Nat) (st : Struct) (es : List (List Byte)) : State × Nat × List Factor :=
  es.foldl (fun r e =>
    if r.2.1 ≠ stOK then r
    else
      let f := parseFactor e
      let d := st.dims f
      let n := factorWords f.ftype f.m d.1 d.2
      let t := unitRead r.1 (wordAt e 16) (8 * n) cls none
      if t.2.1 ≠ stOK then (t.1, t.2.1, r.2.2)
      else (t.1, stOK, r.2.2 ++ [{ f with params := (List.range n).map (fun i => u64At t.2.2 (8 * i)) }])) (s, stOK, [])

/-- Read the structure record of a least-squares structure: a status, whether it is valid, and the structure. -/
def readLsq (s : State) (cls : Nat) (h : List Byte) (sid : Word) : State × Nat × Option Struct :=
  let nb := u32At h 4
  let nf := u32At h 8
  if outside nb 1 65536 ∨ 1048576 < nf ∨ !addrOk s (wordAt h 16) 8 ∨ (nf ≠ 0 ∧ !addrOk s (wordAt h 24) 8) then (s, stOK, none)
  else
    let b := unitRead s (wordAt h 16) (8 * nb) cls none
    let f := if nf = 0 then (b.1, stOK, []) else unitRead b.1 (wordAt h 24) (24 * nf) cls none
    if b.2.1 ≠ stOK then (f.1, b.2.1, none)
    else if f.2.1 ≠ stOK then (f.1, f.2.1, none)
    else
      let ws := (List.range nb).map (fun i => wordAt b.2.2 (8 * i))
      let es := (List.range nf).map (piece f.2.2 24)
      let st : Struct := ⟨sid, false, ws.map parseBlk, [], [], [], 0⟩
      if ws.any blkBad || es.any (factorBad f.1 st) then (f.1, stOK, none)
      else
        let p := readParams f.1 cls st es
        if p.2.1 ≠ stOK then (p.1, p.2.1, none) else (p.1, stOK, some { st with facs := p.2.2 })

/-- Read the structure record of a body. -/
def readBody (s : State) (cls : Nat) (h : List Byte) (sid : Word) : State × Nat × Option Struct :=
  let n := u32At h 4
  if outside n 1 256 ∨ u32At h 8 ≠ 0 ∨ wordAt h 24 ≠ 0 ∨ !addrOk s (wordAt h 16) 8 then (s, stOK, none)
  else
    let r := unitRead s (wordAt h 16) (192 * n) cls none
    if r.2.1 ≠ stOK then (r.1, r.2.1, none)
    else
      let es := (List.range n).map (piece r.2.2 192)
      if es.zipIdx.any (fun e => jointBad e.2 e.1) then (r.1, stOK, none)
      else (r.1, stOK, some ⟨sid, true, [], [], es.map parseJoint, (List.range 3).map (fun i => u64At h (32 + 8 * i)), 0⟩)

/-- LOAD (R344): the structure becomes resident, with the record's deltas applied (R347). Their own bytes are judged
first, and their places once the structure is known (DESIGN CHOICE, log 107). -/
def runLoad (s : State) (cls : Nat) (raw : List Byte) : State × SlvEnd :=
  let d := readDeltas s cls raw
  let h := if d.2.1 = stOK then unitRead d.1 (wordAt raw 32) 64 cls none else (d.1, d.2.1, [])
  if h.2.1 ≠ stOK then (h.1, .stop 3 h.2.1 0)
  else if d.2.2.any (deltaBadAlone false) then (h.1, .stop 2 0 5)
  else
    let kind := u8At h.2.2 0
    if 1 < kind ∨ !allZero (sliceB h.2.2 1 3) ∨ u32At h.2.2 12 ≠ 0 ∨ u64At h.2.2 56 ≠ 0 then (h.1, .stop 2 0 6)
    else
      let r := if kind = 0 then readLsq h.1 cls h.2.2 (slvSid raw) else readBody h.1 cls h.2.2 (slvSid raw)
      let s := r.1
      if r.2.1 ≠ stOK then (s, .stop 3 r.2.1 0)
      else match r.2.2 with
        | none => (s, .stop 2 0 6)
        | some st =>
          if d.2.2.any (deltaBad st false) then (s, .stop 2 0 5)
          else
          let st := d.2.2.foldl applyDelta st
          let fill := fillCount (fillPattern st.pattern)
          let words := (st.facs.map (·.params.length)).foldl (· + ·) 0
          let bytes := Config.solverBytes st.body (st.blks.length + st.joints.length) st.facs.length words fill
          let used := (s.slv.structs.map (·.bytes)).foldl (· + ·) 0
          if 256 ≤ s.slv.structs.length ∨ (slvSpan s).2 * 0x100000 < used + bytes then (s, .stop 2 0 7)
          else
            (areaStirred { s with slv := { s.slv with structs := s.slv.structs ++ [{ st with bytes := bytes }] } },
             ⟨1, 0, 0, { SlvOut.none with cost0 := fill, cost := bytes }, none⟩)

/-- DROP (R344): the structure's space is free. -/
def runDrop (s : State) (cls : Nat) (raw : List Byte) : State × SlvEnd :=
  let d := checkDeltas s cls raw
  match d.2 with
  | .error e => (d.1, e)
  | .ok _ => ({ d.1 with slv := { d.1.slv with structs := d.1.slv.structs.filter (·.sid != slvSid raw) } }, ⟨1, 0, 0, .none, none⟩)

/-! ### SOLVE (R348 to R355) -/

/-- The slots of a state record. -/
def readSlots (st : Struct) (bs : List Byte) : Values :=
  (st.blks.zipIdx.map (fun e => e.1.clean ((List.range 16).map (fun i => u64At bs (64 + 128 * e.2 + 8 * i))))).toArray

/-- A record that ends before its first iteration, with what it had found (R341, R353, R354). -/
def SlvEnd.early (status mst cost0 : Nat) (warmIgnored : Bool) : SlvEnd :=
  ⟨status, mst, 0, { SlvOut.none with cost0 := cost0, flags := if warmIgnored then 8 else 0 }, none⟩

/-- The start state, λ and whether WARM was ignored (R354). -/
def readStart (s : State) (cls : Nat) (raw : List Byte) (st : Struct) : State × Nat × Values × Nat × Bool :=
  let len := 64 + 128 * st.blks.length
  let warm := if slvWarm raw && wordAt raw 32 != 0 then unitRead s (wordAt raw 32) 64 cls none else (s, stOK, [])
  let fits := slvWarm raw && wordAt raw 32 != 0 && warm.2.1 == stOK && wordAt warm.2.2 0 == slvSid raw
    && u32At warm.2.2 8 == st.blks.length
  if warm.2.1 ≠ stOK then (warm.1, warm.2.1, #[], 0, false)
  else
    let r := unitRead warm.1 (wordAt raw (if fits then 32 else 40)) len cls none
    if r.2.1 ≠ stOK then (r.1, r.2.1, #[], 0, slvWarm raw && !fits)
    else (r.1, stOK, readSlots st r.2.2, if fits then u64At r.2.2 16 else slvLambda0 raw, slvWarm raw && !fits)

/-- How many iterations a record completes (R352): all of ITERS; none when the deadline had passed as it began; a free
number when the deadline passes on the way (DESIGN CHOICE, log 47). The second part says that the deadline ended it. -/
def allowedIters (s : State) (j : UJob) : State × Nat × Bool :=
  let raw := j.current
  let d := slvDeadline raw
  let k := Config.freeBelow s.freeCtr (slvIters raw + 1)
  if d = 0 ∨ s.now < d then (s, slvIters raw, false)
  else if d ≤ j.start then (s, 0, true)
  else (s.bumpFree.bumpFree, k, decide (k < slvIters raw) || Config.freeBelow (s.freeCtr + 1) 2 == 1)

/-- FLAGS of an iteration's end. -/
def iterFlags (t : Iter) (deadline warmIgnored : Bool) : Nat :=
  (if t.npiv = 0 then 0 else 1) + (if deadline then 2 else 0) + (if t.kept then 4 else 0)
    + (if warmIgnored then 8 else 0) + (if t.clamped then 16 else 0)

/-- The state record that a SOLVE writes: header and slots (R354, R355). -/
def stateRecord (st : Struct) (x : Values) (lam cost : Nat) : List Byte × List (List Byte) :=
  (wordBytes st.sid ++ leBytes 4 st.blks.length ++ zeroBytes 4 ++ solverWord lam ++ solverWord cost ++ zeroBytes 32,
   x.toList.map (fun v => v.flatMap solverWord))

/-- As `writePieces`, by the solver. -/
def slvPieces (s : State) (ps : List (Word × List Byte)) : State × Nat × Nat :=
  ps.foldl (fun r p =>
    if r.2.2 ≠ stOK then r
    else
      let w := slvWrite r.1 p.1 p.2
      if w.2 = stOK then (w.1, r.2.1 + 1, stOK) else (w.1, r.2.1, w.2)) (s, 0, stOK)

/-- SOLVE (R348 to R355). -/
def runSolve (s : State) (j : UJob) : State × SlvEnd :=
  let raw := j.current
  let cls := j.q.run.cls
  let d := takeDeltas s cls raw
  match d.2 with
  | .error e => (d.1, e)
  | .ok (st, es) =>
    let b := readStart d.1 cls raw st
    if b.2.1 ≠ stOK then (b.1, .early 3 b.2.1 0 b.2.2.2.2)
    else
      let x := applyStart st es b.2.2.1
      let c0 := st.cost x
      if !f64finite c0 then (b.1, .early 7 0 c0 b.2.2.2.2)
      else
        let k := allowedIters b.1 j
        let lm := slvLm raw
        let t := iterations st.problem lm (slvThresh raw) k.2.1 x c0 b.2.2.2.1
        let lam := if lm then t.lam else 0
        let rec_ := stateRecord st t.bestX lam t.bestC
        let out := wordAt raw 48
        let w := slvPieces k.1 (rec_.2.zipIdx.map (fun e => (out + BitVec.ofNat 64 (64 + 128 * e.2), e.1)) ++ [(out, rec_.1)])
        let o : SlvOut := ⟨iterFlags t k.2.2 b.2.2.2.2, t.done, t.best, c0, t.bestC, t.npiv, t.piv0, lam, st.behind t.bestX⟩
        if w.2.2 ≠ stOK then (w.1, ⟨4, w.2.2, 0, o, none⟩)
        else (w.1, ⟨1, 0, 0, o, if k.2.2 then none else some (crc32 (rec_.1 ++ rec_.2.flatMap (fun e => e))).toNat⟩)

/-! ### BODY (R356 to R360) -/

/-- Third words, velocities and positions of the joint input array (R358). -/
def jointInputs (n : Nat) (bs : List Byte) : List Nat × List Nat × List Nat :=
  let w := fun (o : Nat) => (List.range n).map (fun i => u64At bs (24 * i + o))
  (w 0, w 8, w 16)

/-- Write a body's output and report it (R358). -/
def bodyOut (s : State) (raw : List Byte) (words : List Nat) (o : SlvOut) (sampled : Bool) : State × SlvEnd :=
  let bytes := words.flatMap solverWord
  let o := if words.all f64finite then o else { o with flags := o.flags ||| 32 }
  let w := slvWrite s (wordAt raw 48) bytes
  if w.2 ≠ stOK then (w.1, ⟨4, w.2, 0, o, none⟩)
  else (w.1, ⟨1, 0, 0, o, if sampled then some (crc32 bytes).toNat else none⟩)

/-- The deltas, the structure and the joint inputs of a BODY record. -/
def bodyStart (s : State) (j : UJob) : State × Except SlvEnd (Struct × List Nat × List Nat × List Nat) :=
  let raw := j.current
  let d := takeDeltas s j.q.run.cls raw
  match d.2 with
  | .error e => (d.1, .error e)
  | .ok (st, _) =>
    let r := unitRead d.1 (wordAt raw 32) (24 * st.joints.length) j.q.run.cls none
    if r.2.1 ≠ stOK then (r.1, .error (.stop 3 r.2.1 0)) else (r.1, .ok (st, jointInputs st.joints.length r.2.2))

/-- FK (R358): link poses. -/
def runFk (s : State) (j : UJob) : State × SlvEnd :=
  let b := bodyStart s j
  match b.2 with
  | .error e => (b.1, e)
  | .ok (st, q, _) => bodyOut b.1 j.current ((st.fk q).flatMap (fun p => p ++ [0])) .none true

/-- ID (R359): τ. -/
def runId (s : State) (j : UJob) : State × SlvEnd :=
  let b := bodyStart s j
  match b.2 with
  | .error e => (b.1, e)
  | .ok (st, q, qd, qdd) => bodyOut b.1 j.current (st.inverse q qd qdd) .none true

/-- FD (R359): q̈, with the pivot test. -/
def runFd (s : State) (j : UJob) : State × SlvEnd :=
  let b := bodyStart s j
  match b.2 with
  | .error e => (b.1, e)
  | .ok (st, q, qd, tau) =>
    let r := st.forward q qd tau (slvThresh j.current)
    bodyOut b.1 j.current r.1
      { SlvOut.none with flags := if r.2.isEmpty then 0 else 1, npiv := r.2.length, piv0 := r.2.head? } true

/-- IK (R360). A bad target record refuses the record before its deltas are applied (R342). -/
def runIk (s : State) (j : UJob) : State × SlvEnd :=
  let raw := j.current
  let cls := j.q.run.cls
  let d := checkDeltas s cls raw
  match d.2 with
  | .error e => (d.1, e)
  | .ok (st, _) =>
    let n := u16At raw 104
    let r := unitRead d.1 (wordAt raw 96) (64 * n) cls none
    let es := (List.range n).map (piece r.2.2 64)
    let p := pickCode r.1 (causes [(es.any (fun e => u32At e 4 != 0), 1),
      (es.any (fun e => decide (st.joints.length ≤ u32At e 0)), 4)])
    if r.2.1 = stOK ∧ p.2 ≠ 0 then (p.1, .stop 2 0 p.2)
    else
      let b := bodyStart r.1 j
      match b.2 with
      | .error e => (b.1, e)
      | .ok (st, q, _) =>
        if r.2.1 ≠ stOK then (b.1, .stop 3 r.2.1 0)
        else
          let ts := es.map (fun e => (⟨u32At e 0, (List.range 7).map (fun i => u64At e (8 + 8 * i))⟩ : Target6))
          let pr := st.ikProblem ts
          let x : Values := (st.movers.map (fun i => [at0 q i])).toArray
          let c0 := pr.cost x
          if !f64finite c0 then (b.1, .early 7 0 c0 false)
          else
            let k := allowedIters b.1 j
            let t := iterations pr true (slvThresh raw) k.2.1 x c0 (slvLambda0 raw)
            bodyOut k.1 raw (st.ikQs t.bestX)
              ⟨iterFlags t k.2.2 false, t.done, t.best, c0, t.bestC, t.npiv, t.piv0, t.lam, 0⟩ (!k.2.2)

/-! ### The commands that end a record -/

/-- The record of unit SUu, when `is` accepts it, does its work and ends (R342, R436). -/
def workSlv (s : State) (u : Nat) (is : List Byte → Bool) (work : State → UJob → State × SlvEnd) : State :=
  match (slvUnit s u).run with
  | none => s
  | some j =>
    if !is j.current then s
    else if runAborted s j.q.run then abortSlv (s.modSlv u (fun e => { e with run := none })) u j
    else
      let found := structOf s (slvSid j.current)
      let r := work s j
      let s := chargeDomain s j.q.run.dom r.1
      let c := match r.2.crc with
        | some crc => sampleResult s (144 + u) 2 (slvType j.current) (wordAt j.current 48) crc j.start 0 0 []
            (some { j with old := ⟨[], []⟩ }) found
        | none => (s, none)
      nextRecord (postChecks c.1 c.2.toList) u j r.2.status r.2.mst r.2.reason r.2.out

/-- A slice boundary of unit SUu (R258, R336, R352): ABORT, the deadline of an iterating record, or a higher run. -/
def sliceSlv (s : State) (u : Nat) : State :=
  let s := s.modSlv u (fun e => { e with run := e.run.map (fun j => { j with slices := j.slices + 1 }) })
  let dead := (slvUnit s u).susp.filter (fun j => runAborted s j.q.run)
  let s := s.modSlv u (fun e => { e with susp := e.susp.filter (fun j => !dead.contains j) })
  let s := dead.foldl (fun s j => abortSlv s u j) s
  match (slvUnit s u).run with
  | none => s
  | some j =>
    if runAborted s j.q.run then abortSlv (s.modSlv u (fun e => { e with run := none })) u j
    else
      let d := slvDeadline j.current
      if d ≠ 0 ∧ d ≤ s.now ∧ slvType j.current = 3 then workSlv s u (fun _ => true) runSolve
      else if d ≠ 0 ∧ d ≤ s.now ∧ slvIk j.current then workSlv s u (fun _ => true) runIk
      else nextSlv s u

/-- LOAD (R344). -/
def execLoad (u : Fin 2) (s : State) : Host.Outcome State Fault Refusal :=
  .next (workSlv s u.val (fun r => slvType r == 1) (fun s j => runLoad s j.q.run.cls j.current))

/-- DROP (R344). -/
def execDropStructure (u : Fin 2) (s : State) : Host.Outcome State Fault Refusal :=
  .next (workSlv s u.val (fun r => slvType r == 2) (fun s j => runDrop s j.q.run.cls j.current))

/-- SOLVE (R348). -/
def execSolve (u : Fin 2) (s : State) : Host.Outcome State Fault Refusal :=
  .next (workSlv s u.val (fun r => slvType r == 3) runSolve)

/-- BODY_FK (R358). -/
def execBodyFk (u : Fin 2) (s : State) : Host.Outcome State Fault Refusal :=
  .next (workSlv s u.val (fun r => slvType r == 4 && slvMode r == 0) runFk)

/-- BODY_ID (R359). -/
def execBodyId (u : Fin 2) (s : State) : Host.Outcome State Fault Refusal :=
  .next (workSlv s u.val (fun r => slvType r == 4 && slvMode r == 1) runId)

/-- BODY_FD (R359). -/
def execBodyFd (u : Fin 2) (s : State) : Host.Outcome State Fault Refusal :=
  .next (workSlv s u.val (fun r => slvType r == 4 && slvMode r == 2) runFd)

/-- BODY_IK (R360). -/
def execBodyIk (u : Fin 2) (s : State) : Host.Outcome State Fault Refusal :=
  .next (workSlv s u.val (fun r => slvType r == 4 && slvMode r == 3) runIk)

end Sys2Proof.Machine
end

