-- ==== Sys2Proof/Machine/Integrity.lean ====
section
/-! DEFINITION. Checks, arbitration, tests, fences and device-minutes (17_integrity_and_fault_handling.md). -/

namespace Sys2Proof.Machine

/-! ### Checks and arbitration (R437 to R441) -/

/-- Take a check off the list. -/
def State.dropCheck (s : State) (id : Nat) : State :=
  { s with integ := { s.integ with checks := s.integ.checks.filter (·.id != id) } }

/-- The work of a vision run by its type. -/
def visWork (ty : Nat) : State → Snap → Nat → List Byte → State × VisEnd :=
  if ty = 1 then runDetect else if ty = 2 then runMatch else if ty = 3 then runStereo else runFlow

/-- The work of a solver record whose result may be sampled. -/
def slvWork (raw : List Byte) : State → UJob → State × SlvEnd :=
  if slvType raw = 3 then runSolve else if slvMode raw = 0 then runFk else if slvMode raw = 1 then runId
  else if slvMode raw = 2 then runFd else runIk

/-- A solver record as a checker recomputes it: in C1 and to its full ITERS, since no result at a deadline is sampled (R352,
R436, R437). -/
def checkJob (j : UJob) : UJob :=
  let raw := j.current
  { j with raws := j.raws.set j.index (raw.take 72 ++ zeroBytes 8 ++ raw.drop 80)
           q := { j.q with run := { j.q.run with cls := 1 } } }

/-- Unit `k` recomputes a sampled result from the operands as they stand, in C1, into check buffers (R437): the CRC of its
output, which is empty where an operand cannot be read. A solver record starts from the structure that the producer found
(DESIGN CHOICE, log 196). -/
def recompute (s : State) (c : Check) (k : Nat) : State × Nat :=
  if c.kind = 0 then
    let l := parseLayer c.desc
    let r := readOperands s k 1 s.snap l
    (r.1, (crc32 (l.outTile r.1.ftab r.2.1 c.tile).bytes).toNat)
  else match c.job with
    | none => (s, 0)
    | some j =>
      if c.kind = 1 then (s, (crc32 (visWork c.op s s.snap 1 j.raw).2.out.bytes).toNat)
      else
        let t : State := { s with slv := { s.slv with structs := c.struct.toList } }
        (s, ((slvWork j.current t (checkJob j)).2.crc).getD 0)

/-- The CRC that unit `k` gives: that of its recomputation, with the bits inverted that a fault of the silicon changes; a
sound unit has none (DESIGN CHOICE, log 196). -/
def unitCrc (s : State) (c : Check) (k : Nat) (fault : BitVec 32) : State × Nat :=
  let r := recompute s c k
  (r.1, (BitVec.ofNat 32 r.2 ^^^ fault).toNat)

/-- The suspect-window record of a mismatch (R441). -/
def windowBytes (c : Check) (seq last : Nat) : List Byte :=
  leBytes 8 seq ++ leBytes 8 c.fedge ++ leBytes 8 (min last (c.fedge + 1)) ++ wordBytes c.addr ++ leBytes 8 c.pstart
    ++ leBytes 2 c.object ++ leBytes 2 c.unit ++ leBytes 2 c.layer ++ leBytes 1 c.kind ++ leBytes 1 0
    ++ leBytes 4 c.tile ++ zeroBytes 12

/-- A mismatch (R440, R441, R462): the event, the window with its buoy, and arbitration. -/
def mismatch (s : State) (c : Check) (got : Nat) : State :=
  let s := s.satFld Reg.chkCount 47 32 1
  let s := sticky s Reg.chkErr 0 none
  let w := windowBytes c s.integ.seq (lampEdgeNo s)
  -- EXPECT is the checker's CRC and GOT the producer's (DEDUCED, log 62)
  let s := journal s ⟨c.unit, 1, c.op, c.addr, 0, got, c.crc, c.checker, 0xFFFF⟩ w
  let s := (hwStore s (s.reg Reg.chkSwRing + BitVec.ofNat 64 (s.integ.windows % 64 * 64)) w).1
  let s := { s with integ := { s.integ with windows := s.integ.windows + 1 } }
  let s := raise (bumpTo s (s.reg Reg.chkSwBuoy) true 3) 184
  let s := freezeCause (if c.kind = 0 then raiseCluster s c.unit 33 else s) 2
  { s with integ := { s.integ with arbs := s.integ.arbs ++
      [⟨c, got, if c.kind = 2 then 0xFFFF else nextChecker s c.checker⟩] } }

/-- CHECK_COMPLETE (R437, R439, R440): the checker recomputes the result and compares CRCs, before edge F + 2 or in its
cycle. -/
def execCheckComplete (id : Nat) (fault : BitVec 32) (s : State) : Host.Outcome State Fault Refusal :=
  match s.integ.checks.find? (·.id == id) with
  | none => .next s
  | some c =>
    if c.fedge + 2 < lampEdgeNo s then .next s
    else
      let r := unitCrc s c c.checker fault
      let s := (r.1.dropCheck id).wrapFld Reg.chkCount 31 0 1
      .next (if r.2 = c.crc then s else mismatch s c r.2)

/-- CHECK_LAPSE (R439): a check unfinished at edge F + 2. -/
def execCheckLapse (id : Nat) (s : State) : Host.Outcome State Fault Refusal :=
  match s.integ.checks.find? (·.id == id) with
  | none => .next s
  | some c =>
    if lampEdgeNo s < c.fedge + 2 then .next s
    else
      let s := (s.dropCheck id).satFld Reg.chkCount 63 48 1
      let s := sticky s Reg.chkErr 2 (some 188)
      .next (journal s ⟨c.unit, 4, c.op, c.addr, 0, 0, 0, c.checker, 0xFFFF⟩ [])

/-- The ARBITRATED event of a unit (R440): EXPECT is the CRC it should have had, GOT the one it gave (DEDUCED, log 62). -/
def arbitrated (a : Arb) (unit expect got : Nat) (s : State) : State :=
  let other := if unit = a.check.unit then a.check.checker else a.check.unit
  chargeEvent s ⟨unit, 2, a.check.op, a.check.addr, 0, expect, got, other, a.arbiter⟩

/-- ARBITRATION_COMPLETE (R440): the arbiter recomputes the result, by one fault; for the solver the producer and the
checker do, by two. -/
def execArbitrationComplete (id : Nat) (faults : List (BitVec 32)) (s : State) : Host.Outcome State Fault Refusal :=
  match s.integ.arbs.find? (·.check.id == id) with
  | none => .next s
  | some a =>
    let s1 := { s with integ := { s.integ with arbs := s.integ.arbs.filter (·.check.id != id) } }
    let p := a.check.unit
    let k := a.check.checker
    match decide (a.check.kind = 2), faults with
    | true, [x, y] =>
      let u := unitCrc s1 a.check p x
      let v := unitCrc u.1 a.check k y
      let pOk := u.2 == a.check.crc
      let kOk := v.2 == a.got
      let both := pOk && kOk
      let s := if !pOk || both then arbitrated a p a.check.crc u.2 v.1 else v.1
      .next (if !kOk || both then arbitrated a k a.got v.2 s else s)
    | false, [x] =>
      let u := unitCrc s1 a.check a.arbiter x
      let s := if u.2 = a.check.crc then u.1 else arbitrated a p u.2 a.check.crc u.1
      .next (if u.2 = a.got then s else arbitrated a k u.2 a.got s)
    | _, _ => .next s

/-! ### Idle-slot tests (R446, R447) -/

/-- The UKIND that tests a unit (R448). -/
def testKind (u : Nat) : Option Nat :=
  if u < 8 then some 0 else if u < 136 then some 1 else if u < 140 then some 2 else if u < 144 then some 3
  else if u < 146 then some 4 else none

/-- Is the unit's queue empty (R446)? A strand processor's is the READY strands of its cluster's pool (DEDUCED, log 65). -/
def unitIdle (s : State) (u : Nat) : Bool :=
  if u < 8 then (cluOf s u).queue.isEmpty
  else if u < 136 then !(clusterStrands s ((u - 8) / 16)).any (fun t => t.state == 1 && !t.resident)
  else if u < 140 then s.vis.fqueue.isEmpty
  else if u < 144 then s.vis.bqueue.isEmpty
  else s.slv.queue.isEmpty

/-- Has the unit's test gap passed (R446)? -/
def gapPassed (s : State) (u : Nat) : Bool :=
  match s.integ.lastTest.find? (fun e => e.1 == u) with
  | none => true
  | some e => decide (e.2 + s.fld Reg.chkCtl 23 8 ≤ s.integ.minutes)

/-- Write the chunks of a test into the scratch range of its content (R448). -/
def writeTest (s : State) (t : TestRun) : State :=
  ((chunksOf (t.raw.drop 32)).getD []).foldl (fun s c =>
    s.store (t.scratch + c.dst) (if c.zero then zeroBytes c.len else c.data)) s

/-- Start the first test that waits: its chunks stand in the scratch range. -/
def startTest (s : State) : State :=
  match s.integ.tests with
  | [] => s
  | t :: _ => writeTest s t

/-- IDLE_TEST (R446): the tests of an idle unit whose gap has passed, one unit at a time, in P0 and P1. -/
def execIdleTest (unit : Nat) (s : State) : Host.Outcome State Fault Refusal :=
  match testKind unit, contentEntries s.integ.content with
  | some k, some es =>
    let mine := es.filter (fun e => u16At e 0 == k)
    if s.bit Reg.chkCtl 6 && decide (pState s < 2) && s.integ.tests.isEmpty && !mine.isEmpty && unitIdle s unit
        && gapPassed s unit && !unitFenced s unit then
      let s := { s with integ := { s.integ with
        tests := mine.map (fun e => ⟨unit, e, u64At s.integ.content 24, 3⟩)
        lastTest := (unit, s.integ.minutes) :: s.integ.lastTest.filter (fun e => e.1 != unit) } }
      .next (startTest s)
    else .next s
  | _, _ => .next s

/-- TEST_COMPLETE (R447): the CRC of the output range, and whether the job ended with OK. A failed test runs twice more;
what it leaves in the scratch range is unspecified (DEDUCED, log 6). -/
def execTestComplete (unit : Nat) (crc : BitVec 32) (ok : Bool) (s : State) : Host.Outcome State Fault Refusal :=
  match s.integ.tests with
  | [] => .next s
  | t :: rest =>
    if t.unit ≠ unit then .next s
    else
      let expect := u32At t.raw 24
      let pass := ok && crc.toNat == expect
      let left := if pass then (if t.left = 3 then 0 else t.left - 1) else t.left - 1
      let s := s.fillRange t.scratch scratchLen false
      let s := { s with integ := { s.integ with tests := if left = 0 then rest else { t with left := left } :: rest } }
      let s :=
        if pass then s
        else
          let s := raiseCluster (sticky s Reg.chkErr 1 (some 185)) unit 34
          chargeEvent s ⟨unit, 3, 0, 0, u32At t.raw 4, expect, crc.toNat, 0xFFFF, 0xFFFF⟩
      .next (startTest s)

/-! ### Loading test content (R449, R469) -/

/-- The bytes of the entries of a blob on the own node: none where one cannot be read or is malformed. -/
def readEntries : Nat → State → Word → State × Option (List Byte)
  | 0, s, _ => (s, some [])
  | n + 1, s, a =>
    let r := unitRead s a 32 3 none
    let len := u32At r.2.2 8
    if r.2.1 ≠ stOK ∨ len < 32 ∨ len % 16 ≠ 0 then (r.1, none)
    else
      let b := unitRead r.1 a len 3 none
      if b.2.1 ≠ stOK then (b.1, none)
      else
        let t := readEntries n b.1 (a + BitVec.ofNat 64 len)
        (t.1, t.2.map (b.2.2 ++ ·))

/-- The content and the signature block of a blob. -/
def readBlob (s : State) (a : Word) : State × Option (List Byte × List Byte) :=
  let h := unitRead s a 64 3 none
  if h.2.1 ≠ stOK ∨ !testHeaderOk h.2.2 then (h.1, none)
  else
    let e := readEntries (u32At h.2.2 16) h.1 (a + 64)
    match e.2 with
    | none => (e.1, none)
    | some es =>
      let g := unitRead e.1 (a + BitVec.ofNat 64 (64 + es.length)) sigLen 3 none
      (g.1, if g.2.1 = stOK then some (h.2.2 ++ es, g.2.2) else none)

/-- The result of a load (R449): a blob whose extent cannot be found is FORMAT; then the four checks in order. The
current SVN is that of the content in use (DEDUCED, log 64). -/
def loadResult (s : State) (blob : Option (List Byte × List Byte)) : Nat :=
  match blob with
  | none => 4
  | some (b, g) =>
    if !sigOk s g b then 2
    else if u32At b 20 < u32At s.integ.content 20 ∨ tcver b ≤ (s.reg Reg.chkTcver).toNat then 3
    else if (contentEntries b).isNone then 4
    else 1

/-- A write of CHK_TC_LOAD (R449): the load, its result, its event and CHK_ERR.TC_LOAD. The spec names no unit for the
event (free, log 7). -/
def tcLoad (s : State) (a : Word) : State :=
  let r := readBlob s (a &&& ~~~0xFFF)
  let s := r.1
  let res := loadResult s r.2
  let s := s.setFld Reg.chkTcStat 7 0 res
  let s := match r.2 with
    | some (b, _) =>
      if res = 1 then
        { s with integ := { s.integ with content := b, loaded := b } }.setReg Reg.chkTcver (BitVec.ofNat 64 (tcver b))
      else s
    | none => s
  let e := plainEvent (Config.freeBelow s.freeCtr 65536) 10
  sticky (journal s.bumpFree { e with detail := res } []) Reg.chkErr 6 (some 190)

/-- TC_LOAD (R449). -/
def execTcLoad (value : Word) (s : State) : Host.Outcome State Fault Refusal := .next (tcLoad s value)

/-! ### Unit commands (R453, R456 to R458) -/

/-- Device-minutes from which units are rated (R453). -/
abbrev ratedFrom : Nat := 12000

/-- The fence of a unit is undone. -/
def State.unfence (s : State) (u : Nat) : State :=
  { s with integ := { s.integ with fencing := s.integ.fencing.filter (· != u) } }

/-- CMD 1 (R458): level 0, and the rating of a unit without a classification. -/
def unitReset (s : State) (u : Nat) : State :=
  if 164 ≤ u then s
  else
    let s := setUnit (s.unfence u) u (if ratedFrom ≤ s.integ.minutes then 1 else 0) 0
    responseEvent s u

/-- CMD 2 (R457, R458). -/
def unitFence (s : State) (u : Nat) : State := if 164 ≤ u then s else fenceUnit s u

/-- CMD 3 (R458): a fenced unit works again; the spec does not say at which level and rating (free, log 63). -/
def unitUnfence (s : State) (u : Nat) : State :=
  if 164 ≤ u then s
  else if unitFenced s u then
    let s := setUnit (s.unfence u) u (Config.freeBelow s.freeCtr 3) (Config.freeBelow (s.freeCtr + 1) 7)
    responseEvent s.bumpFree.bumpFree u
  else responseEvent s u

/-- A write of CHK_UNIT_CMD (R458): other commands are ignored. -/
def writeUnitCmd (s : State) (v : Word) : State :=
  let u := bitsOf v 15 0
  match bitsOf v 19 16 with
  | 1 => unitReset s u
  | 2 => unitFence s u
  | 3 => unitUnfence s u
  | _ => s

/-- UNIT_RESET (R458). -/
def execUnitReset (unit : BitVec 16) (s : State) : Host.Outcome State Fault Refusal := .next (unitReset s unit.toNat)

/-- UNIT_FENCE (R457, R458). -/
def execUnitFence (unit : BitVec 16) (s : State) : Host.Outcome State Fault Refusal := .next (unitFence s unit.toNat)

/-- UNIT_UNFENCE (R458). -/
def execUnitUnfence (unit : BitVec 16) (s : State) : Host.Outcome State Fault Refusal :=
  .next (unitUnfence s unit.toNat)

/-! ### The effect of a fence (R456) -/

/-- A fenced cluster hands its programs on: those it has taken wait, suspended, for their next layer. -/
def moveCluster (s : State) (c : Nat) : State :=
  let k := cluOf s c
  let dest := runsOn s c
  let s := s.modClu c (fun _ => { queue := [], run := none, susp := [] })
  let s := s.modClu dest (fun t => { t with susp := t.susp ++ k.susp ++ k.run.toList })
  k.queue.foldl (fun s r => s.modClu dest (fun t => { t with queue := insertBy runBefore r t.queue })) s

/-- A fenced engine hands its runs on, suspended at this slice boundary. -/
def moveEngine (es : List Engine) (fst dest : Nat) : List Engine :=
  let e := es.getD fst ⟨none, []⟩
  (es.set fst ⟨none, []⟩).modify dest (fun t => { t with susp := t.susp ++ e.susp ++ e.run.toList })

/-- Checks of a fenced checker (R456): the oldest may have started and then finishes; the spec gives no moment at which
a check starts (free, log 66). The others go to the next checker. -/
def moveChecks (s : State) (u : Nat) : State :=
  let mine := s.integ.checks.filter (·.checker == u)
  match mine with
  | [] => s
  | c :: _ =>
    let keep := Config.freeBelow s.freeCtr 2 = 1
    let dest := nextChecker s u
    { s.bumpFree with integ := { s.integ with checks := s.integ.checks.map (fun d =>
        if d.checker == u && !(d.id == c.id && keep) then { d with checker := dest } else d) } }

/-- FENCE_EFFECT (R456): the next boundary of a fenced unit. A cluster inside a layer has not reached one; a strand with
posted stores under way stays until they complete. -/
def execFenceEffect (unit : BitVec 16) (s : State) : Host.Outcome State Fault Refusal :=
  let u := unit.toNat
  if !s.integ.fencing.contains u then .next s
  else if u < 8 then
    if ((cluOf s u).run.map (·.inLayer)).getD false then .next s
    else .next (moveChecks (moveCluster (s.unfence u) u) u)
  else if u < 136 then
    let mine := fun (s : State) => (clusterStrands s ((u - 8) / 16)).filter (fun t => t.resident && t.proc == (u - 8) % 16)
    let s := ((mine s).map (·.id)).foldl parkId s
    .next (if (mine s).isEmpty then s.unfence u else s)
  else if u < 144 then
    let dest := nextChecker s u
    .next (moveChecks { (s.unfence u) with vis := { s.vis with
      engines := moveEngine s.vis.engines (u - 136) (dest - 136) } } u)
  else
    .next (moveChecks { (s.unfence u) with slv := { s.slv with
      units := moveEngine s.slv.units (u - 144) (145 - u) } } u)

/-! ### Device-minutes (R453, R454) -/

/-- DEVICE_MINUTE (R453): a minute of P0 or P1 has passed. -/
def execDeviceMinute (s : State) : Host.Outcome State Fault Refusal :=
  if 2 ≤ pState s ∨ s.power.thermtrip ∨ s.power.off then .next s
  else
    let m := (s.integ.minutes + 1) % 2 ^ 32
    let old := s.integ.charged.filter (fun e => decide (e.2 + 60000 ≤ m))
    let s := { s with integ := { s.integ with
      minutes := m, charged := s.integ.charged.filter (fun e => !decide (e.2 + 60000 ≤ m)) } }
    let s := s.setFld Reg.chkMinutes 31 0 m
    let s := old.foldl (fun s e => showUnit s e.1) s
    if m = ratedFrom then
      .next ((List.range 164).foldl (fun s u =>
        if (unitSum s u).rating = 0 then setUnit s u 1 (unitSum s u).level else s) s)
    else .next s

end Sys2Proof.Machine
end

