-- ==== Sys2Proof/Machine/ObsOps.lean ====
section
/-! DEFINITION. Trace buffers and their drain, the freeze trigger, and the commands of the interrupt block (R486 to R494,
R498 to R507). -/

namespace Sys2Proof.Machine

/-! ### Trace buffers (R487, R488) -/

/-- An observation access is refused (R493): it returns 0 or does nothing, and DENIED is set. -/
def obsDenied (s : State) : State := sticky s Reg.obsErr 1 (some 204)

/-- The trace buffer's ring: in unmanaged DRAM or a writable object of the own node, 2^LOG2 bytes (R487). -/
def traceRingOk (s : State) (n : Nat) : Bool :=
  let r := s.reg (Reg.obsTrRing n)
  let k := bitsOf r 4 0
  let a := r &&& ~~~0xFFFF
  decide (16 ≤ k) && decide (k ≤ 30) && ringOk s a (2 ^ k) && decide (regionOf (localOf a) ≤ 1)

/-- A write of OBS_TRn_CTL (R487, R488, R493). -/
def writeTrCtl (s : State) (n : Nat) (v : Word) : State :=
  let lvl := debugLevel s
  if lvl = 0 ∨ (bitsOf v 23 22 = 3 ∧ lvl < 3) then obsDenied s
  else
    let on := s.bit (Reg.obsTrCtl n) 0
    let pre := bitsOf v 39 27
    let v := putBits v 52 40 (min (bitsOf v 52 40) (8190 - pre))
    let v := v &&& 0x1FFFFFF8C3FFFF#64
    let s := s.setReg (Reg.obsTrCtl n) (putBits v 0 0 (if on then bitsOf v 0 0 else 0))
    if bitOf v 0 && !on then
      if traceRingOk s n then
        let s := (s.setReg (Reg.obsTrWrpos n) 0).setTrBuf n ⟨[], 0, none⟩
        (s.setBit (Reg.obsTrCtl n) 0 true).setBit Reg.obsStat n false
      else sticky s Reg.obsErr 0 (some 205)
    else s

/-- TRACE_ENABLE (R487): EN is written as 1. -/
def execTraceEnable (n : Fin 12) (s : State) : Host.Outcome State Fault Refusal :=
  .next (writeTrCtl s n.val (s.reg (Reg.obsTrCtl n.val) ||| 1))

/-- The records that the ring has room for (R487): the difference of the counts is taken modulo 2^48 in the sense of R35
(DESIGN CHOICE, log 48). What the drain knows at this moment of a buoy of another node is free (DESIGN CHOICE, log 193). -/
def ringRoom (s : State) (n : Nat) : Nat :=
  let rel := s.reg (Reg.obsTrRelease n)
  let cap := 2 ^ s.fld (Reg.obsTrRing n) 4 0 / 32
  let d := ((s.reg (Reg.obsTrWrpos n)).toNat + 2 ^ 48 - (countsOf s rel).1) % 2 ^ 48
  if rel = 0 then cap
  else if nodeOf rel ≠ s.node then Config.freeBelow s.freeCtr (cap + 1)
  else if 2 ^ 47 ≤ d then cap + (2 ^ 48 - d) else cap - d

/-- The state after the drain has looked at RELEASE: the next look at one of another node is a new one. -/
def lookedRoom (s : State) (n : Nat) : State :=
  let rel := s.reg (Reg.obsTrRelease n)
  if rel ≠ 0 ∧ nodeOf rel ≠ s.node then s.bumpFree else s

/-- Put a record at the drain position of its ring. -/
def drainRec (n : Nat) (s : State) (r : ObsRec) : State :=
  let ring := s.reg (Reg.obsTrRing n)
  let pos := (s.reg (Reg.obsTrWrpos n)).toNat
  let off := 32 * pos % 2 ^ bitsOf ring 4 0
  let s := unitPut s ((ring &&& ~~~0xFFFF) + BitVec.ofNat 64 off) (obsBytes r)
  let s := s.setReg (Reg.obsTrWrpos n) (BitVec.ofNat 64 (pos + 1))
  if r.event = 0x0F then sticky (s.satFld (Reg.obsTrCount n) 31 0 r.arg0) Reg.obsErr 2 (some 201) else s

/-- The LOST record that is due: before the other records, or behind them under STOP (R488). -/
def dueLost (s : State) (n : Nat) : State :=
  let b := trBuf s n
  if b.lost = 0 then s
  else
    let e := bufRec s n 0x0F 0 b.lost
    let stop := s.fld (Reg.obsTrCtl n) 23 22 == 1
    e.1.setTrBuf n { b with lost := 0, recs := if stop then b.recs ++ [e.2] else e.2 :: b.recs }

/-- One chunk drains, as far as the ring has room (R487, R493): the session's level decides which records. -/
def drainChunk (s : State) (n : Nat) : State :=
  let stop := s.fld (Reg.obsTrCtl n) 23 22 == 1
  let room := ringRoom s n
  let s := lookedRoom s n
  let s := if stop || room == 0 then s else dueLost s n
  let b := trBuf s n
  let k := min (min 64 room) b.recs.length
  if k = 0 then s
  else
    let sees := levelSees (debugLevel s) (s.fld Reg.secDebug 31 16)
    let out := (b.recs.take k).filter sees
    let s := s.setTrBuf n { b with recs := b.recs.drop k }
    let s := bumpTo (out.foldl (drainRec n) s) (s.reg (Reg.obsTrBuoy n)) true 3
    let s := if stop then dueLost s n else s
    if b.post = some 0 ∧ (trBuf s n).recs.isEmpty then raise s 203 else s

/-- Is a chunk of the buffer due (R487): 64 records wait, the oldest has waited 10 µs, or a capture has ended? -/
def chunkDue (s : State) (b : TraceBuf) : Bool :=
  decide (64 ≤ b.recs.length) || b.recs.any (fun r => decide (r.stamp + 10000 ≤ s.now)) || b.post == some 0

/-- TRACE_DRAIN (R487, R488): a chunk that is due moves; a TRIGGER buffer drains only when its capture has ended. -/
def execTraceDrain (n : Fin 12) (s : State) : Host.Outcome State Fault Refusal :=
  let b := trBuf s n.val
  if !s.bit (Reg.obsTrCtl n.val) 0 || debugLevel s == 0 || !chunkDue s b
      || (s.fld (Reg.obsTrCtl n.val) 23 22 == 2 && b.post != some 0) then .next s
  else .next (drainChunk s n.val)

/-! ### The freeze trigger (R490) -/

/-- THAW (R490): RING and STOP buffers accept records again, the last-event rings go on, OUTPIN clears. A TRIGGER capture
stands until EN is written 0 and then 1 (R488, DEDUCED, log 69). -/
def thaw (s : State) : State :=
  let s := (List.range 12).foldl (fun s n =>
    if s.fld (Reg.obsTrCtl n) 23 22 = 2 then s else s.setBit Reg.obsStat n false) s
  let s := s.setBit Reg.obsStat 16 false
  { s with obs := { s.obs with causes := 0, outpin := false } }

/-- A write of OBS_FREEZE_CTL (R490, R493). -/
def writeFreezeCtl (s : State) (v : Word) : State :=
  if debugLevel s = 0 then obsDenied s
  else
    let s := s.setReg Reg.obsFreezeCtl (v &&& 0xFFFF803F)
    let s := if bitOf v 32 then freezeCause s 0 else s
    if bitOf v 33 then thaw s else s

/-- The number of a cause bit (R490). -/
def causeBit : FreezeCause → Nat
  | .overrun => 1
  | .mismatch => 2
  | .linkFailed => 3
  | .inpin => 4
  | .source => 5

/-- FREEZE (R490): a cause occurs. -/
def execFreeze (cause : FreezeCause) (s : State) : Host.Outcome State Fault Refusal :=
  .next (freezeCause s (causeBit cause))

/-- FIRE (R490): the software cause. -/
def execFire (s : State) : Host.Outcome State Fault Refusal :=
  .next (writeFreezeCtl s (s.reg Reg.obsFreezeCtl ||| 0x100000000))

/-- THAW (R490). -/
def execThaw (s : State) : Host.Outcome State Fault Refusal :=
  .next (writeFreezeCtl s (s.reg Reg.obsFreezeCtl ||| 0x200000000))

/-- A write of OBS_MARK (R485, R493): which unit of the buffer the record names, and its class, domain and GLOBAL, the
spec does not say (free, log 7). -/
def writeMark (s : State) (v : Word) : State :=
  let n := bitsOf v 3 0
  if debugLevel s = 0 then obsDenied s
  else if 12 ≤ n then s
  else
    let e := bufRec s n 0x0D 0 (v &&& ~~~0xF).toNat
    let attr := e.2.attr / 128 * 128 + Config.freeBelow e.1.freeCtr 128
    obsPush e.1.bumpFree { e.2 with attr := attr }

/-- MARK (R485). -/
def execMark (value : Word) (s : State) : Host.Outcome State Fault Refusal := .next (writeMark s value)

/-! ### The interrupt block (R498 to R507) -/

/-- Sources that no chapter defines, or that one reserves (R497). -/
def sourceReserved (src : Nat) : Bool :=
  let within := fun (lo hi : Nat) => decide (lo ≤ src) && decide (src ≤ hi)
  within 8 15 || within 117 119 || within 140 151 || within 162 163 || src == 167 || src == 175 || within 182 183
    || src == 191 || within 198 199 || within 206 207

/-- The set bits of a word, lowest first. -/
def bitList (w : Word) : List Nat := (List.range 64).filter (bitOf w)

/-- A W1C write of INT_PENDk, with rising edges in the same cycle (R7, R498, R499): an edge leaves its bit set, and where
the bit was cleared too the source is delivered once more. -/
def pendClear (s : State) (k : Nat) (mask coincident : Word) : State :=
  let edges := (bitList coincident).filter (fun b => !sourceReserved (64 * k + b))
  let anew := edges.filter (fun b => bitOf mask b || !s.bit (Reg.intPend k) b)
  let t := s.setReg (Reg.intPend k) (s.reg (Reg.intPend k) &&& ~~~mask)
  let t := edges.foldl (fun t b => t.setBit (Reg.intPend k) b true) t
  deliverAll t ((anew.filter (fun b => t.bit (Reg.intEn k) b)).map (fun b => 64 * k + b))

/-- INT_PEND_CLEAR (R498, R499). -/
def execIntPendClear (k : Fin 4) (mask coincident : Word) (s : State) : Host.Outcome State Fault Refusal :=
  .next (pendClear s k.val mask coincident)

/-- A write of INT_ENk (R499): a pending source that becomes enabled is delivered. -/
def writeIntEn (s : State) (k : Nat) (v : Word) : State :=
  let rise := s.reg (Reg.intPend k) &&& v &&& ~~~(s.reg (Reg.intEn k))
  deliverAll (s.setReg (Reg.intEn k) v) ((bitList rise).map (fun b => 64 * k + b))

/-- INT_ENABLE_WRITE (R499). -/
def execIntEnableWrite (k : Fin 4) (value : Word) (s : State) : Host.Outcome State Fault Refusal :=
  .next (writeIntEn s k.val value)

/-- A write of INT_ROUTEs (R501): under KLOCK only MSIX and VECTOR change. -/
def writeRoute (s : State) (src : Nat) (v : Word) : State :=
  let old := s.reg (Reg.intRoute src)
  let m : Word := if bitOf old 9 then 0xBF else 0x1BF
  s.setReg (Reg.intRoute src) ((old &&& ~~~m) ||| (v &&& m))

/-- A write of INT_BWb_ADDR (R506, R507): an armed watch takes only EN and AUTO; arming checks the buoy, and a condition
that already holds makes an edge at once. -/
def writeBwAddr (s : State) (b : Nat) (v : Word) : State :=
  let off := Reg.intBwAddr b
  if s.bit off 0 then s.setReg off ((s.reg off &&& ~~~3) ||| (v &&& 3))
  else
    let s := s.setReg off (v &&& ~~~5)
    if !bitOf v 0 then s
    else if buoyOk s (v &&& ~~~7) then buoyWatchTest (s.setBit off 0 true) b
    else s.setBit Reg.intErr 0 true

/-- A write of INT_BWb_COND (R506): ignored while the watch is armed. -/
def writeBwCond (s : State) (b : Nat) (v : Word) : State :=
  if s.bit (Reg.intBwAddr b) 0 then s else s.setReg (Reg.intBwCond b) v

/-- BUOY_WATCH_ARM (R506, R507): EN is written as 1, with AUTO as given. -/
def execBuoyWatchArm (b : Fin 48) (auto : Bool) (s : State) : Host.Outcome State Fault Refusal :=
  .next (writeBwAddr s b.val (putBits (s.reg (Reg.intBwAddr b.val)) 1 0 (if auto then 3 else 1)))

end Sys2Proof.Machine
end

