-- ==== Sys2Proof/Machine/Sec.lean ====
section
/-! DEFINITION. Signed records, debug sessions, attestation and the TAP (18_security_debug_and_power.md). The TAP
instructions that read registers or memory stand in Tap.lean. -/

namespace Sys2Proof.Machine

/-! ### Signed records (R472, R473) -/

/-- The format of a signed record (R472). -/
def recordForm (b : List Byte) : Bool :=
  let type := u8At b 4
  let arg := fun (lo hi : Nat) => allZero (sliceB b lo (hi - lo))
  let secs := u32At b 68
  b.take 4 == [0x53, 0x58, 0x53, 0x52] && decide (1 ≤ type) && decide (type ≤ 6)
    && (if type = 1 then decide (1 ≤ u8At b 5) && decide (u8At b 5 ≤ 3) else u8At b 5 == 0)
    && (if type = 2 ∨ type = 3 then decide (u8At b 6 ≤ 3) else u8At b 6 == 0)
    && (decide (u8At b 7 ≤ 3) || decide (0xFE ≤ u8At b 7))
    && (if type = 1 then arg 66 68 && decide (1 ≤ secs) && decide (secs ≤ 604800) && arg 72 112
        else if type = 2 then true else if type = 6 then arg 72 112 else arg 64 112)
    && arg 112 128 && (if u8At b 7 = 0xFE then arg 128 320 else true)

/-- The current nonce (R473). -/
def nonceBytes (s : State) : List Byte := (List.range 48).map (Config.nonceByte s.sec.draws)

/-- Would revoking slot `k` leave no valid slot? -/
def lastOwner (s : State) (k : Nat) : Bool :=
  (List.range 4).all (fun i => i == k || !(ownerSlot s i).valid || (ownerSlot s i).revoked)

/-- The signer rule of R473: 0 when the record's signer is the one its type needs, else the code it fails with. A signer
other than the table's is SIGNATURE (DEDUCED, log 67). -/
def signerRule (s : State) (type signer slot : Nat) : Nat :=
  let o := ownerSlot s signer
  let owner := if signer < 4 ∧ o.valid ∧ !o.revoked then 0 else 3
  let dolnex := if signer = 0xFF then 0 else 3
  let bare := if signer = 0xFE then 0 else 3
  match s.fuses.lifecycle, type with
  | 0, 1 => 6
  | 0, 4 => if bare ≠ 0 then bare else if (ownerSlot s 0).valid then 0 else 7
  | 0, _ => bare
  | 1, 3 => if owner ≠ 0 then owner else if lastOwner s slot then 7 else 0
  | 1, 4 => 6
  | 1, _ => owner
  | _, 1 => dolnex
  | _, 6 => dolnex
  | _, _ => 6

/-- KEY against the signer's hash, then SIG over bytes 0 to 127 (R473). -/
def signatureRule (s : State) (b : List Byte) : Bool :=
  let signer := u8At b 7
  let key := sliceB b 128 96
  if signer = 0xFE then true
  else (if signer = 0xFF then sha384 key == s.fuses.dkeyHash else sha384 key == (ownerSlot s signer).hash)
    && ecdsaVerify key (sliceB b 224 96) (b.take 128)

/-- The first code that applies to a record (R473, R479); 1 is OK. -/
def recordResult (s : State) (b : List Byte) : Nat :=
  let type := u8At b 4
  if s.power.step.isSome then 9
  else if !recordForm b then 2
  else if u64At b 8 ≠ s.fuses.deviceId.toNat then 4
  else if sliceB b 16 48 ≠ nonceBytes s then 5
  else
    let r := signerRule s type (u8At b 7) (u8At b 6)
    if r ≠ 0 then r
    else if !signatureRule s b then 3
    else if type = 2 ∧ (ownerSlot s (u8At b 6)).valid then 7
    else 1

/-- A token opens a session in the place of the current one (R474); one of D3 counts as opened though the level was D3 (R481;
DEDUCED, log 198). -/
def openSession (s : State) (lvl mask until_ : Nat) : State :=
  let again := lvl = 3 ∧ debugLevel s = 3
  let s := setLevel s lvl mask until_
  if again then { s with sec := { s.sec with d3 := s.sec.d3 + 1 } } else s

/-- What an accepted record does (R468, R471, R473, R474). Fuses and OTP only ever gain bits. -/
def applyRecord (s : State) (b : List Byte) : State :=
  let slot := u8At b 6
  match u8At b 4 with
  | 1 => openSession s (u8At b 5) (u16At b 64) ((s.now + u32At b 68 * 1000000000) % 2 ^ 64)
  | 2 => showSec { s with fuses := { s.fuses with owners := s.fuses.owners.modify slot (fun o =>
      { o with hash := sliceB b 64 48, valid := true }) } }
  | 3 => showSec { s with fuses := { s.fuses with owners := s.fuses.owners.modify slot (fun o =>
      { o with revoked := true }) } }
  | 4 => showSec { s with fuses := { s.fuses with pending := max s.fuses.pending 1 } }
  | 5 => showSec { s with fuses := { s.fuses with pending := max s.fuses.pending 2 } }
  | _ => showSec { s with fuses := { s.fuses with
      svnImage := max s.fuses.svnImage (min 64 (u32At b 64)), svnFw := max s.fuses.svnFw (min 64 (u32At b 68)) } }

/-- A record is submitted (R473, R482): its result, its effect, and a new nonce whatever the result. -/
def submitRecord (s : State) (b : List Byte) : State :=
  let r := recordResult s b
  let s := s.setFld Reg.secCmdStat 15 0 (r + u8At b 4 * 256)
  let s := if r = 1 then raise (applyRecord s b) 192 else sticky s Reg.secErr 0 (some 193)
  { s with sec := { s.sec with draws := s.sec.draws + 1 } }

/-- The record at an address on the own node; bytes that cannot be read fail with FORMAT. -/
def readRecord (s : State) (a : Word) : State × List Byte :=
  let r := unitRead s (a &&& ~~~0x3F) 320 3 none
  (r.1, if r.2.1 = stOK then r.2.2 else zeroBytes 320)

/-- A write of SEC_CMD (R472). -/
def secCmd (s : State) (a : Word) : State :=
  let r := readRecord s a
  submitRecord r.1 r.2

/-- A submission through SEC_CMD of a record of one type. -/
def submitType (type : Nat) (a : Word) (s : State) : State :=
  let r := readRecord s a
  if u8At r.2 4 = type then submitRecord r.1 r.2 else s

/-- DEBUG_TOKEN (R474). -/
def execDebugToken (value : Word) (s : State) : Host.Outcome State Fault Refusal := .next (submitType 1 value s)

/-- ADD_OWNER (R473). -/
def execAddOwner (value : Word) (s : State) : Host.Outcome State Fault Refusal := .next (submitType 2 value s)

/-- REVOKE_OWNER (R473). -/
def execRevokeOwner (value : Word) (s : State) : Host.Outcome State Fault Refusal := .next (submitType 3 value s)

/-- TAKE_OWNERSHIP (R471, R473). -/
def execTakeOwnership (value : Word) (s : State) : Host.Outcome State Fault Refusal := .next (submitType 4 value s)

/-- RETIRE (R471, R473). -/
def execRetire (value : Word) (s : State) : Host.Outcome State Fault Refusal := .next (submitType 5 value s)

/-- ADVANCE_SVN (R468). -/
def execAdvanceSvn (value : Word) (s : State) : Host.Outcome State Fault Refusal := .next (submitType 6 value s)

/-! ### The debug level (R474) -/

/-- A write of SEC_DEBUG (R474): direct in MANUFACTURE; elsewhere it can only lower the level, and LEVEL 0 ends the
session. -/
def writeSecDebug (s : State) (v : Word) : State :=
  let lvl := bitsOf v 1 0
  if s.fuses.lifecycle = 0 then
    let s := if lvl = 0 then endSession s else s
    setLevel s lvl (bitsOf v 31 16) 0
  else if debugLevel s ≤ lvl then s
  else if lvl = 0 then endSession s
  else setLevel s lvl (s.fld Reg.secDebug 31 16) (s.reg Reg.secDebugEnd).toNat

/-- DEBUG_WRITE (R474). -/
def execDebugWrite (value : Word) (s : State) : Host.Outcome State Fault Refusal := .next (writeSecDebug s value)

/-- DEBUG_SESSION_END (R474): N reaches SEC_DEBUG_END. -/
def execDebugSessionEnd (s : State) : Host.Outcome State Fault Refusal :=
  let e := (s.reg Reg.secDebugEnd).toNat
  if debugLevel s = 0 ∨ e = 0 then .next s
  else .next (endSession (if s.now < e then runTo s e else s))

/-! ### Attestation (R481) -/

/-- Bytes 0 to 343 of a report, with the requester's nonce. -/
def reportBody (s : State) (nonce : List Byte) : List Byte :=
  let bit := fun (b : Bool) (n : Nat) => if b then n else 0
  let flags := bit (s.bit Reg.secStat 6) 1 + bit (s.bit Reg.gctlBoot 7) 2 + bit (s.bit Reg.gctlBoot 8) 4
    + bit s.sec.keep 8 + bit (s.fuses.pending != s.fuses.lifecycle) 16
  [0x53, 0x58, 0x41, 0x52] ++ leBytes 2 1 ++ leBytes 1 s.fuses.lifecycle ++ leBytes 1 (debugLevel s)
    ++ wordBytes s.fuses.deviceId ++ wordBytes (s.reg Reg.gctlImage) ++ leBytes 4 s.sec.imgSvn
    ++ leBytes 4 s.sec.fwSvn ++ wordBytes (s.reg Reg.chkTcver) ++ leBytes 1 s.sec.keySlot ++ leBytes 1 flags
    ++ leBytes 2 s.node ++ leBytes 4 s.sec.d3 ++ leBytes 8 s.now ++ sliceB s.sec.imgHash 0 48 ++ sliceB nonce 0 48
    ++ sliceB Config.identityKey 0 96 ++ sliceB s.fuses.endorse 0 96

/-- A write of SEC_ATTEST (R481, R482). -/
def attest (s : State) (a : Word) : State :=
  let a := a &&& ~~~0x3F
  let n := unitRead s (a + 104) 48 3 none
  if n.2.1 ≠ stOK then n.1.setFld Reg.secAttestStat 7 0 3
  else
    let s := n.1
    let body := reportBody s n.2.2
    let w := unitWrite s a (body ++ sliceB (Config.identitySign s.freeCtr body) 0 96 ++ zeroBytes 8)
    if w.2 ≠ stOK then w.1.setFld Reg.secAttestStat 7 0 3
    else raise ((w.1.bumpFree.setFld Reg.secAttestStat 7 0 1).wrapFld Reg.secAttestStat 63 8 1) 196

/-- SEC_ATTEST (R481). -/
def execSecAttest (value : Word) (s : State) : Host.Outcome State Fault Refusal := .next (attest s value)

/-! ### The TAP (R472, R474, R479, R480) -/

/-- Does the TAP answer at all: in every state but P4? -/
def tapPowered (s : State) : Bool := !s.power.off

/-- Does the TAP reach more than IDCODE and BYPASS (R480): not in P3, nor while every other unit is stopped? -/
def tapReaches (s : State) : Bool := tapPowered s && decide (pState s < 3) && !s.power.thermtrip && !s.sec.extest

/-- The TAP shifts out an answer. -/
def tapAnswer (s : State) (b : List Byte) : State := { s with sec := { s.sec with bypass := false, tap := b } }

/-- A TAP instruction that needs a debug level: above the level it is refused, and TAP_REFUSED is set (R474, R482). -/
def tapAt (s : State) (lvl : Nat) (run : State → State) : State :=
  if !tapReaches s then s
  else if debugLevel s < lvl then sticky s Reg.secErr 3 (some 197)
  else run s

/-- IDCODE. -/
def execIdcode (s : State) : Host.Outcome State Fault Refusal :=
  .next (if tapPowered s then tapAnswer s (wordBytes Config.idcode) else s)

/-- BYPASS. -/
def execBypass (s : State) : Host.Outcome State Fault Refusal :=
  .next (if tapPowered s then { s with sec := { s.sec with bypass := true, tap := [] } } else s)

/-- SECACCESS (R472): a record submitted at the TAP, at every level. -/
def execSecaccess (rec : List Byte) (s : State) : Host.Outcome State Fault Refusal :=
  .next (tapAt s 0 (fun s => submitRecord (tapAnswer s []) (sliceB rec 0 320)))

/-- EXTEST (R474, R505): every unit outside the always-on domain stops as WARM_RST_N stops it; the session that allowed
it stands until WARM_RST_N. -/
def execExtest (s : State) : Host.Outcome State Fault Refusal :=
  .next (tapAt s 3 (fun s =>
    let t := resetDomain s
    let t := (t.setReg Reg.secDebug (s.reg Reg.secDebug)).setReg Reg.secDebugEnd (s.reg Reg.secDebugEnd)
    showSec { t with sec := { t.sec with extest := true } }))

/-- SAMPLE/PRELOAD: the spec gives neither the boundary chain nor the levels it samples (free, log 7). -/
def execSamplePreload (s : State) : Host.Outcome State Fault Refusal :=
  .next (tapAt s 3 (fun s => (tapAnswer s (wordBytes (Config.freeWord s.freeCtr))).bumpFree))

/-- KHALT (R479): a keeper is halted, stepped or released. -/
def execKhalt (keeper : Fin 4) (act : HaltAction) (s : State) : Host.Outcome State Fault Refusal :=
  .next (tapAt s 3 (fun s =>
    let others := s.power.halted.filter (· != keeper.val)
    match act with
    | .halt => showHeld { s with power := { s.power with halted := others ++ [keeper.val] } }
    | .release => showHeld { s with power := { s.power with halted := others } }
    | .step => s))

end Sys2Proof.Machine
end

