-- ==== Sys2Proof/Machine/Fusion.lean ====
section
/-! DEFINITION. The fusion engine: calibration records, camera models, pose interpolation, merging and the output
(R302 to R315). Its unit is 146. -/

namespace Sys2Proof.Machine

/-! ### Calibration records, projection and unprojection (R302 to R304) -/

/-- The binary32 word at byte `o`. -/
def f32At (bs : List Byte) (o : Nat) : Nat := u32At bs o

/-- EXT of a calibration record, row by row (R302, R103). -/
def calExt (c : List Byte) : List (List Nat) :=
  (List.range 4).map (fun i => (List.range 4).map (fun k => f32At c (64 + 16 * i + 4 * k)))

/-- Is a calibration record valid (R302; DEDUCED, log 50)? -/
def calOk (c : List Byte) : Bool :=
  let model := u8At c 0
  let ext := calExt c
  let extOk := ext.all (fun r => r.all f32finite) && ext.getD 3 [] == [0, 0, 0, f32one]
  let pos := fun (v : Nat) => f32finite v && f32lt 0 v
  let full := !outside (u16At c 4) 32 8192 && !outside (u16At c 6) 32 8192 && pos (f32At c 8) && pos (f32At c 12)
    && (List.range 7).all (fun i => f32finite (f32At c (16 + 4 * i))) && (model != 1 || f32At c 40 % 2 ^ 31 == 0)
    && allZero (sliceB c 1 3) && allZero (sliceB c 48 16)
  extOk && (model == 3 || ((model == 1 || model == 2) && full))

/-- Projection of a camera-frame point (R303). -/
def project (c p : List Byte × List Nat) : Nat × Nat :=
  let rec_ := c.1
  let A := ar32
  let d := fun (i : Nat) => f32At rec_ (24 + 4 * i)
  let x := f32div (at0 p.2 0) (at0 p.2 2)
  let y := f32div (at0 p.2 1) (at0 p.2 2)
  let xx := f32mul x x
  let yy := f32mul y y
  let xy := f32mul x y
  let r2 := f32add xx yy
  let q := if u8At rec_ 0 = 1 then
      let rad := A.fma r2 (A.fma r2 (A.fma r2 (d 2) (d 1)) (d 0)) f32one
      (A.fma x rad (A.fma (f32mul A.two (d 3)) xy (f32mul (d 4) (f32add r2 (f32mul A.two xx)))),
       A.fma y rad (A.fma (f32mul A.two (d 4)) xy (f32mul (d 3) (f32add r2 (f32mul A.two yy)))))
    else
      let r := f32sqrt r2
      let th := f32atan r
      let t2 := f32mul th th
      let td := f32mul th (A.fma t2 (A.fma t2 (A.fma t2 (A.fma t2 (d 3) (d 2)) (d 1)) (d 0)) f32one)
      let s := if A.isZero r then f32one else f32div td r
      (f32mul x s, f32mul y s)
  (A.fma (f32At rec_ 8) q.1 (f32At rec_ 16), A.fma (f32At rec_ 12) q.2 (f32At rec_ 20))

/-- One iteration of the unprojection of MODEL 1 (R304), from the values of the one before. -/
def unprojectStep (c : List Byte) (xd yd : Nat) (p : Nat × Nat) : Nat × Nat :=
  let A := ar32
  let d := fun (i : Nat) => f32At c (24 + 4 * i)
  let xx := f32mul p.1 p.1
  let yy := f32mul p.2 p.2
  let xy := f32mul p.1 p.2
  let r2 := f32add xx yy
  let rad := A.fma r2 (A.fma r2 (A.fma r2 (d 2) (d 1)) (d 0)) f32one
  let ex := A.fma (f32mul A.two (d 3)) xy (f32mul (d 4) (f32add r2 (f32mul A.two xx)))
  let ey := A.fma (f32mul A.two (d 4)) xy (f32mul (d 3) (f32add r2 (f32mul A.two yy)))
  (f32div (f32sub xd ex) rad, f32div (f32sub yd ey) rad)

/-- Unprojection of a pixel to normalised coordinates (R304): none when it is invalid. -/
def unproject (c : List Byte) (u v : Nat) : Option (Nat × Nat) :=
  let A := ar32
  let d := fun (i : Nat) => f32At c (24 + 4 * i)
  let num := fun (k : Int) => f32ofInt k
  let xd := f32div (f32sub u (f32At c 16)) (f32At c 8)
  let yd := f32div (f32sub v (f32At c 20)) (f32At c 12)
  if u8At c 0 = 1 then some ((List.range 8).foldl (fun p _ => unprojectStep c xd yd p) (xd, yd))
  else
    let td := f32sqrt (A.fma xd xd (f32mul yd yd))
    let th := (List.range 8).foldl (fun th _ =>
      let t2 := f32mul th th
      f32div td (A.fma t2 (A.fma t2 (A.fma t2 (A.fma t2 (d 3) (d 2)) (d 1)) (d 0)) f32one)) td
    if f32lt 0x3FB33333 th then none
    else
      let t2 := f32mul th th
      let t4 := f32mul t2 t2
      let tn := f32mul th (f32add (f32sub (num 945) (f32mul (num 105) t2)) t4)
      let tq := f32add (f32sub (num 945) (f32mul (num 420) t2)) (f32mul (num 15) t4)
      let s := if A.isZero td then f32one else f32div (f32div tn tq) td
      some (f32mul xd s, f32mul yd s)

/-! ### Poses (R309, R310) -/

/-- A pose entry: its stamp and its seven words. -/
structure PoseEntry where
  stamp : Nat
  words : List Nat

/-- A pose entry of 64 bytes (R309). -/
def poseEntry (bs : List Byte) : PoseEntry := ⟨u64At bs 0, (List.range 7).map (fun i => f32At bs (8 + 4 * i))⟩

/-- The consecutive pairs that hold a stamp (R309). -/
def posePairs (s : Nat) : List PoseEntry → List (PoseEntry × PoseEntry)
  | a :: b :: r => (if a.stamp ≤ s ∧ s ≤ b.stamp then [(a, b)] else []) ++ posePairs s (b :: r)
  | _ => []

/-- The pair that a job takes: of several, which one is free (DESIGN CHOICE, log 51). -/
def posePair (ctr s : Nat) (es : List PoseEntry) : Option (PoseEntry × PoseEntry) :=
  let ps := posePairs s es
  if ps.length ≤ 1 then ps.head? else ps[Config.posePair ctr s % ps.length]?

/-- The pose at a stamp: four rows (R309). -/
def poseAt (ctr : Nat) (es : List PoseEntry) (s : Nat) : Option (List (List Nat)) :=
  (posePair ctr s es).map (fun e =>
    let A := ar32
    let a := e.1
    let b := e.2
    let w := if a.stamp = b.stamp then 0
      else fmtF32.encode (Fl.div 24 (Fl.ofInt ((s : Int) - a.stamp)) (Fl.ofInt ((b.stamp : Int) - a.stamp)))
    let aq := a.words.take 4
    let bq := b.words.take 4
    let bq := if f32lt (A.dotFirst aq bq) 0 then bq.map f32neg else bq
    let mix := fun (x y : Nat) => A.fma w (f32sub y x) x
    let q := A.quatUnit (List.zipWith mix aq bq)
    let t := List.zipWith mix (a.words.drop 4) (b.words.drop 4)
    (List.zip (A.rot q) t).map (fun r => r.1 ++ [r.2]) ++ [[0, 0, 0, f32one]])

/-- M ⊗ v: each row from its translation (R310). -/
def transform (m : List (List Nat)) (v : List Nat) : List Nat :=
  (m.take 3).map (fun r => ar32.dot (at0 r 3) (r.take 3) v)

/-- [Rᵀ | −Rᵀ t] of a rigid transform (R310). -/
def invert (m : List (List Nat)) : List (List Nat) :=
  let t := (m.take 3).map (fun r => at0 r 3)
  (List.range 3).map (fun i =>
    let col := (m.take 3).map (fun r => at0 r i)
    col ++ [ar32.dot 0 (col.map f32neg) t])

/-! ### Job records (R305, R312) -/

/-- NSRC of a job record. -/
def fusSources (raw : List Byte) : Nat := bitsOf (wordAt raw 0) 2 0 + 1

/-- OUT. -/
def fusOut (raw : List Byte) : Word := wordAt raw 56

/-- Everything a job reads when it is taken beside the block and pose data. -/
structure FusIn where
  raw    : List Byte
  cam    : List Byte
  srcs   : List (List Byte)
  cals   : List (List Byte)

/-- Is an address aligned and on the own node (R312)? What stands there is not looked at: a read or write that is not
allowed ends the job with a fault. -/
def fusAddr (s : State) (a : Word) (align : Nat) : Bool := a.toNat % align == 0 && nodeOf a == s.node

/-- Fields out of range, misaligned or off the node in a job record (R305, R312). -/
def fusRecordBad (s : State) (raw : List Byte) : Bool :=
  let c := wordAt raw 0
  let n := fusSources raw
  let zmin := f32At raw 72
  let zmax := f32At raw 76
  bitsOf c 63 10 != 0 || decide (31 < bitsOf c 9 4) || !fusAddr s (wordAt raw 16) 64 || !fusAddr s (wordAt raw 24) 1
    || !powerIn (u32At raw 32) 16 65536 || !fusAddr s (wordAt raw 40) 8 || !fusAddr s (wordAt raw 48) 1
    || !fusAddr s (fusOut raw) 4096 || !fusAddr s (wordAt raw 64) 1 || !(f32lt 0 zmin && f32finite zmin)
    || !f32finite zmax || f32lt 0x477FE000 zmax || !fusAddr s (wordAt raw 80) 1 || !allZero (sliceB raw 88 40) || n == 0

/-- Fields out of range in a source entry (R305). -/
def fusEntryBad (s : State) (e : List Byte) : Bool :=
  !fusAddr s (wordAt e 0) 4096 || !powerIn (u32At e 8) 4 65536 || u32At e 12 != 0 || !fusAddr s (wordAt e 16) 64
    || !fusAddr s (wordAt e 24) 8

/-- Read pieces of equal size one after another, as memory held them at `old`: a status and the pieces. -/
def readMany (old : Snap) (s : State) (cls : Nat) (as : List Word) (n : Nat) : State × Nat × List (List Byte) :=
  as.foldl (fun r a =>
    if r.2.1 ≠ stOK then r
    else
      let t := keptRead old r.1 a n cls
      (t.1, t.2.1, if t.2.1 = stOK then r.2.2 ++ [t.2.2] else r.2.2)) (s, stOK, [])

/-- How the reading of a job's records ends: refused, a read fault with its status, or what was read. -/
inductive FusRead where
  | refused
  | fault (mst : Nat)
  | ok (f : FusIn)

/-- Read and check a job's records (R302, R305, R312). -/
def readFus (s : State) (cls : Nat) (raw : List Byte) : State × FusRead :=
  if fusRecordBad s raw then (s, .refused)
  else
    let n := fusSources raw
    let c := unitRead s (wordAt raw 16) 128 cls none
    let t := readMany s.snap c.1 cls ((List.range n).map (fun i => wordAt raw 80 + BitVec.ofNat 64 (32 * i))) 32
    if c.2.1 ≠ stOK then (t.1, .fault c.2.1)
    else if t.2.1 ≠ stOK then (t.1, .fault t.2.1)
    else if !calOk c.2.2 || u8At c.2.2 0 == 3 || t.2.2.any (fusEntryBad t.1) then (t.1, .refused)
    else
      let k := readMany s.snap t.1 cls (t.2.2.map (fun e => wordAt e 16)) 128
      if k.2.1 ≠ stOK then (k.1, .fault k.2.1)
      else if k.2.2.any (fun e => !calOk e) then (k.1, .refused)
      else
        match (wordAt raw 40 :: t.2.2.map (fun e => wordAt e 24)).find? (fun a => buoyCheck k.1 (localOf a) != stOK) with
        | some a => (k.1, .fault (buoyCheck k.1 (localOf a)))
        | none => (k.1, .ok ⟨raw, c.2.2, t.2.2, k.2.2⟩)

/-- What a job keeps of its records from its take on. -/
def FusIn.pack (f : FusIn) : List (List Byte) := [f.raw, f.cam] ++ f.srcs ++ f.cals

/-- The records that a job has kept. -/
def unpackFus (raws : List (List Byte)) : FusIn :=
  let raw := raws.headD []
  let n := fusSources raw
  ⟨raw, raws.getD 1 [], (raws.drop 2).take n, (raws.drop (2 + n)).take n⟩

/-- The target instant (R306): none when FRAMESRC gives none. -/
def fusTarget (s : State) (f : FusIn) : Option Target :=
  let c := wordAt f.raw 0
  let heads := f.srcs.map (fun e => (countsOf s (wordAt e 24)).1)
  let poses := (countsOf s (wordAt f.raw 40)).1
  if bitOf c 3 then
    match (srcOf s (bitsOf c 9 4)).newest with
    | some (seq, fs, unsync) =>
      if fs = 0 then none
      else some ⟨codeN 64 ((fs : Int) + sextN 32 (u32At f.cam 44)), seq, unsync, heads, poses⟩
    | none => none
  else some ⟨u64At f.raw 8, 0, false, heads, poses⟩

/-! ### Merging (R307 to R310) -/

/-- What a source's points come to. -/
structure SrcRun where
  newest  : Nat
  cursor  : Option Nat
  merged  : Nat
  late    : Nat
  old     : Nat
  nohist  : Nat
  range   : Nat
  outside : Nat
  lost    : Nat
  log     : List (Nat × Nat × Nat)
  plane   : Array Nat

/-- What is the same for every point of a source. -/
structure PointCtx where
  cam    : List Byte
  t      : Nat
  window : Nat
  zmin   : Nat
  zmax   : Nat
  ext    : List (List Nat)
  inv    : Option (List (List Nat))
  poses  : List PoseEntry
  seen   : Nat
  lastT  : Nat
  ctr    : Nat

/-- The empty pixel of a depth plane: a code no stored depth has. -/
abbrev noDepth : Nat := 2 ^ 32

/-- Does the floor of a pixel coordinate plus one half lie inside `n` pixels? -/
def pixelOf (u n : Nat) : Option Nat :=
  match fmtF32.decode (f32add u 0x3F000000) with
  | .fin a m e =>
    let v := Fl.floor (.fin a m e)
    if 0 ≤ v ∧ v < n then some v.toNat else none
  | _ => none

/-- Align, project and merge a point (R309, R310). -/
def mergePoint (k : PointCtx) (r : SrcRun) (stamp : Nat) (p : List Nat) : SrcRun :=
  match k.inv, poseAt k.ctr k.poses stamp with
  | some inv, some pose =>
    let pc := transform inv (transform pose (transform k.ext p))
    let z := at0 pc 2
    if f32lt z k.zmin || f32lt k.zmax z || (fmtF32.decode z).isNan then { r with range := r.range + 1 }
    else
      let uv := project (k.cam, []) ([], pc)
      let w := u16At k.cam 4
      match pixelOf uv.1 w, pixelOf uv.2 (u16At k.cam 6) with
      | some u, some v =>
        let i := v * w + u
        let old := r.plane.getD i noDepth
        { r with
          merged := r.merged + 1
          newest := if r.newest = 2 ^ 64 - 1 ∨ r.newest < stamp then stamp else r.newest
          plane := if old = noDepth || f32lt z old then r.plane.set! i z else r.plane }
      | _, _ => { r with outside := r.outside + 1 }
  | _, _ => { r with nohist := r.nohist + 1 }

/-- One point of block `q` (R308). -/
def takePoint (k : PointCtx) (q base : Nat) (blk : List Byte) (r : SrcRun × Nat × Nat) (i : Nat) : SrcRun × Nat × Nat :=
  let o := 64 + 16 * i
  let stamp := codeN 64 ((base : Int) + sextN 32 (u32At blk (o + 12)))
  let run := r.1
  if q < k.seen ∧ stamp ≤ k.lastT then r
  else if k.t < stamp then ({ run with cursor := some (run.cursor.getD q) }, r.2)
  else
    let late := stamp ≤ k.lastT
    let c := if late then (r.2.1 + 1, if r.2.1 = 0 then stamp else min r.2.2 stamp) else r.2
    if stamp + k.window < k.t then ({ run with old := run.old + 1 }, c)
    else (mergePoint k run stamp [f32At blk o, f32At blk (o + 4), f32At blk (o + 8)], c)

/-- One point block (R307, R308): its points in order, and its late-log entry. -/
def takeBlock (k : PointCtx) (r : SrcRun) (q : Nat) (blk : List Byte) : SrcRun :=
  let t := (List.range (min (u16At blk 8) 252)).foldl (takePoint k q (u64At blk 0) blk) (r, 0, 0)
  if t.2.1 = 0 then t.1
  else { t.1 with late := t.1.late + t.2.1, log := t.1.log ++ [(q, t.2.1, t.2.2)] }

/-- The blocks of one source, as its ring held them when the job was taken (R308, R314): a status and the result. -/
def takeSource (old : Snap) (s : State) (cls : Nat) (k : PointCtx) (e : List Byte) (cursor head newest pixels : Nat) :
    State × Nat × SrcRun :=
  let n := u32At e 8
  let first := max cursor (head - n)
  let start : SrcRun := ⟨newest, none, 0, 0, 0, 0, 0, 0, first - cursor, [], Array.replicate pixels noDepth⟩
  (List.range (head - first)).foldl (fun r i =>
    if r.2.1 ≠ stOK then r
    else
      let q := first + i
      let b := keptRead old r.1 (wordAt e 0 + BitVec.ofNat 64 (4096 * (q % n))) 4096 cls
      if b.2.1 ≠ stOK then (b.1, b.2.1, r.2.2) else (b.1, stOK, takeBlock k r.2.2 q b.2.2)) (s, stOK, start)

/-! ### Output (R311, R312) -/

/-- An FP16 plane in the engine-tile layout of R148: `f` gives each pixel's code. -/
def tilePlane (w h : Nat) (f : Nat → Nat) : List Byte :=
  ((List.range (w * h)).foldl (fun (b : Array Byte) i =>
    let c := f i
    let o := elemOff 4 w (i / w) (i % w)
    (b.set! o (BitVec.ofNat 8 c)).set! (o + 1) (BitVec.ofNat 8 (c / 256))) (Array.replicate (tensorBytes 4 h w) 0)).toList

/-- binary32 to FP16 (R312). -/
def toFp16 (c : Nat) : Nat := fmtFP16.encode (fmtF32.decode c)

/-- The depth plane of a source. -/
def depthPlane (w h : Nat) (p : Array Nat) : List Byte :=
  tilePlane w h (fun i => let z := p.getD i noDepth; if z = noDepth then 0 else toFp16 z)

/-- The disagreement plane (R312). -/
def disagreement (w h : Nat) (ps : List (Array Nat)) : List Byte :=
  tilePlane w h (fun i =>
    match ps.filterMap (fun p => let z := p.getD i noDepth; if z = noDepth then none else some z) with
    | a :: b :: r =>
      let zs := b :: r
      let hi := zs.foldl (fun m z => if f32lt m z then z else m) a
      let lo := zs.foldl (fun m z => if f32lt z m then z else m) a
      toFp16 (f32sub hi lo)
    | _ => 0)

/-- AGE of a source whose greatest merged stamp is `newest` (R312). -/
def fusAge (t newest : Nat) : Nat := if newest = 2 ^ 64 - 1 then 2 ^ 64 - 1 else (t + 2 ^ 64 - newest) % 2 ^ 64

/-- NEWEST of source `i` as the state record of the job stands (R308); all ones for a job without a target. -/
def standingNewest (s : State) (j : UJob) (i : Nat) : Nat :=
  match j.target with
  | some _ => u64At (s.load (localOf (wordAt (j.raws.headD []) 48) + 64 + 32 * i + 24) 8) 0
  | none => 2 ^ 64 - 1

/-- The output header (R312). A source that the job did not come to has merged what its state record says. -/
def fusHeader (s : State) (j : UJob) (n status mst : Nat) (rs : List SrcRun) : List Byte :=
  let t := j.target.getD ⟨0, 0, false, [], 0⟩
  let src := fun (i : Nat) => match rs[i]? with
    | some r => leBytes 8 (fusAge t.t r.newest)
        ++ [r.merged, r.late, r.old, r.nohist, r.range, r.outside].flatMap (leBytes 4)
    | none => leBytes 8 (fusAge t.t (standingNewest s j i)) ++ zeroBytes 24
  leBytes 1 status ++ leBytes 1 mst ++ leBytes 1 (flagBit t.unsync 0 + flagBit (rs.any (fun r => decide (0 < r.late))) 1)
    ++ zeroBytes 1 ++ leBytes 8 t.t ++ leBytes 8 t.fseq ++ leBytes 8 j.start ++ leBytes 8 s.now ++ zeroBytes 28
    ++ (List.range n).flatMap src

/-- A job ends: counts and events, the header, DONE (R311, R312). -/
def endFus (s : State) (j : UJob) (status mst : Nat) (rs : List SrcRun) : State :=
  let raw := j.raws.headD []
  let s := if !raw.isEmpty && fusAddr s (fusOut raw) 4096 then
      unitPut s (fusOut raw) (fusHeader s j (fusSources raw) status mst rs) else s
  let s :=
    if status = 1 then s.wrapFld Reg.fusCount 31 0 1
    else if status = 2 then sticky (s.satFld Reg.fusCount 47 32 1) Reg.fusErr 0 (some 160)
    else
      let s := s.satFld Reg.fusCount 63 48 1
      if status = 5 then s else sticky s Reg.fusErr 1 (some 160)
  let s := obsEnd s 146 j.q.run status j.taken
  bumpTo s j.q.run.done (status == 1) j.q.run.cls

/-- Write a job's planes, log and state (R311): the status of the first write that fails. Log and state are written
both or neither. -/
def writeFus (s : State) (f : FusIn) (t : Target) (stateRec : List Byte) (rs : List SrcRun) : State × Nat :=
  let w := u16At f.cam 4
  let h := u16At f.cam 6
  let bytes := tensorBytes 4 h w
  let planes := rs.map (fun r => depthPlane w h r.plane) ++ [disagreement w h (rs.map (·.plane))]
  let a := writePieces s (planes.zipIdx.map (fun e => (fusOut f.raw + BitVec.ofNat 64 (4096 + bytes * e.2), e.1)))
  if a.2.2 ≠ stOK then (a.1, a.2.2)
  else
    let pos := u64At stateRec 0
    let entries := rs.zipIdx.flatMap (fun e => e.1.log.map (fun l => (e.2, l)))
    let b := writePieces a.1 (entries.zipIdx.map (fun e =>
      (wordAt f.raw 64 + BitVec.ofNat 64 (32 * ((pos + e.2) % 1024)),
       (List.range 32).map (Config.lateEntry e.1.1 e.1.2.1 e.1.2.2.1 e.1.2.2.2 t.t))))
    if b.2.2 ≠ stOK then (a.1, b.2.2)
    else
      let head := leBytes 8 (pos + entries.length) ++ sliceB stateRec 8 56
      let body := rs.zipIdx.flatMap (fun e =>
        let hd := t.heads.getD e.2 0
        leBytes 8 (e.1.cursor.getD hd) ++ leBytes 8 hd ++ leBytes 8 t.t ++ leBytes 8 e.1.newest)
      let c := unitWrite b.1 (wordAt f.raw 48) (head ++ body)
      if c.2 = stOK then (c.1, stOK) else (a.1, c.2)

/-- The work of a job whose records stand: read poses and blocks, merge, write, end (R308 to R311). -/
def fuseJob (s : State) (j : UJob) (f : FusIn) (t : Target) : State :=
  let cls := j.q.run.cls
  let np := u32At f.raw 32
  let first := t.poses - np
  let ps := readMany j.old s cls ((List.range (t.poses - first)).map (fun i =>
    wordAt f.raw 24 + BitVec.ofNat 64 (64 * ((first + i) % np)))) 64
  let st := unitRead ps.1 (wordAt f.raw 48) (64 + 32 * f.srcs.length) cls none
  if ps.2.1 ≠ stOK then endFus st.1 j 3 ps.2.1 []
  else if st.2.1 ≠ stOK then endFus st.1 j 3 st.2.1 []
  else
    let poses := ps.2.2.map poseEntry
    let inv := (poseAt st.1.freeCtr poses t.t).map (fun m => invert (ar32.matMul m (calExt f.cam) 4))
    let pixels := u16At f.cam 4 * u16At f.cam 6
    let r := (List.zip f.srcs f.cals).zipIdx.foldl (fun (r : State × Nat × List SrcRun) e =>
      if r.2.1 ≠ stOK then r
      else
        let o := 64 + 32 * e.2
        let k : PointCtx := ⟨f.cam, t.t, u32At f.raw 36, f32At f.raw 72, f32At f.raw 76, calExt e.1.2, inv, poses,
          u64At st.2.2 (o + 8), u64At st.2.2 (o + 16), st.1.freeCtr⟩
        let x := takeSource j.old r.1 cls k e.1.1 (u64At st.2.2 o) (t.heads.getD e.2 0) (u64At st.2.2 (o + 24)) pixels
        (x.1, x.2.1, r.2.2 ++ [x.2.2])) (st.1.bumpFree, stOK, [])
    let s := r.1
    let rs := r.2.2
    if r.2.1 ≠ stOK then endFus s j 3 r.2.1 rs
    else
      let w := writeFus s f t st.2.2 rs
      if w.2 ≠ stOK then endFus w.1 j 4 w.2 rs
      else
        let late := (rs.map (·.late)).foldl (· + ·) 0
        let s := count w.1 Reg.fusLate late
        let s := if late = 0 then s else sticky s Reg.fusErr 2 (some 161)
        let s := if rs.all (fun r => r.lost == 0) then s else sticky s Reg.fusErr 3 (some 160)
        endFus s j 1 0 rs

/-! ### The commands (R305, R308) -/

/-- FUS_STAT as it reads. -/
def fusStatView (s : State) : Word :=
  BitVec.ofNat 64 (s.fus.queue.length + (if s.fus.eng.run.isSome then 256 else 0))

/-- FUSION_LAUNCH (R305): one LAUNCH success queues one run, or stays pending with a stall on a full queue. -/
def execFusionLaunch (seq : Fin 16) (node : Nat) (s : State) : Host.Outcome State Fault Refusal :=
  match peekLaunch s seq.val node [3] with
  | none => .next s
  | some (g, n) =>
    if queueCap ≤ s.fus.queue.length then
      if n.full then .next s
      else .next (reportFull s seq.val g.gid node)
    else match takeLaunch s seq.val node [3] with
      | none => .next s
      | some (s, run) =>
        .next { s with fus := { s.fus with queue := insertBy qBefore (enterRun s run 0 0 0 []) s.fus.queue } }

/-- Change the engine. -/
def State.modFus (s : State) (f : Engine → Engine) : State := { s with fus := { s.fus with eng := f s.fus.eng } }

/-- The engine takes a job (R306, R308, R312): checks, the target instant and the counts. -/
def takeFus (s : State) (r : QRun) : State :=
  let s := obsStart s 146 r.run
  let placed := fusAddr s r.run.job 128
  let d := if placed then unitRead s r.run.job 128 r.run.cls none else (s, stOK, [])
  let s := d.1
  let j : UJob := { q := r, taken := s.now, raws := [d.2.2], index := 0, start := s.now, slices := 0, ok := true, target := none, old := s.snap }
  if runAborted s r.run then endFus s j 5 0 []
  else if !placed then endFus s j 2 0 []
  else if d.2.1 ≠ stOK then endFus s j 3 d.2.1 []
  else
    let f := readFus s r.run.cls d.2.2
    match f.2 with
    | .refused => endFus f.1 j 2 0 []
    | .fault m => endFus f.1 j 3 m []
    | .ok k =>
      match fusTarget f.1 k with
      | none => endFus f.1 j 2 0 []
      | some t => f.1.modFus (fun e => { e with run := some { j with raws := k.pack, target := some t } })

/-- The engine takes or resumes a run (R305). -/
def nextFus (s : State) : State :=
  if unitFenced s 146 then s
  else
    let k := s.fus.eng
    match choose k s.fus.queue (fun _ => true) with
    | .stay => s
    | .resume j => obsSlice (s.modFus (·.resume j)) 146 0x07 j.q.run
    | .take r rest =>
      let s := match k.run with
        | some j => obsSlice (s.modFus (·.suspend)) 146 0x06 j.q.run
        | none => s
      takeFus { s with fus := { s.fus with queue := rest } } r

/-- FUSION_TAKE (R305, R308): an idle engine takes the next job, or resumes a suspended one. -/
def execFusionTake (s : State) : Host.Outcome State Fault Refusal :=
  if s.fus.eng.run.isSome then .next s else .next (nextFus s)

/-- FUSION_END (R308 to R311): the job merges its points and ends. -/
def execFusionEnd (s : State) : Host.Outcome State Fault Refusal :=
  match s.fus.eng.run with
  | none => .next s
  | some j =>
    let before := s
    let s := s.modFus (fun e => { e with run := none })
    if runAborted s j.q.run then .next (endFus s j 5 0 [])
    else
      match j.target with
      | none => .next s
      | some t => .next (chargeDomain before j.q.run.dom (fuseJob s j (unpackFus j.raws) t))

/-- A slice boundary of the fusion engine (R258, R305). -/
def sliceFus (s : State) : State :=
  let dead := s.fus.eng.susp.filter (fun j => runAborted s j.q.run)
  let s := s.modFus (fun e => { e with susp := e.susp.filter (fun j => !dead.contains j) })
  let s := dead.foldl (fun s j => endFus s j 5 0 []) s
  match s.fus.eng.run with
  | none => s
  | some j =>
    if runAborted s j.q.run then endFus (s.modFus (fun e => { e with run := none })) j 5 0 [] else nextFus s

end Sys2Proof.Machine
end

