-- ==== Sys2Proof/Machine/Slices.lean ====
section
/-! DEFINITION. The slice boundary of every unit that runs in slices (R258, R305, R336). -/

namespace Sys2Proof.Machine

/-- SLICE_BOUNDARY (R258, R259, R352). -/
def execSliceBoundary (unit : SliceUnit) (s : State) : Host.Outcome State Fault Refusal :=
  match unit with
  | .vision e => .next (sliceVis s e.val)
  | .fusion => .next (sliceFus s)
  | .solver u => .next (sliceSlv s u.val)

end Sys2Proof.Machine
end

