-- ==== Sys2Proof/Machine/RegWrite.lean ====
section
/-! DEFINITION. What a write and a read of each register do (R4 to R7 and the register tables of every chapter). The
length, alignment and existence checks are `regCheck` (R22). -/

namespace Sys2Proof.Machine

/-! ### Writes -/

/-- The access codes of the fields decide (R6, R7): RW bits take the value, W1C bits clear where it holds 1, the others
stay. -/
def plainWrite (s : State) (d : RegDesc) (off : Nat) (v : Word) : State :=
  let old := s.reg off
  let rw := maskOf d .rw
  let wc := maskOf d .w1c
  s.setReg off ((old &&& ~~~(rw ||| wc)) ||| (v &&& rw) ||| (old &&& wc &&& ~~~v))

/-- Which register of its row an offset names. -/
def rowIndex (d : RegDesc) (off : Nat) : Nat := if d.stride = 0 then 0 else (off - d.off) / d.stride

/-- Ignore a write under a condition. -/
def writeUnless (lock : Bool) (s : State) (d : RegDesc) (off : Nat) (v : Word) : State :=
  if lock then s else plainWrite s d off v

/-- GCTL (R421). -/
def writeGctl (s : State) (d : RegDesc) (off : Nat) (v : Word) : State :=
  if off = Reg.gctlRecover then (if bitOf v 0 then recoverGo s else s) else plainWrite s d off v

/-- LMP (R51, R54, R58, R62, R71). -/
def writeLmp (s : State) (d : RegDesc) (off : Nat) (v : Word) : State :=
  let n := rowIndex d off
  if off = Reg.lmpCtl then writeLmpCtl s v
  else if off = Reg.lmpResv then writeLmpResv s v
  else if d.off = 0x11000 then writeSeqCtl s n v
  else if d.off = 0x11008 ∨ d.off = 0x11010 ∨ d.off = 0x11018 ∨ d.off = 0x11020 ∨ d.off = 0x12000 then
    writeUnless (s.bit (Reg.lmpSeqCtl n) 0) s d off v
  else plainWrite s d off v

/-- INT (R498, R499, R501, R506). -/
def writeInt (s : State) (d : RegDesc) (off : Nat) (v : Word) : State :=
  let n := rowIndex d off
  if d.off = 0x20000 then pendClear s n v 0
  else if d.off = 0x20020 then writeIntEn s n v
  else if d.off = 0x21000 then writeRoute s n v
  else if d.off = 0x22000 then writeBwAddr s n v
  else if d.off = 0x22008 then writeBwCond s n v
  else plainWrite s d off v

/-- TIM (R318, R323, R324, R328). -/
def writeTim (s : State) (d : RegDesc) (off : Nat) (v : Word) : State :=
  if off = Reg.timCtl then writeTimCtl s v
  else if off = Reg.timInc then setInc s (bitsOf v 39 0)
  else if off = Reg.timStep then addStep s v.toInt
  else if off = Reg.timPpsOffset then s.setFld off 29 0 (min (bitsOf v 29 0) 999999999)
  else plainWrite s d off v

/-- The edge codes of PWR_EDGE: 3 sets 1 (R522). -/
def edgeCodes (v : Word) : Word :=
  BitVec.ofNat 64 (leNat ((List.range 2).map (fun b => BitVec.ofNat 8 (((List.range 4).map (fun i =>
    let c := bitsOf v (8 * b + 2 * i + 1) (8 * b + 2 * i)
    (if c = 3 then 1 else c) * 4 ^ i)).foldl (· + ·) 0))))

/-- PWR (R477, R510, R514, R517, R519, R520, R522). -/
def writePwr (s : State) (d : RegDesc) (off : Nat) (v : Word) : State :=
  if off = Reg.pwrStateCtl then writeTarget s v
  else if off = Reg.pwrCap then
    s.setReg off (BitVec.ofNat 64 (clampN (bitsOf v 7 0) 45 180 + clampN (bitsOf v 15 8) 40 200 * 2 ^ 8
      + max 1 (bitsOf v 23 16) * 2 ^ 16))
  else if off = Reg.pwrDvfs then writePoint s v
  else if off = Reg.pwrBrown then
    ((s.setFld off 31 16 (bitsOf v 31 16)).setFld off 15 8 (clampN (bitsOf v 15 8) 45 180)).setBit off 0 (bitOf v 0)
  else if off = Reg.pwrEdge then s.setReg off (edgeCodes v)
  else if off = Reg.pwrVr then s.setReg off (BitVec.ofNat 64 (bitsOf v 6 0 + clampN (bitsOf v 15 8) 20 100 * 2 ^ 8))
  else plainWrite s d off v

/-- SEC (R472, R474, R481). -/
def writeSec (s : State) (d : RegDesc) (off : Nat) (v : Word) : State :=
  if off = Reg.secCmd then secCmd s v
  else if off = Reg.secDebug then writeSecDebug s v
  else if off = Reg.secAttest then attest s v
  else plainWrite s d off v

/-- OBS (R487 to R490, R493): below the level that grants it a control write is refused; OBS_ERR can always be cleared
(DEDUCED, log 73). -/
def writeObs (s : State) (d : RegDesc) (off : Nat) (v : Word) : State :=
  if off = Reg.obsErr then plainWrite s d off v
  else if off = Reg.obsFreezeCtl then writeFreezeCtl s v
  else if off = Reg.obsMark then writeMark s v
  else if d.off = 0x60100 then writeTrCtl s (rowIndex d off) v
  else if debugLevel s < (if off = Reg.obsSeqdom then 2 else 1) then
    (if maskOf d .rw = 0 then s else obsDenied s)
  else plainWrite s d off v

/-- CHK (R445, R449, R458). -/
def writeChk (s : State) (d : RegDesc) (off : Nat) (v : Word) : State :=
  if off = Reg.chkCtl then plainWrite s d off (putBits v 2 0 (min 6 (bitsOf v 2 0)))
  else if off = Reg.chkTcLoad then tcLoad s v
  else if off = Reg.chkUnitCmd then writeUnitCmd s v
  else plainWrite s d off v

/-- TIR (R129, R139). -/
def writeTir (s : State) (d : RegDesc) (off : Nat) (v : Word) : State :=
  if off = Reg.tirCtl then writeTirCtl s v
  else if d.off = 0x80100 then writeQuota s (rowIndex d off) v
  else if off = Reg.tirErr then plainWrite s d off v
  else writeUnless (tierOn s) s d off v

/-- FAB (R380, R386, R387, R389): packets held for a route are tried again when its entry changes. -/
def writeFab (s : State) (d : RegDesc) (off : Nat) (v : Word) : State :=
  if off = Reg.fabNode then
    writeUnless ((List.range 8).any (fun l => s.bit (Reg.fabLinkCtl l) 0)) s d off v
  else if off = Reg.fabCtl then s.setReg off (BitVec.ofNat 64 (max 10 (bitsOf v 15 0)))
  else if d.off = 0x90100 then writeLinkCtl s (rowIndex d off) v
  else if d.off = 0x92000 then sendHeld (plainWrite s d off v)
  else plainWrite s d off v

/-- HST (R49, R428, R429). -/
def writeHst (s : State) (d : RegDesc) (off : Nat) (v : Word) : State :=
  if off = Reg.hstSignal then hstSignal s v
  else if off = Reg.hstWinCtl then
    s.setReg off (BitVec.ofNat 64 (bitsOf v 0 0 + clampN (bitsOf v 13 8) 12 48 * 2 ^ 8))
  else if d.off = 0xA8000 then msixRelease (plainWrite s d off v)
  else plainWrite s d off v

/-- SNS (R297, R301). -/
def writeSns (s : State) (d : RegDesc) (off : Nat) (v : Word) : State :=
  if d.off = 0xB0200 then writeTrigCtl s (rowIndex d off) v
  else if d.off = 0xB0600 then writeSnsSrc s (rowIndex d off) v
  else plainWrite s d off v

/-- VIS (R291). -/
def writeVis (s : State) (d : RegDesc) (off : Nat) (v : Word) : State :=
  let n := rowIndex d off
  if d.off = 0xD0100 then writeVisSlot s n v
  else if d.off = 0xD0108 ∨ d.off = 0xD0110 then writeUnless (s.bit (Reg.visSlotJob n) 0) s d off v
  else plainWrite s d off v

/-- FLT (R366, R375). -/
def writeFlt (s : State) (d : RegDesc) (off : Nat) (v : Word) : State :=
  let n := rowIndex d off
  if d.off = 0xE1000 then writeChanCfg s n v
  else if d.off = 0xE1030 then writeChanCoef s n v
  else if 0xE1000 < d.off then writeUnless (s.bit (Reg.fltChCfg n) 44) s d off v
  else plainWrite s d off v

/-- SLV (R335, R343, R361). -/
def writeSlv (s : State) (d : RegDesc) (off : Nat) (v : Word) : State :=
  let n := rowIndex d off
  if off = Reg.slvCtl then writeSlvCtl s v
  else if off = Reg.slvArea then writeSlvArea s v
  else if d.off = 0xF0100 then writeSlvSlot s n v
  else if d.off = 0xF0108 ∨ d.off = 0xF0110 then writeUnless (s.bit (Reg.slvSlotJob n) 0) s d off v
  else plainWrite s d off v

/-- CLU (R194). -/
def writeClu (s : State) (d : RegDesc) (off : Nat) (v : Word) : State :=
  let n := rowIndex d off
  if d.off = 0x100108 then
    if (clusterStrands s n).isEmpty then plainWrite s d off (putBits v 7 0 (min 128 (bitsOf v 7 0))) else s
  else plainWrite s d off v

/-- BRC (R209, R210, R231). -/
def writeBrc (s : State) (d : RegDesc) (off : Nat) (v : Word) : State :=
  if off = Reg.brcCtl then writeBrcCtl s v
  else if off = Reg.brcArea then writeBrcArea s v
  else if off = Reg.brcIdxCmd then writeIdxCmd s v
  else plainWrite s d off v

/-- An 8-byte write of a register that exists (R5, R21). -/
def writeReg (s : State) (off : Nat) (v : Word) : State :=
  match findReg off with
  | none => s
  | some d =>
    match off / 0x10000 with
    | 0 => writeGctl s d off v
    | 1 => writeLmp s d off v
    | 2 => writeInt s d off v
    | 3 => writeTim s d off v
    | 4 => writePwr s d off v
    | 5 => writeSec s d off v
    | 6 => writeObs s d off v
    | 7 => writeChk s d off v
    | 8 => writeTir s d off v
    | 9 => writeFab s d off v
    | 10 => writeHst s d off v
    | 11 => writeSns s d off v
    | 13 => writeVis s d off v
    | 14 => writeFlt s d off v
    | 15 => writeSlv s d off v
    | k => if k < 32 then writeClu s d off v else writeBrc s d off v

/-! ### Reads -/

/-- The register-space offset of the counter that an OBS_SNAP register copies. -/
def snapOf (off : Nat) : Nat := if 0x63000 ≤ off ∧ off < 0x63400 then off - 0x2000 else off

/-- May the session read a counter (R493)? -/
def counterOpen (s : State) (off : Nat) : Bool :=
  let o := snapOf off
  match debugLevel s with
  | 0 => false
  | 1 => decide (0x61200 ≤ o) && decide (o < 0x61400) && s.bit Reg.secDebug (16 + (o - 0x61200) / 0x20)
  | _ => true

/-- A word of the selected unit's last-event ring (R491, R493). -/
def lerWord (s : State) (i : Nat) : Word :=
  match s.obs.lers.find? (fun l => l.unit == s.fld Reg.obsLerSel 7 0) with
  | none => 0
  | some l =>
    let h := i / 4
    -- the entry at slot h is the latest whose number is h modulo 64
    let back := (l.head + 63 - h) % 64
    match l.recs[back]? with
    | some r =>
      if levelSees (debugLevel s) (s.fld Reg.secDebug 31 16) r then wordAt (obsBytes r) (8 * (i % 4)) else 0
    | none => 0

/-- Entries written by the selected unit (R491). -/
def lerHead (s : State) : Word :=
  match s.obs.lers.find? (fun l => l.unit == s.fld Reg.obsLerSel 7 0) with
  | some l => BitVec.ofNat 64 l.head
  | none => 0

/-- A read of the OBS block (R493): refused reads return 0 and set DENIED. -/
def readObs (s : State) (d : RegDesc) (off : Nat) : State × Word :=
  if 0x61000 ≤ off ∧ off < 0x64000 then
    if counterOpen s off then (s, s.reg off) else (obsDenied s, 0)
  else if off = Reg.obsLerHead then if debugLevel s = 0 then (obsDenied s, 0) else (s, lerHead s)
  else if d.off = 0x68800 then
    if debugLevel s = 0 then (obsDenied s, 0) else (s, lerWord s (rowIndex d off))
  else if d.off = 0x60100 ∧ debugLevel s = 0 then (s, s.reg off &&& readMask d &&& ~~~1)
  else (s, s.reg off &&& readMask d)

/-- The registers whose value the device computes when they are read. -/
def viewReg (s : State) (d : RegDesc) (off : Nat) : Word :=
  let n := rowIndex d off
  if d.off = 0x11028 then seqStatView s n
  else if d.off = 0x100000 then cluStatView s n
  else if d.off = 0x100110 then strStatView s n
  else if d.off = 0x100118 then strExistView s n
  else if d.off = 0xD0000 then visStatView s
  else if d.off = 0xF0010 then slvStatView s
  else if d.off = 0xC0000 then fusStatView s
  else if d.off = 0xE1038 then chanStatView s n
  else if d.off = 0x80028 then tirCapView s
  else if d.off = 0x80030 then tirPoolView s
  else if d.off = 0x80180 then tirUseView s n
  else if d.off = 0x50010 then wordAt (nonceBytes s) (8 * n)
  else s.reg off &&& readMask d

/-- A read of a register: what it does, and its 64 bits (R4). -/
def readReg (s : State) (off : Nat) : State × Word :=
  match findReg off with
  | none => (s, 0)
  | some d =>
    if off = Reg.timNowLo then
      let s := nowRead s
      (s, s.reg off)
    else if off / 0x10000 = 6 then readObs s d off
    else (s, viewReg s d off)

/-- The bytes that a checked read of the register space returns (R4, R22). -/
def readRegBytes (s : State) (off len : Nat) : State × List Byte :=
  let r := readReg s (off / 8 * 8)
  (r.1, sliceB (wordBytes r.2) (off % 8) len)

/-- A checked write of register space from a node: its status, and REMOTE_REFUSED where R475 refuses it. -/
def writeRegChecked (s : State) (la : Nat) (bs : List Byte) (remote : Option Nat) : State × Nat :=
  let st := placeCheck s la bs.length .write remote
  if st = stOK then (writeReg s (regOff la) (wordAt bs 0), stOK)
  else if remote.isSome ∧ st = stACCESS ∧ bs.length = 8 then (sticky s Reg.secErr 2 (some 197), st)
  else (s, st)

/-- A checked write of register space, completed with its status (R5, R30): RESULT counts the bytes written. -/
def registerWrite (s : State) (src : Source) (la : Nat) (bs : List Byte) (remote : Option Nat) : State :=
  let r := writeRegChecked s la bs remote
  { r.1 with completions := ⟨src, 2, r.2, if r.2 = stOK then 8 else 0⟩ :: r.1.completions }

/-- REGISTER_WRITE (R5, R6, R22): a write of this node to its own register space. The command names no issuer: its
completion stands under engine 0xFF (DESIGN CHOICE, log 171). -/
def execRegisterWrite (addr : Word) (len : Nat) (value : Word) (s : State) : Host.Outcome State Fault Refusal :=
  let la := localOf addr
  if nodeOf addr ≠ s.node ∨ regionOf la ≠ 63 then .next s
  else .next (registerWrite s (.engine 0xFF) la (sliceB (wordBytes value) 0 len) none)

/-- REMOTE_REGISTER_WRITE (R475): the write of another node. -/
def execRemoteRegisterWrite (node : BitVec 10) (addr : Word) (len : Nat) (value : Word) (s : State) :
    Host.Outcome State Fault Refusal :=
  let la := localOf addr
  if nodeOf addr ≠ s.node ∨ regionOf la ≠ 63 ∨ node.toNat = s.node then .next s
  else .next (registerWrite s (.remote node) la (sliceB (wordBytes value) 0 len) (some node.toNat))

end Sys2Proof.Machine
end

