-- ==== Sys2Proof/Machine/Issue.lean ====
section
/-! DEFINITION. The seven memory operations: checks, effect on this node, packets to other nodes, FENCEs, and operation
records (R23 to R49, R385, R389, R426, R546). -/

namespace Sys2Proof.Machine

/-! ### Bytes of this node -/

/-- Read bytes of this node other than the host window: a status, and the bytes, none where uncorrectable (R18, R46). -/
def readAt (s : State) (la len cls : Nat) (cluster : Option Nat) : State × Nat × List (Option Byte) :=
  let st := placeCheck s la len .read none
  if st ≠ stOK then (s, st, [])
  else if regionOf la < 4 then
    let r := readBytes s la len cls cluster
    (r.1, if r.2.all (·.isSome) then stOK else stUNCORRECTABLE, r.2)
  else if regionOf la = 63 then
    let r := readRegBytes s (regOff la) len
    (r.1, stOK, r.2.map some)
  else (s, stACCESS, [])

/-- Write what a read gave to any place of this node: a status, and the bytes written (R22, R26, R46, R49). -/
def writeAt (s : State) (la : Nat) (bs : List (Option Byte)) (remote : Option Nat) : State × Nat × Nat :=
  if regionOf la = 63 then
    if bs.all (·.isSome) then
      let r := writeRegChecked s la (bs.filterMap id) remote
      (r.1, r.2, if r.2 = stOK then bs.length else 0)
    else (s, placeCheck s la bs.length .write remote, 0)
  else
    let st := placeCheck s la bs.length .write remote
    if st ≠ stOK then (s, st, 0)
    else if regionOf la < 3 then
      let r := writeData s la bs
      (settle r.1, stOK, r.2)
    else
      let r := postData s la bs
      (r.1, stOK, r.2)

/-- The value of an atomic (R25). -/
def atomicValue (aop : Nat) (old operand compare : Word) : Word :=
  match aop with
  | 0 => old + operand
  | 1 => operand
  | 2 => if old = compare then operand else old
  | 3 => if old.toNat < operand.toNat then operand else old
  | 4 => if operand.toNat < old.toNat then operand else old
  | 5 => old ||| operand
  | _ => old &&& operand

/-- What became of an operation at its home: done with a status and a result, or waiting for the host. -/
inductive Perf where
  | done (status : Nat) (result : Word) (data : List Byte)
  | host
  | watch
  deriving DecidableEq, Repr

/-- The cluster an operation reads for (R122). -/
def opCluster (op : Op) : Option Nat := sourceCluster op.source

/-- An ATOMIC on this node (R25, R49). -/
def doAtomic (s : State) (op : Op) : State × Perf :=
  let la := localOf op.dst
  let fail := fun (s : State) (st : Nat) => let r := openResult s op st; (r.1, Perf.done st r.2 [])
  if crossesRegion la 8 then fail s stLIMIT
  else if regionOf la = 62 then
    let h := hostCheck s la 8
    if h ≠ stOK then fail s h
    else if 2 < op.aop ∨ !s.ep.rootAtom then fail s stACCESS
    else if la % 8 ≠ 0 then fail s stALIGNMENT
    else (s, .host)
  else
    let st := placeCheck s la 8 .atomic none
    if st ≠ stOK then fail s st
    else
      let r := readAt s la 8 op.cls (opCluster op)
      if r.2.1 ≠ stOK then fail r.1 r.2.1
      else
        let old := wordAt (r.2.2.filterMap id) 0
        let s := settle (writeBytes r.1 la (wordBytes (atomicValue op.aop old op.operand op.compare)))
        (s, .done stOK old [])

/-- WATCHes that are pending on this node's buoys (R38). -/
def watchCount (s : State) : Nat :=
  (s.ops.filter (fun p => match p.phase with
    | .watch _ => true
    | _ => false)).length

/-- A WATCH at the buoy's home node (R31, R35, R36, R38); a buoy that cannot be corrected is not read (R46). -/
def doWatch (s : State) (op : Op) : State × Perf :=
  let la := localOf op.dst
  let st := buoyCheck s la
  if st ≠ stOK then
    let r := openResult s op st
    (r.1, .done st r.2 [])
  else
    let r := readAt s la 8 op.cls (opCluster op)
    if r.2.1 ≠ stOK then
      let e := openResult r.1 op r.2.1
      (e.1, .done r.2.1 e.2 [])
    else
      let w := wordAt (r.2.2.filterMap id) 0
      match watchCond w op.operand with
      | some st => (r.1, .done st w [])
      | none => if 262144 ≤ watchCount r.1 then (r.1, .done stNO_RESOURCE w []) else (r.1, .watch)

/-- Put bytes at their destination on this node, and the increment of a PUT_SIGNAL (R32, R34). -/
def putBytes (s : State) (op : Op) (bs : List (Option Byte)) (remote : Option Nat) : State × Perf :=
  let la := localOf op.dst
  let w := if bs.isEmpty then (s, stOK, 0) else writeAt s la bs remote
  let st := if w.2.1 ≠ stOK then w.2.1 else if bs.all (·.isSome) then stOK else stUNCORRECTABLE
  if op.code = 3 then
    let b := bump w.1 op.signal (st == stOK) op.cls
    (b.1, .done (if st ≠ stOK then st else b.2) (BitVec.ofNat 64 w.2.2) [])
  else (w.1, .done st (BitVec.ofNat 64 w.2.2) [])

/-- The status of the issuer's buffer of a GET, as a place to write to (R18, R26); OK where the issuer carries the bytes. -/
def bufferCheck (s : State) (o : Origin) (op : Op) : Nat :=
  if o.carries then stOK else placeCheck s (localOf op.src) op.len .write none

/-- A PUT or PUT_SIGNAL to this node, `data` being what a carrier brought (R23, R24). The place of DST is checked before
SRC is read (DESIGN CHOICE, log 75). A PUT_SIGNAL whose SRC cannot be read has not reached its destination, and its
SIGNAL stays unchanged (DESIGN CHOICE, log 172). -/
def doPut (s : State) (o : Origin) (op : Op) (data : List Byte) (remote : Option Nat) : State × Perf :=
  if o.carries then putBytes s op (data.map some) remote
  else
    let la := localOf op.src
    if regionOf la = 62 then
      let h := hostCheck s la op.len
      if h ≠ stOK then (s, .done h 0 []) else (s, .host)
    else
      let st := placeCheck s (localOf op.dst) op.len .write remote
      let r := if st = stOK then readAt s la op.len op.cls (opCluster op) else (s, stOK, [])
      if r.2.1 ≠ stOK ∧ r.2.1 ≠ stUNCORRECTABLE then (r.1, .done r.2.1 0 [])
      else if st ≠ stOK then
        if op.code = 3 then ((bump r.1 op.signal false op.cls).1, .done st 0 []) else (r.1, .done st 0 [])
      else putBytes r.1 op r.2.2 remote

/-- Bytes that a GET has read reach its issuer: its buffer at SRC, or the carrier's response (R23, R46), in which a byte
that could not be read has no value (DESIGN CHOICE, log 77). -/
def deliverGet (s : State) (o : Origin) (op : Op) (st : Nat) (bs : List (Option Byte)) : State × Perf :=
  if o.carries then
    if st = stOK then (s, .done stOK (BitVec.ofNat 64 bs.length) (bs.filterMap id))
    else (s.bumpFree, .done st 0 (bs.zipIdx.map (fun e => e.1.getD (Config.freeByte s.freeCtr e.2))))
  else
    let w := writeAt s (localOf op.src) bs none
    (w.1, .done (if w.2.1 ≠ stOK then w.2.1 else st) (BitVec.ofNat 64 w.2.2) [])

/-- A GET from this node (R23, R24, R46): both places are checked before any byte moves (R18), DST first (DESIGN CHOICE,
log 75). -/
def doGet (s : State) (o : Origin) (op : Op) : State × Perf :=
  let la := localOf op.dst
  if regionOf la = 62 then
    let h := hostCheck s la op.len
    if h ≠ stOK then (s, .done h 0 [])
    else if bufferCheck s o op ≠ stOK then (s, .done (bufferCheck s o op) 0 [])
    else (s, .host)
  else
    let st := placeCheck s la op.len .read none
    if st ≠ stOK then (s, .done st 0 [])
    else if bufferCheck s o op ≠ stOK then (s, .done (bufferCheck s o op) 0 [])
    else
      let r := readAt s la op.len op.cls (opCluster op)
      deliverGet r.1 o op r.2.1 r.2.2

/-! ### Checks that come first (R23 to R25, R30) -/

/-- The limits of an operation: LIMIT, or BAD_RECORD for a reserved code; 0 otherwise. -/
def limitCheck (s : State) (o : Origin) (op : Op) : Nat :=
  let span := fun (a : Word) => crossesRegion (localOf a) op.len
  let buffer := !o.carries
  match op.code with
  | 1 => if op.len = 0 ∨ 4096 < op.len ∨ span op.dst ∨ (buffer ∧ (nodeOf op.src ≠ s.node ∨ span op.src)) then stLIMIT else 0
  | 2 => if op.len = 0 ∨ 4096 < op.len ∨ span op.dst ∨ (buffer ∧ (nodeOf op.src ≠ s.node ∨ span op.src)) then stLIMIT else 0
  | 3 =>
    if op.len = 0 ∨ 4096 < op.len ∨ span op.dst ∨ (buffer ∧ (nodeOf op.src ≠ s.node ∨ span op.src))
      ∨ nodeOf op.signal ≠ nodeOf op.dst then stLIMIT else 0
  | 4 => if 6 < op.aop then stBAD_RECORD else 0
  | 5 => 0
  | 6 => if op.len = 0 ∨ 0x40000000 < op.len ∨ span op.dst ∨ span op.src then stLIMIT else 0
  | 7 => 0
  | _ => stBAD_RECORD

/-- The readable 64-byte blocks of a transfer to another node, as address and bytes (R46). -/
def goodBlocks : Nat → Word → List (Option Byte) → List (Word × List Byte)
  | 0, _, _ => []
  | k + 1, a, bs =>
    if bs.isEmpty then []
    else
      let n := min bs.length (64 - a.toNat % 64)
      let part := bs.take n
      let rest := goodBlocks k (a + BitVec.ofNat 64 n) (bs.drop n)
      if part.all (·.isSome) then (a, part.filterMap id) :: rest else rest

/-- A PUT of partly uncorrectable bytes to another node: the blocks that can be read go there, and a PUT_SIGNAL counts a
failure (R34, R46). -/
def sendBlocks (s : State) (p : PendingOp) (bs : List (Option Byte)) : State :=
  let blocks := goodBlocks (bs.length / 64 + 2) p.op.dst bs
  let s := blocks.foldl (fun s b =>
    let op := { p.op with code := 2, dst := b.1, len := b.2.length, signal := 0, done := 0 }
    let tag := s.nextTag
    sendOp { s with nextTag := tag + 1 } ⟨tag, op, .part, .queued, []⟩ b.2) s
  let s := if p.op.code = 3 then (bump s p.op.signal false p.op.cls).1 else s
  complete s p.origin p.op stUNCORRECTABLE
    (BitVec.ofNat 64 ((blocks.map (·.2.length)).foldl (· + ·) 0)) []

/-- A PUT or PUT_SIGNAL to another node. -/
def sendPut (s : State) (p : PendingOp) : State :=
  if p.origin.carries then sendOp s p p.data
  else
    let la := localOf p.op.src
    if regionOf la = 62 then
      let h := hostCheck s la p.op.len
      if h ≠ stOK then complete s p.origin p.op h 0 [] else askHost s p
    else
      let r := readAt s la p.op.len p.op.cls (opCluster p.op)
      if r.2.1 = stOK then sendOp r.1 p (r.2.2.filterMap id)
      else if r.2.1 = stUNCORRECTABLE then sendBlocks r.1 p r.2.2
      else complete r.1 p.origin p.op r.2.1 0 []

/-- The 64-byte blocks of a destination that bytes answered with UNCORRECTABLE fill: which of them hold an
uncorrectable byte the answer does not say (R46, free, log 77). -/
def freeBlocks (s : State) (dst : Word) (bs : List Byte) : List (Option Byte) :=
  let w := Config.freeWord s.freeCtr
  bs.zipIdx.map (fun e =>
    let b := (dst.toNat % 64 + e.2) / 64
    if w.getLsbD (b % 64) then some e.1 else none)

/-- The GET packets of a COPY from another node: 4,096 bytes each. -/
def copyGets (tag : Nat) (op : Op) : Nat → State → Nat → State
  | 0, s, _ => s
  | k + 1, s, off =>
    if op.len ≤ off then s
    else
      let n := min 4096 (op.len - off)
      let dst := nodeOf op.src
      let p := ownPacket s 1 op.cls 0 dst (op.src + BitVec.ofNat 64 off) 0 tag 0 (zeroBytes n)
      copyGets tag op k (sendPacket s dst p false false).1 (off + n)

/-- The bytes of the part of a COPY that begins at an offset: part boundaries lie on the 64 KiB boundaries of DST (R47). -/
def partLen (op : Op) (off : Nat) : Nat := min (op.len - off) (65536 - (op.dst.toNat + off) % 65536)

/-- The PCIe reads of a COPY from the host window, one for each part that the window covers (R49). -/
def copyReads (tag : Nat) (op : Op) : Nat → State → Nat → State
  | 0, s, _ => s
  | k + 1, s, off =>
    if op.len ≤ off then s
    else
      let n := partLen op off
      let la := localOf op.src + off
      copyReads tag op k (if hostCheck s la n = stOK then hostRequestAt s tag la n none else s) (off + n)

/-! ### Issue (R40 to R42) -/

/-- An operation is done at its home: it completes, and the record that the read of one has brought is taken. -/
def afterDone (s : State) (p : PendingOp) (status : Nat) (result : Word) (data : List Byte) : State :=
  match p.origin with
  | .fetch cls next => if status = stOK then takeRecord s p cls next data else complete s p.origin p.op status result data
  | _ => complete s p.origin p.op status result data

/-- Finish, or keep waiting, after what the home node did. -/
def afterPerf (r : State × Perf) (p : PendingOp) : State :=
  match r.2 with
  | .done st res data => afterDone r.1 p st res data
  | .host => askHost r.1 p
  | .watch =>
    let s := r.1.addOp { p with phase := .watch r.1.lamp.counted }
    match p.origin with
    | .packet node tag cls => respond s node tag cls 0x11 stOK 0 []
    | _ => s

/-- The node a request came from (R475). -/
def Origin.remote : Origin → Option Nat
  | .packet n _ _ => some n
  | _ => none

/-- An operation begins (R17, R24, R36, R42, R47). -/
def startOp (s : State) (p : PendingOp) : State :=
  let op := p.op
  let l := limitCheck s p.origin op
  if l ≠ 0 then
    let r := openResult s op l
    complete r.1 p.origin op l r.2 []
  else if op.code = 7 then
    if busyBefore s p then s.addOp { p with phase := .fence } else complete s p.origin op stOK 0 []
  else if op.code = 6 then
    let s := if nodeOf op.src ≠ s.node then copyGets p.tag op (op.len / 4096 + 1) s 0
      else if regionOf (localOf op.src) = 62 then copyReads p.tag op (op.len / 65536 + 2) s 0
      else s
    s.addOp { p with phase := .copy }
  else if p.origin = .signal then startSignal s p
  else if nodeOf op.dst = s.node then
    afterPerf (match op.code with
      | 1 => doGet s p.origin op
      | 4 => doAtomic s op
      | 5 => doWatch s op
      | _ => doPut s p.origin op p.data p.origin.remote) p
  else if op.code = 2 ∨ op.code = 3 then sendPut s p
  else if op.code = 1 ∧ bufferCheck s p.origin op ≠ stOK then complete s p.origin op (bufferCheck s p.origin op) 0 []
  else sendOp s p []

/-- Issue an operation: `data` is what a carrier brings. -/
def issue (s : State) (o : Origin) (op : Op) (data : List Byte) : State :=
  let p : PendingOp := ⟨s.nextTag, op, o, .queued, data⟩
  let s := { s with nextTag := s.nextTag + 1 }
  if mustQueue s p then s.addOp p else startOp s p

/-- Start the queued operations that nothing holds any longer, in order of issue. -/
def releaseQueued : Nat → State → State
  | 0, s => s
  | k + 1, s =>
    match s.ops.find? (fun p => p.phase == .queued && !mustQueue s p) with
    | none => s
    | some p => releaseQueued k (startOp (s.dropOp p.tag) p)

/-- Start what can start. -/
def release (s : State) : State :=
  let n := (s.ops.filter (·.phase == .queued)).length
  if n = 0 then s else releaseQueued n s

/-- What the block does while no command waits: a tick of its time clock (R52, R316), the media errors that arise in it, and
the operations that nothing holds any longer (DESIGN CHOICE, log 2). -/
def idle (s : State) : State := release (mediaArrives (idleTick s))

/-! ### The commands of the operations -/

/-- The operation that a command's operands name. -/
def opOf (h : OpHead) (code aop : Nat) (dst src : Word) (len : Nat) (operand compare signal : Word) : Op :=
  { source := h.source, cls := h.cls.toNat, code := code, aop := aop, dst := dst, src := src, len := len,
    operand := operand, compare := compare, signal := signal, done := h.done }

/-- GET (R23). -/
def execGet (h : OpHead) (dst src : Word) (len : Nat) (s : State) : Host.Outcome State Fault Refusal :=
  .next (issue s .plain (opOf h 1 0 dst src len 0 0 0) [])

/-- PUT (R23). -/
def execPut (h : OpHead) (dst src : Word) (len : Nat) (s : State) : Host.Outcome State Fault Refusal :=
  .next (issue s .plain (opOf h 2 0 dst src len 0 0 0) [])

/-- PUT_SIGNAL (R23, R34). -/
def execPutSignal (h : OpHead) (dst src : Word) (len : Nat) (signal : Word) (s : State) :
    Host.Outcome State Fault Refusal :=
  .next (issue s .plain (opOf h 3 0 dst src len 0 0 signal) [])

/-- ATOMIC ADD (R25). -/
def execAtomicAdd (h : OpHead) (dst operand : Word) (s : State) : Host.Outcome State Fault Refusal :=
  .next (issue s .plain (opOf h 4 0 dst 0 8 operand 0 0) [])

/-- ATOMIC SWAP (R25). -/
def execAtomicSwap (h : OpHead) (dst operand : Word) (s : State) : Host.Outcome State Fault Refusal :=
  .next (issue s .plain (opOf h 4 1 dst 0 8 operand 0 0) [])

/-- ATOMIC CAS (R25). -/
def execAtomicCas (h : OpHead) (dst operand compare : Word) (s : State) : Host.Outcome State Fault Refusal :=
  .next (issue s .plain (opOf h 4 2 dst 0 8 operand compare 0) [])

/-- ATOMIC MAX (R25). -/
def execAtomicMax (h : OpHead) (dst operand : Word) (s : State) : Host.Outcome State Fault Refusal :=
  .next (issue s .plain (opOf h 4 3 dst 0 8 operand 0 0) [])

/-- ATOMIC MIN (R25). -/
def execAtomicMin (h : OpHead) (dst operand : Word) (s : State) : Host.Outcome State Fault Refusal :=
  .next (issue s .plain (opOf h 4 4 dst 0 8 operand 0 0) [])

/-- ATOMIC OR (R25). -/
def execAtomicOr (h : OpHead) (dst operand : Word) (s : State) : Host.Outcome State Fault Refusal :=
  .next (issue s .plain (opOf h 4 5 dst 0 8 operand 0 0) [])

/-- ATOMIC AND (R25). -/
def execAtomicAnd (h : OpHead) (dst operand : Word) (s : State) : Host.Outcome State Fault Refusal :=
  .next (issue s .plain (opOf h 4 6 dst 0 8 operand 0 0) [])

/-- WATCH (R35, R36): LENGTH is the timeout in Lamp edges, 0 for none. -/
def execWatch (h : OpHead) (dst operand : Word) (edges : Nat) (s : State) : Host.Outcome State Fault Refusal :=
  .next (issue s .plain (opOf h 5 0 dst 0 edges operand 0 0) [])

/-- COPY (R47). -/
def execCopy (h : OpHead) (dst src : Word) (len : Nat) (report : Word) (s : State) :
    Host.Outcome State Fault Refusal :=
  .next (issue s .plain (opOf h 6 0 dst src len 0 0 report) [])

/-- FENCE (R42). -/
def execFence (h : OpHead) (s : State) : Host.Outcome State Fault Refusal :=
  .next (issue s .plain (opOf h 7 0 0 0 0 0 0 0) [])

/-- FENCE_COMPLETE (R42): everything issued before the FENCE has completed; what its source issued behind it starts. -/
def execFenceComplete (tag : Nat) (s : State) : Host.Outcome State Fault Refusal :=
  match s.ops.find? (fun p => p.tag == tag && p.phase == .fence) with
  | some p => if busyBefore s p then .next s else .next (release (completeOp s p stOK 0 []))
  | none => .next (release s)

/-- WATCH_TIMEOUT (R37): the edges counted since its issue reach LENGTH. At another node the entry is cancelled, and the
buoy's value there is not known (free, log 7); a WATCH still held here never leaves. -/
def execWatchTimeout (tag : Nat) (s : State) : Host.Outcome State Fault Refusal :=
  match s.ops.find? (·.tag == tag) with
  | none => .next s
  | some p =>
    match p.phase with
    | .watch since =>
      if p.op.len = 0 ∨ p.origin.carries ∨ s.lamp.counted < since + p.op.len then .next s
      else .next (release (completeOp s p stTIMEOUT (s.word (localOf p.op.dst)) []))
    | .held _ since =>
      if p.op.code ≠ 5 ∨ p.op.len = 0 ∨ s.lamp.counted < since + p.op.len then .next s
      else .next (release (failOp (s.dropHeld p.tag) p stTIMEOUT))
    | .remoteWatch n _ since =>
      if p.op.len = 0 ∨ s.lamp.counted < since + p.op.len then .next s
      else
        let s := release (failOp s p stTIMEOUT)
        .next (sendPacket s n (ownPacket s 0x06 p.op.cls 0 n p.op.dst 0 p.tag 0 []) false false).1
    | _ => .next s

/-! ### COPY (R47) -/

/-- What the parts of a COPY have come to: bytes moved, failed parts with their status (latest first), parts, and what
other nodes and the host have answered and no part has used. -/
structure CopyRun where
  moved  : Nat
  failed : List (Nat × Nat)
  parts  : Nat
  remote : List Byte
  deriving DecidableEq, Repr

/-- The PUT packets of a part for another node. -/
def copyPuts (tag cls : Nat) (dst : Word) : Nat → State → Nat → List Byte → State
  | 0, s, _, _ => s
  | k + 1, s, off, bs =>
    if bs.isEmpty then s
    else
      let a := dst + BitVec.ofNat 64 off
      let p := ownPacket s 2 cls 0 (nodeOf dst) a 0 tag 0 (bs.take 4096)
      copyPuts tag cls dst k (sendPacket s (nodeOf dst) p false false).1 (off + 4096) (bs.drop 4096)

/-- Does an address name memory, an object place or a register place on any node: UNMAPPED where no node has one
(R16, R18)? -/
def mapCheck (la len : Nat) : Nat :=
  let e := la + len
  match regionOf la with
  | 0 => if 0x100000000000 < e then stUNMAPPED else stOK
  | 1 => if dramBase + dramSize < e then stUNMAPPED else stOK
  | 2 => if sramBase + sramSize < e then stUNMAPPED else stOK
  | 3 => if flashBase + flashSize < e then stUNMAPPED else stOK
  | 62 => stOK
  | 63 => if regBase + 2 ^ 32 < e then stUNMAPPED else stOK
  | _ => stUNMAPPED

/-- The next status that others have answered: LINK_FAILED where there is none, or none of R44 (R389). -/
def takeStatus (c : CopyRun) : Nat × CopyRun :=
  match c.remote with
  | [] => (stLINK_FAILED, c)
  | b :: rest => (if b.toNat ≤ 13 then b.toNat else stLINK_FAILED, { c with remote := rest })

/-- The source bytes of a part on another node or in the host window: their status, and of an uncorrectable part the
blocks that can be read, which are free (DESIGN CHOICE, log 77). A part that no node can hold, or the route or the
window refuses, has no answer. -/
def awayBytes (s : State) (src dst : Word) (n : Nat) (c : CopyRun) : State × Nat × List (Option Byte) × CopyRun :=
  let la := localOf src
  let own := nodeOf src == s.node
  let st := if own then hostCheck s la n
    else if routeTo s (nodeOf src) = .noRoute then stNO_ROUTE
    else mapCheck la n
  if st ≠ stOK then (s, st, [], c)
  else
    let t := takeStatus c
    let d := sliceB t.2.remote 0 n
    let c := { t.2 with remote := t.2.remote.drop n }
    if t.1 = stOK then (s, stOK, d.map some, c)
    else if t.1 = stUNCORRECTABLE then (s.bumpFree, stUNCORRECTABLE, freeBlocks s dst d, c)
    else (s, t.1, [], t.2)

/-- One part of `n` bytes at offset `off`: its status and the bytes moved. -/
def copyPart (s : State) (p : PendingOp) (off n : Nat) (c : CopyRun) : State × CopyRun :=
  let op := p.op
  let src := op.src + BitVec.ofNat 64 off
  let dst := op.dst + BitVec.ofNat 64 off
  let r : State × Nat × List (Option Byte) × CopyRun :=
    if nodeOf src ≠ s.node ∨ regionOf (localOf src) = 62 then awayBytes s src dst n c
    else
      let t := readAt s (localOf src) n op.cls (opCluster op)
      (t.1, t.2.1, t.2.2, c)
  let c := r.2.2.2
  let w : State × Nat × Nat × CopyRun :=
    if r.2.1 ≠ stOK ∧ r.2.1 ≠ stUNCORRECTABLE then (r.1, r.2.1, 0, c)
    else if nodeOf dst = s.node then
      let t := writeAt r.1 (localOf dst) r.2.2.1 none
      (t.1, if t.2.1 ≠ stOK then t.2.1 else r.2.1, t.2.2, c)
    else if routeTo s (nodeOf dst) = .noRoute then (r.1, stNO_ROUTE, 0, c)
    else if mapCheck (localOf dst) n ≠ stOK then (r.1, mapCheck (localOf dst) n, 0, c)
    else
      -- the blocks that can be read go there (R46), in packets of up to 4,096 bytes where all of them can
      let blocks := if r.2.2.1.all (·.isSome) then [(dst, r.2.2.1.filterMap id)]
        else goodBlocks (n / 64 + 2) dst r.2.2.1
      let t := blocks.foldl (fun s e => copyPuts p.tag op.cls e.1 (n / 4096 + 1) s 0 e.2) r.1
      let a := takeStatus c
      (t, if a.1 ≠ stOK then a.1 else r.2.1, if a.1 = stOK then (blocks.map (·.2.length)).foldl (· + ·) 0 else 0, a.2)
  let c := w.2.2.2
  (w.1, { c with moved := c.moved + w.2.2.1, parts := c.parts + 1,
                 failed := if w.2.1 = stOK then c.failed else (c.parts, w.2.1) :: c.failed })

/-- Every part. The parts have no order among themselves (R43): all of them move at COPY_COMPLETE, in ascending order of
offset, also where SRC and DST overlap (DESIGN CHOICE, log 173). -/
def copyParts (p : PendingOp) : Nat → State → Nat → CopyRun → State × CopyRun
  | 0, s, _, c => (s, c)
  | k + 1, s, off, c =>
    if p.op.len ≤ off then (s, c)
    else
      let n := partLen p.op off
      let r := copyPart s p off n c
      copyParts p k r.1 (off + n) r.2

/-- The part report (R47). -/
def copyReport (c : CopyRun) : List Byte :=
  let fails := c.failed.map (·.1)
  let map := (List.range ((c.parts + 7) / 8)).map (fun i =>
    BitVec.ofNat 8 (((List.range 8).map (fun b => if fails.contains (8 * i + b) then 2 ^ b else 0)).foldl (· + ·) 0))
  leBytes 4 c.parts ++ leBytes 4 c.failed.length ++ leBytes 1 ((c.failed.getLast?.map (·.2)).getD 0) ++ zeroBytes 7 ++ map

/-- The COPY ends with a status and the bytes moved, once its part report is written, on another node once that has
answered (R47); a failed write of the report is the status (DEDUCED, log 76). -/
def endCopy (s : State) (p : PendingOp) (st : Nat) (moved : Word) (bs : List Byte) : State :=
  if p.op.signal = 0 then completeOp s p st moved []
  else if nodeOf p.op.signal = s.node then
    let w := unitWrite s p.op.signal bs
    completeOp w.1 p (if w.2 ≠ stOK then w.2 else st) moved []
  else
    let n := nodeOf p.op.signal
    let r := sendPacket s n (ownPacket s 2 p.op.cls 0 n p.op.signal 0 p.tag 0 bs) false true
    match r.2 with
    | .failed e => completeOp r.1 p e moved []
    | _ => (r.1.dropOp p.tag).addOp { p with phase := .report st moved }

/-- COPY_COMPLETE (R47): the last part ends. `remote` holds, part by part, what others have answered: of a source on
another node or in the host window its status and, when that is OK or UNCORRECTABLE, its bytes; then of a destination on
another node its status. -/
def execCopyComplete (tag : Nat) (remote : List Byte) (s : State) : Host.Outcome State Fault Refusal :=
  match s.ops.find? (fun p => p.tag == tag && p.phase == .copy) with
  | none => .next s
  | some p =>
    let r := copyParts p (p.op.len / 65536 + 2) s 0 ⟨0, [], 0, remote⟩
    let st := if r.2.failed.isEmpty then stOK else stPARTIAL
    .next (release (endCopy r.1 p st (BitVec.ofNat 64 r.2.moved) (copyReport r.2)))

/-! ### Operation records (R28, R546) -/

/-- Issue the record at an address (R28, R546): `origin` says how it is reported, given the record's address. A record of
this node's memory is read at once; one of another node or of the host window is read by a GET of the issuer. -/
def issueRecord (s : State) (src : Source) (cls : Option Nat) (a : Word) (origin : Option Word → Origin) : State :=
  if a.toNat % 64 ≠ 0 then
    complete s.bumpFree (origin none) (noOp src) stALIGNMENT (Config.freeWord s.freeCtr) []
  else if nodeOf a ≠ s.node ∨ regionOf (localOf a) = 62 then
    issue s (.fetch cls (origin (some a))) ⟨src, cls.getD 3, 1, 0, a, 0, 64, 0, 0, 0, 0⟩ []
  else
    let r := unitRead s a 64 (cls.getD 3) none
    if r.2.1 ≠ stOK then complete r.1.bumpFree (origin none) (noOp src) r.2.1 (Config.freeWord r.1.freeCtr) []
    else
      let op := recordOp src cls r.2.2
      let o := origin (some a)
      if recordBad r.2.2 then rejectRecord r.1 o op else issue r.1 o op []

/-! ### Completions from the host (R49) -/

/-- HOST_COMPLETION (R49): a PCIe read or AtomicOp has been answered. The spec gives no status for a PCIe completion that
is not successful (free among the failures, DESIGN CHOICE, log 7). -/
def execHostCompletion (tag : Nat) (ok : Bool) (data : List Byte) (s : State) : Host.Outcome State Fault Refusal :=
  match s.ops.find? (fun p => p.tag == tag && p.phase == .hostWait) with
  | none => .next s
  | some p =>
    if !ok then .next (release (failOp s.bumpFree p (1 + Config.freeBelow s.freeCtr 13)))
    else
      let s := s.dropOp tag
      let bs := sliceB data 0 p.op.len
      .next (release (match p.op.code with
        | 1 => afterPerf (deliverGet s p.origin p.op stOK (bs.map some)) p
        | 4 => complete s p.origin p.op stOK (wordAt (sliceB data 0 8) 0) []
        | _ =>
          if nodeOf p.op.dst = s.node then afterPerf (putBytes s p.op (bs.map some) p.origin.remote) p
          else sendOp s p bs))

end Sys2Proof.Machine
end

