-- ==== Sys2Proof/Machine/Service.lean ====
section
/-! DEFINITION. The relocalisation service (09_relocalisation_service.md): the formats it reads and writes, and what each
of its nodes computes (R233 to R252). The service is a frame graph of the shipped image; BATCH_LAUNCH of one of its strand
nodes does that node's work (DESIGN CHOICE, log 165), and its queries and its solver job are ordinary ones. -/

namespace Sys2Proof.Machine

/-! ### The parameters (R234) -/

/-- The parameter block (R234). -/
structure ServiceParams where
  inring     : Word
  scratch    : Word
  qring      : Nat
  maxq       : Nat
  gindex     : Nat
  lindex     : Nat
  pm1        : Nat
  thresh     : Nat
  keyframes  : Nat
  maxdist    : Nat
  matchMax   : Nat
  ratioPct   : Nat
  minMatches : Nat
  minInliers : Nat
  lmIters    : Nat
  msel       : List Nat
  tau2       : Nat
  sigma      : Nat
  counters   : Word
  answers    : Word
  deriving DecidableEq, Repr

/-- The fields of a 128-byte parameter block. -/
def serviceParams (b : List Byte) : ServiceParams :=
  { inring := wordAt b 0, scratch := wordAt b 8, qring := u16At b 16, maxq := u16At b 18, gindex := u8At b 20 % 16,
    lindex := u8At b 20 / 16, pm1 := u8At b 21, thresh := u8At b 22, keyframes := u8At b 23, maxdist := u16At b 24,
    matchMax := u16At b 26, ratioPct := u8At b 28, minMatches := u8At b 29, minInliers := u8At b 30,
    lmIters := u8At b 31, msel := (List.range 12).map (fun j => u16At b (32 + 2 * j)), tau2 := u32At b 56,
    sigma := u32At b 60, counters := wordAt b 64, answers := wordAt b 72 }

/-- Is every field within its range (R234)? -/
def serviceParamsOk (b : List Byte) : Bool :=
  let p := serviceParams b
  !outside p.qring 16 1024 && !outside p.maxq 1 64 && p.gindex != p.lindex && decide (p.thresh ≤ 128)
    && !outside p.keyframes 1 4 && decide (p.maxdist ≤ 512) && decide (p.matchMax ≤ 512) && !outside p.ratioPct 1 100
    && decide (4 ≤ p.minMatches) && decide (4 ≤ p.minInliers) && !outside p.lmIters 1 32
    && p.msel.all (fun m => decide (m ≤ 511)) && f32lt 0 p.tau2 && f32lt 0 p.sigma && allZero (sliceB b 80 48)

/-- The shipped values of bytes 16 to 31 and 56 to 63 (R234), with two index numbers. -/
def serviceDefaults (gindex lindex : Nat) : List Byte :=
  zeroBytes 16 ++ leBytes 2 128 ++ leBytes 2 32 ++ leBytes 1 (gindex % 16 + lindex % 16 * 16)
    ++ ([15, 40, 4].map (BitVec.ofNat 8)) ++ leBytes 2 128 ++ leBytes 2 80 ++ ([80, 6, 12, 8].map (BitVec.ofNat 8))
    ++ zeroBytes 24 ++ leBytes 4 0x39800000 ++ leBytes 4 0x3A800000 ++ zeroBytes 64

/-! ### The map (R235, R236) -/

/-- The key of a landmark (R236). -/
def landmarkKey (keyframe number : Nat) : Nat := (keyframe * 2 ^ 11 + number % 2 ^ 11) % 2 ^ 64

/-- The bucket of LINDEX that the map keeps empty, for `b` bucket bits (R236). -/
def emptyBucket (b : Nat) : Nat := 2 ^ b - 1

/-- May the map use a keyframe ID: not all of its low `b` bits set (R236)? -/
def keyframeIdOk (b keyframe : Nat) : Bool := keyframe % 2 ^ b != emptyBucket b

/-! ### A query (R237 to R240) -/

/-- The bytes of an input slot (R237). -/
abbrev serviceSlotLen : Nat := 81920

/-- The slot of input `u` (R237). -/
def inputSlot (p : ServiceParams) (u : Nat) : Word := p.inring + BitVec.ofNat 64 (u % p.qring * serviceSlotLen)

/-- Feature `f` of a slot (R237). -/
def featureAddr (slot : Word) (f : Nat) : Word := slot + BitVec.ofNat 64 (64 + 72 * f)

/-- The query header (R237). -/
structure InputHeader where
  qid   : Word
  stamp : Word
  gdesc : Word
  intr  : Word
  prior : Word
  out   : Word
  rbuoy : Word
  nfeat : Nat
  zero  : Nat
  seq   : Nat
  deriving DecidableEq, Repr

/-- The fields of a 64-byte header. -/
def inputHeader (b : List Byte) : InputHeader :=
  { qid := wordAt b 0, stamp := wordAt b 8, gdesc := wordAt b 16, intr := wordAt b 24, prior := wordAt b 32,
    out := wordAt b 40, rbuoy := wordAt b 48, nfeat := u16At b 56, zero := u16At b 58, seq := u32At b 60 }

/-- Does a slot hold input `u` (R239)? -/
def slotHolds (h : InputHeader) (u : Nat) : Bool := h.seq == u % 2 ^ 32

/-- Is an address aligned to `2 ^ k` bytes and on a node? -/
def alignedOn (a : Word) (k node : Nat) : Bool := a.toNat % 2 ^ k == 0 && nodeOf a == node

/-- Is a calibration record a camera model record (R302)? -/
def cameraOk (c : List Byte) : Bool := calOk c && (u8At c 0 == 1 || u8At c 0 == 2)

/-- The checks of node 0 (R237, R240), with the camera model record that INTR names and the prior block. -/
def headerOk (node : Nat) (h : InputHeader) (camera : List Byte) (prior : Option (List Byte)) : Bool :=
  !outside h.nfeat 1 1024 && h.zero == 0 && alignedOn h.gdesc 6 node && alignedOn h.intr 6 node
    && (h.prior == 0 || alignedOn h.prior 6 node) && h.out.toNat % 64 == 0
    && (h.rbuoy == 0 || alignedOn h.rbuoy 3 (nodeOf h.out)) && cameraOk camera
    && (match prior with
        | some b => allZero (sliceB b 40 24)
        | none => true)

/-- The codes of STATUS in a result. -/
abbrev svcOK : Nat := 1
/-- No keyframe was kept. -/
abbrev svcNO_CANDIDATE : Nat := 2
/-- Fewer than MIN_MATCHES correspondences. -/
abbrev svcFEW_MATCHES : Nat := 3
/-- No hypothesis reached MIN_INLIERS. -/
abbrev svcNO_CONSENSUS : Nat := 4
/-- A header or a parameter is out of its range. -/
abbrev svcBAD_QUERY : Nat := 5
/-- A Bramble query of the input was refused. -/
abbrev svcMAP_UNAVAILABLE : Nat := 6
/-- Beyond the first MAXQ inputs of the instance. -/
abbrev svcOVERLOAD : Nat := 7
/-- The instance ended ABORTED. -/
abbrev svcABORTED : Nat := 8

/-- What node 0 makes of an input. -/
inductive Verdict where
  /-- the slot does not hold the input: counted and not answered -/
  | badSlot
  /-- answered without searching -/
  | answered (status : Nat)
  /-- searched -/
  | searched
  deriving DecidableEq, Repr

/-- Node 0 on input `u`, the `i`-th its instance admitted (R234, R239, R240). An input beyond MAXQ is OVERLOAD whatever
its header holds (DESIGN CHOICE, log 165). -/
def verdict (node : Nat) (block : List Byte) (h : InputHeader) (camera : List Byte) (prior : Option (List Byte))
    (i u : Nat) : Verdict :=
  if !slotHolds h u then .badSlot
  else if !serviceParamsOk block then .answered svcBAD_QUERY
  else if (serviceParams block).maxq ≤ i then .answered svcOVERLOAD
  else if !headerOk node h camera prior then .answered svcBAD_QUERY
  else .searched

/-! ### The Bramble queries (R240, R241, R243) -/

/-- A query descriptor (R215). -/
def queryBytes (ctrl qdesc out bkey kmask kmatch maxout : Nat) : List Byte :=
  leBytes 8 ctrl ++ leBytes 8 qdesc ++ leBytes 8 out ++ leBytes 8 bkey ++ leBytes 8 kmask ++ leBytes 8 kmatch
    ++ leBytes 4 maxout ++ zeroBytes 12

/-- The SEARCH of stage 1 (R241): n is 4. -/
def searchQuery (p : ServiceParams) (h : InputHeader) (out : Word) : List Byte :=
  queryBytes (p.gindex + p.pm1 * 2 ^ 8 + 3 * 2 ^ 16 + p.thresh * 2 ^ 24 + p.maxdist * 2 ^ 32) h.gdesc.toNat out.toNat
    0 0 0 0

/-- The FETCH of a kept keyframe (R243). -/
def fetchQuery (p : ServiceParams) (b keyframe : Nat) (out : Word) : List Byte :=
  queryBytes (p.lindex + 2 ^ 4) 0 out.toNat (keyframe % 2 ^ b) (2 ^ 64 - 1 - 0x7FF) (landmarkKey keyframe 0) 2048

/-- The FETCH that stands in for a query that is not needed (R240): LOCAL, of the empty bucket. -/
def idleQuery (p : ServiceParams) (b : Nat) (out : Word) : List Byte :=
  queryBytes (p.lindex + 2 ^ 4 + 2 ^ 5) 0 out.toNat (emptyBucket b) 0 0 2048

/-! ### The kept keyframes (R235, R241, R242) -/

/-- A keyframe from a SEARCH item (R219, R235): none for an unfilled item. -/
def keyframeOf (item : List Byte) : Option Keyframe :=
  if wordAt item 0 = BitVec.allOnes 64 then none
  else some ⟨wordAt item 0, wordAt item 20, (List.range 3).map (fun i => f32At item (28 + 4 * i))⟩

/-- Does the prior's gate drop a keyframe (R242)? -/
def gated (prior : Option (List Byte)) (k : Keyframe) : Bool :=
  match prior with
  | none => false
  | some b =>
    let gate := f32At b 28
    let diff := fun (i : Nat) => f32sub (at0 k.pos i) (f32At b (16 + 4 * i))
    f32lt 0 gate && wordAt b 32 == k.tile
      && f32lt (f32mul gate gate)
        (f32fma (diff 2) (diff 2) (f32fma (diff 1) (diff 1) (f32mul (diff 0) (diff 0))))

/-- The keyframes kept, in rank order (R241): the first K that lie in the tile of the first one the gate leaves. -/
def keptKeyframes (p : ServiceParams) (prior : Option (List Byte)) (items : List (List Byte)) : List Keyframe :=
  let left := (items.filterMap keyframeOf).filter (fun k => !gated prior k)
  (left.filter (fun k => some k.tile == left.head?.map (·.tile))).take p.keyframes

/-- KF of the result (R241). -/
def keyframeIds (ks : List Keyframe) : List Word :=
  (List.range 4).map (fun i => (ks[i]?.map (·.id)).getD (BitVec.allOnes 64))

/-- Is the prior used (R242): its tile is the result's? -/
def priorUsed (prior : Option (List Byte)) (tile : Word) : Bool :=
  match prior with
  | none => false
  | some b => wordAt b 32 == tile

/-! ### Matching (R236, R243, R244) -/

/-- The normalised coordinates of a feature, through the camera model (R243, R303, R304). -/
def featureCoords (camera feature : List Byte) : Option (Nat × Nat) :=
  let px := fun (o : Nat) => f32div (f32ofInt (u32At feature o)) (f32ofInt 256)
  unproject camera (px 0) (px 4)

/-- Bit `k` of a descriptor (R200). -/
def descBit (d : List Byte) (k : Nat) : Bool := (u8At d (k / 8)).testBit (k % 8)

/-- The match key h(d) (R244). -/
def matchKey (msel : List Nat) (d : List Byte) : Nat :=
  (msel.zipIdx.map (fun m => if descBit d m.1 then 2 ^ m.2 else 0)).foldl (· + ·) 0

/-- The landmark list Λ (R244): the fetched entries keyframe by keyframe, each cut to min(FOUND, MAXOUT). -/
def landmarkList (fetched : List (Nat × List (List Byte))) : List (List Byte) :=
  (fetched.map (fun r => r.2.take (min r.1 2048))).flatten

/-- The descriptor and the position of an entry (R200, R236). -/
def landmarkDesc (e : List Byte) : List Byte := sliceB e 16 64

/-- Its position, three binary32 words. -/
def landmarkPos (e : List Byte) : List Nat := (List.range 3).map (fun i => f32At e (92 + 4 * i))

/-- The candidates of a match key with their distances, the least first and then the lowest λ (R244 steps 1 and 2). -/
def candidates (msel : List Nat) (d : List Byte) (lms : List (List Byte)) : List (Nat × Nat) :=
  let near := lms.zipIdx.filter (fun l => decide (popN 12 (matchKey msel d ^^^ matchKey msel (landmarkDesc l.1)) ≤ 1))
  sortBy (fun a b => decide (a.1 < b.1) || (a.1 == b.1 && decide (a.2 < b.2)))
    (near.map (fun l => (hamming d (landmarkDesc l.1), l.2)))

/-- The match of one feature (R244 step 3): its least distance and λ. -/
def matchOf (p : ServiceParams) (cs : List (Nat × Nat)) : Option (Nat × Nat) :=
  match cs with
  | [] => none
  | c :: rest =>
    let d2 := (rest.head?.map (·.1)).getD 512
    if c.1 ≤ p.matchMax ∧ 100 * c.1 ≤ p.ratioPct * d2 then some c else none

/-- The correspondences (R244 step 4), of the features that have coordinates, in ascending feature index. -/
def correspondences (p : ServiceParams) (features : List (Nat × List Byte)) (lms : List (List Byte)) : List Matched :=
  let ms := features.filterMap (fun f => (matchOf p (candidates p.msel f.2 lms)).map (fun c => (⟨f.1, c.1, c.2⟩ : Matched)))
  ms.filter (fun m => ms.all (fun o => o.landmark != m.landmark || o.feature == m.feature || decide (m.dist < o.dist)
    || (m.dist == o.dist && decide (m.feature < o.feature))))

/-! ### Hypotheses (R245, R246) -/

/-- The correspondence indices of hypothesis `h` (R245): up to 16 draws, until four are distinct. -/
def drawIndices (qid : Word) (h m : Nat) : List Nat :=
  (List.range 16).foldl (fun got k =>
    let i := (mixHash qid (BitVec.ofNat 64 (4 * h + k))).toNat % m
    if got.length == 4 || got.contains i then got else got ++ [i]) []

/-- A correspondence as five words: X, Y, Z of the landmark and u, v of the feature. -/
abbrev Corr := List Nat

/-- The inverse of a pose of seven words: the conjugate, and −R(conj q) t (DESIGN CHOICE, log 165). -/
def invertPose (A : Arith) (p : List Nat) : List Nat :=
  let q := A.quatConj (p.take 4)
  q ++ (A.matVec (A.rot q) ((p.drop 4).take 3) [0, 0, 0]).map A.neg

/-- A pose as twelve words: its rotation by rows (R309), then its translation. -/
def poseWords (p : List Nat) : List Nat := (ar32.rot (p.take 4)).flatten ++ (p.drop 4).take 3

/-- A correspondence in the camera frame of a pose: the point, as R246's test forms it. -/
def posePoint (pose : List Nat) (c : Corr) : List Nat :=
  (List.range 3).map (fun r => f32fma (at0 pose (3 * r + 2)) (at0 c 2)
    (f32fma (at0 pose (3 * r + 1)) (at0 c 1) (f32fma (at0 pose (3 * r)) (at0 c 0) (at0 pose (9 + r)))))

/-- The squared reprojection error of a correspondence; without one at z ≤ 0 (R245, DESIGN CHOICE, log 165). -/
def reprojection (pose : List Nat) (c : Corr) : Option Nat :=
  let p := posePoint (poseWords pose) c
  if !f32lt 0 (at0 p 2) then none
  else
    let ex := f32sub (f32div (at0 p 0) (at0 p 2)) (at0 c 3)
    let ey := f32sub (f32div (at0 p 1) (at0 p 2)) (at0 c 4)
    some (f32fma ey ey (f32mul ex ex))

/-- The solution with the least reprojection error of the fourth correspondence, the first of equals (R245). -/
def bestSolution (sols : List (List Nat)) (c : Corr) : Option (List Nat) :=
  leastBy (fun a b => match reprojection a c, reprojection b c with
    | some x, some y => f32lt x y
    | some _, none => true
    | none, _ => false) sols

/-- The tile-to-camera pose of hypothesis `h` (R245): none scores 0. -/
def hypothesis (qid : Word) (prior : Option (List Nat)) (cs : List Corr) (h : Nat) : Option (List Nat) :=
  match if h = 0 then prior else none with
  | some w => some (invertPose ar32 w)
  | none =>
    let ix := (drawIndices qid h cs.length).map (fun i => cs.getD i [])
    if ix.length = 4 then bestSolution ((Config.p3pSolutions (ix.take 3)).take 4) (ix.getD 3 []) else none

/-- Is a correspondence an inlier of a pose (R246, with the steps of the worked program of 07_strands.md)? -/
def inlier (tau2 : Nat) (pose : List Nat) (c : Corr) : Bool :=
  let p := posePoint (poseWords pose) c
  let z := at0 p 2
  let ex := f32sub (at0 p 0) (f32mul (at0 c 3) z)
  let ey := f32sub (at0 p 1) (f32mul (at0 c 4) z)
  f32lt 0 z && f32lt (f32fma ey ey (f32mul ex ex)) (f32mul (f32mul z z) tau2)

/-- The scoring sample (R246): the 128 matches of least distance, ties to the lower feature index. -/
def scoringSample (ms : List Matched) : List Matched :=
  (sortBy (fun a b => decide (a.dist < b.dist) || (a.dist == b.dist && decide (a.feature < b.feature))) ms).take 128

/-- The score of a hypothesis: its inliers in the sample. -/
def scoreOf (tau2 : Nat) (sample : List Corr) (pose : Option (List Nat)) : Nat :=
  match pose with
  | none => 0
  | some w => (sample.filter (inlier tau2 w)).length

/-- The best hypothesis and its score (R246): the highest score, and of equal ones the lowest number. -/
def bestHypothesis (scores : List Nat) : Nat × Nat :=
  scores.zipIdx.foldl (fun best e => if best.2 < e.1 then (e.2, e.1) else best) (0, scores.headD 0)

/-- STATUS of an input that was searched (R241, R244, R246, R248). -/
def searchedStatus (p : ServiceParams) (refused : Bool) (kept matches_ best : Nat) : Nat :=
  if refused then svcMAP_UNAVAILABLE
  else if kept = 0 then svcNO_CANDIDATE
  else if matches_ < p.minMatches then svcFEW_MATCHES
  else if best < p.minInliers then svcNO_CONSENSUS
  else svcOK

/-! ### The result (R247 to R252) -/

/-- The quaternion of a result (R248): w ≥ 0, and with w zero the first of x, y, z that is not zero is positive. -/
def resultQuat (q : List Nat) : List Nat :=
  match q.find? (fun w => w % 2 ^ 31 != 0) with
  | some w => if w < 2 ^ 31 then q else q.map f32neg
  | none => q

/-- What a result says beside its header's fields. -/
structure ServiceResult where
  tile      : Word
  quat      : List Nat
  trans     : List Nat
  status    : Nat
  flags     : Nat
  inliers   : Nat
  matched   : Nat
  bestHyp   : Nat
  residual  : Nat
  cov       : List Nat
  pages     : Nat
  kf        : List Word
  admitAt     : Nat
  ended     : List Nat
  chanFail  : Nat
  nodeFail  : Nat
  snapshots : List Nat
  deriving DecidableEq, Repr

/-- Words of four bytes, padded or cut to `n`. -/
def wordsOf (n : Nat) (ws : List Nat) : List Byte := ((List.range n).map (fun i => leBytes 4 (at0 ws i))).flatten

/-- The first half of a result record: names, pose, status, counts and covariance. -/
def resultPose (h : InputHeader) (r : ServiceResult) : List Byte :=
  wordBytes h.qid ++ wordBytes h.stamp ++ wordBytes r.tile ++ wordsOf 4 r.quat ++ wordsOf 3 r.trans
    ++ leBytes 1 r.status ++ leBytes 1 r.flags ++ leBytes 2 r.inliers ++ leBytes 2 r.matched ++ leBytes 2 r.bestHyp
    ++ leBytes 4 r.residual ++ wordsOf 21 r.cov

/-- The second half: pages, keyframes, edges, failures and snapshots. -/
def resultWork (h : InputHeader) (r : ServiceResult) : List Byte :=
  leBytes 4 r.pages
    ++ ((List.range 4).map (fun i => wordBytes (r.kf.getD i (BitVec.allOnes 64)))).flatten ++ leBytes 8 r.admitAt
    ++ wordsOf 3 r.ended ++ leBytes 2 r.chanFail ++ leBytes 2 (min r.nodeFail 65535)
    ++ ((List.range 4).map (fun i => leBytes 8 (at0 r.snapshots i))).flatten ++ leBytes 4 h.seq ++ zeroBytes 12

/-- The 256 bytes of a result record. -/
def resultBytes (h : InputHeader) (r : ServiceResult) : List Byte := resultPose h r ++ resultWork h r

/-- The answer word of slot `k` before EN is set, for an input buoy that counts `s` successes (R249). -/
def answerStart (qring s k : Nat) : Nat :=
  let u0 := s + 1 + (k + qring - (s + 1) % qring) % qring
  (u0 + 2 ^ 48 - qring) % 2 ^ 48

/-- The claim of input `u` (R248): the answer word after the CAS, and whether it succeeded. -/
def claimWord (qring u : Nat) (word : Nat) : Nat × Bool :=
  if word = (u + 2 ^ 48 - qring) % 2 ^ 48 then (u, true) else (word, false)

/-- The claim as it stands in memory, in the answer word of the input's slot (R248, R249). -/
def claimInput (s : State) (p : ServiceParams) (u : Nat) : State × Bool :=
  let a := p.answers + BitVec.ofNat 64 (8 * (u % p.qring))
  let r := unitRead s a 8 0 none
  if r.2.1 ≠ stOK then (r.1, false)
  else
    let c := claimWord p.qring u (u64At r.2.2 0)
    if c.2 then
      let w := unitWrite r.1 a (leBytes 8 c.1)
      (w.1, w.2 == stOK)
    else (r.1, false)

/-- The service counters (R248 to R252): ADMITTED 0, ANSWERED 1, BAD_SLOT 2, OVERLOAD 3, ABORTED 4, INCOMPLETE 5,
RESULT_FAILED 6. -/
def countService (s : State) (p : ServiceParams) (i : Nat) : State :=
  settle (countAt s (p.counters + BitVec.ofNat 64 (4 * i)) 1)

/-- The writer of results, as a source of operations (DESIGN CHOICE, log 165). -/
def serviceSource : Source := .engine 8

/-- A result is written with one PUT_SIGNAL, or with a PUT when RBUOY is 0 (R248). -/
def writeAnswer (s : State) (p : ServiceParams) (h : InputHeader) (bytes : List Byte) : State :=
  issue s (.answer p.counters)
    ⟨serviceSource, 0, if h.rbuoy = 0 then 2 else 3, 0, h.out, 0, 256, 0, 0, h.rbuoy, 0⟩ bytes

/-- Answer input `u`, if it has not been answered (R248). -/
def answerInput (s : State) (p : ServiceParams) (u : Nat) (h : InputHeader) (r : ServiceResult) : State :=
  let c := claimInput s p u
  if !c.2 then c.1
  else
    let s := countService c.1 p 1
    let s := if r.status = svcOVERLOAD then countService s p 3 else s
    let s := if r.status = svcABORTED then countService s p 4 else s
    let s := if r.flags % 2 = 1 then countService s p 5 else s
    writeAnswer s p h (resultBytes h r)

/-! ### What the nodes do -/

/-- A batch of the service: its sequencer, graph, instance, node and parameter block. -/
structure ServiceTurn where
  seq    : Nat
  uid    : Nat
  graph  : Graph
  inst   : Inst
  node   : Nat
  block  : List Byte
  par    : ServiceParams

/-- `b` of an index (R200), as its header stands. -/
def ServiceTurn.bits (t : ServiceTurn) (s : State) : Nat := idxB s t.par.lindex

/-- Where the service keeps something of input `u`: `off` bytes into its part of the slot's scratch. -/
def ServiceParams.place (p : ServiceParams) (u off : Nat) : Word :=
  p.scratch + BitVec.ofNat 64 (u % p.qring * 0x200000 + Config.serviceScratch % 160 * 0x1000 + off)

/-- OUT of query `j` of input `u`: the four FETCHes of stage 2, then the SEARCH of stage 1. -/
def ServiceParams.queryOut (p : ServiceParams) (u j : Nat) : Word := p.place u (j * 0x41000)

/-- What the refinement of input `u` reads and writes: past the query results. -/
def ServiceParams.solveAt (p : ServiceParams) (u off : Nat) : Word := p.place u (0x145000 + off)

/-- Write query descriptor `j` of input `u` into the queries of node `node` (R215). -/
def putQuery (s : State) (t : ServiceTurn) (node u j : Nat) (bytes : List Byte) : State :=
  let b := nodeRecord s t.graph node
  unitPut s (wordAt b 0 + BitVec.ofNat 64 (64 * (u % u16At b 14 * u32At b 8 + j))) bytes

/-- The entry of input `u` in this instance. -/
def ServiceTurn.entry (t : ServiceTurn) (s : State) (u : Nat) : Option SvcInput :=
  s.svc.inputs.find? (fun e => e.seq == t.seq && e.uid == t.uid && e.u == u)

/-- Replace an entry. -/
def putEntry (s : State) (e : SvcInput) : State :=
  { s with svc := { s.svc with
      inputs := s.svc.inputs.map (fun o => if o.seq == e.seq && o.uid == e.uid && o.u == e.u then e else o) } }

/-- The ns since an edge. -/
def sinceEdge (s : State) (admitAt : Nat) : Nat := (s.now + 2 ^ 64 - admitAt) % 2 ^ 64 % 2 ^ 32

/-- The work of a stage on an entry has ended, at the latest now (R248 S1, S2, S3). -/
def SvcInput.stageEnds (e : SvcInput) (s : State) (stage : Nat) : SvcInput :=
  { e with ended := e.ended.set stage (sinceEdge s e.admitAt) }

/-- A result without a pose (R248): nothing but STATUS, and the times of stages that did no work are free (DESIGN CHOICE, log 165). -/
def plainResult (s : State) (admitAt status : Nat) (ended : List Nat) : State × ServiceResult :=
  let w := (Config.freeWord s.freeCtr).toNat
  (s.bumpFree,
   { tile := 0, quat := [], trans := [], status := status, flags := 0, inliers := 0, matched := 0, bestHyp := 0xFFFF,
     residual := 0, cov := [], pages := 0, kf := keyframeIds [], admitAt := admitAt,
     ended := ended ++ [w % 2 ^ 32, w / 2 ^ 32], chanFail := 0, nodeFail := 0, snapshots := [] })

/-- A 64-byte or longer block of this node, when it can be read. -/
def readBlock (s : State) (a : Word) (n : Nat) : State × Option (List Byte) :=
  let r := unitRead s a n 0 none
  (r.1, if r.2.1 = stOK then some r.2.2 else none)

/-- The header of an input's slot, when it holds that input (R239). -/
def readHeader (s : State) (p : ServiceParams) (u : Nat) : State × Option (List Byte) :=
  let b := readBlock s (inputSlot p u) 64
  (b.1, b.2.filter (fun h => slotHolds (inputHeader h) u))

/-- Node 0 on the `i`-th input `u` (R239 to R241): answered at once, or a SEARCH for node 1; without one, an idle FETCH
stands in. -/
def serviceNode0 (t : ServiceTurn) (s : State) (i u : Nat) : State :=
  let p := t.par
  let s := countService s p 0
  let hb := readHeader s p u
  let idle := fun (s : State) => putQuery s t 1 u 0 (idleQuery p (t.bits s) (p.queryOut u 4))
  match hb.2 with
  | none => idle (countService hb.1 p 2)
  | some hdr =>
    let h := inputHeader hdr
    let camera := if alignedOn h.intr 6 s.node then readBlock hb.1 h.intr 128 else (hb.1, none)
    let prior := if h.prior ≠ 0 ∧ alignedOn h.prior 6 s.node then readBlock camera.1 h.prior 64 else (camera.1, none)
    let s := prior.1
    let missing := h.prior ≠ 0 ∧ prior.2.isNone
    match (if missing then .answered svcBAD_QUERY else verdict s.node t.block h (camera.2.getD []) prior.2 i u) with
    | .badSlot => idle (countService s p 2)
    | .answered st =>
      let r := plainResult s t.inst.time st [sinceEdge s t.inst.time]
      idle (answerInput r.1 p u h r.2)
    | .searched =>
      let e : SvcInput :=
        { seq := t.seq, uid := t.uid, u := u, hdr := hdr, camera := camera.2.getD [], prior := prior.2,
          admitAt := t.inst.time, ended := [0, 0, 0], refused := false, incomplete := false, pages := 0, chanFail := 0,
          nodeFail := 0, snaps := [0, 0, 0, 0], kept := [], feats := [], matches_ := [], corrs := [], best := 0xFFFF,
          score := 0, pose := [], refine := false }
      putQuery { s with svc := { s.svc with inputs := s.svc.inputs ++ [e] } } t 1 u 0 (searchQuery p h (p.queryOut u 4))

/-- What a query's result header says of the reads, and of the snapshot from slot `k` on (R219, R248, R251). -/
def SvcInput.takeHeader (e : SvcInput) (k : Nat) (h : List Byte) : SvcInput :=
  { e with
      refused := e.refused || u8At h 0 == 3
      incomplete := e.incomplete || u8At h 0 == 2
      pages := e.pages + u32At h 32
      chanFail := e.chanFail ||| u16At h 2
      nodeFail := e.nodeFail + u16At h 40
      snaps := (e.snaps.set k (u64At h 8)).set (k + 1) (u64At h 16) }

/-- Node 2 on input `u` (R241 to R243): the kept keyframes, and the four FETCH descriptors of node 4. -/
def serviceNode2 (t : ServiceTurn) (s : State) (_i u : Nat) : State :=
  let p := t.par
  let b := t.bits s
  let fetches := fun (s : State) (ks : List Keyframe) => (List.range 4).foldl (fun s j =>
    putQuery s t 4 u j (match ks[j]? with
      | some k => fetchQuery p b k.id.toNat (p.queryOut u j)
      | none => idleQuery p b (p.queryOut u j))) s
  match t.entry s u with
  | none => fetches s []
  | some e =>
    let r := readBlock s (p.queryOut u 4) 384
    let s := r.1
    let bytes := r.2.getD (zeroBytes 384)
    let e := e.takeHeader 0 (bytes.take 128)
    let ks := if u8At bytes 0 = 1 ∨ u8At bytes 0 = 2 then
        keptKeyframes p e.prior ((List.range 4).map (piece (bytes.drop 128) 64)) else []
    fetches (putEntry s ({ e with kept := ks }.stageEnds s 0)) ks

/-- Node 3 on input `u` (R237, R243): the features, unprojected, with their descriptors. -/
def serviceNode3 (t : ServiceTurn) (s : State) (_i u : Nat) : State :=
  match t.entry s u with
  | none => s
  | some e =>
    let n := (inputHeader e.hdr).nfeat
    let r := readBlock s (featureAddr (inputSlot t.par u) 0) (72 * n)
    match r.2 with
    | none => r.1
    | some bytes =>
      let fs := (List.range n).map (fun f =>
        let b := piece bytes 72 f
        (⟨featureCoords e.camera b, sliceB b 8 64⟩ : SvcFeature))
      putEntry r.1 ({ e with feats := fs }.stageEnds r.1 0)

/-- FOUND and the entries of one FETCH (R219, R244), after its header. -/
def fetchedEntries (s : State) (a : Word) (h : List Byte) : State × Nat × List (List Byte) :=
  let n := if u8At h 0 = 1 ∨ u8At h 0 = 2 then min (u32At h 4) 2048 else 0
  let r := readBlock s (a + 128) (128 * n)
  match r.2 with
  | some b => (r.1, n, (List.range n).map (piece b 128))
  | none => (r.1, 0, [])

/-- The five words of a correspondence (R246). -/
def corrOf (fs : List SvcFeature) (lms : List (List Byte)) (m : Matched) : Corr :=
  let xy := ((fs[m.feature]?).bind (·.xy)).getD (0, 0)
  landmarkPos (lms.getD m.landmark []) ++ [xy.1, xy.2]

/-- What one FETCH of node 3 left in memory: its header and its entries (R243, R251). -/
def takeFetch (p : ServiceParams) (u kept : Nat) (r : State × SvcInput × List (Nat × List (List Byte))) (j : Nat) :
    State × SvcInput × List (Nat × List (List Byte)) :=
  let h := readBlock r.1 (p.queryOut u j) 128
  let hb := h.2.getD (zeroBytes 128)
  let f := if j < kept then fetchedEntries h.1 (p.queryOut u j) hb else (h.1, 0, [])
  (f.1, r.2.1.takeHeader 2 hb, r.2.2 ++ [f.2])

/-- Node 5 on input `u` (R244): the landmark list, the matches and their correspondences. -/
def serviceNode5 (t : ServiceTurn) (s : State) (_i u : Nat) : State :=
  match t.entry s u with
  | none => s
  | some e =>
    let p := t.par
    let r := (List.range 4).foldl (takeFetch p u e.kept.length) (s, e, [])
    let lms := landmarkList r.2.2
    let e := r.2.1
    let ms := correspondences p (e.feats.zipIdx.filterMap (fun f => f.1.xy.map (fun _ => (f.2, f.1.desc)))) lms
    putEntry r.1 ({ e with matches_ := ms, corrs := ms.map (corrOf e.feats lms) }.stageEnds r.1 1)

/-! ### The refinement (R245 to R247) -/

/-- A binary32 word as a binary64 word. -/
def f32to64 (v : Nat) : Nat := fmtF64.encode (fmtF32.decode v)

/-- A binary64 word rounded to binary32. -/
def f64to32 (v : Nat) : Nat := fmtF32.encode (fmtF64.decode v)

/-- The correspondences that a pose counts as inliers, of all M. -/
def inliersOf (tau2 : Nat) (pose : List Nat) (cs : List Corr) : List Corr := cs.filter (inlier tau2 pose)

/-- The parameter words of one correspondence's REPROJ_FIXED factor, of weight 1 (R346). -/
def factorParams (c : Corr) : List Nat :=
  [f32to64 (at0 c 3), f32to64 (at0 c 4), f64one, f64one] ++ (c.take 3).map f32to64

/-- The refinement as a structure: one SE3 block and a factor for each correspondence (R247). -/
def refineStruct (sid : Word) (cs : List Corr) : Struct :=
  ⟨sid, false, [⟨1, 0, false⟩], cs.map (fun c => ⟨4, 0, true, 0, none, factorParams c⟩), [], [], 0⟩

/-- The structure ID of an input's refinement (DESIGN CHOICE, log 165). -/
def ServiceParams.sid (p : ServiceParams) (u : Nat) : Word := BitVec.allOnes 64 - BitVec.ofNat 64 (u % p.qring)

/-- A solver record of the service (R339): JTYPE, the other bits of CTRL, and the addresses it names. -/
def solverJob (ctrl : Nat) (report sid src init out : Word) (deadline chain : Nat) : List Byte :=
  leBytes 8 ctrl ++ wordBytes report ++ zeroBytes 8 ++ wordBytes sid ++ wordBytes src ++ wordBytes init ++ wordBytes out
    ++ zeroBytes 16 ++ leBytes 8 deadline ++ zeroBytes 26 ++ leBytes 2 chain ++ zeroBytes 20

/-- The structure record of a refinement, its block, its factors, their parameters and the start state, as pieces
(R344 to R346, R354). -/
def refinePieces (p : ServiceParams) (u : Nat) (pose : List Nat) (cs : List Corr) : List (Word × List Byte) :=
  let at_ := p.solveAt u
  let words := fun (ws : List Nat) => (ws.map (leBytes 8)).flatten
  [(at_ 0, leBytes 4 0 ++ leBytes 4 1 ++ leBytes 4 cs.length ++ zeroBytes 4 ++ wordBytes (at_ 0x40)
      ++ (if cs.isEmpty then zeroBytes 8 else wordBytes (at_ 0x1000)) ++ zeroBytes 32),
   (at_ 0x40, leBytes 8 1),
   (at_ 0x100, zeroBytes 64 ++ words (pose.map f32to64) ++ zeroBytes 72)]
  ++ (if cs.isEmpty then [] else
    [(at_ 0x1000, (List.range cs.length).flatMap (fun i =>
        leBytes 1 4 ++ leBytes 1 0 ++ leBytes 1 1 ++ leBytes 1 0 ++ leBytes 4 0 ++ leBytes 4 0xFFFFFFFF ++ zeroBytes 4
          ++ wordBytes (at_ (0x8000 + 56 * i)))),
     (at_ 0x8000, cs.flatMap (fun c => words (factorParams c)))])

/-- The three records that refine input `u`: LOAD, SOLVE and DROP (R339, R340, R344); CTRL of the SOLVE is LM with
LM_ITERS iterations. -/
def refineJobs (s : State) (p : ServiceParams) (u : Nat) : List (List Byte) :=
  let at_ := p.solveAt u
  let sid := p.sid u
  [solverJob 1 (at_ 0x300) sid (at_ 0) 0 0 0 0,
   solverJob (3 + 2 ^ 6 + p.lmIters * 2 ^ 8) (at_ 0x340) sid 0 (at_ 0x100) (at_ 0x200)
     (Config.serviceDeadline s.now % 2 ^ 64) 0,
   solverJob 2 (at_ 0x380) sid 0 0 0 0 0]

/-- The records of a chain at a job's address (R340). -/
def putChain (s : State) (job : Word) (rs : List (List Byte)) : State :=
  rs.zipIdx.foldl (fun s r =>
    let b := if r.2 = 0 then sliceB r.1 0 106 ++ leBytes 2 (rs.length - 1) ++ sliceB r.1 108 20 else r.1
    unitPut s (job + BitVec.ofNat 64 (128 * r.2)) b) s

/-- The 256 hypotheses of an entry, scored (R245, R246). -/
def scoreEntry (p : ServiceParams) (e : SvcInput) : SvcInput :=
  let h := inputHeader e.hdr
  let tile := (e.kept.head?.map (·.tile)).getD 0
  let prior := if priorUsed e.prior tile then e.prior.map (fun b => (List.range 7).map (fun i => f32At b (4 * i))) else none
  let sample := ((e.matches_.zip e.corrs).filter (fun m => (scoringSample e.matches_).contains m.1)).map (·.2)
  let poses := (List.range 256).map (hypothesis h.qid prior e.corrs)
  let best := bestHypothesis (poses.map (scoreOf p.tau2 sample))
  { e with best := best.1, score := best.2, pose := (poses.getD best.1 none).getD [], refine := decide (p.minInliers ≤ best.2) }

/-- The entries of this instance. -/
def ServiceTurn.entries (t : ServiceTurn) (s : State) : List SvcInput :=
  s.svc.inputs.filter (fun e => e.seq == t.seq && e.uid == t.uid)

/-- Has the entry enough correspondences (R244), and keyframes, and was no query refused? -/
def SvcInput.drawn (e : SvcInput) (p : ServiceParams) : Bool :=
  !e.refused && !e.kept.isEmpty && decide (p.minMatches ≤ e.matches_.length)

/-- Node 6 (R245, R246): the hypotheses, and the chained run of node 7. Without an input to refine the chain loads and
drops a structure without factors (DESIGN CHOICE, log 165). -/
def serviceNode6 (t : ServiceTurn) (s : State) : State :=
  let p := t.par
  let s := (t.entries s).foldl (fun s e => if e.drawn p then putEntry s (scoreEntry p e) else s) s
  let es := (t.entries s).filter (·.refine)
  let s := es.foldl (fun s e =>
    (refinePieces p e.u e.pose (inliersOf p.tau2 e.pose e.corrs)).foldl (fun s w => unitPut s w.1 w.2) s) s
  let job := ((t.graph.nodes[7]?).map (·.job)).getD 0
  if es.isEmpty then
    let s := (refinePieces p 0 [0x3F800000] []).foldl (fun s w => unitPut s w.1 w.2) s
    let js := refineJobs s p 0
    putChain s job [js.getD 0 [], js.getD 2 []]
  else putChain s job (es.flatMap (fun e => refineJobs s p e.u))

/-! ### The result (R247, R248) -/

/-- COV at a pose (R247): SIGMA² × (JᵀJ)⁻¹ over the inliers, the upper triangle, and whether a pivot was regularised. -/
def covariance (sigma : Nat) (pose : List Nat) (cs : List Corr) : List Nat × Bool :=
  let st := refineStruct 1 cs
  let x : Values := #[pose ++ List.replicate 9 0]
  let nz := fun (_ _ : Nat) => true
  let f := factorise 6 (st.normal x).h nz 0x3D719799812DEA11
  let s2 := f64mul (f32to64 sigma) (f32to64 sigma)
  let col := fun (j : Nat) => ldlSolve 6 f nz ((Array.replicate 6 0).set! j f64one)
  ((List.range 6).flatMap (fun i => (List.range (6 - i)).map (fun k =>
    f64to32 (f64mul s2 ((col (i + k)).getD i 0)))), !f.regs.isEmpty)

/-- RESIDUAL at a pose: the root mean square of the inliers' residuals (R247). -/
def rmsResidual (pose : List Nat) (cs : List Corr) : Nat :=
  if cs.isEmpty then Config.serviceNoResidual
  else
    let st := refineStruct 1 cs
    f64to32 (f64sqrt (f64div (st.cost #[pose ++ List.replicate 9 0]) (f64ofInt (cs.length : Int))))

/-- The fields of a result that a pose of seven words fills: camera to tile (R248). -/
def ServiceResult.withPose (r : ServiceResult) (tile : Word) (p : List Nat) : ServiceResult :=
  { r with tile := tile, quat := resultQuat (p.take 4), trans := (p.drop 4).take 3 }

/-- The refined pose of an entry, as seven binary64 words, and FLAGS of its report: none when it was not refined. -/
def refined (s : State) (p : ServiceParams) (e : SvcInput) : State × Option (List Nat × Nat) :=
  let rep := readBlock s (p.solveAt e.u 0x340) 64
  let out := readBlock rep.1 (p.solveAt e.u 0x200) 192
  (out.1, rep.2.bind (fun r => out.2.bind (fun o =>
    if u8At r 0 = 1 then some ((List.range 7).map (fun i => u64At o (64 + 8 * i)), u8At r 3) else none)))

/-- A result with a refined pose, and the flags of its SOLVE record (R247): the inliers counted again, the residual and the
covariance. -/
def ServiceResult.refine (r : ServiceResult) (p : ServiceParams) (corrs : List Corr) (tile : Word) (pose : List Nat)
    (flags : Nat) : ServiceResult :=
  let cs := inliersOf p.tau2 (pose.map f64to32) corrs
  let cov := covariance p.sigma pose cs
  let reg := flags.testBit 0 || cov.2
  { (r.withPose tile ((invertPose ar64 pose).map f64to32)) with
    flags := r.flags + (if reg then 4 else 0) + (flags / 2 % 4) * 8
    inliers := cs.length, residual := rmsResidual pose cs, cov := cov.1 }

/-- The result of an entry at node 8 (R241 to R248, R251). -/
def entryResult (s : State) (p : ServiceParams) (e : SvcInput) : State × ServiceResult :=
  let tile := (e.kept.head?.map (·.tile)).getD 0
  let used := !e.kept.isEmpty && priorUsed e.prior tile
  let r : ServiceResult :=
    { tile := 0, quat := [], trans := [], status := searchedStatus p e.refused e.kept.length e.matches_.length e.score,
      flags := (if e.incomplete then 1 else 0) + (if used then 2 else 0), inliers := 0, matched := e.matches_.length,
      bestHyp := if e.drawn p then e.best else 0xFFFF, residual := 0, cov := [], pages := e.pages,
      kf := keyframeIds e.kept, admitAt := e.admitAt, ended := e.ended, chanFail := e.chanFail,
      nodeFail := e.nodeFail, snapshots := e.snaps }
  if r.status = svcNO_CONSENSUS then
    (s, if e.pose.isEmpty then { r with tile := tile }
      else { (r.withPose tile (invertPose ar32 e.pose)) with inliers := (inliersOf p.tau2 e.pose e.corrs).length })
  else if r.status ≠ svcOK then (s, r)
  else
    let f := refined s p e
    (f.1, f.2.elim r (fun q => r.refine p e.corrs tile q.1 q.2))

/-- Node 8 on input `u` (R247, R248): the result, unless the input has been answered. -/
def serviceNode8 (t : ServiceTurn) (s : State) (_i u : Nat) : State :=
  match t.entry s u with
  | none => s
  | some e =>
    let r := entryResult s t.par (e.stageEnds s 2)
    answerInput r.1 t.par u (inputHeader e.hdr) r.2

/-! ### Aborted instances (R252) -/

/-- Does this instance answer what an aborted one left: the fourth after it, or the first of a later graph where fewer
than four later ones started (R252)? -/
def answersFor (seq gid number : Nat) (a : SvcAborted) : Bool :=
  a.seq == seq && (a.gid != gid || decide (a.number + 4 ≤ number))

/-- The inputs that an instance admitted, in input order (R67). -/
def admittedInputs (first count : Nat) : List Nat := (List.range count).map (fun i => (first + 1 + i) % 2 ^ 48)

/-- An ABORTED result for each input of an aborted instance that has not been answered and whose slot holds it (R248,
R252). -/
def answerAborted (p : ServiceParams) (s : State) (a : SvcAborted) : State :=
  (admittedInputs a.first a.count).foldl (fun s u =>
    let h := readHeader s p u
    match h.2 with
    | none => h.1
    | some hdr =>
      let r := plainResult h.1 a.admitAt svcABORTED [sinceEdge h.1 a.admitAt]
      answerInput r.1 p u (inputHeader hdr) r.2) s

/-- Strand 0 of node 0 (R252): the results that aborted instances still owe. -/
def answerOwed (t : ServiceTurn) (s : State) : State :=
  let mine := s.svc.aborted.filter (answersFor t.seq t.inst.gid t.inst.number)
  let s := { s with svc := { s.svc with aborted := s.svc.aborted.filter (fun a => !answersFor t.seq t.inst.gid t.inst.number a) } }
  mine.foldl (answerAborted t.par) s

/-! ### A batch of the service -/

/-- The instance, the graph and the parameter block's address of a run of the service (R233, R234). -/
def serviceOf (s : State) (run : Run) : Option (Inst × Graph × Word) :=
  match run.uid.bind (instOf s run.seq) with
  | none => none
  | some x =>
    match graphOf s run.seq x.gid with
    | none => none
    | some g => (serviceArg s g).map (fun arg => (x, g, arg))

/-- The turn of a batch of the service: none when its parameter block cannot be read. -/
def serviceTurn (s : State) (run : Run) (x : Inst) (g : Graph) (arg : Word) : State × Option ServiceTurn :=
  let b := readBlock s arg 128
  (b.1, b.2.map (fun block => ⟨run.seq, x.uid, g, x, run.node, block, serviceParams block⟩))

/-- The work of one strand node for the inputs its instance admitted (R233). -/
def serviceWork (s : State) (t : ServiceTurn) (inputs : List Nat) : State :=
  let each := fun (f : State → Nat → Nat → State) (s : State) => inputs.zipIdx.foldl (fun s e => f s e.2 e.1) s
  match t.node with
  | 0 => each (serviceNode0 t) (answerOwed t s)
  | 2 => each (serviceNode2 t) s
  | 3 => each (serviceNode3 t) s
  | 5 => each (serviceNode5 t) s
  | 6 => serviceNode6 t s
  | _ => each (serviceNode8 t) s

end Sys2Proof.Machine
end

