-- ==== Sys2Proof/Machine/Batches.lean ====
section
/-! DEFINITION. Strand spawn batches, and which strands are in a context: BATCH_LAUNCH, STRAND_LOAD and PARK_TIMEOUT
(R168, R174, R176, R177, R180, R181). -/

namespace Sys2Proof.Machine

/-! ### Batches (R180, R181) -/

/-- The clusters of a batch, rising. -/
def batchClusters (mask : Nat) : List Nat := (List.range 8).filter (fun c => mask.testBit c)

/-- Why a batch is refused: the codes of REASON that apply (R180, R182). -/
def batchCauses (s : State) (raw : List Byte) : List Nat :=
  let entry := wordAt raw 0
  let cs := batchClusters (u8At raw 12)
  causes [(entry.toNat % 4 != 0 || nodeOf entry != s.node, 1), (cs.isEmpty, 2),
    (decide (2 ≤ u8At raw 13) || u16At raw 14 != 0 || !allZero (sliceB raw 40 24), 3),
    (u8At raw 13 % 2 == 1 && u64At raw 24 == 0, 4), (!cs.all (poolOk s), 5)]

/-- Pools that fail their check show it (R168). -/
def markBadPools (s : State) (cs : List Nat) : State :=
  cs.foldl (fun s c => if poolOk s c then s else s.setBit (Reg.cluStrErr c) 2 true) s

/-- What the strands of a batch start with (R181). -/
structure BatchPlan where
  entry    : Word
  arg      : Word
  count    : Nat
  clusters : List Nat
  first    : Option Nat
  number   : Nat
  cls      : Nat
  deriving DecidableEq, Repr

/-- The registers of strand `i` (R181). -/
def startRegs (p : BatchPlan) (i : Nat) : List Word :=
  let g2 := match p.first with
    | some f => (f + 1 + i / p.count) % 2 ^ 48
    | none => 0
  [BitVec.ofNat 64 i, p.arg, BitVec.ofNat 64 g2, BitVec.ofNat 64 p.number] ++ List.replicate 12 0

/-- A strand that finds no free slot is not spawned (R181). -/
def notSpawned (s : State) (c n number : Nat) : State :=
  let s := (s.setBit (Reg.cluStrErr c) 1 true).satFld (Reg.cluStrCount c) 63 48 n
  match batchOf s number with
  | some b => s.setBatch { b with notSpawned := b.notSpawned + n }
  | none => s

/-- How many of the strands `i` to `total − 1` fall on the cluster with index `j` of `k`. -/
def shareOf (total i j k : Nat) : Nat :=
  let upTo := fun (n : Nat) => (n + k - 1 - j) / k
  upTo total - upTo i

/-- Spawn strands `i` to `total − 1`, each on its cluster; once every pool is full the rest are counted. -/
def spawnAll (p : BatchPlan) (number total : Nat) : Nat → State → Nat → State
  | 0, s, _ => s
  | fuel + 1, s, i =>
    if total ≤ i then s
    else if p.clusters.all (fun c => (freeSlot s c).isNone) then
      p.clusters.zipIdx.foldl (fun s e =>
        let n := shareOf total i e.2 p.clusters.length
        if n = 0 then s else notSpawned s e.1 n number) s
    else
      let c := p.clusters.getD (i % p.clusters.length) 0
      match batchOf s number with
      | none => s
      | some b =>
        let s := match spawnStrand s c b p.entry (startRegs p i) p.cls with
          | some r => r.1
          | none => notSpawned s c 1 number
        spawnAll p number total fuel s (i + 1)

/-- The batch of a node of the relocalisation service does the node's work (R233): each strand it would spawn is counted
as spawned and ended; one whose parameter block cannot be read faults (DESIGN CHOICE, log 165). -/
def serviceBatch (b : Batch) (r : State × Option ServiceTurn) (first count per : Nat) : State :=
  let total := count * per
  let s := b.clusters.zipIdx.foldl (fun s e =>
    let n := shareOf total 0 e.2 b.clusters.length
    let s := s.wrapFld (Reg.cluStrCount e.1) 31 0 n
    if r.2.isSome || n == 0 then s
    else (s.satFld (Reg.cluStrCount e.1) 47 32 n).setBit (Reg.cluStrErr e.1) 0 true) r.1
  match r.2 with
  | some t =>
    let b := { b with started := total, endedOk := total }
    endBatch (serviceWork s t (admittedInputs first count)) b 1 0
  | none => endBatch s { b with started := total, faulted := (List.range total).map (fun i => (i, 3)) } 4 0

/-- BATCH_LAUNCH (R180 to R183): the spawn unit takes the launch, checks the record and spawns every strand. A record that
cannot be read names no report and no REASON (DEDUCED, log 82). -/
def execBatchLaunch (seq : Fin 16) (node : Nat) (s : State) : Host.Outcome State Fault Refusal :=
  match takeLaunch s seq.val node [5] with
  | none => .next s
  | some (s, run) =>
    let r := if run.job.toNat % 64 ≠ 0 then (s, stALIGNMENT, []) else unitRead s run.job 64 run.cls none
    let s := r.1
    let raw := r.2.2
    let readOk := r.2.1 == stOK
    let cs := if readOk then batchClusters (u8At raw 12) else []
    let s := obsStart s (cs.headD 0) run
    let report := if readOk then wordAt raw 32 else 0
    let number := s.str.clock
    let b : Batch :=
      { number := number, seq := run.seq, inst := run.uid, instNo := run.number, node := node, job := run.job,
        clusters := cs, cls := run.cls, dom := run.dom, done := run.done, report := report, aborted := false,
        started := 0, endedOk := 0, endedBad := 0, faulted := [], killed := 0, notSpawned := 0, refused := 0,
        start := run.time }
    let s := { s with str := { s.str with clock := number + 1, batches := s.str.batches ++ [b] } }
    let p := pickCode s (batchCauses s raw)
    if !readOk then .next (endBatch s b 2 0)
    else if p.2 ≠ 0 then .next (endBatch (markBadPools p.1 cs) b 2 p.2)
    else if runAborted s run then .next (abortBatch s b)
    else
      let per := u8At raw 13 = 1
      let a := if per then admittedRange s (wordAt raw 24) run.number run.cls else (s, 0, 1)
      let count := u32At raw 8
      let p : BatchPlan :=
        { entry := wordAt raw 0, arg := wordAt raw 16, count := count, clusters := cs,
          first := if per then some a.2.1 else none, number := if u64At raw 24 = 0 then 0 else run.number,
          cls := run.cls }
      let total := count * a.2.2
      match serviceOf s run with
      | some (x, g, arg) => .next (serviceBatch b (serviceTurn a.1 run x g arg) a.2.1 a.2.2 count)
      | none =>
      .next (checkBatch (spawnAll p number total total a.1 0) number)

/-! ### Contexts (R174, R176, R177) -/

/-- Contexts of each processor held for C0 (R174). -/
def heldContexts (s : State) : Nat := 64 * s.fld Reg.lmpResv 31 24 / 100

/-- The resident strands of a processor. -/
def residents (s : State) (c p : Nat) : List Strand :=
  s.str.all.filter (fun t => homeCluster t.id == c && t.resident && t.proc == p)

/-- Has processor `p` of cluster `c` a context for a strand of class `cls` (R174)? -/
def hasContext (s : State) (c p cls : Nat) : Bool :=
  let rs := residents s c p
  let low := (rs.filter (fun t => t.cls != 0)).length
  let high := rs.length - low
  let held := heldContexts s
  !unitFenced s (8 + 16 * c + p)
    && (if cls = 0 then decide (rs.length < 64) else decide (low + (high - held) < 64 - held))

/-- The next strand the pool loads (R177): class, then the time it became READY, then its ID. -/
def nextPooled (s : State) (c : Nat) : Option Strand :=
  leastBy (fun a b => decide ([a.cls, a.ready, a.id] < [b.cls, b.ready, b.id]))
    ((clusterStrands s c).filter (fun t => t.state == 1 && !t.resident))

/-- The strand that makes room (R174, R176): the WAIT_BUOY strand of the same or a lower class that has waited longest;
for a C0 strand, else a READY one of a lower class (which one is free, log 7). -/
def displaced (s : State) (c : Nat) (t : Strand) : Option Strand :=
  let rs := (clusterStrands s c).filter (fun u => u.resident && !unitFenced s (8 + 16 * c + u.proc))
  match leastBy (fun a b => decide (a.ready < b.ready))
      (rs.filter (fun u => u.state == 3 && decide (t.cls ≤ u.cls))) with
  | some u => some u
  | none =>
    if t.cls ≠ 0 then none
    else
      let us := rs.filter (fun u => u.state == 1 && u.cls != 0)
      us[Config.freeBelow s.freeCtr us.length]?

/-- The free contexts of a processor, by number (R167). -/
def freeContexts (s : State) (c p : Nat) : List Nat :=
  let used := (residents s c p).map (·.ctx)
  (List.range 64).filter (fun k => !used.contains k)

/-- A strand is loaded into a context of a processor (R171); the slot shows that it is resident. -/
def loadStrand (s : State) (t : Strand) (p ctx : Nat) : State :=
  s.setStrand { loadContext s t with resident := true, proc := p, ctx := ctx, busy := 0 }

/-- A strand is loaded into some free context of a processor: which of them is free (DESIGN CHOICE, log 7). -/
def loadAnywhere (s : State) (c : Nat) (t : Strand) (p : Nat) : State :=
  let ks := freeContexts s c p
  loadStrand s.bumpFree t p (ks.getD (Config.freeBelow s.freeCtr ks.length) 0)

/-- STRAND_LOAD (R174, R176, R177): the cluster loads the first READY strand of its pool; which of the processors with a
free context takes it is free (DESIGN CHOICE, log 7). -/
def execStrandLoad (cluster : Fin 8) (s : State) : Host.Outcome State Fault Refusal :=
  let c := cluster.val
  match nextPooled s c with
  | none => .next s
  | some t =>
    let ps := (List.range 16).filter (fun p => hasContext s c p t.cls)
    match ps[Config.freeBelow s.freeCtr ps.length]? with
    | some p => .next (loadAnywhere s.bumpFree c t p)
    | none =>
      match displaced s c t with
      | none => .next s
      | some u =>
        if u.state = 3 ∧ !storesDone s u.id then .next (s.bumpFree.setStrand { u with parking := true })
        else
          -- the context that is written out may change what waits on its slot (R36)
          let s := settle (saveStrand s.bumpFree { u with resident := false, parking := false })
          match strandOf s t.id with
          | some t => .next (loadStrand s t u.proc u.ctx)
          | none => .next s

/-- The ns that `n` cycles of a cluster take, rounded up (R176, R513). -/
def cyclesNs (s : State) (c n : Nat) : Nat :=
  let f := unitMHz s c
  if f = 0 then 0 else (n * 1000 + f - 1) / f

/-- PARK_TIMEOUT (R176): time passes until a resident strand has waited PARK_AFTER × 64 cycles on a buoy (DESIGN CHOICE,
log 3), and if it still waits it is parked. -/
def execParkTimeout (id : BitVec 22) (s : State) : Host.Outcome State Fault Refusal :=
  match strandOf s id.toNat with
  | none => .next s
  | some t =>
    if t.state ≠ 3 ∨ !t.resident then .next s
    else
      let c := homeCluster t.id
      let s := runTo s (t.waited + cyclesNs s c (64 * s.fld (Reg.cluStrCtl c) 15 0))
      match strandOf s t.id with
      | some u => .next (if u.state = 3 then parkStrand s u else s)
      | none => .next s

end Sys2Proof.Machine
end

