-- ==== Sys2Proof/Machine/HostOps.lean ====
section
/-! DEFINITION. Requests of the host through BAR0 and BAR2, and the keeper service ring (R421 to R427, R430, R432). -/

namespace Sys2Proof.Machine

/-- Where an access of the host leads: a failure status, or a global address (R421, R424, R425). `len` is none for an
AtomicOp. -/
inductive HostPlace where
  | fail (status : Nat) (addr : Word)
  | place (addr : Word)
  deriving DecidableEq, Repr

/-- Through BAR0: registers, then the buoy window, in RECOVERY the SRAM of cluster 0 (R421, R424, R425, DESIGN CHOICE, log 78). -/
def bar0Place (s : State) (off : Nat) (len : Option Nat) : HostPlace :=
  if off < 0x2000000 then .place (s.global (regBase + off))
  else if s.fld Reg.gctlBoot 3 0 = 9 then
    let a := s.global (sramBase + 0xC00000 + (off - 0x2000000))
    if 0x3000000 ≤ off then .fail stUNMAPPED a else .place a
  else
    let a := s.global (dramBase + s.fld Reg.hstBuoyBase 34 12 * 4096 + (off - 0x2000000))
    if off % 8 ≠ 0 then .fail stALIGNMENT a
    else match len with
      | none => .place a
      | some n => if n = 8 then .place a else .fail stACCESS a

/-- Through BAR2: the translated address stays on the node of HST_BAR2_BASE (R424, R425). -/
def bar2Place (s : State) (off : Word) : HostPlace :=
  let b := s.reg Reg.hstBar2Base
  let a := b + off
  if nodeOf a ≠ nodeOf b then .fail stUNMAPPED a else .place a

/-- The size of an aperture (R424). -/
def barSize : Bar → Nat
  | .bar0 => 0x4000000
  | .bar2 => 0x1000000000

/-- Where a request of the host leads. -/
def hostPlace (s : State) (bar : Bar) (off : Word) (len : Option Nat) : HostPlace :=
  match bar with
  | .bar0 => bar0Place s off.toNat len
  | .bar2 => bar2Place s off

/-- Does a memory request of the host reach the function: the link is up, and the offset lies in the BAR (R423)? -/
def hostOpen (s : State) (bar : Bar) (off : Word) : Bool :=
  configOpen s && decide (off.toNat < barSize bar)

/-- The operation of a host request (R426). -/
def hostOp (s : State) (code aop : Nat) (dst : Word) (len : Nat) (operand compare : Word) : Op :=
  ⟨.host, s.fld Reg.hstCtl 1 0, code, aop, dst, 0, len, operand, compare, 0, 0⟩

/-- BAR2 bytes are counted (R492). -/
def countBar (s : State) (bar : Bar) (n : Nat) : State :=
  match bar with
  | .bar0 => s
  | .bar2 => countTier s 7 n

/-- An Unsupported Request completion, which carries no data (R430). -/
def unsupported (s : State) : State := { s with ep := { s.ep with replies := [] :: s.ep.replies } }

/-- A request of the host becomes an operation, or fails before it is one (R426). -/
def hostRequest (s : State) (bar : Bar) (p : HostPlace) (op : Op) (data : List Byte) : State :=
  match p with
  | .fail st a => complete s .host { op with dst := a } st 0 []
  | .place a => issue (countBar s bar op.len) .host { op with dst := a } data

/-- HOST_READ (R426, R427, R430). -/
def execHostRead (bar : Bar) (off : Word) (len : Nat) (s : State) : Host.Outcome State Fault Refusal :=
  if !hostOpen s bar off then .next s
  else if s.bit Reg.hstStat 9 then .next (unsupported s)
  else .next (hostRequest s bar (hostPlace s bar off (some len)) (hostOp s 1 0 0 len 0 0) [])

/-- A 4-byte write of the MSI-X table or the PBA (R425), as the 8 bytes that it leaves. -/
def msixWrite (s : State) (bar : Bar) (off : Nat) (data : List Byte) : Option (Nat × List Byte) :=
  if bar = .bar0 ∧ data.length = 4 ∧ off % 4 = 0
      ∧ ((0xA8000 ≤ off ∧ off < 0xA8400) ∨ (0xA9000 ≤ off ∧ off < 0xA9008)) then
    let old := wordBytes (s.reg (off / 8 * 8))
    some (off / 8 * 8, if off % 8 = 0 then data ++ old.drop 4 else old.take 4 ++ data)
  else none

/-- HOST_WRITE (R425, R426, R430): a posted write. -/
def execHostWrite (bar : Bar) (off : Word) (data : List Byte) (s : State) : Host.Outcome State Fault Refusal :=
  if !hostOpen s bar off ∨ s.bit Reg.hstStat 9 then .next s
  else
    let w := (msixWrite s bar off.toNat data).getD (off.toNat, data)
    let off := BitVec.ofNat 64 w.1
    .next (hostRequest s bar (hostPlace s bar off (some w.2.length)) (hostOp s 2 0 0 w.2.length 0 0) w.2)

/-- The ATOMIC of a host AtomicOp (R422, R25). -/
def hostAop : HostAtomic → Nat
  | .fetchAdd => 0
  | .swap => 1
  | .cas => 2

/-- HOST_ATOMICOP (R422, R425, R426, R430). -/
def execHostAtomicop (bar : Bar) (off : Word) (op : HostAtomic) (operand compare : Word) (s : State) :
    Host.Outcome State Fault Refusal :=
  if !hostOpen s bar off then .next s
  else if s.bit Reg.hstStat 9 then .next (unsupported s)
  else
    let o := hostOp s 4 (hostAop op) 0 8 operand (if op = .cas then compare else 0)
    .next (hostRequest s bar (hostPlace s bar off none) o [])

/-! ### The keeper service ring (R432) -/

/-- The keeper that takes a slot, one that is not halted; which one the spec leaves open (free, log 7). -/
def slotKeeper (s : State) : Option (Fin 4) :=
  let ks := (List.finRange 4).filter (fun k => !s.power.halted.contains k.val)
  ks[Config.freeBelow s.freeCtr ks.length]?

/-- Is a slot of the ring waiting: the buoy's success count exceeds the slots taken? What the keepers know of a buoy on
another node is free (DESIGN CHOICE, log 193). -/
def slotWaiting (s : State) : Bool :=
  let a := s.reg Reg.hstSvcBuoy
  if nodeOf a = s.node then
    buoyCheck s (localOf a) == stOK && decide (s.ep.svc < bitsOf (s.word (localOf a)) 47 0)
  else Config.freeBelow s.freeCtr 2 == 1

/-- The keepers have looked at the buoy: what they know of one on another node has been drawn. -/
def lookedSlot (s : State) : State := if nodeOf (s.reg Reg.hstSvcBuoy) = s.node then s else s.bumpFree

/-- SERVICE_RECORD (R432): once RUNNING, a keeper takes the next slot and issues its record. -/
def execServiceRecord (s : State) : Host.Outcome State Fault Refusal :=
  if s.fld Reg.gctlBoot 3 0 ≠ 7 ∨ 1 < pState s then .next s
  else if !slotWaiting s then .next (lookedSlot s)
  else
    let s := lookedSlot s
    match slotKeeper s with
    | none => .next s
    | some k =>
      let a := (s.reg Reg.hstSvcRing) + BitVec.ofNat 64 (s.ep.svc % 256 * 64)
      let s := { s.bumpFree with ep := { s.ep with svc := s.ep.svc + 1 } }
      .next (issueRecord s (.keeper k) none a .service)

end Sys2Proof.Machine
end

