-- ==== Sys2Proof/Machine/Nodes.lean ====
section
/-! DEFINITION. The end of a node's job: its DONE buoy, its completion records and its finish (R64, R68). -/

namespace Sys2Proof.Machine

/-- What the DONE buoy says of the oldest run of a node that has not ended: none when nothing new stands there. A failure
count that has stopped at 0xFFFF shows no further failure, so the event itself is one. -/
def doneMoved (s : State) (n : NodeDesc) : Option Bool :=
  let c := countsOf s n.done
  if c.1 ≠ n.seenOk then some true
  else if c.2 ≠ n.seenBad ∨ c.2 = 0xFFFF then some false
  else none

/-- Issue completion records in the order listed, each once the one before has completed (R64); with none left the node
finishes, and its successors are launched or fail. -/
def closeNode (n : Fin 16) (uid i : Nat) : Nat → State → State
  | 0, s => s
  | k + 1, s =>
    let q := n.val
    match instOf s q uid with
    | none => s
    | some x =>
      match graphOf s q x.gid, x.nodes[i]? with
      | some g, some (.closing left false ok) =>
        if left = 0 then advanceInst (finishNode s q uid g.gid i ok) q uid
        else
          match g.nodes[i]? with
          | none => s
          | some d =>
            let j := d.ncomp - left
            let s := s.setPhase q uid i (.closing left true ok)
            closeNode n uid i k (issueRecord s (.sequencer n) (some g.cls)
              (d.comp + BitVec.ofNat 64 (64 * j)) (fun a => .node q uid i j a))
      | _, _ => s

/-- The oldest instance for which a node is launched. -/
def launchedInst (s : State) (q inst node : Nat) : Option Inst :=
  match instOf s q inst with
  | none => none
  | some x =>
    match (seqOf s q).insts.find? (fun y => y.gid == x.gid && (y.nodes.getD node .waiting).isLaunched) with
    | some y => if y.uid = x.uid then some x else none
    | none => none

/-- NODE_DONE (R64, R68): the job of a node has ended, as its DONE buoy shows; its completion records are issued, unless
its instance has been aborted. The job of an aborted instance has stopped even where its DONE buoy cannot count. -/
def execNodeDone (seq : Fin 16) (inst : Nat) (node : Nat) (s : State) : Host.Outcome State Fault Refusal :=
  let q := seq.val
  match launchedInst s q inst node with
  | none => .next s
  | some x =>
    match (graphOf s q x.gid).bind (fun g => g.nodes[node]?) with
    | none => .next s
    | some n =>
      match doneMoved s n with
      | none =>
        if x.aborted ∧ (readBuoy s n.done).2.isNone then
          .next (checkInst (s.setPhase q inst node (.finished false)) q inst)
        else .next s
      | some ok =>
        let s := s.modNode q x.gid node (fun n =>
          if ok then { n with seenOk := (n.seenOk + 1) % 2 ^ 48 } else { n with seenBad := satAdd 16 n.seenBad 1 })
        if x.aborted then .next (checkInst (s.setPhase q inst node (.finished false)) q inst)
        else .next (closeNode seq inst node (n.ncomp + 1) (s.setPhase q inst node (.closing n.ncomp false ok)))

/-- NODE_FINISH (R64): a completion record of the node has completed; the next is issued, and after the last one the node
succeeds or fails. -/
def execNodeFinish (seq : Fin 16) (inst : Nat) (node : Nat) (s : State) : Host.Outcome State Fault Refusal :=
  .next (closeNode seq inst node 257 s)

end Sys2Proof.Machine
end

