-- ==== Sys2Proof/Machine/PacketOps.lean ====
section
/-! DEFINITION. Packets that reach this node: requests of other nodes, and the responses to its own (R385 to R390). -/

namespace Sys2Proof.Machine

/-! ### Responses (R385, R389) -/

/-- A pending operation takes the response to its own packet. -/
def answerSent (s : State) (p : PendingOp) (status : Nat) (aux : Word) (data : List Byte) : State :=
  match p.op.code with
  | 1 =>
    if status = stOK then
      let s := s.dropOp p.tag
      afterPerf (deliverGet s p.origin p.op stOK ((sliceB data 0 p.op.len).map some)) p
    else if status = stUNCORRECTABLE then
      let s := s.dropOp p.tag
      let bs := freeBlocks s p.op.src (sliceB data 0 p.op.len)
      let s := s.bumpFree
      afterPerf (deliverGet s p.origin p.op stUNCORRECTABLE bs) p
    else completeOp s p status 0 []
  | 4 => completeOp s p status aux []
  | 5 => completeOp s p status aux []
  | _ => completeOp s p status (if status = stOK then BitVec.ofNat 64 p.op.len else aux) []

/-- A pending operation takes its response, which may be that of its part report (R47) or of its DONE buoy (R31). -/
def answerOp (s : State) (p : PendingOp) (status : Nat) (aux : Word) (data : List Byte) : State :=
  match p.phase with
  | .closing _ _ => completeOp s p status 0 []
  | .report _ _ => completeOp s p status 0 []
  | _ => answerSent s p status aux data

/-- A response has arrived: the operation with its tag completes, or it is late (R389). -/
def takeResponse (s : State) (tag : BitVec 32) (status : Nat) (aux : Word) (data : List Byte) : State :=
  match sentOp s tag with
  | some p => release (answerOp s p status aux data)
  | none => lateAnswer s tag

/-- RESPONSE (R385, R389). -/
def execResponse (tag : BitVec 32) (status : Byte) (aux : Word) (data : List Byte) (s : State) :
    Host.Outcome State Fault Refusal :=
  .next (takeResponse s tag status.toNat aux data)

/-- RESPONSE_TIMEOUT (R389, R390): neither a response nor a notice within RESP_TIMEOUT_US; a WATCH that has been confirmed
no longer waits for its response. -/
def execResponseTimeout (tag : BitVec 32) (s : State) : Host.Outcome State Fault Refusal :=
  match sentOp s tag with
  | some p =>
    match p.phase with
    | .sent _ => .next (release (failOp s p stLINK_FAILED))
    | .closing _ _ => .next (release (failOp s p stLINK_FAILED))
    | .report _ _ => .next (release (failOp s p stLINK_FAILED))
    | .remoteWatch _ none _ => .next (release (failOp s p stLINK_FAILED))
    | _ => .next s
  | none =>
    match partTimeout s tag.toNat with
    | some s => .next s
    | none => .next s

/-! ### Requests (R385, R387) -/

/-- The operation that a request packet asks this node for. -/
def packetOp (p : Packet) : Op :=
  let code := p.ptype.toNat
  { source := .remote p.src, cls := p.ctl.toNat % 4, code := code, aop := p.ctl.toNat / 4 % 8, dst := p.addr, src := 0,
    len := if code = 4 then 8 else if code = 5 then 0 else p.data.length
    operand := if code = 4 ∨ code = 5 then p.aux else 0
    compare := if code = 4 then wordAt (sliceB p.data 0 8) 0 else 0
    signal := if code = 3 then p.aux else 0, done := 0 }

/-- A request for this node. A PUT_SIGNAL without data is another node's increment, STATUS saying of what (DESIGN CHOICE, log 13). -/
def takeRequest (s : State) (p : Packet) : State :=
  let tag := p.tag.toNat
  let cls := p.ctl.toNat % 4
  if p.ptype = 3 ∧ p.data = [] then
    let b := bump s p.aux (p.status = 0) cls
    respond b.1 p.src.toNat tag cls 0x10 b.2 0 []
  else issue s (.packet p.src.toNat tag cls) (packetOp p) p.data

/-- PACKET_ARRIVE (R385, R387, R389): a packet of this node is consumed, any other forwarded. A time exchange is never
forwarded (R385). -/
def execPacketArrive (l : Fin 8) (vl : Bool) (pkt : Packet) (s : State) : Host.Outcome State Fault Refusal :=
  if linkState s l.val ≠ 2 then .next s
  else
    match pkt.ptype.toNat with
    | 0x20 => if pkt.dst.toNat = s.node then execExchangeReceive l pkt s else .next s
    | 0x06 =>
      if pkt.dst.toNat = s.node then .next (cancelWatch s pkt.src.toNat pkt.tag.toNat) else .next (forwardPacket s pkt vl)
    | 0x10 =>
      if pkt.dst.toNat = s.node then .next (takeResponse s pkt.tag pkt.status.toNat pkt.aux pkt.data)
      else .next (forwardPacket s pkt vl)
    | 0x11 => if pkt.dst.toNat = s.node then execWatchConfirm pkt.tag s else .next (forwardPacket s pkt vl)
    | 0x12 => if pkt.dst.toNat = s.node then execFailureNotice pkt.tag pkt.status s else .next (forwardPacket s pkt vl)
    | t =>
      if t = 0 ∨ 5 < t then .next (s.satFld Reg.fabDrops 31 0 1)
      else if pkt.dst.toNat = s.node then .next (takeRequest s pkt)
      else .next (forwardPacket s pkt vl)

end Sys2Proof.Machine
end

