-- ==== Sys2Proof/Machine/Plan.lean ====
section
/-! DEFINITION. The Dolnex fabric plan (R392, R393): routes, alternates and DATELINE bits for given ring sizes. -/

namespace Sys2Proof.Machine

/-- The link of device `d` to device `e` of its octet (R392). -/
def octetLink (d e : Nat) : Nat := if e < d then e else e - 1

/-- The lowest-numbered device that is neither (R393). -/
def thirdDevice (d e : Nat) : Nat := ((List.range 8).find? (fun t => t != d && t != e)).getD 0

/-- The coordinate of an octet on axis 0 x, 1 y, 2 z. -/
def octetCoord (octet axis : Nat) : Nat :=
  match axis with
  | 0 => octet % 4
  | 1 => octet / 4 % 4
  | _ => octet / 16

/-- The axis and sense of the FL7 of device `d` (R393). -/
def deviceDir (d : Nat) : Nat × Bool := (if d / 2 < 3 then d / 2 else 2, d % 2 == 0)

/-- The device that holds a direction, and its twin on the z axis. -/
def holderOf (axis : Nat) (plus : Bool) : Nat := 2 * axis + (if plus then 0 else 1)

/-- The next direction from one octet to another: z, then y, then x, the shorter way, ties going + (R393). -/
def nextDir (sizes : List Nat) (here there : Nat) : Option (Nat × Bool) :=
  [2, 1, 0].findSome? (fun a =>
    let n := sizes.getD a 1
    let k := (octetCoord there a + n - octetCoord here a % n) % n
    if k = 0 then none else some (a, decide (2 * k ≤ n)))

/-- The FAB_ROUTE entry of node `me` for node `dst` (R393): PRI, ALT with ALT_EN, VALID; none outside the rings. -/
def planRoute (sizes : List Nat) (me dst : Nat) : Nat :=
  let entry := fun (pri alt : Nat) => 0x100 + 0x80 + alt * 16 + pri
  let d := me % 8
  let e := dst % 8
  let inside := [0, 1, 2].all (fun a => decide (octetCoord (dst / 8) a < sizes.getD a 1))
  if !inside ∨ dst = me then 0
  else if dst / 8 = me / 8 then entry (octetLink d e) (octetLink d (thirdDevice d e))
  else match nextDir sizes (me / 8) (dst / 8) with
    | none => 0
    | some (a, plus) =>
      let h := holderOf a plus
      let twin := h + 2
      if d = h then
        -- a z link has its twin, any other the opposite way around its ring
        entry 7 (octetLink d (if a = 2 then twin else holderOf a (!plus)))
      else if a = 2 ∧ d = twin then entry 7 (octetLink d h)
      else entry (octetLink d h) (octetLink d (thirdDevice d h))

/-- Does FL7 of node `me` join coordinate 0 to its ring's highest coordinate (R393)? -/
def planDateline (sizes : List Nat) (me : Nat) : Bool :=
  let dir := deviceDir (me % 8)
  let n := sizes.getD dir.1 1
  let c := octetCoord (me / 8) dir.1
  let o := (if dir.2 then c + 1 else c + n - 1) % n
  decide (1 < n) && ((c == 0 && o == n - 1) || (o == 0 && c == n - 1))

/-- Does the plan use link `l` of node `me`: not an FL7 on a ring of size 1 (R393)? -/
def planUses (sizes : List Nat) (me l : Nat) : Bool :=
  decide (l < 7) || decide (1 < sizes.getD (deviceDir (me % 8)).1 1)

/-- PLAN[0] and PLAN[1] of a NODE section (R412). -/
def applyPlan (s : State) (plan : Nat) (sizes : List Nat) : State :=
  let me := s.node
  let s := if plan % 2 = 0 then s
    else
      let s := (List.range 1024).foldl (fun s n => s.setReg (Reg.fabRoute n) (BitVec.ofNat 64 (planRoute sizes me n))) s
      (List.range 8).foldl (fun s l => s.setBit (Reg.fabLinkCtl l) 1 (l == 7 && planDateline sizes me)) s
  if plan / 2 % 2 = 0 then s
  else (List.range 8).foldl (fun s l =>
    if planUses sizes me l then writeLinkCtl s l (s.reg (Reg.fabLinkCtl l) ||| 1) else s) s

end Sys2Proof.Machine
end

