-- ==== Sys2Proof/Machine/Startup.lean ====
section
/-! DEFINITION. The CONFIG phase: the checks of an image's sections, what each section does, and the entry into RUNNING
(R404 to R418, R448, R471, R491, R501). -/

namespace Sys2Proof.Machine

/-! ### Checks (R404 to R408, R413, R448) -/

/-- The section table (R405): `lo` is where the next section may begin. -/
def tableWhole (total : Nat) : Nat → List Sect → Bool
  | _, [] => true
  | lo, e :: es =>
    decide (max lo 0x5000 ≤ e.off) && e.off % 4096 == 0 && decide (1 ≤ e.len) && decide (e.off + e.len ≤ total)
      && tableWhole total (e.off + e.len) es

/-- The counts of R406. -/
def countsWhole (es : List Sect) : Bool :=
  let n := fun (t : Nat) => (es.filter (fun e => e.type == t)).length
  n 1 == 1 && n 2 == 1 && decide (n 6 ≤ 1) && decide (n 7 ≤ 1) && decide (n 8 ≤ 1)
    && es.all (fun e => (decide (1 ≤ e.type) && decide (e.type ≤ 9)) || e.opt)

/-- Reserved bits of the section table (R405). -/
def tableReserved (s : State) (img i : Nat) : Bool :=
  let e := imageBytes s img (0x100 + 64 * i) 64
  decide (u16At e 2 < 2) && allZero (sliceB e 12 4)

/-- Is the header's section count and table as R404 to R406 say? -/
def tableOkFor (s : State) (img : Nat) : Bool :=
  let h := imageBytes s img 0 256
  let n := u16At h 6
  let total := u32At h 16
  decide (1 ≤ n) && decide (n ≤ 252) && decide (total ≤ imageMax img)
    && (List.range n).all (tableReserved s img) && tableWhole total 0 (sectsOf s img) && countsWhole (sectsOf s img)

/-- One REGISTER entry (R409). -/
def regEntryOk (e : List Byte) : Bool := decide (u8At e 4 < 2) && allZero (sliceB e 5 3)

/-- The entries of a REGISTER section. -/
def regEntries (b : List Byte) : List (List Byte) := (List.range (b.length / 16)).map (fun i => sliceB b (16 * i) 16)

/-- Does a chunk target the staging area (R408)? -/
def chunkStaged (c : Chunk) : Bool :=
  decide (c.len ≠ 0) && decide (c.dst < dramBase + dramSize) && decide (0x010007F0000000 < c.dst + c.len)

/-- A NODE section (R412). -/
def nodeSectOk (b : List Byte) : Bool :=
  let mode := u8At b 0
  let ring := fun (o m : Nat) => decide (1 ≤ u8At b o) && decide (u8At b o ≤ m)
  decide (16 ≤ b.length) && decide (mode ≤ 2) && (mode != 1 || (decide (1 ≤ u8At b 1) && decide (u8At b 1 ≤ 10)))
    && decide (u8At b 4 < 4) && (u8At b 4 == 0 || (ring 5 4 && ring 6 4 && ring 7 8)) && allZero (sliceB b 12 4)
    && (mode != 2 || (decide (16 + 16 * u32At b 8 ≤ b.length)
        && (List.range (u32At b 8)).all (fun i => allZero (sliceB b (16 + 16 * i + 10) 6))))

/-- Is a section's content well formed (R406 to R413, R448)? -/
def sectOk (s : State) (type : Nat) (b : List Byte) : Bool :=
  match type with
  | 1 => decide (b.length ≤ 0x800000)
  | 2 => b.length == 8192
  | 3 => b.length % 16 == 0 && (regEntries b).all regEntryOk
  | 4 =>
    match chunksOf b with
    | some cs => cs.all (fun c => !chunkStaged c)
    | none => false
  | 5 => decide (32 ≤ b.length) && decide (u8At b 6 < 2) && u8At b 7 == 0 && allZero (sliceB b 24 8)
  | 6 => decide (176 ≤ b.length) && (b.length - 176) % 136 == 0
  | 7 => nodeSectOk b
  | 8 => (contentEntries b).isSome
  | 9 => decide (8 ≤ b.length) && decide (u64At b 0 + (b.length - 8) ≤ (if s.boot.big then 0x20000000 else 0x10000000))
  | _ => true

/-! ### Applying sections (R407, R409 to R415) -/

/-- Apply each of a list until one fails. -/
def applyEach {α : Type} (f : State → α → State × Bool) : State → List α → State × Bool
  | s, [] => (s, true)
  | s, x :: xs =>
    let r := f s x
    if r.2 then applyEach f r.1 xs else (r.1, false)

/-- One REGISTER entry (R409). -/
def applyReg (s : State) (e : List Byte) : State × Bool :=
  if u8At e 4 % 2 = 1 ∧ bootKind s ≠ 0 then (s, true)
  else
    let r := writeRegChecked s (regBase + u32At e 0) (sliceB e 8 8) none
    (r.1, r.2 == stOK)

/-- Bytes, or zeros, to the SRAM or DRAM direct region or a writable object (R410). -/
def applyBytes (s : State) (la len : Nat) (zero : Bool) (bs : List Byte) : State × Bool :=
  if len = 0 then (s, true)
  else if 2 ^ 54 ≤ la ∨ 2 < regionOf la ∨ crossesRegion la len ∨ placeCheck s la len .write none ≠ stOK then (s, false)
  else if zero then (settle (mendBlocks (s.fillRange la len true) la len), true)
  else (settle (writeBytes s la bs), true)

/-- One MEMORY chunk (R410, R416; DEDUCED, log 164). -/
def applyChunk (s : State) (c : Chunk) : State × Bool :=
  if c.cold ∧ bootKind s ≠ 0 then (s, true) else applyBytes s c.dst c.len c.zero c.data

/-- SEAL of an OBJECT section, waited for (R411, R470). -/
def sealNow (s : State) (id home : Nat) : State × Bool :=
  let r := tierRun s 0 3 false 2 id 0 (BitVec.ofNat 64 home) 0 true
  match r.2 with
  | .done st _ => (r.1, st == 0)
  | .wait _ =>
    match objOf r.1 id with
    | none => (r.1, false)
    | some o =>
      let t := sealEnd r.1 o
      (t.1, match t.2 with
        | .done st _ => st == 0
        | .wait _ => false)

/-- An OBJECT section (R411, R418). -/
def applyObject (s : State) (b : List Byte) : State × Bool :=
  let id := u16At b 0
  let data := b.drop 32
  if !tierOn s then (s, false)
  else if keepsMemory s ∧ (objOf s id).isSome then (s, true)
  else if 16 ≤ u8At b 2 ∨ 4 ≤ u8At b 3 ∨ 8 ≤ u8At b 4 ∨ 4 ≤ u8At b 5 ∨ u64At b 8 < data.length then (s, false)
  else
    let a1 := u8At b 2 + u8At b 3 * 16 + u8At b 4 * 256 + 2048 + u8At b 6 % 2 * 4096
    let r := tierRun s 0 3 false 1 id (wordAt b 8) (BitVec.ofNat 64 a1) 0 true
    match r.2 with
    | .done 0 base =>
      if u64At b 16 ≠ 0 ∧ u64At b 16 ≠ base then (r.1, false)
      else
        let w := applyBytes r.1 base data.length false data
        if !w.2 then w else if u8At b 5 = 0 then w else sealNow w.1 id (u8At b 5)
    | _ => (r.1, false)

/-- Test content (R448, R449): a loaded one with a higher TCVER stands in its place. -/
def applyTests (s : State) (b : List Byte) : State :=
  let c := if tcver b < tcver s.integ.loaded then s.integ.loaded else b
  { s with integ := { s.integ with content := c } }.setReg Reg.chkTcver (BitVec.ofNat 64 (tcver c))

/-- One section in its turn; NODE, USER_CAL and XSPI_WRITE have their own. -/
def applySect (s : State) (e : Nat × List Byte) : State × Bool :=
  match e.1 with
  | 2 => ({ s with ftab := e.2 }, true)
  | 3 => applyEach applyReg s (regEntries e.2)
  | 4 => applyEach applyChunk s ((chunksOf e.2).getD [])
  | 5 => applyObject s e.2
  | 8 => (applyTests s e.2, true)
  | _ => (s, true)

/-- The node number of a NODE section (R412): the GPIO levels of MODE 1 come from outside (free, log 7). -/
def nodeNumber (s : State) (b : List Byte) : Option Nat :=
  match u8At b 0 with
  | 0 => some (u16At b 2)
  | 1 => some (u16At b 2 + Config.freeBelow s.freeCtr (2 ^ u8At b 1))
  | _ => ((List.range (u32At b 8)).find? (fun i => u64At b (16 + 16 * i) == s.fuses.deviceId.toNat)).map
      (fun i => u16At b (16 + 16 * i + 8))

/-- The NODE section (R412). -/
def applyNode (s : State) (b : List Byte) : State × Bool :=
  match nodeNumber s b with
  | none => (s, false)
  | some n =>
    if 1023 < n then (s, false)
    else (applyPlan (s.bumpFree.setFld Reg.fabNode 9 0 n) (u8At b 4) [u8At b 5, u8At b 6, u8At b 7], true)

/-! ### The calibration area (R414, R415) -/

/-- Record `k` with user calibration on top, and whether it came from there. -/
def calRecord (s : State) (user : List Byte) (k : Nat) : List Byte × Bool :=
  let es := (List.range ((user.length - 176) / 136)).map (fun i => sliceB user (176 + 136 * i) 136)
  match (es.filter (fun e => u32At e 0 == k)).getLast? with
  | some e => (e.drop 8, true)
  | none => (sliceB s.fuses.machine (128 * k) 128, false)

/-- One bit for each number below 64. -/
def bits64 (f : Nat → Bool) : Nat := ((List.range 64).map (fun k => if f k then 2 ^ k else 0)).foldl (· + ·) 0

/-- The calibration area (R415): the machine area stands in OTP as 64 records and 44 delays (DESIGN CHOICE, log 87). -/
def calArea (s : State) (user : List Byte) : List Byte :=
  let recs := (List.range 64).map (calRecord s user)
  let delay := fun (n : Nat) =>
    let v := u32At s.fuses.machine (8192 + 4 * n) + (if user.isEmpty then 0 else u32At user (4 * n))
    leBytes 4 (v % 2 ^ 32)
  let at_ := fun (k : Nat) => recs.getD k ([], false)
  recs.flatMap (·.1) ++ leBytes 8 (bits64 (fun k => calOk (at_ k).1)) ++ leBytes 8 (bits64 (fun k => (at_ k).2))
    ++ (List.range 44).flatMap delay

/-- Build the area before the sections that may use it (DEDUCED, log 86); a CALAREA that cannot be written fails the image as a
failed write does (DEDUCED, log 88). -/
def applyCal (s : State) (area : Nat) (user : List Byte) : State × Bool :=
  if area = 0 then (s, true)
  else if area % 0x4000 ≠ 0 ∨ regionOf area ≠ 1 then (s, false)
  else
    let b := calArea s user
    let r := applyBytes s area b.length false b
    (r.1.setReg Reg.gctlCal (BitVec.ofNat 64 area), r.2)

/-! ### The phase (R400, R407, R471, R501) -/

/-- KEEPER and KLOCK on the sources of R501. -/
def lockKeeperSources (s : State) : State :=
  ((List.range 16).map (fun n => 65 + 2 * n) ++ (List.range 8).map (fun n => 97 + 2 * n) ++ [180]).foldl
    (fun s n => s.setReg (Reg.intRoute n) (s.reg (Reg.intRoute n) ||| 0x300)) s

/-- The first start in RETIRED (R471, DEDUCED, log 59): flash is erased but for the journal area, and DRAM is zero. -/
def retireErase (s : State) : State :=
  if !s.sec.retire then s
  else
    { s with
      mem := keptCells s.mem (keptFills s.fills (· == 2)) (fun a => regionOf a == 2)
      fills := keptFills s.fills (· == 2)
      tier := { s.tier with objs := [], copies := [], gens := [], media := [], promote := [], kept := false }
      bram := { s.bram with indexes := [] }
      sec := { s.sec with retire := false } }

/-- Indexes after a start that keeps the memory (R418): CLOSED until Bramble runs. -/
def keptIndexes (s : State) : State := s.bram.indexes.foldl (fun s e => setIdxState s e.1 2) s

/-- Those whose header still has its DIGEST are opened (R418). -/
def reopenIndexes (s : State) : State :=
  if !(bramOn s && keepsMemory s) then s
  else s.bram.indexes.foldl (fun s e =>
    if hdrDigest s e.1 = u32At (hdrBytes s e.1 16 4) 0 then openCmd s e.1 else s) s

/-- XSPI_WRITE sections of a recovery image (R406, R421). -/
def writeXspi (s : State) (b : List Byte) : State :=
  { s with boot := { s.boot with xspi := kvSetAll (fun _ => 0xFF) s.boot.xspi (u64At b 0) (b.drop 8) } }

/-- After a warm start every last-event ring takes a RESET entry (R491). -/
def resetEntries (s : State) : State :=
  if bootKind s ≠ 1 then s
  else (List.range 190).foldl (fun s u => lerPush s ⟨s.now, u, 0x10, obsAttr s 0 0 true, 0, bootKind s, 0⟩) s

/-- The device enters RUNNING. -/
def enterRunning (s : State) : State := setPhase (resetEntries s) 7

/-- Apply a checked image: NODE first, then every section in table order (R407). -/
def applyImage (s : State) (img : Nat) (secs : List (Nat × List Byte)) : State × Bool :=
  let h := imageBytes s img 0 256
  let find := fun (t : Nat) => ((secs.find? (fun e => e.1 == t)).map (·.2)).getD []
  let n := if (find 7).isEmpty then (s, true) else applyNode s (find 7)
  if !n.2 then n
  else
    let c := applyCal n.1 (u64At h 40) (find 6)
    if !c.2 then c
    else
      let s := if secs.any (fun e => e.1 == 8) then c.1 else applyTests c.1 []
      applyEach applySect s secs

/-- CONFIG_APPLY (R407): checks, digests, and the sections. -/
def execConfigApply (s : State) : Host.Outcome State Fault Refusal :=
  match s.boot.image with
  | none => .next s
  | some img =>
    if bootPhase s ≠ 5 then .next s
    else if !tableOkFor s img then .next (bootFail s 5)
    else
      let es := sectsOf s img
      let secs := es.map (fun e => (e.type, sectBytes s img e))
      if !(es.zip secs).all (fun e => sha384 e.2.2 == e.1.digest) then .next (bootFail s 4)
      else if !secs.all (fun e => sectOk s e.1 e.2) then .next (bootFail s 5)
      else
        let s := retireErase (lockKeeperSources (s.setFld Reg.gctlBoot 3 0 6))
        let s := if keepsMemory s then keptIndexes s else s
        let r := applyImage s img secs
        if !r.2 then .next (bootFail r.1 7)
        else
          let s := if img = 2 then (secs.filter (fun e => e.1 == 9)).foldl (fun s e => writeXspi s e.2) r.1 else r.1
          .next (enterRunning (reopenIndexes s))

end Sys2Proof.Machine
end

