-- ==== Sys2Proof/Machine/Steps.lean ====
section
/-! DEFINITION. The step language (R184 to R193): fetching and checking a step, and the steps that touch no memory. -/

namespace Sys2Proof.Machine

/-! ### The step word (R184) -/

/-- A step's fields. -/
structure StepWord where
  op  : Nat
  rd  : Nat
  ra  : Nat
  rb  : Nat
  imm : Nat
  deriving DecidableEq, Repr

/-- The fields of a word. -/
def stepWord (w : Nat) : StepWord :=
  ⟨natBits w 31 26, natBits w 25 22, natBits w 21 18, natBits w 17 14, natBits w 13 0⟩

/-- sext(imm). -/
def StepWord.simm (w : StepWord) : Int := sextN 14 w.imm

/-- What an opcode's row lists: gd, ga, gb, and the bits of imm that it may set. -/
structure StepRow where
  rd  : Bool
  ra  : Bool
  rb  : Bool
  imm : Nat
  deriving DecidableEq, Repr

/-- The opcode table (R186): none for a reserved code. ATOM lists imm, of which only bits [2:0] count. -/
def stepRow (op : Nat) : Option StepRow :=
  let all := 0x3FFF
  if op ∈ [0x01, 0x02, 0x04, 0x05, 0x06, 0x07, 0x0B, 0x0C, 0x18, 0x19, 0x1A, 0x1B, 0x1C, 0x1E, 0x2F, 0x35] then
    some ⟨true, true, true, 0⟩
  else if op ∈ [0x03, 0x24, 0x25, 0x26, 0x2C] then some ⟨true, true, false, all⟩
  else if op ∈ [0x08, 0x09, 0x0A] then some ⟨true, true, false, 0x3F⟩
  else if op ∈ [0x0D, 0x15, 0x1D, 0x1F, 0x20, 0x37] then some ⟨true, true, false, 0⟩
  else if op ∈ [0x0E, 0x14] then some ⟨true, false, false, all⟩
  else if op ∈ [0x10, 0x11, 0x12, 0x13, 0x27, 0x28, 0x29] then some ⟨false, true, true, all⟩
  else if op ∈ [0x2A, 0x2B] then some ⟨false, true, false, all⟩
  else if op = 0x2D then some ⟨false, true, false, 7⟩
  else if op = 0x2E then some ⟨true, false, false, 7⟩
  else if op ∈ [0x30, 0x31, 0x32, 0x33, 0x34, 0x39, 0x3A] then some ⟨true, true, true, all⟩
  else if op = 0x36 then some ⟨false, false, false, 0⟩
  else if op = 0x38 then some ⟨true, true, true, 0xF⟩
  else if op = 0x3B then some ⟨false, true, false, 0⟩
  else if op = 0x3C then some ⟨true, false, false, 1⟩
  else if op = 0x3D then some ⟨true, false, false, 0⟩
  else none

/-- Does the word raise ILLEGAL (R184, R190)? -/
def stepIllegal (w : StepWord) : Bool :=
  match stepRow w.op with
  | none => true
  | some r =>
    (!r.rd && w.rd != 0) || (!r.ra && w.ra != 0) || (!r.rb && w.rb != 0) || (w.imm &&& r.imm) != w.imm
      || (w.op == 0x38 && decide (8 ≤ w.imm) && decide (w.imm < 15))

/-! ### Fetch (R191, R470) -/

/-- May steps be fetched from a place: the SRAM or DRAM direct region or an object of the own node, 4-byte aligned; with
SIGNED_WORKLOADS, only an object sealed during the CONFIG phase? Where this fails no read has a status, and which one
LSTAT holds is free (DESIGN CHOICE, log 83). -/
def fetchPlace (s : State) (pc : Word) : Bool :=
  nodeOf pc == s.node && decide (regionOf (localOf pc) < 3) && pc.toNat % 4 == 0
    && (!s.bit Reg.secStat 6 || signedPlace s pc 4)

/-- The number of a strand's processor, among the 128. -/
def procOf (t : Strand) : Nat := 16 * homeCluster t.id + t.proc

/-- A strand processor. -/
def Strands.procAt (k : Strands) (p : Nat) : Proc := k.procs.getD p ⟨[], 0, 0, [63, 63, 63, 63], [4, 2, 1]⟩

/-- Change a strand processor. -/
def State.modProc (s : State) (p : Nat) (f : Proc → Proc) : State :=
  { s with str := { s.str with procs := s.str.procs.modify p f } }

/-- The line of 64 bytes that a word stands in. -/
def lineOf (pc : Word) : Word := pc &&& ~~~63

/-- A processor keeps the last 256 lines fetched (R191). -/
def keepLine (a : Word) (bs : List Byte) (p : Proc) : Proc :=
  { p with lines := p.lines.drop (p.lines.length + 1 - 256) ++ [(a, bs)] }

/-- The step at the PC in a line that the processor keeps (R191): where memory has changed since, which of the old and the
new word is executed is free (DESIGN CHOICE, log 7). -/
def keptStep (s : State) (pc : Word) (bs : List Byte) : State × StepWord :=
  let old := u32At bs (pc.toNat % 64)
  let new := u32At (s.load (localOf pc) 4) 0
  if old = new then (s, stepWord old)
  else (s.bumpFree, stepWord (if (Config.freeWord s.freeCtr).getLsbD 0 then old else new))

/-- Fetch the step at the PC: the word, or the status that LSTAT then holds. The line it stands in is fetched whole unless
the processor keeps it (R191). -/
def fetchStep (s : State) (t : Strand) : State × Except Nat StepWord :=
  let a := lineOf t.pc
  if !fetchPlace s t.pc then (s.bumpFree, .error (1 + Config.freeBelow s.freeCtr 13))
  else match (s.str.procAt (procOf t)).lines.find? (·.1 == a) with
    | some e =>
      let r := keptStep s t.pc e.2
      (r.1, .ok r.2)
    | none =>
      let r := unitRead s a 64 t.cls (some (homeCluster t.id))
      if r.2.1 = stOK then (r.1.modProc (procOf t) (keepLine a r.2.2), .ok (stepWord (u32At r.2.2 (t.pc.toNat % 64))))
      else (r.1, .error r.2.1)

/-! ### Issue (R71 to R73, R172, R173, R175, R192) -/

/-- Has C0 issued its STRAND share of the period on this processor (R71)? A processor issues at most one step in a
cycle. -/
def strandSpent (s : State) (c : Nat) (p : Proc) : Bool :=
  match resvUnits s 3 (unitMHz s c) 1000 with
  | some n => decide (n ≤ p.c0)
  | none => false

/-- The class a strand is served in: C0 beyond the share as C1 (R71). -/
def servedClass (spent : Bool) (t : Strand) : Nat := if spent ∧ t.cls = 0 then 1 else t.cls % 4

/-- The strands beside `t` that its processor may surely pick: READY, and a cycle has been issued for each that their last
step took (R175). Whether another READY strand has completed its last step is a matter of timing, and the command that
names `t` says that it was not picked before `t` (DESIGN CHOICE, log 190). -/
def eligible (s : State) (t : Strand) : List Strand :=
  let p := s.str.procAt (procOf t)
  s.str.all.filter (fun u => u.id == t.id ||
    (u.state == 1 && u.resident && procOf u == procOf t && decide (u.busy ≤ p.cycle)))

/-- How far a context stands after the one last picked, in the order in which a class is picked (R173). -/
def afterLast (last ctx : Nat) : Nat := (ctx + 127 - last) % 64

/-- The class that a processor picks among strands, and what C1 to C3 may still issue of their 4, 2 and 1 steps of a round
(R72, R173; the order within a round is a DESIGN CHOICE, log 204). -/
def pickClass (spent : Bool) (p : Proc) (ts : List Strand) : Nat × List Nat :=
  let has := fun (c : Nat) => ts.any (fun t => servedClass spent t == c)
  if has 0 then (0, p.turn)
  else
    let ready := [1, 2, 3].filter has
    let left := if ready.any (fun c => decide (0 < p.turn.getD (c - 1) 0)) then p.turn else [4, 2, 1]
    let c := (ready.find? (fun c => decide (0 < left.getD (c - 1) 0))).getD 1
    (c, left.modify (c - 1) (· - 1))

/-- The strand that a processor picks (R173): in the class, the lowest-numbered context after the one last picked. -/
def pickStrand (spent : Bool) (p : Proc) (ts : List Strand) : Option Strand :=
  let c := (pickClass spent p ts).1
  let k := fun (t : Strand) => afterLast (p.last.getD c 63) t.ctx
  leastBy (fun a b => decide (k a < k b)) (ts.filter (fun t => servedClass spent t == c))

/-- Does the processor of a strand pick it now (R173)? -/
def picked (s : State) (t : Strand) : Bool :=
  let p := s.str.procAt (procOf t)
  (pickStrand (strandSpent s (homeCluster t.id) p) p (eligible s t)).map (·.id) == some t.id

/-- May the strand issue its next step: READY, resident and picked by its processor, in P0 or P1? -/
def mayIssue (s : State) (t : Strand) : Bool :=
  t.state == 1 && t.resident && decide (pState s < 2) && picked s t

/-- The cycles that a step of an opcode takes: at least this many pass before the strand issues again (R175). -/
def stepCycles (op : Nat) : Nat := if op = 0x1C ∨ op = 0x1D then 16 else 4

/-- The processor has issued a step of the strand (R71 to R73, R173): C0 demand beyond the STRAND share is recorded. -/
def issued (s : State) (t : Strand) : State :=
  let k := procOf t
  let p := s.str.procAt k
  let spent := strandSpent s (homeCluster t.id) p
  let ts := eligible s t
  let c := pickClass spent p ts
  let s := if spent && ts.any (·.cls == 0) then exceedResv s 3 else s
  s.modProc k (fun p => { p with
    cycle := p.cycle + 1
    c0 := if t.cls = 0 ∧ !spent then p.c0 + 1 else p.c0
    last := p.last.set c.1 t.ctx
    turn := c.2 })

/-- A strand as it issues a step of opcode `op`: busy for the cycles the step takes (R175). -/
def issuing (s : State) (t : Strand) (op : Nat) : Strand :=
  { t with busy := (s.str.procAt (procOf t)).cycle + stepCycles op }

/-- The next step of strand `id`, whose opcode is `op`: a failed fetch and a reserved code are faults whatever step was
meant; a step of another opcode is not this command's. -/
def issueStep (s : State) (id : BitVec 22) (op : Nat) (run : State → Strand → StepWord → State) : State :=
  match strandOf s id.toNat with
  | none => s
  | some t =>
    if !mayIssue s t then s
    else
      let f := fetchStep s t
      match f.2 with
      | .error st => faultStrand (issued f.1 t) t 2 (some st)
      | .ok w =>
        if (stepRow w.op).isNone then faultStrand (issued f.1 t) t 1 none
        else if w.op ≠ op then s
        else if stepIllegal w then faultStrand (issued f.1 t) t 1 none
        else run (issued f.1 (issuing s t op)) (issuing s t op) w

/-- Register `n` of a strand. -/
def Strand.g (t : Strand) (n : Nat) : Word := t.gregs.getD n 0

/-- A step has been issued: STEPS counts it (R170). -/
def Strand.counted (t : Strand) : Strand := { t with steps := (t.steps + 1) % 2 ^ 64 }

/-- A step has been issued, and the PC moves to the next one. -/
def Strand.next (t : Strand) : Strand := { t.counted with pc := t.pc + 4 }

/-- A step relative address: step address + sext(imm) × 4. -/
def stepTarget (t : Strand) (w : StepWord) : Word := t.pc + BitVec.ofInt 64 (w.simm * 4)

/-- A step that writes gd and nothing else (R185, R186). -/
def stepAlu (s : State) (id : BitVec 22) (op : Nat) (f : Strand → StepWord → Word) : State :=
  issueStep s id op (fun s t w => s.setStrand (setGreg t.next w.rd (f t w)))

/-- A branch (R186). -/
def stepBranch (s : State) (id : BitVec 22) (op : Nat) (cond : Word → Word → Bool) : State :=
  issueStep s id op (fun s t w =>
    s.setStrand (if cond (t.g w.ra) (t.g w.rb) then { t.counted with pc := stepTarget t w } else t.next))

/-- binary32 operands (R185). -/
def f32Of (w : Word) : Nat := w.toNat % 2 ^ 32

/-! ### Integer steps -/

/-- STEP_ADD. -/
def execStepAdd (id : BitVec 22) (s : State) : Host.Outcome State Fault Refusal :=
  .next (stepAlu s id 0x01 (fun t w => t.g w.ra + t.g w.rb))

/-- STEP_SUB. -/
def execStepSub (id : BitVec 22) (s : State) : Host.Outcome State Fault Refusal :=
  .next (stepAlu s id 0x02 (fun t w => t.g w.ra - t.g w.rb))

/-- STEP_ADDI. -/
def execStepAddi (id : BitVec 22) (s : State) : Host.Outcome State Fault Refusal :=
  .next (stepAlu s id 0x03 (fun t w => t.g w.ra + BitVec.ofInt 64 w.simm))

/-- STEP_MUL. -/
def execStepMul (id : BitVec 22) (s : State) : Host.Outcome State Fault Refusal :=
  .next (stepAlu s id 0x04 (fun t w => t.g w.ra * t.g w.rb))

/-- STEP_AND. -/
def execStepAnd (id : BitVec 22) (s : State) : Host.Outcome State Fault Refusal :=
  .next (stepAlu s id 0x05 (fun t w => t.g w.ra &&& t.g w.rb))

/-- STEP_OR. -/
def execStepOr (id : BitVec 22) (s : State) : Host.Outcome State Fault Refusal :=
  .next (stepAlu s id 0x06 (fun t w => t.g w.ra ||| t.g w.rb))

/-- STEP_XOR. -/
def execStepXor (id : BitVec 22) (s : State) : Host.Outcome State Fault Refusal :=
  .next (stepAlu s id 0x07 (fun t w => t.g w.ra ^^^ t.g w.rb))

/-- STEP_SHLI. -/
def execStepShli (id : BitVec 22) (s : State) : Host.Outcome State Fault Refusal :=
  .next (stepAlu s id 0x08 (fun t w => t.g w.ra <<< w.imm))

/-- STEP_SHRI. -/
def execStepShri (id : BitVec 22) (s : State) : Host.Outcome State Fault Refusal :=
  .next (stepAlu s id 0x09 (fun t w => t.g w.ra >>> w.imm))

/-- STEP_SARI. -/
def execStepSari (id : BitVec 22) (s : State) : Host.Outcome State Fault Refusal :=
  .next (stepAlu s id 0x0A (fun t w => (t.g w.ra).sshiftRight w.imm))

/-- STEP_SLT. -/
def execStepSlt (id : BitVec 22) (s : State) : Host.Outcome State Fault Refusal :=
  .next (stepAlu s id 0x0B (fun t w => if (t.g w.ra).toInt < (t.g w.rb).toInt then 1 else 0))

/-- STEP_SLTU. -/
def execStepSltu (id : BitVec 22) (s : State) : Host.Outcome State Fault Refusal :=
  .next (stepAlu s id 0x0C (fun t w => if (t.g w.ra).toNat < (t.g w.rb).toNat then 1 else 0))

/-- STEP_POPC. -/
def execStepPopc (id : BitVec 22) (s : State) : Host.Outcome State Fault Refusal :=
  .next (stepAlu s id 0x0D (fun t w => BitVec.ofNat 64 (popcount64 (t.g w.ra))))

/-! ### Branches and jumps -/

/-- STEP_BEQ. -/
def execStepBeq (id : BitVec 22) (s : State) : Host.Outcome State Fault Refusal :=
  .next (stepBranch s id 0x10 (fun a b => a == b))

/-- STEP_BNE. -/
def execStepBne (id : BitVec 22) (s : State) : Host.Outcome State Fault Refusal :=
  .next (stepBranch s id 0x11 (fun a b => a != b))

/-- STEP_BLT. -/
def execStepBlt (id : BitVec 22) (s : State) : Host.Outcome State Fault Refusal :=
  .next (stepBranch s id 0x12 (fun a b => decide (a.toInt < b.toInt)))

/-- STEP_BGE. -/
def execStepBge (id : BitVec 22) (s : State) : Host.Outcome State Fault Refusal :=
  .next (stepBranch s id 0x13 (fun a b => decide (b.toInt ≤ a.toInt)))

/-- STEP_JAL. -/
def execStepJal (id : BitVec 22) (s : State) : Host.Outcome State Fault Refusal :=
  .next (issueStep s id 0x14 (fun s t w =>
    s.setStrand { (setGreg t.counted w.rd (t.pc + 4)) with pc := stepTarget t w }))

/-- STEP_JR (R192): a target that is not 4-byte aligned raises ALIGN. -/
def execStepJr (id : BitVec 22) (s : State) : Host.Outcome State Fault Refusal :=
  .next (issueStep s id 0x15 (fun s t w =>
    let a := t.g w.ra
    if a.toNat % 4 ≠ 0 then faultStrand s t 4 none
    else s.setStrand { (setGreg t.counted w.rd (t.pc + 4)) with pc := a }))

/-! ### Float steps (R185) -/

/-- A binary32 step of two operands. -/
def stepFloat (s : State) (id : BitVec 22) (op : Nat) (f : Nat → Nat → Nat) : State :=
  stepAlu s id op (fun t w => BitVec.ofNat 64 (f (f32Of (t.g w.ra)) (f32Of (t.g w.rb))))

/-- STEP_FADD. -/
def execStepFadd (id : BitVec 22) (s : State) : Host.Outcome State Fault Refusal := .next (stepFloat s id 0x18 f32add)

/-- STEP_FSUB. -/
def execStepFsub (id : BitVec 22) (s : State) : Host.Outcome State Fault Refusal := .next (stepFloat s id 0x19 f32sub)

/-- STEP_FMUL. -/
def execStepFmul (id : BitVec 22) (s : State) : Host.Outcome State Fault Refusal := .next (stepFloat s id 0x1A f32mul)

/-- STEP_FFMA: gd = fma(ga, gb, gd), rounded once. -/
def execStepFfma (id : BitVec 22) (s : State) : Host.Outcome State Fault Refusal :=
  .next (stepAlu s id 0x1B (fun t w =>
    BitVec.ofNat 64 (f32fma (f32Of (t.g w.ra)) (f32Of (t.g w.rb)) (f32Of (t.g w.rd)))))

/-- STEP_FDIV. -/
def execStepFdiv (id : BitVec 22) (s : State) : Host.Outcome State Fault Refusal := .next (stepFloat s id 0x1C f32div)

/-- STEP_FSQRT. -/
def execStepFsqrt (id : BitVec 22) (s : State) : Host.Outcome State Fault Refusal :=
  .next (stepAlu s id 0x1D (fun t w => BitVec.ofNat 64 (f32sqrt (f32Of (t.g w.ra)))))

/-- STEP_FLT. -/
def execStepFlt (id : BitVec 22) (s : State) : Host.Outcome State Fault Refusal :=
  .next (stepAlu s id 0x1E (fun t w => if f32lt (f32Of (t.g w.ra)) (f32Of (t.g w.rb)) then 1 else 0))

/-- STEP_FCVTIF. -/
def execStepFcvtif (id : BitVec 22) (s : State) : Host.Outcome State Fault Refusal :=
  .next (stepAlu s id 0x1F (fun t w => BitVec.ofNat 64 (f32ofInt (t.g w.ra).toInt)))

/-- STEP_FCVTFI. -/
def execStepFcvtfi (id : BitVec 22) (s : State) : Host.Outcome State Fault Refusal :=
  .next (stepAlu s id 0x20 (fun t w => BitVec.ofInt 64 (truncI64 (fmtF32.decode (f32Of (t.g w.ra))))))

/-! ### W, HASH, STAT and TIME -/

/-- STEP_WINS. -/
def execStepWins (id : BitVec 22) (s : State) : Host.Outcome State Fault Refusal :=
  .next (issueStep s id 0x2D (fun s t w => s.setStrand { t.next with wide := t.wide.set w.imm (t.g w.ra) }))

/-- STEP_WEXT. -/
def execStepWext (id : BitVec 22) (s : State) : Host.Outcome State Fault Refusal :=
  .next (stepAlu s id 0x2E (fun t w => t.wide.getD w.imm 0))

/-- STEP_HASH. -/
def execStepHash (id : BitVec 22) (s : State) : Host.Outcome State Fault Refusal :=
  .next (stepAlu s id 0x2F (fun t w => mixHash (t.g w.ra) (t.g w.rb)))

/-- What STAT reads (R186). -/
def statWord (s : State) (t : Strand) : Word :=
  BitVec.ofNat 64 (t.lstat % 256 + t.serr % 256 * 2 ^ 8 + t.cls % 4 * 2 ^ 16 + homeCluster t.id * 2 ^ 18
    + t.sid % 2 ^ 22 * 2 ^ 32 + s.node * 2 ^ 54)

/-- STEP_STAT: with imm[0], SERR is cleared after it is read. -/
def execStepStat (id : BitVec 22) (s : State) : Host.Outcome State Fault Refusal :=
  .next (issueStep s id 0x3C (fun s t w =>
    let t' := setGreg t.next w.rd (statWord s t)
    s.setStrand (if w.imm = 1 then { t' with serr := 0 } else t')))

/-- STEP_TIME. -/
def execStepTime (id : BitVec 22) (s : State) : Host.Outcome State Fault Refusal :=
  .next (issueStep s id 0x3D (fun s t w => s.setStrand (setGreg t.next w.rd (BitVec.ofNat 64 s.now))))

end Sys2Proof.Machine
end

