-- ==== Sys2Proof/Machine/StepsMem.lean ====
section
/-! DEFINITION. The steps that touch memory: loads, posted stores, the blocking operations, JOB, SPAWN, FENCE and END,
and how a strand goes on after them (R172, R178, R179, R187 to R190, R193). An operation is issued at its step (DESIGN CHOICE, log 84);
STRAND_OP_COMPLETE takes its answer. -/

namespace Sys2Proof.Machine

/-! ### Loads and stores (R187) -/

/-- The source of a strand's operations (R40). -/
def strandSource (t : Strand) : Source := .strand (BitVec.ofNat 22 t.id)

/-- An operation of a strand, in its class (R187). -/
def strandOp (t : Strand) (code aop : Nat) (dst src : Word) (len : Nat) (operand compare signal : Word) : Op :=
  ⟨strandSource t, t.cls, code, aop, dst, src, len, operand, compare, signal, 0⟩

/-- Is an earlier posted store of the strand pending that overlaps these bytes (R187)? -/
def storeAhead (s : State) (id : Nat) (a : Word) (len : Nat) : Bool :=
  s.ops.any (fun p =>
    p.origin == .store id && decide (p.op.dst.toNat < a.toNat + len) && decide (a.toNat < p.op.dst.toNat + p.op.len))

/-- Issue the load that a strand waits for, unless it must wait for a store. -/
def sendLoad (s : State) (t : Strand) : State :=
  match t.wait with
  | .load code rd a len false none =>
    if storeAhead s t.id a len then s
    else
      let s := s.setStrand { t with wait := .load code rd a len true none }
      issue s (.load t.id) (strandOp t 1 0 a 0 len 0 0 0) []
  | _ => s

/-- A load step (R187): a misaligned one raises ALIGN and is not issued. The PC moves on when the load completes. -/
def stepLoad (s : State) (id : BitVec 22) (op len : Nat) (addr : Strand → StepWord → Word) : State :=
  issueStep s id op (fun s t w =>
    let a := addr t w
    if a.toNat % len ≠ 0 then faultStrand s t 4 none
    else
      let t := { t.counted with state := 2, wait := .load op w.rd a len false none }
      sendLoad (s.setStrand t) t)

/-- ga + sext(imm) × `scale`. -/
def immAddr (scale : Nat) (t : Strand) (w : StepWord) : Word := t.g w.ra + BitVec.ofInt 64 (w.simm * scale)

/-- STEP_LDK: step-relative. -/
def execStepLdk (id : BitVec 22) (s : State) : Host.Outcome State Fault Refusal := .next (stepLoad s id 0x0E 8 stepTarget)

/-- STEP_LD8. -/
def execStepLd8 (id : BitVec 22) (s : State) : Host.Outcome State Fault Refusal := .next (stepLoad s id 0x24 1 (immAddr 1))

/-- STEP_LD32. -/
def execStepLd32 (id : BitVec 22) (s : State) : Host.Outcome State Fault Refusal := .next (stepLoad s id 0x25 4 (immAddr 1))

/-- STEP_LD64. -/
def execStepLd64 (id : BitVec 22) (s : State) : Host.Outcome State Fault Refusal := .next (stepLoad s id 0x26 8 (immAddr 1))

/-- STEP_LDW. -/
def execStepLdw (id : BitVec 22) (s : State) : Host.Outcome State Fault Refusal := .next (stepLoad s id 0x2A 64 (immAddr 64))

/-- STEP_HAMM. -/
def execStepHamm (id : BitVec 22) (s : State) : Host.Outcome State Fault Refusal :=
  .next (stepLoad s id 0x2C 64 (immAddr 64))

/-- A posted store (R187): the strand goes on at once, and a failure goes into SERR. -/
def stepStore (s : State) (id : BitVec 22) (op len scale : Nat) (data : Strand → StepWord → List Byte) : State :=
  issueStep s id op (fun s t w =>
    let a := immAddr scale t w
    if a.toNat % len ≠ 0 then faultStrand s t 4 none
    else issue (s.setStrand t.next) (.store t.id) (strandOp t 2 0 a 0 len 0 0 0) (data t w))

/-- STEP_ST8. -/
def execStepSt8 (id : BitVec 22) (s : State) : Host.Outcome State Fault Refusal :=
  .next (stepStore s id 0x27 1 1 (fun t w => (wordBytes (t.g w.rb)).take 1))

/-- STEP_ST32. -/
def execStepSt32 (id : BitVec 22) (s : State) : Host.Outcome State Fault Refusal :=
  .next (stepStore s id 0x28 4 1 (fun t w => (wordBytes (t.g w.rb)).take 4))

/-- STEP_ST64. -/
def execStepSt64 (id : BitVec 22) (s : State) : Host.Outcome State Fault Refusal :=
  .next (stepStore s id 0x29 8 1 (fun t w => wordBytes (t.g w.rb)))

/-- STEP_STW. -/
def execStepStw (id : BitVec 22) (s : State) : Host.Outcome State Fault Refusal :=
  .next (stepStore s id 0x2B 64 64 (fun t _ => t.wide.flatMap wordBytes))

/-! ### Blocking operations (R188) -/

/-- Issue a blocking operation of a strand that waits in WAIT_MEM (2) or WAIT_BUOY (3). -/
def stepBlock (s : State) (t : Strand) (rd state : Nat) (op : Op) : State :=
  let s := s.setStrand { t.next with state := state, wait := .pending s.nextTag rd }
  issue s (.strand t.id none) op []

/-- STEP_GET: `imm` bytes from ga into gb. -/
def execStepGet (id : BitVec 22) (s : State) : Host.Outcome State Fault Refusal :=
  .next (issueStep s id 0x30 (fun s t w => stepBlock s t w.rd 2 (strandOp t 1 0 (t.g w.ra) (t.g w.rb) w.imm 0 0 0)))

/-- STEP_PUT: `imm` bytes from gb to ga. -/
def execStepPut (id : BitVec 22) (s : State) : Host.Outcome State Fault Refusal :=
  .next (issueStep s id 0x31 (fun s t w => stepBlock s t w.rd 2 (strandOp t 2 0 (t.g w.ra) (t.g w.rb) w.imm 0 0 0)))

/-- STEP_PUTS: the SIGNAL buoy at gd. -/
def execStepPuts (id : BitVec 22) (s : State) : Host.Outcome State Fault Refusal :=
  .next (issueStep s id 0x32 (fun s t w =>
    stepBlock s t w.rd 2 (strandOp t 3 0 (t.g w.ra) (t.g w.rb) w.imm 0 0 (t.g w.rd))))

/-- STEP_ATOM. -/
def execStepAtom (id : BitVec 22) (s : State) : Host.Outcome State Fault Refusal :=
  .next (issueStep s id 0x33 (fun s t w =>
    stepBlock s t w.rd 2 (strandOp t 4 (w.imm % 8) (t.g w.ra) 0 8 (t.g w.rb) (t.g w.rd) 0)))

/-- STEP_COPY: gd bytes from gb to ga. -/
def execStepCopy (id : BitVec 22) (s : State) : Host.Outcome State Fault Refusal :=
  .next (issueStep s id 0x35 (fun s t w =>
    stepBlock s t w.rd 2 (strandOp t 6 0 (t.g w.ra) (t.g w.rb) (t.g w.rd).toNat 0 0 0)))

/-- STEP_OPREC: the record's operation in the strand's class. -/
def execStepOprec (id : BitVec 22) (s : State) : Host.Outcome State Fault Refusal :=
  .next (issueStep s id 0x37 (fun s t w =>
    let s := s.setStrand { t.next with state := 2, wait := .pending s.nextTag w.rd }
    issueRecord s (strandSource t) (some t.cls) (t.g w.ra) (fun a => .strand t.id a)))

/-! ### Waits on buoys (R178, R189) -/

/-- A strand begins to wait in WAIT_BUOY (R172), with the stamps of this moment (R176). -/
def beginWait (s : State) (t : Strand) (w : SWait) : State :=
  settle (saveStrand s { t with state := 3, wait := w, ready := s.str.clock, waited := s.tim.n }).tickReady

/-- Wait on a buoy of the own node: registered at the cluster, or over at once. -/
def waitLocal (s : State) (t : Strand) (rd limit since : Nat) (a cond : Word) : State :=
  let w := s.word (localOf a)
  match watchCond w cond with
  | some st => endWait s t rd st w
  | none => beginWait s { t with waddr := a, wcond := cond } (.buoy rd limit since)

/-- Wait on a buoy of any node (R178): another node's takes an ordinary WATCH. A WATCH that is refused has no buoy value
(free, log 7). -/
def waitBuoy (s : State) (t : Strand) (rd limit since : Nat) (a cond : Word) : State :=
  if nodeOf a = s.node then
    let st := buoyCheck s (localOf a)
    if st ≠ stOK then endWait s.bumpFree t rd st (Config.freeWord s.freeCtr)
    else waitLocal s t rd limit since a cond
  else
    let s := beginWait s { t with waddr := a, wcond := cond } (.pending s.nextTag rd)
    issue s (.strand t.id none) (strandOp t 5 0 a 0 limit cond 0 0) []

/-- STEP_WATCH. -/
def execStepWatch (id : BitVec 22) (s : State) : Host.Outcome State Fault Refusal :=
  .next (issueStep s id 0x34 (fun s t w => waitBuoy s t.next w.rd w.imm s.lamp.counted (t.g w.ra) (t.g w.rb)))

/-- STEP_PARK: as WATCH, and parked at once (R176). -/
def execStepPark (id : BitVec 22) (s : State) : Host.Outcome State Fault Refusal :=
  .next (issueStep s id 0x3A (fun s t w =>
    let s := waitBuoy s t.next w.rd w.imm s.lamp.counted (t.g w.ra) (t.g w.rb)
    match strandOf s t.id with
    | some t => if t.state = 3 then parkStrand s t else s
    | none => s))

/-- JOB goes on once LAUNCH has been incremented, or that has failed (R189): its edges count from here. When the increment
fails gd holds the value read (DESIGN CHOICE, log 85). -/
def jobWait (s : State) (t : Strand) (rd limit : Nat) (done w : Word) (status : Nat) : State :=
  if status ≠ stOK then settle (endWait s t rd status w)
  else
    let cond := putBits (BitVec.ofNat 64 ((bitsOf w 47 0 + 1) % 2 ^ 48)) 63 48 (bitsOf w 63 48 + 1)
    waitBuoy s t rd limit s.lamp.counted done cond

/-- The increment of a LAUNCH buoy on another node leaves, and the strand waits for its response (R189). -/
def sendLaunch (s : State) (t : Strand) (rd limit : Nat) (launch done w : Word) : State :=
  let tag := s.nextTag
  let n := nodeOf launch
  let op := strandOp t 3 0 launch 0 0 0 0 launch
  let r := sendPacket { s with nextTag := tag + 1 } n (bumpPacket s launch true t.cls tag) false true
  let p : PendingOp := ⟨tag, op, .load t.id, .sent n, []⟩
  let s := saveStrand r.1 { t with wait := .launch rd limit done w none }
  match r.2 with
  | .failed st => jobWait s t rd limit done w st
  | .held => s.addOp { p with phase := .held n s.lamp.counted }
  | .sent => s.addOp p

/-- JOB goes on with the DONE buoy read: LAUNCH is counted (R189). -/
def jobGo (s : State) (t : Strand) (rd limit : Nat) (launch done : Word) (status : Nat) (data : List Byte) : State :=
  if status ≠ stOK then settle (endWait s.bumpFree t rd status (Config.freeWord s.freeCtr))
  else if nodeOf launch ≠ s.node then sendLaunch s t rd limit launch done (wordAt data 0)
  else
    let r := bump s launch true t.cls
    match strandOf r.1 t.id with
    | some t => jobWait r.1 t rd limit done (wordAt data 0) r.2
    | none => r.1

/-- Go on with a JOB whose read or increment has its answer. -/
def jobAnswer (s : State) (id : Nat) : State :=
  match strandOf s id with
  | none => s
  | some t =>
    let u := if t.resident then t else loadContext s t
    match t.wait with
    | .job rd limit launch done (some (st, data)) => jobGo s u rd limit launch done st data
    | .launch rd limit done w (some st) => jobWait s u rd limit done w st
    | _ => s

/-- STEP_JOB (R189): the DONE buoy is read first; one that breaks R31 fails the step. -/
def execStepJob (id : BitVec 22) (s : State) : Host.Outcome State Fault Refusal :=
  .next (issueStep s id 0x39 (fun s t w =>
    let launch := t.g w.ra
    let done := t.g w.rb
    let st := if nodeOf done = s.node then buoyCheck s (localOf done)
      else if done.toNat % 8 ≠ 0 then stALIGNMENT else stOK
    if st ≠ stOK then endWait s.bumpFree t.next w.rd st (Config.freeWord s.freeCtr)
    else
      let s := beginWait s t.next (.job w.rd w.imm launch done none)
      let s := issue s (.load t.id) (strandOp t 1 0 done 0 8 0 0 0) []
      jobAnswer s t.id))

/-- STRAND_WAIT_TIMEOUT (R37, R178, R179, R189): a wait reaches its edge count. A JOB has none before its wait. -/
def execStrandWaitTimeout (id : BitVec 22) (s : State) : Host.Outcome State Fault Refusal :=
  match strandOf s id.toNat with
  | none => .next s
  | some t =>
    match t.wait with
    | .buoy rd limit since =>
      if limit = 0 ∨ s.lamp.counted < since + limit then .next s
      else .next (settle (endWait s t rd stTIMEOUT (s.word (localOf t.waddr))))
    | .pending tag _ =>
      match s.ops.find? (·.tag == tag) with
      | some p => if p.op.code = 5 then execWatchTimeout p.tag s else .next s
      | none => .next s
    | _ => .next s

/-! ### SPAWN, FENCE and END (R42, R190, R193) -/

/-- STEP_SPAWN: the strand waits until the target cluster takes the spawn. -/
def execStepSpawn (id : BitVec 22) (s : State) : Host.Outcome State Fault Refusal :=
  .next (issueStep s id 0x38 (fun s t w =>
    let c := if w.imm = 15 then homeCluster t.id else w.imm
    s.setStrand { t.next with state := 2, wait := .spawn w.rd c (t.g w.ra) (t.g w.rb) }))

/-- The target cluster takes a spawn, or refuses it (R190). -/
def takeSpawn (s : State) (t : Strand) (rd c : Nat) (pc arg : Word) : State :=
  let refuse := fun (s : State) (bit : Nat) =>
    let s := (s.setBit (Reg.cluStrErr c) bit true).satFld (Reg.cluStrCount c) 63 48 1
    let s := match batchOf s t.batch with
      | some b => s.setBatch { b with refused := b.refused + 1 }
      | none => s
    endWait s t rd stNO_RESOURCE 0xFFFFFFFFFFFFFFFF
  match batchOf s t.batch with
  | none => s
  | some b =>
    if !poolOk s c then refuse s 2
    else
      let regs := [arg, BitVec.ofNat 64 t.sid] ++ List.replicate 14 0
      match spawnStrand s c b pc regs t.cls with
      | none => refuse s 1
      | some r =>
        match strandOf r.1 t.id with
        | some t => endWait r.1 t rd stOK (BitVec.ofNat 64 r.2)
        | none => r.1

/-- STEP_FENCE: the strand waits for its earlier operations. -/
def execStepFence (id : BitVec 22) (s : State) : Host.Outcome State Fault Refusal :=
  .next (issueStep s id 0x36 (fun s t _ => s.setStrand { t.next with state := 2, wait := .fence }))

/-- STEP_END: the drain begins. -/
def execStepEnd (id : BitVec 22) (s : State) : Host.Outcome State Fault Refusal :=
  .next (issueStep s id 0x3B (fun s t w =>
    s.setStrand { t.next with state := 2, wait := .drain ((t.g w.ra).toNat % 65536) }))

/-- Does an operation belong to an existing strand? -/
def Origin.ofStrand (id : Nat) : Origin → Bool
  | .strand i _ => i == id
  | .load i => i == id
  | .store i => i == id
  | .fetch _ o => o.ofStrand id
  | _ => false

/-- Has every operation of the strand completed (R42, R193)? -/
def strandDrained (s : State) (t : Strand) : Bool := s.ops.all (fun p => !p.origin.ofStrand t.id)

/-! ### STRAND_OP_COMPLETE (R172) -/

/-- A load takes its answer (R187, R192). -/
def finishLoad (s : State) (t : Strand) (code rd status : Nat) (data : List Byte) : State :=
  if status ≠ stOK then faultStrand s t 3 (some status)
  else
    let t := { t with pc := t.pc + 4 }
    if code = 0x2A then makeReady s { t with wide := (List.range 8).map (fun i => wordAt data (8 * i)) }
    else if code = 0x2C then makeReady s (setGreg t rd (BitVec.ofNat 64 (hamming (t.wide.flatMap wordBytes) data)))
    else makeReady s (setGreg t rd (BitVec.ofNat 64 (leNat data)))

/-- STRAND_OP_COMPLETE (R172, R187 to R190, R193): what the strand waits for has completed, and it goes on. A JOB whose
read of another node is answered goes on to its wait. -/
def execStrandOpComplete (id : BitVec 22) (s : State) : Host.Outcome State Fault Refusal :=
  match strandOf s id.toNat with
  | none => .next s
  | some t =>
    match t.wait with
    | .load code rd _ _ _ (some (st, data)) => .next (finishLoad s t code rd st data)
    | .load _ _ _ _ false none => .next (sendLoad s t)
    | .job _ _ _ _ (some _) => .next (jobAnswer s t.id)
    | .launch _ _ _ _ (some _) => .next (jobAnswer s t.id)
    | .result st v rd => .next (endWait s t rd st v)
    | .spawn rd c pc arg => .next (takeSpawn s t rd c pc arg)
    | .fence => .next (if strandDrained s t then makeReady s t else s)
    | .drain exit => .next (if strandDrained s t then endStrand s t exit else s)
    | _ => .next s

end Sys2Proof.Machine
end

