-- ==== Sys2Proof/Machine/Tap.lean ====
section
/-! DEFINITION. The TAP instructions that read and write the device: OBSREAD and MEMACC (R474, R479, R493). -/

namespace Sys2Proof.Machine

/-- OBSREAD (R474, R493): a register of the observation block, as the session's level lets it be read. -/
def execObsread (off : Word) (s : State) : Host.Outcome State Fault Refusal :=
  .next (tapAt s 1 (fun s =>
    let o := off.toNat
    if 0x60000 ≤ o ∧ o < 0x70000 ∧ o % 8 = 0 ∧ (findReg o).isSome then
      let r := readReg s o
      tapAnswer r.1 (wordBytes r.2)
    else s))

/-- An access to this node's memory or registers: the answer is the status of R44 and the bytes read (DESIGN CHOICE, log 79). -/
def memAccess (s : State) (acc : TapAccess) : State :=
  match acc with
  | .read a len =>
    let la := localOf a
    if nodeOf a ≠ s.node ∨ len = 0 ∨ crossesRegion la len then tapAnswer s [BitVec.ofNat 8 stLIMIT]
    else
      let r := readAt s la len 3 none
      tapAnswer r.1 (BitVec.ofNat 8 r.2.1 :: (if r.2.1 = stOK then r.2.2.filterMap id else []))
  | .write a data =>
    let la := localOf a
    if nodeOf a ≠ s.node ∨ data = [] ∨ crossesRegion la data.length then tapAnswer s [BitVec.ofNat 8 stLIMIT]
    else
      let w := writeAt s la (data.map some) none
      tapAnswer w.1 [BitVec.ofNat 8 w.2.1]

/-- MEMACC (R474, R479): register and memory access at D3. -/
def execMemacc (acc : TapAccess) (s : State) : Host.Outcome State Fault Refusal :=
  .next (tapAt s 3 (fun s => memAccess s acc))

end Sys2Proof.Machine
end

