-- ==== Sys2Proof/Machine/Dispatch.lean ====
section
/-! DEFINITION. One arm per command of spec/opcode_table.json. -/

namespace Sys2Proof.Machine

/-- The effect of a command on everything but the queue. -/
def exec (i : Instr) (s : State) : Host.Outcome State Fault Refusal :=
  match i with
  | .registerWrite addr len value => Sys2Proof.Machine.execRegisterWrite addr len value s
  | .get h dst src len => Sys2Proof.Machine.execGet h dst src len s
  | .put h dst src len => Sys2Proof.Machine.execPut h dst src len s
  | .putSignal h dst src len signal => Sys2Proof.Machine.execPutSignal h dst src len signal s
  | .atomicAdd h dst operand => Sys2Proof.Machine.execAtomicAdd h dst operand s
  | .atomicSwap h dst operand => Sys2Proof.Machine.execAtomicSwap h dst operand s
  | .atomicCas h dst operand compare => Sys2Proof.Machine.execAtomicCas h dst operand compare s
  | .atomicMax h dst operand => Sys2Proof.Machine.execAtomicMax h dst operand s
  | .atomicMin h dst operand => Sys2Proof.Machine.execAtomicMin h dst operand s
  | .atomicOr h dst operand => Sys2Proof.Machine.execAtomicOr h dst operand s
  | .atomicAnd h dst operand => Sys2Proof.Machine.execAtomicAnd h dst operand s
  | .watch h dst operand edges => Sys2Proof.Machine.execWatch h dst operand edges s
  | .watchTimeout tag => Sys2Proof.Machine.execWatchTimeout tag s
  | .copy h dst src len report => Sys2Proof.Machine.execCopy h dst src len report s
  | .copyComplete tag remote => Sys2Proof.Machine.execCopyComplete tag remote s
  | .fence h => Sys2Proof.Machine.execFence h s
  | .fenceComplete tag => Sys2Proof.Machine.execFenceComplete tag s
  | .lampRun run => Sys2Proof.Machine.execLampRun run s
  | .lampPeriodSet ns => Sys2Proof.Machine.execLampPeriodSet ns s
  | .lampEdge => Sys2Proof.Machine.execLampEdge s
  | .lmpResvWrite value => Sys2Proof.Machine.execLmpResvWrite value s
  | .graphEnable seq => Sys2Proof.Machine.execGraphEnable seq s
  | .graphDisable seq => Sys2Proof.Machine.execGraphDisable seq s
  | .nodeDone seq inst node => Sys2Proof.Machine.execNodeDone seq inst node s
  | .nodeFinish seq inst node => Sys2Proof.Machine.execNodeFinish seq inst node s
  | .programLaunch seq node => Sys2Proof.Machine.execProgramLaunch seq node s
  | .programTake cluster => Sys2Proof.Machine.execProgramTake cluster s
  | .layerStart cluster => Sys2Proof.Machine.execLayerStart cluster s
  | .layerEnd cluster => Sys2Proof.Machine.execLayerEnd cluster s
  | .programCancel cluster => Sys2Proof.Machine.execProgramCancel cluster s
  | .tierEnable => Sys2Proof.Machine.execTierEnable s
  | .create => Sys2Proof.Machine.execCreate s
  | .seal => Sys2Proof.Machine.execSeal s
  | .sealFlushComplete obj => Sys2Proof.Machine.execSealFlushComplete obj s
  | .free => Sys2Proof.Machine.execFree s
  | .freeComplete obj => Sys2Proof.Machine.execFreeComplete obj s
  | .place => Sys2Proof.Machine.execPlace s
  | .drop => Sys2Proof.Machine.execDrop s
  | .unpin => Sys2Proof.Machine.execUnpin s
  | .tileCopyValid obj tile tier cluster => Sys2Proof.Machine.execTileCopyValid obj tile tier cluster s
  | .promoteCopy obj tile => Sys2Proof.Machine.execPromoteCopy obj tile s
  | .quotaWrite dom value => Sys2Proof.Machine.execQuotaWrite dom value s
  | .patrolScrub => Sys2Proof.Machine.execPatrolScrub s
  | .batchLaunch seq node => Sys2Proof.Machine.execBatchLaunch seq node s
  | .strandLoad cluster => Sys2Proof.Machine.execStrandLoad cluster s
  | .strandOpComplete id => Sys2Proof.Machine.execStrandOpComplete id s
  | .parkTimeout id => Sys2Proof.Machine.execParkTimeout id s
  | .strandWaitTimeout id => Sys2Proof.Machine.execStrandWaitTimeout id s
  | .stepAdd id => Sys2Proof.Machine.execStepAdd id s
  | .stepSub id => Sys2Proof.Machine.execStepSub id s
  | .stepAddi id => Sys2Proof.Machine.execStepAddi id s
  | .stepMul id => Sys2Proof.Machine.execStepMul id s
  | .stepAnd id => Sys2Proof.Machine.execStepAnd id s
  | .stepOr id => Sys2Proof.Machine.execStepOr id s
  | .stepXor id => Sys2Proof.Machine.execStepXor id s
  | .stepShli id => Sys2Proof.Machine.execStepShli id s
  | .stepShri id => Sys2Proof.Machine.execStepShri id s
  | .stepSari id => Sys2Proof.Machine.execStepSari id s
  | .stepSlt id => Sys2Proof.Machine.execStepSlt id s
  | .stepSltu id => Sys2Proof.Machine.execStepSltu id s
  | .stepPopc id => Sys2Proof.Machine.execStepPopc id s
  | .stepLdk id => Sys2Proof.Machine.execStepLdk id s
  | .stepBeq id => Sys2Proof.Machine.execStepBeq id s
  | .stepBne id => Sys2Proof.Machine.execStepBne id s
  | .stepBlt id => Sys2Proof.Machine.execStepBlt id s
  | .stepBge id => Sys2Proof.Machine.execStepBge id s
  | .stepJal id => Sys2Proof.Machine.execStepJal id s
  | .stepJr id => Sys2Proof.Machine.execStepJr id s
  | .stepFadd id => Sys2Proof.Machine.execStepFadd id s
  | .stepFsub id => Sys2Proof.Machine.execStepFsub id s
  | .stepFmul id => Sys2Proof.Machine.execStepFmul id s
  | .stepFfma id => Sys2Proof.Machine.execStepFfma id s
  | .stepFdiv id => Sys2Proof.Machine.execStepFdiv id s
  | .stepFsqrt id => Sys2Proof.Machine.execStepFsqrt id s
  | .stepFlt id => Sys2Proof.Machine.execStepFlt id s
  | .stepFcvtif id => Sys2Proof.Machine.execStepFcvtif id s
  | .stepFcvtfi id => Sys2Proof.Machine.execStepFcvtfi id s
  | .stepLd8 id => Sys2Proof.Machine.execStepLd8 id s
  | .stepLd32 id => Sys2Proof.Machine.execStepLd32 id s
  | .stepLd64 id => Sys2Proof.Machine.execStepLd64 id s
  | .stepSt8 id => Sys2Proof.Machine.execStepSt8 id s
  | .stepSt32 id => Sys2Proof.Machine.execStepSt32 id s
  | .stepSt64 id => Sys2Proof.Machine.execStepSt64 id s
  | .stepLdw id => Sys2Proof.Machine.execStepLdw id s
  | .stepStw id => Sys2Proof.Machine.execStepStw id s
  | .stepHamm id => Sys2Proof.Machine.execStepHamm id s
  | .stepWins id => Sys2Proof.Machine.execStepWins id s
  | .stepWext id => Sys2Proof.Machine.execStepWext id s
  | .stepHash id => Sys2Proof.Machine.execStepHash id s
  | .stepGet id => Sys2Proof.Machine.execStepGet id s
  | .stepPut id => Sys2Proof.Machine.execStepPut id s
  | .stepPuts id => Sys2Proof.Machine.execStepPuts id s
  | .stepAtom id => Sys2Proof.Machine.execStepAtom id s
  | .stepWatch id => Sys2Proof.Machine.execStepWatch id s
  | .stepCopy id => Sys2Proof.Machine.execStepCopy id s
  | .stepFence id => Sys2Proof.Machine.execStepFence id s
  | .stepOprec id => Sys2Proof.Machine.execStepOprec id s
  | .stepSpawn id => Sys2Proof.Machine.execStepSpawn id s
  | .stepJob id => Sys2Proof.Machine.execStepJob id s
  | .stepPark id => Sys2Proof.Machine.execStepPark id s
  | .stepEnd id => Sys2Proof.Machine.execStepEnd id s
  | .stepStat id => Sys2Proof.Machine.execStepStat id s
  | .stepTime id => Sys2Proof.Machine.execStepTime id s
  | .brambleEnable => Sys2Proof.Machine.execBrambleEnable s
  | .openIndex index => Sys2Proof.Machine.execOpenIndex index s
  | .closeIndex index => Sys2Proof.Machine.execCloseIndex index s
  | .destroyIndex index => Sys2Proof.Machine.execDestroyIndex index s
  | .updateTake index => Sys2Proof.Machine.execUpdateTake index s
  | .queryBatchLaunch seq node => Sys2Proof.Machine.execQueryBatchLaunch seq node s
  | .search batch query => Sys2Proof.Machine.execSearch batch query s
  | .fetch batch query => Sys2Proof.Machine.execFetch batch query s
  | .queryComplete batch query => Sys2Proof.Machine.execQueryComplete batch query s
  | .shardPart req => Sys2Proof.Machine.execShardPart req s
  | .shardReply batch query node status failed pages passed found items => Sys2Proof.Machine.execShardReply batch query node status failed pages passed found items s
  | .mergeStart index => Sys2Proof.Machine.execMergeStart index s
  | .mergePublish index => Sys2Proof.Machine.execMergePublish index s
  | .channelFailed ch => Sys2Proof.Machine.execChannelFailed ch s
  | .dieFailed ch die => Sys2Proof.Machine.execDieFailed ch die s
  | .programResume ch die => Sys2Proof.Machine.execProgramResume ch die s
  | .visionLaunch l => Sys2Proof.Machine.execVisionLaunch l s
  | .visionRunTake engine => Sys2Proof.Machine.execVisionRunTake engine s
  | .sliceBoundary unit => Sys2Proof.Machine.execSliceBoundary unit s
  | .detect engine => Sys2Proof.Machine.execDetect engine s
  | .matchFeatures engine => Sys2Proof.Machine.execMatchFeatures engine s
  | .stereo engine => Sys2Proof.Machine.execStereo engine s
  | .flow engine => Sys2Proof.Machine.execFlow engine s
  | .slotEnable slot => Sys2Proof.Machine.execSlotEnable slot s
  | .slotDisable slot => Sys2Proof.Machine.execSlotDisable slot s
  | .sourceEnable n => Sys2Proof.Machine.execSourceEnable n s
  | .frameStart n => Sys2Proof.Machine.execFrameStart n s
  | .lineReceived n dt pixels headerOk crcOk => Sys2Proof.Machine.execLineReceived n dt pixels headerOk crcOk s
  | .frameEnd n => Sys2Proof.Machine.execFrameEnd n s
  | .ethernetFrame port bytes fcsOk ptp => Sys2Proof.Machine.execEthernetFrame port bytes fcsOk ptp s
  | .spiDataReady n => Sys2Proof.Machine.execSpiDataReady n s
  | .spiTransferDone n bytes => Sys2Proof.Machine.execSpiTransferDone n bytes s
  | .canFrame c hdr bytes => Sys2Proof.Machine.execCanFrame c hdr bytes s
  | .triggerStart n => Sys2Proof.Machine.execTriggerStart n s
  | .triggerEnd n => Sys2Proof.Machine.execTriggerEnd n s
  | .fusionLaunch seq node => Sys2Proof.Machine.execFusionLaunch seq node s
  | .fusionTake => Sys2Proof.Machine.execFusionTake s
  | .fusionEnd => Sys2Proof.Machine.execFusionEnd s
  | .incWrite value => Sys2Proof.Machine.execIncWrite value s
  | .timeStep d => Sys2Proof.Machine.execTimeStep d s
  | .stepApply => Sys2Proof.Machine.execStepApply s
  | .nowRead => Sys2Proof.Machine.execNowRead s
  | .roleWrite role uplink => Sys2Proof.Machine.execRoleWrite role uplink s
  | .exchangeReceive link pkt => Sys2Proof.Machine.execExchangeReceive link pkt s
  | .exchangeResult t1 t2 t3 t4 => Sys2Proof.Machine.execExchangeResult t1 t2 t3 t4 s
  | .exchangeLoss => Sys2Proof.Machine.execExchangeLoss s
  | .ppsEdge => Sys2Proof.Machine.execPpsEdge s
  | .ppsOutStart => Sys2Proof.Machine.execPpsOutStart s
  | .ppsOutEnd => Sys2Proof.Machine.execPpsOutEnd s
  | .ptpTxStamp port mode => Sys2Proof.Machine.execPtpTxStamp port mode s
  | .solverEnable => Sys2Proof.Machine.execSolverEnable s
  | .solverLaunch l => Sys2Proof.Machine.execSolverLaunch l s
  | .solverRunTake u => Sys2Proof.Machine.execSolverRunTake u s
  | .load u => Sys2Proof.Machine.execLoad u s
  | .dropStructure u => Sys2Proof.Machine.execDropStructure u s
  | .solve u => Sys2Proof.Machine.execSolve u s
  | .bodyFk u => Sys2Proof.Machine.execBodyFk u s
  | .bodyId u => Sys2Proof.Machine.execBodyId u s
  | .bodyFd u => Sys2Proof.Machine.execBodyFd u s
  | .bodyIk u => Sys2Proof.Machine.execBodyIk u s
  | .channelEnable ch => Sys2Proof.Machine.execChannelEnable ch s
  | .filterSample ch input smon code => Sys2Proof.Machine.execFilterSample ch input smon code s
  | .filterDrop ch => Sys2Proof.Machine.execFilterDrop ch s
  | .coefWrite ch index coef => Sys2Proof.Machine.execCoefWrite ch index coef s
  | .coefSetn ch ntapsM1 => Sys2Proof.Machine.execCoefSetn ch ntapsM1 s
  | .swap ch => Sys2Proof.Machine.execSwap ch s
  | .linkEnable l => Sys2Proof.Machine.execLinkEnable l s
  | .linkDisable l => Sys2Proof.Machine.execLinkDisable l s
  | .trainingComplete l peer => Sys2Proof.Machine.execTrainingComplete l peer s
  | .trainingTimeout l laneFailed => Sys2Proof.Machine.execTrainingTimeout l laneFailed s
  | .flitReceive l bytes => Sys2Proof.Machine.execFlitReceive l bytes s
  | .nak l ack => Sys2Proof.Machine.execNak l ack s
  | .replayTimeout l => Sys2Proof.Machine.execReplayTimeout l s
  | .linkSilence l => Sys2Proof.Machine.execLinkSilence l s
  | .packetArrive l vl pkt => Sys2Proof.Machine.execPacketArrive l vl pkt s
  | .holdTimeout dst => Sys2Proof.Machine.execHoldTimeout dst s
  | .altWaitEnd dst => Sys2Proof.Machine.execAltWaitEnd dst s
  | .failureNotice tag status => Sys2Proof.Machine.execFailureNotice tag status s
  | .response tag status aux data => Sys2Proof.Machine.execResponse tag status aux data s
  | .responseTimeout tag => Sys2Proof.Machine.execResponseTimeout tag s
  | .watchConfirm tag => Sys2Proof.Machine.execWatchConfirm tag s
  | .watchConfirmLoss tag => Sys2Proof.Machine.execWatchConfirmLoss tag s
  | .watchCancel node tag => Sys2Proof.Machine.execWatchCancel node tag s
  | .linkRetrain l => Sys2Proof.Machine.execLinkRetrain l s
  | .porN straps => Sys2Proof.Machine.execPorN straps s
  | .warmRstN => Sys2Proof.Machine.execWarmRstN s
  | .perstN asserted => Sys2Proof.Machine.execPerstN asserted s
  | .flr => Sys2Proof.Machine.execFlr s
  | .pllLock ack => Sys2Proof.Machine.execPllLock ack s
  | .bootImageCheck => Sys2Proof.Machine.execBootImageCheck s
  | .firmwareLoaded => Sys2Proof.Machine.execFirmwareLoaded s
  | .dramTrained => Sys2Proof.Machine.execDramTrained s
  | .dramTrainTimeout => Sys2Proof.Machine.execDramTrainTimeout s
  | .configApply => Sys2Proof.Machine.execConfigApply s
  | .recoverGo => Sys2Proof.Machine.execRecoverGo s
  | .pcieCrsEnd => Sys2Proof.Machine.execPcieCrsEnd s
  | .hostRead bar off len => Sys2Proof.Machine.execHostRead bar off len s
  | .hostWrite bar off data => Sys2Proof.Machine.execHostWrite bar off data s
  | .hostAtomicop bar off op operand compare => Sys2Proof.Machine.execHostAtomicop bar off op operand compare s
  | .hstSignal value => Sys2Proof.Machine.execHstSignal value s
  | .d3hotEntry => Sys2Proof.Machine.execD3hotEntry s
  | .serviceRecord => Sys2Proof.Machine.execServiceRecord s
  | .checkComplete id fault => Sys2Proof.Machine.execCheckComplete id fault s
  | .checkLapse id => Sys2Proof.Machine.execCheckLapse id s
  | .arbitrationComplete id faults => Sys2Proof.Machine.execArbitrationComplete id faults s
  | .idleTest unit => Sys2Proof.Machine.execIdleTest unit s
  | .testComplete unit crc ok => Sys2Proof.Machine.execTestComplete unit crc ok s
  | .tcLoad value => Sys2Proof.Machine.execTcLoad value s
  | .unitReset unit => Sys2Proof.Machine.execUnitReset unit s
  | .unitFence unit => Sys2Proof.Machine.execUnitFence unit s
  | .unitUnfence unit => Sys2Proof.Machine.execUnitUnfence unit s
  | .fenceEffect unit => Sys2Proof.Machine.execFenceEffect unit s
  | .debugToken value => Sys2Proof.Machine.execDebugToken value s
  | .addOwner value => Sys2Proof.Machine.execAddOwner value s
  | .revokeOwner value => Sys2Proof.Machine.execRevokeOwner value s
  | .takeOwnership value => Sys2Proof.Machine.execTakeOwnership value s
  | .retire value => Sys2Proof.Machine.execRetire value s
  | .advanceSvn value => Sys2Proof.Machine.execAdvanceSvn value s
  | .debugWrite value => Sys2Proof.Machine.execDebugWrite value s
  | .debugSessionEnd => Sys2Proof.Machine.execDebugSessionEnd s
  | .idcode => Sys2Proof.Machine.execIdcode s
  | .bypass => Sys2Proof.Machine.execBypass s
  | .secaccess rec => Sys2Proof.Machine.execSecaccess rec s
  | .obsread off => Sys2Proof.Machine.execObsread off s
  | .extest => Sys2Proof.Machine.execExtest s
  | .samplePreload => Sys2Proof.Machine.execSamplePreload s
  | .memacc acc => Sys2Proof.Machine.execMemacc acc s
  | .khalt keeper act => Sys2Proof.Machine.execKhalt keeper act s
  | .secAttest value => Sys2Proof.Machine.execSecAttest value s
  | .remoteRegisterWrite node addr len value => Sys2Proof.Machine.execRemoteRegisterWrite node addr len value s
  | .powerTarget value => Sys2Proof.Machine.execPowerTarget value s
  | .p0ToP1 => Sys2Proof.Machine.execP0ToP1 s
  | .p1ToP0 => Sys2Proof.Machine.execP1ToP0 s
  | .p1ToP2 => Sys2Proof.Machine.execP1ToP2 s
  | .p2ToP1 => Sys2Proof.Machine.execP2ToP1 s
  | .p2ToP3 => Sys2Proof.Machine.execP2ToP3 s
  | .wakeEvent cause => Sys2Proof.Machine.execWakeEvent cause s
  | .aonLoss => Sys2Proof.Machine.execAonLoss s
  | .powerWindow demands base => Sys2Proof.Machine.execPowerWindow demands base s
  | .dvfsPoint value ack => Sys2Proof.Machine.execDvfsPoint value ack s
  | .dvfsClockRaise => Sys2Proof.Machine.execDvfsClockRaise s
  | .droop => Sys2Proof.Machine.execDroop s
  | .vrAlert => Sys2Proof.Machine.execVrAlert s
  | .brownoutDrain => Sys2Proof.Machine.execBrownoutDrain s
  | .brownoutEnd => Sys2Proof.Machine.execBrownoutEnd s
  | .thermtrip => Sys2Proof.Machine.execThermtrip s
  | .tempUpdate readings => Sys2Proof.Machine.execTempUpdate readings s
  | .traceDrain n => Sys2Proof.Machine.execTraceDrain n s
  | .freeze cause => Sys2Proof.Machine.execFreeze cause s
  | .fire => Sys2Proof.Machine.execFire s
  | .thaw => Sys2Proof.Machine.execThaw s
  | .mark value => Sys2Proof.Machine.execMark value s
  | .traceEnable n => Sys2Proof.Machine.execTraceEnable n s
  | .intPendClear k mask coincident => Sys2Proof.Machine.execIntPendClear k mask coincident s
  | .intEnableWrite k value => Sys2Proof.Machine.execIntEnableWrite k value s
  | .buoyWatchArm b auto => Sys2Proof.Machine.execBuoyWatchArm b auto s
  | .asyncLatch bit => Sys2Proof.Machine.execAsyncLatch bit s
  | .hostCompletion tag ok data => Sys2Proof.Machine.execHostCompletion tag ok data s
  | .pcieLinkDown => Sys2Proof.Machine.execPcieLinkDown s
  | .pcieLinkUp speed width => Sys2Proof.Machine.execPcieLinkUp speed width s
  | .configurationWrite w => Sys2Proof.Machine.execConfigurationWrite w s
  | .queryAbort batch query => Sys2Proof.Machine.execQueryAbort batch query s
  | .deviceMinute => Sys2Proof.Machine.execDeviceMinute s

end Sys2Proof.Machine
end

