-- ==== Sys2Proof/Safety.lean ====
section
/-! DEFINITION. What counts as a safe run: the form every state of the block has, and what no command undoes; and
the conditions and states that the statements about operations name. -/

namespace Sys2Proof.Machine

/-- Memory in its canonical form: addresses strictly rising, no entry equal to what its address reads as unlisted. -/
def Memory.wf (fills : List Fill) (mem : List Host.Cell) : Bool := kvWf (memDefault fills) mem

/-- Memory, the register file and the configuration memory are in canonical form. -/
structure State.Canon (s : State) : Prop where
  mem  : Memory.wf s.fills s.mem = true
  regs : kvWf regReset s.regs = true
  xspi : kvWf (fun _ => (0xFF : Byte)) s.boot.xspi = true

/-- The block has the units the spec gives it: 8 links (R379), 16 sequencers (R58), 8 clusters (R4), 8 vision engines and
16 slots (R255, R256), two solver units and 8 slots (R335), 44 sources and 8 trigger pins (R293), 64 filter channels
(R363), 12 trace buffers (R486) and 4 owner slots (R464). -/
structure State.Shape (s : State) : Prop where
  links   : s.fab.links.length = 8
  seqs    : s.seqs.length = 16
  clus    : s.clus.length = 8
  engines : s.vis.engines.length = 8
  vslots  : s.vis.slots.length = 16
  units   : s.slv.units.length = 2
  sslots  : s.slv.slots.length = 8
  sources : s.sns.sources.length = 44
  trigs   : s.sns.trigs.length = 8
  chans   : s.flt.length = 64
  bufs    : s.obs.bufs.length = 12
  owners  : s.fuses.owners.length = 4

/-- Fuses hold a legal lifecycle and legal versions (R464, R468, R471): MANUFACTURE, DEPLOYED or RETIRED, never ahead of
the one that is pending, and at most the 64 bits of a version counter. -/
structure Fuses.Legal (f : Fuses) : Prop where
  lifecycle : f.lifecycle ≤ f.pending
  pending   : f.pending ≤ 2
  svnImage  : f.svnImage ≤ 64
  svnFw     : f.svnFw ≤ 64

/-- What every state of the block satisfies. -/
structure State.Inv (s : State) : Prop where
  canon : s.Canon
  shape : s.Shape
  fuses : s.fuses.Legal

/-- An owner slot only ever goes from empty to valid, and from there to revoked; a valid slot's hash stands (R464,
R473). -/
structure OwnerSlot.Rises (a b : OwnerSlot) : Prop where
  valid   : a.valid = true → b.valid = true
  revoked : a.revoked = true → b.revoked = true
  hash    : a.valid = true → b.hash = a.hash

/-- Fuses and OTP gain bits and lose none (R464, R468, R471). -/
structure Fuses.Rises (a b : Fuses) : Prop where
  pending   : a.pending ≤ b.pending
  lifecycle : a.lifecycle ≤ b.lifecycle
  svnImage  : a.svnImage ≤ b.svnImage
  svnFw     : a.svnFw ≤ b.svnFw
  owners    : ∀ (k : Nat) (x : OwnerSlot), a.owners[k]? = some x → ∃ y : OwnerSlot, b.owners[k]? = some y ∧ OwnerSlot.Rises x y
  deviceId  : b.deviceId = a.deviceId
  dkeyHash  : b.dkeyHash = a.dkeyHash
  endorse   : b.endorse = a.endorse
  machine   : b.machine = a.machine
  cal       : b.dolnexCal = a.dolnexCal

/-- What a command keeps of a state: the invariant, the queue of waiting commands, the fuses' one way in every state that
satisfies the invariant, and a
counter of free values that never comes back to a value it has had. -/
structure State.Keeps (s t : State) : Prop where
  inv     : s.Inv → t.Inv
  pending : t.pending = s.pending
  fuses   : s.Inv → Fuses.Rises s.fuses t.fuses
  freeCtr : s.freeCtr ≤ t.freeCtr

/-- The registers that raising an interrupt source or recording an event writes: INT_PEND, HST_MSIX_PBA and the OBS
block (R429, R485 to R492, R498). -/
def sigReg (off : Nat) : Bool :=
  (decide (0x20000 ≤ off) && decide (off < 0x20020)) || off == Reg.hstMsixPba
    || (decide (0x60000 ≤ off) && decide (off < 0x70000))

/-- `t` is `s` but for what the delivery of interrupts and the recording of events leave behind: pending bits and MSI-X
messages, signalled keepers, trace buffers, last-event rings and a freeze, and the free values these take. Memory, every
unit, and every register outside INT_PEND, HST_MSIX_PBA and the OBS block are the same. -/
structure State.Signals (s t : State) : Prop where
  mem : t.mem = s.mem
  fills : t.fills = s.fills
  ops : t.ops = s.ops
  nextTag : t.nextTag = s.nextTag
  completions : t.completions = s.completions
  fab : t.fab = s.fab
  tier : t.tier = s.tier
  ep : t.ep = { s.ep with msix := t.ep.msix, sent := t.ep.sent }
  lamp : t.lamp = s.lamp
  seqs : t.seqs = s.seqs
  str : t.str = s.str
  clus : t.clus = s.clus
  ftab : t.ftab = s.ftab
  bram : t.bram = s.bram
  vis : t.vis = s.vis
  slv : t.slv = s.slv
  sns : t.sns = s.sns
  fus : t.fus = s.fus
  svc : t.svc = s.svc
  flt : t.flt = s.flt
  tim : t.tim = s.tim
  boot : t.boot = s.boot
  integ : t.integ = s.integ
  power : t.power = s.power
  fuses : t.fuses = s.fuses
  sec : t.sec = s.sec
  pending : t.pending = s.pending
  freeCtr : s.freeCtr ≤ t.freeCtr
  regs : kvWf regReset s.regs = true →
    kvWf regReset t.regs = true ∧ ∀ off, sigReg off = false → t.reg off = s.reg off

/-- Nothing in the block waits on memory: no WATCH is pending, no strand waits on a buoy, no buoy-watch source is armed. -/
structure State.Quiet (s : State) : Prop where
  ops     : ∀ p ∈ s.ops, ∀ e, p.phase ≠ .watch e
  strands : ∀ t ∈ s.str.all, ∀ r l e, t.wait ≠ .buoy r l e
  sources : armedWatches s = []

/-- No operation of the source in flight is a FENCE, waits behind one, is the read of a record, or waits for the host
(R40, R42, R546). -/
def State.unfenced (s : State) (src : Source) : Prop :=
  ∀ q ∈ s.ops, q.op.source = src →
    q.phase ≠ .fence ∧ q.phase ≠ .queued ∧ q.origin.fetches = false ∧ q.phase ≠ .hostWait

/-- There is no DONE buoy, or it is one of this node that can be incremented (R31, R33). -/
def State.doneOk (s : State) (a : Word) : Prop := a = 0 ∨ (nodeOf a = s.node ∧ buoyCheck s (localOf a) = stOK)

/-- An issuer receives a completion (R33). -/
def State.completed (s : State) (src : Source) (code status : Nat) (result : Word) : State :=
  { s with completions := ⟨src, code, status, result⟩ :: s.completions }

/-- A tensor program as a cluster takes it, before its first layer (R162). -/
def freshProg (run : Run) (start : Nat) (raws : List (List Byte)) (old : Snap) : Prog :=
  { run, start, raws, layer := 0, inLayer := false, waits := none, polled := none, old, stalls := 0, stalled := false
    held := [], done := 0, checks := [] }

/-- Strand `id` is READY in a context of a cluster that runs, its processor picks it, and the step at its PC is read as `w`,
a legal one; `t` is the strand as it issues the step, and `u` the state with the read and the issue counted (R172, R173,
R184, R191). -/
def State.Steps (s : State) (id : BitVec 22) (t : Strand) (u : State) (w : StepWord) : Prop :=
  ∃ (r : Strand) (v : State), strandOf s id.toNat = some r ∧ mayIssue s r = true ∧ fetchStep s r = (v, .ok w) ∧
    stepIllegal w = false ∧ t = issuing s r w.op ∧ u = issued v t

/-- A command's outcome is a next state that keeps what `Keeps` says. -/
def OutKeeps (s : State) : Host.Outcome State Fault Refusal → Prop
  | .next t => State.Keeps s t
  | _ => False

end Sys2Proof.Machine
end

