-- ==== Sys2Proof/Certificates/Slice0/Obligations.lean ====
section
/-! DEFINITION. The statements about the block that are to be proved, family by family. Each docstring names the rules
of the specification its statement formalises or rests on, and the log entries of the choices it uses. -/

open Sys2Proof Sys2Proof.Machine


/-- For every command c and state s, step on s with c put at the front of its queue is exec c on s with the queue that was
there. On an empty queue step answers a next state with an empty queue, and with no operation waiting to go on, that
state is s while the time clock does not run, and s with the time counter one tick on while it runs, no step is
pending and no Lamp edge falls due; media errors may arise (log 187) and the free-value counter moves. That an empty
queue idles so is the model's choice (log 2). Rests on R52, R316. -/
def Obligations.StepRunsTheFrontCommand : Prop :=
  (∀ (c : Instr) (s : State), step { s with pending := c :: s.pending } = exec c s) ∧
  (∀ s : State, s.pending = [] → ∃ t, step s = .next t ∧ t.pending = [] ∧
      ((∀ p ∈ s.ops, p.phase ≠ .queued) →
        (s.tim.running = false →
          t = { s with tier := { s.tier with media := t.tier.media }, freeCtr := t.freeCtr }) ∧
        (s.tim.running = true → s.tim.step = none → edgeDue (tickTime s) = false →
          let c := timeAfter s.tim.n s.tim.f (s.fld Reg.timInc 39 0) 1
          t = { s with
            tim := { s.tim with n := c.1, f := c.2, ticks := s.tim.ticks + 1 }
            tier := { s.tier with media := t.tier.media }, freeCtr := t.freeCtr })))

/-- State.reset meets State.Inv: memory, registers and configuration memory in canonical form, the units of every kind in
their number, and a legal lifecycle and legal versions in the fuses. Two of its parts are the model's own form of
plain data (log 1). Rests on R8, R464. -/
def Obligations.ResetHoldsTheInvariant : Prop :=
  State.reset.Inv

/-- After reset no command waits and no operation is in flight; memory lists nothing; N and F are 0 and TIM_INC is
0x08_0000_0000; SYNC is 0; GCTL_BOOT.PHASE is RESET; LMP_EDGE is 0; the device is in P0; FAB_NODE.NODE is 0. Rests on
R8, R319, R397, R400. -/
def Obligations.ResetLeavesTheSpecValues : Prop :=
  let s := State.reset
  s.pending = [] ∧ s.ops = [] ∧ s.mem = [] ∧ s.tim.n = 0 ∧ s.tim.f = 0 ∧
  s.fld Reg.timInc 39 0 = 0x800000000 ∧ s.bit Reg.timStatus 0 = false ∧ s.fld Reg.gctlBoot 3 0 = 0 ∧
  s.reg Reg.lmpEdge = 0 ∧ pState s = 0 ∧ s.fld Reg.fabNode 9 0 = 0

/-- For every state s that meets State.Inv, if step answers next t then t meets it: memory, registers and configuration
memory stay in canonical form (addresses strictly rising, no entry equal to what it reads as unlisted: log 1), the
units of every kind keep their number, and the lifecycle and the versions in the fuses stay legal. Rests on R4, R6,
R20, R464. -/
def Obligations.StepKeepsTheInvariant : Prop :=
  ∀ s t : State, s.Inv → step s = .next t → t.Inv

/-- For every state s that meets State.Inv, if step answers next t then every fuse of t is at or above that of s: owner
slots stay valid and revoked once they are, the lifecycle and the pending lifecycle never go back, and neither SVN
minimum falls. Rests on R464, R468, R471. -/
def Obligations.FusesOnlyRise : Prop :=
  ∀ s t : State, s.Inv → step s = .next t → Fuses.Rises s.fuses t.fuses

/-- For every command c and every state s, exec c s answers a next state t (no command faults or is refused), t has the
queue of s, and the counter that numbers the free values (the model's own field, log 7) never falls. Rests on R13. -/
def Obligations.EveryCommandAnswers : Prop :=
  ∀ (c : Instr) (s : State), ∃ t, exec c s = .next t ∧ t.pending = s.pending ∧ s.freeCtr ≤ t.freeCtr

/-- An increment for OK adds 1 to bits 47:0, wrapping at 2^48, and leaves bits 63:48; an increment for any other status
adds 1 to bits 63:48, which stop at 0xFFFF, and leaves bits 47:0. Rests on R31, R32. -/
def Obligations.BuoyIncrementsGoFieldByField : Prop :=
  ∀ w : Word,
    (bitsOf (buoyWord w true) 47 0 = (bitsOf w 47 0 + 1) % 2 ^ 48 ∧ bitsOf (buoyWord w true) 63 48 = bitsOf w 63 48) ∧
    (bitsOf (buoyWord w false) 63 48 = min (bitsOf w 63 48 + 1) 0xFFFF ∧
      bitsOf (buoyWord w false) 47 0 = bitsOf w 47 0)

/-- For a WATCH on a buoy of this node that the memory gives, not behind a FENCE: when F is not 0 and the failure count is
at least F it completes with WATCH_FAILED and the buoy's word; else when (success count - target) mod 2^48 is below
2^47 it completes with OK and the word; else, with fewer than 262,144 pending, it issues no completion. RESULT, the
DONE buoy and the frame are part of the next state. Formalises R35. -/
def Obligations.WatchConditionFollowsItsOperand : Prop :=
  ∀ (s : State) (h : OpHead) (dst x w : Word) (edges : Nat),
    let s1 := { s with nextTag := s.nextTag + 1 }
    let r := readBytes s1 (localOf dst) 8 h.cls.toNat (sourceCluster h.source)
    let failed := bitsOf x 63 48 ≠ 0 ∧ bitsOf x 63 48 ≤ bitsOf w 63 48
    let reached := (bitsOf w 47 0 + 2 ^ 48 - bitsOf x 47 0) % 2 ^ 48 < 2 ^ 47
    let done := fun (st : Nat) => (Host.Outcome.next (bumpTo (r.1.completed h.source 5 st w) h.done (st == stOK) h.cls.toNat) :
      Host.Outcome State Fault Refusal)
    s.unfenced h.source → nodeOf dst = s.node → buoyCheck s1 (localOf dst) = stOK → r.2 = (wordBytes w).map some →
      (r.1.Quiet → r.1.doneOk h.done → failed → exec (.watch h dst x edges) s = done stWATCH_FAILED) ∧
      (r.1.Quiet → r.1.doneOk h.done → ¬ failed → reached → exec (.watch h dst x edges) s = done stOK) ∧
      (¬ failed → ¬ reached → watchCount r.1 < 262144 → ∃ t, exec (.watch h dst x edges) s = .next t ∧
        t.completions = r.1.completions ∧ ∃ p ∈ t.ops, p.tag = s.nextTag ∧ p.phase = .watch r.1.lamp.counted)

/-- A GET from the register space whose length is not 4 or 8, or whose address is not aligned to it, completes with
ALIGNMENT; one that passes and names no register, or that runs beyond the 4 GiB of the space, completes with UNMAPPED.
A PUT beyond the space completes with UNMAPPED; of another length than 8 with ACCESS; of 8 bytes, misaligned, with
ALIGNMENT; aligned where no register stands, with UNMAPPED; in these cases no register changes; else the register is
written. A write from another node takes effect, and completes with OK, when the observation block is not written and
the lifecycle, a D3 session or SEC_REMOTE permits it; otherwise it completes with ACCESS, changes nothing and sets
SEC_ERR bit 2 (source 197). Formalises R22. -/
def Obligations.RegisterSpaceChecks : Prop :=
  ∀ (s : State) (h : OpHead) (reg buf : Word) (bs : List Byte) (len : Nat) (node : BitVec 10) (v : Word),
    let s1 := { s with nextTag := s.nextTag + 1 }
    let la := localOf reg
    let off := regOff la
    nodeOf reg = s.node → regionOf la = 63 →
    (s.unfenced h.source → nodeOf buf = s.node → s1.Quiet → s1.doneOk h.done → 0 < len → len ≤ 4096 →
      crossesRegion la len = false → crossesRegion (localOf buf) len = false →
        (la + len ≤ regBase + 2 ^ 32 → ¬ ((len = 4 ∨ len = 8) ∧ la % len = 0) →
          exec (.get h reg buf len) s = .next (bumpTo (s1.completed h.source 1 stALIGNMENT 0) h.done false h.cls.toNat)) ∧
        (regBase + 2 ^ 32 < la + len ∨ ((len = 4 ∨ len = 8) ∧ la % len = 0 ∧ findReg (off / 8 * 8) = none) →
          exec (.get h reg buf len) s = .next (bumpTo (s1.completed h.source 1 stUNMAPPED 0) h.done false h.cls.toNat))) ∧
    (let r := readBytes s1 (localOf buf) bs.length h.cls.toNat (sourceCluster h.source)
     let st := if regBase + 2 ^ 32 < la + bs.length then stUNMAPPED else if bs.length ≠ 8 then stACCESS else if la % 8 ≠ 0 then stALIGNMENT
       else if findReg off = none then stUNMAPPED else stOK
     let w := if st = stOK then writeReg r.1 off (wordAt bs 0) else s1
     s.unfenced h.source → nodeOf buf = s.node → regionOf (localOf buf) < 4 → 0 < bs.length → bs.length ≤ 4096 →
     crossesRegion la bs.length = false → crossesRegion (localOf buf) bs.length = false →
     placeCheck s1 (localOf buf) bs.length .read none = stOK → r.2 = bs.map some → w.Quiet → w.doneOk h.done →
       exec (.put h reg buf bs.length) s = .next (bumpTo (w.completed h.source 2 st
         (if st = stOK then 8 else 0)) h.done (st == stOK) h.cls.toNat)) ∧
    (node.toNat ≠ s.node → la % 8 = 0 → findReg off ≠ none →
      exec (.remoteRegisterWrite node reg 8 v) s =
        if ¬ (0x50000 ≤ off ∧ off < 0x60000) ∧ (s.fld Reg.secStat 1 0 = 0 ∨ s.fld Reg.secDebug 1 0 = 3
            ∨ (s.bit Reg.secRemote 0 = true ∧ s.fld Reg.secRemote 25 16 = node.toNat))
        then .next ((writeReg s off v).completed (.remote node) 2 stOK 8)
        else .next ((sticky s Reg.secErr 2 (some 197)).completed (.remote node) 2 stACCESS 0))

/-- REGISTER_WRITE to this node writes the register and completes with OK when it is 8 bytes long, aligned and names a
register; else it changes nothing and completes with UNMAPPED beyond the 4 GiB of the space, ACCESS for another
length, ALIGNMENT, or UNMAPPED where no register stands. The source its completion names is the model's choice (log
171). For the registers of the list, which have no other effect, no other register and no other state changes; in the
register an RW bit takes the written value, a W1C bit is cleared by a written 1, and every other bit keeps its value.
Rests on R4, R5, R6, R7, R21, R475. -/
def Obligations.RegisterWritesReachTheirFields : Prop :=
  (∀ (s : State) (addr v : Word) (len : Nat),
      let la := localOf addr
      nodeOf addr = s.node → regionOf la = 63 →
        exec (.registerWrite addr len v) s =
          if regBase + 2 ^ 32 < la + len then .next (s.completed (.engine 0xFF) 2 stUNMAPPED 0)
          else if len ≠ 8 then .next (s.completed (.engine 0xFF) 2 stACCESS 0)
          else if la % 8 ≠ 0 then .next (s.completed (.engine 0xFF) 2 stALIGNMENT 0)
          else if findReg (regOff la) = none then .next (s.completed (.engine 0xFF) 2 stUNMAPPED 0)
          else .next ((writeReg s (regOff la) v).completed (.engine 0xFF) 2 stOK 8)) ∧
  (∀ (s : State) (off : Nat) (d : RegDesc) (v : Word), s.Inv →
      off ∈ [Reg.lmpSeqErr 0, Reg.lmpSeqErr 15, Reg.intErr, Reg.timErr, Reg.pwrErr, Reg.secErr, Reg.obsErr, Reg.chkErr,
        Reg.tirErr, Reg.fabLinkErr 0, Reg.fabLinkErr 7, Reg.hstErr, Reg.hstWinBase, Reg.snsErr, Reg.fusErr, Reg.visErr,
        Reg.fltErr, Reg.slvErr, Reg.cluErr 0, Reg.cluErr 7, Reg.cluStrErr 3, Reg.brmErr 0, Reg.brmErr 15, Reg.brcErr,
        Reg.secRemote] →
      findReg off = some d →
      ∃ t, exec (.registerWrite (s.global (regBase + off)) 8 v) s = .next t ∧ 
        t = { s.completed (.engine 0xFF) 2 stOK 8 with regs := t.regs } ∧
        (∀ o, o ≠ off → t.reg o = s.reg o) ∧
        ∀ i, i < 64 → bitOf (t.reg off) i =
          if bitOf (maskOf d .rw) i then bitOf v i
          else if bitOf (maskOf d .w1c) i then bitOf (s.reg off) i && !bitOf v i
          else bitOf (s.reg off) i)

/-- For a word in T1 or T2 of this node that an ATOMIC may address, each of ADD, SWAP, CAS, MAX, MIN, OR and AND writes
exactly the 8 bytes of the new value the operation table gives, completes with OK and RESULT the old value, and
increments its DONE buoy once with a success. MAX and MIN compare unsigned. Nothing else changes but the counters of
the memory ports. Rests on R25, R27, R32, R33. -/
def Obligations.AtomicsReturnTheOldValue : Prop :=
  ∀ (s : State) (h : OpHead) (dst x c old : Word),
    let la := localOf dst
    let s1 := { s with nextTag := s.nextTag + 1 }
    let r := readBytes s1 la 8 h.cls.toNat (sourceCluster h.source)
    let w := fun (v : Word) => writeBytes r.1 la (wordBytes v)
    let t := fun (v : Word) => (Host.Outcome.next (bumpTo ((w v).completed h.source 4 stOK old) h.done true h.cls.toNat) :
      Host.Outcome State Fault Refusal)
    s.unfenced h.source → nodeOf dst = s.node → regionOf la < 3 → crossesRegion la 8 = false →
    placeCheck s1 la 8 .atomic none = stOK → r.2 = (wordBytes old).map some →
    (∀ v, (w v).Quiet ∧ (w v).doneOk h.done) →
      exec (.atomicAdd h dst x) s = t (old + x) ∧
      exec (.atomicSwap h dst x) s = t x ∧
      exec (.atomicCas h dst x c) s = t (if old = c then x else old) ∧
      exec (.atomicMax h dst x) s = t (if old.toNat < x.toNat then x else old) ∧
      exec (.atomicMin h dst x) s = t (if x.toNat < old.toNat then x else old) ∧
      exec (.atomicOr h dst x) s = t (old ||| x) ∧
      exec (.atomicAnd h dst x) s = t (old &&& x)

/-- With no memory error pending, a read of the DRAM or SRAM direct region gives the stored bytes and changes only the
counter of its port (none for a tile's own memory); a write stores its bytes, counts on its port, and every byte
outside them reads as before. Rests on R3, R16, R19, R492. -/
def Obligations.DirectMemoryKeepsItsBytes : Prop :=
  ∀ (s : State) (la len cls : Nat) (cl : Option Nat) (bs : List Byte),
    s.Inv → (regionOf la = 1 ∨ regionOf la = 2) → s.tier.media = [] →
    let tile := regionOf la = 2 ∧ (la - sramBase) % cluStride < 0xC00000
    let port := fun (k n : Nat) => if tile then s else countTier s (if regionOf la = 1 then k + 2 else k) n
    readBytes s la len cls cl = (port 0 len, (s.load la len).map some) ∧
    writeBytes s la bs = (port 1 bs.length).store la bs ∧
    ∀ a, (writeBytes s la bs).byteAt a =
      if la ≤ a ∧ a < la + bs.length then bs.getD (a - la) 0 else s.byteAt a

/-- With both ends on this node and every check passed (of the target after the source has been read too), GET writes the
bytes at DST to SRC, PUT the bytes at SRC to DST, and PUT_SIGNAL does what PUT does and then adds one success to the
SIGNAL buoy; each completes with OK and RESULT the length, and increments its DONE buoy once. Rests on R23, R24, R33,
R34. -/
def Obligations.GetAndPutMoveBytes : Prop :=
  ∀ (s : State) (h : OpHead) (dst src sig : Word) (bs : List Byte),
    let s1 := { s with nextTag := s.nextTag + 1 }
    let len := bs.length
    let ok := (fun (code : Nat) (w : State) => (Host.Outcome.next
      (bumpTo (w.completed h.source code stOK (BitVec.ofNat 64 len)) h.done true h.cls.toNat) : Host.Outcome State Fault Refusal))
    let cl := sourceCluster h.source
    s.unfenced h.source → nodeOf dst = s.node → nodeOf src = s.node → 0 < len → len ≤ 4096 →
    crossesRegion (localOf dst) len = false → crossesRegion (localOf src) len = false →
    (let r := readBytes s1 (localOf dst) len h.cls.toNat cl
     let w := writeBytes r.1 (localOf src) bs
     regionOf (localOf dst) < 4 → placeCheck s1 (localOf dst) len .read none = stOK → r.2 = bs.map some →
     regionOf (localOf src) < 3 → placeCheck s1 (localOf src) len .write none = stOK →
     placeCheck r.1 (localOf src) len .write none = stOK → w.Quiet → w.doneOk h.done →
       exec (.get h dst src len) s = ok 1 w) ∧
    (let r := readBytes s1 (localOf src) len h.cls.toNat cl
     let w := writeBytes r.1 (localOf dst) bs
     let b := bump w sig true h.cls.toNat
     regionOf (localOf dst) < 3 → placeCheck s1 (localOf dst) len .write none = stOK → r.2 = bs.map some →
     regionOf (localOf src) < 4 → placeCheck s1 (localOf src) len .read none = stOK →
     placeCheck r.1 (localOf dst) len .write none = stOK → w.Quiet →
       (w.doneOk h.done → exec (.put h dst src len) s = ok 2 w) ∧
       (nodeOf sig = s.node → b.2 = stOK → b.1.Quiet → b.1.doneOk h.done →
         exec (.putSignal h dst src len sig) s = ok 3 b.1))

/-- A WATCH on a buoy that the memory gives whose condition has an outcome on arrival completes with it and the buoy's
word; else it stays pending with the Lamp edges counted so far, or completes with NO_RESOURCE when 262,144 are
pending. WATCH_TIMEOUT changes nothing before LENGTH further edges have been counted; from then on it completes the
WATCH with TIMEOUT and the buoy's word. The edge count is the model's field for the edges R37 counts. Rests on R33,
R35, R36, R37, R38. -/
def Obligations.WatchesWaitUntilTheirTimeout : Prop :=
  (∀ (s : State) (h : OpHead) (dst x w : Word) (edges : Nat),
      let la := localOf dst
      let s1 := { s with nextTag := s.nextTag + 1 }
      let r := readBytes s1 la 8 h.cls.toNat (sourceCluster h.source)
      let op := opOf h 5 0 dst 0 edges x 0 0
      s.unfenced h.source → nodeOf dst = s.node → buoyCheck s1 la = stOK → r.2 = (wordBytes w).map some →
      (∀ st, watchCond w x = some st → r.1.Quiet → r.1.doneOk h.done →
        exec (.watch h dst x edges) s = .next (bumpTo (r.1.completed h.source 5 st w) h.done (st == stOK) h.cls.toNat)) ∧
      (watchCond w x = none → watchCount r.1 < 262144 → exec (.watch h dst x edges) s =
        .next { r.1 with ops := r.1.ops ++ [⟨s.nextTag, op, .plain, .watch r.1.lamp.counted, []⟩] }) ∧
      (watchCond w x = none → 262144 ≤ watchCount r.1 →
        exec (.watch h dst x edges) s = .next (complete r.1 .plain op stNO_RESOURCE w []))) ∧
  (∀ (s : State) (tag since : Nat) (p : PendingOp),
      s.ops.find? (·.tag == tag) = some p → p.phase = .watch since → p.origin = .plain → p.op.len ≠ 0 →
      (s.lamp.counted < since + p.op.len → exec (.watchTimeout tag) s = .next s) ∧
      (since + p.op.len ≤ s.lamp.counted → (s.dropOp p.tag).Quiet → s.doneOk p.op.done →
        exec (.watchTimeout tag) s = .next (release (bumpTo ((s.dropOp p.tag).completed p.op.source p.op.code stTIMEOUT
          (s.word (localOf p.op.dst))) p.op.done false p.op.cls))))

/-- A FENCE of a source with nothing in flight completes at once with OK; else it waits. FENCE_COMPLETE changes nothing
while an earlier operation of the source is in flight, or has only the increment of a DONE buoy on another node
outstanding, and completes the FENCE with OK once none is. While a FENCE of its source waits, each of the operations
GET, PUT, PUT_SIGNAL, the seven ATOMICs, WATCH, COPY and FENCE is only queued behind it, unissued. Formalises R42. -/
def Obligations.FencesOrderTheirSource : Prop :=
  (∀ (s : State) (h : OpHead),
      let s1 := { s with nextTag := s.nextTag + 1 }
      ((∀ q ∈ s.ops, q.op.source ≠ h.source) → s1.Quiet → s1.doneOk h.done →
        exec (.fence h) s = .next (bumpTo (s1.completed h.source 7 stOK 0) h.done true h.cls.toNat)) ∧
      ((∃ q ∈ s.ops, q.op.source = h.source ∧ (q.tag < s.nextTag ∨ q.phase.isClosing = true)) → s.unfenced h.source →
        exec (.fence h) s = .next { s1 with ops := s.ops ++ [⟨s.nextTag, opOf h 7 0 0 0 0 0 0 0, .plain, .fence, []⟩] }) ∧
      ∀ (tag : Nat) (p : PendingOp), s.ops.find? (fun p => p.tag == tag && p.phase == .fence) = some p →
        ((∃ q ∈ s.ops, q.op.source = p.op.source ∧ (q.tag < p.tag ∨ q.phase.isClosing = true)) → exec (.fenceComplete tag) s = .next s) ∧
        ((∀ q ∈ s.ops, q.op.source = p.op.source → p.tag ≤ q.tag ∧ q.phase.isClosing = false) → p.origin = .plain → (s.dropOp p.tag).Quiet →
          s.doneOk p.op.done → exec (.fenceComplete tag) s =
            .next (release (bumpTo ((s.dropOp p.tag).completed p.op.source p.op.code stOK 0) p.op.done true p.op.cls)))) ∧
  (∀ (s : State) (h : OpHead) (dst src x c : Word) (len : Nat) (q : PendingOp),
      q ∈ s.ops → q.op.source = h.source → q.tag < s.nextTag → q.phase = .fence →
      let t := fun (op : Op) => (Host.Outcome.next { s with nextTag := s.nextTag + 1, ops := s.ops ++
        [⟨s.nextTag, op, .plain, .queued, []⟩] } : Host.Outcome State Fault Refusal)
      exec (.get h dst src len) s = t (opOf h 1 0 dst src len 0 0 0) ∧
      exec (.put h dst src len) s = t (opOf h 2 0 dst src len 0 0 0) ∧
      exec (.putSignal h dst src len c) s = t (opOf h 3 0 dst src len 0 0 c) ∧
      exec (.atomicAdd h dst x) s = t (opOf h 4 0 dst 0 8 x 0 0) ∧
      exec (.atomicSwap h dst x) s = t (opOf h 4 1 dst 0 8 x 0 0) ∧
      exec (.atomicCas h dst x c) s = t (opOf h 4 2 dst 0 8 x c 0) ∧
      exec (.atomicMax h dst x) s = t (opOf h 4 3 dst 0 8 x 0 0) ∧
      exec (.atomicMin h dst x) s = t (opOf h 4 4 dst 0 8 x 0 0) ∧
      exec (.atomicOr h dst x) s = t (opOf h 4 5 dst 0 8 x 0 0) ∧
      exec (.atomicAnd h dst x) s = t (opOf h 4 6 dst 0 8 x 0 0) ∧
      exec (.watch h dst x len) s = t (opOf h 5 0 dst 0 len x 0 0) ∧
      exec (.copy h dst src len c) s = t (opOf h 6 0 dst src len 0 0 c) ∧
      exec (.fence h) s = t (opOf h 7 0 0 0 0 0 0 0))

/-- A COPY whose ranges keep to their regions becomes an operation in flight, and sends the GETs of a SRC on another node
or the reads of a SRC in the host window. COPY_COMPLETE of one that lies on this node within one part of 64 KiB of DST
writes the bytes of SRC to DST, completes with OK and RESULT the length, increments the DONE buoy once and lets queued
operations of its source go on. Rests on R24, R43, R47. -/
def Obligations.CopyMovesItsParts : Prop :=
  (∀ (s : State) (h : OpHead) (dst src report : Word) (len : Nat),
    let op := opOf h 6 0 dst src len 0 0 report
    let s1 := { s with nextTag := s.nextTag + 1 }
    let t := if nodeOf src ≠ s.node then copyGets s.nextTag op (len / 4096 + 1) s1 0
      else if regionOf (localOf src) = 62 then copyReads s.nextTag op (len / 65536 + 2) s1 0 else s1
    s.unfenced h.source → 0 < len → len ≤ 0x40000000 →
    crossesRegion (localOf dst) len = false → crossesRegion (localOf src) len = false →
      exec (.copy h dst src len report) s = .next { t with ops := t.ops ++ [⟨s.nextTag, op, .plain, .copy, []⟩] }) ∧
  ∀ (s : State) (tag : Nat) (p : PendingOp) (bs remote : List Byte),
    let dst := localOf p.op.dst
    let src := localOf p.op.src
    let r := readBytes s src bs.length p.op.cls (sourceCluster p.op.source)
    let w := writeBytes r.1 dst bs
    s.ops.find? (fun p => p.tag == tag && p.phase == .copy) = some p → p.origin = .plain → p.op.signal = 0 →
    p.op.len = bs.length → 0 < bs.length → bs.length ≤ 65536 - p.op.dst.toNat % 65536 →
    nodeOf p.op.dst = s.node → nodeOf p.op.src = s.node → regionOf src < 4 → regionOf dst < 3 →
    placeCheck s src bs.length .read none = stOK → r.2 = bs.map some →
    nodeOf p.op.dst = r.1.node → placeCheck r.1 dst bs.length .write none = stOK → w.Quiet → w.doneOk p.op.done →
      exec (.copyComplete tag remote) s = .next (release (bumpTo ((w.dropOp p.tag).completed p.op.source p.op.code stOK
        (BitVec.ofNat 64 bs.length)) p.op.done true p.op.cls))

/-- Setting RUN clamps the period to 100,000..100,000,000 ns and makes the next edge the next multiple of P; PERIOD_NS may
change while RUN is 0; while RUN is 1 a change is ignored and sets PERIOD_IGNORED; RUN 0 stops the Lamp; each LMP_RESV
field is limited to 40 and the exceedance counter is cleared. Everything else is unchanged. Rests on R51, R54, R71,
R514. -/
def Obligations.LampSettings : Prop :=
  ∀ (s : State) (ns : Nat) (v : Word), s.Inv → ns < 2 ^ 27 →
    let held := fun (t : State) (offs : List Nat) => ∀ o, o ∉ offs → t.reg o = s.reg o
    let same := fun (t : State) => t = { s with regs := t.regs }
    (s.bit Reg.lmpCtl 0 = false →
      (∃ t, exec (.lampRun true) s = .next t ∧ t = { s with regs := t.regs, lamp := t.lamp } ∧ held t [Reg.lmpCtl] ∧
        t.bit Reg.lmpCtl 0 = true ∧ lampPeriod t = clampN (lampPeriod s) 100000 100000000 ∧
        t.lamp = { s.lamp with next := max (lampEdgeNo s + 1) (s.tim.n / lampPeriod t + 1) }) ∧
      (∃ t, exec (.lampPeriodSet ns) s = .next t ∧ same t ∧ held t [Reg.lmpCtl] ∧ t.bit Reg.lmpCtl 0 = false ∧
        lampPeriod t = clampN ns 100000 100000000)) ∧
    (s.bit Reg.lmpCtl 0 = true →
      (∃ t, exec (.lampRun false) s = .next (applyPower t) ∧ same t ∧ held t [Reg.lmpCtl] ∧
        t.bit Reg.lmpCtl 0 = false) ∧
      (clampN ns 100000 100000000 ≠ lampPeriod s →
        ∃ t, exec (.lampPeriodSet ns) s = .next t ∧ same t ∧ held t [Reg.lmpStatus, Reg.lmpCtl] ∧
          t.bit Reg.lmpStatus 3 = true ∧ lampPeriod t = lampPeriod s ∧ t.bit Reg.lmpCtl 0 = true)) ∧
    (∃ t, exec (.lmpResvWrite v) s = .next t ∧ same t ∧ held t [Reg.lmpResv, Reg.lmpResvExceed] ∧
      t.reg Reg.lmpResvExceed = 0 ∧ ∀ i, i < 8 → t.fld Reg.lmpResv (8 * i + 7) (8 * i) = min 40 (bitsOf v (8 * i + 7) (8 * i)))

/-- With the Lamp running, LAMP_EDGE makes the edge that is due, or brings the time counter to the next edge and makes
that one (log 3). With no graph, no operation and no servo at work, LMP_EDGE becomes floor(N / P), the edges of the
exchange count one more and the reservations of the period start anew; with edges passed over, LMP_SKIP_COUNT rises by
them and EDGE_SKIPPED is set; every other register is unchanged. Rests on R52, R55, R56, R70. -/
def Obligations.LampEdgeOccurs : Prop :=
  ∀ s : State, lampOn s = true → s.tim.step = none →
    (edgeDue s = true → exec .lampEdge s = .next (doEdge s)) ∧
    (edgeDue s = false → exec .lampEdge s = .next (doEdge (advanceTo s (s.lamp.next * lampPeriod s)))) ∧
    (s.Inv → edgeDue s = true → (∀ k ∈ s.seqs, k.graphs = [] ∧ k.insts = []) → s.ops = [] → s.power.point = none →
      s.power.margin = false → s.fld Reg.timCtl 1 0 = 0 →
        let e := s.tim.n / lampPeriod s
        let gone := e - s.lamp.next
        ∃ t, exec .lampEdge s = .next t ∧
          t = { s with regs := t.regs, lamp := ⟨e + 1, s.lamp.counted + 1 + gone, 0, []⟩,
                       tim := { s.tim with edges := s.tim.edges + 1 },
                       str := { s.str with procs := s.str.procs.map (fun p => { p with c0 := 0 }) },
                       fab := { s.fab with links := s.fab.links.map (fun k => { k with t0 := 0 }) } } ∧
          lampEdgeNo t = e % 2 ^ 64 ∧
          (gone = 0 → ∀ o, o ≠ Reg.lmpEdge → t.reg o = s.reg o) ∧
          (gone ≠ 0 → t.bit Reg.lmpStatus 1 = true ∧
            t.reg Reg.lmpSkipCount = s.reg Reg.lmpSkipCount + BitVec.ofNat 64 gone ∧
            ∀ o, o ∉ [Reg.lmpEdge, Reg.lmpStatus, Reg.lmpSkipCount] → t.reg o = s.reg o))

/-- GRAPH_ENABLE refuses settings out of range with a REASON, which is 1 where nothing else is wrong, and EN 0; a graph in
direct memory that passes the checks, with nothing waiting on a buoy, becomes active with its nodes, class, last
stage, period and phase. GRAPH_DISABLE ends the starting of instances and keeps the graphs whose instances run.
NODE_DONE of a node whose DONE buoy has risen closes the node, or issues its first completion record; NODE_FINISH
issues the next record, or finishes the node. Issuing the records one at a time is the model's choice (NOTES.md,
Assumptions). Rests on R58, R60, R62, R63, R64, R66, R68. -/
def Obligations.GraphsRunTheirNodes : Prop :=
  (∀ (s : State) (q : Fin 16), s.Inv →
      let c := s.reg (Reg.lmpSeqCtl q.val)
      let nodes := bitsOf c 16 8
      let la := localOf (s.reg (Reg.lmpSeqGraph q.val))
      let raw := s.load la (64 * nodes)
      (bitOf c 0 = false → (∀ g ∈ (seqOf s q.val).graphs, g.active = false) →
        (nodes = 0 ∨ 256 < nodes ∨ bitsOf c 35 20 = 0 ∨ bitsOf c 35 20 ≤ bitsOf c 51 36 →
          ∃ t, exec (.graphEnable q) s = .next t ∧ t.bit (Reg.lmpSeqErr q.val) 0 = true ∧
            t.fld (Reg.lmpSeqStat q.val) 15 12 ≠ 0 ∧ t.bit (Reg.lmpSeqCtl q.val) 0 = false) ∧
        (nodes = 0 ∨ 256 < nodes → bitOf c 2 = false → nodeOf (s.reg (Reg.lmpSeqGraph q.val)) = s.node →
         (regionOf la = 1 ∨ regionOf la = 2) → s.bit Reg.secStat 6 = false →
          ∃ t u, exec (.graphEnable q) s = .next t ∧ u = { s with regs := u.regs } ∧ State.Signals u t ∧
            (∀ o, o ∉ [Reg.lmpSeqCtl q.val, Reg.lmpSeqStat q.val, Reg.lmpSeqErr q.val] → u.reg o = s.reg o) ∧
            t.bit (Reg.lmpSeqErr q.val) 0 = true ∧ t.fld (Reg.lmpSeqStat q.val) 15 12 = 1 ∧
            t.bit (Reg.lmpSeqCtl q.val) 0 = false) ∧
        (0 < nodes → nodes ≤ 256 → 0 < bitsOf c 35 20 → bitsOf c 51 36 < bitsOf c 35 20 → bitOf c 2 = false →
         nodeOf (s.reg (Reg.lmpSeqGraph q.val)) = s.node → (regionOf la = 1 ∨ regionOf la = 2) → s.tier.media = [] →
         crossesRegion la (64 * nodes) = false → placeCheck s la (64 * nodes) .read none = stOK →
         s.bit Reg.secStat 6 = false → s.Quiet → graphCauses raw (bitsOf c 19 17) nodes = none →
          ∃ t g, exec (.graphEnable q) s = .next t ∧ activeGraph t q.val = some g ∧ t.bit (Reg.lmpSeqCtl q.val) 0 = true ∧
            t.reg (Reg.lmpSeqCount q.val) = 0 ∧ g.nodes.length = nodes ∧ g.cls = bitsOf c 4 3 ∧ g.last = bitsOf c 19 17 ∧
            g.period = bitsOf c 35 20 ∧ g.phase = bitsOf c 51 36 ∧ g.runOn = bitOf c 1 ∧ g.gated = false ∧ g.started = 0 ∧
            (seqOf t q.val).insts = (seqOf s q.val).insts)) ∧
      (bitOf c 0 = true →
        exec (.graphDisable q) s = .next { s.setBit (Reg.lmpSeqCtl q.val) 0 false with
          seqs := s.seqs.modify q.val (fun k => { k with graphs :=
            (k.graphs.map (fun g => { g with active := false })).filter (fun g => k.insts.any (·.gid == g.gid)) }) })) ∧
  (∀ (s : State) (q : Fin 16) (uid i : Nat) (x : Inst) (g : Graph) (n : NodeDesc),
      instOf s q.val uid = some x → graphOf s q.val x.gid = some g → g.nodes[i]? = some n →
      (let s1 := s.modNode q.val x.gid i (fun n => { n with seenOk := (n.seenOk + 1) % 2 ^ 48 })
       launchedInst s q.val uid i = some x → (x.nodes.getD i .waiting).isLaunched = true → x.aborted = false →
       (countsOf s n.done).1 ≠ n.seenOk →
        (n.ncomp = 0 → exec (.nodeDone q uid i) s =
          .next (advanceInst (finishNode (s1.setPhase q.val uid i (.closing 0 false true)) q.val uid x.gid i true) q.val uid)) ∧
        (n.ncomp ≠ 0 →
          let u := issueRecord ((s1.setPhase q.val uid i (.closing n.ncomp false true)).setPhase q.val uid i
            (.closing n.ncomp true true)) (.sequencer q) (some g.cls) n.comp (fun a => .node q.val uid i 0 a)
          ((instOf u q.val uid).bind (fun y => y.nodes[i]?)) = some (.closing n.ncomp true true) →
            exec (.nodeDone q uid i) s = .next u)) ∧
      (∀ left ok, x.nodes[i]? = some (.closing left false ok) →
        (left = 0 → exec (.nodeFinish q uid i) s =
          .next (advanceInst (finishNode s q.val uid g.gid i ok) q.val uid)) ∧
        (left ≠ 0 →
          let u := issueRecord (s.setPhase q.val uid i (.closing left true ok)) (.sequencer q) (some g.cls)
            (n.comp + BitVec.ofNat 64 (64 * (n.ncomp - left))) (fun a => .node q.val uid i (n.ncomp - left) a)
          ((instOf u q.val uid).bind (fun y => y.nodes[i]?)) = some (.closing left true ok) →
            exec (.nodeFinish q uid i) s = .next u)))

/-- PROGRAM_LAUNCH puts the run into the queue of its cluster in its order; PROGRAM_TAKE takes the first run, checks its
descriptors and starts it or ends it as refused with the failing layer; LAYER_START starts a layer whose weights and
WAIT allow it, fails the program where the WAIT buoy's failures are past what the program found, and else leaves it
waiting; LAYER_END of a layer whose operands and tiles can be read and written writes every output tile of the layer
and goes on to the next; PROGRAM_CANCEL, LAYER_START and LAYER_END end an aborted program. The busy cycles charged are
a free value (log 28). Rests on R133, R140, R144, R157, R158, R159, R162, R163, R165. -/
def Obligations.ProgramsRunLayerByLayer : Prop :=
  (∀ (s : State) (q : Fin 16) (node : Nat) (c : Fin 8),
      (∀ (g : Graph) (n : NodeDesc) (u : State) (run : Run),
        let r := unitRead s (n.job + 120) 8 g.cls none
        let k := runsOn r.1 (if r.2.1 = stOK then bitsOf (wordAt r.2.2 0) 2 0 else 0)
        peekLaunch s q.val node [1] = some (g, n) → (cluOf r.1 k).queue.length < 256 →
        takeLaunch r.1 q.val node [1] = some (u, run) →
          run.seq = q.val ∧ run.node = node ∧ run.slot = none ∧
          exec (.programLaunch q node) s = .next (u.modClu k (fun x => { x with queue := insertBy runBefore run x.queue }))) ∧
      (∀ (run : Run) (rs : List Run),
        let u := obsStart (s.modClu c.val (fun k => { k with queue := rs })) c.val run
        let d := readDescs run.job run.cls c.val 4096 0 u
        let t := requestTiles d.1 (freshProg run u.now d.2.1 d.1.snap)
        unitFenced s c.val = false → (cluOf s c.val).run = none → (cluOf s c.val).susp = [] →
        (cluOf s c.val).queue = run :: rs → checkProg d.1 run.job d.2.1 d.2.2 = none →
          exec (.programTake c) s = .next (t.1.modClu c.val (fun k => { k with run := some t.2 }))) ∧
      (∀ (run : Run) (rs : List Run) (reason layer : Nat),
        let u := obsStart (s.modClu c.val (fun k => { k with queue := rs })) c.val run
        let d := readDescs run.job run.cls c.val 4096 0 u
        unitFenced s c.val = false → (cluOf s c.val).run = none → (cluOf s c.val).susp = [] →
        (cluOf s c.val).queue = run :: rs → checkProg d.1 run.job d.2.1 d.2.2 = some (reason, layer) →
          exec (.programTake c) s = .next (endProg d.1 c.val (freshProg run u.now d.2.1 d.1.snap) 2 0 reason layer))) ∧
  (∀ (s : State) (c : Fin 8) (p : Prog), (cluOf s c.val).run = some p → runAborted s p.run = false →
      (∀ ws : List WaitRead,
       let r := requestTiles s p
       let l := r.2.layerAt r.2.layer
       let w := waitsRead r.1 c.val r.2
       p.inLayer = false → (cluOf s c.val).queue.any (fun r => decide (r.cls < p.run.cls)) = false →
       unitFenced s c.val = false → weightsReady r.1 r.2 = true → w.2 = { r.2 with waits := some ws } →
         (l.wait = 0 → exec (.layerStart c) s = .next (beginLayer w.1 c.val w.2)) ∧
         ∀ (n f : Nat) (b : Word),
           l.wait ≠ 0 → ws[r.2.layer]? = some (.got n f) → r.2.polled = none → nodeOf l.wait = w.1.node →
           (readBuoy w.1 l.wait).2 = some b →
             (f < bitsOf b 63 48 → exec (.layerStart c) s = .next (endProg (w.1.clearProg c.val) c.val
               { w.2 with polled := some (.got (bitsOf b 47 0) (bitsOf b 63 48)) } 6 0 0 r.2.layer)) ∧
             (bitsOf b 63 48 ≤ f →
               exec (.layerStart c) s = if (bitsOf b 47 0 + 2 ^ 49 - n - l.waitn) % 2 ^ 48 < 2 ^ 47
                 then .next (beginLayer w.1 c.val w.2) else .next (w.1.setProg c.val w.2))) ∧
      (let l := p.layerAt p.layer
       let r := readOperands s c.val p.run.cls p.old l
       let tiles := List.range (tensorTiles l.ofmt l.m l.n)
       let ts := tiles.map (l.outTile r.1.ftab r.2.1)
       let w := (writeTiles r.1 l ts).1
       let m := if l.occOut then unitWrite w (l.c + BitVec.ofNat 64 l.cBytes) (l.outMap (ts.flatMap (·.elems)))
         else (w, stOK)
       p.inLayer = true → r.2.2 = [] → (∀ t ∈ tiles, l.tileFormatBad r.2.1 t = false) →
       (∀ t ∈ ts, placeCheck r.1 (localOf l.c + 4096 * t.index) 4096 .write none = stOK) → m.2 = stOK →
         let t := chargeDomain s p.run.dom (finishLayer m.1 c.val p l ts)
         exec (.layerEnd c) s = .next (count t.bumpFree (Reg.obsDom (4 * p.run.dom)) (Config.freeNat t.freeCtr)))) ∧
  (∀ (s : State) (c : Fin 8),
      (∀ run : Run, (cluOf s c.val).run = none → (cluOf s c.val).susp = [] → (cluOf s c.val).queue = [run] →
        runAborted s run = true → exec (.programCancel c) s =
          .next (cancelQueued (s.modClu c.val (fun k => { k with susp := [], queue := [] })) c.val run)) ∧
      ∀ p : Prog, (cluOf s c.val).run = some p → runAborted s p.run = true →
        let u := endProg (s.clearProg c.val) c.val p 8 0 0 p.layer
        exec (.layerStart c) s = (if p.inLayer = false ∧ mustYield s c.val = false ∧ unitFenced s c.val = false then .next u
          else .next s) ∧
        (p.inLayer = true → exec (.layerEnd c) s = .next u) ∧
        ((cluOf u c.val).susp = [] → (cluOf u c.val).queue = [] →
          exec (.programCancel c) s = .next u))

/-- With the manager on and its buoy rung, CREATE, SEAL, FREE, PLACE, DROP and UNPIN each take the request in the next
slot when it is theirs, and answer it or hold it. CREATE adds an object at the lowest free base; SEAL to the object's
own tier, with no media error in it, seals it and answers its digest; FREE sets RETIRING; PLACE of one tile adds a
copy or completes with NO_SPACE; DROP removes a copy and UNPIN unpins it, and both let layers that wait for tiles try
again. Rests on R113, R115, R117, R119, R120, R121, R128, R130. -/
def Obligations.TierRequestsAreServed : Prop :=
  (∀ (s : State) (raw : List Byte),
      let seq := s.tier.nextSeq
      let r := unitRead s (tierSlot s seq) 64 3 none
      let u := { r.1 with tier := { r.1.tier with nextSeq := seq + 1, taken := s.tier.taken + 1 } }
      let a := tierExec u seq raw false
      let u1 := match a.2 with
        | .done st res => tierDone a.1 seq st (BitVec.ofNat 64 res)
        | .wait q => { a.1 with tier := { a.1.tier with busy := a.1.tier.busy ++ [q] } }
      let t : Host.Outcome State Fault Refusal := .next u1
      tierOn s = true → tierRung s = true → r.2 = (stOK, raw) → bitsOf (wordAt raw 0) 63 32 = seq % 2 ^ 32 →
        (bitsOf (wordAt raw 0) 3 0 = 1 → exec .create s = t) ∧
        (bitsOf (wordAt raw 0) 3 0 = 2 → exec .seal s = t) ∧
        (bitsOf (wordAt raw 0) 3 0 = 3 → exec .free s = t) ∧
        (bitsOf (wordAt raw 0) 3 0 = 4 → exec .place s = t) ∧
        (bitsOf (wordAt raw 0) 3 0 = 5 → exec .drop s = .next (settlePlaces u1)) ∧
        (bitsOf (wordAt raw 0) 3 0 = 6 → exec .unpin s = t)) ∧
  (∀ (s : State) (seq id : Nat) (raw : List Byte),
      let c := wordAt raw 0
      let a0 := wordAt raw 8
      let a1 := wordAt raw 16
      let a2 := wordAt raw 24
      bitsOf c 7 6 = 0 → allZero (sliceB raw 48 16) = true → bitsOf c 31 16 = id →
      (∀ base, bitsOf c 3 0 = 1 → a1 &&& ~~~(0x1F3F#64) = 0 → a2 = 0 → (bitsOf a1 5 4 = 1 ∨ bitsOf a1 5 4 = 2) →
        0 < a0.toNat → a0.toNat % 4096 = 0 → a0.toNat ≤ 2 ^ 42 → objOf s id = none →
        lowestRange a0.toNat (sortBy (fun a b => decide (a.1 < b.1)) (s.tier.objs.map (fun o => (o.base, o.size)))) 0
          = some base →
        quotaUsed s (bitsOf a1 3 0) (spaceOf (bitsOf a1 5 4) (bitsOf a1 10 8)) + a0.toNat / 4096
          ≤ quotaOf s (bitsOf a1 3 0) (spaceOf (bitsOf a1 5 4) (bitsOf a1 10 8)) →
          let t := tierExec s seq raw false
          let o : Obj := ⟨id, base, a0.toNat, 1, bitsOf a1 3 0, 0, bitsOf a1 10 8, bitsOf a1 5 4, bitOf a1 12, false, 0, 0,
            genOf s id + 1, false⟩
          t.2 = .done 0 base ∧ t.1.tier.objs = s.tier.objs ++ [o] ∧ t.1.tier.copies = s.tier.copies ∧ t.1.regs = s.regs) ∧
      (∀ o, bitsOf c 3 0 = 2 → a0 = 0 → a2 = 0 → a1.toNat = o.tier → a1.toNat ≤ 3 → 0 < o.tier → objOf s id = some o →
        o.state = 1 → (∀ f ∈ s.tier.media, ∀ b, f.place ≠ .home id b) →
          let t := tierExec s seq raw false
          t.2 = .done 0 (objDigest (s.setObj { o with state := 2, home := o.tier, gen := o.gen + 1, signed := false }) o) ∧
          (objOf t.1 id).map (fun p => (p.state, p.home, p.flushed, p.gen)) = some (3, o.tier, true, o.gen + 2)) ∧
      (∀ o, bitsOf c 3 0 = 3 → a0 = 0 → a1 = 0 → a2 = 0 → objOf s id = some o → o.state ≠ 4 → s.bit Reg.secStat 6 = false →
        tierExec s seq raw false = (s.setObj { o with state := 4, gen := o.gen + 1 }, .wait ⟨seq, 3, id, 0, 0, 0, 0⟩)) ∧
      (∀ o, bitsOf c 3 0 = 4 → a2 &&& ~~~(0x707#64) = 0 → (bitsOf a2 1 0 = 1 ∨ bitsOf a2 1 0 = 2) → bitOf a2 2 = true →
        objOf s id = some o → o.state = 3 → a0.toNat % 4096 = 0 → a1.toNat = 4096 → a0.toNat + 4096 ≤ o.size →
        let p := spaceOf (bitsOf a2 1 0) (bitsOf a2 10 8)
        homeIn o p = false → copyIn s id (a0.toNat / 4096) p = none →
          (quotaUsed s o.domain p < quotaOf s o.domain p → tierExec s seq raw false =
            (syncObj (addCopy s id (a0.toNat / 4096) p true false 0 (bitsOf c 5 4)) id,
              .wait ⟨seq, 4, id, p.tier, p.cluster, a0.toNat / 4096, a0.toNat / 4096 + 1⟩)) ∧
          (quotaOf s o.domain p ≤ quotaUsed s o.domain p → domCopies s o.domain p = [] →
            tierExec s seq raw false = (s, .done 4 0))) ∧
      (∀ (o : Obj) (pin pool w : Bool) (lr cls : Nat), bitsOf c 3 0 = 5 → a2 = 0 → objOf s id = some o → o.state = 3 →
        a0.toNat % 4096 = 0 → a1.toNat = 4096 → a0.toNat + 4096 ≤ o.size → s.bit Reg.secStat 6 = false →
        s.tier.copies = [⟨id, a0.toNat / 4096, 2, 0, true, pin, 0, lr, pool, cls, w⟩] →
          ∃ u, tierExec s seq raw false = (retryTiles u, .done 0 0) ∧ u.tier.copies = [] ∧ u.regs = s.regs) ∧
      (∀ (o : Obj) (pin pool w : Bool) (k lr cls : Nat), bitsOf c 3 0 = 6 → a2 = 0 → objOf s id = some o → o.state = 3 →
        a0.toNat % 4096 = 0 → a1.toNat = 4096 → a0.toNat + 4096 ≤ o.size →
        s.tier.copies = [⟨id, a0.toNat / 4096, 2, 0, true, pin, k, lr, pool, cls, w⟩] →
          ∃ u, tierExec s seq raw false = (retryTiles u, .done 0 0) ∧ u.regs = s.regs ∧
            u.tier.copies = [⟨id, a0.toNat / 4096, 2, 0, true, false, k, lr, pool, cls, w⟩]))

/-- SEAL_FLUSH_COMPLETE ends a seal and answers its request; with no media error in the object, it is SEALED and flushed
and the answer is the digest. FREE_COMPLETE removes the object and its copies, lets waiting layers try again and
answers its requests. TILE_COPY_VALID makes a pending copy valid from the home when a mover is free for its class;
PROMOTE_COPY makes a T2 copy of a promoted tile, or sets TIR_ERR bit 5 when no tile can be had. Rests on R116, R117,
R123, R124, R127. -/
def Obligations.ObjectsAndTilesSettle : Prop :=
  (∀ (s : State) (id : BitVec 16) (o : Obj), objOf s id.toNat = some o →
      (o.state = 2 → (∃ r ∈ s.tier.busy, r.op = 2 ∧ r.obj = o.id) →
        let v := if o.home = 3 then programAny s else s
        let r := sealEnd v o
        ∃ st res, r.2 = .done st res ∧
          exec (.sealFlushComplete id) s =
            .next (endBusy r.1 (fun q => q.op == 2 && q.obj == o.id) st (BitVec.ofNat 64 res)) ∧
          ((∀ f ∈ s.tier.media, ∀ b, f.place ≠ .home o.id b) → st = 0 ∧ res = objDigest v o ∧
            (objOf r.1 id.toNat).map (fun p => (p.state, p.flushed, p.gen)) = some (3, true, o.gen + 1))) ∧
      (o.state = 4 →
        let u := removeObj s o
        objOf u id.toNat = none ∧ (∀ c ∈ u.tier.copies, c.obj ≠ o.id) ∧ genOf u id.toNat = o.gen + 1 ∧
        forgetObj s o = retryTiles (spaces.foldl (fun s p => pullPool o.domain p s.tier.copies.length s) u) ∧
        exec (.freeComplete id) s = .next (endBusy (endBusy (forgetObj s o) (fun r => r.op == 3 && r.obj == o.id) 0 0)
          (fun r => r.obj == o.id) 3 0))) ∧
  (∀ (s : State) (id : BitVec 16) (tile : Nat) (tier : BitVec 2) (cl : Fin 8) (o : Obj), objOf s id.toNat = some o →
      (∀ c, copyIn s id.toNat tile (spaceOf tier.toNat cl.val) = some c → c.valid = false →
        exec (.tileCopyValid id tile tier cl) s = if moverFree s c = true
          then .next (settlePlaces (copyTile (passC0 s c) o tile c.cls (spaceOf tier.toNat cl.val))) else .next s) ∧
      ((id.toNat, tile) ∈ s.tier.promote → o.state = 3 → o.id = id.toNat → copyIn s id.toNat tile ⟨2, 0⟩ = none →
        let u := { s with tier := { s.tier with promote := s.tier.promote.filter (· != (id.toNat, tile)) } }
        (quotaUsed s o.domain ⟨2, 0⟩ < quotaOf s o.domain ⟨2, 0⟩ →
          exec (.promoteCopy id tile) s = .next (copyTile (addCopy u o.id tile ⟨2, 0⟩ false false 0 3) o tile 3 ⟨2, 0⟩)) ∧
        (takeAny u o.domain ⟨2, 0⟩ (fun _ => false) = none →
          exec (.promoteCopy id tile) s = .next (sticky u Reg.tirErr 5 none))) ∧
      (∀ (p : Space) (cls : Nat), p.tier = 2 →
        let r := readTile s o (tile * 4096) 4096 cls none
        r.2.all (·.isSome) = true →
          copyTile s o tile cls p = (match copyIn r.1 o.id tile p with
            | none => r.1
            | some c => syncObj (count (countTier (r.1.modCopy c (fun e => { e with valid := true, lastRead := r.1.now }))
              3 4096) Reg.tirMigCount 1) o.id)))

/-- TIER_ENABLE with a valid object table enables the manager, with an invalid one it sets TIR_ERR bit 6 and stays off. A
quota write that fits is taken, and layers that wait for tiles try again; one that does not leaves the quota and sets
TIR_ERR bit 0. PATROL_SCRUB counts and removes the correctable errors of T2. Rests on R112, R128, R129, R136, R139. -/
def Obligations.TierManagerSettings : Prop :=
  ∀ (s : State) (d : Fin 16) (v : Word), s.Inv →
    (tierOn s = false → tableOk s = true → ∃ u, u = { s with regs := u.regs } ∧
      exec .tierEnable s = .next (tierStart u) ∧ u.bit Reg.tirCtl 0 = true ∧
      ∀ o, o ≠ Reg.tirCtl → u.reg o = s.reg o) ∧
    (tierOn s = false → tableOk s = false → ∃ t, exec .tierEnable s = .next t ∧ t.bit Reg.tirErr 6 = true ∧
      tierOn t = false ∧ t.mem = s.mem ∧ t.tier = s.tier) ∧
    (let others := (List.range 16).filter (· != d.val)
     let sum := fun (p : Space) => (others.map (fun e => quotaOf s e p)).foldl (· + ·) 0
     let want := fun (p : Space) => if p.tier = 2 then bitsOf v 31 0 else bitsOf v 47 32
     let fits := (∀ p ∈ spaces, want p + sum ⟨p.tier, 0⟩ ≤ managedTiles s ⟨p.tier, 0⟩ ∧
       fixedTiles s d.val p + ((domCopies s d.val p).filter (·.pinned)).length ≤ want p)
     (fits → s.tier.copies = [] → exec (.quotaWrite d v) s =
       .next (retryTiles (s.setReg (Reg.tirDomQuota d.val) (v &&& 0x0000FFFFFFFFFFFF)))) ∧
     (¬ fits → ∃ t, exec (.quotaWrite d v) s = .next t ∧ State.Signals (s.setBit Reg.tirErr 0 true) t ∧
       t.tier = s.tier ∧ quotaOf t d.val ⟨2, 0⟩ = quotaOf s d.val ⟨2, 0⟩)) ∧
    (tierOn s = true → s.bit Reg.tirCtl 1 = true → s.tier.objs = [] → s.Quiet →
      (∀ f ∈ s.tier.media, f.kind = .corrected) →
      let hit := s.tier.media.filter (fun f => match f.place with
        | .direct a => regionOf a == 1
        | _ => false)
      ∃ t, exec .patrolScrub s = .next t ∧ t = { s with regs := t.regs, tier := t.tier } ∧
        t.tier = { s.tier with media := s.tier.media.filter (fun f => !hit.contains f) } ∧
        t.fld Reg.tirEccCount 31 0 = min (s.fld Reg.tirEccCount 31 0 + hit.length) (2 ^ 32 - 1) ∧
        ∀ o, o ≠ Reg.tirEccCount → t.reg o = s.reg o)

/-- For a READY strand that may issue and whose step is read and legal: each integer, float, HASH, POPC, TIME and WEXT
step writes the value of R186 to its register and goes to the next step; a branch adds 4 x its offset to PC when its
condition holds; JAL and JR link; a misaligned JR target faults; STAT gives the strand's status word with its ID and
node and WINS inserts into the wide register. The binary32 operations are those of R77 to R80. Rests on R184, R185,
R186, R188. -/
def Obligations.StrandStepsGiveTheirResults : Prop :=
  (∀ (s : State) (id : BitVec 22) (t : Strand) (u : State) (w : StepWord), s.Steps id t u w →
      let a := t.g w.ra
      let b := t.g w.rb
      let r := fun (v : Word) => (Host.Outcome.next (u.setStrand (setGreg t.next w.rd v)) : Host.Outcome State Fault Refusal)
      let f := fun (n : Nat) => BitVec.ofNat 64 n
      (w.op = 0x01 → exec (.stepAdd id) s = r (a + b)) ∧
      (w.op = 0x02 → exec (.stepSub id) s = r (a - b)) ∧
      (w.op = 0x03 → exec (.stepAddi id) s = r (a + BitVec.ofInt 64 (sextN 14 w.imm))) ∧
      (w.op = 0x04 → exec (.stepMul id) s = r (a * b)) ∧
      (w.op = 0x05 → exec (.stepAnd id) s = r (a &&& b)) ∧
      (w.op = 0x06 → exec (.stepOr id) s = r (a ||| b)) ∧
      (w.op = 0x07 → exec (.stepXor id) s = r (a ^^^ b)) ∧
      (w.op = 0x08 → exec (.stepShli id) s = r (a <<< w.imm)) ∧
      (w.op = 0x09 → exec (.stepShri id) s = r (a >>> w.imm)) ∧
      (w.op = 0x0A → exec (.stepSari id) s = r (a.sshiftRight w.imm)) ∧
      (w.op = 0x0B → exec (.stepSlt id) s = r (if a.toInt < b.toInt then 1 else 0)) ∧
      (w.op = 0x0C → exec (.stepSltu id) s = r (if a.toNat < b.toNat then 1 else 0)) ∧
      (w.op = 0x0D → exec (.stepPopc id) s = r (f (popcount64 a))) ∧
      (w.op = 0x18 → exec (.stepFadd id) s = r (f (f32add (f32Of a) (f32Of b)))) ∧
      (w.op = 0x19 → exec (.stepFsub id) s = r (f (f32sub (f32Of a) (f32Of b)))) ∧
      (w.op = 0x1A → exec (.stepFmul id) s = r (f (f32mul (f32Of a) (f32Of b)))) ∧
      (w.op = 0x1B → exec (.stepFfma id) s = r (f (f32fma (f32Of a) (f32Of b) (f32Of (t.g w.rd))))) ∧
      (w.op = 0x1C → exec (.stepFdiv id) s = r (f (f32div (f32Of a) (f32Of b)))) ∧
      (w.op = 0x1D → exec (.stepFsqrt id) s = r (f (f32sqrt (f32Of a)))) ∧
      (w.op = 0x1E → exec (.stepFlt id) s = r (if f32lt (f32Of a) (f32Of b) then 1 else 0)) ∧
      (w.op = 0x1F → exec (.stepFcvtif id) s = r (f (f32ofInt a.toInt))) ∧
      (w.op = 0x20 → exec (.stepFcvtfi id) s = r (BitVec.ofInt 64 (truncI64 (fmtF32.decode (f32Of a))))) ∧
      (w.op = 0x2E → exec (.stepWext id) s = r (t.wide.getD w.imm 0)) ∧
      (w.op = 0x2F → exec (.stepHash id) s = r (mixHash a b)) ∧
      (w.op = 0x3D → exec (.stepTime id) s = r (f u.now))) ∧
  (∀ (s : State) (id : BitVec 22) (t : Strand) (u : State) (w : StepWord), s.Steps id t u w →
      let a := t.g w.ra
      let b := t.g w.rb
      let r := fun (x : Strand) => (Host.Outcome.next (u.setStrand x) : Host.Outcome State Fault Refusal)
      let steps := (t.steps + 1) % 2 ^ 64
      let rel := t.pc + BitVec.ofInt 64 (sextN 14 w.imm * 4)
      let go := fun (c : Prop) [Decidable c] => r { t with steps := steps, pc := if c then rel else t.pc + 4 }
      let link := fun (x : Word) => r { t with steps := steps, pc := x, gregs := t.gregs.set w.rd (t.pc + 4) }
      (w.op = 0x10 → exec (.stepBeq id) s = go (a = b)) ∧
      (w.op = 0x11 → exec (.stepBne id) s = go (a ≠ b)) ∧
      (w.op = 0x12 → exec (.stepBlt id) s = go (a.toInt < b.toInt)) ∧
      (w.op = 0x13 → exec (.stepBge id) s = go (b.toInt ≤ a.toInt)) ∧
      (w.op = 0x14 → exec (.stepJal id) s = link rel) ∧
      (w.op = 0x15 → a.toNat % 4 = 0 → exec (.stepJr id) s = link a) ∧
      (w.op = 0x15 → a.toNat % 4 ≠ 0 → exec (.stepJr id) s = .next (faultStrand u t 4 none)) ∧
      (w.op = 0x2D → exec (.stepWins id) s =
        r { t with steps := steps, pc := t.pc + 4, wide := t.wide.set w.imm a }) ∧
      (w.op = 0x3C → exec (.stepStat id) s =
        r { t with
          steps := steps
          pc := t.pc + 4
          gregs := t.gregs.set w.rd (BitVec.ofNat 64 (t.lstat % 256 + t.serr % 256 * 2 ^ 8 + t.cls % 4 * 2 ^ 16
            + homeCluster t.id * 2 ^ 18 + t.sid % 2 ^ 22 * 2 ^ 32 + u.node * 2 ^ 54))
          serr := if w.imm = 1 then 0 else t.serr }))

/-- The next state of a register step (StrandStepsGiveTheirResults names it) holds the result in rd, PC + 4, and every
other register, the wide register, the state, SERR and LSTAT of the strand as before; every other strand and every
other part of the device is unchanged. Rests on R172, R186. -/
def Obligations.AStepKeepsTheRest : Prop :=
  ∀ (u : State) (t : Strand) (rd : Nat) (v : Word), strandOf u t.id = some t → t.gregs.length = 16 → rd < 16 →
    let x := u.setStrand (setGreg t.next rd v)
    (∃ y, strandOf x t.id = some y ∧ y.g rd = v ∧ (∀ k, k ≠ rd → y.g k = t.g k) ∧ y.pc = t.pc + 4 ∧ y.wide = t.wide ∧
      y.state = t.state ∧ y.serr = t.serr ∧ y.lstat = t.lstat) ∧
    (∀ k, k ≠ t.id → strandOf x k = strandOf u k) ∧ x = { u with str := x.str } ∧ x.str.batches = u.str.batches

/-- LDK, LD8, LD32, LD64, LDW and HAMM issue a GET of their length at their address and wait for it, behind an earlier
store of the strand to the same bytes; ST8, ST32, ST64 and STW issue a posted PUT of the register's low bytes or the
wide register and go on; a misaligned address faults with cause 4. That the operations are issued at the step is the
model's choice (log 84). Rests on R186, R187, R192. -/
def Obligations.LoadAndStoreSteps : Prop :=
  (∀ (s : State) (id : BitVec 22) (t : Strand) (u : State) (w : StepWord), s.Steps id t u w →
      let x := fun (len : Nat) (a : Word) (sent : Bool) =>
        ({ t.counted with state := 2, wait := .load w.op w.rd a len sent none } : Strand)
      let load := fun (len : Nat) (a : Word) => (Host.Outcome.next (
        if a.toNat % len ≠ 0 then faultStrand u t 4 none
        else
          let v := u.setStrand (x len a false)
          if storeAhead v t.id a len then v
          else issue (v.setStrand (x len a true)) (.load t.id) (strandOp t 1 0 a 0 len 0 0 0) []) :
        Host.Outcome State Fault Refusal)
      let off := fun (k : Int) => t.g w.ra + BitVec.ofInt 64 (sextN 14 w.imm * k)
      (w.op = 0x0E → exec (.stepLdk id) s = load 8 (t.pc + BitVec.ofInt 64 (sextN 14 w.imm * 4))) ∧
      (w.op = 0x24 → exec (.stepLd8 id) s = load 1 (off 1)) ∧
      (w.op = 0x25 → exec (.stepLd32 id) s = load 4 (off 1)) ∧
      (w.op = 0x26 → exec (.stepLd64 id) s = load 8 (off 1)) ∧
      (w.op = 0x2A → exec (.stepLdw id) s = load 64 (off 64)) ∧
      (w.op = 0x2C → exec (.stepHamm id) s = load 64 (off 64))) ∧
  (∀ (s : State) (id : BitVec 22) (t : Strand) (u : State) (w : StepWord), s.Steps id t u w →
      let store := fun (len : Nat) (a : Word) (bs : List Byte) => (Host.Outcome.next (
        if a.toNat % len ≠ 0 then faultStrand u t 4 none
        else issue (u.setStrand t.next) (.store t.id) (strandOp t 2 0 a 0 len 0 0 0) bs) : Host.Outcome State Fault Refusal)
      let off := fun (k : Int) => t.g w.ra + BitVec.ofInt 64 (sextN 14 w.imm * k)
      let b := t.g w.rb
      (w.op = 0x27 → exec (.stepSt8 id) s = store 1 (off 1) (leBytes 1 b.toNat)) ∧
      (w.op = 0x28 → exec (.stepSt32 id) s = store 4 (off 1) (leBytes 4 b.toNat)) ∧
      (w.op = 0x29 → exec (.stepSt64 id) s = store 8 (off 1) (leBytes 8 b.toNat)) ∧
      (w.op = 0x2B → exec (.stepStw id) s = store 64 (off 64) (t.wide.flatMap wordBytes)))

/-- Each of these steps leaves the strand in WAIT_MEM at the next step and issues the operation its fields name (OPREC the
record at ga); SPAWN waits with the cluster, entry and argument; FENCE and END wait for the strand's operations. Rests
on R188, R190, R193. -/
def Obligations.OperationStepsBlock : Prop :=
  ∀ (s : State) (id : BitVec 22) (t : Strand) (u : State) (w : StepWord), s.Steps id t u w →
    let a := t.g w.ra
    let b := t.g w.rb
    let d := t.g w.rd
    let held := u.setStrand { t.next with state := 2, wait := .pending u.nextTag w.rd }
    let r := fun (op : Op) => (Host.Outcome.next (issue held (.strand t.id none) op []) :
      Host.Outcome State Fault Refusal)
    (w.op = 0x30 → exec (.stepGet id) s = r (strandOp t 1 0 a b w.imm 0 0 0)) ∧
    (w.op = 0x31 → exec (.stepPut id) s = r (strandOp t 2 0 a b w.imm 0 0 0)) ∧
    (w.op = 0x32 → exec (.stepPuts id) s = r (strandOp t 3 0 a b w.imm 0 0 d)) ∧
    (w.op = 0x33 → exec (.stepAtom id) s = r (strandOp t 4 (w.imm % 8) a 0 8 b d 0)) ∧
    (w.op = 0x35 → exec (.stepCopy id) s = r (strandOp t 6 0 a b d.toNat 0 0 0)) ∧
    (w.op = 0x37 → exec (.stepOprec id) s =
      .next (issueRecord held (strandSource t) (some t.cls) a (fun x => .strand t.id x))) ∧
    (w.op = 0x38 → exec (.stepSpawn id) s = .next (u.setStrand { t.next with
      state := 2, wait := .spawn w.rd (if w.imm = 15 then homeCluster t.id else w.imm) a b })) ∧
    (w.op = 0x36 → exec (.stepFence id) s = .next (u.setStrand { t.next with state := 2, wait := .fence })) ∧
    (w.op = 0x3B → exec (.stepEnd id) s =
      .next (u.setStrand { t.next with state := 2, wait := .drain (a.toNat % 65536) }))

/-- WATCH and PARK wait in WAIT_BUOY or go on at once, and a WATCH on another node is sent; PARK also leaves its context;
JOB reads the unit's done buoy, here or on another node, rings LAUNCH and waits. STRAND_OP_COMPLETE takes a load's
data, a result, a spawned strand's ID, a FENCE or an END; a failed load faults with cause 3. STRAND_WAIT_TIMEOUT ends
a wait with TIMEOUT; PARK_TIMEOUT brings the time to the end of the wait's PARK_AFTER and saves the context once no
store is posted; a failed fetch faults with cause 2. Rests on R172, R176, R178, R179, R188, R189, R190, R192, R193. -/
def Obligations.StrandsWaitAndGoOn : Prop :=
  (∀ (s : State) (id : BitVec 22) (t : Strand) (u : State) (w : StepWord), s.Steps id t u w →
      let a := t.g w.ra
      let b := t.g w.rb
      let wait := fun (v : State) (x : Strand) (addr cond : Word) =>
        beginWait v { x with waddr := addr, wcond := cond } (.buoy w.rd w.imm v.lamp.counted)
      (∀ (v : State) (x : Strand) (k : SWait), beginWait v x k =
        settle (saveStrand v { x with state := 3, wait := k, ready := v.str.clock, waited := v.tim.n }).tickReady) ∧
      (nodeOf a = u.node → buoyCheck u (localOf a) = stOK →
        (∀ st, watchCond (u.word (localOf a)) b = some st → w.op = 0x34 →
          exec (.stepWatch id) s = .next (endWait u t.next w.rd st (u.word (localOf a)))) ∧
        (watchCond (u.word (localOf a)) b = none →
          (w.op = 0x34 → exec (.stepWatch id) s = .next (wait u t.next a b)) ∧
          (w.op = 0x3A → ∀ x, strandOf (wait u t.next a b) t.id = some x → x.state = 3 →
            exec (.stepPark id) s = .next (parkStrand (wait u t.next a b) x)))) ∧
      (w.op = 0x34 → nodeOf a ≠ u.node → exec (.stepWatch id) s =
        .next (issue (beginWait u { t.next with waddr := a, wcond := b } (.pending u.nextTag w.rd)) (.strand t.id none)
          (strandOp t 5 0 a 0 w.imm b 0 0) [])) ∧
      (w.op = 0x39 →
        (if nodeOf b = u.node then buoyCheck u (localOf b) else if b.toNat % 8 ≠ 0 then stALIGNMENT else stOK) = stOK →
        let v := issue (beginWait u t.next (.job w.rd w.imm a b none)) (.load t.id) (strandOp t 1 0 b 0 8 0 0 0) []
        exec (.stepJob id) s = .next (jobAnswer v t.id) ∧
        ∀ (x y : Strand) (data : List Byte),
          strandOf v t.id = some x → x.resident = true → x.wait = .job w.rd w.imm a b (some (stOK, data)) → nodeOf a = v.node →
          let now := wordAt data 0
          let cond := putBits (BitVec.ofNat 64 ((bitsOf now 47 0 + 1) % 2 ^ 48)) 63 48 (bitsOf now 63 48 + 1)
          let l := bump v a true x.cls
          l.2 = stOK → strandOf l.1 x.id = some y → nodeOf b = l.1.node → buoyCheck l.1 (localOf b) = stOK →
          watchCond (l.1.word (localOf b)) cond = none →
            exec (.stepJob id) s = .next (wait l.1 y b cond))) ∧
  (∀ (s : State) (id : BitVec 22) (t : Strand), strandOf s id.toNat = some t →
      (∀ code rd a len sent st data, t.wait = .load code rd a len sent (some (st, data)) →
        let x := { t with pc := t.pc + 4 }
        (st ≠ stOK → exec (.strandOpComplete id) s = .next (faultStrand s t 3 (some st))) ∧
        (st = stOK → exec (.strandOpComplete id) s = .next (makeReady s (
          if code = 0x2A then { x with wide := (List.range 8).map (fun i => wordAt data (8 * i)) }
          else setGreg x rd (BitVec.ofNat 64 (if code = 0x2C then hamming (t.wide.flatMap wordBytes) data else leNat data)))))) ∧
      (∀ st v rd, t.wait = .result st v rd → exec (.strandOpComplete id) s = .next (endWait s t rd st v)) ∧
      (∀ rd c pc arg b r, t.wait = .spawn rd c pc arg → batchOf s t.batch = some b → poolOk s c = true →
        spawnStrand s c b pc ([arg, BitVec.ofNat 64 t.sid] ++ List.replicate 14 0) t.cls = some r →
        ∀ y, strandOf r.1 t.id = some y → exec (.strandOpComplete id) s = .next (endWait r.1 y rd stOK (BitVec.ofNat 64 r.2))) ∧
      ((∀ p ∈ s.ops, p.origin.ofStrand t.id = false) →
        (t.wait = .fence → exec (.strandOpComplete id) s = .next (makeReady s t)) ∧
        (∀ e, t.wait = .drain e → exec (.strandOpComplete id) s = .next (endStrand s t e))) ∧
      (∀ rd limit since, t.wait = .buoy rd limit since → limit ≠ 0 → since + limit ≤ s.lamp.counted →
        exec (.strandWaitTimeout id) s = .next (settle (endWait s t rd stTIMEOUT (s.word (localOf t.waddr))))) ∧
      (t.state = 3 → t.resident = true →
        let c := homeCluster t.id
        let v := runTo s (t.waited + cyclesNs s c (64 * s.fld (Reg.cluStrCtl c) 15 0))
        ∀ y, strandOf v t.id = some y → y.state = 3 → y.resident = true → exec (.parkTimeout id) s =
          if storesDone v y.id = true then .next (settle (saveStrand v { y with resident := false, parking := false }))
          else .next (v.setStrand { y with parking := true })) ∧
      (∀ (u : State) (e : Nat), mayIssue s t = true → fetchStep s t = (u, .error e) →
        exec (.stepAdd id) s = .next (faultStrand (issued u t) t 2 (some e))))

/-- BATCH_LAUNCH reads the job record and, when it passes, adds the batch and spawns COUNT strands over its clusters; a
batch of the relocalisation service does the turn of its node instead (log 165); when checks fail it ends the batch as
refused with the reason of one of them (which is free, log 9). STRAND_LOAD puts the first READY strand of the pool
into a context of a processor that has one for its class; which processor is free in the model (NOTES.md,
Assumptions). Rests on R174, R177, R180, R181. -/
def Obligations.BatchesSpawnAndStrandsLoad : Prop :=
  ∀ (s : State) (q : Fin 16) (node : Nat) (c : Fin 8),
    (∀ (v : State) (run : Run) (r : State) (raw : List Byte),
      let cs := batchClusters (u8At raw 12)
      let o := obsStart r (cs.headD 0) run
      let b : Batch :=
        { number := o.str.clock, seq := run.seq, inst := run.uid, instNo := run.number, node := node, job := run.job,
          clusters := cs, cls := run.cls, dom := run.dom, done := run.done, report := wordAt raw 32, aborted := false,
          started := 0, endedOk := 0, endedBad := 0, faulted := [], killed := 0, notSpawned := 0, refused := 0,
          start := run.time }
      let x := { o with str := { o.str with clock := o.str.clock + 1, batches := o.str.batches ++ [b] } }
      let plan : BatchPlan :=
        { entry := wordAt raw 0, arg := wordAt raw 16, count := u32At raw 8, clusters := cs, first := none,
          number := if u64At raw 24 = 0 then 0 else run.number, cls := run.cls }
      takeLaunch s q.val node [5] = some (v, run) → run.job.toNat % 64 = 0 →
      unitRead v run.job 64 run.cls none = (r, stOK, raw) →
        (batchCauses x raw = [] → runAborted x run = false →
          (u8At raw 13 ≠ 1 → serviceOf x run = none → exec (.batchLaunch q node) s =
            .next (checkBatch (spawnAll plan b.number (u32At raw 8) (u32At raw 8) x 0) b.number)) ∧
          (u8At raw 13 = 1 →
            let a := admittedRange x (wordAt raw 24) run.number run.cls
            let n := u32At raw 8 * a.2.2
            (serviceOf x run = none → exec (.batchLaunch q node) s =
              .next (checkBatch (spawnAll { plan with first := some a.2.1 } b.number n n a.1 0) b.number)) ∧
            ∀ y g arg, serviceOf x run = some (y, g, arg) → exec (.batchLaunch q node) s =
              .next (serviceBatch b (serviceTurn a.1 run y g arg) a.2.1 a.2.2 (u32At raw 8)))) ∧
        (batchCauses x raw ≠ [] → ∃ reason ∈ batchCauses x raw, ∃ u, u = { x with freeCtr := u.freeCtr } ∧
          exec (.batchLaunch q node) s = .next (endBatch (markBadPools u cs) b 2 reason))) ∧
    (∀ t, nextPooled s c.val = some t → (∃ p, p < 16 ∧ hasContext s c.val p t.cls = true) →
      ∃ p, p < 16 ∧ hasContext s c.val p t.cls = true ∧
        exec (.strandLoad c) s = .next (loadAnywhere s.bumpFree c.val t p))

/-- BRAMBLE_ENABLE is taken when the area is clear of managed memory and the solver area, else it sets BRC_ERR bit 0.
OPEN_INDEX, CLOSE_INDEX and DESTROY_INDEX change the index state and BRC_IDX_STAT as R210 says, with RESULT and index
number; a failed command sets BRC_ERR bit 2. An OPEN that creates an index for which the area has room leaves
generation 0 with empty buckets and an empty side list; where the parts stand is free (log 30). A CLOSE with a merge
or a held generation leaves the index CLOSING. Rests on R197, R210. -/
def Obligations.BrambleIndexCommands : Prop :=
  ∀ (s : State) (x : Fin 16), s.Inv →
    let ok := (bramSpan s).1 + (bramSpan s).2 ≤ s.fld Reg.tirT2Base 14 0 ∧
      (∀ c, c < 8 → spansMeet (bramSpan s) (poolSpan s c) = false) ∧
      spansMeet (bramSpan s) (s.fld Reg.slvArea 34 20, s.fld Reg.slvArea 14 0) = false
    (bramOn s = true ∨ ok → exec .brambleEnable s = .next (s.setBit Reg.brcCtl 0 true)) ∧
    (bramOn s = false → ¬ ok → exec .brambleEnable s = .next (s.setBit Reg.brcErr 0 true)) ∧
    (∀ r, r < 4 → let t := idxResult s x.val r
      t.fld Reg.brcIdxStat 39 32 = r ∧ t.fld Reg.brcIdxStat 43 40 = x.val ∧
      (∀ y, y < 16 → idxState t y = idxState s y) ∧ (r = 0 → t.reg Reg.brcErr = s.reg Reg.brcErr) ∧
      (r ≠ 0 → t.bit Reg.brcErr 2 = true) ∧ ∀ o, o ∉ [Reg.brcIdxStat, Reg.brcErr] → t.reg o = s.reg o) ∧
    (∀ v, v < 4 → let t := setIdxState s x.val v
      idxState t x.val = v ∧ (∀ y, y < 16 → y ≠ x.val → idxState t y = idxState s y) ∧
      ∀ o, o ≠ Reg.brcIdxStat → t.reg o = s.reg o) ∧
    (bramOn s = false ∨ idxState s x.val ∉ [0, 2] → exec (.openIndex x) s = .next (idxResult s x.val 1)) ∧
    (bramOn s = false ∨ idxState s x.val ≠ 1 → exec (.closeIndex x) s = .next (idxResult s x.val 1)) ∧
    (bramOn s = false ∨ idxState s x.val ≠ 2 → exec (.destroyIndex x) s = .next (idxResult s x.val 1)) ∧
    (bramOn s = true → idxState s x.val = 0 →
      (hdrOk s x.val = false → exec (.openIndex x) s = .next (idxResult s x.val 2)) ∧
      (hdrOk s x.val = true → areaLeft s < idxSpace s x.val → exec (.openIndex x) s = .next (idxResult s x.val 3)) ∧
      (hdrOk s x.val = true → idxSpace s x.val ≤ areaLeft s → exec (.openIndex x) s = .next (createIndex s x.val) ∧
        (∀ (u : State) (as : List Nat), s.Quiet → s.tier.media = [] → idxOf s x.val = none →
          placeAll ([sideCap s x.val * 128, 64, 8 * tileCount s x.val, 0] ++ List.replicate (tileCount s x.val) 4096) s
            (areaSpans s) [] = (u, some as) →
          let t := createIndex s x.val
          idxState t x.val = 1 ∧ t.fld Reg.brcIdxStat 39 32 = 0 ∧ t.fld Reg.brcIdxStat 43 40 = x.val ∧
          ∃ i, idxOf t x.val = some i ∧ i.head = 0 ∧ i.oldest = 0 ∧ i.side = [] ∧ i.merge = none ∧
            i.gens.map (fun g => (g.num, g.mpos, g.buckets)) = [(0, 0, [])]))) ∧
    (bramOn s = true → idxState s x.val = 2 →
      (hdrDigest s x.val = u32At (hdrBytes s x.val 16 4) 0 →
        exec (.openIndex x) s = .next (idxResult (setIdxState s x.val 1) x.val 0)) ∧
      (hdrDigest s x.val ≠ u32At (hdrBytes s x.val 16 4) 0 → exec (.openIndex x) s = .next (idxResult s x.val 2)) ∧
      exec (.destroyIndex x) s = .next (idxResult (setIdxState { s with bram := { s.bram with
        indexes := s.bram.indexes.filter (fun e => e.1 != x.val) } } x.val 0) x.val 0)) ∧
    (∀ i, bramOn s = true → idxState s x.val = 1 → idxOf s x.val = some i →
      (i.merge = none → (∀ g ∈ i.gens, g.holds = 0) → exec (.closeIndex x) s =
        .next (idxResult (setIdxState (setIdxState s x.val 3) x.val 2) x.val 0)) ∧
      (i.merge ≠ none ∨ (∃ g ∈ i.gens, g.holds ≠ 0) → exec (.closeIndex x) s = .next (setIdxState s x.val 3)))

/-- UPDATE_TAKE of a valid slot appends the entry with its sketch at HEAD, in its slot of the side list, writes the status
and clears VALID in the ring and increments the ring's buoy. MERGE_START takes the merge record when the buoy is ahead
and starts the merge or ends it with the failing status; MERGE_PUBLISH, where its parts find a place, writes the new
pages, the changed tiles, the root and the control records, makes the new generation current and frees what no query
holds. Rests on R201, R206, R211, R213, R223, R224, R225, R226. -/
def Obligations.UpdatesAndMerges : Prop :=
  (∀ (s : State) (x : Fin 16) (i : Index) (u : State) (e : List Byte),
      let ring := uringOf s x.val
      let slot := ring + BitVec.ofNat 64 (128 * (i.next % 4096))
      let body := if entTomb e then zeroBytes 80 ++ e.drop 80 else sketchOf u x.val (sliceB e 16 64) ++ e.drop 16
      let key : SideKey := ⟨i.head, entKey e, if entTomb e then 0 else entBucket (areaWrite u
        (i.sideAt + i.head % sideCap u x.val * 128) (entWith body i.head)) x.val body, entTomb e⟩
      let a := areaWrite u (i.sideAt + i.head % sideCap u x.val * 128) (entWith body i.head)
      let v := (count (syncHdr (a.modIdx x.val (fun i => { i with head := i.head + 1, side := i.side ++ [key] })) x.val)
        Reg.brcAppends 1).modIdx x.val (fun j => { j with next := j.next + 1 })
      idxOf s x.val = some i → bramOn s = true → unitRead s slot 128 3 none = (u, stOK, e) → entFe e / 2 ^ 25 % 2 = 1 →
      entEpoch e = i.next % 2 ^ 24 →
        (updateFaults u x.val i e = [] →
          exec (.updateTake x) s = .next (bumpTo (unitPut (unitPut v
            (ring + BitVec.ofNat 64 (0x81000 + 8 * (i.next % 4096))) (leBytes 8 (i.head % 2 ^ 48)))
            (slot + 88) (leBytes 4 (entFe e - 2 ^ 25))) (ring + 0x80010) true 3)) ∧
        (∀ st, updateFaults u x.val i e = [st] →
          exec (.updateTake x) s = .next (bumpTo (unitPut (unitPut (u.modIdx x.val (fun j => { j with next := j.next + 1 }))
            (ring + BitVec.ofNat 64 (0x81000 + 8 * (i.next % 4096))) (leBytes 8 (st * 2 ^ 56)))
            (slot + 88) (leBytes 4 (entFe e - 2 ^ 25))) (ring + 0x80010) false 3))) ∧
  (∀ (s : State) (x : Fin 16) (i : Index) (g : Gen) (gs : List Gen), idxOf s x.val = some i → i.gens = g :: gs →
      (let ring := uringOf s x.val
       let d := ((countsOf s (ring + 0x80018)).1 + 2 ^ 48 - i.taken) % 2 ^ 48
       let u := s.modIdx x.val (fun i => { i with taken := (i.taken + 1) % 2 ^ 48 })
       let r := unitRead u (ring + 0x90000) 64 3 none
       let w := mergeWork r.1 x.val i g r.2.2
       bramOn s = true → idxState s x.val = 1 → i.merge = none → 0 < d → d < 2 ^ 47 →
        (r.2.1 ≠ stOK → exec (.mergeStart x) s = .next (mergeEnd r.1 x.val (zeroBytes 64) 1 0 [])) ∧
        (r.2.1 = stOK →
          (∀ m, w.2 = .ok m → exec (.mergeStart x) s = .next (w.1.modIdx x.val (fun i => { i with merge := some m }))) ∧
          (∀ st, w.2 = .fail st → exec (.mergeStart x) s = .next (mergeEnd w.1 x.val r.2.2 st 0 [])))) ∧
      (∀ (m : Merge) (p : State) (as : List Nat), i.merge = some m →
        placeAll ([64, 8 * m.gen.tiles.length, 16 * m.gen.ctl.length] ++ (changedTiles m).map (fun _ => 4096)) s
          (areaSpans s) [] = (p, some as) →
        let tiles := ((changedTiles m).zip (as.drop 3)).foldl (fun l e => l.set e.1 e.2) m.gen.tiles
        let gen := { m.gen with addr := as.getD 0 0, root := as.getD 1 0, ctlAt := as.getD 2 0, tiles := tiles }
        let u := writeGen (m.new.foldl (writePages x.val m.gen.num) p) gen (changedTiles m)
        let pages := (m.new.map (fun b => ceilDiv b.1.entries 127)).foldl (· + ·) 0
        let v := u.modIdx x.val (fun i => { i with
          gens := gen :: i.gens, merge := none, blocks := i.blocks ++ [⟨m.gen.num, pages, m.blocks⟩] })
        exec (.mergePublish x) s = .next (mergeEnd (freeGens v x.val) x.val m.raw 0 m.gen.num m.counts)))

/-- QUERY_BATCH_LAUNCH refuses a batch that fails checks, with the reason of one of them (free, log 9), and admits every
query of one that passes in one step. SEARCH and FETCH run the query against its snapshot, or end it as refused with
reason 3 when its descriptor could not be read; SHARD_PART answers another node's probes, with UNCORRECTABLE where the
side list cannot be read; SHARD_REPLY adds the node's items or marks its probes failed; QUERY_COMPLETE and QUERY_ABORT
write the query's header with its status. Rests on R215, R216, R217, R218, R219, R220, R228, R229. -/
def Obligations.QueriesAreAdmittedRunAndEnd : Prop :=
  (∀ (s v : State) (q : Fin 16) (node : Nat) (run : Run), takeLaunch s q.val node [6] = some (v, run) →
      let r := unitRead (obsStart v 188 run) run.job 64 run.cls none
      let raw := r.2.2
      let b : QBatch :=
        { number := r.1.bram.nextBatch, run := run, report := if r.2.1 = stOK then wordAt raw 24 else 0, start := r.1.now,
          queries := [], ok := 0, incomplete := 0, refused := 0, unwritten := 0, aborted := 0 }
      let x := { r.1 with bram := { r.1.bram with
        nextBatch := r.1.bram.nextBatch + 1, batches := r.1.bram.batches ++ [b] } }
      let codes := qbatchCauses x run.job (r.2.1 == stOK) raw
      (codes ≠ [] → ∃ reason ∈ codes, ∃ u, u = { x with freeCtr := u.freeCtr } ∧
        exec (.queryBatchLaunch q node) s = .next (endQBatch u b 2 reason)) ∧
      (codes = [] →
        let a := queryAddrs x run raw
        let u := a.2.foldl (fun (u : State × List Query) a =>
          ((admitQuery u.1 run.cls a).1, u.2 ++ [(admitQuery u.1 run.cls a).2])) (a.1, [])
        u.2 ≠ [] → (∀ q ∈ u.2, q.status = 0) →
          let w := u.2.zipIdx.foldl (fun s e => askQdesc s run.cls b.number e.2 e.1) (u.1.setQBatch { b with queries := u.2 })
          (∃ d, qbatchOf w b.number = some d ∧ d.queries ≠ [] ∧ ∃ q ∈ d.queries, q.status ≠ 3) →
          exec (.queryBatchLaunch q node) s = .next w)) ∧
  (∀ (s : State) (n j : Nat) (b : QBatch) (q : Query), qbatchOf s n = some b → b.queries[j]? = some q → q.status = 0 →
      (runAborted s b.run = false → q.searched = false → ∀ (st : Nat) (d : List Byte), q.desc = some (st, d) →
        let r := runQuery s b q d
        let c := if q.fetch then Instr.fetch n j else Instr.search n j
        (st = stOK → exec c s = .next (chargeDomain s b.run.dom (r.1.setQuery b j r.2))) ∧
        (st ≠ stOK → exec c s = .next (finishQuery s n j { q with status := 3, reason := 3 }))) ∧
      (q.searched = true → q.parts = [] → exec (.queryComplete n j) s = .next (finishQuery s n j { q with
        status := if q.chanFail = 0 ∧ q.probeFail = [] ∧ q.nodeFail = [] ∧ q.sideFail = false then 1 else 2 })) ∧
      (runAborted s b.run = true → exec (.queryAbort n j) s = .next (finishQuery s n j { q with
        status := 4, cands := [], parts := [], found := 0, passed := 0, pages := 0, chanFail := 0, nodeFail := [],
        probeFail := [], sideFail := false })) ∧
      (∀ (p : Part) (node : BitVec 10) (st : Byte) (failed : List Nat) (pages passed found : Nat) (items : List ShardItem),
        q.parts.find? (fun p => p.node == node.toNat) = some p →
          (st = 0 → exec (.shardReply n j node st failed pages passed found items) s = .next (s.setQuery b j { q with
            parts := q.parts.filter (fun r => r.tag != p.tag)
            cands := sortBy candBefore (q.cands ++ items.map (fun t => ⟨t.dist, t.sdist, t.side, p.node, t.entry⟩))
            pages := q.pages + pages, passed := q.passed + passed, found := q.found + found
            probeFail := q.probeFail ++ failed.map (fun f => p.probes.getD f 0) })) ∧
          (st ≠ 0 → exec (.shardReply n j node st failed pages passed found items) s = .next (s.setQuery b j { q with
            parts := q.parts.filter (fun r => r.tag != p.tag), nodeFail := q.nodeFail ++ [p.node]
            probeFail := q.probeFail ++ p.probes }))) ∧
      (∀ (req : ShardRequest) (i : Index) (g : Gen), idxOf s req.index.toNat = some i → i.gens.head? = some g →
        bramOn s = true → idxState s req.index.toNat = 1 → u32At (hdrBytes s req.index.toNat 16 4) 0 = req.digest.toNat →
          let r := searchLocal s req.index.toNat req.cls.toNat g i.head
            ⟨req.mode, req.sketch, req.desc, req.thresh, req.maxdist, req.kmask, req.kmatch⟩
            (req.probes.zipIdx.map (fun e => (e.2, e.1)))
          (r.2.sideBad = false → ∃ a, exec (.shardPart req) s =
              .next { r.1 with bram := { r.1.bram with answers := a :: r.1.bram.answers } } ∧
            a.node = req.node.toNat ∧ a.tag = req.tag.toNat ∧ a.status = stOK ∧ a.found = r.2.found ∧
            a.failed = r.2.failed ∧ a.pages = r.2.pages ∧ a.passed = r.2.passed ∧
            a.items = (r.2.cands.take req.count).map (fun c => ⟨c.dist, c.sdist, c.side, c.entry⟩)) ∧
          (r.2.sideBad = true → exec (.shardPart req) s = .next { r.1 with bram := { r.1.bram with
            answers := ⟨req.node.toNat, req.tag.toNat, stUNCORRECTABLE, [], 0, 0, 0, []⟩ :: r.1.bram.answers } })))

/-- CHANNEL_FAILED sets FAILED and the error bit of its channel and raises source 65 + 2n; DIE_FAILED marks the die, and
its channel when both dies have failed; PROGRAM_RESUME resumes the die's suspended operation and shows whether the
channel still has one. Rests on R137, R230, R232. -/
def Obligations.FlashChannelsAndDiesFail : Prop :=
  ∀ (s : State) (ch : Fin 16) (die : Fin 2), s.Inv →
    let c := ch.val
    let gone := fun (s : State) => (s.setBit (Reg.brmStat c) 0 true).setBit (Reg.brmErr c) 3 true
    (channelFailed s c = false → ∃ t, exec (.channelFailed ch) s = .next t ∧ State.Signals (gone s) t ∧
      t.bit (Reg.intPend ((65 + 2 * c) / 64)) ((65 + 2 * c) % 64) = true) ∧
    (s.bit (Reg.brmStat c) (1 + die.val) = false →
      let u := (s.setBit (Reg.brmStat c) (1 + die.val) true).setBit (Reg.brmErr c) 1 true
      (s.bit (Reg.brmStat c) (2 - die.val) = false →
        ∃ t, exec (.dieFailed ch die) s = .next t ∧ State.Signals u t) ∧
      (s.bit (Reg.brmStat c) (2 - die.val) = true → channelFailed s c = false →
        ∃ t, exec (.dieFailed ch die) s = .next t ∧ State.Signals (gone u) t)) ∧
    (let left := s.bram.suspended.filter (· != (c, die.val))
     exec (.programResume ch die) s = .next { s.setBit (Reg.brmStat c) 3 (left.any (fun e => e.1 == c)) with
       bram := { s.bram with suspended := left } })

/-- NOW_READ copies N, F and the Tabnum form of the same N into the four registers and changes nothing else. TIME_STEP
adds to the pending step; STEP_APPLY adds it after the tick's increment, never below 0, leaves F, clears the sum of
offsets, sets STEPPED and, for a negative step, the Lamp's status bit. INC_WRITE takes a rate in range and limits any
other, setting INC_CLAMP. Rests on R316, R318, R321, R322, R323. -/
def Obligations.TimeCounterIsReadAndStepped : Prop :=
  ∀ (s : State) (d v : Word),
    (s.Inv → ∃ t, exec .nowRead s = .next t ∧ t = { s with regs := t.regs } ∧
      t.reg Reg.timNowLo = BitVec.ofNat 64 s.tim.n ∧
      t.reg Reg.timNowHi = BitVec.ofNat 64 (s.tim.n / 2 ^ 64 + s.tim.f * 2 ^ 32) ∧
      t.reg Reg.timTabS = BitVec.ofNat 64 (s.tim.n / 10 ^ 9) ∧ t.reg Reg.timTabNs = BitVec.ofNat 64 (s.tim.n % 10 ^ 9) ∧
      ∀ o, o ∉ [Reg.timNowLo, Reg.timNowHi, Reg.timTabS, Reg.timTabNs] → t.reg o = s.reg o) ∧
    exec (.timeStep d) s = .next { s with tim := { s.tim with step := some (s.tim.step.getD 0 + d.toInt) } } ∧
    (∀ x : Int, s.tim.step = some x → s.tim.running = true → s.bit Reg.lmpCtl 0 = false → s.Inv →
      let c := timeAfter s.tim.n s.tim.f (s.fld Reg.timInc 39 0) 1
      let u := { s with tim := { s.tim with n := stepN c.1 x, f := c.2, ticks := s.tim.ticks + 1, step := none, sum := 0 } }
      ∃ t, exec .stepApply s = .next t ∧ t.tim = u.tim ∧ t.mem = s.mem ∧ t.lamp = s.lamp ∧ t.bit Reg.timStatus 2 = true ∧
        (x < 0 → t.bit Reg.lmpStatus 2 = true) ∧
        ∀ o, sigReg o = false → o ∉ [Reg.timStatus, Reg.lmpStatus] → t.reg o = s.reg o) ∧
    (s.Inv → ∃ t u, exec (.incWrite v) s = .next t ∧ u = { s with regs := u.regs } ∧ State.Signals u t ∧
      (∀ o, o ∉ [Reg.timInc, Reg.timErr] → u.reg o = s.reg o) ∧
      t.fld Reg.timInc 39 0 = (if bitsOf v 39 0 < 0x07FF000000 then 0x07FF000000
        else if 0x0801000000 < bitsOf v 39 0 then 0x0801000000 else bitsOf v 39 0) ∧
      (bitsOf v 39 0 < 0x07FF000000 ∨ 0x0801000000 < bitsOf v 39 0 → t.bit Reg.timErr 2 = true) ∧
      (0x07FF000000 ≤ bitsOf v 39 0 ∧ bitsOf v 39 0 ≤ 0x0801000000 → t.reg Reg.timErr = s.reg Reg.timErr))

/-- ROLE_WRITE starts a new discipline or only takes the uplink. An exchange on a slave's uplink is answered and stamped,
and one that comes back to the side that sent it is stamped; the result of the exchange stamped here sets DELAY and
OFFSET and steps or slews by R326; 16 edges without an exchange clear SYNC. An accepted PPS edge is stamped and
disciplines a PPS master; a glitch only sets its error. PPS_OUT starts at a second while it is due and ends 100 us
later; a transmitted event's stamp goes to its register, or into the message of a one-step port; with the ports off
nothing is stamped. Halves are rounded to either neighbour (log 18). Rests on R324, R325, R326, R327, R328, R329,
R331. -/
def Obligations.TimeRolesPulsesAndExchanges : Prop :=
  (∀ (s : State) (role : BitVec 2) (up : Fin 8) (pkt : Packet) (t1 t2 t3 t4 : Nat), s.Inv →
      (role.toNat ≠ s.fld Reg.timCtl 1 0 → ∃ t, exec (.roleWrite role up) s = .next t ∧
        t.fld Reg.timCtl 1 0 = role.toNat ∧ t.fld Reg.timCtl 6 4 = up.val ∧ t.bit Reg.timStatus 0 = false ∧
        t.tim = { s.tim with
          inc0 := s.fld Reg.timInc 39 0, good := 0, edges := 0
          ppsOut := s.tim.ppsOut && s.bit Reg.timCtl 7 && s.bit Reg.timCtl 8 } ∧ t.mem = s.mem) ∧
      (role.toNat = s.fld Reg.timCtl 1 0 → ∃ t, exec (.roleWrite role up) s = .next t ∧
        t = { s with regs := t.regs, tim := { s.tim with
          ppsOut := s.tim.ppsOut && (s.bit Reg.timCtl 7 && (s.bit Reg.timStatus 0 || s.bit Reg.timCtl 8)) } } ∧
        t.fld Reg.timCtl 6 4 = up.val ∧ ∀ o, o ≠ Reg.timCtl → t.reg o = s.reg o) ∧
      (linkState s up.val = 2 → pState s < 2 → pkt.ptype = 0x20 →
        ¬ (s.fld Reg.timCtl 1 0 = 3 ∧ s.fld Reg.timCtl 6 4 = up.val) → (s.tim.sentAt.any (·.1 == up.val)) = true →
          exec (.exchangeReceive up pkt) s = .next { s with tim := { s.tim with
            backAt := (up.val, halfNs s) :: s.tim.backAt.filter (·.1 != up.val) } }) ∧
      (s.fld Reg.timCtl 1 0 = 3 →
        (s.fld Reg.timCtl 6 4 = up.val → linkState s up.val = 2 → pState s < 2 → pkt.ptype = 0x20 →
          exec (.exchangeReceive up pkt) s =
            .next (transmit { s with tim := { s.tim with got := some (halfNs s, halfNs s) } } up.val { pkt with src := BitVec.ofNat 10 s.node, dst := pkt.src, hops := 0 } false)) ∧
        (s.tim.edges < 16 → exec .exchangeLoss s = .next s) ∧
        (16 ≤ s.tim.edges → ∃ t, exec .exchangeLoss s = .next t ∧ t.bit Reg.timErr 1 = true ∧ t.bit Reg.timStatus 0 = false ∧
          t.tim = { s.tim with
            edges := 0, ppsOut := s.tim.ppsOut && (!s.bit Reg.timStatus 0
            || (s.bit Reg.timCtl 7 && s.bit Reg.timCtl 8)) } ∧ t.mem = s.mem) ∧
        (pState s < 2 → linkState s (s.fld Reg.timCtl 6 4) = 2 → stampedHere s t2 t3 = true →
          let a : Int := (t2 : Int) - t1
          let b : Int := (t4 : Int) - t3
          ∃ (t : State) (delay th h : Int), exec (.exchangeResult t1 t2 t3 t4) s = .next t ∧
            (2 * delay - (a + b)).natAbs ≤ 1 ∧ (2 * th - (a - b)).natAbs ≤ 1 ∧ (2 * h - th).natAbs ≤ 1 ∧
            t.tim.edges = 0 ∧ t.tim.got = none ∧ t.fld Reg.timDelay 31 0 = codeN 32 delay ∧ t.fld Reg.timOffset 31 0 = codeN 32 th ∧
            let far := s.bit Reg.timStatus 0 = false ∧ 2 * s.fld Reg.timServo 15 0 < th.natAbs
            (far → t.tim.step = some (s.tim.step.getD 0 - h) ∧ t.tim.sum = 0 ∧
              t.fld Reg.timInc 39 0 = s.fld Reg.timInc 39 0) ∧
            (¬ far → t.tim.step = s.tim.step ∧ t.tim.sum = s.tim.sum + th ∧
              (t.fld Reg.timInc 39 0 : Int) = clampI ((s.tim.inc0 : Int)
                - divTrunc ((16 * th + (s.tim.sum + th)) * 2 ^ 27) (lampPeriod s)) incMin incMax) ∧
            (2 * s.fld Reg.timServo 47 32 < th.natAbs → t.bit Reg.timStatus 0 = false)))) ∧
  (∀ (s : State) (port : Fin 2) (id : BitVec 16) (frame : List Byte), s.Inv →
      let glitch := ∃ k, s.tim.ppsLast = some k ∧ s.tim.ticks < k + 62500000
      (glitch → ∃ t, exec .ppsEdge s = .next t ∧ t.tim = s.tim ∧ t.bit Reg.timErr 3 = true ∧
        t.reg Reg.timPpsStamp = s.reg Reg.timPpsStamp) ∧
      (¬ glitch → s.fld Reg.timCtl 1 0 ≠ 1 → exec .ppsEdge s =
        .next { s.setReg Reg.timPpsStamp (BitVec.ofNat 64 s.now) with tim := { s.tim with ppsLast := some s.tim.ticks } }) ∧
      (¬ glitch → s.fld Reg.timCtl 1 0 = 1 → ∃ t, exec .ppsEdge s = .next t ∧
        t.reg Reg.timPpsStamp = BitVec.ofNat 64 s.now ∧ t.tim.ppsLast = some s.tim.ticks ∧
        t.fld Reg.timOffset 31 0 = codeN 32 (2 * ppsTheta s.now (s.fld Reg.timPpsOffset 29 0))) ∧
      (s.bit Reg.timCtl 7 = true → (s.bit Reg.timStatus 0 = true ∨ s.bit Reg.timCtl 8 = true) → s.tim.step = none →
        (s.tim.n % 1000000000 < 8 → s.tim.running = true → exec .ppsOutStart s =
          .next { s with tim := { s.tim with ppsOut := true, ppsAt := s.tim.ticks } }) ∧
        (8 ≤ s.tim.n % 1000000000 →
          let u := runTo s ((s.tim.n / 1000000000 + 1) * 1000000000)
          exec .ppsOutStart s = .next (if u.tim.n % 1000000000 < 8 ∧ u.tim.running = true
            then gatePps { u with tim := { u.tim with ppsOut := true, ppsAt := u.tim.ticks } } else u))) ∧
      (s.bit Reg.timCtl 7 = false ∨ (s.bit Reg.timStatus 0 = false ∧ s.bit Reg.timCtl 8 = false) →
        exec .ppsOutStart s = .next s) ∧
      (s.tim.ppsOut = false → exec .ppsOutEnd s = .next s) ∧
      (s.tim.ppsOut = true → let u := runTicks s (s.tim.ppsAt + 12500)
        exec .ppsOutEnd s = .next { u with tim := { u.tim with ppsOut := false } }) ∧
      (portsOn s = true → (∃ t u, exec (.ptpTxStamp port (.twoStep id)) s = .next t ∧ u = { s with regs := u.regs } ∧
        State.Signals u t ∧ (∀ o, o ∉ [Reg.timEthTx port.val, Reg.timErr] → u.reg o = s.reg o) ∧
        t.bit Reg.timErr 4 = true ∧
        t.reg (Reg.timEthTx port.val) = BitVec.ofNat 64 (s.tim.n % 2 ^ 48 + id.toNat * 2 ^ 48)) ∧
        exec (.ptpTxStamp port (.oneStep frame)) s = .next { s with tim := { s.tim with
          oneStep := (port.val, oneStepFrame frame s.tim.n) :: s.tim.oneStep } }) ∧
      (portsOn s = false → ∀ m, exec (.ptpTxStamp port m) s = .next s))

/-- A launch from a node or a slot takes the run and puts it into its unit's queue in its order when the queue holds fewer
than 64; a full queue stalls the node. SLOT_ENABLE sets EN, clears the slot's status and takes the LAUNCH count as its
baseline; SLOT_DISABLE clears EN only. Rests on R256, R257, R291, R305, R335, R336. -/
def Obligations.RunsAndSlotsEnter : Prop :=
  (∀ (s : State) (q : Fin 16) (node : BitVec 8) (g : Graph) (n : NodeDesc),
      (∀ (u : State) (run : Run),
        let t := visEnter s n.job g.cls
        peekLaunch s q.val node.toNat [2] = some (g, n) → (visQueue t.1 t.2.1).length < 64 →
        takeLaunch t.1 q.val node.toNat [2] = some (u, run) →
          exec (.visionLaunch (.node q node)) s =
            .next (u.setVisQueue t.2.1 (insertBy qBefore (t.2.2 u run) (visQueue u t.2.1)))) ∧
      (∀ (u : State) (run : Run), s.fus.queue.length < 64 → takeLaunch s q.val node.toNat [3] = some (u, run) →
          exec (.fusionLaunch q node.toNat) s = .next { u with fus := { u.fus with
            queue := insertBy qBefore (enterRun u run 0 0 0 []) u.fus.queue } }) ∧
      (∀ (u : State) (run : Run), s.slv.queue.length < 64 → takeLaunch s q.val node.toNat [4] = some (u, run) →
          exec (.solverLaunch (.node q node)) s = .next ((slvEnter u run).1.queueSlv (slvEnter u run).2)) ∧
      (let full := s.modNode q.val g.gid node.toNat (fun n => { n with full := true, fullAt := s.now })
       let stalled := stallNode full q.val g.gid node.toNat 2
       (peekLaunch s q.val node.toNat [3] = some (g, n) → 64 ≤ s.fus.queue.length → n.full = false →
          exec (.fusionLaunch q node.toNat) s = .next stalled) ∧
       (peekLaunch s q.val node.toNat [4] = some (g, n) → 64 ≤ s.slv.queue.length → n.full = false →
          exec (.solverLaunch (.node q node)) s = .next stalled)) ∧
      (∀ (i : BitVec 4), slotAhead s (visSlot i.toNat) (s.vis.slots.getD i.toNat ⟨0, false, 0⟩) = true →
        let k := s.vis.slots.getD i.toNat ⟨0, false, 0⟩
        let run := slotRun s (visSlot i.toNat) i.toNat k
        let t := visEnter s run.job run.cls
        let u := { t.1 with vis := { t.1.vis with slots := t.1.vis.slots.set i.toNat k.take } }
        (visQueue t.1 t.2.1).length < 64 →
          exec (.visionLaunch (.slot i)) s =
            .next (u.setVisQueue t.2.1 (insertBy qBefore (t.2.2 u run) (visQueue u t.2.1)))) ∧
      (∀ (i : BitVec 4), i.toNat < 8 → slotAhead s (slvSlot i.toNat) (s.slv.slots.getD i.toNat ⟨0, false, 0⟩) = true →
        let k := s.slv.slots.getD i.toNat ⟨0, false, 0⟩
        let u := { s with slv := { s.slv with slots := s.slv.slots.set i.toNat k.take } }
        let t := slvEnter u (slotRun u (slvSlot i.toNat) i.toNat k)
        s.slv.queue.length < 64 → exec (.solverLaunch (.slot i)) s = .next (t.1.queueSlv t.2))) ∧
  (∀ (s : State) (slot : SlotRef),
      let o := slotJobReg slot
      let u := s.setReg o ((s.reg o ||| 1) &&& ~~~0x78)
      (s.bit o 0 = true → exec (.slotDisable slot) s = .next (s.setBit o 0 false)) ∧
      (s.bit o 0 = false → exec (.slotEnable slot) s = .next (match slot with
        | .vis n => { u with vis := { u.vis with slots := u.vis.slots.set n.val ⟨slotCount u (visSlot n.val), false, 0⟩ } }
        | .slv n => { u with slv := { u.slv with slots := u.slv.slots.set n.val ⟨slotCount u (slvSlot n.val), false, 0⟩ } })))

/-- VISION_RUN_TAKE, FUSION_TAKE and SOLVER_RUN_TAKE, on an idle unfenced unit, take the run their queue order gives, read
its record and start it; a vision record that fails checks ends as refused with the reason of one of them (free, log
9). Rests on R257, R266, R305, R308, R336, R337, R340. -/
def Obligations.UnitsTakeTheirRuns : Prop :=
  ∀ (s : State) (r : QRun) (rest : List QRun),
    (∀ e : Fin 8,
      let block := decide (4 ≤ e.val)
      let u := obsStart (s.setVisQueue block rest) (136 + e.val) r.run
      let d := unitRead u r.run.job 128 r.run.cls none
      let codes := visCauses d.1 block r.run.job d.2.2
      let j : UJob := ⟨r, u.now, [d.2.2], 0, u.now, 0, true, none, d.1.snap⟩
      (visEngine s e.val).run = none → (visEngine s e.val).susp = [] → unitFenced s (136 + e.val) = false →
      pickRun (QRun.eligible s (136 + e.val)) (visQueue s block) = some (r, rest) →
      r.run.job.toNat % 128 = 0 → addrOk u r.run.job 128 = true → d.2.1 = stOK → runAborted d.1 r.run = false →
      r.waits d.1 = .go → visType d.2.2 ≠ 1 ∨ u8At d.2.2 57 = 0 →
        (codes = [] → exec (.visionRunTake e) s = .next (d.1.modVis e.val (fun k => { k with run := some j }))) ∧
        (codes ≠ [] → ∃ reason ∈ codes, ∃ v, v = { d.1 with freeCtr := v.freeCtr } ∧
          exec (.visionRunTake e) s = .next (endVis v e.val j 2 0 reason .none))) ∧
    (let u := obsStart { s with fus := { s.fus with queue := rest } } 146 r.run
     let d := unitRead u r.run.job 128 r.run.cls none
     ∀ (v : State) (k : FusIn) (t : Target),
      s.fus.eng.run = none → s.fus.eng.susp = [] → unitFenced s 146 = false → s.fus.queue = r :: rest →
      fusAddr u r.run.job 128 = true → d.2.1 = stOK → runAborted d.1 r.run = false →
      readFus d.1 r.run.cls d.2.2 = (v, .ok k) → fusTarget v k = some t →
        exec .fusionTake s = .next (v.modFus (fun e => { e with
          run := some ⟨r, d.1.now, k.pack, 0, d.1.now, 0, true, some t, d.1.snap⟩ }))) ∧
    (∀ u : Fin 2,
      let v := obsStart { s with slv := { s.slv with queue := rest } } (144 + u.val) r.run
      let d := unitRead v r.run.job 128 r.run.cls none
      let held := heldSids (slvUnit s (1 - u.val))
      (slvUnit s u.val).run = none → (slvUnit s u.val).susp = [] → unitFenced s (144 + u.val) = false →
      pickRun (fun r => r.eligible s (144 + u.val) && !r.sids.any held.contains) s.slv.queue = some (r, rest) →
      r.run.job.toNat % 128 = 0 → addrOk v r.run.job 128 = true → d.2.1 = stOK → runAborted d.1 r.run = false →
      r.waits d.1 = .go → slvOn d.1 = true → slvCauses d.1 true d.2.2 = [] →
        exec (.solverRunTake u) s = .next (d.1.modSlv u.val (fun e => { e with
          run := some ⟨r, v.now, [d.2.2], 0, d.1.now, 0, true, none, v.snap⟩ })))

/-- DETECT, MATCH_FEATURES, STEREO and FLOW do the work of their record, charge its domain and end the run with status,
match state and outputs, sampling the result when the checks ask; FUSION_END fuses what the job held of its sources
when it was taken, at its target, and ends it. The outputs are written in one command (NOTES.md, Assumptions). Rests
on R262, R267, R311, R435, R437. -/
def Obligations.VisionAndFusionRunsEnd : Prop :=
  (∀ (s : State) (e : Fin 8) (j : UJob), (visEngine s e.val).run = some j → runAborted s j.q.run = false →
      ∀ c ∈ [(Instr.detect e, 1, runDetect), (.matchFeatures e, 2, runMatch), (.stereo e, 3, runStereo), (.flow e, 4, runFlow)],
        visType j.raw = c.2.1 →
          let r := c.2.2 s j.old j.q.run.cls j.raw
          let k := { j with slices := j.slices + 1 }
          let t := endVis ((chargeDomain s j.q.run.dom r.1).clearVis e.val) e.val k r.2.status r.2.mst 0 r.2.out
          let x := sampleResult t (136 + e.val) 1 c.2.1 (visFirst j.raw) (crc32 r.2.out.bytes).toNat j.start 0 0 []
            (some { k with old := ⟨[], []⟩ }) none
          exec c.1 s = .next (if r.2.status = 1 then postChecks x.1 x.2.toList else t)) ∧
  (∀ (s : State) (j : UJob), s.fus.eng.run = some j →
      let u := s.modFus (fun e => { e with run := none })
      (runAborted s j.q.run = true → exec .fusionEnd s = .next (endFus u j 5 0 [])) ∧
      (∀ t, runAborted s j.q.run = false → j.target = some t →
        exec .fusionEnd s = .next (chargeDomain s j.q.run.dom (fuseJob u j (unpackFus j.raws) t))) ∧
      (∀ f : FusIn, f.srcs.length = fusSources f.raw → f.cals.length = fusSources f.raw → unpackFus f.pack = f))

/-- SLICE_BOUNDARY of a vision engine counts the slice and goes on with its run when no queued eligible run is of higher
class, and else suspends it and takes the other; a solver unit with an empty queue and no deadline passed, and the
fusion engine with an empty queue, go on. Rests on R258, R336, R352. -/
def Obligations.SlicesKeepOrYield : Prop :=
  ∀ (s : State) (j : UJob),
    (∀ e : Fin 8, (visEngine s e.val).run = some j → runAborted s j.q.run = false →
      (∀ k ∈ (visEngine s e.val).susp, runAborted s k.q.run = false) → s.vis.engines.length = 8 →
        let block := decide (4 ≤ e.val)
        let u := s.modVis e.val (fun k => { k with run := some { j with slices := j.slices + 1 } })
        unitFenced u (136 + e.val) = false →
        (pickRun (QRun.eligible u (136 + e.val)) (visQueue u block) = none →
          exec (.sliceBoundary (.vision e)) s = .next u) ∧
        ∀ r rest, pickRun (QRun.eligible u (136 + e.val)) (visQueue u block) = some (r, rest) →
          (j.q.run.cls ≤ r.run.cls → exec (.sliceBoundary (.vision e)) s = .next u) ∧
          (r.run.cls < j.q.run.cls → exec (.sliceBoundary (.vision e)) s =
            .next (takeVis ((obsSlice (u.modVis e.val (·.suspend)) (136 + e.val) 0x06 j.q.run).setVisQueue block rest)
              e.val r))) ∧
    (∀ u : Fin 2, (slvUnit s u.val).run = some j → runAborted s j.q.run = false →
      (slvUnit s u.val).susp = [] → s.slv.units.length = 2 → s.slv.queue = [] →
      (slvDeadline j.current = 0 ∨ s.now < slvDeadline j.current) →
        exec (.sliceBoundary (.solver u)) s =
          .next (s.modSlv u.val (fun k => { k with run := some { j with slices := j.slices + 1 } }))) ∧
    (s.fus.eng.run = some j → runAborted s j.q.run = false → s.fus.eng.susp = [] → s.fus.queue = [] →
      exec (.sliceBoundary .fusion) s = .next s)

/-- SOLVER_ENABLE is taken when its area is clear of managed memory and the Bramble area (with no structure held, log 45),
else it sets SLV_ERR bit 5 and raises source 164. LOAD, DROP, SOLVE and the four BODY modes do the work of their
record, charge the domain and go on to the next record with its status, reason and outputs; a result is sampled when
the checks ask. Rests on R335, R340, R341, R343, R344, R360, R361. -/
def Obligations.SolverRecordsDoTheirWork : Prop :=
  (∀ s : State,
      let area := slvSpan s
      let ok := area.1 + area.2 ≤ s.fld Reg.tirT2Base 14 0 ∧ (∀ c, c < 8 → spansMeet area (poolSpan s c) = false) ∧
        spansMeet area (s.fld Reg.brcArea 34 20, s.fld Reg.brcArea 14 0) = false
      slvOn s = false →
        (ok → exec .solverEnable s = .next { (s.setBit Reg.slvCtl 0 true) with slv := { s.slv with structs := [] } }) ∧
        (¬ ok → ∃ t, exec .solverEnable s = .next t ∧ t = sticky s Reg.slvErr 5 (some 164) ∧ (s.Inv → slvOn t = false))) ∧
  (∀ (s : State) (u : Fin 2) (j : UJob), (slvUnit s u.val).run = some j → runAborted s j.q.run = false →
      ∀ c ∈ [(Instr.load u, 1, none, fun s j => runLoad s j.q.run.cls j.current),
          (.dropStructure u, 2, none, fun s j => runDrop s j.q.run.cls j.current), (.solve u, 3, none, runSolve),
          (.bodyFk u, 4, some 0, runFk), (.bodyId u, 4, some 1, runId), (.bodyFd u, 4, some 2, runFd),
          (.bodyIk u, 4, some 3, runIk)],
        slvType j.current = c.2.1 → (∀ m, c.2.2.1 = some m → slvMode j.current = m) →
          let r := c.2.2.2 s j
          let v := chargeDomain s j.q.run.dom r.1
          (r.2.crc = none →
            exec c.1 s = .next (nextRecord (postChecks v []) u.val j r.2.status r.2.mst r.2.reason r.2.out)) ∧
          ∀ crc, r.2.crc = some crc →
            let x := sampleResult v (144 + u.val) 2 c.2.1 (wordAt j.current 48) crc j.start 0 0 [] (some { j with old := ⟨[], []⟩ })
              (structOf s (slvSid j.current))
            exec c.1 s = .next (nextRecord (postChecks x.1 x.2.toList) u.val j r.2.status r.2.mst r.2.reason r.2.out))

/-- A LOAD of a well-formed LSQ or body structure whose deltas are valid adds it, with the deltas applied, under its ID
with status OK when fewer than 256 are loaded and it fits into the area (the bytes it takes are an uninterpreted
function, log 41; what the area then holds is free, log 194), and is refused with reason 7 otherwise. A DROP whose
deltas pass ends with OK, its structure is gone and every other is kept; one whose deltas do not pass ends as their
check says. Rests on R343, R344. -/
def Obligations.StructuresAreLoadedAndDropped : Prop :=
  ∀ (s : State) (cls : Nat) (raw : List Byte),
    (∀ (d h v : State) (es : List (List Byte)) (bytes : List Byte) (st : Struct),
      let new := es.foldl applyDelta st
      let fill := fillCount (fillPattern new.pattern)
      let words := (new.facs.map (·.params.length)).foldl (· + ·) 0
      let size := Config.solverBytes new.body (new.blks.length + new.joints.length) new.facs.length words fill
      let r := runLoad s cls raw
      readDeltas s cls raw = (d, stOK, es) → es.any (deltaBadAlone false) = false →
      unitRead d (wordAt raw 32) 64 cls none = (h, stOK, bytes) →
      u8At bytes 0 ≤ 1 → allZero (sliceB bytes 1 3) = true → u32At bytes 12 = 0 → u64At bytes 56 = 0 →
      (if u8At bytes 0 = 0 then readLsq h cls bytes (slvSid raw) else readBody h cls bytes (slvSid raw)) =
        (v, stOK, some st) → es.any (deltaBad st false) = false →
        if v.slv.structs.length < 256 ∧ (v.slv.structs.map (·.bytes)).foldl (· + ·) 0 + size ≤ (slvSpan v).2 * 0x100000
        then r.1 = areaStirred { v with slv := { v.slv with structs := v.slv.structs ++ [{ new with bytes := size }] } } ∧
          r.2.status = 1 ∧ r.2.out.cost0 = fill ∧ r.2.out.cost = size
        else r.1 = v ∧ r.2.status = 2 ∧ r.2.reason = 7) ∧
    (∀ (d : State) (st : Struct) (es : List (List Byte)), checkDeltas s cls raw = (d, .ok (st, es)) →
      let r := runDrop s cls raw
      r.2.status = 1 ∧ r.1 = { d with slv := { d.slv with structs := r.1.slv.structs } } ∧
      structOf r.1 (slvSid raw) = none ∧ ∀ sid, sid ≠ slvSid raw → structOf r.1 sid = structOf d sid) ∧
    (∀ (d : State) (e : SlvEnd), checkDeltas s cls raw = (d, .error e) → runDrop s cls raw = (d, e))

/-- SOURCE_ENABLE with a valid descriptor enables the source with record count 0, else it sets SNS_ERR. TRIGGER_START
drives an enabled trigger at its edge, stamps it and sends the CANSYNC frame when asked; TRIGGER_END ends it after its
WIDTH. FRAME_START stamps the frame, LINE_RECEIVED writes the line to the frame's buffer, FRAME_END writes the frame
record and increments the buoy, or drops the frame. Rests on R295, R297, R298, R300, R301. -/
def Obligations.SourcesTriggersAndCameras : Prop :=
  (∀ (s : State) (n : Fin 44),
      let v := s.reg (Reg.snsSrc n.val) ||| 1
      let r := unitRead (s.setReg (Reg.snsSrc n.val) (v &&& ~~~0x3F)) (v &&& ~~~0x3F) 64 3 none
      s.Inv → srcOn s n.val = false →
        (r.2.1 = stOK → descOk r.1 n.val r.2.2 = true → exec (.sourceEnable n) s =
          .next (((r.1.setBit (Reg.snsSrc n.val) 0 true).setBit Reg.snsStat n.val true).modSrc n.val (fun k =>
            { k with desc := r.2.2, count := 0, frame := none, spi := none, spiAt := r.1.tim.n, newest := none }))) ∧
        (r.2.1 ≠ stOK ∨ descOk r.1 n.val r.2.2 = false → ∃ t, exec (.sourceEnable n) s = .next t ∧
          State.Signals (r.1.setBit Reg.snsErr n.val true) t)) ∧
  (∀ (s : State) (n : Fin 8),
      let c := s.reg (Reg.snsTrigCtl n.val)
      let at_ := lampEdgeNo s * lampPeriod s + 8 * bitsOf c 63 50
      let u := s.setReg (Reg.snsTrigLast n.val) (BitVec.ofNat 64 s.now)
      let v := { u with sns := { u.sns with
        trigs := u.sns.trigs.set n.val true, trigAt := u.sns.trigAt.set n.val (u.tim.ticks, s.lamp.counted) } }
      let x := n.val % 2
      (bitOf c 0 = true → lampOn s = true → (lampEdgeNo s + bitsOf c 17 2 * 65536 - bitsOf c 33 18) % bitsOf c 17 2 = 0 →
        (trigStart s n.val).2 ≠ s.lamp.counted → at_ ≤ s.tim.n →
          exec (.triggerStart n) s = .next (if v.bit (Reg.snsCansync x) (34 + n.val / 2) = true
            then { v with sns := { v.sns with
              sent := (x, v.reg (Reg.snsCansync x), v.reg (Reg.snsCansyncData x)) :: v.sns.sent } } else v)) ∧
      (bitOf c 0 = false ∨ lampOn s = false → exec (.triggerStart n) s = .next s) ∧
      (s.sns.trigs.getD n.val false = false → exec (.triggerEnd n) s = .next s) ∧
      (s.sns.trigs.getD n.val false = true → let w := runTicks s ((trigStart s n.val).1 + bitsOf c 49 34)
        exec (.triggerEnd n) s = .next { w with sns := { w.sns with trigs := w.sns.trigs.set n.val false } })) ∧
  (∀ (s : State) (n : Fin 32), srcOn s n.val = true → portsOn s = true →
      let k := srcOf s n.val
      (k.frame = none → exec (.frameStart n) s = .next ((lookedRelease s n.val).modSrc n.val (fun k => { k with
        frame := some ⟨stampNow s n.val, unsynced s, 0, 0, false, false, !released s n.val⟩ }))) ∧
      (∀ f, k.frame = some f → f.drop = false →
        (∀ (dt : Byte) (px : List (BitVec 16)), dt.toNat = u8At k.desc 45 → dt ≠ 0x12 → f.lines < camHeight s n.val →
          let u := s.modSrc n.val (fun k => { k with frame := some { f with lines := f.lines + 1 } })
          exec (.lineReceived n dt px true true) s =
            .next (unitPut u (camBuf u n.val + BitVec.ofNat 64 (f.lines * u32At k.desc 40))
              (lineBytes dt.toNat (px.take (u16At k.desc 36))))) ∧
        (f.lines = camHeight s n.val → f.stored = false → f.hdr = false → nodeOf (wordAt k.desc 48 +
          BitVec.ofNat 64 (64 * (k.count % srcSlots s n.val))) = s.node →
          let e := stampNow s n.val
          let u := s.modSrc n.val (fun k => { k with frame := none })
          let rec_ := leBytes 8 k.count ++ leBytes 8 f.stamp ++ leBytes 8 e ++ leBytes 2 (min f.lines 65535)
            ++ leBytes 1 (flagBit (f.unsync || unsynced s) 0 + flagBit k.gap 1) ++ zeroBytes 1 ++ leBytes 4 f.crcs ++ wordBytes (camBuf u n.val)
            ++ zeroBytes 24
          let v := unitPut u (wordAt k.desc 48 + BitVec.ofNat 64 (64 * (k.count % srcSlots u n.val))) rec_
          let w := (v.modSrc n.val (fun r => { r with
            count := r.count + 1, gap := false, newest := some (k.count, f.stamp, f.unsync) })).wrapFld (Reg.snsCnt n.val) 31 0 1
          exec (.frameEnd n) s = .next (bumpTo w (srcBuoy w n.val) true 3))) ∧
      (∀ f, k.frame = some f → f.drop = true →
        exec (.frameEnd n) s = .next (dropRecord (s.modSrc n.val (fun k => { k with frame := none })) n.val)))

/-- An accepted frame, transfer or CAN frame becomes a ring record with its stamp; an SPI event shifts its command bytes
out and stamps the transfer, and while the source is paced by a period only at its instants; a frame with a bad check,
over 9,216 bytes or of a refused type, and a non-ISO CAN FD frame, counts an error only. A record goes to slot r mod
NSLOT with its 32-byte header, and the source's count and buoy rise by one; with its reader not released the record is
dropped, counted and its error set, and the buoy takes a failure. Rests on R295, R296, R298, R299. -/
def Obligations.RecordsGoToTheirRings : Prop :=
  (∀ (s : State) (bytes : List Byte), portsOn s = true →
      (∀ (p : Fin 2) (i : Nat) (ptp : Option PtpServo), let n := 32 + p.val
        srcOn s n = true → bytes.length ≤ 9216 → (etherFields bytes).1 ∉ [0x8100, 0x8808] →
        etherFilter (srcOf s n).desc bytes = some i →
          exec (.ethernetFrame p bytes true ptp) s =
            .next (ptpServo (ringRecord s n (stampNow s n) (unsynced s) bytes i 0 0) p.val bytes ptp)) ∧
      (∀ (p : Fin 2) (ok : Bool) (ptp : Option PtpServo), srcOn s (32 + p.val) = true →
        ok = false ∨ 9216 < bytes.length ∨ (etherFields bytes).1 ∈ [0x8100, 0x8808] →
          exec (.ethernetFrame p bytes ok ptp) s = .next (snsCountErr s (32 + p.val))) ∧
      (∀ m : Fin 8, let n := 34 + m.val
        let u := spiInstant s n
        let d := (srcOf u n).desc
        srcOn s n = true → srcOn u n = true → portsOn u = true → (srcOf u n).spi = none → exec (.spiDataReady m) s =
          .next ({ u with sns := { u.sns with shifted := (m.val, sliceB d 40 (u8At d 38)) :: u.sns.shifted } }.modSrc n
            (fun r => { r with spi := some (stampNow u n, unsynced u) })) ∧
        (u8At (srcOf s n).desc 48 ≠ 2 → u = s)) ∧
      (∀ (m : Fin 8) (stamp : Nat) (un : Bool), let n := 34 + m.val
        let u := s.modSrc n (fun r => { r with spi := none })
        srcOn s n = true → (srcOf s n).spi = some (stamp, un) → exec (.spiTransferDone m bytes) s =
          .next (ringRecord u n stamp un (sliceB bytes 0 (u8At (srcOf u n).desc 39)) 0 0 0)) ∧
      (∀ (c : Fin 2) (h : CanHeader), let n := 42 + c.val
        srcOn s n = true → (h.fdf = true ∧ h.nonIso = true → exec (.canFrame c h bytes) s = .next (snsCountErr s n)) ∧
        (h.fdf = false ∨ h.nonIso = false → canAccepts (srcOf s n).desc h.ident.toNat = true →
          exec (.canFrame c h bytes) s = .next (ringRecord s n (stampNow s n) (unsynced s) (bytes.take 64) h.ident.toNat
            (flagBit h.ide 0 + flagBit h.fdf 1 + flagBit h.brs 2 + flagBit h.esi 3 + flagBit h.rtr 4) h.dlc.toNat)))) ∧
  (∀ (s u : State) (n stamp : Nat) (un : Bool) (payload : List Byte) (info flags dlc : Nat),
      let v := lookedRelease s n
      let k := srcOf v n
      let room := srcSlot v n - 32
      let kept := payload.take room
      let at_ := srcBase v n + BitVec.ofNat 64 (k.count % srcSlots v n * srcSlot v n)
      let rec_ := leBytes 8 stamp ++ leBytes 4 payload.length
        ++ leBytes 1 (flagBit un 0 + flagBit k.gap 1 + flagBit (decide (room < payload.length)) 2) ++ zeroBytes 3
        ++ leBytes 8 k.count ++ leBytes 4 info ++ leBytes 1 flags ++ leBytes 1 dlc ++ zeroBytes 2 ++ kept
      (released s n = true → unitWrite v at_ rec_ = (u, stOK) →
        let fed := if n < 34 then none else some ⟨stamp, un, info, flags % 2 == 1, kept⟩
        let x := (u.modSrc n (fun k => { k with
          count := k.count + 1, gap := false, fed := fed, feeds := k.feeds + 1 })).wrapFld (Reg.snsCnt n) 31 0 1
        (payload.length ≤ room → ringRecord s n stamp un payload info flags dlc = bumpTo x (srcBuoy x n) true 3) ∧
        (room < payload.length → s.Inv → u.Inv → ∃ y, ringRecord s n stamp un payload info flags dlc = bumpTo y (srcBuoy y n) true 3 ∧
          State.Signals (x.setBit Reg.snsErr n true) y)) ∧
      (s.Inv → released s n = false → ∃ t, ringRecord s n stamp un payload info flags dlc = bumpTo t (srcBuoy v n) false 3 ∧
        State.Signals ((v.satFld (Reg.snsCnt n) 47 32 1).setBit Reg.snsErr n true) t))

/-- CHANNEL_ENABLE of a valid configuration sets EN, shows the group delay and starts the channel afresh with its banks;
of an invalid one it leaves EN 0 and sets FLT_ERR bit 0. COEF writes change the inactive bank; SWAP takes effect at
once on a disabled channel and waits for the next sample on an enabled one; while it waits, COEF and SWAP writes set
COEF_LATE and change nothing else. Rests on R365, R366, R370, R375. -/
def Obligations.FilterChannelsAndBanks : Prop :=
  (∀ (s : State) (n : Fin 64), s.Inv → s.bit (Reg.fltChCfg n.val) 44 = false → s.bit (Reg.fltChCfg n.val) 45 = false →
      (chanOk s n.val = true → ∃ t, exec (.channelEnable n) s = .next t ∧
        t.bit (Reg.fltChCfg n.val) 44 = true ∧ t.bit (Reg.fltChStat n.val) 1 = true ∧
        t.bit (Reg.fltChStat n.val) 4 = false ∧ t.fld (Reg.fltChStat n.val) 31 8 = 0 ∧
        t.fld (Reg.fltChStat n.val) 63 32 = groupDelay s n.val % 2 ^ 32 ∧
        chanOf t n.val = { freshChan (chanOf s n.val).banks with
          gd := groupDelay s n.val, seen := feedsOf s n.val } ∧
        (∀ m, m ≠ n.val → chanOf t m = chanOf s m) ∧ t.mem = s.mem ∧
        ∀ o, o ∉ [Reg.fltChCfg n.val, Reg.fltChStat n.val] → t.reg o = s.reg o) ∧
      (chanOk s n.val = false → ∃ (t u : State), exec (.channelEnable n) s = .next t ∧ State.Signals (u.setBit Reg.fltErr 0 true) t ∧
        u = { s with regs := u.regs } ∧ u.bit (Reg.fltChCfg n.val) 44 = false)) ∧
  (∀ (s : State) (n : Fin 64) (i : BitVec 7) (c : BitVec 18),
      let b := 1 - activeBank s n.val
      let bad := fun t => State.Signals (s.setBit Reg.fltErr 3 true) t
      (s.bit (Reg.fltChStat n.val) 3 = false →
        exec (.coefWrite n i c) s = .next (s.modChan n.val (fun k => { k with
          banks := k.banks.modify b (fun x => { x with coefs := x.coefs.set i.toNat c.toNat }) })) ∧
        exec (.coefSetn n i) s = .next (s.modChan n.val (fun k => { k with
          banks := k.banks.modify b (fun x => { x with ntaps := i.toNat + 1 }) })) ∧
        (s.bit (Reg.fltChCfg n.val) 44 = true → exec (.swap n) s = .next (s.setBit (Reg.fltChStat n.val) 3 true)) ∧
        (s.Inv → s.bit (Reg.fltChCfg n.val) 44 = false → ∃ t, exec (.swap n) s = .next t ∧
          activeBank t n.val = 1 - activeBank s n.val ∧ t.bit (Reg.fltChStat n.val) 3 = false ∧
          t.fld (Reg.fltChStat n.val) 63 32 = groupDelay t n.val % 2 ^ 32)) ∧
      (s.Inv → s.bit (Reg.fltChStat n.val) 3 = true →
        (∃ t, exec (.coefWrite n i c) s = .next t ∧ bad t) ∧ (∃ t, exec (.coefSetn n i) s = .next t ∧ bad t) ∧
        (∃ t, exec (.swap n) s = .next t ∧ bad t)))

/-- On a running channel: an input that its source does not feed changes nothing; a record that gives no value drops the
sample; FILTER_DROP counts a drop, sets its error and marks the next record. A sample updates the fast value by R371,
goes through the chain, and at input 1 and every multiple of D writes a record: the fast value until the group delay
has passed, the fine value after it, with detectors and comparator run on it. Rests on R364, R366, R371, R372, R376,
R377. -/
def Obligations.ChannelsTakeSamples : Prop :=
  ∀ (s : State) (n : Fin 64) (x : FilterInput) (a : Fin 4) (code : BitVec 16),
    let u := chanTakes s n.val
    let c := chanOf u n.val
    let i := c.i + 1
    (chanRuns s n.val = false → exec (.filterSample n x a code) s = .next s ∧ exec (.filterDrop n) s = .next s) ∧
    (chanRuns s n.val = true → feedOf s n.val x a code = none → exec (.filterSample n x a code) s = .next s) ∧
    (chanRuns s n.val = true → s.Inv → ∃ t, exec (.filterDrop n) s =
        .next ((t : State).modChan n.val (fun k => { k with gap := true })) ∧
      State.Signals ((count u Reg.fltDrops 1).setBit Reg.fltErr 2 true) t) ∧
    (∀ feed, chanRuns s n.val = true → feedOf s n.val x a code = some feed →
      (inputValue u n.val feed.input = none → exec (.filterSample n x a code) s = .next (dropSample u n.val)) ∧
      (∀ v, inputValue u n.val feed.input = some v → c.resume = false → u.bit (Reg.fltChStat n.val) 3 = false →
        let y := (sat24 v).1
        let f := if i = 1 then y else c.f + (y - c.f) / ((2 ^ cfgFld u n.val 31 28 : Nat) : Int)
        let r := finePath u n.val { c with i := i, f := f, sat := (sat24 v).2 } y
        let k := { r.1 with sat := c.sat || r.1.sat }
        let put := fun (k : Chan) => (u.modChan n.val (fun _ => k)).setFld (Reg.fltChStat n.val) 31 8 (codeN 24 f)
        (r.1.sat = false → (r.2 = none ∨ i ≤ c.gd) → u.fld (Reg.fltChThr n.val) 50 48 ≠ 1 →
          exec (.filterSample n x a code) s = .next (if i = 1 ∨ i % decimation (put k) n.val = 0
            then writeRecord (put k) n.val feed.stamp feed.unsync true f else put k)) ∧
        (∀ z, r.1.sat = false → r.2 = some z → c.gd < i → u.fld (Reg.fltChThr n.val) 50 48 = 0 →
          let d := (detectors u n.val { k with fine := z } z).1
          let w := compare ((put d).setBit (Reg.fltChStat n.val) 1 false) n.val z
          exec (.filterSample n x a code) s = .next (if i = 1 ∨ i % decimation w n.val = 0
            then writeRecord w n.val feed.stamp feed.unsync false z else w))))

/-- LINK_ENABLE, LINK_DISABLE, TRAINING_COMPLETE, TRAINING_TIMEOUT, LINK_SILENCE and LINK_RETRAIN move the link as R380
and R383 say, with the failure reason, count and error. A flit with a bad CRC or type is counted and answered by a
NAK; every valid flit gives its ACK and credits; a DATA flit in SEQ order is counted and acknowledged with its buffer
freed (log 55), out of order it is answered by a NAK; NAK and REPLAY_TIMEOUT send the replay buffer again, and the
seventeenth attempt fails the link. The 256 bytes of every flit that goes out are those of R381. Rests on R380, R381,
R382, R383. -/
def Obligations.LinksAndFlits : Prop :=
  (∀ (s : State) (l : Fin 8) (peer : BitVec 10), s.Inv →
      let ctl := Reg.fabLinkCtl l.val
      let en := s.setReg ctl (putBits (s.reg ctl) 0 0 1 &&& 3)
      let dis := s.setReg ctl (putBits (s.reg ctl) 0 0 0 &&& 3)
      let failed := fun (reason : Nat) (t : State) => ∃ u, t = sendHeld (loseLink u l.val) ∧
        State.Signals (((((setLinkState s l.val 3).setFld (Reg.fabLinkStat l.val) 7 4 reason).satFld
          (Reg.fabLinkCount l.val) 63 48 1).setBit (Reg.fabLinkErr l.val) 2 true)) u
      (linkState s l.val = 0 → pState s < 2 → exec (.linkEnable l) s = .next (setLinkState en l.val 1)) ∧
      (linkState s l.val = 0 → exec (.linkDisable l) s = .next dis) ∧
      (linkState s l.val ≠ 0 →
        exec (.linkDisable l) s = .next (sendHeld (loseLink (setLinkState dis l.val 0) l.val))) ∧
      (linkState s l.val = 1 → pState s < 2 →
        (linkOf s l.val).trained = false ∨ s.fld (Reg.fabLinkStat l.val) 17 8 = peer.toNat →
          exec (.trainingComplete l peer) s = .next (sendHeld (pump
            (((setLinkState s l.val 2).setFld (Reg.fabLinkStat l.val) 17 8 peer.toNat).modLink l.val (fun k => { k with
              trained := true, txSeq := 0, rxSeq := 0xFFFF, replay := []
              queue := k.replay.map (fun f => { f with resent := 0 }) ++ k.queue, credits := List.replicate 8 32,
              turn := [4, 2, 1] }))
            l.val))) ∧
      (linkState s l.val = 1 → pState s < 2 → (∃ t, exec (.trainingTimeout l false) s = .next t ∧ failed 1 t) ∧
        ∃ t, exec (.trainingTimeout l true) s = .next t ∧ failed 2 t) ∧
      (linkState s l.val = 2 → ∃ t, exec (.linkSilence l) s = .next t ∧ failed 4 t) ∧
      (s.bit ctl 0 = true → linkState s l.val = 3 → s.fld (Reg.fabLinkStat l.val) 7 4 = 1 → s.fld Reg.gctlBoot 3 0 = 7 →
        ∃ t, exec (.linkDisable l) s = .next t ∧
          exec (.linkRetrain l) s = .next (writeLinkCtl t l.val (putBits (s.reg ctl) 0 0 1)))) ∧
  (∀ (s : State) (l : Fin 8) (b : List Byte), s.Inv → linkState s l.val = 2 →
      let replayed := fun (u t : State) =>
        let n := (linkOf u l.val).replay.length
        let rs := (linkOf u l.val).replay.map (fun f => { f with resent := f.resent + 1 })
        State.Signals (((u.modLink l.val (fun k => { k with replay := rs, wire := (rs.map (·.bytes k.rxSeq)).reverse ++ k.wire })).wrapFld
          (Reg.fabLinkCount l.val) 31 0 n).setBit (Reg.fabLinkErr l.val) 0 true) t
      let goes := fun (u : State) => (linkOf u l.val).replay ≠ [] ∧ ∀ f ∈ (linkOf u l.val).replay, f.resent < 16
      let ctlFlit := fun (u : State) (ty buf n : Nat) =>
        u.modLink l.val (fun k => { k with wire := flitBytes 0 k.rxSeq ty 0 false (buf + 16 * n) [] :: k.wire })
      (b.length = 256 → (crc32 (b.take 252)).toNat ≠ u32At b 252 ∨ u8At b 4 % 4 = 3 →
        ∃ u, State.Signals ((s.satFld (Reg.fabLinkCount l.val) 47 32 1).setBit (Reg.fabLinkErr l.val) 1 true) u ∧
          exec (.flitReceive l b) s = .next (ctlFlit u 2 0 0)) ∧
      (b.length = 256 → (crc32 (b.take 252)).toNat = u32At b 252 → u8At b 4 % 4 = 1 →
        let c := u8At b 5
        let v := pump ((takeAck s l.val (u16At b 2)).modLink l.val (fun k => { k with
          credits := k.credits.modify (c % 8) (· + c / 16) })) l.val
        (u16At b 0 = ((linkOf v l.val).rxSeq + 1) % 65536 → exec (.flitReceive l b) s = .next (ctlFlit
          (count (v.modLink l.val (fun k => { k with rxSeq := u16At b 0 })) (Reg.obsLink (2 * l.val + 1)) 244)
          0 (u8At b 4 / 4 % 4 * 2 + u8At b 4 / 16 % 2) 1)) ∧
        (u16At b 0 ≠ ((linkOf v l.val).rxSeq + 1) % 65536 → exec (.flitReceive l b) s = .next (ctlFlit v 2 0 0))) ∧
      (∀ ack : BitVec 16, let u := takeAck s l.val ack.toNat
        goes u → ∃ t, exec (.nak l ack) s = .next t ∧ replayed u t) ∧
      (goes s → ∃ t, exec (.replayTimeout l) s = .next t ∧ replayed s t) ∧
      (∀ f ∈ (linkOf s l.val).replay, 16 ≤ f.resent → exec (.replayTimeout l) s = .next (failLink s l.val 3)))

/-- PACKET_ARRIVE consumes a packet for this node as the operation, response, confirm, notice, cancel or exchange it is;
forwards another with its hop count raised, or drops it; and drops a reserved type. A held packet is dropped at its
timeout; ALT_WAIT_END sends what waited. RESPONSE, RESPONSE_TIMEOUT, FAILURE_NOTICE and WATCH_CONFIRM, its loss and
WATCH_CANCEL end or change the operations they name; a late answer is counted; the RESULT of LINK_FAILED is free (log
140). Rests on R45, R385, R387, R388, R389, R390. -/
def Obligations.PacketsAreRoutedHeldAndAnswered : Prop :=
  (∀ (s : State) (l : Fin 8) (vl : Bool) (p : Packet), linkState s l.val = 2 →
      (p.dst.toNat = s.node →
        (p.ptype.toNat ∈ [1, 2, 4, 5] ∨ (p.ptype = 3 ∧ p.data ≠ []) →
          exec (.packetArrive l vl p) s =
            .next (issue s (.packet p.src.toNat p.tag.toNat (p.ctl.toNat % 4)) (packetOp p) p.data)) ∧
        (p.ptype = 3 → p.data = [] → let b := bump s p.aux (p.status = 0) (p.ctl.toNat % 4)
          exec (.packetArrive l vl p) s =
            .next (respond b.1 p.src.toNat p.tag.toNat (p.ctl.toNat % 4) 0x10 b.2 0 [])) ∧
        (p.ptype = 0x10 → exec (.packetArrive l vl p) s = exec (.response p.tag p.status p.aux p.data) s) ∧
        (p.ptype = 0x11 → exec (.packetArrive l vl p) s = exec (.watchConfirm p.tag) s) ∧
        (p.ptype = 0x12 → exec (.packetArrive l vl p) s = exec (.failureNotice p.tag p.status) s) ∧
        (p.ptype = 0x06 → exec (.packetArrive l vl p) s = exec (.watchCancel p.src p.tag) s) ∧
        (p.ptype = 0x20 → exec (.packetArrive l vl p) s = exec (.exchangeReceive l p) s)) ∧
      (p.dst.toNat ≠ s.node →
        (p.ptype.toNat ∈ [1, 2, 3, 4, 5, 6, 0x10, 0x11, 0x12] → p.hops.toNat < 31 →
          let q := { p with hops := p.hops + 1 }
          let r := sendPacket s p.dst.toNat q vl false
          (∀ st, r.2 = .failed st → exec (.packetArrive l vl p) s = .next (dropPacket r.1 q st)) ∧
          ((∀ st, r.2 ≠ .failed st) → exec (.packetArrive l vl p) s = .next r.1)) ∧
        (p.ptype = 0x20 → exec (.packetArrive l vl p) s = .next s)) ∧
      (p.ptype.toNat = 0 ∨ (6 < p.ptype.toNat ∧ p.ptype.toNat < 0x10) →
        exec (.packetArrive l vl p) s = .next (s.satFld Reg.fabDrops 31 0 1))) ∧
  (∀ (s : State) (dst : BitVec 10) (h : Held) (tag : BitVec 32) (p : PendingOp) (status : Byte) (aux : Word)
        (data : List Byte),
      let drop := fun (p : PendingOp) => { s with ops := s.ops.filter (fun q => q.tag != p.tag) }
      let free := { s with fab := { s.fab with held := s.fab.held.erase h } }
      (s.fab.held.find? (·.dst == dst.toNat) = some h → dst.toNat ∉ s.fab.altWait → exec (.holdTimeout dst) s =
        .next (if h.own = true then failOwn free h.pkt.tag stLINK_FAILED else dropPacket free h.pkt stLINK_FAILED)) ∧
      (dst.toNat ∈ s.fab.altWait → exec (.altWaitEnd dst) s =
        .next (sendHeld { s with fab := { s.fab with altWait := s.fab.altWait.filter (· != dst.toNat) } })) ∧
      (sentOp s tag = none → tag ≠ 0 → (∀ q ∈ s.ops, BitVec.ofNat 32 q.tag = tag → q.phase ≠ .copy) →
        exec (.failureNotice tag status) s = .next (s.satFld Reg.fabDrops 63 32 1) ∧
        exec (.response tag status aux data) s = .next (s.satFld Reg.fabDrops 63 32 1)) ∧
      (sentOp s tag = some p → p.op.code = 2 → p.origin = .plain → (∃ n, p.phase = .sent n ∨ ∃ e, p.phase = .held n e) → (drop p).Quiet → (drop p).doneOk p.op.done →
        let done := fun (u : State) (st : Nat) (w : Word) =>
          bumpTo (({ u with ops := (drop p).ops } : State).completed p.op.source 2 st w) p.op.done (st == stOK) p.op.cls
        let lost := done s.bumpFree stLINK_FAILED (BitVec.ofNat 64 (Config.freeBelow s.freeCtr (p.op.len + 1)))
        exec (.failureNotice tag status) s =
          .next (if status.toNat = stLINK_FAILED then lost else done s status.toNat 0) ∧
        exec (.response tag status aux data) s =
          .next (release (done s status.toNat (if status.toNat = stOK then BitVec.ofNat 64 p.op.len else aux))) ∧
        ∀ n, p.phase = .sent n → exec (.responseTimeout tag) s = .next (release lost)) ∧
      (∀ n c since, sentOp s tag = some p → p.phase = .remoteWatch n c since →
        exec (.watchConfirm tag) s = .next { s with ops := s.ops.map (fun q =>
          if q.tag == p.tag then { q with phase := .remoteWatch n (some s.lamp.counted) since } else q) }) ∧
      (∀ n c since, sentOp s tag = some p → p.phase = .remoteWatch n (some c) since → c + 32 ≤ s.lamp.counted →
        let u := failOp s p stLINK_FAILED
        exec (.watchConfirmLoss tag) s =
          .next (sendPacket u n (ownPacket u 0x06 p.op.cls 0 n p.op.dst 0 tag.toNat 0 []) false false).1) ∧
      (∀ node : BitVec 10, exec (.watchCancel node tag) s = .next { s with ops := s.ops.filter (fun p =>
        match p.phase, p.origin with
        | .watch _, .packet n t _ => !(n == node.toNat && t == tag.toNat)
        | _, _ => true) }))

/-- POR_N returns the registers to their reset values, shows the straps, ends every operation, link and strand, applies
the pending lifecycle and keeps the fuses, the configuration memory and the flash. WARM_RST_N starts a warm start,
keeps N, the rate and the retention registers, and keeps memory outside SRAM; completions already given stay as they
are. Rests on R8, R319, R397, R398, R416, R417, R471, R504. -/
def Obligations.ResetsKeepWhatTheyKeep : Prop :=
  ∀ (s : State) (straps : BitVec 3), s.Inv →
    (∃ t, exec (.porN straps) s = .next t ∧ t.fld Reg.gctlBoot 3 0 = 0 ∧ t.fld Reg.gctlBoot 5 4 = 0 ∧
      t.reg Reg.gctlStrap = BitVec.ofNat 64 straps.toNat ∧ t.fuses = { s.fuses with lifecycle := s.fuses.pending } ∧
      t.fld Reg.secStat 1 0 = s.fuses.pending ∧ t.boot.xspi = s.boot.xspi ∧ t.ops = [] ∧ t.fab = State.reset.fab ∧
      t.tier.objs = [] ∧ t.str = State.reset.str ∧ t.tim = State.reset.tim ∧ t.completions = s.completions ∧
      (∀ a, regionOf a = 3 → (∀ f ∈ s.fills, ¬ (f.lo ≤ a ∧ a < f.lo + f.len)) → t.byteAt a = s.byteAt a) ∧
      ∀ o, o < 0x50000 → o ∉ [Reg.gctlBoot, Reg.gctlStrap, Reg.timStatus] → t.reg o = regReset o) ∧
    (s.power.off = false → s.power.thermtrip = false → s.tim.running = true →
      ∃ t, exec .warmRstN s = .next t ∧ t.fld Reg.gctlBoot 3 0 = 2 ∧ t.fld Reg.gctlBoot 5 4 = 1 ∧
        t.fuses = { s.fuses with lifecycle := s.fuses.pending } ∧ t.boot.xspi = s.boot.xspi ∧ t.ops = [] ∧
        t.fab = State.reset.fab ∧ t.str = State.reset.str ∧ t.tim.n = s.tim.n ∧ t.tim.running = true ∧
        t.tier.objs = s.tier.objs ∧ t.fld Reg.secDebug 1 0 = 0 ∧
        (∀ a, regionOf a ≠ 2 → (∀ f ∈ s.fills, ¬ (f.lo ≤ a ∧ a < f.lo + f.len)) → t.byteAt a = s.byteAt a) ∧
        ∀ o, o ∈ [Reg.gctlStrap, Reg.timInc, Reg.timServo, Reg.timPpsOffset, Reg.pwrWakeEn, Reg.pwrWakeTime] →
          t.reg o = s.reg o)

/-- PLL_LOCK, BOOT_IMAGE_CHECK, FIRMWARE_LOADED, DRAM_TRAINED, DRAM_TRAIN_TIMEOUT and RECOVER_GO move GCTL_BOOT as R400
and R420 say: the first trusted candidate is taken, an untrusted one fails with code 3, none with code 1. CONFIG_APPLY
checks table, digests and section forms, applies every section in order, and ends RUNNING or with the error code of
the failed check. Rests on R400, R402, R403, R405, R407, R420, R467. -/
def Obligations.StartUpAndConfiguration : Prop :=
  (∀ (s : State) (img : Nat),
      (s.power.off = false → bootPhase s = 0 → s.tim.running = false → exec (.pllLock true) s =
        .next ({ s with tim := { s.tim with running := true }, power := { s.power with vrAck := true } }.setFld
          Reg.gctlBoot 3 0 1)) ∧
      (let u := s.setFld Reg.gctlBoot 3 0 2
       bootPhase s = 1 ∨ bootPhase s = 2 → s.boot.image = none →
         (∀ rest, u.boot.present = true → (slotOrder u).filter (fun i => u.boot.failed != some i) = img :: rest →
           exec .bootImageCheck s = .next (if imageTrusted u img = true then acceptImage u img
             else bootFail { u with boot := { u.boot with image := some img } } 3)) ∧
         (s.Inv → s.boot.present = false → ∃ t, exec .bootImageCheck s = .next t ∧
           t.fld Reg.gctlBoot 3 0 = 9 ∧ t.fld Reg.gctlBoot 23 16 = 1)) ∧
      (∀ e, s.boot.image = some img → bootPhase s = 2 → (sectsOf s img).find? (·.type == 1) = some e →
        e.len ≤ 0x800000 → e.off + e.len ≤ imageMax img → exec .firmwareLoaded s = .next (
          if sha384 (sectBytes s img e) = e.digest then keeperStart (s.setFld Reg.gctlBoot 3 0 4) else bootFail s 4)) ∧
      (bootPhase s = 4 → exec .dramTrained s =
        .next (((if bootKind s ≠ 0 ∧ s.sec.keep = true then keepObjects s else dropMemory s).fillRange
          0x010007F0000000 0x10000000 false).setFld Reg.gctlBoot 3 0 5)) ∧
      (s.Inv → bootPhase s = 4 → ∃ t, exec .dramTrainTimeout s = .next t ∧
        State.Signals ((s.setFld Reg.gctlBoot 23 16 6).setFld Reg.gctlBoot 3 0 8) t) ∧
      (bootPhase s = 9 → isCandidate s 2 = true → exec .recoverGo s = .next (if imageTrusted s 2 = true
        then acceptImage s 2 else s.setFld Reg.gctlBoot 23 16 3)) ∧
      (bootPhase s = 9 → isCandidate s 2 = false → exec .recoverGo s = .next (s.setFld Reg.gctlBoot 23 16 2))) ∧
  (∀ (s : State) (img : Nat), s.boot.image = some img → bootPhase s = 5 →
      let secs := (sectsOf s img).map (fun e => (e.type, sectBytes s img e))
      let whole := ∀ e ∈ sectsOf s img, sha384 (sectBytes s img e) = e.digest
      let formed := ∀ e ∈ secs, sectOk s e.1 e.2 = true
      let u := retireErase (lockKeeperSources (s.setFld Reg.gctlBoot 3 0 6))
      let r := applyImage (if keepsMemory u = true then keptIndexes u else u) img secs
      let v := if img = 2 then (secs.filter (fun e => e.1 == 9)).foldl (fun s e => writeXspi s e.2) r.1 else r.1
      exec .configApply s = .next (
        if tableOkFor s img = false then bootFail s 5
        else if ¬ whole then bootFail s 4
        else if ¬ formed then bootFail s 5
        else if r.2 = false then bootFail r.1 7
        else setPhase (resetEntries (reopenIndexes v)) 7))

/-- PERST_N low and FLR reset the function (mask, bus master, MSI-X table), end the host's operations and set their
HST_ERR bits; memory is unchanged. Link up shows speed and width and releases pending messages; link down clears them;
configuration writes set bus master, function mask and D0. Rests on R397, R423, R429, R430, R431, R433. -/
def Obligations.EndpointResetsAndLinks : Prop :=
  ∀ (s : State) (speed : Fin 6) (width : BitVec 4) (on : Bool), s.Inv →
    let open_ := pcieUp s = true ∧ s.ep.perst = false ∧ s.ep.crs = false
    let alone := ∀ p ∈ s.ops, p.phase ≠ .hostWait
    (s.power.off = false → s.power.thermtrip = false → alone → ∃ t, exec (.perstN true) s = .next t ∧
      t.ep.perst = true ∧ t.ep.crs = true ∧ t.ep.funcMask = false ∧ t.bit Reg.hstErr 3 = true ∧ pcieUp t = false ∧
      t.bit Reg.hstStat 11 = true ∧ (∀ p ∈ t.ops, p.origin ≠ .host) ∧ t.mem = s.mem) ∧
    (s.power.off = false → s.power.thermtrip = false → exec (.perstN false) s = .next (wakeEvent
      { (s.setBit Reg.hstStat 11 false) with ep := { s.ep with perst := false, crs := true, needPerst := false } } .perst)) ∧
    (open_ → alone → ∃ t, exec .flr s = .next t ∧ t.bit Reg.hstErr 4 = true ∧ t.ep.funcMask = false ∧
      t.bit Reg.hstStat 8 = false ∧ t.bit Reg.hstStat 9 = false ∧ t.fld Reg.hstStat 7 0 = s.fld Reg.hstStat 7 0 ∧
      (∀ v, v < 64 → t.reg (Reg.hstMsixTab (2 * v + 1)) = regReset (Reg.hstMsixTab (2 * v + 1))) ∧
      (∀ p ∈ t.ops, p.origin ≠ .host) ∧ t.mem = s.mem) ∧
    exec .pcieCrsEnd s = .next { s with ep := { s.ep with crs := s.ep.perst } } ∧
    (open_ → exec .d3hotEntry s = .next (s.setBit Reg.hstStat 9 true)) ∧
    (pcieUp s = true → alone → ∃ t, exec .pcieLinkDown s = .next t ∧ t.mem = s.mem ∧ t.bit Reg.hstErr 3 = true ∧
      pcieUp t = false ∧ t.ops = s.ops) ∧
    (s.ep.perst = false → s.ep.needPerst = false → s.power.off = false → s.power.thermtrip = false → pState s ≠ 3 →
      pcieUp s = false → speed.val ≠ 0 → width.toNat ∈ [1, 2, 4, 8] → exec (.pcieLinkUp speed width) s = .next (msixRelease
        ((s.setFld Reg.hstStat 7 0 (speed.val + 16 * width.toNat)).setBit Reg.hstStat 10 (pState s == 2)))) ∧
    (open_ →
      exec (.configurationWrite (.busMaster on)) s = .next (msixRelease (s.setBit Reg.hstStat 8 on)) ∧
      exec (.configurationWrite (.functionMask on)) s = .next (msixRelease { s with ep := { s.ep with funcMask := on } }) ∧
      exec (.configurationWrite .powerD0) s = .next (msixRelease (s.setBit Reg.hstStat 9 false)))

/-- A host read, write or atomic through BAR2 becomes a GET, PUT or ATOMIC of class HST_CTL.CLASS at HST_BAR2_BASE +
offset, through BAR0 one at the register space; in D3hot reads are answered as unsupported and writes are discarded. A
write to HST_SIGNAL of a buoy here adds one success, completing like an ATOMIC, or records its failure; of one on
another node it is sent as an ATOMIC. SERVICE_RECORD issues the next record of the service ring; HOST_COMPLETION
completes an operation on the host window. Rests on R424, R426, R428, R430, R432. -/
def Obligations.HostCommands : Prop :=
  (∀ (s : State) (off : Word) (len : Nat) (data : List Byte) (o : HostAtomic) (x c : Word),
      configOpen s = true →
      let cls := s.fld Reg.hstCtl 1 0
      let a := s.reg Reg.hstBar2Base + off
      let reg := s.global (regBase + off.toNat)
      let cmp := if o = .cas then c else 0
      (s.bit Reg.hstStat 9 = false → off.toNat < 0x1000000000 → nodeOf a = nodeOf (s.reg Reg.hstBar2Base) →
        exec (.hostRead .bar2 off len) s =
          .next (issue (countTier s 7 len) .host ⟨.host, cls, 1, 0, a, 0, len, 0, 0, 0, 0⟩ []) ∧
        exec (.hostWrite .bar2 off data) s =
          .next (issue (countTier s 7 data.length) .host ⟨.host, cls, 2, 0, a, 0, data.length, 0, 0, 0, 0⟩ data) ∧
        exec (.hostAtomicop .bar2 off o x c) s =
          .next (issue (countTier s 7 8) .host ⟨.host, cls, 4, hostAop o, a, 0, 8, x, cmp, 0, 0⟩ [])) ∧
      (s.bit Reg.hstStat 9 = false → off.toNat < 0x2000000 →
        exec (.hostRead .bar0 off len) s = .next (issue s .host ⟨.host, cls, 1, 0, reg, 0, len, 0, 0, 0, 0⟩ []) ∧
        (data.length ≠ 4 → exec (.hostWrite .bar0 off data) s =
          .next (issue s .host ⟨.host, cls, 2, 0, reg, 0, data.length, 0, 0, 0, 0⟩ data))) ∧
      (s.bit Reg.hstStat 9 = true → off.toNat < 0x4000000 →
        exec (.hostRead .bar0 off len) s = .next { s with ep := { s.ep with replies := [] :: s.ep.replies } } ∧
        exec (.hostWrite .bar0 off data) s = .next s ∧
        exec (.hostAtomicop .bar0 off o x c) s = .next { s with ep := { s.ep with replies := [] :: s.ep.replies } })) ∧
  (∀ (s : State) (v : Word) (tag : Nat) (p : PendingOp) (data : List Byte),
      let a := v &&& ~~~7
      let cls := s.fld Reg.hstCtl 1 0
      let w := { s with nextTag := s.nextTag + 1 }
      let b := bump w a true cls
      (s.unfenced .host → nodeOf a = s.node → b.1.Quiet →
        (b.2 = stOK → exec (.hstSignal v) s = .next (b.1.completed .host 4 stOK 0)) ∧
        (b.2 ≠ stOK → ∃ u, exec (.hstSignal v) s =
          .next (((u.setReg Reg.hstLasterr (BitVec.ofNat 64 (b.2 + 4 * 256))).setReg Reg.hstLastaddr a).completed .host 4 b.2 0) ∧
          u = sticky b.1 Reg.hstErr 2 (some 112))) ∧
      (s.unfenced .host → nodeOf a ≠ s.node → exec (.hstSignal v) s =
        .next (sendOp w ⟨s.nextTag, ⟨.host, cls, 4, 0, a, 0, 8, 1, 0, 0, 0⟩, .signal, .queued, []⟩ [])) ∧
      (∀ k, s.fld Reg.gctlBoot 3 0 = 7 → pState s < 2 → slotKeeper s = some k →
        nodeOf (s.reg Reg.hstSvcBuoy) = s.node → buoyCheck s (localOf (s.reg Reg.hstSvcBuoy)) = stOK →
        s.ep.svc < bitsOf (s.word (localOf (s.reg Reg.hstSvcBuoy))) 47 0 →
          exec .serviceRecord s = .next (issueRecord
            { s with freeCtr := s.freeCtr + 1, ep := { s.ep with svc := s.ep.svc + 1 } } (.keeper k) none
            (s.reg Reg.hstSvcRing + BitVec.ofNat 64 (s.ep.svc % 256 * 64)) .service)) ∧
      (s.ops.find? (fun p => p.tag == tag && p.phase == .hostWait) = some p → p.op.code = 4 →
        exec (.hostCompletion tag true data) s =
          .next (release (complete { s with ops := s.ops.filter (fun q => q.tag != tag) } p.origin p.op stOK
            (wordAt (sliceB data 0 8) 0) []))))

/-- CHECK_COMPLETE within two edges counts the check and compares the CRC of the recomputation, which the fault operand
alters and a sound unit's 0 does not (log 196); CHECK_LAPSE counts and journals a check not completed in time.
ARBITRATION_COMPLETE names the unit whose result differs. IDLE_TEST starts the content's entries on an idle unit;
TEST_COMPLETE goes on to the next or records a failure; TC_LOAD shows its result, journals it and raises TC_LOAD, and
loads content whose result is OK; content that is not newer is never accepted. Rests on R439, R440, R446, R447, R448,
R449. -/
def Obligations.ChecksAndTestsAreJudged : Prop :=
  (∀ (s : State) (c : Check) (crc : BitVec 32), s.integ.checks.find? (·.id == c.id) = some c →
    let u := { s with integ := { s.integ with checks := s.integ.checks.filter (·.id != c.id) } }
    let r := unitCrc s c c.checker crc
    let done := ({ r.1 with integ := { r.1.integ with checks := r.1.integ.checks.filter (·.id != c.id) } } : State).wrapFld
      Reg.chkCount 31 0 1
    ((unitCrc s c c.checker 0).2 = (recompute s c c.checker).2 % 2 ^ 32) ∧
    (lampEdgeNo s ≤ c.fedge + 2 → exec (.checkComplete c.id crc) s =
      .next (if r.2 = c.crc then done else mismatch done c r.2)) ∧
    (s.Inv → c.fedge + 2 ≤ lampEdgeNo s → ∃ v, State.Signals
        ((u.satFld Reg.chkCount 63 48 1).setBit Reg.chkErr 2 true) v ∧ exec (.checkLapse c.id) s =
      .next (journal v ⟨c.unit, 4, c.op, c.addr, 0, 0, 0, c.checker, 0xFFFF⟩ []))) ∧
  (∀ (s : State) (a : Arb) (x : BitVec 32), s.integ.arbs.find? (·.check.id == a.check.id) = some a → a.check.kind ≠ 2 →
    let u := { s with integ := { s.integ with arbs := s.integ.arbs.filter (·.check.id != a.check.id) } }
    let r := unitCrc u a.check a.arbiter x
    let v := if r.2 = a.check.crc then r.1 else arbitrated a a.check.unit r.2 a.check.crc r.1
    exec (.arbitrationComplete a.check.id [x]) s =
      .next (if r.2 = a.got then v else arbitrated a a.check.checker r.2 a.got v)) ∧
  (∀ (s : State) (a : Arb) (x y : BitVec 32), s.integ.arbs.find? (·.check.id == a.check.id) = some a → a.check.kind = 2 →
    let u := { s with integ := { s.integ with arbs := s.integ.arbs.filter (·.check.id != a.check.id) } }
    let p := unitCrc u a.check a.check.unit x
    let k := unitCrc p.1 a.check a.check.checker y
    let v := if p.2 ≠ a.check.crc ∨ k.2 = a.got then arbitrated a a.check.unit a.check.crc p.2 k.1 else k.1
    exec (.arbitrationComplete a.check.id [x, y]) s =
      .next (if k.2 ≠ a.got ∨ p.2 = a.check.crc then arbitrated a a.check.checker a.got k.2 v else v)) ∧
  (∀ (s : State) (unit : Fin 146) (k : Nat) (es : List (List Byte)), testKind unit.val = some k →
    contentEntries s.integ.content = some es → s.bit Reg.chkCtl 6 = true → pState s < 2 → s.integ.tests = [] →
    es.filter (fun e => u16At e 0 == k) ≠ [] → unitIdle s unit.val = true → gapPassed s unit.val = true →
    unitFenced s unit.val = false → exec (.idleTest unit.val) s = .next (startTest { s with integ := { s.integ with
      tests := (es.filter (fun e => u16At e 0 == k)).map (fun e => ⟨unit.val, e, u64At s.integ.content 24, 3⟩)
      lastTest := (unit.val, s.integ.minutes) :: s.integ.lastTest.filter (fun e => e.1 != unit.val) } })) ∧
  (∀ (s : State) (t : TestRun) (rest : List TestRun) (crc : BitVec 32), s.integ.tests = t :: rest →
    let u := s.fillRange t.scratch 0x1000000 false
    let after := fun (n : Nat) => { u with integ := { u.integ with
      tests := if n = 0 then rest else { t with left := n } :: rest } }
    (crc.toNat = u32At t.raw 24 → t.left = 3 → exec (.testComplete t.unit crc true) s = .next (startTest (after 0))) ∧
    (s.Inv → crc.toNat ≠ u32At t.raw 24 → ∃ v, State.Signals ((after (t.left - 1)).setBit Reg.chkErr 1 true) v ∧
      exec (.testComplete t.unit crc true) s = .next (startTest (chargeEvent (raiseCluster v t.unit 34)
        ⟨t.unit, 3, 0, 0, u32At t.raw 4, u32At t.raw 24, crc.toNat, 0xFFFF, 0xFFFF⟩)))) ∧
  (∀ (s : State) (a : Word),
    let blob := readBlob s (a &&& ~~~0xFFF)
    let u := blob.1
    let content := (blob.2.map (·.1)).getD []
    let res := loadResult u blob.2
    let v := u.setFld Reg.chkTcStat 7 0 res
    let w := if res = 1 then
        ({ v with integ := { u.integ with content, loaded := content } } : State).setReg Reg.chkTcver (BitVec.ofNat 64 (tcver content))
      else v
    let x := journal w.bumpFree { plainEvent (Config.freeBelow u.freeCtr 65536) 10 with detail := res } []
    exec (.tcLoad a) s = .next (sticky x Reg.chkErr 6 (some 190)) ∧ (blob.2 = none → res = 4) ∧
      ∀ b g, blob.2 = some (b, g) → (sigOk u g b = false → res = 2) ∧
        (u32At b 20 < u32At u.integ.content 20 ∨ tcver b ≤ (u.reg Reg.chkTcver).toNat → res = 2 ∨ res = 3))

/-- UNIT_RESET sets level 0 and the rating the minutes give; UNIT_FENCE fences a unit that may be fenced, and takes the
last one of its kind to level 6; UNIT_UNFENCE returns a unit at a level and rating that are free (log 63);
FENCE_EFFECT moves a cluster's programs to the cluster that stands in; DEVICE_MINUTE counts one minute and drops
events older than the window. Rests on R453, R454, R455, R456, R457, R458. -/
def Obligations.UnitsAreResetFencedAndRated : Prop :=
  ∀ (s : State) (unit : BitVec 16), unit.toNat < 164 →
    let u := unit.toNat
    let free := { s with integ := { s.integ with fencing := s.integ.fencing.filter (· != u) } }
    exec (.unitReset unit) s =
      .next (responseEvent (setUnit free u (if 12000 ≤ s.integ.minutes then 1 else 0) 0) u) ∧
    (fenceable s u = true → exec (.unitFence unit) s = .next (fenceEvent (setUnit s u 3 7) u)) ∧
    (fenceable s u = false → exec (.unitFence unit) s =
      .next (responseEvent (lastUnit (setUnit s u (unitSum s u).rating 6) u) u)) ∧
    (unitFenced s u = false → exec (.unitUnfence unit) s = .next (responseEvent s u)) ∧
    (unitFenced s u = true → ∃ level rating t, level < 7 ∧ rating < 3 ∧
      t = setUnit free u rating level ∧ exec (.unitUnfence unit) s = .next (responseEvent t.bumpFree.bumpFree u)) ∧
    (u ∈ s.integ.fencing → u < 8 → (∀ p, (cluOf s u).run = some p → p.inLayer = false) → s.integ.checks = [] →
      let k := cluOf s u
      let dest := runsOn free u
      let v := (free.modClu u (fun _ => { queue := [], run := none, susp := [] })).modClu dest (fun t => { t with
        susp := t.susp ++ k.susp ++ k.run.toList })
      exec (.fenceEffect unit) s = .next (k.queue.foldl (fun s r =>
        s.modClu dest (fun t => { t with queue := insertBy runBefore r t.queue })) v)) ∧
    (s.Inv → pState s < 2 → s.power.thermtrip = false → s.power.off = false → (s.integ.minutes + 1) % 2 ^ 32 ≠ 12000 →
      ∃ t, exec .deviceMinute s = .next t ∧ t.integ.minutes = (s.integ.minutes + 1) % 2 ^ 32 ∧
        t.fld Reg.chkMinutes 31 0 = t.integ.minutes ∧ t.integ.summary = s.integ.summary ∧ t.mem = s.mem ∧
        (∀ e ∈ t.integ.charged, e ∈ s.integ.charged ∧ t.integ.minutes < e.2 + 60000) ∧
        ∀ o, o ≠ Reg.chkMinutes → (∀ u, u < 164 → o ≠ Reg.chkUnit u) → t.reg o = s.reg o)

/-- DEBUG_TOKEN, ADD_OWNER, REVOKE_OWNER, TAKE_OWNERSHIP, RETIRE and ADVANCE_SVN read the 320-byte record, show its result
in SEC_CMD_STAT and draw a new nonce; an accepted one changes the fuses its type names, or the debug level, and
nothing else of the fuses; a refused one sets SEC_ERR bit 0. A token sets the level and mask and leaves the fuses. The
result is BUSY in a power transition, then FORM, DEVICE and NONCE in that order; in MANUFACTURE a token is refused by
the lifecycle and records of types 2, 3, 5 and 6 need no signature. SEC_ATTEST writes the report and its signature;
SECACCESS submits a record over the TAP. The result names come from R473; the digests and signatures from FIPS and SEC
texts (log 61). Rests on R472, R473, R474, R481. -/
def Obligations.SignedRecordsAreJudged : Prop :=
  (∀ (s u : State) (a : Word) (b : List Byte), s.Inv → unitRead s (a &&& ~~~0x3F) 320 3 none = (u, stOK, b) →
    let stat := u.setFld Reg.secCmdStat 15 0 (recordResult u b + u8At b 4 * 256)
    let drawn := fun (v : State) => { v with sec := { v.sec with draws := v.sec.draws + 1 } }
    ∀ c ∈ [(Instr.debugToken a, 1), (.addOwner a, 2), (.revokeOwner a, 3), (.takeOwnership a, 4), (.retire a, 5),
        (.advanceSvn a, 6)], u8At b 4 = c.2 → ∃ t, exec c.1 s = .next t ∧
      State.Signals (drawn (if recordResult u b = 1 then applyRecord stat b else stat.setBit Reg.secErr 0 true)) t) ∧
  (∀ (s : State) (b : List Byte),
    let ty := u8At b 4
    let r := recordResult s b
    (s.power.step.isSome = true → r = 9) ∧
    (s.power.step = none → recordForm b = false → r = 2) ∧
    (s.power.step = none → recordForm b = true →
      (u64At b 8 ≠ s.fuses.deviceId.toNat → r = 4) ∧
      (u64At b 8 = s.fuses.deviceId.toNat → sliceB b 16 48 ≠ nonceBytes s → r = 5) ∧
      (u64At b 8 = s.fuses.deviceId.toNat → sliceB b 16 48 = nonceBytes s → s.fuses.lifecycle = 0 →
        (ty = 1 → r = 6) ∧
        (u8At b 7 = 0xFE → ty = 3 ∨ ty = 5 ∨ ty = 6 ∨ (ty = 2 ∧ (ownerSlot s (u8At b 6)).valid = false) → r = 1)))) ∧
  (∀ (s : State) (b : List Byte),
    let ty := u8At b 4
    let w := applyRecord s b
    (ty ≠ 1 → w.fuses = (match ty with
        | 2 => { s.fuses with owners := s.fuses.owners.modify (u8At b 6) (fun o =>
            { o with hash := sliceB b 64 48, valid := true }) }
        | 3 => { s.fuses with owners := s.fuses.owners.modify (u8At b 6) (fun o => { o with revoked := true }) }
        | 4 => { s.fuses with pending := max s.fuses.pending 1 }
        | 5 => { s.fuses with pending := max s.fuses.pending 2 }
        | _ => { s.fuses with svnImage := max s.fuses.svnImage (min 64 (u32At b 64))
                              svnFw := max s.fuses.svnFw (min 64 (u32At b 68)) })) ∧
    (s.Inv → ty = 1 → w.fuses = s.fuses ∧ w.fld Reg.secDebug 1 0 = u8At b 5 % 4 ∧ w.fld Reg.secDebug 31 16 = u16At b 64)) ∧
  (∀ (s v : State) (a : Word) (nonce : List Byte), unitRead s ((a &&& ~~~0x3F) + 104) 48 3 none = (v, stOK, nonce) →
    let body := reportBody v nonce
    let w := unitWrite v (a &&& ~~~0x3F) (body ++ sliceB (Config.identitySign v.freeCtr body) 0 96 ++ zeroBytes 8)
    exec (.secAttest a) s = .next (if w.2 = stOK
      then raise ((w.1.bumpFree.setFld Reg.secAttestStat 7 0 1).wrapFld Reg.secAttestStat 63 8 1) 196
      else w.1.setFld Reg.secAttestStat 7 0 3)) ∧
  (∀ (s : State) (rec_ : List Byte), tapReaches s = true → exec (.secaccess rec_) s =
    .next (submitRecord { s with sec := { s.sec with bypass := false, tap := [] } } (sliceB rec_ 0 320)))

/-- SEC_DEBUG sets level and mask in MANUFACTURE; after it, a write of the same or a higher level changes nothing and a
lower one takes effect, ending the session at level 0. DEBUG_SESSION_END changes nothing without a session, brings the
time to the end of one or ends one that is due: level 0, SEC_ERR bit 1, keepers released. IDCODE and BYPASS answer at
every level while the TAP has power; OBSREAD needs a level above 0, MEMACC, SAMPLE_PRELOAD, EXTEST and KHALT need D3;
below, they set SEC_ERR bit 3 and change nothing else, and with the TAP out of reach nothing at all. At D3,
SAMPLE_PRELOAD answers a free value, EXTEST resets the device and keeps the session, KHALT halts and releases its
keeper, its step and MEMACC do the access. Rests on R464, R474, R480, R493. -/
def Obligations.DebugLevelsAndTheTap : Prop :=
  (∀ (s : State) (v : Word), s.Inv →
    (s.fuses.lifecycle = 0 → ∃ t, exec (.debugWrite v) s = .next t ∧ debugLevel t = bitsOf v 1 0 ∧
      t.fld Reg.secDebug 31 16 = bitsOf v 31 16 ∧ t.reg Reg.secDebugEnd = 0 ∧ t.mem = s.mem ∧ t.fuses = s.fuses) ∧
    (s.fuses.lifecycle ≠ 0 → debugLevel s ≤ bitsOf v 1 0 → exec (.debugWrite v) s = .next s) ∧
    (s.fuses.lifecycle ≠ 0 → bitsOf v 1 0 < debugLevel s → ∃ t, exec (.debugWrite v) s = .next t ∧
      debugLevel t = bitsOf v 1 0 ∧ t.mem = s.mem ∧ t.fuses = s.fuses ∧ t.power.halted = [] ∧
      (if bitsOf v 1 0 = 0 then t.bit Reg.secErr 1 = true ∧ t.reg Reg.secDebugEnd = 0
        else t.fld Reg.secDebug 31 16 = s.fld Reg.secDebug 31 16 ∧ t.reg Reg.secDebugEnd = s.reg Reg.secDebugEnd))) ∧
  (∀ (s : State), s.Inv →
    (debugLevel s = 0 ∨ s.reg Reg.secDebugEnd = 0 → exec .debugSessionEnd s = .next s) ∧
    (debugLevel s ≠ 0 → s.reg Reg.secDebugEnd ≠ 0 → s.now < (s.reg Reg.secDebugEnd).toNat →
      exec .debugSessionEnd s = .next (endSession (runTo s (s.reg Reg.secDebugEnd).toNat))) ∧
    (debugLevel s ≠ 0 → s.reg Reg.secDebugEnd ≠ 0 → (s.reg Reg.secDebugEnd).toNat ≤ s.now →
      ∃ t, exec .debugSessionEnd s = .next t ∧ debugLevel t = 0 ∧ t.reg Reg.secDebugEnd = 0 ∧ t.bit Reg.secErr 1 = true ∧
        t.power.halted = [] ∧ t.mem = s.mem ∧ t.fuses = s.fuses)) ∧
  (∀ (s : State),
    (s.power.off = true → exec .idcode s = .next s ∧ exec .bypass s = .next s) ∧
    (s.power.off = false →
      exec .idcode s = .next { s with sec := { s.sec with bypass := false, tap := wordBytes Config.idcode } } ∧
      exec .bypass s = .next { s with sec := { s.sec with bypass := true, tap := [] } })) ∧
  (∀ (s : State) (off : Word) (k : Fin 4) (act : HaltAction) (acc : TapAccess), s.Inv →
    (tapReaches s = false → ∀ c ∈ [Instr.obsread off, .memacc acc, .samplePreload, .extest, .khalt k act],
      exec c s = .next s) ∧
    (tapReaches s = true → debugLevel s < 3 → ∀ c ∈ [Instr.memacc acc, .samplePreload, .extest, .khalt k act],
      ∃ t, exec c s = .next t ∧ State.Signals (s.setBit Reg.secErr 3 true) t) ∧
    (tapReaches s = true → debugLevel s = 0 →
      ∃ t, exec (.obsread off) s = .next t ∧ State.Signals (s.setBit Reg.secErr 3 true) t) ∧
    (tapReaches s = true → 0 < debugLevel s → exec (.obsread off) s = .next (
      if 0x60000 ≤ off.toNat ∧ off.toNat < 0x70000 ∧ off.toNat % 8 = 0 ∧ findReg off.toNat ≠ none
        then tapAnswer (readReg s off.toNat).1 (wordBytes (readReg s off.toNat).2) else s)) ∧
    (tapReaches s = true → debugLevel s = 3 →
      exec (.memacc acc) s = .next (memAccess s acc) ∧
      exec .samplePreload s = .next { s with
        sec := { s.sec with bypass := false, tap := wordBytes (Config.freeWord s.freeCtr) }, freeCtr := s.freeCtr + 1 } ∧
      (∃ t, exec .extest s = .next t ∧ t.sec.extest = true ∧ debugLevel t = 3 ∧
        t.reg Reg.secDebugEnd = s.reg Reg.secDebugEnd ∧ t.ops = [] ∧ t.fab = State.reset.fab ∧ t.fuses = s.fuses) ∧
      exec (.khalt k .step) s = .next s ∧
      (∃ t, exec (.khalt k .halt) s = .next t ∧ (∀ j, j ∈ t.power.halted ↔ j ∈ s.power.halted ∨ j = k.val) ∧
        t.bit Reg.pwrState 3 = (s.power.step == some 2 || s.power.step == some 3) ∧ t.mem = s.mem) ∧
      (∃ t, exec (.khalt k .release) s = .next t ∧ (∀ j, j ∈ t.power.halted ↔ j ∈ s.power.halted ∧ j ≠ k.val) ∧
        ((∀ j ∈ s.power.halted, j = k.val) → t.bit Reg.pwrState 3 = false) ∧ t.mem = s.mem)))

/-- A TARGET write starts the first step, or leaves the one under way; each step that is not due changes nothing. P0_TO_P1
waits for a Lamp edge and P1_TO_P0 does not; P1_TO_P2 waits until nothing is left to drain; P2_TO_P1 restarts the Lamp
and the links; P2_TO_P3 loses operations, links, strands and traces, ends the debug session and keeps the fuses, and
with a wake recorded during the step goes on to P0 by a wake start. That a step passes the time to its edge is the
model's choice (log 3). Rests on R57, R477, R479, R430. -/
def Obligations.PowerStatesAreStepped : Prop :=
  (∀ (s : State) (v : Word), s.Inv → s.power.off = false → s.power.thermtrip = false → s.bit Reg.pwrBrown 1 = false →
    s.power.halted = [] →
    let g := min 3 (bitsOf v 2 0)
    let p := pState s
    ∃ t, exec (.powerTarget v) s = .next t ∧ pwrTarget t = g ∧ pState t = p ∧ t.mem = s.mem ∧
      t.power = if s.power.step.isSome ∨ p = 3 ∨ g = p then { s.power with woken := false }
        else { s.power with woken := false, step := some (if p < g then p + 1 else p - 1), since := s.lamp.counted }) ∧
  (∀ s : State, s.power.step.isSome →
    (pState s = 0 → s.power.step = some 1 →
      (lampOn s = false ∨ s.lamp.counted ≠ s.power.since → exec .p0ToP1 s = .next (enterPower s 1)) ∧
      (lampOn s = true → s.lamp.counted = s.power.since → exec .p0ToP1 s = .next (enterPower (doEdge
        (if edgeDue s then s else advanceTo s (s.lamp.next * lampPeriod s))) 1))) ∧
    (¬ (pState s = 0 ∧ s.power.step = some 1) → exec .p0ToP1 s = .next s) ∧
    (exec .p1ToP0 s = .next (if pState s = 1 ∧ s.power.step = some 0 then enterPower s 0 else s)) ∧
    (exec .p1ToP2 s = .next (if pState s = 1 ∧ s.power.step = some 2 ∧ drainBusy s = false ∧ s.power.halted = []
      then enterPower (idleDevice s) 2 else s)) ∧
    (exec .p2ToP1 s = .next (if pState s = 2 ∧ s.power.step = some 1
      then wakeLinks (restartLamp (enterPower (s.setBit Reg.hstStat 10 false) 1)) else s)) ∧
    (¬ (pState s = 2 ∧ s.power.step = some 3 ∧ s.power.halted = []) → exec .p2ToP3 s = .next s)) ∧
  (∀ (s : State) (p : Fin 4), s.Inv → s.power.off = false → s.power.thermtrip = false → s.bit Reg.pwrBrown 1 = false →
    s.power.woken = false → s.power.halted = [] →
    let t := enterPower s p.val
    pState t = p.val ∧ t.mem = s.mem ∧ t.ops = s.ops ∧
      t.power = (if p.val = 3 ∨ pwrTarget s = p.val then { s.power with step := none }
        else { s.power with step := some (if p.val < pwrTarget s then p.val + 1 else p.val - 1), since := s.lamp.counted })) ∧
  (∀ s : State, s.Inv → pState s = 2 → s.power.step = some 3 → s.power.halted = [] →
    (s.power.wake = none → ∃ t, exec .p2ToP3 s = .next t ∧ pState t = 3 ∧ t.ops = [] ∧ t.fab = State.reset.fab ∧
      t.str = State.reset.str ∧ t.obs.lers = [] ∧ t.ep.needPerst = true ∧ debugLevel t = 0 ∧ t.fuses = s.fuses ∧
      t.reg Reg.intAlatch = s.reg Reg.intAlatch) ∧
    (∀ c, c < 16 → s.power.wake = some c → ∃ t, exec .p2ToP3 s = .next t ∧ pState t = 0 ∧ t.fld Reg.pwrState 7 4 = c ∧
      t.fld Reg.gctlBoot 5 4 = 2 ∧ t.fld Reg.gctlBoot 3 0 = 2 ∧ t.ops = [] ∧ debugLevel t = 0))

/-- VR_ALERT, BROWNOUT_DRAIN (at HOLD_US after the request, log 3) and BROWNOUT_END set and clear the brownout bits with
their errors and counts; DROOP counts, but not in P3 or without power; TEMP_UPDATE shows the highest reading and a
sensor that gave it (which of equal ones is free, log 60) and keeps the highest reading. WAKE_EVENT latches its source
and, when enabled, wakes the device from P2 and P3 with its cause code and is kept during the step to P3; ASYNC_LATCH
latches its bit; AON_LOSS and THERMTRIP lose what their rules say; DVFS_POINT takes effect at an edge or at once, and
its clock is raised when its time has come; a POWER_WINDOW within every limit throttles nobody and shows base and sum,
and in P2 and P3 changes nothing. Rests on R478, R500, R502, R511, R513, R514, R515, R516, R519, R520, R521, R533. -/
def Obligations.PowerEvents : Prop :=
  ((∀ s : State, s.Inv →
      let low := { s with power := { s.power with vrAlert := true } }
      (s.bit Reg.pwrBrown 0 = false ∨ 2 ≤ pState s → exec .vrAlert s = .next low) ∧
      (s.bit Reg.pwrBrown 0 = true → pState s < 2 → s.bit Reg.pwrBrown 1 = true →
        exec .vrAlert s = .next (low.satFld Reg.pwrCount 63 48 1)) ∧
      (s.bit Reg.pwrBrown 0 = true → pState s < 2 → s.bit Reg.pwrBrown 1 = false →
        ∃ t, exec .vrAlert s = .next t ∧ t.bit Reg.pwrBrown 1 = true ∧ t.bit Reg.pwrErr 0 = true ∧
          t.fld Reg.pwrCount 63 48 = satAdd 16 (s.fld Reg.pwrCount 63 48) 1 ∧ t.power.halted = [] ∧ t.mem = s.mem ∧
          (s.fld Reg.pwrBrown 31 16 = 0 → t.bit Reg.pwrBrown 2 = true ∧ t.bit Reg.pwrErr 2 = true) ∧
          (s.fld Reg.pwrBrown 31 16 ≠ 0 → t.power = { s.power with
            vrAlert := true, halted := [], holdAt := s.tim.ticks
            step := if s.power.step = some 0 then none else s.power.step }))) ∧
    (∀ s : State,
      let ends := s.power.holdAt + 125 * s.fld Reg.pwrBrown 31 16
      let drained := fun (u : State) => nextStep (sticky (u.setBit Reg.pwrBrown 2 true) Reg.pwrErr 2 (some 4))
      (drainDue s = false → exec .brownoutDrain s = .next s) ∧
      (drainDue s = true → ends ≤ s.tim.ticks → exec .brownoutDrain s = .next (drained s)) ∧
      (drainDue s = true → s.tim.ticks < ends → exec .brownoutDrain s = .next (
        if drainDue (runTicks s ends) then drained (runTicks s ends) else runTicks s ends))) ∧
    (∀ s : State,
      let high := { s with power := { s.power with vrAlert := false } }
      (brownStands high = true ∨ s.bit Reg.pwrBrown 1 = false → exec .brownoutEnd s = .next high) ∧
      (brownStands high = false → s.bit Reg.pwrBrown 1 = true → exec .brownoutEnd s = .next (nextStep (sticky
        ((high.setBit Reg.pwrBrown 1 false).setBit Reg.pwrBrown 2 false) Reg.pwrErr 1 (some 3))))) ∧
    (∀ s : State, s.Inv →
      (pState s = 3 ∨ s.power.off = true ∨ s.power.thermtrip = true → exec .droop s = .next s) ∧
      (pState s ≠ 3 → s.power.off = false → s.power.thermtrip = false → ∃ t, exec .droop s = .next t ∧
        State.Signals ((s.satFld Reg.pwrCount 47 32 1).setBit Reg.pwrErr 4 true) t) ∧
      (∀ rs : List (BitVec 16), rs.length = 16 → ∃ (t : State) (i : Fin 16), exec (.tempUpdate rs) s = .next t ∧
          t = { s with regs := t.regs, freeCtr := t.freeCtr, power := { s.power with temps := rs.map BitVec.toNat } } ∧
          (∀ x ∈ rs, x.toInt ≤ (rs.getD i.val 0).toInt) ∧
          t.fld Reg.pwrTemp 15 0 = (rs.getD i.val 0).toNat ∧ t.fld Reg.pwrTemp 19 16 = i.val ∧
          (sextN 16 (s.fld Reg.pwrTemp 47 32) < (rs.getD i.val 0).toInt → t.fld Reg.pwrTemp 47 32 = (rs.getD i.val 0).toNat) ∧
          (¬ sextN 16 (s.fld Reg.pwrTemp 47 32) < (rs.getD i.val 0).toInt →
            t.fld Reg.pwrTemp 47 32 = s.fld Reg.pwrTemp 47 32) ∧
          ∀ o, o ≠ Reg.pwrTemp → t.reg o = s.reg o))) ∧
  ((∀ (s : State) (c : WakeCause), s.Inv →
      let b := wakeBit c
      let code := wakeCode c
      let u := if b < 19 then s.setBit Reg.intAlatch b true else s
      (s.power.off = true ∨ s.power.thermtrip = true → exec (.wakeEvent c) s = .next s) ∧
      (s.power.off = false → s.power.thermtrip = false → (c = .time → (s.reg Reg.pwrWakeTime).toNat ≤ s.now) →
        (s.bit Reg.pwrWakeEn b = false → exec (.wakeEvent c) s = .next u) ∧
        (c = .interrupt → pState s ≠ 2 ∨ anyAsserted s = false → exec (.wakeEvent c) s = .next u) ∧
        (s.bit Reg.pwrWakeEn b = true → pState s < 2 → exec (.wakeEvent c) s = .next u) ∧
        (s.bit Reg.pwrWakeEn b = true → (c = .interrupt → anyAsserted s = true) → pState s = 2 → s.power.step = some 3 →
          exec (.wakeEvent c) s = .next { u with power := { u.power with wake := some code } }) ∧
        (s.bit Reg.pwrWakeEn b = true → (c = .interrupt → anyAsserted s = true) → pState s = 2 → s.power.step ≠ some 3 →
          ∃ t, exec (.wakeEvent c) s = .next t ∧ t.power.woken = true ∧ t.fld Reg.pwrState 7 4 = code ∧
            t.bit Reg.pwrBrown 1 = false ∧ t.mem = s.mem ∧ t.ops = s.ops) ∧
        (s.bit Reg.pwrWakeEn b = true → c ≠ .interrupt → pState s = 3 →
          ∃ t, exec (.wakeEvent c) s = .next t ∧ pState t = 0 ∧ t.fld Reg.pwrState 7 4 = code ∧
            t.fld Reg.gctlBoot 5 4 = 2 ∧ t.fld Reg.gctlBoot 3 0 = 2 ∧ t.bit Reg.intAlatch b = true ∧ t.mem = s.mem ∧
            t.fuses = { s.fuses with lifecycle := s.fuses.pending }))) ∧
    (∀ (s : State) (b : Fin 27),
      (s.power.off = false → b.val < 25 → exec (.asyncLatch b) s = .next (s.setBit Reg.intAlatch b.val true)) ∧
      (s.power.off = true ∨ 25 ≤ b.val → exec (.asyncLatch b) s = .next s)) ∧
    (∀ s : State, s.Inv →
      (∃ t, exec .aonLoss s = .next t ∧ t.power.off = true ∧ t.ops = [] ∧ t.fuses = s.fuses ∧ t.boot.xspi = s.boot.xspi ∧
        t.tim = State.reset.tim) ∧
      (∃ t, exec .thermtrip s = .next t ∧ t.power.thermtrip = true ∧ t.ops = [] ∧ t.fab = State.reset.fab ∧
        debugLevel t = 0 ∧ t.fuses = s.fuses ∧ t.tim.n = s.tim.n ∧ t.tier.objs = s.tier.objs) ∧
      (∀ (v : Word) (ack : Bool), lampOn s = true → ∃ t, exec (.dvfsPoint v ack) s = .next t ∧
        t = { s with regs := t.regs, power := { s.power with vrAck := ack, point := some (min 3 (bitsOf v 2 0)) } } ∧
        t.fld Reg.pwrDvfs 2 0 = min 3 (bitsOf v 2 0) ∧ (∀ o, o ≠ Reg.pwrDvfs → t.reg o = s.reg o) ∧
        t.fld Reg.pwrDvfs 6 4 = s.fld Reg.pwrDvfs 6 4) ∧
      (∀ (v : Word) (ack : Bool), lampOn s = false → exec (.dvfsPoint v ack) s = .next (applyPoint
        ({ s with power := { s.power with vrAck := ack } }.setFld Reg.pwrDvfs 2 0 (min 3 (bitsOf v 2 0)))
        (min 3 (bitsOf v 2 0)))) ∧
      (s.power.raise = none → exec .dvfsClockRaise s = .next s) ∧
      (∀ p tick, s.power.raise = some (p, tick) → tick ≤ s.tim.ticks →
        exec .dvfsClockRaise s = .next ({ s with power := { s.power with raise := none } }.setFld Reg.pwrDvfs 6 4 p)) ∧
      (∀ p tick, s.power.raise = some (p, tick) → s.tim.ticks < tick →
        exec .dvfsClockRaise s = .next (raiseClock (runTicks s tick))) ∧
      (∀ (ds : List PowerDemand) (base : Nat),
        (2 ≤ pState s → exec (.powerWindow ds base) s = .next s) ∧
        (pState s < 2 → s.bit Reg.pwrBrown 1 = false → (∀ d ∈ ds, d.cls = 0) →
          let sum := (ds.map (·.tokens)).foldl (· + ·) 0
          let lim := min (s.fld Reg.pwrCap 7 0 * 4000) (s.fld Reg.pwrCap 15 8 * s.fld Reg.pwrDvfs 27 16 * 4)
          let avail := (lim - base * 1000) / 4000 * 4
          sum ≤ s.fld Reg.pwrCap 7 0 * 4 * s.fld Reg.lmpResv 47 40 / 100 → sum ≤ avail →
          ∃ t, exec (.powerWindow ds base) s = .next t ∧
            t.reg Reg.pwrToken = BitVec.ofNat 64 (base % 65536 + sum % 65536 * 2 ^ 16) ∧ t.power.prevLow = 0 ∧
            t.mem = s.mem ∧ ∀ o, o ≠ Reg.pwrToken → t.reg o = s.reg o))))

/-- At debug level 0, TRACE_ENABLE, FIRE, THAW and MARK are refused with OBS_ERR bit 1. TRACE_ENABLE of a valid ring
starts an empty buffer; TRACE_DRAIN of a chunk that is due moves up to 64 records to the ring and increments its buoy,
and of one that is not changes nothing; FREEZE of an enabled cause freezes and stamps, or when frozen adds its cause;
FIRE freezes as its cause; THAW lets capture go on and keeps the buffers; MARK adds an event of code 0x0D to the last-
event rings. Rests on R486, R487, R488, R490, R491, R493. -/
def Obligations.TracesFreezesAndMarks : Prop :=
  ∀ (s : State) (n : Fin 12) (v : Word), s.Inv →
    let ctl := Reg.obsTrCtl n.val
    let b := trBuf s n.val
    let denied := fun (t : State) => State.Signals (s.setBit Reg.obsErr 1 true) t
    (debugLevel s = 0 →
      (∃ t, exec (.traceEnable n) s = .next t ∧ denied t) ∧ (∃ t, exec .fire s = .next t ∧ denied t) ∧
      (∃ t, exec .thaw s = .next t ∧ denied t) ∧ (∃ t, exec (.mark v) s = .next t ∧ denied t)) ∧
    (0 < debugLevel s → s.fld ctl 23 22 ≠ 3 → s.bit ctl 0 = false → traceRingOk s n.val = true →
      ∃ t, exec (.traceEnable n) s = .next t ∧ t.bit ctl 0 = true ∧ t.reg (Reg.obsTrWrpos n.val) = 0 ∧
        trBuf t n.val = ⟨[], 0, none⟩ ∧ t.bit Reg.obsStat n.val = false ∧ t.fld ctl 23 22 = s.fld ctl 23 22 ∧
        t.mem = s.mem ∧ ∀ o, o ∉ [ctl, Reg.obsTrWrpos n.val, Reg.obsStat] → t.reg o = s.reg o) ∧
    (s.bit ctl 0 = false ∨ debugLevel s = 0 ∨ chunkDue s b = false ∨ (s.fld ctl 23 22 = 2 ∧ b.post ≠ some 0) →
      exec (.traceDrain n) s = .next s) ∧
    (s.bit ctl 0 = true → debugLevel s = 3 → chunkDue s b = true → s.fld ctl 23 22 = 0 → b.lost = 0 → b.post = none →
      0 < min (min 64 (ringRoom s n.val)) b.recs.length →
      let k := min (min 64 (ringRoom s n.val)) b.recs.length
      let u := (lookedRoom s n.val).setTrBuf n.val { b with recs := b.recs.drop k }
      exec (.traceDrain n) s =
        .next (bumpTo ((b.recs.take k).foldl (drainRec n.val) u) (s.reg (Reg.obsTrBuoy n.val)) true 3)) ∧
    (∀ c : FreezeCause, s.bit Reg.obsFreezeCtl (causeBit c) = false → exec (.freeze c) s = .next s) ∧
    (∀ c : FreezeCause, s.bit Reg.obsFreezeCtl (causeBit c) = true → frozen s = false →
      ∃ t, exec (.freeze c) s = .next t ∧ State.Signals s t ∧ frozen t = true ∧
        t.reg Reg.obsFreezeTime = BitVec.ofNat 64 s.now ∧ t.obs.causes = s.obs.causes ||| 2 ^ causeBit c) ∧
    (∀ c : FreezeCause, s.bit Reg.obsFreezeCtl (causeBit c) = true → frozen s = true →
      ∃ t, exec (.freeze c) s = .next t ∧ State.Signals s t ∧ t.obs = { s.obs with causes := s.obs.causes ||| 2 ^ causeBit c }) ∧
    (0 < debugLevel s → s.bit Reg.obsFreezeCtl 0 = true → s.bit Reg.obsFreezeCtl 33 = false → frozen s = false →
      ∃ t, exec .fire s = .next t ∧
      frozen t = true ∧ t.reg Reg.obsFreezeTime = BitVec.ofNat 64 s.now ∧ t.obs.causes = s.obs.causes ||| 1 ∧
      t.mem = s.mem) ∧
    (0 < debugLevel s → s.bit Reg.obsFreezeCtl 32 = false → ∃ t, exec .thaw s = .next t ∧ frozen t = false ∧
      t.obs.causes = 0 ∧ t.obs.outpin = false ∧ t.obs.bufs = s.obs.bufs ∧ t.obs.lers = s.obs.lers ∧ t.mem = s.mem) ∧
    (0 < debugLevel s → bitsOf v 3 0 < 12 → lerOpen s = true → s.bit (Reg.obsTrCtl (bitsOf v 3 0)) 0 = false →
      ∃ t r, exec (.mark v) s = .next t ∧ t = { s with obs := t.obs, freeCtr := s.freeCtr + 2 } ∧
        t.obs.bufs = s.obs.bufs ∧ r ∈ t.obs.lers.flatMap (·.recs) ∧ r.stamp = s.now ∧ r.event = 0x0D ∧
        r.arg0 = (v &&& ~~~0xF).toNat ∧ traceBufOf r.unit = some (bitsOf v 3 0))

/-- A rising edge of source 64k + b sets bit b of INT_PENDk whatever INT_ENk holds, and changes nothing when it is set
already. A write of m clears exactly the bits of m in its register. With an edge in the same cycle the bit ends set,
and it is delivered when enabled and newly asserted. Formalises R498. -/
def Obligations.InterruptPendingBits : Prop :=
  ∀ (s : State) (k : Fin 4) (b : Fin 64) (m : Word), s.Inv →
    let off := Reg.intPend k.val
    let n := 64 * k.val + b.val
    let cleared := s.setReg off (s.reg off &&& ~~~m)
    (s.bit off b.val = false → (raise s n).bit off b.val = true) ∧ (s.bit off b.val = true → raise s n = s) ∧
    (∃ t, exec (.intPendClear k m 0) s = .next t ∧ t = { s with regs := t.regs } ∧ t.reg off = s.reg off &&& ~~~m ∧
      ∀ o, o ≠ off → t.reg o = s.reg o) ∧
    (sourceReserved n = false → ∃ t, exec (.intPendClear k m (BitVec.ofNat 64 (2 ^ b.val))) s = .next t ∧
      t.bit off b.val = true ∧
      (s.bit (Reg.intEn k.val) b.val = false → t = cleared.setBit off b.val true) ∧
      (s.bit (Reg.intEn k.val) b.val = true → bitOf m b.val = true ∨ s.bit off b.val = false →
        t = deliver (cleared.setBit off b.val true) n))

/-- INT_ENk written so that no pending source becomes asserted delivers nothing; one that becomes asserted is delivered.
Delivery without MSIX is a signal to the keeper when KEEPER is set, with MSIX and no KEEPER a message of its vector
and no signal. BUOY_WATCH_ARM of a buoy that may be watched arms the source with its mode when its condition has no
outcome, and by AUTO and the outcome when it has; of an armed source it changes the mode; of a buoy that may not be
watched it disarms the source with INT_ERR bit 0. Rests on R499, R506, R507. -/
def Obligations.InterruptsAreDelivered : Prop :=
  ∀ (s : State) (k : Fin 4) (v : Word), s.Inv →
    (let rise := s.reg (Reg.intPend k.val) &&& v &&& ~~~(s.reg (Reg.intEn k.val))
     let u := s.setReg (Reg.intEn k.val) v
     (rise = 0 → exec (.intEnableWrite k v) s = .next u) ∧
     ∀ b : Fin 64, rise = BitVec.ofNat 64 (2 ^ b.val) →
       exec (.intEnableWrite k v) s = .next (deliver u (64 * k.val + b.val))) ∧
    (∀ n : Fin 256, bitOf (s.reg (Reg.intRoute n.val)) 7 = false →
      deliver s n.val = { s with keeperSignals :=
        (if bitOf (s.reg (Reg.intRoute n.val)) 8 = true then [n.val] else []) ++ s.keeperSignals }) ∧
    (∀ n : Fin 256, bitOf (s.reg (Reg.intRoute n.val)) 7 = true → bitOf (s.reg (Reg.intRoute n.val)) 8 = false →
      deliver s n.val = { msixDue s (bitsOf (s.reg (Reg.intRoute n.val)) 5 0) with keeperSignals := s.keeperSignals }) ∧
    (∀ (b : Fin 48) (auto : Bool), s.bit (Reg.intBwAddr b.val) 0 = true → exec (.buoyWatchArm b auto) s =
      .next (s.setReg (Reg.intBwAddr b.val) ((s.reg (Reg.intBwAddr b.val) &&& ~~~3) ||| (if auto then 3 else 1)))) ∧
    (∀ (b : Fin 48) (auto : Bool), s.bit (Reg.intBwAddr b.val) 0 = false →
      let off := Reg.intBwAddr b.val
      let a := s.reg off &&& ~~~7
      (buoyOk s a = true → watchCond (s.word (localOf a)) (s.reg (Reg.intBwCond b.val)) = none →
        ∃ t, exec (.buoyWatchArm b auto) s = .next t ∧ t = { s with regs := t.regs } ∧
          t.reg off = a ||| (if auto then 3 else 1) ∧ ∀ o, o ≠ off → t.reg o = s.reg o) ∧
      (∀ st, buoyOk s a = true → watchCond (s.word (localOf a)) (s.reg (Reg.intBwCond b.val)) = some st →
        ∃ t, exec (.buoyWatchArm b auto) s = .next t ∧ t.bit off 0 = (auto && st == stOK) ∧ t.mem = s.mem ∧ t.ops = s.ops) ∧
      (buoyOk s a = false → ∃ t, exec (.buoyWatchArm b auto) s = .next t ∧
        t = { s with regs := t.regs } ∧ t.bit off 0 = false ∧ t.bit Reg.intErr 0 = true))
end

