-- ==== Sys2Proof/Laws/Store.lean ====
section
/-! SUPPORT. The laws of the sparse store: every operation keeps the canonical form, a read after a write gives what was
written, and every other key reads as before. -/

set_option Elab.async false

namespace Sys2Proof.Machine

variable {β : Type} [DecidableEq β]

/-- The canonical form as a statement: keys strictly rising from `lo` on, no default value listed. -/
def KvOk (d : Nat → β) : Option Nat → List (Nat × β) → Prop
  | _, [] => True
  | lo, (k, v) :: m => (∀ l, lo = some l → l < k) ∧ v ≠ d k ∧ KvOk d (some k) m

theorem kvWf_iff (d : Nat → β) (m : List (Nat × β)) : kvWf d m = true ↔ KvOk d none m := by
  have h : ∀ (m : List (Nat × β)) (lo : Option Nat),
      (kvSorted lo m && m.all (fun e => decide (e.2 ≠ d e.1))) = true ↔ KvOk d lo m := by
    intro m
    induction m with
    | nil => intro lo; cases lo <;> simp [kvSorted, KvOk]
    | cons e m ih =>
      intro lo
      obtain ⟨k, v⟩ := e
      have := ih (some k)
      cases lo <;> simp [kvSorted, KvOk, ← this, and_assoc, and_left_comm]
  exact h m none

omit [DecidableEq β] in
theorem KvOk.weaken {d : Nat → β} {m : List (Nat × β)} {a b : Nat} (h : KvOk d (some b) m) (hab : a ≤ b) :
    KvOk d (some a) m := by
  cases m with
  | nil => trivial
  | cons e m => exact ⟨fun l hl => by have := h.1 b rfl; cases hl; omega, h.2⟩

omit [DecidableEq β] in
theorem KvOk.toNone {d : Nat → β} {m : List (Nat × β)} {lo : Option Nat} (h : KvOk d lo m) : KvOk d none m := by
  cases m with
  | nil => trivial
  | cons e m => exact ⟨nofun, h.2⟩

theorem kvSet_ok {d : Nat → β} {m : List (Nat × β)} {lo : Option Nat} {a : Nat} {b : β} (h : KvOk d lo m)
    (ha : ∀ l, lo = some l → l < a) : KvOk d lo (kvSet d m a b) := by
  induction m generalizing lo with
  | nil => unfold kvSet; split <;> simp_all [KvOk]
  | cons e m ih =>
    obtain ⟨k, v⟩ := e
    obtain ⟨h1, h2, h3⟩ := h
    unfold kvSet
    split
    · split
      · exact ⟨h1, h2, h3⟩
      · rename_i hb; exact ⟨ha, hb, fun l hl => by cases hl; assumption, h2, h3⟩
    · split
      · split
        · cases lo with
          | none => exact h3.toNone
          | some l => exact h3.weaken (Nat.le_of_lt (h1 l rfl))
        · rename_i hk hb; subst hk; exact ⟨ha, hb, h3⟩
      · exact ⟨h1, h2, ih h3 (fun l hl => by cases hl; omega)⟩

omit [DecidableEq β] in
theorem kvGet_of_lt {d : Nat → β} {m : List (Nat × β)} {lo a : Nat} (h : KvOk d (some lo) m) (ha : a ≤ lo) :
    kvGet d m a = d a := by
  induction m generalizing lo with
  | nil => rfl
  | cons e m ih =>
    obtain ⟨k, v⟩ := e
    have hk := h.1 lo rfl
    simp only [kvGet, if_neg (show k ≠ a by omega)]
    exact ih h.2.2 (by omega)

/-- Setting a key of a canonical store: that key reads as set, every other as before. -/
theorem kvGet_kvSet {d : Nat → β} {m : List (Nat × β)} {lo : Option Nat} (h : KvOk d lo m) (a : Nat) (b : β) (c : Nat) :
    kvGet d (kvSet d m a b) c = if c = a then b else kvGet d m c := by
  induction m generalizing lo with
  | nil =>
    unfold kvSet
    split <;> rename_i hb
    · by_cases hc : c = a <;> simp [kvGet, hc, hb]
    · by_cases hc : c = a
      · simp [kvGet, hc]
      · simp [kvGet, hc, Ne.symm hc]
  | cons e m ih =>
    obtain ⟨k, v⟩ := e
    obtain ⟨h1, h2, h3⟩ := h
    unfold kvSet
    split <;> rename_i hlt
    · have hm : kvGet d ((k, v) :: m) a = d a := by
        simp only [kvGet, if_neg (show k ≠ a by omega)]
        exact kvGet_of_lt h3 (by omega)
      split <;> rename_i hb
      · by_cases hc : c = a
        · rw [if_pos hc, hc, hm, hb]
        · rw [if_neg hc]
      · by_cases hc : c = a
        · simp [kvGet, hc]
        · simp [kvGet, hc, Ne.symm hc]
    · split <;> rename_i hk
      · subst hk
        split <;> rename_i hb
        · by_cases hc : c = a
          · rw [if_pos hc, hc, kvGet_of_lt h3 (Nat.le_refl _), hb]
          · simp [kvGet, hc, Ne.symm hc]
        · by_cases hc : c = a
          · simp [kvGet, hc]
          · simp [kvGet, hc, Ne.symm hc]
      · by_cases hkc : k = c
        · simp [kvGet, hkc, show c ≠ a by omega]
        · simp only [kvGet, if_neg hkc]; exact ih h3

theorem kvSet_wf {d : Nat → β} {m : List (Nat × β)} (a : Nat) (b : β) (h : kvWf d m = true) :
    kvWf d (kvSet d m a b) = true :=
  (kvWf_iff d _).2 (kvSet_ok ((kvWf_iff d m).1 h) nofun)

theorem kvSetAll_wf {d : Nat → β} {m : List (Nat × β)} (a : Nat) (bs : List β) (h : kvWf d m = true) :
    kvWf d (kvSetAll d m a bs) = true := by
  induction bs generalizing m a with
  | nil => exact h
  | cons b bs ih => exact ih (a + 1) (kvSet_wf a b h)

/-- Setting a range: the keys of the range read as set, every other as before. -/
theorem kvGet_kvSetAll {d : Nat → β} {m : List (Nat × β)} (h : kvWf d m = true) (a : Nat) (bs : List β) (c : Nat) :
    kvGet d (kvSetAll d m a bs) c = if a ≤ c then (bs[c - a]?).getD (kvGet d m c) else kvGet d m c := by
  induction bs generalizing m a with
  | nil => simp [kvSetAll]
  | cons b bs ih =>
    simp only [kvSetAll]
    rw [ih (kvSet_wf a b h), kvGet_kvSet ((kvWf_iff d m).1 h)]
    by_cases h1 : c = a
    · subst h1; simp [show ¬ c + 1 ≤ c by omega]
    · by_cases h2 : a ≤ c
      · obtain ⟨n, hn⟩ : ∃ n, c - a = n + 1 := ⟨c - a - 1, by omega⟩
        have hn' : c - (a + 1) = n := by omega
        simp [h1, h2, hn, hn', show a + 1 ≤ c by omega]
      · simp [h1, h2, show ¬ a + 1 ≤ c by omega]

/-- A part of a canonical store, read over another default, is canonical where no cell equals that default. -/
theorem kvWf_filter {d d' : Nat → β} {m : List (Nat × β)} (p : Nat × β → Bool) (h : kvWf d m = true)
    (hp : ∀ e, e ∈ m → p e = true → e.2 ≠ d' e.1) : kvWf d' (m.filter p) = true := by
  rw [kvWf_iff] at h ⊢
  have aux : ∀ (m : List (Nat × β)) (lo : Option Nat), KvOk d lo m →
      (∀ e, e ∈ m → p e = true → e.2 ≠ d' e.1) → KvOk d' lo (m.filter p) := by
    intro m
    induction m with
    | nil => intros; trivial
    | cons e m ih =>
      intro lo h hp
      obtain ⟨k, v⟩ := e
      have hm : ∀ e, e ∈ m → p e = true → e.2 ≠ d' e.1 := fun e he => hp e (List.mem_cons_of_mem _ he)
      by_cases hpe : p (k, v) = true
      · rw [List.filter_cons_of_pos hpe]
        exact ⟨h.1, hp _ List.mem_cons_self hpe, ih _ h.2.2 hm⟩
      · rw [List.filter_cons_of_neg hpe]
        cases lo with
        | none => exact (ih _ h.2.2 hm).toNone
        | some l => exact (ih _ h.2.2 hm).weaken (Nat.le_of_lt (h.1 l rfl))
  exact aux m none h hp

theorem kvWf_ne {d : Nat → β} {m : List (Nat × β)} (h : kvWf d m = true) {e : Nat × β} (he : e ∈ m) : e.2 ≠ d e.1 := by
  simp only [kvWf, Bool.and_eq_true, List.all_eq_true, decide_eq_true_eq] at h
  exact h.2 e he

/-- Forgetting a range, where every other key keeps its default. -/
theorem kvDrop_wf {d d' : Nat → β} {m : List (Nat × β)} (lo len : Nat) (h : kvWf d m = true)
    (hd : ∀ a, a < lo ∨ lo + len ≤ a → d' a = d a) : kvWf d' (kvDrop m lo len) = true := by
  refine kvWf_filter _ h (fun e he hp => ?_)
  rw [hd e.1 (by simp at hp; omega)]
  exact kvWf_ne h he

omit [DecidableEq β] in
theorem kvRange_length (d : Nat → β) (m : List (Nat × β)) (a n : Nat) : (kvRange d m a n).length = n := by
  induction n generalizing a with
  | zero => rfl
  | succ n ih => simp [kvRange, ih]

omit [DecidableEq β] in
theorem kvRange_getElem? (d : Nat → β) (m : List (Nat × β)) (a n i : Nat) :
    (kvRange d m a n)[i]? = if i < n then some (kvGet d m (a + i)) else none := by
  induction n generalizing a i with
  | zero => simp [kvRange]
  | succ n ih =>
    cases i with
    | zero => simp [kvRange]
    | succ i => simp [kvRange, ih, Nat.add_comm, Nat.add_left_comm]

end Sys2Proof.Machine
end

