-- ==== Sys2Proof/Laws/Keeps.lean ====
section
/-! SUPPORT. The rules by which a function of the state is shown to keep what `State.Keeps` says, and the few operations
that write memory, registers, fills or the counter of free values. -/

set_option Elab.async false
set_option linter.unusedTactic false
set_option linter.unreachableTactic false

namespace Sys2Proof.Machine

theorem Fuses.Rises.refl (f : Fuses) : Fuses.Rises f f :=
  ⟨Nat.le_refl _, Nat.le_refl _, Nat.le_refl _, Nat.le_refl _, fun _ x h => ⟨x, h, id, id, fun _ => rfl⟩, rfl, rfl, rfl,
    rfl, rfl⟩

theorem Fuses.Rises.trans {a b c : Fuses} (h : Fuses.Rises a b) (k : Fuses.Rises b c) : Fuses.Rises a c := by
  refine ⟨Nat.le_trans h.1 k.1, Nat.le_trans h.2 k.2, Nat.le_trans h.3 k.3, Nat.le_trans h.4 k.4, ?_, k.6.trans h.6,
    k.7.trans h.7, k.8.trans h.8, k.9.trans h.9, k.10.trans h.10⟩
  intro i x hx
  obtain ⟨y, hy, r⟩ := h.owners i x hx
  obtain ⟨z, hz, q⟩ := k.owners i y hy
  exact ⟨z, hz, fun v => q.valid (r.valid v), fun v => q.revoked (r.revoked v),
    fun v => (q.hash (r.valid v)).trans (r.hash v)⟩

theorem State.Keeps.refl (s : State) : State.Keeps s s := ⟨id, rfl, fun _ => .refl _, Nat.le_refl _⟩

theorem State.Keeps.trans {a b c : State} (h : State.Keeps a b) (k : State.Keeps b c) : State.Keeps a c :=
  ⟨fun i => k.inv (h.inv i), k.pending.trans h.pending, fun i => (h.fuses i).trans (k.fuses (h.inv i)),
    Nat.le_trans h.freeCtr k.freeCtr⟩

variable {s₀ s : State}

/-- A change of the fields that `Keeps` does not speak of. -/
theorem keeps_mk {ops nextTag completions keeperSignals fab tier ep lamp seqs str clus ftab bram vis slv sns fus svc flt tim
    boot obs integ power sec} (h : State.Keeps s₀ s)
    (h1 : fab.links.length = s.fab.links.length := by first | rfl | simp | (simp; rfl))
    (h2 : seqs.length = s.seqs.length := by first | rfl | simp | (simp; rfl))
    (h3 : clus.length = s.clus.length := by first | rfl | simp | (simp; rfl))
    (h4 : vis.engines.length = s.vis.engines.length := by first | rfl | simp | (simp; rfl))
    (h5 : vis.slots.length = s.vis.slots.length := by first | rfl | simp | (simp; rfl))
    (h6 : slv.units.length = s.slv.units.length := by first | rfl | simp | (simp; rfl))
    (h7 : slv.slots.length = s.slv.slots.length := by first | rfl | simp | (simp; rfl))
    (h8 : sns.sources.length = s.sns.sources.length := by first | rfl | simp | (simp; rfl))
    (h9 : sns.trigs.length = s.sns.trigs.length := by first | rfl | simp | (simp; rfl))
    (h10 : flt.length = s.flt.length := by first | rfl | simp | (simp; rfl))
    (h11 : obs.bufs.length = s.obs.bufs.length := by first | rfl | simp | (simp; rfl))
    (h12 : boot.xspi = s.boot.xspi := by rfl) :
    State.Keeps s₀ (State.mk s.regs s.mem s.fills ops nextTag completions keeperSignals fab tier ep lamp seqs str clus ftab
      bram vis slv sns fus svc flt tim boot obs integ power s.fuses sec s.freeCtr s.pending) := by
  refine h.trans ⟨fun i => ⟨⟨i.1.1, i.1.2, ?_⟩, ?_, i.3⟩, rfl, fun _ => .refl _, Nat.le_refl _⟩
  · rw [h12]; exact i.1.3
  · have k := i.2
    exact ⟨h1.trans k.1, h2.trans k.2, h3.trans k.3, h4.trans k.4, h5.trans k.5, h6.trans k.6, h7.trans k.7, h8.trans k.8,
      h9.trans k.9, h10.trans k.10, h11.trans k.11, k.12⟩

theorem keeps_ite_else {c : Prop} [Decidable c] {t : State} (h : State.Keeps s₀ s)
    (k : State.Keeps s₀ s → State.Keeps s₀ t) : State.Keeps s₀ (if c then t else s) := by split <;> simp_all

theorem keeps_ite_then {c : Prop} [Decidable c] {t : State} (h : State.Keeps s₀ s)
    (k : State.Keeps s₀ s → State.Keeps s₀ t) : State.Keeps s₀ (if c then s else t) := by split <;> simp_all

theorem keeps_ite_fst {β : Type} {c : Prop} [Decidable c] {a b : State × β} (h : State.Keeps s₀ a.1)
    (k : State.Keeps s₀ b.1) : State.Keeps s₀ (if c then a else b).1 := by split <;> assumption

/-- The state of a pair: stated so that the kernel compares the pairs and not what their parts compute. -/
theorem keeps_fst {β : Type} {b : β} (h : State.Keeps s₀ s) : State.Keeps s₀ (s, b).1 := h

theorem keeps_foldl {α : Type} {f : State → α → State} {l : List α} (h : State.Keeps s₀ s)
    (hf : ∀ s x, State.Keeps s₀ s → State.Keeps s₀ (f s x)) : State.Keeps s₀ (l.foldl f s) := by
  induction l generalizing s with
  | nil => exact h
  | cons x l ih => exact ih (hf s x h)

theorem keeps_foldl_fst {α β : Type} {f : State × β → α → State × β} {p : State × β} {l : List α}
    (h : State.Keeps s₀ p.1) (hf : ∀ p x, State.Keeps s₀ p.1 → State.Keeps s₀ (f p x).1) :
    State.Keeps s₀ (l.foldl f p).1 := by
  induction l generalizing p with
  | nil => exact h
  | cons x l ih => exact ih (hf p x h)

theorem keeps_foldlM {α : Type} {f : State → α → Option State} {l : List α} {t : State} (h : State.Keeps s₀ s)
    (hf : ∀ s x, State.Keeps s₀ s → ∀ t, f s x = some t → State.Keeps s₀ t) (ht : l.foldlM f s = some t) :
    State.Keeps s₀ t := by
  induction l generalizing s with
  | nil => cases ht; exact h
  | cons x l ih =>
    rw [List.foldlM_cons] at ht
    obtain ⟨u, hu, ht⟩ := Option.bind_eq_some_iff.1 ht
    exact ih (hf s x h u hu) ht

theorem outKeeps_next {t : State} (h : State.Keeps s₀ t) : OutKeeps s₀ (.next t) := h

/-! ### The operations that write what `Keeps` speaks of -/

theorem State.setReg_keeps {off : Nat} {w : Word} (h : State.Keeps s₀ s) : State.Keeps s₀ (s.setReg off w) :=
  h.trans ⟨fun i => ⟨⟨i.1.1, kvSet_wf _ _ i.1.2, i.1.3⟩, ⟨i.2.1, i.2.2, i.2.3, i.2.4, i.2.5, i.2.6, i.2.7, i.2.8, i.2.9,
    i.2.10, i.2.11, i.2.12⟩, i.3⟩, rfl, fun _ => .refl _, Nat.le_refl _⟩

theorem State.bumpFree_keeps (h : State.Keeps s₀ s) : State.Keeps s₀ s.bumpFree :=
  h.trans ⟨fun i => ⟨⟨i.1.1, i.1.2, i.1.3⟩, ⟨i.2.1, i.2.2, i.2.3, i.2.4, i.2.5, i.2.6, i.2.7, i.2.8, i.2.9,
    i.2.10, i.2.11, i.2.12⟩, i.3⟩, rfl, fun _ => .refl _, Nat.le_succ _⟩

theorem pickCode_keeps {l : List Nat} (h : State.Keeps s₀ s) : State.Keeps s₀ (pickCode s l).1 := by
  unfold pickCode
  dsimp only
  split
  · exact h
  · exact State.bumpFree_keeps h

theorem State.store_keeps {a : Nat} {bs : List Byte} (h : State.Keeps s₀ s) : State.Keeps s₀ (s.store a bs) :=
  h.trans ⟨fun i => ⟨⟨kvSetAll_wf _ _ i.1.1, i.1.2, i.1.3⟩, ⟨i.2.1, i.2.2, i.2.3, i.2.4, i.2.5, i.2.6, i.2.7, i.2.8, i.2.9,
    i.2.10, i.2.11, i.2.12⟩, i.3⟩, rfl, fun _ => .refl _, Nat.le_refl _⟩

/-- Fills that lie within a range may go, where the range is forgotten. -/
theorem memDefault_filter (fills : List Fill) (lo len a : Nat) (ha : a < lo ∨ lo + len ≤ a) :
    memDefault (fills.filter (fun g => !(decide (lo ≤ g.lo) && decide (g.lo + g.len ≤ lo + len)))) a =
      memDefault fills a := by
  unfold memDefault
  rw [List.find?_filter]
  congr 1
  congr 1
  funext g
  by_cases h : g.lo ≤ a ∧ a < g.lo + g.len
  · simp only [h, decide_true, Bool.and_true, Bool.not_eq_eq_eq_not, Bool.not_true, Bool.and_eq_false_imp,
      decide_eq_true_eq, decide_eq_false_iff_not, Nat.not_le]
    exact ⟨fun _ => by omega, trivial⟩
  · simp only [← Bool.decide_and, decide_eq_false h]; simp

theorem State.fillRange_keeps {lo len : Nat} {z : Bool} (h : State.Keeps s₀ s) : State.Keeps s₀ (s.fillRange lo len z) := by
  refine h.trans ⟨fun i => ⟨⟨?_, i.1.2, i.1.3⟩, ⟨i.2.1, i.2.2, i.2.3, i.2.4, i.2.5, i.2.6, i.2.7, i.2.8, i.2.9,
    i.2.10, i.2.11, i.2.12⟩, i.3⟩, rfl, fun _ => .refl _, ?_⟩
  · refine kvDrop_wf lo len i.1.1 (fun a ha => ?_)
    rw [← memDefault_filter s.fills lo len a ha]
    have : (decide (lo ≤ a) && decide (a < lo + len)) = false := by simp; omega
    simp only [State.fillRange]
    conv => lhs; unfold memDefault
    rw [List.find?_cons_of_neg (by simp [this])]
    rfl
  · show s.freeCtr ≤ if z = true then s.freeCtr else s.freeCtr + 1
    split <;> omega

/-- Cells that stay are canonical over the fills that stay. -/
theorem keptCells_wf {fills fills' F : List Fill} {mem mem' : List Host.Cell} {keep : Nat → Bool}
    (h : Memory.wf fills mem = true) (hm : mem' = keptCells mem F keep) (hf : fills' = F) :
    Memory.wf fills' mem' = true := by
  subst hm hf
  refine kvWf_filter _ h (fun e _ hp => ?_)
  simp only [Bool.and_eq_true, bne_iff_ne, ne_eq] at hp
  exact hp.2

/-- Cells that a test on their key selects and a function of the value changes, without those that then read as unlisted. -/
theorem kvOk_select {β : Type} [DecidableEq β] {d : Nat → β} (p : Nat → Bool) (f : Nat × β → Nat × β)
    (hf : ∀ e, (f e).1 = e.1) {m : List (Nat × β)} {lo : Option Nat} (h : KvOk d lo m) :
    KvOk d lo (((m.filter (fun e => p e.1)).map f).filter (fun e => e.2 != d e.1)) := by
  induction m generalizing lo with
  | nil => trivial
  | cons e m ih =>
    have step : KvOk d lo (((m.filter (fun e => p e.1)).map f).filter (fun e => e.2 != d e.1)) := by
      cases lo with
      | none => exact (ih h.2.2).toNone
      | some l => exact (ih h.2.2).weaken (Nat.le_of_lt (h.1 l rfl))
    rw [List.filter_cons]
    split
    · rw [List.map_cons, List.filter_cons]
      split
      · rename_i hv
        have hk := hf e
        generalize f e = w at hk hv
        obtain ⟨k', v'⟩ := w
        obtain ⟨k, v⟩ := e
        cases hk
        exact ⟨h.1, by simpa using hv, ih h.2.2⟩
      · exact step
    · exact step

/-- Registers that stay, one bit of them changed, are canonical. -/
theorem keptRegs_wf (h : kvWf regReset s.regs = true) : kvWf regReset (keptRegs s) = true :=
  (kvWf_iff _ _).2 (kvOk_select keptReg unlockRoute (fun _ => by unfold unlockRoute; split <;> rfl)
    ((kvWf_iff _ _).1 h))

end Sys2Proof.Machine
end

