-- ==== Sys2Proof/Laws/KeepsOps.lean ====
section
/-! SUPPORT. What the shared operations, observation, completions, quotas, accesses and strands keep of a state: one lemma
for each function, cited by those of the functions that call it. -/

set_option Elab.async false
set_option linter.unusedTactic false
set_option linter.unreachableTactic false

namespace Sys2Proof.Machine

/-! ### Machine/Ops.lean -/

theorem State.modLink_keeps {s₀ s : State} {l : Nat} {f : Link → Link} (hk : State.Keeps s₀ s) : State.Keeps s₀
    (State.modLink s l f) := by
  unfold State.modLink
  repeat' first
    | with_reducible
        first
          | assumption
    | refine keeps_mk ?_; with_reducible
        first
          | assumption
    | dsimp only
    | split

theorem State.setFld_keeps {s₀ s : State} {off hi lo v : Nat} (hk : State.Keeps s₀ s) : State.Keeps s₀ (State.setFld s
    off hi lo v) := by
  unfold State.setFld
  repeat' first
    | with_reducible
        first
          | assumption | refine State.setReg_keeps ?_
    | dsimp only
    | split

theorem State.satFld_keeps {s₀ s : State} {off hi lo add : Nat} (hk : State.Keeps s₀ s) : State.Keeps s₀ (State.satFld
    s off hi lo add) := by
  unfold State.satFld
  repeat' first
    | with_reducible
        first
          | assumption | refine State.setFld_keeps ?_
    | dsimp only
    | split

theorem State.setBit_keeps {s₀ s : State} {off i : Nat} {b : Bool} (hk : State.Keeps s₀ s) : State.Keeps s₀
    (State.setBit s off i b) := by
  unfold State.setBit
  repeat' first
    | with_reducible
        first
          | assumption | refine State.setFld_keeps ?_ | refine keeps_ite_else ?_ (fun _ => ?_)
    | dsimp only
    | split

theorem State.storeWord_keeps {s₀ s : State} {a : Nat} {w : Word} (hk : State.Keeps s₀ s) : State.Keeps s₀
    (State.storeWord s a w) := by
  unfold State.storeWord
  repeat' first
    | with_reducible
        first
          | assumption | refine State.store_keeps ?_
    | dsimp only
    | split

theorem State.wrapFld_keeps {s₀ s : State} {off hi lo add : Nat} (hk : State.Keeps s₀ s) : State.Keeps s₀
    (State.wrapFld s off hi lo add) := by
  unfold State.wrapFld
  repeat' first
    | with_reducible
        first
          | assumption | refine State.setFld_keeps ?_
    | dsimp only
    | split

theorem msixSend_keeps {s₀ s : State} {v : Nat} (hk : State.Keeps s₀ s) : State.Keeps s₀ (msixSend s v) := by
  unfold msixSend
  repeat' first
    | with_reducible
        first
          | assumption
    | refine keeps_mk ?_; with_reducible
        first
          | assumption
    | dsimp only
    | split

theorem msixDue_keeps {s₀ : State} {s : State} {v : Nat} (hk : State.Keeps s₀ s) : State.Keeps s₀ (msixDue s v) := by
  unfold msixDue
  repeat' first
    | with_reducible
        first
          | assumption | refine msixSend_keeps ?_ | refine State.setBit_keeps ?_
          | refine keeps_ite_else ?_ (fun _ => ?_)
    | dsimp only
    | split

theorem deliverAll_keeps {s₀ s : State} {srcs : List Nat} (hk : State.Keeps s₀ s) : State.Keeps s₀ (deliverAll s srcs)
    := by
  unfold deliverAll
  repeat' first
    | with_reducible
        first
          | assumption | refine msixDue_keeps ?_ | refine keeps_foldl ?_ (fun _ _ _ => ?_)
          | refine keeps_foldl_fst ?_ (fun _ _ _ => ?_)
    | refine keeps_mk ?_; with_reducible
        first
          | assumption | refine msixDue_keeps ?_ | refine keeps_foldl ?_ (fun _ _ _ => ?_)
          | refine keeps_foldl_fst ?_ (fun _ _ _ => ?_)
    | dsimp only
    | split

theorem deliver_keeps {s₀ s : State} {src : Nat} (hk : State.Keeps s₀ s) : State.Keeps s₀ (deliver s src) := by
  unfold deliver
  repeat' first
    | with_reducible
        first
          | assumption | refine deliverAll_keeps ?_
    | dsimp only
    | split

theorem exceedResv_keeps {s₀ s : State} {r : Nat} (hk : State.Keeps s₀ s) : State.Keeps s₀ (exceedResv s r) := by
  unfold exceedResv
  repeat' first
    | with_reducible
        first
          | assumption | refine State.satFld_keeps ?_ | refine State.setBit_keeps ?_
          | refine keeps_ite_else ?_ (fun _ => ?_)
    | refine keeps_mk ?_; with_reducible
        first
          | assumption | refine State.satFld_keeps ?_ | refine State.setBit_keeps ?_
          | refine keeps_ite_else ?_ (fun _ => ?_)
    | dsimp only
    | split

theorem holdPacket_keeps {s₀ s : State} {dst : Nat} {p : Packet} {vl own : Bool} (hk : State.Keeps s₀ s) : State.Keeps
    s₀ (holdPacket s dst p vl own) := by
  unfold holdPacket
  repeat' first
    | with_reducible
        first
          | assumption
    | refine keeps_mk ?_; with_reducible
        first
          | assumption
    | dsimp only
    | split

theorem msixRelease_keeps {s₀ : State} {s : State} (hk : State.Keeps s₀ s) : State.Keeps s₀ (msixRelease s) := by
  unfold msixRelease
  repeat' first
    | with_reducible
        first
          | assumption | refine msixSend_keeps ?_ | refine State.setBit_keeps ?_
          | refine keeps_ite_else ?_ (fun _ => ?_) | refine keeps_foldl ?_ (fun _ _ _ => ?_)
          | refine keeps_foldl_fst ?_ (fun _ _ _ => ?_)
    | dsimp only
    | split

theorem pump_keeps {s₀ : State} {s : State} {l : Nat} (hk : State.Keeps s₀ s) : State.Keeps s₀ (pump s l) := by
  unfold pump
  repeat' first
    | with_reducible
        first
          | assumption | refine exceedResv_keeps ?_ | refine State.modLink_keeps ?_ | refine State.setReg_keeps ?_
          | refine keeps_ite_else ?_ (fun _ => ?_)
    | dsimp only
    | split

theorem raiseCore_keeps {s₀ s : State} {src : Nat} (hk : State.Keeps s₀ s) : State.Keeps s₀ (raiseCore s src) := by
  unfold raiseCore
  repeat' first
    | with_reducible
        first
          | assumption | refine State.setBit_keeps ?_ | refine deliver_keeps ?_
          | refine keeps_ite_else ?_ (fun _ => ?_)
    | dsimp only
    | split

theorem transmit_keeps {s₀ s : State} {l : Nat} {p : Packet} {vl : Bool} (hk : State.Keeps s₀ s) : State.Keeps s₀
    (transmit s l p vl) := by
  unfold transmit
  repeat' first
    | with_reducible
        first
          | assumption | refine pump_keeps ?_ | refine State.modLink_keeps ?_
    | dsimp only
    | split

theorem sendPacket_keeps {s₀ s : State} {dst : Nat} {p : Packet} {vl own : Bool} (hk : State.Keeps s₀ s) : State.Keeps
    s₀ (sendPacket s dst p vl own).1 := by
  unfold sendPacket
  repeat' first
    | with_reducible
        first
          | assumption | refine holdPacket_keeps ?_ | refine transmit_keeps ?_
          | refine keeps_ite_else ?_ (fun _ => ?_) | refine keeps_ite_fst ?_ ?_
    | refine keeps_mk ?_; with_reducible
        first
          | assumption | refine holdPacket_keeps ?_ | refine transmit_keeps ?_
          | refine keeps_ite_else ?_ (fun _ => ?_) | refine keeps_ite_fst ?_ ?_
    | dsimp only
    | split

theorem respond_keeps {s₀ s : State} {node tag cls ptype status : Nat} {aux : Word} {data : List Byte} (hk :
    State.Keeps s₀ s) : State.Keeps s₀ (respond s node tag cls ptype status aux data) := by
  unfold respond
  repeat' first
    | with_reducible
        first
          | assumption | refine sendPacket_keeps ?_
    | dsimp only
    | split

theorem stickyCore_keeps {s₀ s : State} {off bit : Nat} {src : Option Nat} (hk : State.Keeps s₀ s) : State.Keeps s₀
    (stickyCore s off bit src) := by
  unfold stickyCore
  repeat' first
    | with_reducible
        first
          | assumption | refine State.setBit_keeps ?_ | refine raiseCore_keeps ?_
          | refine keeps_ite_else ?_ (fun _ => ?_)
    | dsimp only
    | split

/-! ### Machine/Obs.lean -/

theorem State.setTrBuf_keeps {s₀ s : State} {n : Nat} {b : TraceBuf} (hk : State.Keeps s₀ s) : State.Keeps s₀
    (State.setTrBuf s n b) := by
  unfold State.setTrBuf
  repeat' first
    | with_reducible
        first
          | assumption
    | refine keeps_mk ?_; with_reducible
        first
          | assumption
    | dsimp only
    | split

theorem bufRec_keeps {s₀ s : State} {n event tag arg0 : Nat} (hk : State.Keeps s₀ s) : State.Keeps s₀ (bufRec s n
    event tag arg0).1 := by
  unfold bufRec
  repeat' first
    | with_reducible
        first
          | assumption | refine State.bumpFree_keeps ?_
    | dsimp only
    | split

theorem count_keeps {s₀ s : State} {off n : Nat} (hk : State.Keeps s₀ s) : State.Keeps s₀ (count s off n) := by
  unfold count
  repeat' first
    | with_reducible
        first
          | assumption | refine State.setReg_keeps ?_
    | dsimp only
    | split

theorem chargeDomain_keeps {s₀ before : State} {dom : Nat} {s : State} (hk : State.Keeps s₀ s) : State.Keeps s₀
    (chargeDomain before dom s) := by
  unfold chargeDomain
  repeat' first
    | with_reducible
        first
          | assumption | refine count_keeps ?_
    | dsimp only
    | split

theorem countTier_keeps {s₀ s : State} {i n : Nat} (hk : State.Keeps s₀ s) : State.Keeps s₀ (countTier s i n) := by
  unfold countTier
  repeat' first
    | with_reducible
        first
          | assumption | refine count_keeps ?_
    | dsimp only
    | split

theorem trPush_keeps {s₀ s : State} {n : Nat} {r : ObsRec} {forced : Bool} (hk : State.Keeps s₀ s) : State.Keeps s₀
    (trPush s n r forced) := by
  unfold trPush
  repeat' first
    | with_reducible
        first
          | assumption | refine stickyCore_keeps ?_ | refine State.setTrBuf_keeps ?_ | refine State.satFld_keeps ?_
          | refine State.setBit_keeps ?_ | refine keeps_ite_else ?_ (fun _ => ?_)
    | dsimp only
    | split

theorem freezeBuf_keeps {s₀ : State} {causes : Nat} {s : State} {n : Nat} (hk : State.Keeps s₀ s) : State.Keeps s₀
    (freezeBuf causes s n) := by
  unfold freezeBuf
  repeat' first
    | with_reducible
        first
          | assumption | refine bufRec_keeps ?_ | refine trPush_keeps ?_ | refine State.setTrBuf_keeps ?_
          | refine State.setBit_keeps ?_ | refine keeps_ite_else ?_ (fun _ => ?_) | refine keeps_ite_fst ?_ ?_
    | dsimp only
    | split

theorem snapCounters_keeps {s₀ : State} {s : State} (hk : State.Keeps s₀ s) : State.Keeps s₀ (snapCounters s) := by
  unfold snapCounters
  repeat' first
    | with_reducible
        first
          | assumption | refine State.setReg_keeps ?_ | refine keeps_foldl ?_ (fun _ _ _ => ?_)
          | refine keeps_foldl_fst ?_ (fun _ _ _ => ?_)
    | dsimp only
    | split

theorem freezeNow_keeps {s₀ s : State} {causes : Nat} (hk : State.Keeps s₀ s) : State.Keeps s₀ (freezeNow s causes) :=
    by
  unfold freezeNow
  repeat' first
    | with_reducible
        first
          | assumption | refine raiseCore_keeps ?_ | refine freezeBuf_keeps ?_ | refine State.setBit_keeps ?_
          | refine snapCounters_keeps ?_ | refine State.setReg_keeps ?_ | refine keeps_ite_else ?_ (fun _ => ?_)
          | refine keeps_foldl ?_ (fun _ _ _ => ?_) | refine keeps_foldl_fst ?_ (fun _ _ _ => ?_)
    | refine keeps_mk ?_; with_reducible
        first
          | assumption | refine raiseCore_keeps ?_ | refine freezeBuf_keeps ?_ | refine State.setBit_keeps ?_
          | refine snapCounters_keeps ?_ | refine State.setReg_keeps ?_ | refine keeps_ite_else ?_ (fun _ => ?_)
          | refine keeps_foldl ?_ (fun _ _ _ => ?_) | refine keeps_foldl_fst ?_ (fun _ _ _ => ?_)
    | dsimp only
    | split

theorem freezeCause_keeps {s₀ s : State} {i : Nat} (hk : State.Keeps s₀ s) : State.Keeps s₀ (freezeCause s i) := by
  unfold freezeCause
  repeat' first
    | with_reducible
        first
          | assumption | refine freezeNow_keeps ?_ | refine keeps_ite_else ?_ (fun _ => ?_)
    | dsimp only
    | split

theorem freezeRisen_keeps {s₀ before s : State} (hk : State.Keeps s₀ s) : State.Keeps s₀ (freezeRisen before s) := by
  unfold freezeRisen
  repeat' first
    | with_reducible
        first
          | assumption | refine freezeNow_keeps ?_ | refine keeps_ite_else ?_ (fun _ => ?_)
    | dsimp only
    | split

theorem lerPush_keeps {s₀ s : State} {r : ObsRec} (hk : State.Keeps s₀ s) : State.Keeps s₀ (lerPush s r) := by
  unfold lerPush
  repeat' first
    | with_reducible
        first
          | assumption | refine keeps_ite_else ?_ (fun _ => ?_)
    | refine keeps_mk ?_; with_reducible
        first
          | assumption | refine keeps_ite_else ?_ (fun _ => ?_)
    | dsimp only
    | split

theorem obsPush_keeps {s₀ s : State} {r : ObsRec} (hk : State.Keeps s₀ s) : State.Keeps s₀ (obsPush s r) := by
  unfold obsPush
  repeat' first
    | with_reducible
        first
          | assumption | refine lerPush_keeps ?_ | refine freezeRisen_keeps ?_ | refine trPush_keeps ?_
          | refine keeps_ite_else ?_ (fun _ => ?_)
    | dsimp only
    | split

theorem obsEvent_keeps {s₀ s : State} {unit event cls dom : Nat} {global : Bool} {tag arg0 arg1 : Nat} (hk :
    State.Keeps s₀ s) : State.Keeps s₀ (obsEvent s unit event cls dom global tag arg0 arg1) := by
  unfold obsEvent
  repeat' first
    | with_reducible
        first
          | assumption | refine obsPush_keeps ?_
    | dsimp only
    | split

theorem raise_keeps {s₀ : State} {s : State} {src : Nat} (hk : State.Keeps s₀ s) : State.Keeps s₀ (raise s src) := by
  unfold raise
  repeat' first
    | with_reducible
        first
          | assumption | refine freezeRisen_keeps ?_ | refine raiseCore_keeps ?_
    | dsimp only
    | split

theorem sticky_keeps {s₀ s : State} {off bit : Nat} {src : Option Nat} (hk : State.Keeps s₀ s) : State.Keeps s₀
    (sticky s off bit src) := by
  unfold sticky
  repeat' first
    | with_reducible
        first
          | assumption | refine freezeRisen_keeps ?_ | refine stickyCore_keeps ?_
    | dsimp only
    | split

/-! ### Machine/Events.lean -/

theorem State.dropFault_keeps {s₀ s : State} {f : MediaFault} (hk : State.Keeps s₀ s) : State.Keeps s₀
    (State.dropFault s f) := by
  unfold State.dropFault
  repeat' first
    | with_reducible
        first
          | assumption
    | refine keeps_mk ?_; with_reducible
        first
          | assumption
    | dsimp only
    | split

theorem crcExhausted_keeps {s₀ : State} {s : State} (hk : State.Keeps s₀ s) : State.Keeps s₀ (crcExhausted s) := by
  unfold crcExhausted
  repeat' first
    | with_reducible
        first
          | assumption | refine State.satFld_keeps ?_ | refine sticky_keeps ?_
    | dsimp only
    | split

theorem rawStore_keeps {s₀ s : State} {a : Word} {bs : List Byte} (hk : State.Keeps s₀ s) : State.Keeps s₀ (rawStore s
    a bs).1 := by
  unfold rawStore
  repeat' first
    | with_reducible
        first
          | assumption | refine State.store_keeps ?_ | refine keeps_ite_else ?_ (fun _ => ?_)
          | refine keeps_ite_fst ?_ ?_
    | dsimp only
    | split

theorem rawBump_keeps {s₀ s : State} {a : Word} {ok : Bool} {cls : Nat} (hk : State.Keeps s₀ s) : State.Keeps s₀
    (rawBump s a ok cls).1 := by
  unfold rawBump
  repeat' first
    | with_reducible
        first
          | assumption | refine sendPacket_keeps ?_ | refine State.storeWord_keeps ?_
          | refine keeps_ite_else ?_ (fun _ => ?_) | refine keeps_ite_fst ?_ ?_
    | dsimp only
    | split

theorem journalRaw_keeps {s₀ s : State} {e : JEvent} {window : List Byte} (hk : State.Keeps s₀ s) : State.Keeps s₀
    (journalRaw s e window) := by
  unfold journalRaw
  repeat' first
    | with_reducible
        first
          | assumption | refine sticky_keeps ?_ | refine State.setReg_keeps ?_ | refine rawStore_keeps ?_
          | refine rawBump_keeps ?_ | refine keeps_ite_else ?_ (fun _ => ?_) | refine keeps_ite_fst ?_ ?_
    | refine keeps_mk ?_; with_reducible
        first
          | assumption | refine sticky_keeps ?_ | refine State.setReg_keeps ?_ | refine rawStore_keeps ?_
          | refine rawBump_keeps ?_ | refine keeps_ite_else ?_ (fun _ => ?_) | refine keeps_ite_fst ?_ ?_
    | dsimp only
    | split

theorem uncorrRaw_keeps {s₀ s : State} {la : Nat} (hk : State.Keeps s₀ s) : State.Keeps s₀ (uncorrRaw s la) := by
  unfold uncorrRaw
  repeat' first
    | with_reducible
        first
          | assumption | refine State.satFld_keeps ?_ | refine sticky_keeps ?_ | refine journalRaw_keeps ?_
    | dsimp only
    | split

theorem meetRaw_keeps {s₀ : State} {la : Nat} {s : State} {f : MediaFault} (hk : State.Keeps s₀ s) : State.Keeps s₀
    (meetRaw la s f) := by
  unfold meetRaw
  repeat' first
    | with_reducible
        first
          | assumption | refine State.dropFault_keeps ?_ | refine State.satFld_keeps ?_ | refine uncorrRaw_keeps ?_
          | refine crcExhausted_keeps ?_
    | dsimp only
    | split

/-! ### Machine/Complete.lean -/

theorem State.dropOp_keeps {s₀ s : State} {tag : Nat} (hk : State.Keeps s₀ s) : State.Keeps s₀ (State.dropOp s tag) :=
    by
  unfold State.dropOp
  repeat' first
    | with_reducible
        first
          | assumption
    | refine keeps_mk ?_; with_reducible
        first
          | assumption
    | dsimp only
    | split

theorem State.setStrand_keeps {s₀ s : State} {t : Strand} (hk : State.Keeps s₀ s) : State.Keeps s₀ (State.setStrand s
    t) := by
  unfold State.setStrand
  repeat' first
    | with_reducible
        first
          | assumption | refine keeps_ite_else ?_ (fun _ => ?_)
    | refine keeps_mk ?_; with_reducible
        first
          | assumption | refine keeps_ite_else ?_ (fun _ => ?_)
    | dsimp only
    | split

theorem State.tickReady_keeps {s₀ s : State} (hk : State.Keeps s₀ s) : State.Keeps s₀ (State.tickReady s) := by
  unfold State.tickReady
  repeat' first
    | with_reducible
        first
          | assumption
    | refine keeps_mk ?_; with_reducible
        first
          | assumption
    | dsimp only
    | split

theorem buoyWatchTest_keeps {s₀ s : State} {b : Nat} (hk : State.Keeps s₀ s) : State.Keeps s₀ (buoyWatchTest s b) :=
    by
  unfold buoyWatchTest
  repeat' first
    | with_reducible
        first
          | assumption | refine State.setFld_keeps ?_ | refine State.setBit_keeps ?_ | refine raise_keeps ?_
          | refine keeps_ite_else ?_ (fun _ => ?_)
    | dsimp only
    | split

theorem buoyWatchAll_keeps {s₀ : State} {s : State} (hk : State.Keeps s₀ s) : State.Keeps s₀ (buoyWatchAll s) := by
  unfold buoyWatchAll
  repeat' first
    | with_reducible
        first
          | assumption | refine buoyWatchTest_keeps ?_ | refine keeps_foldl ?_ (fun _ _ _ => ?_)
          | refine keeps_foldl_fst ?_ (fun _ _ _ => ?_)
    | dsimp only
    | split

theorem saveStrand_keeps {s₀ s : State} {t : Strand} (hk : State.Keeps s₀ s) : State.Keeps s₀ (saveStrand s t) := by
  unfold saveStrand
  repeat' first
    | with_reducible
        first
          | assumption | refine State.setStrand_keeps ?_ | refine State.store_keeps ?_
          | refine keeps_ite_else ?_ (fun _ => ?_)
    | dsimp only
    | split

theorem readyAt_keeps {s₀ s : State} {t : Strand} (hk : State.Keeps s₀ s) : State.Keeps s₀ (readyAt s t) := by
  unfold readyAt
  repeat' first
    | with_reducible
        first
          | assumption | refine saveStrand_keeps ?_
    | dsimp only
    | split

theorem wakeStrand_keeps {s₀ s : State} {t : Strand} (hk : State.Keeps s₀ s) : State.Keeps s₀ (wakeStrand s t) := by
  unfold wakeStrand
  repeat' first
    | with_reducible
        first
          | assumption | refine readyAt_keeps ?_
    | dsimp only
    | split

theorem settleStrands_keeps {s₀ : State} {x0 : Nat} {x1 : State} (hk : State.Keeps s₀ x1) : State.Keeps s₀
    (settleStrands x0 x1) := by
  induction x0 generalizing x1
  · unfold settleStrands
    repeat' first
      | with_reducible
          first
            | assumption | refine buoyWatchAll_keeps ?_ | refine State.tickReady_keeps ?_ | refine wakeStrand_keeps ?_
            | refine keeps_ite_else ?_ (fun _ => ?_) | refine keeps_foldl ?_ (fun _ _ _ => ?_)
            | refine keeps_foldl_fst ?_ (fun _ _ _ => ?_)
      | dsimp only
      | split
  · rename_i ih
    unfold settleStrands
    repeat' first
      | with_reducible
          first
            | assumption | refine ih ?_ | refine buoyWatchAll_keeps ?_ | refine State.tickReady_keeps ?_
            | refine wakeStrand_keeps ?_ | refine keeps_ite_else ?_ (fun _ => ?_)
            | refine keeps_foldl ?_ (fun _ _ _ => ?_) | refine keeps_foldl_fst ?_ (fun _ _ _ => ?_)
      | dsimp only
      | split

theorem settleOnce_keeps {s₀ : State} {s : State} (hk : State.Keeps s₀ s) : State.Keeps s₀ (settleOnce s) := by
  unfold settleOnce
  repeat' first
    | with_reducible
        first
          | assumption | refine settleStrands_keeps ?_
    | dsimp only
    | split

theorem bumpCore_keeps {s₀ s : State} {a : Word} {ok : Bool} {cls : Nat} (hk : State.Keeps s₀ s) : State.Keeps s₀
    (bumpCore s a ok cls).1 := by
  unfold bumpCore
  repeat' first
    | with_reducible
        first
          | assumption | refine meetRaw_keeps ?_ | refine rawBump_keeps ?_ | refine settleOnce_keeps ?_
          | refine keeps_ite_else ?_ (fun _ => ?_) | refine keeps_ite_fst ?_ ?_
          | refine keeps_foldl ?_ (fun _ _ _ => ?_) | refine keeps_foldl_fst ?_ (fun _ _ _ => ?_)
    | dsimp only
    | split

theorem putAway_keeps {s₀ s : State} {a : Word} {cls : Nat} {bs : List Byte} (hk : State.Keeps s₀ s) : State.Keeps s₀
    (putAway s a cls bs) := by
  unfold putAway
  repeat' first
    | with_reducible
        first
          | assumption | refine sendPacket_keeps ?_
    | dsimp only
    | split

theorem postHost_keeps {s₀ s : State} {la : Nat} {bs : List Byte} (hk : State.Keeps s₀ s) : State.Keeps s₀ (postHost s
    la bs) := by
  unfold postHost
  repeat' first
    | with_reducible
        first
          | assumption | refine countTier_keeps ?_
    | refine keeps_mk ?_; with_reducible
        first
          | assumption | refine countTier_keeps ?_
    | dsimp only
    | split

theorem writeResult_keeps {s₀ s : State} {a : Word} {cls status : Nat} {result : Word} (hk : State.Keeps s₀ s) :
    State.Keeps s₀ (writeResult s a cls status result) := by
  unfold writeResult
  repeat' first
    | with_reducible
        first
          | assumption | refine putAway_keeps ?_ | refine postHost_keeps ?_ | refine State.storeWord_keeps ?_
          | refine State.store_keeps ?_ | refine keeps_ite_else ?_ (fun _ => ?_)
    | dsimp only
    | split

theorem putResult_keeps {s₀ s : State} {o : Origin} {cls status : Nat} {result : Word} (hk : State.Keeps s₀ s) :
    State.Keeps s₀ (putResult s o cls status result) := by
  unfold putResult
  repeat' first
    | with_reducible
        first
          | assumption | refine writeResult_keeps ?_
    | dsimp only
    | split

theorem finalStatus_keeps {s₀ s : State} {done status : Nat} (hk : State.Keeps s₀ s) : State.Keeps s₀ (finalStatus s
    done status).1 := by
  unfold finalStatus
  repeat' first
    | with_reducible
        first
          | assumption | refine pickCode_keeps ?_
    | dsimp only
    | split

theorem nodeRecordDone_keeps {s₀ s : State} {seq inst node status : Nat} (hk : State.Keeps s₀ s) : State.Keeps s₀
    (nodeRecordDone s seq inst node status) := by
  unfold nodeRecordDone
  repeat' first
    | with_reducible
        first
          | assumption | refine keeps_ite_else ?_ (fun _ => ?_)
    | refine keeps_mk ?_; with_reducible
        first
          | assumption | refine keeps_ite_else ?_ (fun _ => ?_)
    | dsimp only
    | split

theorem makeReady_keeps {s₀ s : State} {t : Strand} (hk : State.Keeps s₀ s) : State.Keeps s₀ (makeReady s t) := by
  unfold makeReady
  repeat' first
    | with_reducible
        first
          | assumption | refine State.tickReady_keeps ?_ | refine readyAt_keeps ?_
    | dsimp only
    | split

theorem endWait_keeps {s₀ s : State} {t : Strand} {rd status : Nat} {value : Word} (hk : State.Keeps s₀ s) :
    State.Keeps s₀ (endWait s t rd status value) := by
  unfold endWait
  repeat' first
    | with_reducible
        first
          | assumption | refine makeReady_keeps ?_
    | dsimp only
    | split

theorem strandResult_keeps {s₀ s : State} {id status : Nat} {value : Word} (hk : State.Keeps s₀ s) : State.Keeps s₀
    (strandResult s id status value) := by
  unfold strandResult
  repeat' first
    | with_reducible
        first
          | assumption | refine endWait_keeps ?_ | refine State.setStrand_keeps ?_
          | refine keeps_ite_else ?_ (fun _ => ?_)
    | dsimp only
    | split

theorem strandLoaded_keeps {s₀ s : State} {id status : Nat} {data : List Byte} (hk : State.Keeps s₀ s) : State.Keeps
    s₀ (strandLoaded s id status data) := by
  unfold strandLoaded
  repeat' first
    | with_reducible
        first
          | assumption | refine State.setStrand_keeps ?_
    | dsimp only
    | split

theorem pollDone_keeps {s₀ s : State} {c key status : Nat} {data : List Byte} (hk : State.Keeps s₀ s) : State.Keeps s₀
    (pollDone s c key status data) := by
  unfold pollDone
  repeat' first
    | with_reducible
        first
          | assumption
    | refine keeps_mk ?_; with_reducible
        first
          | assumption
    | dsimp only
    | split

theorem qdescDone_keeps {s₀ s : State} {batch query status : Nat} {data : List Byte} (hk : State.Keeps s₀ s) :
    State.Keeps s₀ (qdescDone s batch query status data) := by
  unfold qdescDone
  repeat' first
    | with_reducible
        first
          | assumption | refine keeps_ite_else ?_ (fun _ => ?_)
    | refine keeps_mk ?_; with_reducible
        first
          | assumption | refine keeps_ite_else ?_ (fun _ => ?_)
    | dsimp only
    | split

theorem storeEnded_keeps {s₀ s : State} {id status : Nat} (hk : State.Keeps s₀ s) : State.Keeps s₀ (storeEnded s id
    status) := by
  unfold storeEnded
  repeat' first
    | with_reducible
        first
          | assumption | refine saveStrand_keeps ?_ | refine keeps_ite_else ?_ (fun _ => ?_)
    | dsimp only
    | split

theorem countAt_keeps {s₀ s : State} {a : Word} {n : Nat} (hk : State.Keeps s₀ s) : State.Keeps s₀ (countAt s a n) :=
    by
  unfold countAt
  repeat' first
    | with_reducible
        first
          | assumption | refine rawStore_keeps ?_
    | dsimp only
    | split

theorem hostFailed_keeps {s₀ s : State} {bit code status : Nat} {addr : Word} (hk : State.Keeps s₀ s) : State.Keeps s₀
    (hostFailed s bit code status addr) := by
  unfold hostFailed
  repeat' first
    | with_reducible
        first
          | assumption | refine sticky_keeps ?_ | refine State.setReg_keeps ?_
    | dsimp only
    | split

theorem reportTo_keeps {s₀ s : State} {o : Origin} {op : Op} {status : Nat} {result : Word} {data : List Byte} (hk :
    State.Keeps s₀ s) : State.Keeps s₀ (reportTo s o op status result data) := by
  unfold reportTo
  repeat' first
    | with_reducible
        first
          | assumption | refine nodeRecordDone_keeps ?_ | refine sticky_keeps ?_ | refine strandResult_keeps ?_
          | refine strandLoaded_keeps ?_ | refine pollDone_keeps ?_ | refine qdescDone_keeps ?_
          | refine storeEnded_keeps ?_ | refine countAt_keeps ?_ | refine respond_keeps ?_
          | refine hostFailed_keeps ?_ | refine keeps_ite_else ?_ (fun _ => ?_)
    | refine keeps_mk ?_; with_reducible
        first
          | assumption | refine nodeRecordDone_keeps ?_ | refine sticky_keeps ?_ | refine strandResult_keeps ?_
          | refine strandLoaded_keeps ?_ | refine pollDone_keeps ?_ | refine qdescDone_keeps ?_
          | refine storeEnded_keeps ?_ | refine countAt_keeps ?_ | refine respond_keeps ?_
          | refine hostFailed_keeps ?_ | refine keeps_ite_else ?_ (fun _ => ?_)
    | dsimp only
    | split

theorem finishWith_keeps {s₀ s : State} {o : Origin} {op : Op} {status : Nat} {result : Word} {data : List Byte} (hk :
    State.Keeps s₀ s) : State.Keeps s₀ (finishWith s o op status result data) := by
  unfold finishWith
  repeat' first
    | with_reducible
        first
          | assumption | refine reportTo_keeps ?_ | refine putResult_keeps ?_ | refine keeps_ite_else ?_ (fun _ => ?_)
    | refine keeps_mk ?_; with_reducible
        first
          | assumption | refine reportTo_keeps ?_ | refine putResult_keeps ?_ | refine keeps_ite_else ?_ (fun _ => ?_)
    | dsimp only
    | split

theorem sendDone_keeps {s₀ s : State} {o : Origin} {op : Op} {status : Nat} {result : Word} {data : List Byte} (hk :
    State.Keeps s₀ s) : State.Keeps s₀ (sendDone s o op status result data) := by
  unfold sendDone
  repeat' first
    | with_reducible
        first
          | assumption | refine putResult_keeps ?_ | refine sendPacket_keeps ?_ | refine finalStatus_keeps ?_
          | refine finishWith_keeps ?_
    | refine keeps_mk ?_; with_reducible
        first
          | assumption | refine putResult_keeps ?_ | refine sendPacket_keeps ?_ | refine finalStatus_keeps ?_
          | refine finishWith_keeps ?_
    | dsimp only
    | split

theorem bumpDone_keeps {s₀ s : State} {a : Word} {ok : Bool} {cls : Nat} (hk : State.Keeps s₀ s) : State.Keeps s₀
    (bumpDone s a ok cls) := by
  unfold bumpDone
  repeat' first
    | with_reducible
        first
          | assumption | refine bumpCore_keeps ?_ | refine keeps_ite_else ?_ (fun _ => ?_)
          | refine keeps_ite_fst ?_ ?_
    | dsimp only
    | split

theorem completeWith_keeps {s₀ s : State} {o : Origin} {op : Op} {status : Nat} {result : Word} {data : List Byte} (hk
    : State.Keeps s₀ s) : State.Keeps s₀ (completeWith s o op status result data) := by
  unfold completeWith
  repeat' first
    | with_reducible
        first
          | assumption | refine sendDone_keeps ?_ | refine finalStatus_keeps ?_ | refine bumpDone_keeps ?_
          | refine finishWith_keeps ?_ | refine keeps_ite_else ?_ (fun _ => ?_) | refine keeps_ite_fst ?_ ?_
    | dsimp only
    | split

theorem completeCore_keeps {s₀ s : State} {o : Origin} {op : Op} {status : Nat} {result : Word} {data : List Byte} (hk
    : State.Keeps s₀ s) : State.Keeps s₀ (completeCore s o op status result data) := by
  unfold completeCore
  repeat' first
    | with_reducible
        first
          | assumption | refine completeWith_keeps ?_ | refine State.bumpFree_keeps ?_
    | dsimp only
    | split

theorem settleWatches_keeps {s₀ : State} {x0 : Nat} {x1 : State} (hk : State.Keeps s₀ x1) : State.Keeps s₀
    (settleWatches x0 x1) := by
  induction x0 generalizing x1
  · unfold settleWatches
    repeat' first
      | with_reducible
          first
            | assumption | refine settleOnce_keeps ?_ | refine completeCore_keeps ?_ | refine State.dropOp_keeps ?_
      | dsimp only
      | split
  · rename_i ih
    unfold settleWatches
    repeat' first
      | with_reducible
          first
            | assumption | refine ih ?_ | refine settleOnce_keeps ?_ | refine completeCore_keeps ?_
            | refine State.dropOp_keeps ?_
      | dsimp only
      | split

theorem settle_keeps {s₀ : State} {s : State} (hk : State.Keeps s₀ s) : State.Keeps s₀ (settle s) := by
  unfold settle
  repeat' first
    | with_reducible
        first
          | assumption | refine settleOnce_keeps ?_ | refine settleWatches_keeps ?_
    | dsimp only
    | split

theorem bump_keeps {s₀ s : State} {a : Word} {ok : Bool} {cls : Nat} (hk : State.Keeps s₀ s) : State.Keeps s₀ (bump s
    a ok cls).1 := by
  unfold bump
  repeat' first
    | with_reducible
        first
          | assumption | refine bumpCore_keeps ?_ | refine settle_keeps ?_
    | dsimp only
    | split

theorem bumpTo_keeps {s₀ s : State} {a : Word} {ok : Bool} {cls : Nat} (hk : State.Keeps s₀ s) : State.Keeps s₀
    (bumpTo s a ok cls) := by
  unfold bumpTo
  repeat' first
    | with_reducible
        first
          | assumption | refine bump_keeps ?_ | refine keeps_ite_else ?_ (fun _ => ?_) | refine keeps_ite_fst ?_ ?_
    | dsimp only
    | split

theorem closeOp_keeps {s₀ s : State} {p : PendingOp} {status : Nat} {result : Word} {answer : Nat} (hk : State.Keeps
    s₀ s) : State.Keeps s₀ (closeOp s p status result answer) := by
  unfold closeOp
  repeat' first
    | with_reducible
        first
          | assumption | refine finalStatus_keeps ?_ | refine State.dropOp_keeps ?_ | refine settle_keeps ?_
          | refine finishWith_keeps ?_
    | dsimp only
    | split

theorem complete_keeps {s₀ s : State} {o : Origin} {op : Op} {status : Nat} {result : Word} {data : List Byte} (hk :
    State.Keeps s₀ s) : State.Keeps s₀ (complete s o op status result data) := by
  unfold complete
  repeat' first
    | with_reducible
        first
          | assumption | refine settle_keeps ?_ | refine completeCore_keeps ?_
    | dsimp only
    | split

theorem completeOp_keeps {s₀ s : State} {p : PendingOp} {status : Nat} {result : Word} {data : List Byte} (hk :
    State.Keeps s₀ s) : State.Keeps s₀ (completeOp s p status result data) := by
  unfold completeOp
  repeat' first
    | with_reducible
        first
          | assumption | refine closeOp_keeps ?_ | refine complete_keeps ?_ | refine State.dropOp_keeps ?_
          | refine keeps_ite_else ?_ (fun _ => ?_)
    | dsimp only
    | split

theorem openResult_keeps {s₀ s : State} {op : Op} {status : Nat} (hk : State.Keeps s₀ s) : State.Keeps s₀ (openResult
    s op status).1 := by
  unfold openResult
  repeat' first
    | with_reducible
        first
          | assumption | refine State.bumpFree_keeps ?_ | refine keeps_ite_else ?_ (fun _ => ?_)
          | refine keeps_ite_fst ?_ ?_
    | dsimp only
    | split

theorem failOp_keeps {s₀ s : State} {p : PendingOp} {status : Nat} (hk : State.Keeps s₀ s) : State.Keeps s₀ (failOp s
    p status) := by
  unfold failOp
  repeat' first
    | with_reducible
        first
          | assumption | refine openResult_keeps ?_ | refine completeOp_keeps ?_
    | dsimp only
    | split

theorem hwStore_keeps {s₀ s : State} {a : Word} {bs : List Byte} (hk : State.Keeps s₀ s) : State.Keeps s₀ (hwStore s a
    bs).1 := by
  unfold hwStore
  repeat' first
    | with_reducible
        first
          | assumption | refine rawStore_keeps ?_ | refine settle_keeps ?_ | refine keeps_ite_else ?_ (fun _ => ?_)
          | refine keeps_ite_fst ?_ ?_
    | dsimp only
    | split

/-! ### Machine/Send.lean -/

theorem State.addOp_keeps {s₀ s : State} {p : PendingOp} (hk : State.Keeps s₀ s) : State.Keeps s₀ (State.addOp s p) :=
    by
  unfold State.addOp
  repeat' first
    | with_reducible
        first
          | assumption
    | refine keeps_mk ?_; with_reducible
        first
          | assumption
    | dsimp only
    | split

theorem State.dropHeld_keeps {s₀ s : State} {tag : Nat} (hk : State.Keeps s₀ s) : State.Keeps s₀ (State.dropHeld s
    tag) := by
  unfold State.dropHeld
  repeat' first
    | with_reducible
        first
          | assumption
    | refine keeps_mk ?_; with_reducible
        first
          | assumption
    | dsimp only
    | split

theorem hostRequestAt_keeps {s₀ s : State} {tag la n : Nat} {atomic : Option (Nat × Word × Word)} (hk : State.Keeps s₀
    s) : State.Keeps s₀ (hostRequestAt s tag la n atomic) := by
  unfold hostRequestAt
  repeat' first
    | with_reducible
        first
          | assumption | refine countTier_keeps ?_
    | refine keeps_mk ?_; with_reducible
        first
          | assumption | refine countTier_keeps ?_
    | dsimp only
    | split

theorem askHost_keeps {s₀ s : State} {p : PendingOp} (hk : State.Keeps s₀ s) : State.Keeps s₀ (askHost s p) := by
  unfold askHost
  repeat' first
    | with_reducible
        first
          | assumption | refine State.addOp_keeps ?_ | refine hostRequestAt_keeps ?_
          | refine keeps_ite_else ?_ (fun _ => ?_)
    | dsimp only
    | split

theorem sendOp_keeps {s₀ s : State} {p : PendingOp} {data : List Byte} (hk : State.Keeps s₀ s) : State.Keeps s₀
    (sendOp s p data) := by
  unfold sendOp
  repeat' first
    | with_reducible
        first
          | assumption | refine sendPacket_keeps ?_ | refine State.addOp_keeps ?_ | refine openResult_keeps ?_
          | refine complete_keeps ?_ | refine keeps_ite_else ?_ (fun _ => ?_) | refine keeps_ite_fst ?_ ?_
    | dsimp only
    | split

theorem startSignal_keeps {s₀ s : State} {p : PendingOp} (hk : State.Keeps s₀ s) : State.Keeps s₀ (startSignal s p) :=
    by
  unfold startSignal
  repeat' first
    | with_reducible
        first
          | assumption | refine bump_keeps ?_ | refine complete_keeps ?_ | refine sendOp_keeps ?_
          | refine keeps_ite_else ?_ (fun _ => ?_) | refine keeps_ite_fst ?_ ?_
    | dsimp only
    | split

theorem hstSignal_keeps {s₀ s : State} {v : Word} (hk : State.Keeps s₀ s) : State.Keeps s₀ (hstSignal s v) := by
  unfold hstSignal
  repeat' first
    | with_reducible
        first
          | assumption | refine State.addOp_keeps ?_ | refine startSignal_keeps ?_
          | refine keeps_ite_else ?_ (fun _ => ?_)
    | refine keeps_mk ?_; with_reducible
        first
          | assumption | refine State.addOp_keeps ?_ | refine startSignal_keeps ?_
          | refine keeps_ite_else ?_ (fun _ => ?_)
    | dsimp only
    | split

theorem rejectRecord_keeps {s₀ s : State} {o : Origin} {op : Op} (hk : State.Keeps s₀ s) : State.Keeps s₀
    (rejectRecord s o op) := by
  unfold rejectRecord
  repeat' first
    | with_reducible
        first
          | assumption | refine openResult_keeps ?_ | refine complete_keeps ?_
    | dsimp only
    | split

theorem takeRecord_keeps {s₀ s : State} {p : PendingOp} {cls : Option Nat} {next : Origin} {b : List Byte} (hk :
    State.Keeps s₀ s) : State.Keeps s₀ (takeRecord s p cls next b) := by
  unfold takeRecord
  repeat' first
    | with_reducible
        first
          | assumption | refine rejectRecord_keeps ?_ | refine State.addOp_keeps ?_
          | refine keeps_ite_else ?_ (fun _ => ?_)
    | dsimp only
    | split

/-! ### Machine/Journal.lean -/

theorem setVdd_keeps {s₀ s : State} {mv : Nat} (hk : State.Keeps s₀ s) : State.Keeps s₀ (setVdd s mv).1 := by
  unfold setVdd
  repeat' first
    | with_reducible
        first
          | assumption | refine State.setFld_keeps ?_ | refine sticky_keeps ?_
          | refine keeps_ite_else ?_ (fun _ => ?_) | refine keeps_ite_fst ?_ ?_
    | dsimp only
    | split

theorem applyMargin_keeps {s₀ : State} {s : State} (hk : State.Keeps s₀ s) : State.Keeps s₀ (applyMargin s) := by
  unfold applyMargin
  repeat' first
    | with_reducible
        first
          | assumption | refine setVdd_keeps ?_
    | refine keeps_mk ?_; with_reducible
        first
          | assumption | refine setVdd_keeps ?_
    | dsimp only
    | split

theorem applyPoint_keeps {s₀ s : State} {p : Nat} (hk : State.Keeps s₀ s) : State.Keeps s₀ (applyPoint s p) := by
  unfold applyPoint
  repeat' first
    | with_reducible
        first
          | assumption | refine setVdd_keeps ?_ | refine State.setFld_keeps ?_
          | refine keeps_ite_else ?_ (fun _ => ?_) | refine keeps_ite_fst ?_ ?_
    | refine keeps_mk ?_; with_reducible
        first
          | assumption | refine setVdd_keeps ?_ | refine State.setFld_keeps ?_
          | refine keeps_ite_else ?_ (fun _ => ?_) | refine keeps_ite_fst ?_ ?_
    | dsimp only
    | split

theorem applyPower_keeps {s₀ : State} {s : State} (hk : State.Keeps s₀ s) : State.Keeps s₀ (applyPower s) := by
  unfold applyPower
  repeat' first
    | with_reducible
        first
          | assumption | refine applyPoint_keeps ?_ | refine applyMargin_keeps ?_
          | refine keeps_ite_else ?_ (fun _ => ?_)
    | dsimp only
    | split

theorem journal_keeps {s₀ s : State} {e : JEvent} {window : List Byte} (hk : State.Keeps s₀ s) : State.Keeps s₀
    (journal s e window) := by
  unfold journal
  repeat' first
    | with_reducible
        first
          | assumption | refine settle_keeps ?_ | refine journalRaw_keeps ?_
    | dsimp only
    | split

theorem showUnit_keeps {s₀ s : State} {u : Nat} (hk : State.Keeps s₀ s) : State.Keeps s₀ (showUnit s u) := by
  unfold showUnit
  repeat' first
    | with_reducible
        first
          | assumption | refine State.setReg_keeps ?_ | refine keeps_ite_else ?_ (fun _ => ?_)
    | dsimp only
    | split

theorem showUnrated_keeps {s₀ : State} {s : State} (hk : State.Keeps s₀ s) : State.Keeps s₀ (showUnrated s) := by
  unfold showUnrated
  repeat' first
    | with_reducible
        first
          | assumption | refine State.setBit_keeps ?_
    | dsimp only
    | split

theorem setUnit_keeps {s₀ s : State} {u rating level : Nat} (hk : State.Keeps s₀ s) : State.Keeps s₀ (setUnit s u
    rating level) := by
  unfold setUnit
  repeat' first
    | with_reducible
        first
          | assumption | refine showUnrated_keeps ?_ | refine showUnit_keeps ?_
          | refine keeps_ite_else ?_ (fun _ => ?_)
    | refine keeps_mk ?_; with_reducible
        first
          | assumption | refine showUnrated_keeps ?_ | refine showUnit_keeps ?_
          | refine keeps_ite_else ?_ (fun _ => ?_)
    | dsimp only
    | split

theorem raiseCluster_keeps {s₀ s : State} {u base : Nat} (hk : State.Keeps s₀ s) : State.Keeps s₀ (raiseCluster s u
    base) := by
  unfold raiseCluster
  repeat' first
    | with_reducible
        first
          | assumption | refine raise_keeps ?_
    | dsimp only
    | split

theorem showVdd_keeps {s₀ : State} {s : State} (hk : State.Keeps s₀ s) : State.Keeps s₀ (showVdd s) := by
  unfold showVdd
  repeat' first
    | with_reducible
        first
          | assumption | refine applyMargin_keeps ?_ | refine keeps_ite_else ?_ (fun _ => ?_)
    | refine keeps_mk ?_; with_reducible
        first
          | assumption | refine applyMargin_keeps ?_ | refine keeps_ite_else ?_ (fun _ => ?_)
    | dsimp only
    | split

theorem fenceEvent_keeps {s₀ s : State} {u : Nat} (hk : State.Keeps s₀ s) : State.Keeps s₀ (fenceEvent s u) := by
  unfold fenceEvent
  repeat' first
    | with_reducible
        first
          | assumption | refine sticky_keeps ?_ | refine raiseCluster_keeps ?_ | refine journal_keeps ?_
          | refine showVdd_keeps ?_
    | refine keeps_mk ?_; with_reducible
        first
          | assumption | refine sticky_keeps ?_ | refine raiseCluster_keeps ?_ | refine journal_keeps ?_
          | refine showVdd_keeps ?_
    | dsimp only
    | split

theorem lastUnit_keeps {s₀ s : State} {u : Nat} (hk : State.Keeps s₀ s) : State.Keeps s₀ (lastUnit s u) := by
  unfold lastUnit
  repeat' first
    | with_reducible
        first
          | assumption | refine State.setBit_keeps ?_ | refine keeps_ite_else ?_ (fun _ => ?_)
    | dsimp only
    | split

theorem responseEvent_keeps {s₀ s : State} {u : Nat} (hk : State.Keeps s₀ s) : State.Keeps s₀ (responseEvent s u) :=
    by
  unfold responseEvent
  repeat' first
    | with_reducible
        first
          | assumption | refine raiseCluster_keeps ?_ | refine journal_keeps ?_ | refine showVdd_keeps ?_
    | dsimp only
    | split

theorem chargeEvent_keeps {s₀ s : State} {e : JEvent} (hk : State.Keeps s₀ s) : State.Keeps s₀ (chargeEvent s e) := by
  unfold chargeEvent
  repeat' first
    | with_reducible
        first
          | assumption | refine journal_keeps ?_ | refine showUnit_keeps ?_ | refine setUnit_keeps ?_
          | refine sticky_keeps ?_ | refine fenceEvent_keeps ?_ | refine lastUnit_keeps ?_
          | refine responseEvent_keeps ?_ | refine keeps_ite_else ?_ (fun _ => ?_)
    | refine keeps_mk ?_; with_reducible
        first
          | assumption | refine journal_keeps ?_ | refine showUnit_keeps ?_ | refine setUnit_keeps ?_
          | refine sticky_keeps ?_ | refine fenceEvent_keeps ?_ | refine lastUnit_keeps ?_
          | refine responseEvent_keeps ?_ | refine keeps_ite_else ?_ (fun _ => ?_)
    | dsimp only
    | split

theorem fenceUnit_keeps {s₀ s : State} {u : Nat} (hk : State.Keeps s₀ s) : State.Keeps s₀ (fenceUnit s u) := by
  unfold fenceUnit
  repeat' first
    | with_reducible
        first
          | assumption | refine fenceEvent_keeps ?_ | refine setUnit_keeps ?_ | refine responseEvent_keeps ?_
          | refine lastUnit_keeps ?_ | refine keeps_ite_else ?_ (fun _ => ?_)
    | dsimp only
    | split

theorem uncorrEvent_keeps {s₀ s : State} {flash : Option Nat} {la : Nat} (hk : State.Keeps s₀ s) : State.Keeps s₀
    (uncorrEvent s flash la) := by
  unfold uncorrEvent
  repeat' first
    | with_reducible
        first
          | assumption | refine State.satFld_keeps ?_ | refine sticky_keeps ?_ | refine journal_keeps ?_
          | refine settle_keeps ?_ | refine uncorrRaw_keeps ?_
    | dsimp only
    | split

/-! ### Machine/Quota.lean -/

theorem State.modCopy_keeps {s₀ s : State} {c : TileCopy} {f : TileCopy → TileCopy} (hk : State.Keeps s₀ s) :
    State.Keeps s₀ (State.modCopy s c f) := by
  unfold State.modCopy
  repeat' first
    | with_reducible
        first
          | assumption | refine keeps_ite_else ?_ (fun _ => ?_)
    | refine keeps_mk ?_; with_reducible
        first
          | assumption | refine keeps_ite_else ?_ (fun _ => ?_)
    | dsimp only
    | split

theorem syncObj_keeps {s₀ s : State} {id : Nat} (hk : State.Keeps s₀ s) : State.Keeps s₀ (syncObj s id) := by
  unfold syncObj
  repeat' first
    | with_reducible
        first
          | assumption | refine State.store_keeps ?_
    | dsimp only
    | split

theorem State.setObj_keeps {s₀ s : State} {o : Obj} (hk : State.Keeps s₀ s) : State.Keeps s₀ (State.setObj s o) := by
  unfold State.setObj
  repeat' first
    | with_reducible
        first
          | assumption | refine syncObj_keeps ?_ | refine keeps_ite_else ?_ (fun _ => ?_)
    | refine keeps_mk ?_; with_reducible
        first
          | assumption | refine syncObj_keeps ?_ | refine keeps_ite_else ?_ (fun _ => ?_)
    | dsimp only
    | split

theorem dropCopy_keeps {s₀ s : State} {c : TileCopy} (hk : State.Keeps s₀ s) : State.Keeps s₀ (dropCopy s c) := by
  unfold dropCopy
  repeat' first
    | with_reducible
        first
          | assumption | refine syncObj_keeps ?_
    | refine keeps_mk ?_; with_reducible
        first
          | assumption | refine syncObj_keeps ?_
    | dsimp only
    | split

theorem pullPool_keeps {s₀ : State} {d : Nat} {p : Space} {x0 : Nat} {x1 : State} (hk : State.Keeps s₀ x1) :
    State.Keeps s₀ (pullPool d p x0 x1) := by
  induction x0 generalizing x1
  · unfold pullPool
    repeat' first
      | with_reducible
          first
            | assumption | refine State.modCopy_keeps ?_ | refine keeps_ite_else ?_ (fun _ => ?_)
      | dsimp only
      | split
  · rename_i ih
    unfold pullPool
    repeat' first
      | with_reducible
          first
            | assumption | refine ih ?_ | refine State.modCopy_keeps ?_ | refine keeps_ite_else ?_ (fun _ => ?_)
      | dsimp only
      | split

theorem takeAny_keeps {s₀ s : State} {d : Nat} {p : Space} {keep : TileCopy → Bool} (hk : State.Keeps s₀ s) : ∀ r,
    takeAny s d p keep = some r → State.Keeps s₀ r.1 := by
  unfold takeAny
  repeat' first
    | with_reducible
        first
          | assumption | refine dropCopy_keeps ?_ | refine keeps_ite_else ?_ (fun _ => ?_)
    | (intro _ hr; cases hr; done)
    | (intro _ hr; cases hr)
    | dsimp only
    | split

theorem takeQuota_keeps {s₀ s : State} {d : Nat} {p : Space} {keep : TileCopy → Bool} (hk : State.Keeps s₀ s) : ∀ r,
    takeQuota s d p keep = some r → State.Keeps s₀ r := by
  unfold takeQuota
  repeat' first
    | with_reducible
        first
          | assumption | refine State.modCopy_keeps ?_ | refine dropCopy_keeps ?_
          | refine keeps_ite_else ?_ (fun _ => ?_)
    | (intro _ hr; cases hr; done)
    | (intro _ hr; cases hr)
    | dsimp only
    | split

/-! ### Machine/Stream.lean -/

theorem State.modClu_keeps {s₀ s : State} {c : Nat} {f : Cluster → Cluster} (hk : State.Keeps s₀ s) : State.Keeps s₀
    (State.modClu s c f) := by
  unfold State.modClu
  repeat' first
    | with_reducible
        first
          | assumption
    | refine keeps_mk ?_; with_reducible
        first
          | assumption
    | dsimp only
    | split

theorem addCopy_keeps {s₀ s : State} {obj tile : Nat} {p : Space} {pinned pool : Bool} {holds cls : Nat} (hk :
    State.Keeps s₀ s) : State.Keeps s₀ (addCopy s obj tile p pinned pool holds cls) := by
  unfold addCopy
  repeat' first
    | with_reducible
        first
          | assumption
    | refine keeps_mk ?_; with_reducible
        first
          | assumption
    | dsimp only
    | split

theorem freeCopy_keeps {s₀ s : State} {c : TileCopy} (hk : State.Keeps s₀ s) : State.Keeps s₀ (freeCopy s c) := by
  unfold freeCopy
  repeat' first
    | with_reducible
        first
          | assumption | refine dropCopy_keeps ?_ | refine pullPool_keeps ?_ | refine keeps_ite_else ?_ (fun _ => ?_)
    | dsimp only
    | split

theorem holdTile_keeps {s₀ s : State} {o : Obj} {tile : Nat} {p : Space} {cls : Nat} (hk : State.Keeps s₀ s) :
    State.Keeps s₀ (holdTile s o tile p cls).1 := by
  unfold holdTile
  repeat' first
    | with_reducible
        first
          | assumption | refine State.modCopy_keeps ?_ | refine takeAny_keeps ?_ _ (by assumption)
          | refine addCopy_keeps ?_ | refine sticky_keeps ?_ | refine keeps_ite_else ?_ (fun _ => ?_)
          | refine keeps_ite_fst ?_ ?_
    | dsimp only
    | split

theorem unholdTile_keeps {s₀ s : State} {obj tile : Nat} {p : Space} (hk : State.Keeps s₀ s) : State.Keeps s₀
    (unholdTile s obj tile p) := by
  unfold unholdTile
  repeat' first
    | with_reducible
        first
          | assumption | refine State.modCopy_keeps ?_
    | dsimp only
    | split

theorem releaseHeld_keeps {s₀ s : State} {p : Prog} {sel : Nat → Bool} (hk : State.Keeps s₀ s) : State.Keeps s₀
    (releaseHeld s p sel).1 := by
  unfold releaseHeld
  repeat' first
    | with_reducible
        first
          | assumption | refine unholdTile_keeps ?_ | refine keeps_foldl ?_ (fun _ _ _ => ?_)
          | refine keeps_foldl_fst ?_ (fun _ _ _ => ?_)
    | dsimp only
    | split

theorem requestTile_keeps {s₀ : State} {o : Obj} {r : State × Prog} {e : Nat × Nat} (hk : State.Keeps s₀ r.1) :
    State.Keeps s₀ (requestTile o r e).1 := by
  unfold requestTile
  repeat' first
    | with_reducible
        first
          | assumption | refine holdTile_keeps ?_ | refine keeps_ite_else ?_ (fun _ => ?_)
          | refine keeps_ite_fst ?_ ?_
    | dsimp only
    | split

theorem requestTiles_keeps {s₀ s : State} {p : Prog} (hk : State.Keeps s₀ s) : State.Keeps s₀ (requestTiles s p).1 :=
    by
  unfold requestTiles
  repeat' first
    | with_reducible
        first
          | assumption | refine requestTile_keeps ?_ | refine keeps_foldl ?_ (fun _ _ _ => ?_)
          | refine keeps_foldl_fst ?_ (fun _ _ _ => ?_)
    | dsimp only
    | split

theorem retryProg_keeps {s₀ : State} {r : State × List Prog} {p : Prog} (hk : State.Keeps s₀ r.1) : State.Keeps s₀
    (retryProg r p).1 := by
  unfold retryProg
  repeat' first
    | with_reducible
        first
          | assumption | refine requestTiles_keeps ?_
    | dsimp only
    | split

theorem retryTiles_keeps {s₀ : State} {s : State} (hk : State.Keeps s₀ s) : State.Keeps s₀ (retryTiles s) := by
  unfold retryTiles
  repeat' first
    | with_reducible
        first
          | assumption | refine retryProg_keeps ?_ | refine State.modClu_keeps ?_
          | refine keeps_foldl ?_ (fun _ _ _ => ?_) | refine keeps_foldl_fst ?_ (fun _ _ _ => ?_)
    | dsimp only
    | split

/-! ### Machine/Access.lean -/

theorem countPages_keeps {s₀ s : State} {ch pages : Nat} (hk : State.Keeps s₀ s) : State.Keeps s₀ (countPages s ch
    pages) := by
  unfold countPages
  repeat' first
    | with_reducible
        first
          | assumption | refine countTier_keeps ?_ | refine count_keeps ?_
    | dsimp only
    | split

theorem flashClass_keeps {s₀ s : State} {cls pages : Nat} (hk : State.Keeps s₀ s) : State.Keeps s₀ (flashClass s cls
    pages).1 := by
  unfold flashClass
  repeat' first
    | with_reducible
        first
          | assumption | refine exceedResv_keeps ?_ | refine keeps_ite_else ?_ (fun _ => ?_)
          | refine keeps_ite_fst ?_ ?_
    | refine keeps_mk ?_; with_reducible
        first
          | assumption | refine exceedResv_keeps ?_ | refine keeps_ite_else ?_ (fun _ => ?_)
          | refine keeps_ite_fst ?_ ?_
    | dsimp only
    | split

theorem peSuspend_keeps {s₀ s : State} {ch cls : Nat} (hk : State.Keeps s₀ s) : State.Keeps s₀ (peSuspend s ch cls) :=
    by
  unfold peSuspend
  repeat' first
    | with_reducible
        first
          | assumption | refine State.bumpFree_keeps ?_ | refine State.setBit_keeps ?_ | refine State.satFld_keeps ?_
          | refine obsEvent_keeps ?_ | refine keeps_ite_else ?_ (fun _ => ?_)
    | refine keeps_mk ?_; with_reducible
        first
          | assumption | refine State.bumpFree_keeps ?_ | refine State.setBit_keeps ?_ | refine State.satFld_keeps ?_
          | refine obsEvent_keeps ?_ | refine keeps_ite_else ?_ (fun _ => ?_)
    | dsimp only
    | split

theorem readPages_keeps {s₀ s : State} {ch cls : Nat} {pages : List (Nat × Nat)} (hk : State.Keeps s₀ s) : State.Keeps
    s₀ (readPages s ch cls pages) := by
  unfold readPages
  repeat' first
    | with_reducible
        first
          | assumption | refine flashClass_keeps ?_ | refine countPages_keeps ?_ | refine obsEvent_keeps ?_
          | refine peSuspend_keeps ?_ | refine keeps_foldl ?_ (fun _ _ _ => ?_)
          | refine keeps_foldl_fst ?_ (fun _ _ _ => ?_)
    | dsimp only
    | split

theorem meetFault_keeps {s₀ s : State} {f : MediaFault} {flash : Option Nat} {la : Nat} (hk : State.Keeps s₀ s) :
    State.Keeps s₀ (meetFault s f flash la) := by
  unfold meetFault
  repeat' first
    | with_reducible
        first
          | assumption | refine settle_keeps ?_ | refine meetRaw_keeps ?_ | refine State.dropFault_keeps ?_
          | refine State.satFld_keeps ?_ | refine uncorrEvent_keeps ?_
    | dsimp only
    | split

theorem releaseCopy_keeps {s₀ s : State} {obj tile tier cluster : Nat} (hk : State.Keeps s₀ s) : State.Keeps s₀
    (releaseCopy s obj tile tier cluster) := by
  unfold releaseCopy
  repeat' first
    | with_reducible
        first
          | assumption | refine retryTiles_keeps ?_ | refine freeCopy_keeps ?_
    | dsimp only
    | split

theorem readTile_keeps {s₀ s : State} {o : Obj} {lo len cls : Nat} {cluster : Option Nat} (hk : State.Keeps s₀ s) :
    State.Keeps s₀ (readTile s o lo len cls cluster).1 := by
  unfold readTile
  repeat' first
    | with_reducible
        first
          | assumption | refine countTier_keeps ?_ | refine readPages_keeps ?_ | refine meetFault_keeps ?_
          | refine releaseCopy_keeps ?_ | refine keeps_ite_else ?_ (fun _ => ?_) | refine keeps_ite_fst ?_ ?_
          | refine keeps_foldl ?_ (fun _ _ _ => ?_) | refine keeps_foldl_fst ?_ (fun _ _ _ => ?_)
    | refine keeps_mk ?_; with_reducible
        first
          | assumption | refine countTier_keeps ?_ | refine readPages_keeps ?_ | refine meetFault_keeps ?_
          | refine releaseCopy_keeps ?_ | refine keeps_ite_else ?_ (fun _ => ?_) | refine keeps_ite_fst ?_ ?_
          | refine keeps_foldl ?_ (fun _ _ _ => ?_) | refine keeps_foldl_fst ?_ (fun _ _ _ => ?_)
    | extract_lets
    | split

theorem readObjects_keeps {s₀ : State} {cls : Nat} {cluster : Option Nat} {x0 : Nat} {x1 : State} {x2 x3 : Nat} (hk :
    State.Keeps s₀ x1) : State.Keeps s₀ (readObjects cls cluster x0 x1 x2 x3).1 := by
  induction x0 generalizing x1 x2 x3
  · unfold readObjects
    repeat' first
      | with_reducible
          first
            | assumption | refine State.setObj_keeps ?_ | refine readTile_keeps ?_
            | refine keeps_ite_else ?_ (fun _ => ?_) | refine keeps_ite_fst ?_ ?_
      | dsimp only
      | split
  · rename_i ih
    unfold readObjects
    repeat' first
      | with_reducible
          first
            | assumption | refine ih ?_ | refine State.setObj_keeps ?_ | refine readTile_keeps ?_
            | refine keeps_ite_else ?_ (fun _ => ?_) | refine keeps_ite_fst ?_ ?_
      | dsimp only
      | split

theorem readDirect_keeps {s₀ s : State} {la len : Nat} (hk : State.Keeps s₀ s) : State.Keeps s₀ (readDirect s la
    len).1 := by
  unfold readDirect
  repeat' first
    | with_reducible
        first
          | assumption | refine meetFault_keeps ?_ | refine keeps_ite_else ?_ (fun _ => ?_)
          | refine keeps_ite_fst ?_ ?_ | refine keeps_foldl ?_ (fun _ _ _ => ?_)
          | refine keeps_foldl_fst ?_ (fun _ _ _ => ?_)
    | dsimp only
    | split

theorem readChannel_keeps {s₀ s : State} {la len cls : Nat} (hk : State.Keeps s₀ s) : State.Keeps s₀ (readChannel s la
    len cls).1 := by
  unfold readChannel
  repeat' first
    | with_reducible
        first
          | assumption | refine readDirect_keeps ?_ | refine readPages_keeps ?_
          | refine keeps_ite_else ?_ (fun _ => ?_) | refine keeps_ite_fst ?_ ?_
    | dsimp only
    | split

theorem readFlash_keeps {s₀ s : State} {la len cls : Nat} (hk : State.Keeps s₀ s) : State.Keeps s₀ (readFlash s la len
    cls).1 := by
  unfold readFlash
  repeat' first
    | with_reducible
        first
          | assumption | refine readChannel_keeps ?_ | refine keeps_ite_else ?_ (fun _ => ?_)
          | refine keeps_ite_fst ?_ ?_
    | dsimp only
    | split

theorem readBytes_keeps {s₀ s : State} {la len cls : Nat} {cluster : Option Nat} (hk : State.Keeps s₀ s) : State.Keeps
    s₀ (readBytes s la len cls cluster).1 := by
  unfold readBytes
  repeat' first
    | with_reducible
        first
          | assumption | refine readObjects_keeps ?_ | refine readDirect_keeps ?_ | refine countTier_keeps ?_
          | refine readFlash_keeps ?_ | refine keeps_ite_else ?_ (fun _ => ?_) | refine keeps_ite_fst ?_ ?_
    | dsimp only
    | split

theorem unitRead_keeps {s₀ s : State} {a : Word} {len cls : Nat} {cluster : Option Nat} (hk : State.Keeps s₀ s) :
    State.Keeps s₀ (unitRead s a len cls cluster).1 := by
  unfold unitRead
  repeat' first
    | with_reducible
        first
          | assumption | refine readBytes_keeps ?_ | refine keeps_ite_else ?_ (fun _ => ?_)
          | refine keeps_ite_fst ?_ ?_
    | dsimp only
    | split

theorem keptRead_keeps {s₀ : State} {old : Snap} {s : State} {a : Word} {len cls : Nat} (hk : State.Keeps s₀ s) :
    State.Keeps s₀ (keptRead old s a len cls).1 := by
  unfold keptRead
  repeat' first
    | with_reducible
        first
          | assumption | refine unitRead_keeps ?_ | refine keeps_ite_else ?_ (fun _ => ?_)
          | refine keeps_ite_fst ?_ ?_
    | dsimp only
    | split

theorem writeFault_keeps {s₀ : State} {la len : Nat} {s : State} {f : MediaFault} (hk : State.Keeps s₀ s) :
    State.Keeps s₀ (writeFault la len s f) := by
  unfold writeFault
  repeat' first
    | with_reducible
        first
          | assumption | refine State.dropFault_keeps ?_ | refine State.satFld_keeps ?_ | refine settle_keeps ?_
          | refine uncorrRaw_keeps ?_ | refine crcExhausted_keeps ?_ | refine keeps_ite_else ?_ (fun _ => ?_)
    | refine keeps_mk ?_; with_reducible
        first
          | assumption | refine State.dropFault_keeps ?_ | refine State.satFld_keeps ?_ | refine settle_keeps ?_
          | refine uncorrRaw_keeps ?_ | refine crcExhausted_keeps ?_ | refine keeps_ite_else ?_ (fun _ => ?_)
    | dsimp only
    | split

theorem mendBlocks_keeps {s₀ s : State} {la len : Nat} (hk : State.Keeps s₀ s) : State.Keeps s₀ (mendBlocks s la len)
    := by
  unfold mendBlocks
  repeat' first
    | with_reducible
        first
          | assumption | refine writeFault_keeps ?_ | refine keeps_foldl ?_ (fun _ _ _ => ?_)
          | refine keeps_foldl_fst ?_ (fun _ _ _ => ?_)
    | dsimp only
    | split

theorem mixBlocks_keeps {s₀ : State} {old : Snap} {x0 : Nat} {x1 : State} {x2 : Nat} {x3 : List (Option Byte)} (hk :
    State.Keeps s₀ x1) : State.Keeps s₀ (mixBlocks old x0 x1 x2 x3).1 := by
  induction x0 generalizing x1 x2 x3
  · unfold mixBlocks
    repeat' first
      | with_reducible
          first
            | assumption | refine State.bumpFree_keeps ?_ | refine keeps_ite_else ?_ (fun _ => ?_)
            | refine keeps_ite_fst ?_ ?_
      | dsimp only
      | split
  · rename_i ih
    unfold mixBlocks
    repeat' first
      | with_reducible
          first
            | assumption | refine ih ?_ | refine State.bumpFree_keeps ?_ | refine keeps_ite_else ?_ (fun _ => ?_)
            | refine keeps_ite_fst ?_ ?_
      | dsimp only
      | split

theorem mixed_keeps {s₀ : State} {old : Snap} {s : State} {la : Nat} {bs : List (Option Byte)} (hk : State.Keeps s₀ s)
    : State.Keeps s₀ (mixed old s la bs).1 := by
  unfold mixed
  repeat' first
    | with_reducible
        first
          | assumption | refine mixBlocks_keeps ?_ | refine keeps_ite_else ?_ (fun _ => ?_)
          | refine keeps_ite_fst ?_ ?_
    | dsimp only
    | split

theorem oldRead_keeps {s₀ : State} {old : Snap} {s : State} {a : Word} {len cls : Nat} (hk : State.Keeps s₀ s) :
    State.Keeps s₀ (oldRead old s a len cls).1 := by
  unfold oldRead
  repeat' first
    | with_reducible
        first
          | assumption | refine unitRead_keeps ?_ | refine mixed_keeps ?_ | refine keeps_ite_else ?_ (fun _ => ?_)
          | refine keeps_ite_fst ?_ ?_
    | dsimp only
    | split

theorem postBlocks_keeps {s₀ : State} {x0 : Nat} {x1 : State} {x2 : Nat} {x3 : List (Option Byte)} (hk : State.Keeps
    s₀ x1) : State.Keeps s₀ (postBlocks x0 x1 x2 x3).1 := by
  induction x0 generalizing x1 x2 x3
  · unfold postBlocks
    repeat' first
      | with_reducible
          first
            | assumption | refine postHost_keeps ?_ | refine keeps_ite_else ?_ (fun _ => ?_)
            | refine keeps_ite_fst ?_ ?_
      | dsimp only
      | split
  · rename_i ih
    unfold postBlocks
    repeat' first
      | with_reducible
          first
            | assumption | refine ih ?_ | refine postHost_keeps ?_ | refine keeps_ite_else ?_ (fun _ => ?_)
            | refine keeps_ite_fst ?_ ?_
      | dsimp only
      | split

theorem postData_keeps {s₀ s : State} {la : Nat} {bs : List (Option Byte)} (hk : State.Keeps s₀ s) : State.Keeps s₀
    (postData s la bs).1 := by
  unfold postData
  repeat' first
    | with_reducible
        first
          | assumption | refine postHost_keeps ?_ | refine postBlocks_keeps ?_
          | refine keeps_ite_else ?_ (fun _ => ?_) | refine keeps_ite_fst ?_ ?_
    | dsimp only
    | split

theorem programFlash_keeps {s₀ s : State} {ch : Nat} (hk : State.Keeps s₀ s) : State.Keeps s₀ (programFlash s ch) :=
    by
  unfold programFlash
  repeat' first
    | with_reducible
        first
          | assumption | refine sticky_keeps ?_ | refine State.bumpFree_keeps ?_
          | refine keeps_ite_else ?_ (fun _ => ?_)
    | dsimp only
    | split

theorem programAny_keeps {s₀ : State} {s : State} (hk : State.Keeps s₀ s) : State.Keeps s₀ (programAny s) := by
  unfold programAny
  repeat' first
    | with_reducible
        first
          | assumption | refine programFlash_keeps ?_ | refine State.bumpFree_keeps ?_
    | dsimp only
    | split

theorem writeBytes_keeps {s₀ s : State} {la : Nat} {bs : List Byte} (hk : State.Keeps s₀ s) : State.Keeps s₀
    (writeBytes s la bs) := by
  unfold writeBytes
  repeat' first
    | with_reducible
        first
          | assumption | refine countTier_keeps ?_ | refine mendBlocks_keeps ?_ | refine State.store_keeps ?_
          | refine keeps_ite_else ?_ (fun _ => ?_)
    | dsimp only
    | split

theorem unitWrite_keeps {s₀ s : State} {a : Word} {bs : List Byte} (hk : State.Keeps s₀ s) : State.Keeps s₀ (unitWrite
    s a bs).1 := by
  unfold unitWrite
  repeat' first
    | with_reducible
        first
          | assumption | refine settle_keeps ?_ | refine writeBytes_keeps ?_ | refine postHost_keeps ?_
          | refine keeps_ite_else ?_ (fun _ => ?_) | refine keeps_ite_fst ?_ ?_
    | dsimp only
    | split

theorem unitPut_keeps {s₀ s : State} {a : Word} {bs : List Byte} (hk : State.Keeps s₀ s) : State.Keeps s₀ (unitPut s a
    bs) := by
  unfold unitPut
  repeat' first
    | with_reducible
        first
          | assumption | refine unitWrite_keeps ?_
    | dsimp only
    | split

theorem writeBlocks_keeps {s₀ : State} {x0 : Nat} {x1 : State} {x2 : Nat} {x3 : List (Option Byte)} (hk : State.Keeps
    s₀ x1) : State.Keeps s₀ (writeBlocks x0 x1 x2 x3).1 := by
  induction x0 generalizing x1 x2 x3
  · unfold writeBlocks
    repeat' first
      | with_reducible
          first
            | assumption | refine writeBytes_keeps ?_ | refine keeps_ite_else ?_ (fun _ => ?_)
            | refine keeps_ite_fst ?_ ?_
      | dsimp only
      | split
  · rename_i ih
    unfold writeBlocks
    repeat' first
      | with_reducible
          first
            | assumption | refine ih ?_ | refine writeBytes_keeps ?_ | refine keeps_ite_else ?_ (fun _ => ?_)
            | refine keeps_ite_fst ?_ ?_
      | dsimp only
      | split

theorem writeData_keeps {s₀ s : State} {la : Nat} {bs : List (Option Byte)} (hk : State.Keeps s₀ s) : State.Keeps s₀
    (writeData s la bs).1 := by
  unfold writeData
  repeat' first
    | with_reducible
        first
          | assumption | refine writeBytes_keeps ?_ | refine writeBlocks_keeps ?_
          | refine keeps_ite_else ?_ (fun _ => ?_) | refine keeps_ite_fst ?_ ?_
    | dsimp only
    | split

/-! ### Machine/Sample.lean -/

theorem postChecks_keeps {s₀ s : State} {cs : List Check} (hk : State.Keeps s₀ s) : State.Keeps s₀ (postChecks s cs)
    := by
  unfold postChecks
  repeat' first
    | with_reducible
        first
          | assumption
    | refine keeps_mk ?_; with_reducible
        first
          | assumption
    | dsimp only
    | split

theorem sampleResult_keeps {s₀ s : State} {unit kind op : Nat} {addr : Word} {crc pstart layer tile : Nat} {desc :
    List Byte} {job : Option UJob} {struct : Option Struct} (hk : State.Keeps s₀ s) : State.Keeps s₀ (sampleResult s
    unit kind op addr crc pstart layer tile desc job struct).1 := by
  unfold sampleResult
  repeat' first
    | with_reducible
        first
          | assumption | refine keeps_ite_else ?_ (fun _ => ?_) | refine keeps_ite_fst ?_ ?_
    | refine keeps_mk ?_; with_reducible
        first
          | assumption | refine keeps_ite_else ?_ (fun _ => ?_) | refine keeps_ite_fst ?_ ?_
    | dsimp only
    | split

/-! ### Machine/StrandOps.lean -/

theorem State.setBatch_keeps {s₀ s : State} {b : Batch} (hk : State.Keeps s₀ s) : State.Keeps s₀ (State.setBatch s b)
    := by
  unfold State.setBatch
  repeat' first
    | with_reducible
        first
          | assumption | refine keeps_ite_else ?_ (fun _ => ?_)
    | refine keeps_mk ?_; with_reducible
        first
          | assumption | refine keeps_ite_else ?_ (fun _ => ?_)
    | dsimp only
    | split

theorem withdrawWatch_keeps {s₀ s : State} {t : Strand} (hk : State.Keeps s₀ s) : State.Keeps s₀ (withdrawWatch s t)
    := by
  unfold withdrawWatch
  repeat' first
    | with_reducible
        first
          | assumption | refine sendPacket_keeps ?_ | refine State.dropOp_keeps ?_ | refine State.dropHeld_keeps ?_
          | refine keeps_ite_else ?_ (fun _ => ?_) | refine keeps_ite_fst ?_ ?_
    | dsimp only
    | split

theorem stopStrandCore_keeps {s₀ s : State} {t : Strand} {state : Nat} (hk : State.Keeps s₀ s) : State.Keeps s₀
    (stopStrandCore s t state) := by
  unfold stopStrandCore
  repeat' first
    | with_reducible
        first
          | assumption | refine settle_keeps ?_ | refine saveStrand_keeps ?_ | refine State.setBatch_keeps ?_
          | refine keeps_ite_else ?_ (fun _ => ?_)
    | dsimp only
    | split

theorem killStrand_keeps {s₀ s : State} {id : Nat} (hk : State.Keeps s₀ s) : State.Keeps s₀ (killStrand s id) := by
  unfold killStrand
  repeat' first
    | with_reducible
        first
          | assumption | refine withdrawWatch_keeps ?_ | refine stopStrandCore_keeps ?_
          | refine keeps_ite_else ?_ (fun _ => ?_)
    | dsimp only
    | split

theorem endBatch_keeps {s₀ s : State} {b : Batch} {status reason : Nat} (hk : State.Keeps s₀ s) : State.Keeps s₀
    (endBatch s b status reason) := by
  unfold endBatch
  repeat' first
    | with_reducible
        first
          | assumption | refine unitPut_keeps ?_ | refine obsEvent_keeps ?_ | refine bumpTo_keeps ?_
          | refine keeps_ite_else ?_ (fun _ => ?_)
    | refine keeps_mk ?_; with_reducible
        first
          | assumption | refine unitPut_keeps ?_ | refine obsEvent_keeps ?_ | refine bumpTo_keeps ?_
          | refine keeps_ite_else ?_ (fun _ => ?_)
    | dsimp only
    | split

theorem checkBatch_keeps {s₀ s : State} {n : Nat} (hk : State.Keeps s₀ s) : State.Keeps s₀ (checkBatch s n) := by
  unfold checkBatch
  repeat' first
    | with_reducible
        first
          | assumption | refine endBatch_keeps ?_ | refine keeps_ite_else ?_ (fun _ => ?_)
    | dsimp only
    | split

theorem abortBatch_keeps {s₀ s : State} {b : Batch} (hk : State.Keeps s₀ s) : State.Keeps s₀ (abortBatch s b) := by
  unfold abortBatch
  repeat' first
    | with_reducible
        first
          | assumption | refine State.setBatch_keeps ?_ | refine State.setBit_keeps ?_ | refine killStrand_keeps ?_
          | refine checkBatch_keeps ?_ | refine keeps_foldl ?_ (fun _ _ _ => ?_)
          | refine keeps_foldl_fst ?_ (fun _ _ _ => ?_)
    | dsimp only
    | split

theorem abortBatches_keeps {s₀ s : State} {seq uid node : Nat} (hk : State.Keeps s₀ s) : State.Keeps s₀ (abortBatches
    s seq uid node) := by
  unfold abortBatches
  repeat' first
    | with_reducible
        first
          | assumption | refine abortBatch_keeps ?_ | refine keeps_foldl ?_ (fun _ _ _ => ?_)
          | refine keeps_foldl_fst ?_ (fun _ _ _ => ?_)
    | dsimp only
    | split

theorem endStrand_keeps {s₀ s : State} {t : Strand} {exit : Nat} (hk : State.Keeps s₀ s) : State.Keeps s₀ (endStrand s
    t exit) := by
  unfold endStrand
  repeat' first
    | with_reducible
        first
          | assumption | refine checkBatch_keeps ?_ | refine stopStrandCore_keeps ?_
    | dsimp only
    | split

theorem faultStrand_keeps {s₀ s : State} {t : Strand} {code : Nat} {lstat : Option Nat} (hk : State.Keeps s₀ s) :
    State.Keeps s₀ (faultStrand s t code lstat) := by
  unfold faultStrand
  repeat' first
    | with_reducible
        first
          | assumption | refine State.satFld_keeps ?_ | refine State.setBit_keeps ?_ | refine checkBatch_keeps ?_
          | refine stopStrandCore_keeps ?_
    | dsimp only
    | split

theorem parkStrand_keeps {s₀ s : State} {t : Strand} (hk : State.Keeps s₀ s) : State.Keeps s₀ (parkStrand s t) := by
  unfold parkStrand
  repeat' first
    | with_reducible
        first
          | assumption | refine settle_keeps ?_ | refine saveStrand_keeps ?_ | refine State.setStrand_keeps ?_
          | refine keeps_ite_else ?_ (fun _ => ?_)
    | dsimp only
    | split

theorem parkId_keeps {s₀ : State} {s : State} {id : Nat} (hk : State.Keeps s₀ s) : State.Keeps s₀ (parkId s id) := by
  unfold parkId
  repeat' first
    | with_reducible
        first
          | assumption | refine parkStrand_keeps ?_ | refine keeps_ite_else ?_ (fun _ => ?_)
    | dsimp only
    | split

theorem spawnStrand_keeps {s₀ s : State} {c : Nat} {b : Batch} {pc : Word} {gregs : List Word} {cls : Nat} (hk :
    State.Keeps s₀ s) : ∀ r, spawnStrand s c b pc gregs cls = some r → State.Keeps s₀ r.1 := by
  unfold spawnStrand
  repeat' first
    | with_reducible
        first
          | assumption | refine settle_keeps ?_ | refine State.store_keeps ?_ | refine State.setBatch_keeps ?_
          | refine State.wrapFld_keeps ?_
    | (intro _ hr; cases hr; done)
    | (intro _ hr; cases hr)
    | refine keeps_mk ?_; with_reducible
        first
          | assumption | refine settle_keeps ?_ | refine State.store_keeps ?_ | refine State.setBatch_keeps ?_
          | refine State.wrapFld_keeps ?_
    | dsimp only
    | split

end Sys2Proof.Machine
end

