-- ==== Sys2Proof/Laws/KeepsTime.lean ====
section
/-! SUPPORT. What time, the Lamp with its sequencers, and the tier manager keep of a state: one lemma
for each function, cited by those of the functions that call it. -/

set_option Elab.async false
set_option linter.unusedTactic false
set_option linter.unreachableTactic false

namespace Sys2Proof.Machine

/-! ### Machine/Time.lean -/

theorem addStep_keeps {s₀ : State} {s : State} {d : Int} (hk : State.Keeps s₀ s) : State.Keeps s₀ (addStep s d) := by
  unfold addStep
  repeat' first
    | with_reducible
        first
          | assumption
    | refine keeps_mk ?_; with_reducible
        first
          | assumption
    | dsimp only
    | split

theorem passTime_keeps {s₀ s : State} {target : Nat} (hk : State.Keeps s₀ s) : State.Keeps s₀ (passTime s target) :=
    by
  unfold passTime
  repeat' first
    | with_reducible
        first
          | assumption | refine keeps_ite_else ?_ (fun _ => ?_)
    | refine keeps_mk ?_; with_reducible
        first
          | assumption | refine keeps_ite_else ?_ (fun _ => ?_)
    | dsimp only
    | split

theorem applyStep_keeps {s₀ : State} {s : State} (hk : State.Keeps s₀ s) : State.Keeps s₀ (applyStep s) := by
  unfold applyStep
  repeat' first
    | with_reducible
        first
          | assumption | refine sticky_keeps ?_ | refine State.setBit_keeps ?_
          | refine keeps_ite_else ?_ (fun _ => ?_)
    | refine keeps_mk ?_; with_reducible
        first
          | assumption | refine sticky_keeps ?_ | refine State.setBit_keeps ?_
          | refine keeps_ite_else ?_ (fun _ => ?_)
    | dsimp only
    | split

theorem tickTime_keeps {s₀ : State} {s : State} (hk : State.Keeps s₀ s) : State.Keeps s₀ (tickTime s) := by
  unfold tickTime
  repeat' first
    | with_reducible
        first
          | assumption | refine applyStep_keeps ?_ | refine keeps_ite_else ?_ (fun _ => ?_)
    | refine keeps_mk ?_; with_reducible
        first
          | assumption | refine applyStep_keeps ?_ | refine keeps_ite_else ?_ (fun _ => ?_)
    | dsimp only
    | split

theorem advanceTo_keeps {s₀ s : State} {target : Nat} (hk : State.Keeps s₀ s) : State.Keeps s₀ (advanceTo s target) :=
    by
  unfold advanceTo
  repeat' first
    | with_reducible
        first
          | assumption | refine passTime_keeps ?_ | refine tickTime_keeps ?_ | refine keeps_ite_else ?_ (fun _ => ?_)
    | dsimp only
    | split

theorem gatePps_keeps {s₀ : State} {s : State} (hk : State.Keeps s₀ s) : State.Keeps s₀ (gatePps s) := by
  unfold gatePps
  repeat' first
    | with_reducible
        first
          | assumption | refine keeps_ite_else ?_ (fun _ => ?_)
    | refine keeps_mk ?_; with_reducible
        first
          | assumption | refine keeps_ite_else ?_ (fun _ => ?_)
    | dsimp only
    | split

theorem setSync_keeps {s₀ : State} {s : State} {b : Bool} (hk : State.Keeps s₀ s) : State.Keeps s₀ (setSync s b) := by
  unfold setSync
  repeat' first
    | with_reducible
        first
          | assumption | refine sticky_keeps ?_ | refine gatePps_keeps ?_ | refine State.setBit_keeps ?_
          | refine keeps_ite_else ?_ (fun _ => ?_)
    | dsimp only
    | split

theorem execExchangeLoss_keeps {s₀ s : State} (hk : State.Keeps s₀ s) : OutKeeps s₀ (execExchangeLoss s) := by
  unfold execExchangeLoss
  repeat' first
    | with_reducible
        first
          | assumption | refine outKeeps_next ?_ | refine setSync_keeps ?_ | refine sticky_keeps ?_
          | refine keeps_ite_else ?_ (fun _ => ?_)
    | refine keeps_mk ?_; with_reducible
        first
          | assumption | refine outKeeps_next ?_ | refine setSync_keeps ?_ | refine sticky_keeps ?_
          | refine keeps_ite_else ?_ (fun _ => ?_)
    | dsimp only
    | split

theorem execExchangeReceive_keeps {s₀ : State} {link : Fin 8} {pkt : Packet} {s : State} (hk : State.Keeps s₀ s) :
    OutKeeps s₀ (execExchangeReceive link pkt s) := by
  unfold execExchangeReceive
  repeat' first
    | with_reducible
        first
          | assumption | refine outKeeps_next ?_ | refine transmit_keeps ?_ | refine keeps_ite_else ?_ (fun _ => ?_)
    | refine keeps_mk ?_; with_reducible
        first
          | assumption | refine outKeeps_next ?_ | refine transmit_keeps ?_ | refine keeps_ite_else ?_ (fun _ => ?_)
    | dsimp only
    | split

theorem halve_keeps {s₀ : State} {s : State} {v : Int} (hk : State.Keeps s₀ s) : State.Keeps s₀ (halve s v).1 := by
  unfold halve
  repeat' first
    | with_reducible
        first
          | assumption | refine State.bumpFree_keeps ?_ | refine keeps_ite_else ?_ (fun _ => ?_)
          | refine keeps_ite_fst ?_ ?_
    | dsimp only
    | split

theorem setInc_keeps {s₀ : State} {s : State} {v : Int} (hk : State.Keeps s₀ s) : State.Keeps s₀ (setInc s v) := by
  unfold setInc
  repeat' first
    | with_reducible
        first
          | assumption | refine State.setFld_keeps ?_ | refine sticky_keeps ?_
          | refine keeps_ite_else ?_ (fun _ => ?_)
    | dsimp only
    | split

theorem syncOf_keeps {s₀ : State} {s : State} {th : Int} (hk : State.Keeps s₀ s) : State.Keeps s₀ (syncOf s th) := by
  unfold syncOf
  repeat' first
    | with_reducible
        first
          | assumption | refine setSync_keeps ?_ | refine keeps_ite_else ?_ (fun _ => ?_)
    | refine keeps_mk ?_; with_reducible
        first
          | assumption | refine setSync_keeps ?_ | refine keeps_ite_else ?_ (fun _ => ?_)
    | dsimp only
    | split

theorem servo_keeps {s₀ s : State} {th : Int} {per : Nat} (hk : State.Keeps s₀ s) : State.Keeps s₀ (servo s th per) :=
    by
  unfold servo
  repeat' first
    | with_reducible
        first
          | assumption | refine State.setFld_keeps ?_ | refine halve_keeps ?_ | refine addStep_keeps ?_
          | refine setInc_keeps ?_ | refine syncOf_keeps ?_ | refine keeps_ite_else ?_ (fun _ => ?_)
          | refine keeps_ite_fst ?_ ?_
    | refine keeps_mk ?_; with_reducible
        first
          | assumption | refine State.setFld_keeps ?_ | refine halve_keeps ?_ | refine addStep_keeps ?_
          | refine setInc_keeps ?_ | refine syncOf_keeps ?_ | refine keeps_ite_else ?_ (fun _ => ?_)
          | refine keeps_ite_fst ?_ ?_
    | dsimp only
    | split

theorem execExchangeResult_keeps {s₀ : State} {t1 t2 t3 t4 : Nat} {s : State} (hk : State.Keeps s₀ s) : OutKeeps s₀
    (execExchangeResult t1 t2 t3 t4 s) := by
  unfold execExchangeResult
  repeat' first
    | with_reducible
        first
          | assumption | refine outKeeps_next ?_ | refine halve_keeps ?_ | refine State.setFld_keeps ?_
          | refine servo_keeps ?_ | refine keeps_ite_else ?_ (fun _ => ?_) | refine keeps_ite_fst ?_ ?_
    | refine keeps_mk ?_; with_reducible
        first
          | assumption | refine outKeeps_next ?_ | refine halve_keeps ?_ | refine State.setFld_keeps ?_
          | refine servo_keeps ?_ | refine keeps_ite_else ?_ (fun _ => ?_) | refine keeps_ite_fst ?_ ?_
    | dsimp only
    | split

theorem execIncWrite_keeps {s₀ : State} {value : Word} {s : State} (hk : State.Keeps s₀ s) : OutKeeps s₀ (execIncWrite
    value s) := by
  unfold execIncWrite
  repeat' first
    | with_reducible
        first
          | assumption | refine outKeeps_next ?_ | refine setInc_keeps ?_
    | dsimp only
    | split

theorem nowRead_keeps {s₀ : State} {s : State} (hk : State.Keeps s₀ s) : State.Keeps s₀ (nowRead s) := by
  unfold nowRead
  repeat' first
    | with_reducible
        first
          | assumption | refine State.setReg_keeps ?_
    | dsimp only
    | split

theorem execNowRead_keeps {s₀ : State} {s : State} (hk : State.Keeps s₀ s) : OutKeeps s₀ (execNowRead s) := by
  unfold execNowRead
  repeat' first
    | with_reducible
        first
          | assumption | refine outKeeps_next ?_ | refine nowRead_keeps ?_
    | dsimp only
    | split

theorem execPpsEdge_keeps {s₀ : State} {s : State} (hk : State.Keeps s₀ s) : OutKeeps s₀ (execPpsEdge s) := by
  unfold execPpsEdge
  repeat' first
    | with_reducible
        first
          | assumption | refine outKeeps_next ?_ | refine sticky_keeps ?_ | refine State.setReg_keeps ?_
          | refine servo_keeps ?_ | refine keeps_ite_else ?_ (fun _ => ?_)
    | refine keeps_mk ?_; with_reducible
        first
          | assumption | refine outKeeps_next ?_ | refine sticky_keeps ?_ | refine State.setReg_keeps ?_
          | refine servo_keeps ?_ | refine keeps_ite_else ?_ (fun _ => ?_)
    | dsimp only
    | split

theorem execPtpTxStamp_keeps {s₀ : State} {port : Fin 2} {mode : PtpMode} {s : State} (hk : State.Keeps s₀ s) :
    OutKeeps s₀ (execPtpTxStamp port mode s) := by
  unfold execPtpTxStamp
  repeat' first
    | with_reducible
        first
          | assumption | refine outKeeps_next ?_ | refine State.setReg_keeps ?_ | refine sticky_keeps ?_
          | refine keeps_ite_else ?_ (fun _ => ?_)
    | refine keeps_mk ?_; with_reducible
        first
          | assumption | refine outKeeps_next ?_ | refine State.setReg_keeps ?_ | refine sticky_keeps ?_
          | refine keeps_ite_else ?_ (fun _ => ?_)
    | dsimp only
    | split

theorem writeTimCtl_keeps {s₀ s : State} {v : Word} (hk : State.Keeps s₀ s) : State.Keeps s₀ (writeTimCtl s v) := by
  unfold writeTimCtl
  repeat' first
    | with_reducible
        first
          | assumption | refine gatePps_keeps ?_ | refine State.setReg_keeps ?_ | refine setSync_keeps ?_
          | refine keeps_ite_else ?_ (fun _ => ?_)
    | refine keeps_mk ?_; with_reducible
        first
          | assumption | refine gatePps_keeps ?_ | refine State.setReg_keeps ?_ | refine setSync_keeps ?_
          | refine keeps_ite_else ?_ (fun _ => ?_)
    | dsimp only
    | split

theorem execRoleWrite_keeps {s₀ : State} {role : BitVec 2} {uplink : Fin 8} {s : State} (hk : State.Keeps s₀ s) :
    OutKeeps s₀ (execRoleWrite role uplink s) := by
  unfold execRoleWrite
  repeat' first
    | with_reducible
        first
          | assumption | refine outKeeps_next ?_ | refine writeTimCtl_keeps ?_
    | dsimp only
    | split

theorem execTimeStep_keeps {s₀ : State} {d : Word} {s : State} (hk : State.Keeps s₀ s) : OutKeeps s₀ (execTimeStep d
    s) := by
  unfold execTimeStep
  repeat' first
    | with_reducible
        first
          | assumption | refine outKeeps_next ?_ | refine addStep_keeps ?_
    | dsimp only
    | split

theorem ptpServo_keeps {s₀ s : State} {port : Nat} {bs : List Byte} {p : Option PtpServo} (hk : State.Keeps s₀ s) :
    State.Keeps s₀ (ptpServo s port bs p) := by
  unfold ptpServo
  repeat' first
    | with_reducible
        first
          | assumption | refine setInc_keeps ?_ | refine syncOf_keeps ?_ | refine addStep_keeps ?_
          | refine keeps_ite_else ?_ (fun _ => ?_)
    | refine keeps_mk ?_; with_reducible
        first
          | assumption | refine setInc_keeps ?_ | refine syncOf_keeps ?_ | refine addStep_keeps ?_
          | refine keeps_ite_else ?_ (fun _ => ?_)
    | dsimp only
    | split

/-! ### Machine/Lamp.lean -/

theorem State.modSeq_keeps {s₀ s : State} {q : Nat} {f : Seq → Seq} (hk : State.Keeps s₀ s) : State.Keeps s₀
    (State.modSeq s q f) := by
  unfold State.modSeq
  repeat' first
    | with_reducible
        first
          | assumption
    | refine keeps_mk ?_; with_reducible
        first
          | assumption
    | dsimp only
    | split

theorem State.modGraph_keeps {s₀ s : State} {q gid : Nat} {f : Graph → Graph} (hk : State.Keeps s₀ s) : State.Keeps s₀
    (State.modGraph s q gid f) := by
  unfold State.modGraph
  repeat' first
    | with_reducible
        first
          | assumption | refine State.modSeq_keeps ?_ | refine keeps_ite_else ?_ (fun _ => ?_)
    | dsimp only
    | split

theorem State.modInst_keeps {s₀ s : State} {q uid : Nat} {f : Inst → Inst} (hk : State.Keeps s₀ s) : State.Keeps s₀
    (State.modInst s q uid f) := by
  unfold State.modInst
  repeat' first
    | with_reducible
        first
          | assumption | refine State.modSeq_keeps ?_ | refine keeps_ite_else ?_ (fun _ => ?_)
    | dsimp only
    | split

theorem State.modNode_keeps {s₀ s : State} {q gid i : Nat} {f : NodeDesc → NodeDesc} (hk : State.Keeps s₀ s) :
    State.Keeps s₀ (State.modNode s q gid i f) := by
  unfold State.modNode
  repeat' first
    | with_reducible
        first
          | assumption | refine State.modGraph_keeps ?_
    | dsimp only
    | split

theorem State.setPhase_keeps {s₀ s : State} {q uid i : Nat} {p : NodePhase} (hk : State.Keeps s₀ s) : State.Keeps s₀
    (State.setPhase s q uid i p) := by
  unfold State.setPhase
  repeat' first
    | with_reducible
        first
          | assumption | refine State.modInst_keeps ?_
    | dsimp only
    | split

theorem noteAborted_keeps {s₀ s : State} {q : Nat} {x : Inst} (hk : State.Keeps s₀ s) : State.Keeps s₀ (noteAborted s
    q x) := by
  unfold noteAborted
  repeat' first
    | with_reducible
        first
          | assumption | refine keeps_ite_else ?_ (fun _ => ?_)
    | refine keeps_mk ?_; with_reducible
        first
          | assumption | refine keeps_ite_else ?_ (fun _ => ?_)
    | dsimp only
    | split

theorem seqErr_keeps {s₀ s : State} {q bit : Nat} (hk : State.Keeps s₀ s) : State.Keeps s₀ (seqErr s q bit) := by
  unfold seqErr
  repeat' first
    | with_reducible
        first
          | assumption | refine sticky_keeps ?_
    | dsimp only
    | split

theorem retireGraphs_keeps {s₀ s : State} {q : Nat} (hk : State.Keeps s₀ s) : State.Keeps s₀ (retireGraphs s q) := by
  unfold retireGraphs
  repeat' first
    | with_reducible
        first
          | assumption | refine State.modSeq_keeps ?_
    | dsimp only
    | split

theorem endInst_keeps {s₀ s : State} {q : Nat} {x : Inst} (hk : State.Keeps s₀ s) : State.Keeps s₀ (endInst s q x) :=
    by
  unfold endInst
  repeat' first
    | with_reducible
        first
          | assumption | refine State.modSeq_keeps ?_ | refine unitPut_keeps ?_ | refine bumpTo_keeps ?_
          | refine seqErr_keeps ?_ | refine obsEvent_keeps ?_ | refine retireGraphs_keeps ?_
          | refine keeps_ite_else ?_ (fun _ => ?_)
    | refine keeps_mk ?_; with_reducible
        first
          | assumption | refine State.modSeq_keeps ?_ | refine unitPut_keeps ?_ | refine bumpTo_keeps ?_
          | refine seqErr_keeps ?_ | refine obsEvent_keeps ?_ | refine retireGraphs_keeps ?_
          | refine keeps_ite_else ?_ (fun _ => ?_)
    | dsimp only
    | split

theorem checkInst_keeps {s₀ s : State} {q uid : Nat} (hk : State.Keeps s₀ s) : State.Keeps s₀ (checkInst s q uid) :=
    by
  unfold checkInst
  repeat' first
    | with_reducible
        first
          | assumption | refine endInst_keeps ?_ | refine keeps_ite_else ?_ (fun _ => ?_)
    | dsimp only
    | split

theorem abortInst_keeps {s₀ s : State} {q uid : Nat} (hk : State.Keeps s₀ s) : State.Keeps s₀ (abortInst s q uid) :=
    by
  unfold abortInst
  repeat' first
    | with_reducible
        first
          | assumption | refine State.modInst_keeps ?_ | refine abortBatches_keeps ?_ | refine noteAborted_keeps ?_
          | refine checkInst_keeps ?_ | refine keeps_ite_else ?_ (fun _ => ?_)
          | refine keeps_foldl ?_ (fun _ _ _ => ?_) | refine keeps_foldl_fst ?_ (fun _ _ _ => ?_)
    | dsimp only
    | split

theorem skipInst_keeps {s₀ s : State} {q : Nat} (hk : State.Keeps s₀ s) : State.Keeps s₀ (skipInst s q) := by
  unfold skipInst
  repeat' first
    | with_reducible
        first
          | assumption | refine seqErr_keeps ?_ | refine State.satFld_keeps ?_
    | dsimp only
    | split

theorem putCounters_keeps {s₀ s : State} {q gid i : Nat} (hk : State.Keeps s₀ s) : State.Keeps s₀ (putCounters s q gid
    i) := by
  unfold putCounters
  repeat' first
    | with_reducible
        first
          | assumption | refine hwStore_keeps ?_
    | dsimp only
    | split

theorem stallNode_keeps {s₀ s : State} {q gid i cause : Nat} (hk : State.Keeps s₀ s) : State.Keeps s₀ (stallNode s q
    gid i cause) := by
  unfold stallNode
  repeat' first
    | with_reducible
        first
          | assumption | refine State.modNode_keeps ?_ | refine putCounters_keeps ?_ | refine obsEvent_keeps ?_
    | dsimp only
    | split

theorem finishNode_keeps {s₀ s : State} {q uid gid i : Nat} {ok : Bool} (hk : State.Keeps s₀ s) : State.Keeps s₀
    (finishNode s q uid gid i ok) := by
  unfold finishNode
  repeat' first
    | with_reducible
        first
          | assumption | refine State.setPhase_keeps ?_ | refine State.modNode_keeps ?_ | refine putCounters_keeps ?_
    | dsimp only
    | split

theorem launchNode_keeps {s₀ s : State} {q : Nat} {x : Inst} {i : Nat} {n : NodeDesc} (hk : State.Keeps s₀ s) :
    State.Keeps s₀ (launchNode s q x i n) := by
  unfold launchNode
  repeat' first
    | with_reducible
        first
          | assumption | refine stallNode_keeps ?_ | refine State.modNode_keeps ?_ | refine State.setPhase_keeps ?_
          | refine bump_keeps ?_ | refine finishNode_keeps ?_ | refine keeps_ite_else ?_ (fun _ => ?_)
          | refine keeps_ite_fst ?_ ?_
    | dsimp only
    | split

theorem tryNode_keeps {s₀ : State} {q uid : Nat} {s : State} {i : Nat} (hk : State.Keeps s₀ s) : State.Keeps s₀
    (tryNode q uid s i) := by
  unfold tryNode
  repeat' first
    | with_reducible
        first
          | assumption | refine State.setPhase_keeps ?_ | refine launchNode_keeps ?_
          | refine keeps_ite_else ?_ (fun _ => ?_)
    | dsimp only
    | split

theorem advanceInst_keeps {s₀ s : State} {q uid : Nat} (hk : State.Keeps s₀ s) : State.Keeps s₀ (advanceInst s q uid)
    := by
  unfold advanceInst
  repeat' first
    | with_reducible
        first
          | assumption | refine checkInst_keeps ?_ | refine tryNode_keeps ?_ | refine keeps_foldl ?_ (fun _ _ _ => ?_)
          | refine keeps_foldl_fst ?_ (fun _ _ _ => ?_)
    | dsimp only
    | split

theorem startInst_keeps {s₀ s : State} {q edge : Nat} {g : Graph} {first count : Nat} (hk : State.Keeps s₀ s) :
    State.Keeps s₀ (startInst s q edge g first count) := by
  unfold startInst
  repeat' first
    | with_reducible
        first
          | assumption | refine State.modGraph_keeps ?_ | refine State.modSeq_keeps ?_ | refine unitPut_keeps ?_
          | refine obsEvent_keeps ?_ | refine advanceInst_keeps ?_ | refine keeps_ite_else ?_ (fun _ => ?_)
    | dsimp only
    | split

theorem readBuoy_keeps {s₀ s : State} {a : Word} (hk : State.Keeps s₀ s) : State.Keeps s₀ (readBuoy s a).1 := by
  unfold readBuoy
  repeat' first
    | with_reducible
        first
          | assumption | refine unitRead_keeps ?_ | refine keeps_ite_else ?_ (fun _ => ?_)
          | refine keeps_ite_fst ?_ ?_
    | dsimp only
    | split

theorem admitInst_keeps {s₀ s : State} {q edge : Nat} {g : Graph} (hk : State.Keeps s₀ s) : State.Keeps s₀ (admitInst
    s q edge g) := by
  unfold admitInst
  repeat' first
    | with_reducible
        first
          | assumption | refine obsEvent_keeps ?_ | refine skipInst_keeps ?_ | refine startInst_keeps ?_
          | refine readBuoy_keeps ?_ | refine State.modGraph_keeps ?_ | refine keeps_ite_else ?_ (fun _ => ?_)
          | refine keeps_ite_fst ?_ ?_
    | dsimp only
    | split

theorem disableGraph_keeps {s₀ s : State} {q : Nat} (hk : State.Keeps s₀ s) : State.Keeps s₀ (disableGraph s q) := by
  unfold disableGraph
  repeat' first
    | with_reducible
        first
          | assumption | refine retireGraphs_keeps ?_ | refine State.modSeq_keeps ?_
    | dsimp only
    | split

theorem edgeReservations_keeps {s₀ s : State} (hk : State.Keeps s₀ s) : State.Keeps s₀ (edgeReservations s) := by
  unfold edgeReservations
  repeat' first
    | with_reducible
        first
          | assumption | refine exceedResv_keeps ?_ | refine State.bumpFree_keeps ?_
          | refine keeps_ite_else ?_ (fun _ => ?_) | refine keeps_foldl ?_ (fun _ _ _ => ?_)
          | refine keeps_foldl_fst ?_ (fun _ _ _ => ?_)
    | refine keeps_mk ?_; with_reducible
        first
          | assumption | refine exceedResv_keeps ?_ | refine State.bumpFree_keeps ?_
          | refine keeps_ite_else ?_ (fun _ => ?_) | refine keeps_foldl ?_ (fun _ _ _ => ?_)
          | refine keeps_foldl_fst ?_ (fun _ _ _ => ?_)
    | dsimp only
    | split

theorem overrunNode_keeps {s₀ : State} {q gid edge : Nat} {runOn : Bool} {cls : Nat} {s : State} {i : Nat} (hk :
    State.Keeps s₀ s) : State.Keeps s₀ (overrunNode q gid edge runOn cls s i) := by
  unfold overrunNode
  repeat' first
    | with_reducible
        first
          | assumption | refine State.modNode_keeps ?_ | refine putCounters_keeps ?_ | refine State.satFld_keeps ?_
          | refine seqErr_keeps ?_ | refine freezeCause_keeps ?_ | refine obsEvent_keeps ?_
          | refine keeps_ite_else ?_ (fun _ => ?_)
    | dsimp only
    | split

theorem sampleOnce_keeps {s₀ s : State} {q edge : Nat} {x : Inst} {g : Graph} (hk : State.Keeps s₀ s) : State.Keeps s₀
    (sampleOnce s q edge x g) := by
  unfold sampleOnce
  repeat' first
    | with_reducible
        first
          | assumption | refine overrunNode_keeps ?_ | refine State.modInst_keeps ?_ | refine abortInst_keeps ?_
          | refine advanceInst_keeps ?_ | refine keeps_ite_else ?_ (fun _ => ?_)
          | refine keeps_foldl ?_ (fun _ _ _ => ?_) | refine keeps_foldl_fst ?_ (fun _ _ _ => ?_)
    | dsimp only
    | split

theorem sampleInst_keeps {s₀ : State} {q edge uid x0 : Nat} {x1 : State} (hk : State.Keeps s₀ x1) : State.Keeps s₀
    (sampleInst q edge uid x0 x1) := by
  induction x0 generalizing x1
  · unfold sampleInst
    repeat' first
      | with_reducible
          first
            | assumption | refine sampleOnce_keeps ?_ | refine keeps_ite_else ?_ (fun _ => ?_)
      | dsimp only
      | split
  · rename_i ih
    unfold sampleInst
    repeat' first
      | with_reducible
          first
            | assumption | refine ih ?_ | refine sampleOnce_keeps ?_ | refine keeps_ite_else ?_ (fun _ => ?_)
      | dsimp only
      | split

theorem edgeSeq_keeps {s₀ : State} {edge skipped : Nat} {s : State} {q : Nat} (hk : State.Keeps s₀ s) : State.Keeps s₀
    (edgeSeq edge skipped s q) := by
  unfold edgeSeq
  repeat' first
    | with_reducible
        first
          | assumption | refine seqErr_keeps ?_ | refine State.satFld_keeps ?_ | refine sampleInst_keeps ?_
          | refine admitInst_keeps ?_ | refine keeps_ite_else ?_ (fun _ => ?_)
          | refine keeps_foldl ?_ (fun _ _ _ => ?_) | refine keeps_foldl_fst ?_ (fun _ _ _ => ?_)
    | dsimp only
    | split

theorem edgeConfirms_keeps {s₀ : State} {before : Nat} {s : State} (hk : State.Keeps s₀ s) : State.Keeps s₀
    (edgeConfirms before s) := by
  unfold edgeConfirms
  repeat' first
    | with_reducible
        first
          | assumption | refine respond_keeps ?_ | refine keeps_ite_else ?_ (fun _ => ?_)
          | refine keeps_foldl ?_ (fun _ _ _ => ?_) | refine keeps_foldl_fst ?_ (fun _ _ _ => ?_)
    | dsimp only
    | split

theorem sendExchange_keeps {s₀ s : State} {l : Nat} (hk : State.Keeps s₀ s) : State.Keeps s₀ (sendExchange s l) := by
  unfold sendExchange
  repeat' first
    | with_reducible
        first
          | assumption | refine transmit_keeps ?_
    | refine keeps_mk ?_; with_reducible
        first
          | assumption | refine transmit_keeps ?_
    | dsimp only
    | split

theorem edgeExchanges_keeps {s₀ : State} {s : State} (hk : State.Keeps s₀ s) : State.Keeps s₀ (edgeExchanges s) := by
  unfold edgeExchanges
  repeat' first
    | with_reducible
        first
          | assumption | refine sendExchange_keeps ?_ | refine State.bumpFree_keeps ?_
          | refine keeps_ite_else ?_ (fun _ => ?_) | refine keeps_foldl ?_ (fun _ _ _ => ?_)
          | refine keeps_foldl_fst ?_ (fun _ _ _ => ?_)
    | dsimp only
    | split

theorem doEdge_keeps {s₀ : State} {s : State} (hk : State.Keeps s₀ s) : State.Keeps s₀ (doEdge s) := by
  unfold doEdge
  repeat' first
    | with_reducible
        first
          | assumption | refine State.setReg_keeps ?_ | refine State.setBit_keeps ?_ | refine count_keeps ?_
          | refine applyPower_keeps ?_ | refine edgeReservations_keeps ?_ | refine edgeSeq_keeps ?_
          | refine edgeConfirms_keeps ?_ | refine edgeExchanges_keeps ?_ | refine keeps_ite_else ?_ (fun _ => ?_)
          | refine keeps_foldl ?_ (fun _ _ _ => ?_) | refine keeps_foldl_fst ?_ (fun _ _ _ => ?_)
    | refine keeps_mk ?_; with_reducible
        first
          | assumption | refine State.setReg_keeps ?_ | refine State.setBit_keeps ?_ | refine count_keeps ?_
          | refine applyPower_keeps ?_ | refine edgeReservations_keeps ?_ | refine edgeSeq_keeps ?_
          | refine edgeConfirms_keeps ?_ | refine edgeExchanges_keeps ?_ | refine keeps_ite_else ?_ (fun _ => ?_)
          | refine keeps_foldl ?_ (fun _ _ _ => ?_) | refine keeps_foldl_fst ?_ (fun _ _ _ => ?_)
    | dsimp only
    | split

theorem graphPlace_keeps {s₀ s : State} {a : Word} {len : Nat} (hk : State.Keeps s₀ s) : State.Keeps s₀ (graphPlace s
    a len).1 := by
  unfold graphPlace
  repeat' first
    | with_reducible
        first
          | assumption | refine unitRead_keeps ?_ | refine keeps_ite_else ?_ (fun _ => ?_)
          | refine keeps_ite_fst ?_ ?_
    | dsimp only
    | split

theorem refuseGraph_keeps {s₀ s : State} {q reason node : Nat} (hk : State.Keeps s₀ s) : State.Keeps s₀ (refuseGraph s
    q reason node) := by
  unfold refuseGraph
  repeat' first
    | with_reducible
        first
          | assumption | refine State.setBit_keeps ?_ | refine State.setFld_keeps ?_ | refine seqErr_keeps ?_
    | dsimp only
    | split

theorem enableGraph_keeps {s₀ s : State} {q : Nat} (hk : State.Keeps s₀ s) : State.Keeps s₀ (enableGraph s q) := by
  unfold enableGraph
  repeat' first
    | with_reducible
        first
          | assumption | refine graphPlace_keeps ?_ | refine unitRead_keeps ?_ | refine readBuoy_keeps ?_
          | refine pickCode_keeps ?_ | refine refuseGraph_keeps ?_ | refine State.modSeq_keeps ?_
          | refine State.setReg_keeps ?_ | refine putCounters_keeps ?_ | refine keeps_ite_else ?_ (fun _ => ?_)
          | refine keeps_ite_fst ?_ ?_ | refine keeps_foldl ?_ (fun _ _ _ => ?_)
          | refine keeps_foldl_fst ?_ (fun _ _ _ => ?_)
    | dsimp only
    | split

theorem writeSeqCtl_keeps {s₀ s : State} {q : Nat} {v : Word} (hk : State.Keeps s₀ s) : State.Keeps s₀ (writeSeqCtl s
    q v) := by
  unfold writeSeqCtl
  repeat' first
    | with_reducible
        first
          | assumption | refine disableGraph_keeps ?_ | refine State.setBit_keeps ?_ | refine State.setReg_keeps ?_
          | refine enableGraph_keeps ?_ | refine keeps_ite_else ?_ (fun _ => ?_)
    | dsimp only
    | split

theorem execGraphDisable_keeps {s₀ : State} {seq : Fin 16} {s : State} (hk : State.Keeps s₀ s) : OutKeeps s₀
    (execGraphDisable seq s) := by
  unfold execGraphDisable
  repeat' first
    | with_reducible
        first
          | assumption | refine outKeeps_next ?_ | refine writeSeqCtl_keeps ?_
    | dsimp only
    | split

theorem execGraphEnable_keeps {s₀ : State} {seq : Fin 16} {s : State} (hk : State.Keeps s₀ s) : OutKeeps s₀
    (execGraphEnable seq s) := by
  unfold execGraphEnable
  repeat' first
    | with_reducible
        first
          | assumption | refine outKeeps_next ?_ | refine writeSeqCtl_keeps ?_
    | dsimp only
    | split

theorem execLampEdge_keeps {s₀ : State} {s : State} (hk : State.Keeps s₀ s) : OutKeeps s₀ (execLampEdge s) := by
  unfold execLampEdge
  repeat' first
    | with_reducible
        first
          | assumption | refine outKeeps_next ?_ | refine tickTime_keeps ?_ | refine doEdge_keeps ?_
          | refine advanceTo_keeps ?_ | refine keeps_ite_else ?_ (fun _ => ?_)
    | dsimp only
    | split

theorem restartLamp_keeps {s₀ : State} {s : State} (hk : State.Keeps s₀ s) : State.Keeps s₀ (restartLamp s) := by
  unfold restartLamp
  repeat' first
    | with_reducible
        first
          | assumption
    | refine keeps_mk ?_; with_reducible
        first
          | assumption
    | dsimp only
    | split

theorem writeLmpCtl_keeps {s₀ s : State} {v : Word} (hk : State.Keeps s₀ s) : State.Keeps s₀ (writeLmpCtl s v) := by
  unfold writeLmpCtl
  repeat' first
    | with_reducible
        first
          | assumption | refine State.setBit_keeps ?_ | refine State.setFld_keeps ?_ | refine restartLamp_keeps ?_
          | refine applyPower_keeps ?_ | refine keeps_ite_else ?_ (fun _ => ?_)
    | dsimp only
    | split

theorem execLampPeriodSet_keeps {s₀ : State} {ns : Nat} {s : State} (hk : State.Keeps s₀ s) : OutKeeps s₀
    (execLampPeriodSet ns s) := by
  unfold execLampPeriodSet
  repeat' first
    | with_reducible
        first
          | assumption | refine outKeeps_next ?_ | refine writeLmpCtl_keeps ?_
    | dsimp only
    | split

theorem execLampRun_keeps {s₀ : State} {run : Bool} {s : State} (hk : State.Keeps s₀ s) : OutKeeps s₀ (execLampRun run
    s) := by
  unfold execLampRun
  repeat' first
    | with_reducible
        first
          | assumption | refine outKeeps_next ?_ | refine writeLmpCtl_keeps ?_
          | refine keeps_ite_else ?_ (fun _ => ?_)
    | dsimp only
    | split

theorem writeLmpResv_keeps {s₀ s : State} {v : Word} (hk : State.Keeps s₀ s) : State.Keeps s₀ (writeLmpResv s v) := by
  unfold writeLmpResv
  repeat' first
    | with_reducible
        first
          | assumption | refine State.setReg_keeps ?_
    | dsimp only
    | split

theorem execLmpResvWrite_keeps {s₀ : State} {value : Word} {s : State} (hk : State.Keeps s₀ s) : OutKeeps s₀
    (execLmpResvWrite value s) := by
  unfold execLmpResvWrite
  repeat' first
    | with_reducible
        first
          | assumption | refine outKeeps_next ?_ | refine writeLmpResv_keeps ?_
    | dsimp only
    | split

theorem runEdges_keeps {s₀ : State} {x0 : Nat} {x1 : State} {x2 : Nat} (hk : State.Keeps s₀ x1) : State.Keeps s₀
    (runEdges x0 x1 x2) := by
  induction x0 generalizing x1 x2
  · unfold runEdges
    repeat' first
      | with_reducible
          first
            | assumption | refine passTime_keeps ?_ | refine doEdge_keeps ?_ | refine keeps_ite_else ?_ (fun _ => ?_)
      | dsimp only
      | split
  · rename_i ih
    unfold runEdges
    repeat' first
      | with_reducible
          first
            | assumption | refine ih ?_ | refine passTime_keeps ?_ | refine doEdge_keeps ?_
            | refine keeps_ite_else ?_ (fun _ => ?_)
      | dsimp only
      | split

theorem runTo_keeps {s₀ s : State} {target : Nat} (hk : State.Keeps s₀ s) : State.Keeps s₀ (runTo s target) := by
  unfold runTo
  repeat' first
    | with_reducible
        first
          | assumption | refine tickTime_keeps ?_ | refine runEdges_keeps ?_ | refine keeps_ite_else ?_ (fun _ => ?_)
    | dsimp only
    | split

theorem runTicks_keeps {s₀ s : State} {tick : Nat} (hk : State.Keeps s₀ s) : State.Keeps s₀ (runTicks s tick) := by
  unfold runTicks
  repeat' first
    | with_reducible
        first
          | assumption | refine runTo_keeps ?_ | refine keeps_ite_else ?_ (fun _ => ?_)
    | dsimp only
    | split

theorem execPpsOutEnd_keeps {s₀ : State} {s : State} (hk : State.Keeps s₀ s) : OutKeeps s₀ (execPpsOutEnd s) := by
  unfold execPpsOutEnd
  repeat' first
    | with_reducible
        first
          | assumption | refine outKeeps_next ?_ | refine runTicks_keeps ?_ | refine keeps_ite_else ?_ (fun _ => ?_)
    | refine keeps_mk ?_; with_reducible
        first
          | assumption | refine outKeeps_next ?_ | refine runTicks_keeps ?_ | refine keeps_ite_else ?_ (fun _ => ?_)
    | dsimp only
    | split

theorem idleTick_keeps {s₀ : State} {s : State} (hk : State.Keeps s₀ s) : State.Keeps s₀ (idleTick s) := by
  unfold idleTick
  repeat' first
    | with_reducible
        first
          | assumption | refine tickTime_keeps ?_ | refine doEdge_keeps ?_ | refine keeps_ite_else ?_ (fun _ => ?_)
    | dsimp only
    | split

theorem execPpsOutStart_keeps {s₀ : State} {s : State} (hk : State.Keeps s₀ s) : OutKeeps s₀ (execPpsOutStart s) := by
  unfold execPpsOutStart
  repeat' first
    | with_reducible
        first
          | assumption | refine outKeeps_next ?_ | refine idleTick_keeps ?_ | refine runTo_keeps ?_
          | refine gatePps_keeps ?_ | refine keeps_ite_else ?_ (fun _ => ?_)
    | refine keeps_mk ?_; with_reducible
        first
          | assumption | refine outKeeps_next ?_ | refine idleTick_keeps ?_ | refine runTo_keeps ?_
          | refine gatePps_keeps ?_ | refine keeps_ite_else ?_ (fun _ => ?_)
    | dsimp only
    | split

theorem execStepApply_keeps {s₀ : State} {s : State} (hk : State.Keeps s₀ s) : OutKeeps s₀ (execStepApply s) := by
  unfold execStepApply
  repeat' first
    | with_reducible
        first
          | assumption | refine outKeeps_next ?_ | refine tickTime_keeps ?_ | refine doEdge_keeps ?_
          | refine keeps_ite_else ?_ (fun _ => ?_)
    | dsimp only
    | split

theorem obsEnd_keeps {s₀ s : State} {unit : Nat} {r : Run} {status start : Nat} (hk : State.Keeps s₀ s) : State.Keeps
    s₀ (obsEnd s unit r status start) := by
  unfold obsEnd
  repeat' first
    | with_reducible
        first
          | assumption | refine obsEvent_keeps ?_
    | dsimp only
    | split

theorem obsStart_keeps {s₀ s : State} {unit : Nat} {r : Run} (hk : State.Keeps s₀ s) : State.Keeps s₀ (obsStart s unit
    r) := by
  unfold obsStart
  repeat' first
    | with_reducible
        first
          | assumption | refine obsEvent_keeps ?_
    | dsimp only
    | split

theorem reportFull_keeps {s₀ s : State} {q gid i : Nat} (hk : State.Keeps s₀ s) : State.Keeps s₀ (reportFull s q gid
    i) := by
  unfold reportFull
  repeat' first
    | with_reducible
        first
          | assumption | refine stallNode_keeps ?_ | refine State.modNode_keeps ?_
    | dsimp only
    | split

theorem stallOf_keeps {s₀ s : State} {r : Run} {cause : Nat} (hk : State.Keeps s₀ s) : State.Keeps s₀ (stallOf s r
    cause) := by
  unfold stallOf
  repeat' first
    | with_reducible
        first
          | assumption | refine stallNode_keeps ?_ | refine keeps_ite_else ?_ (fun _ => ?_)
    | dsimp only
    | split

theorem stallRun_keeps {s₀ s : State} {q uid i cause : Nat} (hk : State.Keeps s₀ s) : State.Keeps s₀ (stallRun s q uid
    i cause) := by
  unfold stallRun
  repeat' first
    | with_reducible
        first
          | assumption | refine stallNode_keeps ?_
    | dsimp only
    | split

theorem takeLaunch_keeps {s₀ s : State} {q i : Nat} {kinds : List Nat} (hk : State.Keeps s₀ s) : ∀ r, takeLaunch s q i
    kinds = some r → State.Keeps s₀ r.1 := by
  unfold takeLaunch
  repeat' first
    | with_reducible
        first
          | assumption | refine State.modNode_keeps ?_ | refine State.setPhase_keeps ?_
    | (intro _ hr; cases hr; done)
    | (intro _ hr; cases hr)
    | dsimp only
    | split

/-! ### Machine/Tier.lean -/

theorem copyTile_keeps {s₀ s : State} {o : Obj} {tile cls : Nat} {p : Space} (hk : State.Keeps s₀ s) : State.Keeps s₀
    (copyTile s o tile cls p) := by
  unfold copyTile
  repeat' first
    | with_reducible
        first
          | assumption | refine readTile_keeps ?_ | refine State.modCopy_keeps ?_ | refine countTier_keeps ?_
          | refine syncObj_keeps ?_ | refine count_keeps ?_ | refine keeps_ite_else ?_ (fun _ => ?_)
          | refine keeps_ite_fst ?_ ?_
    | dsimp only
    | split

theorem tierDone_keeps {s₀ s : State} {seq status : Nat} {result : Word} (hk : State.Keeps s₀ s) : State.Keeps s₀
    (tierDone s seq status result) := by
  unfold tierDone
  repeat' first
    | with_reducible
        first
          | assumption | refine unitRead_keeps ?_ | refine sticky_keeps ?_ | refine unitPut_keeps ?_
          | refine bumpTo_keeps ?_ | refine keeps_ite_else ?_ (fun _ => ?_) | refine keeps_ite_fst ?_ ?_
    | dsimp only
    | split

theorem endBusy_keeps {s₀ s : State} {sel : TierReq → Bool} {status : Nat} {result : Word} (hk : State.Keeps s₀ s) :
    State.Keeps s₀ (endBusy s sel status result) := by
  unfold endBusy
  repeat' first
    | with_reducible
        first
          | assumption | refine tierDone_keeps ?_ | refine keeps_foldl ?_ (fun _ _ _ => ?_)
          | refine keeps_foldl_fst ?_ (fun _ _ _ => ?_)
    | refine keeps_mk ?_; with_reducible
        first
          | assumption | refine tierDone_keeps ?_ | refine keeps_foldl ?_ (fun _ _ _ => ?_)
          | refine keeps_foldl_fst ?_ (fun _ _ _ => ?_)
    | dsimp only
    | split

theorem roomFor_keeps {s₀ : State} {d : Nat} {p : Space} {n x0 : Nat} {x1 : State} (hk : State.Keeps s₀ x1) : ∀ r,
    roomFor d p n x0 x1 = some r → State.Keeps s₀ r := by
  induction x0 generalizing x1
  · unfold roomFor
    repeat' first
      | with_reducible
          first
            | assumption | refine State.modCopy_keeps ?_ | refine dropCopy_keeps ?_
            | refine keeps_ite_else ?_ (fun _ => ?_)
      | (intro _ hr; cases hr; done)
      | (intro _ hr; cases hr)
      | dsimp only
      | split
  · rename_i ih
    unfold roomFor
    repeat' first
      | with_reducible
          first
            | assumption | refine ih ?_ | refine State.modCopy_keeps ?_ | refine dropCopy_keeps ?_
            | refine keeps_ite_else ?_ (fun _ => ?_)
      | (intro _ hr; cases hr; done)
      | (intro _ hr; cases hr)
      | dsimp only
      | split

theorem tierCreate_keeps {s₀ s : State} {id : Nat} {a0 a1 : Word} (hk : State.Keeps s₀ s) : State.Keeps s₀ (tierCreate
    s id a0 a1).1 := by
  unfold tierCreate
  repeat' first
    | with_reducible
        first
          | assumption | refine roomFor_keeps ?_ _ (by assumption) | refine State.fillRange_keeps ?_
          | refine syncObj_keeps ?_
    | refine keeps_mk ?_; with_reducible
        first
          | assumption | refine roomFor_keeps ?_ _ (by assumption) | refine State.fillRange_keeps ?_
          | refine syncObj_keeps ?_
    | dsimp only
    | split

theorem readWhole_keeps {s₀ s : State} {o : Obj} (hk : State.Keeps s₀ s) : State.Keeps s₀ (readWhole s o).1 := by
  unfold readWhole
  repeat' first
    | with_reducible
        first
          | assumption | refine meetFault_keeps ?_ | refine keeps_foldl ?_ (fun _ _ _ => ?_)
          | refine keeps_foldl_fst ?_ (fun _ _ _ => ?_)
    | dsimp only
    | split

theorem sealEnd_keeps {s₀ s : State} {o : Obj} (hk : State.Keeps s₀ s) : State.Keeps s₀ (sealEnd s o).1 := by
  unfold sealEnd
  repeat' first
    | with_reducible
        first
          | assumption | refine readWhole_keeps ?_ | refine count_keeps ?_ | refine State.setObj_keeps ?_
          | refine keeps_ite_else ?_ (fun _ => ?_) | refine keeps_ite_fst ?_ ?_
    | refine keeps_mk ?_; with_reducible
        first
          | assumption | refine readWhole_keeps ?_ | refine count_keeps ?_ | refine State.setObj_keeps ?_
          | refine keeps_ite_else ?_ (fun _ => ?_) | refine keeps_ite_fst ?_ ?_
    | dsimp only
    | split

theorem tierSeal_keeps {s₀ s : State} {seq id : Nat} {a1 : Word} {config : Bool} (hk : State.Keeps s₀ s) : State.Keeps
    s₀ (tierSeal s seq id a1 config).1 := by
  unfold tierSeal
  repeat' first
    | with_reducible
        first
          | assumption | refine roomFor_keeps ?_ _ (by assumption) | refine State.setObj_keeps ?_
          | refine sealEnd_keeps ?_ | refine keeps_ite_else ?_ (fun _ => ?_) | refine keeps_ite_fst ?_ ?_
    | dsimp only
    | split
    | (rename_i hr; revert hr; split
       · intro hr; cases hr; assumption
       · split
         · intro hr; exact roomFor_keeps (by assumption) _ hr
         · split
           · intro hr; cases hr; assumption
           · intro hr; cases hr)

theorem tierFree_keeps {s₀ s : State} {seq id : Nat} (hk : State.Keeps s₀ s) : State.Keeps s₀ (tierFree s seq id).1 :=
    by
  unfold tierFree
  repeat' first
    | with_reducible
        first
          | assumption | refine State.setObj_keeps ?_
    | dsimp only
    | split

theorem placeTile_keeps {s₀ : State} {o : Obj} {p : Space} {pin : Bool} {cls : Nat} {keep : TileCopy → Bool} {s :
    State} {tile : Nat} (hk : State.Keeps s₀ s) : ∀ r, placeTile o p pin cls keep s tile = some r → State.Keeps s₀ r
    := by
  unfold placeTile
  repeat' first
    | with_reducible
        first
          | assumption | refine State.modCopy_keeps ?_ | refine takeQuota_keeps ?_ _ (by assumption)
          | refine takeQuota_keeps ?_ | refine addCopy_keeps ?_ | refine takeAny_keeps ?_ _ (by assumption)
          | refine takeAny_keeps ?_ | refine keeps_ite_else ?_ (fun _ => ?_)
    | (intro _ hr; cases hr; done)
    | (intro _ hr; cases hr)
    | dsimp only
    | split
    | (intro _ hr; obtain ⟨t, ht, rfl⟩ := Option.map_eq_some_iff.1 hr; first
        | exact State.modCopy_keeps (takeQuota_keeps (by assumption) _ ht)
        | exact addCopy_keeps (takeQuota_keeps (by assumption) _ ht)
        | exact addCopy_keeps (takeAny_keeps (by assumption) _ ht))

theorem tierPlace_keeps {s₀ s : State} {seq cls id : Nat} {a0 a1 a2 : Word} (hk : State.Keeps s₀ s) : State.Keeps s₀
    (tierPlace s seq cls id a0 a1 a2).1 := by
  unfold tierPlace
  repeat' first
    | with_reducible
        first
          | assumption | refine placeTile_keeps ?_ _ (by assumption) | refine sticky_keeps ?_
          | refine syncObj_keeps ?_ | refine keeps_ite_else ?_ (fun _ => ?_) | refine keeps_ite_fst ?_ ?_
    | dsimp only
    | split
    | (rename_i hr; exact keeps_foldlM (by assumption) (fun _ _ hk _ ht => placeTile_keeps hk _ ht) hr)

theorem releaseTile_keeps {s₀ : State} {drop : Bool} {id tile : Nat} {s : State} {p : Space} (hk : State.Keeps s₀ s) :
    State.Keeps s₀ (releaseTile drop id tile s p) := by
  unfold releaseTile
  repeat' first
    | with_reducible
        first
          | assumption | refine freeCopy_keeps ?_ | refine State.modCopy_keeps ?_
          | refine keeps_ite_else ?_ (fun _ => ?_)
    | dsimp only
    | split

theorem tierRelease_keeps {s₀ s : State} {drop : Bool} {id : Nat} {a0 a1 : Word} (hk : State.Keeps s₀ s) : State.Keeps
    s₀ (tierRelease s drop id a0 a1).1 := by
  unfold tierRelease
  repeat' first
    | with_reducible
        first
          | assumption | refine releaseTile_keeps ?_ | refine retryTiles_keeps ?_ | refine syncObj_keeps ?_
          | refine keeps_foldl ?_ (fun _ _ _ => ?_) | refine keeps_foldl_fst ?_ (fun _ _ _ => ?_)
    | dsimp only
    | split

theorem tierOp_keeps {s₀ s : State} {seq cls op id : Nat} {a0 a1 a2 : Word} {config : Bool} (hk : State.Keeps s₀ s) :
    State.Keeps s₀ (tierOp s seq cls op id a0 a1 a2 config).1 := by
  unfold tierOp
  repeat' first
    | with_reducible
        first
          | assumption | refine tierCreate_keeps ?_ | refine tierSeal_keeps ?_ | refine tierFree_keeps ?_
          | refine tierPlace_keeps ?_ | refine tierRelease_keeps ?_ | refine keeps_ite_else ?_ (fun _ => ?_)
          | refine keeps_ite_fst ?_ ?_
    | dsimp only
    | split

theorem tierRun_keeps {s₀ s : State} {seq cls : Nat} {pre : Bool} {op id : Nat} {a0 a1 a2 : Word} {config : Bool} (hk
    : State.Keeps s₀ s) : State.Keeps s₀ (tierRun s seq cls pre op id a0 a1 a2 config).1 := by
  unfold tierRun
  repeat' first
    | with_reducible
        first
          | assumption | refine tierOp_keeps ?_ | refine pickCode_keeps ?_
          | refine keeps_ite_else ?_ (fun _ => ?_) | refine keeps_ite_fst ?_ ?_
    | dsimp only
    | split

theorem tierExec_keeps {s₀ s : State} {seq : Nat} {raw : List Byte} {config : Bool} (hk : State.Keeps s₀ s) :
    State.Keeps s₀ (tierExec s seq raw config).1 := by
  unfold tierExec
  repeat' first
    | with_reducible
        first
          | assumption | refine tierRun_keeps ?_
    | dsimp only
    | split

theorem tierTake_keeps {s₀ s : State} {op : Nat} (hk : State.Keeps s₀ s) : State.Keeps s₀ (tierTake s op) := by
  unfold tierTake
  repeat' first
    | with_reducible
        first
          | assumption | refine unitRead_keeps ?_ | refine tierExec_keeps ?_ | refine tierDone_keeps ?_
          | refine keeps_ite_else ?_ (fun _ => ?_) | refine keeps_ite_fst ?_ ?_
    | refine keeps_mk ?_; with_reducible
        first
          | assumption | refine unitRead_keeps ?_ | refine tierExec_keeps ?_ | refine tierDone_keeps ?_
          | refine keeps_ite_else ?_ (fun _ => ?_) | refine keeps_ite_fst ?_ ?_
    | dsimp only
    | split

theorem execCreate_keeps {s₀ : State} {s : State} (hk : State.Keeps s₀ s) : OutKeeps s₀ (execCreate s) := by
  unfold execCreate
  repeat' first
    | with_reducible
        first
          | assumption | refine outKeeps_next ?_ | refine tierTake_keeps ?_
    | dsimp only
    | split

theorem settlePlaces_keeps {s₀ : State} {s : State} (hk : State.Keeps s₀ s) : State.Keeps s₀ (settlePlaces s) := by
  unfold settlePlaces
  repeat' first
    | with_reducible
        first
          | assumption | refine endBusy_keeps ?_ | refine keeps_ite_else ?_ (fun _ => ?_)
          | refine keeps_foldl ?_ (fun _ _ _ => ?_) | refine keeps_foldl_fst ?_ (fun _ _ _ => ?_)
    | dsimp only
    | split

theorem execDrop_keeps {s₀ : State} {s : State} (hk : State.Keeps s₀ s) : OutKeeps s₀ (execDrop s) := by
  unfold execDrop
  repeat' first
    | with_reducible
        first
          | assumption | refine outKeeps_next ?_ | refine settlePlaces_keeps ?_ | refine tierTake_keeps ?_
    | dsimp only
    | split

theorem execFree_keeps {s₀ : State} {s : State} (hk : State.Keeps s₀ s) : OutKeeps s₀ (execFree s) := by
  unfold execFree
  repeat' first
    | with_reducible
        first
          | assumption | refine outKeeps_next ?_ | refine tierTake_keeps ?_
    | dsimp only
    | split

theorem forgetObj_keeps {s₀ s : State} {o : Obj} (hk : State.Keeps s₀ s) : State.Keeps s₀ (forgetObj s o) := by
  unfold forgetObj
  extract_lets s1 s2
  refine retryTiles_keeps (keeps_foldl (State.store_keeps ?_) (fun _ _ h => pullPool_keeps h))
  exact hk.trans ⟨fun i => ⟨⟨kvDrop_wf _ _ i.1.1 (fun a ha => memDefault_filter s.fills o.base o.size a ha), i.1.2, i.1.3⟩,
    ⟨i.2.1, i.2.2, i.2.3, i.2.4, i.2.5, i.2.6, i.2.7, i.2.8, i.2.9, i.2.10, i.2.11, i.2.12⟩, i.3⟩, rfl, fun _ => .refl _, Nat.le_refl _⟩

theorem execFreeComplete_keeps {s₀ : State} {obj : BitVec 16} {s : State} (hk : State.Keeps s₀ s) : OutKeeps s₀
    (execFreeComplete obj s) := by
  unfold execFreeComplete
  repeat' first
    | with_reducible
        first
          | assumption | refine outKeeps_next ?_ | refine forgetObj_keeps ?_ | refine endBusy_keeps ?_
          | refine keeps_ite_else ?_ (fun _ => ?_)
    | dsimp only
    | split

theorem scrubFault_keeps {s₀ s : State} {f : MediaFault} (hk : State.Keeps s₀ s) : State.Keeps s₀ (scrubFault s f) :=
    by
  unfold scrubFault
  repeat' first
    | with_reducible
        first
          | assumption | refine meetFault_keeps ?_ | refine releaseCopy_keeps ?_
          | refine keeps_ite_else ?_ (fun _ => ?_)
    | dsimp only
    | split

theorem execPatrolScrub_keeps {s₀ : State} {s : State} (hk : State.Keeps s₀ s) : OutKeeps s₀ (execPatrolScrub s) := by
  unfold execPatrolScrub
  repeat' first
    | with_reducible
        first
          | assumption | refine outKeeps_next ?_ | refine scrubFault_keeps ?_ | refine keeps_ite_else ?_ (fun _ => ?_)
          | refine keeps_foldl ?_ (fun _ _ _ => ?_) | refine keeps_foldl_fst ?_ (fun _ _ _ => ?_)
    | dsimp only
    | split

theorem execPlace_keeps {s₀ : State} {s : State} (hk : State.Keeps s₀ s) : OutKeeps s₀ (execPlace s) := by
  unfold execPlace
  repeat' first
    | with_reducible
        first
          | assumption | refine outKeeps_next ?_ | refine tierTake_keeps ?_
    | dsimp only
    | split

theorem execPromoteCopy_keeps {s₀ : State} {obj : BitVec 16} {tile : Nat} {s : State} (hk : State.Keeps s₀ s) :
    OutKeeps s₀ (execPromoteCopy obj tile s) := by
  unfold execPromoteCopy
  repeat' first
    | with_reducible
        first
          | assumption | refine outKeeps_next ?_ | refine takeAny_keeps ?_ _ (by assumption) | refine sticky_keeps ?_
          | refine copyTile_keeps ?_ | refine addCopy_keeps ?_ | refine keeps_ite_else ?_ (fun _ => ?_)
    | refine keeps_mk ?_; with_reducible
        first
          | assumption | refine outKeeps_next ?_ | refine takeAny_keeps ?_ _ (by assumption) | refine sticky_keeps ?_
          | refine copyTile_keeps ?_ | refine addCopy_keeps ?_ | refine keeps_ite_else ?_ (fun _ => ?_)
    | dsimp only
    | split

theorem shrinkPool_keeps {s₀ : State} {p : Space} {x0 : Nat} {x1 : State} (hk : State.Keeps s₀ x1) : State.Keeps s₀
    (shrinkPool p x0 x1) := by
  induction x0 generalizing x1
  · unfold shrinkPool
    repeat' first
      | with_reducible
          first
            | assumption | refine dropCopy_keeps ?_ | refine keeps_ite_else ?_ (fun _ => ?_)
      | dsimp only
      | split
  · rename_i ih
    unfold shrinkPool
    repeat' first
      | with_reducible
          first
            | assumption | refine ih ?_ | refine dropCopy_keeps ?_ | refine keeps_ite_else ?_ (fun _ => ?_)
      | dsimp only
      | split

theorem shedQuota_keeps {s₀ : State} {d : Nat} {p : Space} {x0 : Nat} {x1 : State} (hk : State.Keeps s₀ x1) :
    State.Keeps s₀ (shedQuota d p x0 x1) := by
  induction x0 generalizing x1
  · unfold shedQuota
    repeat' first
      | with_reducible
          first
            | assumption | refine State.modCopy_keeps ?_ | refine keeps_ite_else ?_ (fun _ => ?_)
      | dsimp only
      | split
  · rename_i ih
    unfold shedQuota
    repeat' first
      | with_reducible
          first
            | assumption | refine ih ?_ | refine State.modCopy_keeps ?_ | refine keeps_ite_else ?_ (fun _ => ?_)
      | dsimp only
      | split

theorem writeQuota_keeps {s₀ s : State} {d : Nat} {v : Word} (hk : State.Keeps s₀ s) : State.Keeps s₀ (writeQuota s d
    v) := by
  unfold writeQuota
  repeat' first
    | with_reducible
        first
          | assumption | refine sticky_keeps ?_ | refine State.setReg_keeps ?_ | refine retryTiles_keeps ?_
          | refine shrinkPool_keeps ?_ | refine pullPool_keeps ?_ | refine shedQuota_keeps ?_
          | refine keeps_ite_else ?_ (fun _ => ?_) | refine keeps_foldl ?_ (fun _ _ _ => ?_)
          | refine keeps_foldl_fst ?_ (fun _ _ _ => ?_)
    | dsimp only
    | split

theorem execQuotaWrite_keeps {s₀ : State} {dom : Fin 16} {value : Word} {s : State} (hk : State.Keeps s₀ s) : OutKeeps
    s₀ (execQuotaWrite dom value s) := by
  unfold execQuotaWrite
  repeat' first
    | with_reducible
        first
          | assumption | refine outKeeps_next ?_ | refine writeQuota_keeps ?_
    | dsimp only
    | split

theorem execSeal_keeps {s₀ : State} {s : State} (hk : State.Keeps s₀ s) : OutKeeps s₀ (execSeal s) := by
  unfold execSeal
  repeat' first
    | with_reducible
        first
          | assumption | refine outKeeps_next ?_ | refine tierTake_keeps ?_
    | dsimp only
    | split

theorem execSealFlushComplete_keeps {s₀ : State} {obj : BitVec 16} {s : State} (hk : State.Keeps s₀ s) : OutKeeps s₀
    (execSealFlushComplete obj s) := by
  unfold execSealFlushComplete
  repeat' first
    | with_reducible
        first
          | assumption | refine outKeeps_next ?_ | refine sealEnd_keeps ?_ | refine programAny_keeps ?_
          | refine endBusy_keeps ?_ | refine keeps_ite_else ?_ (fun _ => ?_) | refine keeps_ite_fst ?_ ?_
    | dsimp only
    | split

theorem tierStart_keeps {s₀ : State} {s : State} (hk : State.Keeps s₀ s) : State.Keeps s₀ (tierStart s) := by
  unfold tierStart
  repeat' first
    | with_reducible
        first
          | assumption | refine unitRead_keeps ?_ | refine State.fillRange_keeps ?_ | refine State.store_keeps ?_
          | refine syncObj_keeps ?_ | refine keeps_ite_else ?_ (fun _ => ?_) | refine keeps_ite_fst ?_ ?_
          | refine keeps_foldl ?_ (fun _ _ _ => ?_) | refine keeps_foldl_fst ?_ (fun _ _ _ => ?_)
    | refine keeps_mk ?_; with_reducible
        first
          | assumption | refine unitRead_keeps ?_ | refine State.fillRange_keeps ?_ | refine State.store_keeps ?_
          | refine syncObj_keeps ?_ | refine keeps_ite_else ?_ (fun _ => ?_) | refine keeps_ite_fst ?_ ?_
          | refine keeps_foldl ?_ (fun _ _ _ => ?_) | refine keeps_foldl_fst ?_ (fun _ _ _ => ?_)
    | dsimp only
    | split

theorem writeTirCtl_keeps {s₀ s : State} {v : Word} (hk : State.Keeps s₀ s) : State.Keeps s₀ (writeTirCtl s v) := by
  unfold writeTirCtl
  repeat' first
    | with_reducible
        first
          | assumption | refine State.setFld_keeps ?_ | refine State.setBit_keeps ?_ | refine tierStart_keeps ?_
          | refine sticky_keeps ?_ | refine keeps_ite_else ?_ (fun _ => ?_)
    | dsimp only
    | split

theorem execTierEnable_keeps {s₀ : State} {s : State} (hk : State.Keeps s₀ s) : OutKeeps s₀ (execTierEnable s) := by
  unfold execTierEnable
  repeat' first
    | with_reducible
        first
          | assumption | refine outKeeps_next ?_ | refine writeTirCtl_keeps ?_
    | dsimp only
    | split

theorem passC0_keeps {s₀ s : State} {c : TileCopy} (hk : State.Keeps s₀ s) : State.Keeps s₀ (passC0 s c) := by
  unfold passC0
  repeat' first
    | with_reducible
        first
          | assumption | refine State.modCopy_keeps ?_ | refine keeps_foldl ?_ (fun _ _ _ => ?_)
          | refine keeps_foldl_fst ?_ (fun _ _ _ => ?_)
    | dsimp only
    | split

theorem execTileCopyValid_keeps {s₀ : State} {obj : BitVec 16} {tile : Nat} {tier : BitVec 2} {cluster : Fin 8} {s :
    State} (hk : State.Keeps s₀ s) : OutKeeps s₀ (execTileCopyValid obj tile tier cluster s) := by
  unfold execTileCopyValid
  repeat' first
    | with_reducible
        first
          | assumption | refine outKeeps_next ?_ | refine settlePlaces_keeps ?_ | refine copyTile_keeps ?_
          | refine passC0_keeps ?_ | refine keeps_ite_else ?_ (fun _ => ?_)
    | dsimp only
    | split

theorem execUnpin_keeps {s₀ : State} {s : State} (hk : State.Keeps s₀ s) : OutKeeps s₀ (execUnpin s) := by
  unfold execUnpin
  repeat' first
    | with_reducible
        first
          | assumption | refine outKeeps_next ?_ | refine tierTake_keeps ?_
    | dsimp only
    | split

theorem mediaArrives_keeps {s₀ : State} {s : State} (hk : State.Keeps s₀ s) : State.Keeps s₀ (mediaArrives s) := by
  unfold mediaArrives
  repeat' first
    | with_reducible
        first
          | assumption | refine State.bumpFree_keeps ?_ | refine keeps_ite_else ?_ (fun _ => ?_)
    | refine keeps_mk ?_; with_reducible
        first
          | assumption | refine State.bumpFree_keeps ?_ | refine keeps_ite_else ?_ (fun _ => ?_)
    | dsimp only
    | split

end Sys2Proof.Machine
end

