-- ==== Sys2Proof/Laws/KeepsUnits.lean ====
section
/-! SUPPORT. What the tensor units, Bramble, vision, the solver, the sensors and fusion keep of a state: one lemma
for each function, cited by those of the functions that call it. -/

set_option Elab.async false
set_option linter.unusedTactic false
set_option linter.unreachableTactic false

namespace Sys2Proof.Machine

/-! ### Machine/Cluster.lean -/

theorem State.clearProg_keeps {s₀ s : State} {c : Nat} (hk : State.Keeps s₀ s) : State.Keeps s₀ (State.clearProg s c)
    := by
  unfold State.clearProg
  repeat' first
    | with_reducible
        first
          | assumption | refine State.modClu_keeps ?_
    | dsimp only
    | split

theorem State.setProg_keeps {s₀ s : State} {c : Nat} {p : Prog} (hk : State.Keeps s₀ s) : State.Keeps s₀
    (State.setProg s c p) := by
  unfold State.setProg
  repeat' first
    | with_reducible
        first
          | assumption | refine State.modClu_keeps ?_
    | dsimp only
    | split

theorem countProg_keeps {s₀ s : State} {c status : Nat} (hk : State.Keeps s₀ s) : State.Keeps s₀ (countProg s c
    status) := by
  unfold countProg
  repeat' first
    | with_reducible
        first
          | assumption | refine State.wrapFld_keeps ?_ | refine State.satFld_keeps ?_ | refine sticky_keeps ?_
          | refine keeps_ite_else ?_ (fun _ => ?_)
    | dsimp only
    | split

theorem endProg_keeps {s₀ s : State} {c : Nat} {p : Prog} {status mstatus reason layer : Nat} (hk : State.Keeps s₀ s)
    : State.Keeps s₀ (endProg s c p status mstatus reason layer) := by
  unfold endProg
  repeat' first
    | with_reducible
        first
          | assumption | refine releaseHeld_keeps ?_ | refine unitPut_keeps ?_ | refine countProg_keeps ?_
          | refine obsEnd_keeps ?_ | refine postChecks_keeps ?_ | refine retryTiles_keeps ?_ | refine bumpTo_keeps ?_
          | refine keeps_ite_else ?_ (fun _ => ?_) | refine keeps_ite_fst ?_ ?_
          | refine keeps_foldl ?_ (fun _ _ _ => ?_) | refine keeps_foldl_fst ?_ (fun _ _ _ => ?_)
    | dsimp only
    | split

theorem abortProg_keeps {s₀ s : State} {c : Nat} {p : Prog} (hk : State.Keeps s₀ s) : State.Keeps s₀ (abortProg s c p)
    := by
  unfold abortProg
  repeat' first
    | with_reducible
        first
          | assumption | refine endProg_keeps ?_ | refine State.clearProg_keeps ?_
    | dsimp only
    | split

theorem askWait_keeps {s₀ s : State} {c cls key : Nat} {a : Word} (hk : State.Keeps s₀ s) : State.Keeps s₀ (askWait s
    c cls key a) := by
  unfold askWait
  repeat' first
    | with_reducible
        first
          | assumption | refine sendOp_keeps ?_
    | dsimp only
    | split

theorem beginLayer_keeps {s₀ s : State} {c : Nat} {p : Prog} (hk : State.Keeps s₀ s) : State.Keeps s₀ (beginLayer s c
    p) := by
  unfold beginLayer
  repeat' first
    | with_reducible
        first
          | assumption | refine requestTiles_keeps ?_ | refine State.setProg_keeps ?_
    | dsimp only
    | split

theorem readDescs_keeps {s₀ : State} {job : Word} {cls c x0 x1 : Nat} {x2 : State} (hk : State.Keeps s₀ x2) :
    State.Keeps s₀ (readDescs job cls c x0 x1 x2).1 := by
  induction x0 generalizing x1 x2
  · unfold readDescs
    repeat' first
      | with_reducible
          first
            | assumption | refine unitRead_keeps ?_ | refine keeps_ite_else ?_ (fun _ => ?_)
            | refine keeps_ite_fst ?_ ?_
      | dsimp only
      | split
  · rename_i ih
    unfold readDescs
    repeat' first
      | with_reducible
          first
            | assumption | refine ih ?_ | refine unitRead_keeps ?_ | refine keeps_ite_else ?_ (fun _ => ?_)
            | refine keeps_ite_fst ?_ ?_
      | dsimp only
      | split

theorem cancelQueued_keeps {s₀ s : State} {c : Nat} {run : Run} (hk : State.Keeps s₀ s) : State.Keeps s₀ (cancelQueued
    s c run) := by
  unfold cancelQueued
  repeat' first
    | with_reducible
        first
          | assumption | refine readDescs_keeps ?_ | refine endProg_keeps ?_
    | dsimp only
    | split

theorem readPiece_keeps {s₀ : State} {cls c : Nat} {old : Snap} {r : Reading} {a : Word} {n : Nat}
    (hk : State.Keeps s₀ r.st) : State.Keeps s₀ (readPiece cls c old r a n).st := by
  unfold readPiece
  extract_lets la st t m
  split
  · exact hk
  · exact mixed_keeps (readBytes_keeps hk)

theorem keeps_foldl_reading {s₀ : State} {α : Type} {f : Reading → α → Reading} {p : Reading} {l : List α}
    (h : State.Keeps s₀ p.st) (hf : ∀ p x, State.Keeps s₀ p.st → State.Keeps s₀ (f p x).st) :
    State.Keeps s₀ (l.foldl f p).st := by
  induction l generalizing p with
  | nil => exact h
  | cons x l ih => exact ih (hf p x h)

theorem readPart_keeps {s₀ : State} {cls c : Nat} {old : Snap} {need : Nat → Bool} {r : Reading} {a : Word} {n : Nat}
    (hk : State.Keeps s₀ r.st) : State.Keeps s₀ (readPart cls c old need r a n).st := by
  unfold readPart
  extract_lets bs
  split
  · exact readPiece_keeps hk
  · refine keeps_foldl_reading hk (fun p x h => ?_)
    extract_lets k
    split
    · exact readPiece_keeps h
    · exact h

theorem readOperand_keeps {s₀ s : State} {a : Word} {len cls c : Nat} {old : Snap} {need : Nat → Nat → Bool}
    (hk : State.Keeps s₀ s) : State.Keeps s₀ (readOperand s a len cls c old need).1 := by
  unfold readOperand
  exact keeps_foldl_reading (p := ⟨s, [], []⟩) hk (fun _ _ h => readPart_keeps h)

theorem readOperands_keeps {s₀ s : State} {c cls : Nat} {old : Snap} {l : Layer} (hk : State.Keeps s₀ s) : State.Keeps
    s₀ (readOperands s c cls old l).1 := by
  unfold readOperands
  repeat' first
    | with_reducible
        first
          | assumption | refine readOperand_keeps ?_ | refine keeps_ite_else ?_ (fun _ => ?_)
          | refine keeps_ite_fst ?_ ?_
    | dsimp only
    | split

theorem freeTiles_keeps {s₀ s : State} {ts : List Nat} (hk : State.Keeps s₀ s) : State.Keeps s₀ (freeTiles s ts).1 :=
    by
  unfold freeTiles
  repeat' first
    | with_reducible
        first
          | assumption | refine State.bumpFree_keeps ?_ | refine keeps_ite_else ?_ (fun _ => ?_)
          | refine keeps_ite_fst ?_ ?_ | refine keeps_foldl ?_ (fun _ _ _ => ?_)
          | refine keeps_foldl_fst ?_ (fun _ _ _ => ?_)
    | dsimp only
    | split

theorem writeTiles_keeps {s₀ s : State} {l : Layer} {ts : List OutTile} (hk : State.Keeps s₀ s) : State.Keeps s₀
    (writeTiles s l ts).1 := by
  unfold writeTiles
  repeat' first
    | with_reducible
        first
          | assumption | refine unitWrite_keeps ?_ | refine keeps_ite_else ?_ (fun _ => ?_)
          | refine keeps_ite_fst ?_ ?_ | refine keeps_foldl ?_ (fun _ _ _ => ?_)
          | refine keeps_foldl_fst ?_ (fun _ _ _ => ?_)
    | dsimp only
    | split

theorem faultLayer_keeps {s₀ s : State} {c : Nat} {p : Prog} {l : Layer} {o : Operands} {good : List Nat} {status
    mstatus : Nat} (hk : State.Keeps s₀ s) : State.Keeps s₀ (faultLayer s c p l o good status mstatus) := by
  unfold faultLayer
  repeat' first
    | with_reducible
        first
          | assumption | refine freeTiles_keeps ?_ | refine writeTiles_keeps ?_ | refine bumpTo_keeps ?_
          | refine endProg_keeps ?_ | refine State.clearProg_keeps ?_
    | dsimp only
    | split

theorem sampleTiles_keeps {s₀ s : State} {c : Nat} {p : Prog} {l : Layer} {ts : List OutTile} (hk : State.Keeps s₀ s)
    : State.Keeps s₀ (sampleTiles s c p l ts).1 := by
  unfold sampleTiles
  repeat' first
    | with_reducible
        first
          | assumption | refine sampleResult_keeps ?_ | refine keeps_foldl ?_ (fun _ _ _ => ?_)
          | refine keeps_foldl_fst ?_ (fun _ _ _ => ?_)
    | dsimp only
    | split

theorem lateWeights_keeps {s₀ s : State} {c : Nat} {p : Prog} (hk : State.Keeps s₀ s) : State.Keeps s₀ (lateWeights s
    c p) := by
  unfold lateWeights
  repeat' first
    | with_reducible
        first
          | assumption | refine State.setProg_keeps ?_ | refine stallOf_keeps ?_
          | refine keeps_ite_else ?_ (fun _ => ?_)
    | dsimp only
    | split

theorem finishLayer_keeps {s₀ s : State} {c : Nat} {p : Prog} {l : Layer} {ts : List OutTile} (hk : State.Keeps s₀ s)
    : State.Keeps s₀ (finishLayer s c p l ts) := by
  unfold finishLayer
  repeat' first
    | with_reducible
        first
          | assumption | refine unitPut_keeps ?_ | refine obsEvent_keeps ?_ | refine journal_keeps ?_
          | refine sampleTiles_keeps ?_ | refine bumpTo_keeps ?_ | refine endProg_keeps ?_
          | refine State.clearProg_keeps ?_ | refine releaseHeld_keeps ?_ | refine requestTiles_keeps ?_
          | refine State.setProg_keeps ?_ | refine lateWeights_keeps ?_ | refine retryTiles_keeps ?_
          | refine keeps_ite_else ?_ (fun _ => ?_) | refine keeps_ite_fst ?_ ?_
    | dsimp only
    | split

theorem runLayer_keeps {s₀ s : State} {c : Nat} {p : Prog} (hk : State.Keeps s₀ s) : State.Keeps s₀ (runLayer s c p)
    := by
  unfold runLayer
  repeat' first
    | with_reducible
        first
          | assumption | refine readOperands_keeps ?_ | refine faultLayer_keeps ?_ | refine State.bumpFree_keeps ?_
          | refine writeTiles_keeps ?_ | refine unitWrite_keeps ?_ | refine finishLayer_keeps ?_
          | refine keeps_ite_else ?_ (fun _ => ?_) | refine keeps_ite_fst ?_ ?_
    | dsimp only
    | split

theorem execLayerEnd_keeps {s₀ : State} {cluster : Fin 8} {s : State} (hk : State.Keeps s₀ s) : OutKeeps s₀
    (execLayerEnd cluster s) := by
  unfold execLayerEnd
  repeat' first
    | with_reducible
        first
          | assumption | refine outKeeps_next ?_ | refine abortProg_keeps ?_ | refine chargeDomain_keeps ?_
          | refine runLayer_keeps ?_ | refine count_keeps ?_ | refine State.bumpFree_keeps ?_
          | refine keeps_ite_else ?_ (fun _ => ?_)
    | dsimp only
    | split

theorem waitsRead_keeps {s₀ s : State} {c : Nat} {p : Prog} (hk : State.Keeps s₀ s) : State.Keeps s₀ (waitsRead s c
    p).1 := by
  unfold waitsRead
  repeat' first
    | with_reducible
        first
          | assumption | refine State.setProg_keeps ?_ | refine askWait_keeps ?_
          | refine keeps_foldl ?_ (fun _ _ _ => ?_) | refine keeps_foldl_fst ?_ (fun _ _ _ => ?_)
    | refine keeps_mk ?_; with_reducible
        first
          | assumption | refine State.setProg_keeps ?_ | refine askWait_keeps ?_
          | refine keeps_foldl ?_ (fun _ _ _ => ?_) | refine keeps_foldl_fst ?_ (fun _ _ _ => ?_)
    | dsimp only
    | split

theorem pollWait_keeps {s₀ s : State} {c : Nat} {p : Prog} {base : WaitRead} (hk : State.Keeps s₀ s) : State.Keeps s₀
    (pollWait s c p base).1 := by
  unfold pollWait
  repeat' first
    | with_reducible
        first
          | assumption | refine askWait_keeps ?_ | refine State.setProg_keeps ?_
          | refine keeps_ite_else ?_ (fun _ => ?_) | refine keeps_ite_fst ?_ ?_
    | refine keeps_mk ?_; with_reducible
        first
          | assumption | refine askWait_keeps ?_ | refine State.setProg_keeps ?_
          | refine keeps_ite_else ?_ (fun _ => ?_) | refine keeps_ite_fst ?_ ?_
    | dsimp only
    | split

theorem layerWait_keeps {s₀ s : State} {c : Nat} {p : Prog} (hk : State.Keeps s₀ s) : State.Keeps s₀ (layerWait s c p)
    := by
  unfold layerWait
  repeat' first
    | with_reducible
        first
          | assumption | refine waitsRead_keeps ?_ | refine beginLayer_keeps ?_ | refine pollWait_keeps ?_
          | refine endProg_keeps ?_ | refine State.clearProg_keeps ?_ | refine State.setProg_keeps ?_
          | refine keeps_ite_else ?_ (fun _ => ?_) | refine keeps_ite_fst ?_ ?_
    | dsimp only
    | split

theorem execLayerStart_keeps {s₀ : State} {cluster : Fin 8} {s : State} (hk : State.Keeps s₀ s) : OutKeeps s₀
    (execLayerStart cluster s) := by
  unfold execLayerStart
  repeat' first
    | with_reducible
        first
          | assumption | refine outKeeps_next ?_ | refine abortProg_keeps ?_ | refine requestTiles_keeps ?_
          | refine lateWeights_keeps ?_ | refine layerWait_keeps ?_ | refine keeps_ite_else ?_ (fun _ => ?_)
          | refine keeps_ite_fst ?_ ?_
    | dsimp only
    | split

theorem execProgramCancel_keeps {s₀ : State} {cluster : Fin 8} {s : State} (hk : State.Keeps s₀ s) : OutKeeps s₀
    (execProgramCancel cluster s) := by
  unfold execProgramCancel
  repeat' first
    | with_reducible
        first
          | assumption | refine outKeeps_next ?_ | refine abortProg_keeps ?_ | refine State.modClu_keeps ?_
          | refine endProg_keeps ?_ | refine cancelQueued_keeps ?_ | refine keeps_ite_else ?_ (fun _ => ?_)
          | refine keeps_foldl ?_ (fun _ _ _ => ?_) | refine keeps_foldl_fst ?_ (fun _ _ _ => ?_)
    | dsimp only
    | split

theorem execProgramLaunch_keeps {s₀ : State} {seq : Fin 16} {node : Nat} {s : State} (hk : State.Keeps s₀ s) :
    OutKeeps s₀ (execProgramLaunch seq node s) := by
  unfold execProgramLaunch
  repeat' first
    | with_reducible
        first
          | assumption | refine outKeeps_next ?_ | refine unitRead_keeps ?_ | refine reportFull_keeps ?_
          | refine takeLaunch_keeps ?_ _ (by assumption) | refine State.modClu_keeps ?_
          | refine keeps_ite_else ?_ (fun _ => ?_) | refine keeps_ite_fst ?_ ?_
    | dsimp only
    | split

theorem takeProg_keeps {s₀ s : State} {c : Nat} {run : Run} (hk : State.Keeps s₀ s) : State.Keeps s₀ (takeProg s c
    run) := by
  unfold takeProg
  repeat' first
    | with_reducible
        first
          | assumption | refine obsStart_keeps ?_ | refine readDescs_keeps ?_ | refine endProg_keeps ?_
          | refine requestTiles_keeps ?_ | refine State.modClu_keeps ?_
    | dsimp only
    | split

theorem nextProg_keeps {s₀ s : State} {c : Nat} (hk : State.Keeps s₀ s) : State.Keeps s₀ (nextProg s c) := by
  unfold nextProg
  repeat' first
    | with_reducible
        first
          | assumption | refine takeProg_keeps ?_ | refine State.modClu_keeps ?_
          | refine keeps_ite_else ?_ (fun _ => ?_)
    | dsimp only
    | split

theorem execProgramTake_keeps {s₀ : State} {cluster : Fin 8} {s : State} (hk : State.Keeps s₀ s) : OutKeeps s₀
    (execProgramTake cluster s) := by
  unfold execProgramTake
  repeat' first
    | with_reducible
        first
          | assumption | refine outKeeps_next ?_ | refine nextProg_keeps ?_ | refine State.modClu_keeps ?_
          | refine keeps_ite_else ?_ (fun _ => ?_)
    | dsimp only
    | split

/-! ### Machine/Bramble.lean -/

theorem State.modIdx_keeps {s₀ s : State} {x : Nat} {f : Index → Index} (hk : State.Keeps s₀ s) : State.Keeps s₀
    (State.modIdx s x f) := by
  unfold State.modIdx
  repeat' first
    | with_reducible
        first
          | assumption | refine keeps_ite_else ?_ (fun _ => ?_)
    | refine keeps_mk ?_; with_reducible
        first
          | assumption | refine keeps_ite_else ?_ (fun _ => ?_)
    | dsimp only
    | split

theorem State.setQBatch_keeps {s₀ s : State} {b : QBatch} (hk : State.Keeps s₀ s) : State.Keeps s₀ (State.setQBatch s
    b) := by
  unfold State.setQBatch
  repeat' first
    | with_reducible
        first
          | assumption | refine keeps_ite_else ?_ (fun _ => ?_)
    | refine keeps_mk ?_; with_reducible
        first
          | assumption | refine keeps_ite_else ?_ (fun _ => ?_)
    | dsimp only
    | split

theorem State.setQuery_keeps {s₀ s : State} {b : QBatch} {j : Nat} {q : Query} (hk : State.Keeps s₀ s) : State.Keeps
    s₀ (State.setQuery s b j q) := by
  unfold State.setQuery
  repeat' first
    | with_reducible
        first
          | assumption | refine State.setQBatch_keeps ?_
    | dsimp only
    | split

theorem readQdesc_keeps {s₀ s : State} {cls : Nat} {raw : List Byte} (hk : State.Keeps s₀ s) : State.Keeps s₀
    (readQdesc s cls raw).1 := by
  unfold readQdesc
  repeat' first
    | with_reducible
        first
          | assumption | refine unitRead_keeps ?_ | refine keeps_ite_else ?_ (fun _ => ?_)
          | refine keeps_ite_fst ?_ ?_
    | dsimp only
    | split

theorem admitQuery_keeps {s₀ s : State} {cls : Nat} {a : Word} (hk : State.Keeps s₀ s) : State.Keeps s₀ (admitQuery s
    cls a).1 := by
  unfold admitQuery
  repeat' first
    | with_reducible
        first
          | assumption | refine unitRead_keeps ?_ | refine readQdesc_keeps ?_ | refine pickCode_keeps ?_
          | refine State.modIdx_keeps ?_ | refine keeps_ite_else ?_ (fun _ => ?_) | refine keeps_ite_fst ?_ ?_
    | dsimp only
    | split

theorem admittedRange_keeps {s₀ s : State} {ring : Word} {number cls : Nat} (hk : State.Keeps s₀ s) : State.Keeps s₀
    (admittedRange s ring number cls).1 := by
  unfold admittedRange
  repeat' first
    | with_reducible
        first
          | assumption | refine unitRead_keeps ?_ | refine State.bumpFree_keeps ?_
          | refine keeps_ite_else ?_ (fun _ => ?_) | refine keeps_ite_fst ?_ ?_
    | dsimp only
    | split

theorem areaWrite_keeps {s₀ s : State} {la : Nat} {bs : List Byte} (hk : State.Keeps s₀ s) : State.Keeps s₀ (areaWrite
    s la bs) := by
  unfold areaWrite
  repeat' first
    | with_reducible
        first
          | assumption | refine settle_keeps ?_ | refine writeBytes_keeps ?_
    | dsimp only
    | split

theorem askPart_keeps {s₀ s : State} {b : QBatch} {q : Query} {f : Filter} {node : Nat} {mine : List (Nat × Nat)} (hk
    : State.Keeps s₀ s) : State.Keeps s₀ (askPart s b q f node mine).1 := by
  unfold askPart
  repeat' first
    | with_reducible
        first
          | assumption | refine keeps_ite_else ?_ (fun _ => ?_) | refine keeps_ite_fst ?_ ?_
    | refine keeps_mk ?_; with_reducible
        first
          | assumption | refine keeps_ite_else ?_ (fun _ => ?_) | refine keeps_ite_fst ?_ ?_
    | dsimp only
    | split

theorem askQdesc_keeps {s₀ s : State} {cls batch j : Nat} {q : Query} (hk : State.Keeps s₀ s) : State.Keeps s₀
    (askQdesc s cls batch j q) := by
  unfold askQdesc
  repeat' first
    | with_reducible
        first
          | assumption | refine sendOp_keeps ?_ | refine keeps_ite_else ?_ (fun _ => ?_)
    | refine keeps_mk ?_; with_reducible
        first
          | assumption | refine sendOp_keeps ?_ | refine keeps_ite_else ?_ (fun _ => ?_)
    | dsimp only
    | split

theorem endQBatch_keeps {s₀ s : State} {b : QBatch} {status reason : Nat} (hk : State.Keeps s₀ s) : State.Keeps s₀
    (endQBatch s b status reason) := by
  unfold endQBatch
  repeat' first
    | with_reducible
        first
          | assumption | refine unitPut_keeps ?_ | refine obsEnd_keeps ?_ | refine bumpTo_keeps ?_
          | refine keeps_ite_else ?_ (fun _ => ?_)
    | refine keeps_mk ?_; with_reducible
        first
          | assumption | refine unitPut_keeps ?_ | refine obsEnd_keeps ?_ | refine bumpTo_keeps ?_
          | refine keeps_ite_else ?_ (fun _ => ?_)
    | dsimp only
    | split

theorem checkQBatch_keeps {s₀ s : State} {n : Nat} (hk : State.Keeps s₀ s) : State.Keeps s₀ (checkQBatch s n) := by
  unfold checkQBatch
  repeat' first
    | with_reducible
        first
          | assumption | refine endQBatch_keeps ?_ | refine keeps_ite_else ?_ (fun _ => ?_)
    | dsimp only
    | split

theorem idxResult_keeps {s₀ s : State} {x res : Nat} (hk : State.Keeps s₀ s) : State.Keeps s₀ (idxResult s x res) :=
    by
  unfold idxResult
  repeat' first
    | with_reducible
        first
          | assumption | refine State.setFld_keeps ?_ | refine State.setBit_keeps ?_
          | refine keeps_ite_else ?_ (fun _ => ?_)
    | dsimp only
    | split

theorem setIdxState_keeps {s₀ s : State} {x v : Nat} (hk : State.Keeps s₀ s) : State.Keeps s₀ (setIdxState s x v) :=
    by
  unfold setIdxState
  repeat' first
    | with_reducible
        first
          | assumption | refine State.setFld_keeps ?_
    | dsimp only
    | split

theorem closeCheck_keeps {s₀ s : State} {x : Nat} (hk : State.Keeps s₀ s) : State.Keeps s₀ (closeCheck s x) := by
  unfold closeCheck
  repeat' first
    | with_reducible
        first
          | assumption | refine idxResult_keeps ?_ | refine setIdxState_keeps ?_
          | refine keeps_ite_else ?_ (fun _ => ?_)
    | dsimp only
    | split

theorem closeCmd_keeps {s₀ s : State} {x : Nat} (hk : State.Keeps s₀ s) : State.Keeps s₀ (closeCmd s x) := by
  unfold closeCmd
  repeat' first
    | with_reducible
        first
          | assumption | refine closeCheck_keeps ?_ | refine setIdxState_keeps ?_ | refine idxResult_keeps ?_
          | refine keeps_ite_else ?_ (fun _ => ?_)
    | dsimp only
    | split

theorem placeAll_keeps {s₀ : State} {x0 : List Nat} {x1 : State} {x2 : List (Nat × Nat)} {x3 : List Nat} (hk :
    State.Keeps s₀ x1) : State.Keeps s₀ (placeAll x0 x1 x2 x3).1 := by
  induction x0 generalizing x1 x2 x3
  · unfold placeAll
    repeat' first
      | with_reducible
          first
            | assumption | refine State.bumpFree_keeps ?_
      | dsimp only
      | split
  · rename_i ih
    unfold placeAll
    repeat' first
      | with_reducible
          first
            | assumption | refine ih ?_ | refine State.bumpFree_keeps ?_
      | dsimp only
      | split

theorem writeGen_keeps {s₀ s : State} {g : Gen} {tiles : List Nat} (hk : State.Keeps s₀ s) : State.Keeps s₀ (writeGen
    s g tiles) := by
  unfold writeGen
  repeat' first
    | with_reducible
        first
          | assumption | refine areaWrite_keeps ?_ | refine keeps_foldl ?_ (fun _ _ _ => ?_)
          | refine keeps_foldl_fst ?_ (fun _ _ _ => ?_)
    | dsimp only
    | split

theorem syncHdr_keeps {s₀ : State} {s : State} {x : Nat} (hk : State.Keeps s₀ s) : State.Keeps s₀ (syncHdr s x) := by
  unfold syncHdr
  repeat' first
    | with_reducible
        first
          | assumption | refine State.modIdx_keeps ?_ | refine areaWrite_keeps ?_
          | refine keeps_foldl ?_ (fun _ _ _ => ?_) | refine keeps_foldl_fst ?_ (fun _ _ _ => ?_)
    | dsimp only
    | split

theorem createIndex_keeps {s₀ s : State} {x : Nat} (hk : State.Keeps s₀ s) : State.Keeps s₀ (createIndex s x) := by
  unfold createIndex
  repeat' first
    | with_reducible
        first
          | assumption | refine placeAll_keeps ?_ | refine idxResult_keeps ?_ | refine writeGen_keeps ?_
          | refine areaWrite_keeps ?_ | refine setIdxState_keeps ?_ | refine syncHdr_keeps ?_
    | refine keeps_mk ?_; with_reducible
        first
          | assumption | refine placeAll_keeps ?_ | refine idxResult_keeps ?_ | refine writeGen_keeps ?_
          | refine areaWrite_keeps ?_ | refine setIdxState_keeps ?_ | refine syncHdr_keeps ?_
    | dsimp only
    | split

theorem destroyCmd_keeps {s₀ s : State} {x : Nat} (hk : State.Keeps s₀ s) : State.Keeps s₀ (destroyCmd s x) := by
  unfold destroyCmd
  repeat' first
    | with_reducible
        first
          | assumption | refine idxResult_keeps ?_ | refine setIdxState_keeps ?_
          | refine keeps_ite_else ?_ (fun _ => ?_)
    | refine keeps_mk ?_; with_reducible
        first
          | assumption | refine idxResult_keeps ?_ | refine setIdxState_keeps ?_
          | refine keeps_ite_else ?_ (fun _ => ?_)
    | dsimp only
    | split

theorem writeBrcCtl_keeps {s₀ s : State} {v : Word} (hk : State.Keeps s₀ s) : State.Keeps s₀ (writeBrcCtl s v) := by
  unfold writeBrcCtl
  repeat' first
    | with_reducible
        first
          | assumption | refine State.setBit_keeps ?_ | refine keeps_ite_else ?_ (fun _ => ?_)
    | dsimp only
    | split

theorem execBrambleEnable_keeps {s₀ s : State} (hk : State.Keeps s₀ s) : OutKeeps s₀ (execBrambleEnable s) := by
  unfold execBrambleEnable
  repeat' first
    | with_reducible
        first
          | assumption | refine outKeeps_next ?_ | refine writeBrcCtl_keeps ?_
    | dsimp only
    | split

theorem failChannel_keeps {s₀ s : State} {ch : Nat} (hk : State.Keeps s₀ s) : State.Keeps s₀ (failChannel s ch) := by
  unfold failChannel
  repeat' first
    | with_reducible
        first
          | assumption | refine State.setBit_keeps ?_ | refine raise_keeps ?_ | refine sticky_keeps ?_
          | refine keeps_ite_else ?_ (fun _ => ?_)
    | dsimp only
    | split

theorem execChannelFailed_keeps {s₀ : State} {ch : Fin 16} {s : State} (hk : State.Keeps s₀ s) : OutKeeps s₀
    (execChannelFailed ch s) := by
  unfold execChannelFailed
  repeat' first
    | with_reducible
        first
          | assumption | refine outKeeps_next ?_ | refine failChannel_keeps ?_
    | dsimp only
    | split

theorem execCloseIndex_keeps {s₀ : State} {index : Fin 16} {s : State} (hk : State.Keeps s₀ s) : OutKeeps s₀
    (execCloseIndex index s) := by
  unfold execCloseIndex
  repeat' first
    | with_reducible
        first
          | assumption | refine outKeeps_next ?_ | refine closeCmd_keeps ?_
    | dsimp only
    | split

theorem execDestroyIndex_keeps {s₀ : State} {index : Fin 16} {s : State} (hk : State.Keeps s₀ s) : OutKeeps s₀
    (execDestroyIndex index s) := by
  unfold execDestroyIndex
  repeat' first
    | with_reducible
        first
          | assumption | refine outKeeps_next ?_ | refine destroyCmd_keeps ?_
    | dsimp only
    | split

theorem execDieFailed_keeps {s₀ : State} {ch : Fin 16} {die : Fin 2} {s : State} (hk : State.Keeps s₀ s) : OutKeeps s₀
    (execDieFailed ch die s) := by
  unfold execDieFailed
  repeat' first
    | with_reducible
        first
          | assumption | refine outKeeps_next ?_ | refine State.setBit_keeps ?_ | refine sticky_keeps ?_
          | refine failChannel_keeps ?_ | refine keeps_ite_else ?_ (fun _ => ?_)
    | dsimp only
    | split

theorem freeGens_keeps {s₀ s : State} {x : Nat} (hk : State.Keeps s₀ s) : State.Keeps s₀ (freeGens s x) := by
  have h : ∀ (t : State) (n : Nat), State.Keeps s₀ t → t.freeCtr ≤ n → State.Keeps s₀ { t with freeCtr := n } := by
    intro t n ht hn
    exact ht.trans ⟨fun i => ⟨⟨i.1.1, i.1.2, i.1.3⟩, ⟨i.2.1, i.2.2, i.2.3, i.2.4, i.2.5, i.2.6, i.2.7, i.2.8, i.2.9, i.2.10, i.2.11, i.2.12⟩, i.3⟩, rfl, fun _ => .refl _, hn⟩
  unfold freeGens
  extract_lets t
  exact syncHdr_keeps (h t _ (State.modIdx_keeps hk) (Nat.le_add_right _ _))

theorem unholdGen_keeps {s₀ s : State} {q : Query} (hk : State.Keeps s₀ s) : State.Keeps s₀ (unholdGen s q) := by
  unfold unholdGen
  repeat' first
    | with_reducible
        first
          | assumption | refine State.modIdx_keeps ?_ | refine closeCheck_keeps ?_ | refine freeGens_keeps ?_
          | refine keeps_ite_else ?_ (fun _ => ?_)
    | dsimp only
    | split

theorem finishQuery_keeps {s₀ s : State} {n j : Nat} {q : Query} (hk : State.Keeps s₀ s) : State.Keeps s₀ (finishQuery
    s n j q) := by
  unfold finishQuery
  repeat' first
    | with_reducible
        first
          | assumption | refine unitWrite_keeps ?_ | refine State.wrapFld_keeps ?_ | refine State.satFld_keeps ?_
          | refine State.setQBatch_keeps ?_ | refine checkQBatch_keeps ?_ | refine unholdGen_keeps ?_
          | refine keeps_ite_else ?_ (fun _ => ?_) | refine keeps_ite_fst ?_ ?_
    | dsimp only
    | split

theorem readDirEntry_keeps {s₀ s : State} {cls : Nat} {g : Gen} {key : Nat} (hk : State.Keeps s₀ s) : State.Keeps s₀
    (readDirEntry s cls g key).1 := by
  unfold readDirEntry
  repeat' first
    | with_reducible
        first
          | assumption | refine unitRead_keeps ?_ | refine keeps_ite_else ?_ (fun _ => ?_)
          | refine keeps_ite_fst ?_ ?_
    | dsimp only
    | split

theorem readPage_keeps {s₀ : State} {x cls key first p : Nat} {r : State × List (List Byte) × Nat × List Nat}
    (hk : State.Keeps s₀ r.1) : State.Keeps s₀ (readPage x cls key first r p).1 := by
  have h : ∀ a n, State.Keeps s₀ (readFlash r.1 a n cls).1 := fun a n => readFlash_keeps hk
  unfold readPage
  exact keeps_fst (h _ _)

theorem readBucket_keeps {s₀ s : State} {x cls key first n : Nat} (hk : State.Keeps s₀ s) : State.Keeps s₀ (readBucket
    s x cls key first n).1 := by
  unfold readBucket
  repeat' first
    | with_reducible
        first
          | assumption | refine readPage_keeps ?_ | refine keeps_foldl ?_ (fun _ _ _ => ?_)
          | refine keeps_foldl_fst ?_ (fun _ _ _ => ?_)
    | dsimp only
    | split

theorem probeBucket_keeps {s₀ : State} {x cls : Nat} {g : Gen} {tombs : List SideKey} {r : State × Search} {p : Nat ×
    Nat} (hk : State.Keeps s₀ r.1) : State.Keeps s₀ (probeBucket x cls g tombs r p).1 := by
  unfold probeBucket
  repeat' first
    | with_reducible
        first
          | assumption | refine readDirEntry_keeps ?_ | refine readBucket_keeps ?_
          | refine keeps_ite_else ?_ (fun _ => ?_) | refine keeps_ite_fst ?_ ?_
    | dsimp only
    | split

theorem readSide_keeps {s₀ s : State} {x cls : Nat} {i : Index} {pos : Nat} (hk : State.Keeps s₀ s) : State.Keeps s₀
    (readSide s x cls i pos).1 := by
  unfold readSide
  repeat' first
    | with_reducible
        first
          | assumption | refine unitRead_keeps ?_ | refine keeps_ite_else ?_ (fun _ => ?_)
          | refine keeps_ite_fst ?_ ?_
    | dsimp only
    | split

theorem takeSide_keeps {s₀ : State} {x cls : Nat} {i : Index} {r : State × Search} {e : SideKey} (hk : State.Keeps s₀
    r.1) : State.Keeps s₀ (takeSide x cls i r e).1 := by
  unfold takeSide
  repeat' first
    | with_reducible
        first
          | assumption | refine readSide_keeps ?_
    | dsimp only
    | split

theorem searchLocal_keeps {s₀ s : State} {x cls : Nat} {g : Gen} {w : Nat} {f : Filter} {probes : List (Nat × Nat)}
    (hk : State.Keeps s₀ s) : State.Keeps s₀ (searchLocal s x cls g w f probes).1 := by
  unfold searchLocal
  repeat' first
    | with_reducible
        first
          | assumption | refine probeBucket_keeps ?_ | refine takeSide_keeps ?_
          | refine keeps_ite_else ?_ (fun _ => ?_) | refine keeps_ite_fst ?_ ?_
          | refine keeps_foldl ?_ (fun _ _ _ => ?_) | refine keeps_foldl_fst ?_ (fun _ _ _ => ?_)
    | dsimp only
    | split

theorem runQuery_keeps {s₀ s : State} {b : QBatch} {q : Query} {desc : List Byte} (hk : State.Keeps s₀ s) :
    State.Keeps s₀ (runQuery s b q desc).1 := by
  unfold runQuery
  repeat' first
    | with_reducible
        first
          | assumption | refine searchLocal_keeps ?_ | refine askPart_keeps ?_
          | refine keeps_ite_else ?_ (fun _ => ?_) | refine keeps_ite_fst ?_ ?_
          | refine keeps_foldl ?_ (fun _ _ _ => ?_) | refine keeps_foldl_fst ?_ (fun _ _ _ => ?_)
    | dsimp only
    | split

theorem searchCmd_keeps {s₀ s : State} {batch query : Nat} {fetch : Bool} (hk : State.Keeps s₀ s) : State.Keeps s₀
    (searchCmd s batch query fetch) := by
  unfold searchCmd
  repeat' first
    | with_reducible
        first
          | assumption | refine finishQuery_keeps ?_ | refine runQuery_keeps ?_ | refine chargeDomain_keeps ?_
          | refine State.setQuery_keeps ?_ | refine keeps_ite_else ?_ (fun _ => ?_) | refine keeps_ite_fst ?_ ?_
    | dsimp only
    | split

theorem execFetch_keeps {s₀ : State} {batch query : Nat} {s : State} (hk : State.Keeps s₀ s) : OutKeeps s₀ (execFetch
    batch query s) := by
  unfold execFetch
  repeat' first
    | with_reducible
        first
          | assumption | refine outKeeps_next ?_ | refine searchCmd_keeps ?_
    | dsimp only
    | split

theorem freshPage_keeps {s₀ s : State} {page : Nat} (hk : State.Keeps s₀ s) : State.Keeps s₀ (freshPage s page) := by
  unfold freshPage
  repeat' first
    | with_reducible
        first
          | assumption
    | refine keeps_mk ?_; with_reducible
        first
          | assumption
    | dsimp only
    | split

theorem writePages_keeps {s₀ : State} {x gen : Nat} {s : State} {b : Bucket × List (List Byte)} (hk : State.Keeps s₀
    s) : State.Keeps s₀ (writePages x gen s b) := by
  unfold writePages
  repeat' first
    | with_reducible
        first
          | assumption | refine programFlash_keeps ?_ | refine countTier_keeps ?_ | refine settle_keeps ?_
          | refine State.store_keeps ?_ | refine freshPage_keeps ?_ | refine keeps_foldl ?_ (fun _ _ _ => ?_)
          | refine keeps_foldl_fst ?_ (fun _ _ _ => ?_)
    | dsimp only
    | split

theorem mergeEnd_keeps {s₀ s : State} {x : Nat} {raw : List Byte} {status gen : Nat} {counts : List Nat} (hk :
    State.Keeps s₀ s) : State.Keeps s₀ (mergeEnd s x raw status gen counts) := by
  unfold mergeEnd
  repeat' first
    | with_reducible
        first
          | assumption | refine State.setBit_keeps ?_ | refine unitPut_keeps ?_ | refine closeCheck_keeps ?_
          | refine bumpTo_keeps ?_ | refine keeps_ite_else ?_ (fun _ => ?_)
    | dsimp only
    | split

theorem publish_keeps {s₀ s : State} {x : Nat} {m : Merge} {as : List Nat} (hk : State.Keeps s₀ s) : State.Keeps s₀
    (publish s x m as) := by
  unfold publish
  repeat' first
    | with_reducible
        first
          | assumption | refine writePages_keeps ?_ | refine writeGen_keeps ?_ | refine State.modIdx_keeps ?_
          | refine mergeEnd_keeps ?_ | refine freeGens_keeps ?_ | refine keeps_foldl ?_ (fun _ _ _ => ?_)
          | refine keeps_foldl_fst ?_ (fun _ _ _ => ?_)
    | dsimp only
    | split

theorem execMergePublish_keeps {s₀ : State} {index : Fin 16} {s : State} (hk : State.Keeps s₀ s) : OutKeeps s₀
    (execMergePublish index s) := by
  unfold execMergePublish
  repeat' first
    | with_reducible
        first
          | assumption | refine outKeeps_next ?_ | refine placeAll_keeps ?_ | refine publish_keeps ?_
    | dsimp only
    | split

theorem mergeBegun_keeps {s₀ : State} {x : Nat} {raw : List Byte} {w : State × MergeRes} (hk : State.Keeps s₀ w.1) :
    State.Keeps s₀ (mergeBegun x raw w) := by
  unfold mergeBegun
  repeat' first
    | with_reducible
        first
          | assumption | refine mergeEnd_keeps ?_ | refine State.modIdx_keeps ?_
    | dsimp only
    | split

theorem importOf_keeps {s₀ s : State} {x id : Nat} (hk : State.Keeps s₀ s) : State.Keeps s₀ (importOf s x id).1 := by
  unfold importOf
  repeat' first
    | with_reducible
        first
          | assumption | refine readObjects_keeps ?_ | refine keeps_ite_else ?_ (fun _ => ?_)
          | refine keeps_ite_fst ?_ ?_
    | dsimp only
    | split

theorem sideUpds_keeps {s₀ s : State} {x : Nat} {i : Index} {es : List SideKey} (hk : State.Keeps s₀ s) : State.Keeps
    s₀ (sideUpds s x i es).1 := by
  unfold sideUpds
  repeat' first
    | with_reducible
        first
          | assumption | refine readSide_keeps ?_ | refine keeps_foldl ?_ (fun _ _ _ => ?_)
          | refine keeps_foldl_fst ?_ (fun _ _ _ => ?_)
    | dsimp only
    | split

theorem mergeBucket_keeps {s₀ s : State} {x : Nat} {g : Gen} {hide : List (Nat × Nat)} {ins : List Upd} {key : Nat}
    (hk : State.Keeps s₀ s) : State.Keeps s₀ (mergeBucket s x g hide ins key).1 := by
  unfold mergeBucket
  repeat' first
    | with_reducible
        first
          | assumption | refine readDirEntry_keeps ?_ | refine readBucket_keeps ?_
    | dsimp only
    | split

theorem placePages_keeps {s₀ : State} {x0 : List (Bucket × List (List Byte))} {x1 : State} {x2 : List (Nat × Nat)} {x3
    : List (Bucket × List (List Byte))} (hk : State.Keeps s₀ x1) : State.Keeps s₀ (placePages x0 x1 x2 x3).1 := by
  induction x0 generalizing x1 x2 x3
  · unfold placePages
    repeat' first
      | with_reducible
          first
            | assumption | refine State.bumpFree_keeps ?_ | refine keeps_ite_else ?_ (fun _ => ?_)
            | refine keeps_ite_fst ?_ ?_
      | dsimp only
      | split
  · rename_i ih
    unfold placePages
    repeat' first
      | with_reducible
          first
            | assumption | refine ih ?_ | refine State.bumpFree_keeps ?_ | refine keeps_ite_else ?_ (fun _ => ?_)
            | refine keeps_ite_fst ?_ ?_
      | dsimp only
      | split

theorem mergeWork_keeps {s₀ s : State} {x : Nat} {i : Index} {g : Gen} {raw : List Byte} (hk : State.Keeps s₀ s) :
    State.Keeps s₀ (mergeWork s x i g raw).1 := by
  unfold mergeWork
  repeat' first
    | with_reducible
        first
          | assumption | refine pickCode_keeps ?_ | refine importOf_keeps ?_ | refine sideUpds_keeps ?_
          | refine mergeBucket_keeps ?_ | refine placePages_keeps ?_ | refine State.bumpFree_keeps ?_
          | refine keeps_ite_else ?_ (fun _ => ?_) | refine keeps_ite_fst ?_ ?_
          | refine keeps_foldl ?_ (fun _ _ _ => ?_) | refine keeps_foldl_fst ?_ (fun _ _ _ => ?_)
    | extract_lets
    | split

theorem execMergeStart_keeps {s₀ : State} {index : Fin 16} {s : State} (hk : State.Keeps s₀ s) : OutKeeps s₀
    (execMergeStart index s) := by
  unfold execMergeStart
  repeat' first
    | with_reducible
        first
          | assumption | refine outKeeps_next ?_ | refine State.modIdx_keeps ?_ | refine unitRead_keeps ?_
          | refine mergeEnd_keeps ?_ | refine mergeBegun_keeps ?_ | refine mergeWork_keeps ?_
          | refine keeps_ite_else ?_ (fun _ => ?_) | refine keeps_ite_fst ?_ ?_
    | dsimp only
    | split

theorem openCmd_keeps {s₀ : State} {s : State} {x : Nat} (hk : State.Keeps s₀ s) : State.Keeps s₀ (openCmd s x) := by
  unfold openCmd
  repeat' first
    | with_reducible
        first
          | assumption | refine idxResult_keeps ?_ | refine createIndex_keeps ?_ | refine setIdxState_keeps ?_
          | refine keeps_ite_else ?_ (fun _ => ?_)
    | dsimp only
    | split

theorem execOpenIndex_keeps {s₀ : State} {index : Fin 16} {s : State} (hk : State.Keeps s₀ s) : OutKeeps s₀
    (execOpenIndex index s) := by
  unfold execOpenIndex
  repeat' first
    | with_reducible
        first
          | assumption | refine outKeeps_next ?_ | refine openCmd_keeps ?_
    | dsimp only
    | split

theorem execProgramResume_keeps {s₀ : State} {ch : Fin 16} {die : Fin 2} {s : State} (hk : State.Keeps s₀ s) :
    OutKeeps s₀ (execProgramResume ch die s) := by
  unfold execProgramResume
  repeat' first
    | with_reducible
        first
          | assumption | refine outKeeps_next ?_ | refine State.setBit_keeps ?_
    | refine keeps_mk ?_; with_reducible
        first
          | assumption | refine outKeeps_next ?_ | refine State.setBit_keeps ?_
    | dsimp only
    | split

theorem execQueryAbort_keeps {s₀ : State} {batch query : Nat} {s : State} (hk : State.Keeps s₀ s) : OutKeeps s₀
    (execQueryAbort batch query s) := by
  unfold execQueryAbort
  repeat' first
    | with_reducible
        first
          | assumption | refine outKeeps_next ?_ | refine checkQBatch_keeps ?_ | refine finishQuery_keeps ?_
          | refine keeps_ite_else ?_ (fun _ => ?_)
    | dsimp only
    | split

theorem queryAddrs_keeps {s₀ s : State} {run : Run} {raw : List Byte} (hk : State.Keeps s₀ s) : State.Keeps s₀
    (queryAddrs s run raw).1 := by
  unfold queryAddrs
  repeat' first
    | with_reducible
        first
          | assumption | refine admittedRange_keeps ?_ | refine keeps_ite_else ?_ (fun _ => ?_)
          | refine keeps_ite_fst ?_ ?_
    | dsimp only
    | split

theorem execQueryBatchLaunch_keeps {s₀ : State} {seq : Fin 16} {node : Nat} {s : State} (hk : State.Keeps s₀ s) :
    OutKeeps s₀ (execQueryBatchLaunch seq node s) := by
  unfold execQueryBatchLaunch
  repeat' first
    | with_reducible
        first
          | assumption | refine outKeeps_next ?_ | refine takeLaunch_keeps ?_ _ (by assumption)
          | refine obsStart_keeps ?_ | refine unitRead_keeps ?_ | refine pickCode_keeps ?_
          | refine queryAddrs_keeps ?_ | refine admitQuery_keeps ?_ | refine State.setQBatch_keeps ?_
          | refine finishQuery_keeps ?_ | refine askQdesc_keeps ?_ | refine checkQBatch_keeps ?_
          | refine endQBatch_keeps ?_ | refine keeps_ite_else ?_ (fun _ => ?_) | refine keeps_ite_fst ?_ ?_
          | refine keeps_foldl ?_ (fun _ _ _ => ?_) | refine keeps_foldl_fst ?_ (fun _ _ _ => ?_)
    | refine keeps_mk ?_; with_reducible
        first
          | assumption | refine outKeeps_next ?_ | refine takeLaunch_keeps ?_ _ (by assumption)
          | refine obsStart_keeps ?_ | refine unitRead_keeps ?_ | refine pickCode_keeps ?_
          | refine queryAddrs_keeps ?_ | refine admitQuery_keeps ?_ | refine State.setQBatch_keeps ?_
          | refine finishQuery_keeps ?_ | refine askQdesc_keeps ?_ | refine checkQBatch_keeps ?_
          | refine endQBatch_keeps ?_ | refine keeps_ite_else ?_ (fun _ => ?_) | refine keeps_ite_fst ?_ ?_
          | refine keeps_foldl ?_ (fun _ _ _ => ?_) | refine keeps_foldl_fst ?_ (fun _ _ _ => ?_)
    | extract_lets
    | split

theorem execQueryComplete_keeps {s₀ : State} {batch query : Nat} {s : State} (hk : State.Keeps s₀ s) : OutKeeps s₀
    (execQueryComplete batch query s) := by
  unfold execQueryComplete
  repeat' first
    | with_reducible
        first
          | assumption | refine outKeeps_next ?_ | refine finishQuery_keeps ?_
          | refine keeps_ite_else ?_ (fun _ => ?_)
    | dsimp only
    | split

theorem execSearch_keeps {s₀ : State} {batch query : Nat} {s : State} (hk : State.Keeps s₀ s) : OutKeeps s₀
    (execSearch batch query s) := by
  unfold execSearch
  repeat' first
    | with_reducible
        first
          | assumption | refine outKeeps_next ?_ | refine searchCmd_keeps ?_
    | dsimp only
    | split

theorem execShardPart_keeps {s₀ : State} {req : ShardRequest} {s : State} (hk : State.Keeps s₀ s) : OutKeeps s₀
    (execShardPart req s) := by
  unfold execShardPart
  repeat' first
    | with_reducible
        first
          | assumption | refine outKeeps_next ?_ | refine searchLocal_keeps ?_ | refine State.bumpFree_keeps ?_
          | refine keeps_ite_else ?_ (fun _ => ?_) | refine keeps_ite_fst ?_ ?_
    | refine keeps_mk ?_; with_reducible
        first
          | assumption | refine outKeeps_next ?_ | refine searchLocal_keeps ?_ | refine State.bumpFree_keeps ?_
          | refine keeps_ite_else ?_ (fun _ => ?_) | refine keeps_ite_fst ?_ ?_
    | dsimp only
    | split

theorem execShardReply_keeps {s₀ : State} {batch query : Nat} {node : BitVec 10} {status : Byte} {failed : List Nat}
    {pages passed found : Nat} {items : List ShardItem} {s : State} (hk : State.Keeps s₀ s) : OutKeeps s₀
    (execShardReply batch query node status failed pages passed found items s) := by
  unfold execShardReply
  repeat' first
    | with_reducible
        first
          | assumption | refine outKeeps_next ?_ | refine State.setQuery_keeps ?_
          | refine keeps_ite_else ?_ (fun _ => ?_)
    | dsimp only
    | split

theorem execUpdateTake_keeps {s₀ s : State} {index : Fin 16} (hk : State.Keeps s₀ s) :
    OutKeeps s₀ (execUpdateTake index s) := by
  unfold execUpdateTake
  extract_lets x ring
  split
  · exact hk
  · rename_i i hi
    extract_lets slot r e fs p st s1 body a k s2 s3 s4 s5
    have hr : State.Keeps s₀ r.1 := unitRead_keeps hk
    have h1 : State.Keeps s₀ s1 := pickCode_keeps hr
    have h2 : State.Keeps s₀ s2 := by
      unfold s2
      split
      · exact count_keeps (syncHdr_keeps (State.modIdx_keeps (areaWrite_keeps h1)))
      · exact h1
    have h5 : State.Keeps s₀ s5 := unitPut_keeps (unitPut_keeps (State.modIdx_keeps h2))
    split
    · exact hk
    · exact outKeeps_next (bumpTo_keeps h5)

theorem partTimeout_keeps {s₀ s : State} {tag : Nat} (hk : State.Keeps s₀ s) : ∀ r, partTimeout s tag = some r →
    State.Keeps s₀ r := by
  unfold partTimeout
  repeat' first
    | with_reducible
        first
          | assumption | refine State.setQuery_keeps ?_
    | (intro _ hr; cases hr; done)
    | (intro _ hr; cases hr)
    | dsimp only
    | split
    | (intro _ hr
       obtain ⟨b, -, hb⟩ := List.exists_of_findSome?_eq_some hr
       obtain ⟨e, -, he⟩ := List.exists_of_findSome?_eq_some hb
       obtain ⟨p, -, rfl⟩ := Option.map_eq_some_iff.1 he
       exact State.setQuery_keeps hk)

theorem writeBrcArea_keeps {s₀ s : State} {v : Word} (hk : State.Keeps s₀ s) : State.Keeps s₀ (writeBrcArea s v) := by
  unfold writeBrcArea
  repeat' first
    | with_reducible
        first
          | assumption | refine State.setReg_keeps ?_ | refine keeps_ite_else ?_ (fun _ => ?_)
    | dsimp only
    | split

theorem writeIdxCmd_keeps {s₀ s : State} {v : Word} (hk : State.Keeps s₀ s) : State.Keeps s₀ (writeIdxCmd s v) := by
  unfold writeIdxCmd
  repeat' first
    | with_reducible
        first
          | assumption | refine openCmd_keeps ?_ | refine closeCmd_keeps ?_ | refine destroyCmd_keeps ?_
          | refine State.setBit_keeps ?_
    | dsimp only
    | split

/-! ### Machine/Engines.lean -/

theorem writeSlotJob_keeps {s₀ s : State} {r : SlotRegs} {v : Word} (hk : State.Keeps s₀ s) : State.Keeps s₀
    (writeSlotJob s r v).1 := by
  unfold writeSlotJob
  repeat' first
    | with_reducible
        first
          | assumption | refine State.setBit_keeps ?_ | refine State.setReg_keeps ?_
          | refine keeps_ite_else ?_ (fun _ => ?_) | refine keeps_ite_fst ?_ ?_
    | dsimp only
    | split

theorem writeVisSlot_keeps {s₀ s : State} {n : Nat} {v : Word} (hk : State.Keeps s₀ s) : State.Keeps s₀ (writeVisSlot
    s n v) := by
  unfold writeVisSlot
  repeat' first
    | with_reducible
        first
          | assumption | refine writeSlotJob_keeps ?_
    | refine keeps_mk ?_; with_reducible
        first
          | assumption | refine writeSlotJob_keeps ?_
    | dsimp only
    | split

theorem writeSlvSlot_keeps {s₀ s : State} {n : Nat} {v : Word} (hk : State.Keeps s₀ s) : State.Keeps s₀ (writeSlvSlot
    s n v) := by
  unfold writeSlvSlot
  repeat' first
    | with_reducible
        first
          | assumption | refine writeSlotJob_keeps ?_
    | refine keeps_mk ?_; with_reducible
        first
          | assumption | refine writeSlotJob_keeps ?_
    | dsimp only
    | split

theorem writeSlot_keeps {s₀ s : State} {slot : SlotRef} {v : Word} (hk : State.Keeps s₀ s) : State.Keeps s₀ (writeSlot
    s slot v) := by
  unfold writeSlot
  repeat' first
    | with_reducible
        first
          | assumption | refine writeVisSlot_keeps ?_ | refine writeSlvSlot_keeps ?_
    | dsimp only
    | split

theorem execSlotDisable_keeps {s₀ : State} {slot : SlotRef} {s : State} (hk : State.Keeps s₀ s) : OutKeeps s₀
    (execSlotDisable slot s) := by
  unfold execSlotDisable
  repeat' first
    | with_reducible
        first
          | assumption | refine outKeeps_next ?_ | refine writeSlot_keeps ?_
    | dsimp only
    | split

theorem execSlotEnable_keeps {s₀ : State} {slot : SlotRef} {s : State} (hk : State.Keeps s₀ s) : OutKeeps s₀
    (execSlotEnable slot s) := by
  unfold execSlotEnable
  repeat' first
    | with_reducible
        first
          | assumption | refine outKeeps_next ?_ | refine writeSlot_keeps ?_
    | dsimp only
    | split

theorem obsSlice_keeps {s₀ s : State} {unit event : Nat} {r : Run} (hk : State.Keeps s₀ s) : State.Keeps s₀ (obsSlice
    s unit event r) := by
  unfold obsSlice
  repeat' first
    | with_reducible
        first
          | assumption | refine obsEvent_keeps ?_
    | dsimp only
    | split

/-! ### Machine/Vision.lean -/

theorem State.modVis_keeps {s₀ s : State} {e : Nat} {f : Engine → Engine} (hk : State.Keeps s₀ s) : State.Keeps s₀
    (State.modVis s e f) := by
  unfold State.modVis
  repeat' first
    | with_reducible
        first
          | assumption
    | refine keeps_mk ?_; with_reducible
        first
          | assumption
    | dsimp only
    | split

theorem State.clearVis_keeps {s₀ s : State} {e : Nat} (hk : State.Keeps s₀ s) : State.Keeps s₀ (State.clearVis s e) :=
    by
  unfold State.clearVis
  repeat' first
    | with_reducible
        first
          | assumption | refine State.modVis_keeps ?_
    | dsimp only
    | split

theorem State.setVisQueue_keeps {s₀ s : State} {block : Bool} {q : List QRun} (hk : State.Keeps s₀ s) : State.Keeps s₀
    (State.setVisQueue s block q) := by
  unfold State.setVisQueue
  repeat' first
    | with_reducible
        first
          | assumption | refine keeps_ite_else ?_ (fun _ => ?_)
    | refine keeps_mk ?_; with_reducible
        first
          | assumption | refine keeps_ite_else ?_ (fun _ => ?_)
    | dsimp only
    | split

theorem countVis_keeps {s₀ s : State} {e status : Nat} (hk : State.Keeps s₀ s) : State.Keeps s₀ (countVis s e status)
    := by
  unfold countVis
  repeat' first
    | with_reducible
        first
          | assumption | refine State.wrapFld_keeps ?_ | refine sticky_keeps ?_ | refine State.satFld_keeps ?_
          | refine keeps_ite_else ?_ (fun _ => ?_)
    | dsimp only
    | split

theorem endVis_keeps {s₀ s : State} {e : Nat} {j : UJob} {status mst reason : Nat} {o : VisOut} (hk : State.Keeps s₀
    s) : State.Keeps s₀ (endVis s e j status mst reason o) := by
  unfold endVis
  repeat' first
    | with_reducible
        first
          | assumption | refine bumpTo_keeps ?_ | refine unitPut_keeps ?_ | refine countVis_keeps ?_
          | refine obsEnd_keeps ?_ | refine keeps_ite_else ?_ (fun _ => ?_)
    | dsimp only
    | split

theorem workVis_keeps {s₀ s : State} {e ty : Nat} {work : State → Snap → Nat → List Byte → State × VisEnd} (hk :
    State.Keeps s₀ s) (hf : ∀ s y0 y1 y2, State.Keeps s₀ s → State.Keeps s₀ (work s y0 y1 y2).1) : State.Keeps s₀
    (workVis s e ty work) := by
  unfold workVis
  repeat' first
    | with_reducible
        first
          | assumption | refine hf _ _ _ _ ?_ | refine endVis_keeps ?_ | refine State.clearVis_keeps ?_
          | refine chargeDomain_keeps ?_ | refine sampleResult_keeps ?_ | refine postChecks_keeps ?_
          | refine keeps_ite_else ?_ (fun _ => ?_) | refine keeps_ite_fst ?_ ?_
    | dsimp only
    | split

theorem readImg_keeps {s₀ s : State} {old : Snap} {cls : Nat} {d : ImgDesc} (hk : State.Keeps s₀ s) : State.Keeps s₀
    (readImg s old cls d).1 := by
  unfold readImg
  repeat' first
    | with_reducible
        first
          | assumption | refine oldRead_keeps ?_ | refine keeps_ite_else ?_ (fun _ => ?_) | refine keeps_ite_fst ?_ ?_
          | refine keeps_foldl ?_ (fun _ _ _ => ?_) | refine keeps_foldl_fst ?_ (fun _ _ _ => ?_)
    | dsimp only
    | split

theorem pairTable_keeps {s₀ s : State} {old : Snap} {cls : Nat} {raw : List Byte} (hk : State.Keeps s₀ s) :
    State.Keeps s₀ (pairTable s old cls raw).1 := by
  unfold pairTable
  repeat' first
    | with_reducible
        first
          | assumption | refine oldRead_keeps ?_
    | dsimp only
    | split

theorem writePieces_keeps {s₀ s : State} {ps : List (Word × List Byte)} (hk : State.Keeps s₀ s) : State.Keeps s₀
    (writePieces s ps).1 := by
  unfold writePieces
  repeat' first
    | with_reducible
        first
          | assumption | refine unitWrite_keeps ?_ | refine keeps_ite_else ?_ (fun _ => ?_)
          | refine keeps_ite_fst ?_ ?_ | refine keeps_foldl ?_ (fun _ _ _ => ?_)
          | refine keeps_foldl_fst ?_ (fun _ _ _ => ?_)
    | dsimp only
    | split

theorem runDetect_keeps {s₀ s : State} {old : Snap} {cls : Nat} {raw : List Byte} (hk : State.Keeps s₀ s) :
    State.Keeps s₀ (runDetect s old cls raw).1 := by
  unfold runDetect
  repeat' first
    | with_reducible
        first
          | assumption | refine readImg_keeps ?_ | refine pairTable_keeps ?_ | refine writePieces_keeps ?_
          | refine keeps_ite_else ?_ (fun _ => ?_) | refine keeps_ite_fst ?_ ?_
    | dsimp only
    | split

theorem execDetect_keeps {s₀ : State} {engine : Fin 8} {s : State} (hk : State.Keeps s₀ s) : OutKeeps s₀ (execDetect
    engine s) := by
  unfold execDetect
  repeat' first
    | with_reducible
        first
          | assumption | refine outKeeps_next ?_ | refine workVis_keeps ?_ (fun _ _ _ _ _ => ?_)
          | refine runDetect_keeps ?_
    | dsimp only
    | split

theorem planeRow_keeps {s₀ : State} {cls : Nat} {raw : List Byte} {height y : Nat} {r : PlaneRun} {ps : List PixOut}
    {ws : List (Word × List Byte)} (hk : State.Keeps s₀ r.s) : State.Keeps s₀ (planeRow cls raw height y r ps ws).s := by
  unfold planeRow
  extract_lets w src out r2 band b
  have h : State.Keeps s₀ w.1 := writePieces_keeps hk
  split
  · exact h
  · split
    · exact bump_keeps (s := r2.s) h
    · exact h

theorem keeps_foldl_plane {s₀ : State} {α : Type} {f : PlaneRun → α → PlaneRun} {p : PlaneRun} {l : List α}
    (h : State.Keeps s₀ p.s) (hf : ∀ p x, State.Keeps s₀ p.s → State.Keeps s₀ (f p x).s) :
    State.Keeps s₀ (l.foldl f p).s := by
  induction l generalizing p with
  | nil => exact h
  | cons x l ih => exact ih (hf p x h)

theorem runFlow_keeps {s₀ s : State} {old : Snap} {cls : Nat} {raw : List Byte} (hk : State.Keeps s₀ s) : State.Keeps
    s₀ (runFlow s old cls raw).1 := by
  unfold runFlow
  repeat' first
    | with_reducible
        first
          | assumption | refine planeRow_keeps ?_ | refine keeps_foldl_plane ?_ (fun _ _ _ => ?_)
          | refine readImg_keeps ?_ | refine oldRead_keeps ?_ | refine keeps_ite_else ?_ (fun _ => ?_)
          | refine keeps_ite_fst ?_ ?_ | refine keeps_foldl ?_ (fun _ _ _ => ?_)
          | refine keeps_foldl_fst ?_ (fun _ _ _ => ?_)
    | dsimp only
    | split

theorem execFlow_keeps {s₀ : State} {engine : Fin 8} {s : State} (hk : State.Keeps s₀ s) : OutKeeps s₀ (execFlow
    engine s) := by
  unfold execFlow
  repeat' first
    | with_reducible
        first
          | assumption | refine outKeeps_next ?_ | refine workVis_keeps ?_ (fun _ _ _ _ _ => ?_)
          | refine runFlow_keeps ?_
    | dsimp only
    | split

theorem runMatch_keeps {s₀ s : State} {old : Snap} {cls : Nat} {raw : List Byte} (hk : State.Keeps s₀ s) : State.Keeps
    s₀ (runMatch s old cls raw).1 := by
  unfold runMatch
  repeat' first
    | with_reducible
        first
          | assumption | refine oldRead_keeps ?_ | refine writePieces_keeps ?_
          | refine keeps_ite_else ?_ (fun _ => ?_) | refine keeps_ite_fst ?_ ?_
    | dsimp only
    | split

theorem execMatchFeatures_keeps {s₀ : State} {engine : Fin 8} {s : State} (hk : State.Keeps s₀ s) : OutKeeps s₀
    (execMatchFeatures engine s) := by
  unfold execMatchFeatures
  repeat' first
    | with_reducible
        first
          | assumption | refine outKeeps_next ?_ | refine workVis_keeps ?_ (fun _ _ _ _ _ => ?_)
          | refine runMatch_keeps ?_
    | dsimp only
    | split

theorem runStereo_keeps {s₀ s : State} {old : Snap} {cls : Nat} {raw : List Byte} (hk : State.Keeps s₀ s) :
    State.Keeps s₀ (runStereo s old cls raw).1 := by
  unfold runStereo
  repeat' first
    | with_reducible
        first
          | assumption | refine planeRow_keeps ?_ | refine keeps_foldl_plane ?_ (fun _ _ _ => ?_)
          | refine readImg_keeps ?_ | refine oldRead_keeps ?_ | refine keeps_ite_else ?_ (fun _ => ?_)
          | refine keeps_ite_fst ?_ ?_ | refine keeps_foldl ?_ (fun _ _ _ => ?_)
          | refine keeps_foldl_fst ?_ (fun _ _ _ => ?_)
    | dsimp only
    | split

theorem execStereo_keeps {s₀ : State} {engine : Fin 8} {s : State} (hk : State.Keeps s₀ s) : OutKeeps s₀ (execStereo
    engine s) := by
  unfold execStereo
  repeat' first
    | with_reducible
        first
          | assumption | refine outKeeps_next ?_ | refine workVis_keeps ?_ (fun _ _ _ _ _ => ?_)
          | refine runStereo_keeps ?_
    | dsimp only
    | split

theorem visEnter_keeps {s₀ s : State} {job : Word} {cls : Nat} (hk : State.Keeps s₀ s) : State.Keeps s₀ (visEnter s
    job cls).1 := by
  unfold visEnter
  repeat' first
    | with_reducible
        first
          | assumption | refine unitRead_keeps ?_ | refine keeps_ite_else ?_ (fun _ => ?_)
          | refine keeps_ite_fst ?_ ?_
    | dsimp only
    | split

theorem execVisionLaunch_keeps {s₀ : State} {l : Launcher} {s : State} (hk : State.Keeps s₀ s) : OutKeeps s₀
    (execVisionLaunch l s) := by
  unfold execVisionLaunch
  repeat' first
    | with_reducible
        first
          | assumption | refine outKeeps_next ?_ | refine visEnter_keeps ?_ | refine reportFull_keeps ?_
          | refine takeLaunch_keeps ?_ _ (by assumption) | refine State.setVisQueue_keeps ?_
          | refine keeps_ite_else ?_ (fun _ => ?_) | refine keeps_ite_fst ?_ ?_
    | refine keeps_mk ?_; with_reducible
        first
          | assumption | refine outKeeps_next ?_ | refine visEnter_keeps ?_ | refine reportFull_keeps ?_
          | refine takeLaunch_keeps ?_ _ (by assumption) | refine State.setVisQueue_keeps ?_
          | refine keeps_ite_else ?_ (fun _ => ?_) | refine keeps_ite_fst ?_ ?_
    | dsimp only
    | split

theorem takeVis_keeps {s₀ s : State} {e : Nat} {r : QRun} (hk : State.Keeps s₀ s) : State.Keeps s₀ (takeVis s e r) :=
    by
  unfold takeVis
  repeat' first
    | with_reducible
        first
          | assumption | refine obsStart_keeps ?_ | refine unitRead_keeps ?_ | refine endVis_keeps ?_
          | refine pairTable_keeps ?_ | refine pickCode_keeps ?_ | refine State.modVis_keeps ?_
          | refine keeps_ite_else ?_ (fun _ => ?_) | refine keeps_ite_fst ?_ ?_
    | dsimp only
    | split

theorem nextVis_keeps {s₀ : State} {s : State} {e : Nat} (hk : State.Keeps s₀ s) : State.Keeps s₀ (nextVis s e) := by
  unfold nextVis
  repeat' first
    | with_reducible
        first
          | assumption | refine obsSlice_keeps ?_ | refine State.modVis_keeps ?_ | refine takeVis_keeps ?_
          | refine State.setVisQueue_keeps ?_ | refine keeps_ite_else ?_ (fun _ => ?_)
    | dsimp only
    | split

theorem execVisionRunTake_keeps {s₀ : State} {engine : Fin 8} {s : State} (hk : State.Keeps s₀ s) : OutKeeps s₀
    (execVisionRunTake engine s) := by
  unfold execVisionRunTake
  repeat' first
    | with_reducible
        first
          | assumption | refine outKeeps_next ?_ | refine nextVis_keeps ?_ | refine keeps_ite_else ?_ (fun _ => ?_)
    | dsimp only
    | split

theorem sliceVis_keeps {s₀ s : State} {e : Nat} (hk : State.Keeps s₀ s) : State.Keeps s₀ (sliceVis s e) := by
  unfold sliceVis
  repeat' first
    | with_reducible
        first
          | assumption | refine State.modVis_keeps ?_ | refine endVis_keeps ?_ | refine State.clearVis_keeps ?_
          | refine nextVis_keeps ?_ | refine keeps_ite_else ?_ (fun _ => ?_) | refine keeps_foldl ?_ (fun _ _ _ => ?_)
          | refine keeps_foldl_fst ?_ (fun _ _ _ => ?_)
    | dsimp only
    | split

/-! ### Machine/Solver.lean -/

theorem State.modSlv_keeps {s₀ s : State} {u : Nat} {f : Engine → Engine} (hk : State.Keeps s₀ s) : State.Keeps s₀
    (State.modSlv s u f) := by
  unfold State.modSlv
  repeat' first
    | with_reducible
        first
          | assumption
    | refine keeps_mk ?_; with_reducible
        first
          | assumption
    | dsimp only
    | split

theorem State.queueSlv_keeps {s₀ s : State} {q : QRun} (hk : State.Keeps s₀ s) : State.Keeps s₀ (State.queueSlv s q)
    := by
  unfold State.queueSlv
  repeat' first
    | with_reducible
        first
          | assumption
    | refine keeps_mk ?_; with_reducible
        first
          | assumption
    | dsimp only
    | split

theorem endSlv_keeps {s₀ s : State} {u : Nat} {j : UJob} {status : Nat} (hk : State.Keeps s₀ s) : State.Keeps s₀
    (endSlv s u j status) := by
  unfold endSlv
  repeat' first
    | with_reducible
        first
          | assumption | refine obsEnd_keeps ?_ | refine bumpTo_keeps ?_
    | dsimp only
    | split

theorem slvWrite_keeps {s₀ s : State} {a : Word} {bs : List Byte} (hk : State.Keeps s₀ s) : State.Keeps s₀ (slvWrite s
    a bs).1 := by
  unfold slvWrite
  repeat' first
    | with_reducible
        first
          | assumption | refine State.setBit_keeps ?_ | refine settle_keeps ?_ | refine writeBytes_keeps ?_
          | refine unitWrite_keeps ?_ | refine keeps_ite_else ?_ (fun _ => ?_) | refine keeps_ite_fst ?_ ?_
    | dsimp only
    | split

theorem countSlv_keeps {s₀ s : State} {status flags : Nat} (hk : State.Keeps s₀ s) : State.Keeps s₀ (countSlv s status
    flags) := by
  unfold countSlv
  repeat' first
    | with_reducible
        first
          | assumption | refine State.wrapFld_keeps ?_ | refine sticky_keeps ?_ | refine State.satFld_keeps ?_
          | refine keeps_ite_else ?_ (fun _ => ?_)
    | dsimp only
    | split

theorem endRecord_keeps {s₀ s : State} {j : UJob} {status mst reason : Nat} {o : SlvOut} (hk : State.Keeps s₀ s) :
    State.Keeps s₀ (endRecord s j status mst reason o) := by
  unfold endRecord
  repeat' first
    | with_reducible
        first
          | assumption | refine slvWrite_keeps ?_ | refine countSlv_keeps ?_ | refine keeps_ite_else ?_ (fun _ => ?_)
          | refine keeps_ite_fst ?_ ?_
    | dsimp only
    | split

theorem abortSlv_keeps {s₀ s : State} {u : Nat} {j : UJob} (hk : State.Keeps s₀ s) : State.Keeps s₀ (abortSlv s u j)
    := by
  unfold abortSlv
  repeat' first
    | with_reducible
        first
          | assumption | refine endSlv_keeps ?_ | refine endRecord_keeps ?_
    | dsimp only
    | split

theorem allowedIters_keeps {s₀ s : State} {j : UJob} (hk : State.Keeps s₀ s) : State.Keeps s₀ (allowedIters s j).1 :=
    by
  unfold allowedIters
  repeat' first
    | with_reducible
        first
          | assumption | refine State.bumpFree_keeps ?_ | refine keeps_ite_else ?_ (fun _ => ?_)
          | refine keeps_ite_fst ?_ ?_
    | dsimp only
    | split

theorem areaStirred_keeps {s₀ : State} {s : State} (hk : State.Keeps s₀ s) : State.Keeps s₀ (areaStirred s) := by
  unfold areaStirred
  repeat' first
    | with_reducible
        first
          | assumption | refine settle_keeps ?_ | refine State.fillRange_keeps ?_
          | refine keeps_ite_else ?_ (fun _ => ?_)
    | dsimp only
    | split

theorem readDeltas_keeps {s₀ s : State} {cls : Nat} {raw : List Byte} (hk : State.Keeps s₀ s) : State.Keeps s₀
    (readDeltas s cls raw).1 := by
  unfold readDeltas
  repeat' first
    | with_reducible
        first
          | assumption | refine unitRead_keeps ?_ | refine keeps_ite_else ?_ (fun _ => ?_)
          | refine keeps_ite_fst ?_ ?_
    | dsimp only
    | split

theorem slvRefusal_keeps {s₀ s : State} {cls : Nat} {first : Bool} {raw : List Byte} (hk : State.Keeps s₀ s) :
    State.Keeps s₀ (slvRefusal s cls first raw).1 := by
  unfold slvRefusal
  repeat' first
    | with_reducible
        first
          | assumption | refine readDeltas_keeps ?_ | refine pickCode_keeps ?_
          | refine keeps_ite_else ?_ (fun _ => ?_) | refine keeps_ite_fst ?_ ?_
    | dsimp only
    | split

theorem beginRecords_keeps {s₀ : State} {u x0 x1 : Nat} {x2 : State} {x3 : UJob} (hk : State.Keeps s₀ x2) :
    State.Keeps s₀ (beginRecords u x0 x1 x2 x3) := by
  induction x0 generalizing x1 x2 x3
  · unfold beginRecords
    repeat' first
      | with_reducible
          first
            | assumption | refine endSlv_keeps ?_ | refine unitRead_keeps ?_ | refine endRecord_keeps ?_
            | refine slvRefusal_keeps ?_ | refine State.modSlv_keeps ?_ | refine keeps_ite_else ?_ (fun _ => ?_)
            | refine keeps_ite_fst ?_ ?_
      | dsimp only
      | split
  · rename_i ih
    unfold beginRecords
    repeat' first
      | with_reducible
          first
            | assumption | refine ih ?_ | refine endSlv_keeps ?_ | refine unitRead_keeps ?_
            | refine endRecord_keeps ?_ | refine slvRefusal_keeps ?_ | refine State.modSlv_keeps ?_
            | refine keeps_ite_else ?_ (fun _ => ?_) | refine keeps_ite_fst ?_ ?_
      | dsimp only
      | split

theorem bodyOut_keeps {s₀ s : State} {raw : List Byte} {words : List Nat} {o : SlvOut} {sampled : Bool} (hk :
    State.Keeps s₀ s) : State.Keeps s₀ (bodyOut s raw words o sampled).1 := by
  unfold bodyOut
  repeat' first
    | with_reducible
        first
          | assumption | refine slvWrite_keeps ?_ | refine keeps_ite_else ?_ (fun _ => ?_)
          | refine keeps_ite_fst ?_ ?_
    | dsimp only
    | split

theorem checkDeltas_keeps {s₀ s : State} {cls : Nat} {raw : List Byte} (hk : State.Keeps s₀ s) : State.Keeps s₀
    (checkDeltas s cls raw).1 := by
  unfold checkDeltas
  repeat' first
    | with_reducible
        first
          | assumption | refine readDeltas_keeps ?_ | refine keeps_ite_else ?_ (fun _ => ?_)
          | refine keeps_ite_fst ?_ ?_ | refine keeps_foldl ?_ (fun _ _ _ => ?_)
          | refine keeps_foldl_fst ?_ (fun _ _ _ => ?_)
    | dsimp only
    | split

theorem setStruct_keeps {s₀ s : State} {st : Struct} {es : List (List Byte)} (hk : State.Keeps s₀ s) : State.Keeps s₀
    (setStruct s st es) := by
  unfold setStruct
  repeat' first
    | with_reducible
        first
          | assumption | refine areaStirred_keeps ?_ | refine keeps_ite_else ?_ (fun _ => ?_)
    | refine keeps_mk ?_; with_reducible
        first
          | assumption | refine areaStirred_keeps ?_ | refine keeps_ite_else ?_ (fun _ => ?_)
    | dsimp only
    | split

theorem takeDeltas_keeps {s₀ s : State} {cls : Nat} {raw : List Byte} (hk : State.Keeps s₀ s) : State.Keeps s₀
    (takeDeltas s cls raw).1 := by
  unfold takeDeltas
  repeat' first
    | with_reducible
        first
          | assumption | refine checkDeltas_keeps ?_ | refine setStruct_keeps ?_
    | dsimp only
    | split

theorem bodyStart_keeps {s₀ s : State} {j : UJob} (hk : State.Keeps s₀ s) : State.Keeps s₀ (bodyStart s j).1 := by
  unfold bodyStart
  repeat' first
    | with_reducible
        first
          | assumption | refine takeDeltas_keeps ?_ | refine unitRead_keeps ?_
          | refine keeps_ite_else ?_ (fun _ => ?_) | refine keeps_ite_fst ?_ ?_
    | dsimp only
    | split

theorem chainSids_keeps {s₀ : State} {cls : Nat} {job : Word} {x0 x1 : Nat} {x2 : State} (hk : State.Keeps s₀ x2) :
    State.Keeps s₀ (chainSids cls job x0 x1 x2).1 := by
  induction x0 generalizing x1 x2
  · unfold chainSids
    repeat' first
      | with_reducible
          first
            | assumption | refine unitRead_keeps ?_ | refine keeps_ite_else ?_ (fun _ => ?_)
            | refine keeps_ite_fst ?_ ?_
      | dsimp only
      | split
  · rename_i ih
    unfold chainSids
    repeat' first
      | with_reducible
          first
            | assumption | refine ih ?_ | refine unitRead_keeps ?_ | refine keeps_ite_else ?_ (fun _ => ?_)
            | refine keeps_ite_fst ?_ ?_
      | dsimp only
      | split

theorem nextRecord_keeps {s₀ s : State} {u : Nat} {j : UJob} {status mst reason : Nat} {o : SlvOut} (hk : State.Keeps
    s₀ s) : State.Keeps s₀ (nextRecord s u j status mst reason o) := by
  unfold nextRecord
  repeat' first
    | with_reducible
        first
          | assumption | refine State.modSlv_keeps ?_ | refine endRecord_keeps ?_ | refine beginRecords_keeps ?_
    | dsimp only
    | split

theorem workSlv_keeps {s₀ s : State} {u : Nat} {is : List Byte → Bool} {work : State → UJob → State × SlvEnd} (hk :
    State.Keeps s₀ s) (hf : ∀ s y0, State.Keeps s₀ s → State.Keeps s₀ (work s y0).1) : State.Keeps s₀ (workSlv s u is
    work) := by
  unfold workSlv
  repeat' first
    | with_reducible
        first
          | assumption | refine hf _ _ ?_ | refine abortSlv_keeps ?_ | refine State.modSlv_keeps ?_
          | refine chargeDomain_keeps ?_ | refine sampleResult_keeps ?_ | refine nextRecord_keeps ?_
          | refine postChecks_keeps ?_ | refine keeps_ite_else ?_ (fun _ => ?_) | refine keeps_ite_fst ?_ ?_
    | dsimp only
    | split

theorem runFd_keeps {s₀ : State} {s : State} {j : UJob} (hk : State.Keeps s₀ s) : State.Keeps s₀ (runFd s j).1 := by
  unfold runFd
  repeat' first
    | with_reducible
        first
          | assumption | refine bodyStart_keeps ?_ | refine bodyOut_keeps ?_ | refine keeps_ite_else ?_ (fun _ => ?_)
          | refine keeps_ite_fst ?_ ?_
    | dsimp only
    | split

theorem execBodyFd_keeps {s₀ : State} {u : Fin 2} {s : State} (hk : State.Keeps s₀ s) : OutKeeps s₀ (execBodyFd u s)
    := by
  unfold execBodyFd
  repeat' first
    | with_reducible
        first
          | assumption | refine outKeeps_next ?_ | refine workSlv_keeps ?_ (fun _ _ _ => ?_) | refine runFd_keeps ?_
    | dsimp only
    | split

theorem runFk_keeps {s₀ : State} {s : State} {j : UJob} (hk : State.Keeps s₀ s) : State.Keeps s₀ (runFk s j).1 := by
  unfold runFk
  repeat' first
    | with_reducible
        first
          | assumption | refine bodyStart_keeps ?_ | refine bodyOut_keeps ?_
    | dsimp only
    | split

theorem execBodyFk_keeps {s₀ : State} {u : Fin 2} {s : State} (hk : State.Keeps s₀ s) : OutKeeps s₀ (execBodyFk u s)
    := by
  unfold execBodyFk
  repeat' first
    | with_reducible
        first
          | assumption | refine outKeeps_next ?_ | refine workSlv_keeps ?_ (fun _ _ _ => ?_) | refine runFk_keeps ?_
    | dsimp only
    | split

theorem runId_keeps {s₀ : State} {s : State} {j : UJob} (hk : State.Keeps s₀ s) : State.Keeps s₀ (runId s j).1 := by
  unfold runId
  repeat' first
    | with_reducible
        first
          | assumption | refine bodyStart_keeps ?_ | refine bodyOut_keeps ?_
    | dsimp only
    | split

theorem execBodyId_keeps {s₀ : State} {u : Fin 2} {s : State} (hk : State.Keeps s₀ s) : OutKeeps s₀ (execBodyId u s)
    := by
  unfold execBodyId
  repeat' first
    | with_reducible
        first
          | assumption | refine outKeeps_next ?_ | refine workSlv_keeps ?_ (fun _ _ _ => ?_) | refine runId_keeps ?_
    | dsimp only
    | split

theorem runIk_keeps {s₀ : State} {s : State} {j : UJob} (hk : State.Keeps s₀ s) : State.Keeps s₀ (runIk s j).1 := by
  unfold runIk
  repeat' first
    | with_reducible
        first
          | assumption | refine checkDeltas_keeps ?_ | refine unitRead_keeps ?_ | refine pickCode_keeps ?_
          | refine bodyStart_keeps ?_ | refine allowedIters_keeps ?_ | refine bodyOut_keeps ?_
          | refine keeps_ite_else ?_ (fun _ => ?_) | refine keeps_ite_fst ?_ ?_
    | dsimp only
    | split

theorem execBodyIk_keeps {s₀ : State} {u : Fin 2} {s : State} (hk : State.Keeps s₀ s) : OutKeeps s₀ (execBodyIk u s)
    := by
  unfold execBodyIk
  repeat' first
    | with_reducible
        first
          | assumption | refine outKeeps_next ?_ | refine workSlv_keeps ?_ (fun _ _ _ => ?_) | refine runIk_keeps ?_
    | dsimp only
    | split

theorem runDrop_keeps {s₀ s : State} {cls : Nat} {raw : List Byte} (hk : State.Keeps s₀ s) : State.Keeps s₀ (runDrop s
    cls raw).1 := by
  unfold runDrop
  repeat' first
    | with_reducible
        first
          | assumption | refine checkDeltas_keeps ?_
    | refine keeps_mk ?_; with_reducible
        first
          | assumption | refine checkDeltas_keeps ?_
    | dsimp only
    | split

theorem execDropStructure_keeps {s₀ : State} {u : Fin 2} {s : State} (hk : State.Keeps s₀ s) : OutKeeps s₀
    (execDropStructure u s) := by
  unfold execDropStructure
  repeat' first
    | with_reducible
        first
          | assumption | refine outKeeps_next ?_ | refine workSlv_keeps ?_ (fun _ _ _ => ?_) | refine runDrop_keeps ?_
    | dsimp only
    | split

theorem readParams_keeps {s₀ s : State} {cls : Nat} {st : Struct} {es : List (List Byte)} (hk : State.Keeps s₀ s) :
    State.Keeps s₀ (readParams s cls st es).1 := by
  unfold readParams
  repeat' first
    | with_reducible
        first
          | assumption | refine unitRead_keeps ?_ | refine keeps_ite_else ?_ (fun _ => ?_)
          | refine keeps_ite_fst ?_ ?_ | refine keeps_foldl ?_ (fun _ _ _ => ?_)
          | refine keeps_foldl_fst ?_ (fun _ _ _ => ?_)
    | dsimp only
    | split

theorem readLsq_keeps {s₀ s : State} {cls : Nat} {h : List Byte} {sid : Word} (hk : State.Keeps s₀ s) : State.Keeps s₀
    (readLsq s cls h sid).1 := by
  unfold readLsq
  repeat' first
    | with_reducible
        first
          | assumption | refine unitRead_keeps ?_ | refine readParams_keeps ?_
          | refine keeps_ite_else ?_ (fun _ => ?_) | refine keeps_ite_fst ?_ ?_
    | dsimp only
    | split

theorem readBody_keeps {s₀ s : State} {cls : Nat} {h : List Byte} {sid : Word} (hk : State.Keeps s₀ s) : State.Keeps
    s₀ (readBody s cls h sid).1 := by
  unfold readBody
  repeat' first
    | with_reducible
        first
          | assumption | refine unitRead_keeps ?_ | refine keeps_ite_else ?_ (fun _ => ?_)
          | refine keeps_ite_fst ?_ ?_
    | dsimp only
    | split

theorem runLoad_keeps {s₀ s : State} {cls : Nat} {raw : List Byte} (hk : State.Keeps s₀ s) : State.Keeps s₀ (runLoad s
    cls raw).1 := by
  unfold runLoad
  repeat' first
    | with_reducible
        first
          | assumption | refine readDeltas_keeps ?_ | refine unitRead_keeps ?_ | refine readLsq_keeps ?_
          | refine readBody_keeps ?_ | refine areaStirred_keeps ?_ | refine keeps_ite_else ?_ (fun _ => ?_)
          | refine keeps_ite_fst ?_ ?_ | refine keeps_foldl ?_ (fun _ _ _ => ?_)
          | refine keeps_foldl_fst ?_ (fun _ _ _ => ?_)
    | refine keeps_mk ?_; with_reducible
        first
          | assumption | refine readDeltas_keeps ?_ | refine unitRead_keeps ?_ | refine readLsq_keeps ?_
          | refine readBody_keeps ?_ | refine areaStirred_keeps ?_ | refine keeps_ite_else ?_ (fun _ => ?_)
          | refine keeps_ite_fst ?_ ?_ | refine keeps_foldl ?_ (fun _ _ _ => ?_)
          | refine keeps_foldl_fst ?_ (fun _ _ _ => ?_)
    | dsimp only
    | split

theorem execLoad_keeps {s₀ : State} {u : Fin 2} {s : State} (hk : State.Keeps s₀ s) : OutKeeps s₀ (execLoad u s) := by
  unfold execLoad
  repeat' first
    | with_reducible
        first
          | assumption | refine outKeeps_next ?_ | refine workSlv_keeps ?_ (fun _ _ _ => ?_) | refine runLoad_keeps ?_
    | dsimp only
    | split

theorem readStart_keeps {s₀ s : State} {cls : Nat} {raw : List Byte} {st : Struct} (hk : State.Keeps s₀ s) :
    State.Keeps s₀ (readStart s cls raw st).1 := by
  unfold readStart
  repeat' first
    | with_reducible
        first
          | assumption | refine unitRead_keeps ?_ | refine keeps_ite_else ?_ (fun _ => ?_)
          | refine keeps_ite_fst ?_ ?_
    | dsimp only
    | split

theorem slvPieces_keeps {s₀ s : State} {ps : List (Word × List Byte)} (hk : State.Keeps s₀ s) : State.Keeps s₀
    (slvPieces s ps).1 := by
  unfold slvPieces
  repeat' first
    | with_reducible
        first
          | assumption | refine slvWrite_keeps ?_ | refine keeps_ite_else ?_ (fun _ => ?_)
          | refine keeps_ite_fst ?_ ?_ | refine keeps_foldl ?_ (fun _ _ _ => ?_)
          | refine keeps_foldl_fst ?_ (fun _ _ _ => ?_)
    | dsimp only
    | split

theorem runSolve_keeps {s₀ s : State} {j : UJob} (hk : State.Keeps s₀ s) : State.Keeps s₀ (runSolve s j).1 := by
  unfold runSolve
  repeat' first
    | with_reducible
        first
          | assumption | refine takeDeltas_keeps ?_ | refine readStart_keeps ?_ | refine allowedIters_keeps ?_
          | refine slvPieces_keeps ?_ | refine keeps_ite_else ?_ (fun _ => ?_) | refine keeps_ite_fst ?_ ?_
    | dsimp only
    | split

theorem execSolve_keeps {s₀ : State} {u : Fin 2} {s : State} (hk : State.Keeps s₀ s) : OutKeeps s₀ (execSolve u s) :=
    by
  unfold execSolve
  repeat' first
    | with_reducible
        first
          | assumption | refine outKeeps_next ?_ | refine workSlv_keeps ?_ (fun _ _ _ => ?_)
          | refine runSolve_keeps ?_
    | dsimp only
    | split

theorem writeSlvCtl_keeps {s₀ s : State} {v : Word} (hk : State.Keeps s₀ s) : State.Keeps s₀ (writeSlvCtl s v) := by
  unfold writeSlvCtl
  repeat' first
    | with_reducible
        first
          | assumption | refine State.setBit_keeps ?_ | refine sticky_keeps ?_
          | refine keeps_ite_else ?_ (fun _ => ?_)
    | refine keeps_mk ?_; with_reducible
        first
          | assumption | refine State.setBit_keeps ?_ | refine sticky_keeps ?_
          | refine keeps_ite_else ?_ (fun _ => ?_)
    | dsimp only
    | split

theorem execSolverEnable_keeps {s₀ s : State} (hk : State.Keeps s₀ s) : OutKeeps s₀ (execSolverEnable s) := by
  unfold execSolverEnable
  repeat' first
    | with_reducible
        first
          | assumption | refine outKeeps_next ?_ | refine writeSlvCtl_keeps ?_
    | dsimp only
    | split

theorem slvEnter_keeps {s₀ s : State} {run : Run} (hk : State.Keeps s₀ s) : State.Keeps s₀ (slvEnter s run).1 := by
  unfold slvEnter
  repeat' first
    | with_reducible
        first
          | assumption | refine unitRead_keeps ?_ | refine chainSids_keeps ?_ | refine keeps_ite_else ?_ (fun _ => ?_)
          | refine keeps_ite_fst ?_ ?_
    | dsimp only
    | split

theorem execSolverLaunch_keeps {s₀ : State} {l : Launcher} {s : State} (hk : State.Keeps s₀ s) : OutKeeps s₀
    (execSolverLaunch l s) := by
  unfold execSolverLaunch
  repeat' first
    | with_reducible
        first
          | assumption | refine outKeeps_next ?_ | refine reportFull_keeps ?_
          | refine takeLaunch_keeps ?_ _ (by assumption) | refine slvEnter_keeps ?_ | refine State.queueSlv_keeps ?_
          | refine keeps_ite_else ?_ (fun _ => ?_) | refine keeps_ite_fst ?_ ?_
    | refine keeps_mk ?_; with_reducible
        first
          | assumption | refine outKeeps_next ?_ | refine reportFull_keeps ?_
          | refine takeLaunch_keeps ?_ _ (by assumption) | refine slvEnter_keeps ?_ | refine State.queueSlv_keeps ?_
          | refine keeps_ite_else ?_ (fun _ => ?_) | refine keeps_ite_fst ?_ ?_
    | dsimp only
    | split

theorem takeSlv_keeps {s₀ s : State} {u : Nat} {r : QRun} (hk : State.Keeps s₀ s) : State.Keeps s₀ (takeSlv s u r) :=
    by
  unfold takeSlv
  repeat' first
    | with_reducible
        first
          | assumption | refine obsStart_keeps ?_ | refine unitRead_keeps ?_ | refine abortSlv_keeps ?_
          | refine beginRecords_keeps ?_ | refine endSlv_keeps ?_ | refine endRecord_keeps ?_
          | refine keeps_ite_else ?_ (fun _ => ?_) | refine keeps_ite_fst ?_ ?_
    | dsimp only
    | split

theorem nextSlv_keeps {s₀ : State} {s : State} {u : Nat} (hk : State.Keeps s₀ s) : State.Keeps s₀ (nextSlv s u) := by
  unfold nextSlv
  repeat' first
    | with_reducible
        first
          | assumption | refine obsSlice_keeps ?_ | refine State.modSlv_keeps ?_ | refine takeSlv_keeps ?_
          | refine keeps_ite_else ?_ (fun _ => ?_)
    | refine keeps_mk ?_; with_reducible
        first
          | assumption | refine obsSlice_keeps ?_ | refine State.modSlv_keeps ?_ | refine takeSlv_keeps ?_
          | refine keeps_ite_else ?_ (fun _ => ?_)
    | dsimp only
    | split

theorem execSolverRunTake_keeps {s₀ : State} {u : Fin 2} {s : State} (hk : State.Keeps s₀ s) : OutKeeps s₀
    (execSolverRunTake u s) := by
  unfold execSolverRunTake
  repeat' first
    | with_reducible
        first
          | assumption | refine outKeeps_next ?_ | refine nextSlv_keeps ?_ | refine keeps_ite_else ?_ (fun _ => ?_)
    | dsimp only
    | split

theorem sliceSlv_keeps {s₀ s : State} {u : Nat} (hk : State.Keeps s₀ s) : State.Keeps s₀ (sliceSlv s u) := by
  unfold sliceSlv
  repeat' first
    | with_reducible
        first
          | assumption | refine State.modSlv_keeps ?_ | refine abortSlv_keeps ?_
          | refine workSlv_keeps ?_ (fun _ _ _ => ?_) | refine runSolve_keeps ?_ | refine runIk_keeps ?_
          | refine nextSlv_keeps ?_ | refine keeps_ite_else ?_ (fun _ => ?_) | refine keeps_ite_fst ?_ ?_
          | refine keeps_foldl ?_ (fun _ _ _ => ?_) | refine keeps_foldl_fst ?_ (fun _ _ _ => ?_)
    | dsimp only
    | split

theorem writeSlvArea_keeps {s₀ s : State} {v : Word} (hk : State.Keeps s₀ s) : State.Keeps s₀ (writeSlvArea s v) := by
  unfold writeSlvArea
  repeat' first
    | with_reducible
        first
          | assumption | refine State.setReg_keeps ?_ | refine keeps_ite_else ?_ (fun _ => ?_)
    | dsimp only
    | split

/-! ### Machine/Sensors.lean -/

theorem State.modSrc_keeps {s₀ s : State} {n : Nat} {f : Source44 → Source44} (hk : State.Keeps s₀ s) : State.Keeps s₀
    (State.modSrc s n f) := by
  unfold State.modSrc
  repeat' first
    | with_reducible
        first
          | assumption
    | refine keeps_mk ?_; with_reducible
        first
          | assumption
    | dsimp only
    | split

theorem snsErr_keeps {s₀ : State} {s : State} {n : Nat} (hk : State.Keeps s₀ s) : State.Keeps s₀ (snsErr s n) := by
  unfold snsErr
  repeat' first
    | with_reducible
        first
          | assumption | refine sticky_keeps ?_
    | dsimp only
    | split

theorem dropRecord_keeps {s₀ s : State} {n : Nat} (hk : State.Keeps s₀ s) : State.Keeps s₀ (dropRecord s n) := by
  unfold dropRecord
  repeat' first
    | with_reducible
        first
          | assumption | refine bumpTo_keeps ?_ | refine snsErr_keeps ?_ | refine State.satFld_keeps ?_
    | dsimp only
    | split

theorem snsCountErr_keeps {s₀ s : State} {n : Nat} (hk : State.Keeps s₀ s) : State.Keeps s₀ (snsCountErr s n) := by
  unfold snsCountErr
  repeat' first
    | with_reducible
        first
          | assumption | refine snsErr_keeps ?_ | refine State.satFld_keeps ?_
    | dsimp only
    | split

theorem endFrame_keeps {s₀ s : State} {n : Nat} {fe : Option Nat} (hk : State.Keeps s₀ s) : State.Keeps s₀ (endFrame s
    n fe) := by
  unfold endFrame
  repeat' first
    | with_reducible
        first
          | assumption | refine State.modSrc_keeps ?_ | refine dropRecord_keeps ?_ | refine unitPut_keeps ?_
          | refine putAway_keeps ?_ | refine State.wrapFld_keeps ?_ | refine snsCountErr_keeps ?_
          | refine bumpTo_keeps ?_ | refine keeps_ite_else ?_ (fun _ => ?_)
    | dsimp only
    | split

theorem lookedRelease_keeps {s₀ s : State} {n : Nat} (hk : State.Keeps s₀ s) : State.Keeps s₀ (lookedRelease s n) :=
    by
  unfold lookedRelease
  repeat' first
    | with_reducible
        first
          | assumption | refine State.bumpFree_keeps ?_ | refine keeps_ite_else ?_ (fun _ => ?_)
    | dsimp only
    | split

theorem ringRecord_keeps {s₀ s : State} {n stamp : Nat} {unsync : Bool} {payload : List Byte} {info cflags dlc : Nat}
    (hk : State.Keeps s₀ s) : State.Keeps s₀ (ringRecord s n stamp unsync payload info cflags dlc) := by
  unfold ringRecord
  repeat' first
    | with_reducible
        first
          | assumption | refine dropRecord_keeps ?_ | refine lookedRelease_keeps ?_ | refine unitWrite_keeps ?_
          | refine State.modSrc_keeps ?_ | refine State.wrapFld_keeps ?_ | refine snsErr_keeps ?_
          | refine bumpTo_keeps ?_ | refine keeps_ite_else ?_ (fun _ => ?_) | refine keeps_ite_fst ?_ ?_
    | dsimp only
    | split

theorem execCanFrame_keeps {s₀ : State} {c : Fin 2} {hdr : CanHeader} {bytes : List Byte} {s : State} (hk :
    State.Keeps s₀ s) : OutKeeps s₀ (execCanFrame c hdr bytes s) := by
  unfold execCanFrame
  repeat' first
    | with_reducible
        first
          | assumption | refine outKeeps_next ?_ | refine snsCountErr_keeps ?_ | refine ringRecord_keeps ?_
          | refine keeps_ite_else ?_ (fun _ => ?_)
    | dsimp only
    | split

theorem execEthernetFrame_keeps {s₀ : State} {port : Fin 2} {bytes : List Byte} {fcsOk : Bool} {ptp : Option PtpServo}
    {s : State} (hk : State.Keeps s₀ s) : OutKeeps s₀ (execEthernetFrame port bytes fcsOk ptp s) := by
  unfold execEthernetFrame
  repeat' first
    | with_reducible
        first
          | assumption | refine outKeeps_next ?_ | refine snsCountErr_keeps ?_ | refine ptpServo_keeps ?_
          | refine ringRecord_keeps ?_ | refine keeps_ite_else ?_ (fun _ => ?_)
    | dsimp only
    | split

theorem execFrameEnd_keeps {s₀ : State} {n : Fin 32} {s : State} (hk : State.Keeps s₀ s) : OutKeeps s₀ (execFrameEnd n
    s) := by
  unfold execFrameEnd
  repeat' first
    | with_reducible
        first
          | assumption | refine outKeeps_next ?_ | refine endFrame_keeps ?_ | refine keeps_ite_else ?_ (fun _ => ?_)
    | dsimp only
    | split

theorem execFrameStart_keeps {s₀ : State} {n : Fin 32} {s : State} (hk : State.Keeps s₀ s) : OutKeeps s₀
    (execFrameStart n s) := by
  unfold execFrameStart
  repeat' first
    | with_reducible
        first
          | assumption | refine outKeeps_next ?_ | refine endFrame_keeps ?_ | refine State.modSrc_keeps ?_
          | refine lookedRelease_keeps ?_ | refine keeps_ite_else ?_ (fun _ => ?_)
    | dsimp only
    | split

theorem execLineReceived_keeps {s₀ : State} {n : Fin 32} {dt : Byte} {pixels : List (BitVec 16)} {headerOk crcOk :
    Bool} {s : State} (hk : State.Keeps s₀ s) : OutKeeps s₀ (execLineReceived n dt pixels headerOk crcOk s) := by
  unfold execLineReceived
  repeat' first
    | with_reducible
        first
          | assumption | refine outKeeps_next ?_ | refine snsCountErr_keeps ?_ | refine State.modSrc_keeps ?_
          | refine unitPut_keeps ?_ | refine keeps_ite_else ?_ (fun _ => ?_)
    | dsimp only
    | split

theorem writeSnsSrc_keeps {s₀ s : State} {n : Nat} {v : Word} (hk : State.Keeps s₀ s) : State.Keeps s₀ (writeSnsSrc s
    n v) := by
  unfold writeSnsSrc
  repeat' first
    | with_reducible
        first
          | assumption | refine State.setBit_keeps ?_ | refine State.modSrc_keeps ?_ | refine State.setReg_keeps ?_
          | refine unitRead_keeps ?_ | refine snsErr_keeps ?_ | refine keeps_ite_else ?_ (fun _ => ?_)
          | refine keeps_ite_fst ?_ ?_
    | dsimp only
    | split

theorem execSourceEnable_keeps {s₀ : State} {n : Fin 44} {s : State} (hk : State.Keeps s₀ s) : OutKeeps s₀
    (execSourceEnable n s) := by
  unfold execSourceEnable
  repeat' first
    | with_reducible
        first
          | assumption | refine outKeeps_next ?_ | refine writeSnsSrc_keeps ?_
    | dsimp only
    | split

theorem spiInstant_keeps {s₀ s : State} {k : Nat} (hk : State.Keeps s₀ s) : State.Keeps s₀ (spiInstant s k) := by
  unfold spiInstant
  repeat' first
    | with_reducible
        first
          | assumption | refine runTo_keeps ?_ | refine State.modSrc_keeps ?_ | refine keeps_ite_else ?_ (fun _ => ?_)
    | dsimp only
    | split

theorem execSpiDataReady_keeps {s₀ : State} {n : Fin 8} {s : State} (hk : State.Keeps s₀ s) : OutKeeps s₀
    (execSpiDataReady n s) := by
  unfold execSpiDataReady
  repeat' first
    | with_reducible
        first
          | assumption | refine outKeeps_next ?_ | refine spiInstant_keeps ?_ | refine State.modSrc_keeps ?_
          | refine keeps_ite_else ?_ (fun _ => ?_)
    | refine keeps_mk ?_; with_reducible
        first
          | assumption | refine outKeeps_next ?_ | refine spiInstant_keeps ?_ | refine State.modSrc_keeps ?_
          | refine keeps_ite_else ?_ (fun _ => ?_)
    | dsimp only
    | split

theorem execSpiTransferDone_keeps {s₀ : State} {n : Fin 8} {bytes : List Byte} {s : State} (hk : State.Keeps s₀ s) :
    OutKeeps s₀ (execSpiTransferDone n bytes s) := by
  unfold execSpiTransferDone
  repeat' first
    | with_reducible
        first
          | assumption | refine outKeeps_next ?_ | refine State.modSrc_keeps ?_ | refine ringRecord_keeps ?_
          | refine keeps_ite_else ?_ (fun _ => ?_)
    | dsimp only
    | split

theorem execTriggerEnd_keeps {s₀ : State} {n : Fin 8} {s : State} (hk : State.Keeps s₀ s) : OutKeeps s₀
    (execTriggerEnd n s) := by
  unfold execTriggerEnd
  repeat' first
    | with_reducible
        first
          | assumption | refine outKeeps_next ?_ | refine runTicks_keeps ?_ | refine keeps_ite_else ?_ (fun _ => ?_)
    | refine keeps_mk ?_; with_reducible
        first
          | assumption | refine outKeeps_next ?_ | refine runTicks_keeps ?_ | refine keeps_ite_else ?_ (fun _ => ?_)
    | dsimp only
    | split

theorem execTriggerStart_keeps {s₀ : State} {n : Fin 8} {s : State} (hk : State.Keeps s₀ s) : OutKeeps s₀
    (execTriggerStart n s) := by
  unfold execTriggerStart
  repeat' first
    | with_reducible
        first
          | assumption | refine outKeeps_next ?_ | refine runTo_keeps ?_ | refine State.setReg_keeps ?_
          | refine keeps_ite_else ?_ (fun _ => ?_)
    | refine keeps_mk ?_; with_reducible
        first
          | assumption | refine outKeeps_next ?_ | refine runTo_keeps ?_ | refine State.setReg_keeps ?_
          | refine keeps_ite_else ?_ (fun _ => ?_)
    | dsimp only
    | split

theorem stopPorts_keeps {s₀ : State} {s : State} (hk : State.Keeps s₀ s) : State.Keeps s₀ (stopPorts s) := by
  unfold stopPorts
  repeat' first
    | with_reducible
        first
          | assumption
    | refine keeps_mk ?_; with_reducible
        first
          | assumption
    | dsimp only
    | split

theorem writeTrigCtl_keeps {s₀ s : State} {n : Nat} {v : Word} (hk : State.Keeps s₀ s) : State.Keeps s₀ (writeTrigCtl
    s n v) := by
  unfold writeTrigCtl
  repeat' first
    | with_reducible
        first
          | assumption | refine State.setReg_keeps ?_ | refine keeps_ite_else ?_ (fun _ => ?_)
    | dsimp only
    | split

/-! ### Machine/Fusion.lean -/

theorem State.modFus_keeps {s₀ s : State} {f : Engine → Engine} (hk : State.Keeps s₀ s) : State.Keeps s₀ (State.modFus
    s f) := by
  unfold State.modFus
  repeat' first
    | with_reducible
        first
          | assumption
    | refine keeps_mk ?_; with_reducible
        first
          | assumption
    | dsimp only
    | split

theorem endFus_keeps {s₀ s : State} {j : UJob} {status mst : Nat} {rs : List SrcRun} (hk : State.Keeps s₀ s) :
    State.Keeps s₀ (endFus s j status mst rs) := by
  unfold endFus
  repeat' first
    | with_reducible
        first
          | assumption | refine unitPut_keeps ?_ | refine State.wrapFld_keeps ?_ | refine sticky_keeps ?_
          | refine State.satFld_keeps ?_ | refine obsEnd_keeps ?_ | refine bumpTo_keeps ?_
          | refine keeps_ite_else ?_ (fun _ => ?_)
    | dsimp only
    | split

theorem readMany_keeps {s₀ : State} {old : Snap} {s : State} {cls : Nat} {as : List Word} {n : Nat} (hk : State.Keeps
    s₀ s) : State.Keeps s₀ (readMany old s cls as n).1 := by
  unfold readMany
  repeat' first
    | with_reducible
        first
          | assumption | refine keptRead_keeps ?_ | refine keeps_ite_else ?_ (fun _ => ?_)
          | refine keeps_ite_fst ?_ ?_ | refine keeps_foldl ?_ (fun _ _ _ => ?_)
          | refine keeps_foldl_fst ?_ (fun _ _ _ => ?_)
    | dsimp only
    | split

theorem takeSource_keeps {s₀ : State} {old : Snap} {s : State} {cls : Nat} {k : PointCtx} {e : List Byte} {cursor head
    newest pixels : Nat} (hk : State.Keeps s₀ s) : State.Keeps s₀ (takeSource old s cls k e cursor head newest
    pixels).1 := by
  unfold takeSource
  repeat' first
    | with_reducible
        first
          | assumption | refine keptRead_keeps ?_ | refine keeps_ite_else ?_ (fun _ => ?_)
          | refine keeps_ite_fst ?_ ?_ | refine keeps_foldl ?_ (fun _ _ _ => ?_)
          | refine keeps_foldl_fst ?_ (fun _ _ _ => ?_)
    | dsimp only
    | split

theorem writeFus_keeps {s₀ s : State} {f : FusIn} {t : Target} {stateRec : List Byte} {rs : List SrcRun} (hk :
    State.Keeps s₀ s) : State.Keeps s₀ (writeFus s f t stateRec rs).1 := by
  unfold writeFus
  repeat' first
    | with_reducible
        first
          | assumption | refine writePieces_keeps ?_ | refine unitWrite_keeps ?_
          | refine keeps_ite_else ?_ (fun _ => ?_) | refine keeps_ite_fst ?_ ?_
    | dsimp only
    | split

theorem fuseJob_keeps {s₀ s : State} {j : UJob} {f : FusIn} {t : Target} (hk : State.Keeps s₀ s) : State.Keeps s₀
    (fuseJob s j f t) := by
  unfold fuseJob
  repeat' first
    | with_reducible
        first
          | assumption | refine readMany_keeps ?_ | refine unitRead_keeps ?_ | refine endFus_keeps ?_
          | refine takeSource_keeps ?_ | refine State.bumpFree_keeps ?_ | refine writeFus_keeps ?_
          | refine count_keeps ?_ | refine sticky_keeps ?_ | refine keeps_ite_else ?_ (fun _ => ?_)
          | refine keeps_ite_fst ?_ ?_ | refine keeps_foldl ?_ (fun _ _ _ => ?_)
          | refine keeps_foldl_fst ?_ (fun _ _ _ => ?_)
    | dsimp only
    | split

theorem execFusionEnd_keeps {s₀ : State} {s : State} (hk : State.Keeps s₀ s) : OutKeeps s₀ (execFusionEnd s) := by
  unfold execFusionEnd
  repeat' first
    | with_reducible
        first
          | assumption | refine outKeeps_next ?_ | refine State.modFus_keeps ?_ | refine endFus_keeps ?_
          | refine chargeDomain_keeps ?_ | refine fuseJob_keeps ?_ | refine keeps_ite_else ?_ (fun _ => ?_)
    | dsimp only
    | split

theorem execFusionLaunch_keeps {s₀ : State} {seq : Fin 16} {node : Nat} {s : State} (hk : State.Keeps s₀ s) : OutKeeps
    s₀ (execFusionLaunch seq node s) := by
  unfold execFusionLaunch
  repeat' first
    | with_reducible
        first
          | assumption | refine outKeeps_next ?_ | refine reportFull_keeps ?_
          | refine takeLaunch_keeps ?_ _ (by assumption) | refine keeps_ite_else ?_ (fun _ => ?_)
    | refine keeps_mk ?_; with_reducible
        first
          | assumption | refine outKeeps_next ?_ | refine reportFull_keeps ?_
          | refine takeLaunch_keeps ?_ _ (by assumption) | refine keeps_ite_else ?_ (fun _ => ?_)
    | dsimp only
    | split

theorem readFus_keeps {s₀ s : State} {cls : Nat} {raw : List Byte} (hk : State.Keeps s₀ s) : State.Keeps s₀ (readFus s
    cls raw).1 := by
  unfold readFus
  repeat' first
    | with_reducible
        first
          | assumption | refine unitRead_keeps ?_ | refine readMany_keeps ?_ | refine keeps_ite_else ?_ (fun _ => ?_)
          | refine keeps_ite_fst ?_ ?_
    | dsimp only
    | split

theorem takeFus_keeps {s₀ : State} {s : State} {r : QRun} (hk : State.Keeps s₀ s) : State.Keeps s₀ (takeFus s r) := by
  unfold takeFus
  repeat' first
    | with_reducible
        first
          | assumption | refine obsStart_keeps ?_ | refine unitRead_keeps ?_ | refine endFus_keeps ?_
          | refine readFus_keeps ?_ | refine State.modFus_keeps ?_ | refine keeps_ite_else ?_ (fun _ => ?_)
          | refine keeps_ite_fst ?_ ?_
    | dsimp only
    | split

theorem nextFus_keeps {s₀ : State} {s : State} (hk : State.Keeps s₀ s) : State.Keeps s₀ (nextFus s) := by
  unfold nextFus
  repeat' first
    | with_reducible
        first
          | assumption | refine obsSlice_keeps ?_ | refine State.modFus_keeps ?_ | refine takeFus_keeps ?_
          | refine keeps_ite_else ?_ (fun _ => ?_)
    | refine keeps_mk ?_; with_reducible
        first
          | assumption | refine obsSlice_keeps ?_ | refine State.modFus_keeps ?_ | refine takeFus_keeps ?_
          | refine keeps_ite_else ?_ (fun _ => ?_)
    | dsimp only
    | split

theorem execFusionTake_keeps {s₀ : State} {s : State} (hk : State.Keeps s₀ s) : OutKeeps s₀ (execFusionTake s) := by
  unfold execFusionTake
  repeat' first
    | with_reducible
        first
          | assumption | refine outKeeps_next ?_ | refine nextFus_keeps ?_ | refine keeps_ite_else ?_ (fun _ => ?_)
    | dsimp only
    | split

theorem sliceFus_keeps {s₀ : State} {s : State} (hk : State.Keeps s₀ s) : State.Keeps s₀ (sliceFus s) := by
  unfold sliceFus
  repeat' first
    | with_reducible
        first
          | assumption | refine State.modFus_keeps ?_ | refine endFus_keeps ?_ | refine nextFus_keeps ?_
          | refine keeps_ite_else ?_ (fun _ => ?_) | refine keeps_foldl ?_ (fun _ _ _ => ?_)
          | refine keeps_foldl_fst ?_ (fun _ _ _ => ?_)
    | dsimp only
    | split

/-! ### Machine/Slices.lean -/

theorem execSliceBoundary_keeps {s₀ : State} {unit : SliceUnit} {s : State} (hk : State.Keeps s₀ s) : OutKeeps s₀
    (execSliceBoundary unit s) := by
  unfold execSliceBoundary
  repeat' first
    | with_reducible
        first
          | assumption | refine outKeeps_next ?_ | refine sliceVis_keeps ?_ | refine sliceFus_keeps ?_
          | refine sliceSlv_keeps ?_
    | dsimp only
    | split

end Sys2Proof.Machine
end

