-- ==== Sys2Proof/Laws/KeepsSystem.lean ====
section
/-! SUPPORT. What the fabric, resets, power, the filter chain, integrity, security, observation commands, the endpoint, the boot and register writes keep of a state: one lemma
for each function, cited by those of the functions that call it. -/

set_option Elab.async false
set_option linter.unusedTactic false
set_option linter.unreachableTactic false

namespace Sys2Proof.Machine

/-! ### Machine/Fabric.lean -/

theorem sendCtl_keeps {s₀ s : State} {l ftype buf freed : Nat} (hk : State.Keeps s₀ s) : State.Keeps s₀ (sendCtl s l
    ftype buf freed) := by
  unfold sendCtl
  repeat' first
    | with_reducible
        first
          | assumption | refine State.modLink_keeps ?_
    | dsimp only
    | split

theorem discardFlit_keeps {s₀ s : State} {l : Nat} (hk : State.Keeps s₀ s) : State.Keeps s₀ (discardFlit s l) := by
  unfold discardFlit
  repeat' first
    | with_reducible
        first
          | assumption | refine sendCtl_keeps ?_
    | dsimp only
    | split

theorem linkErr_keeps {s₀ s : State} {l bit : Nat} (hk : State.Keeps s₀ s) : State.Keeps s₀ (linkErr s l bit) := by
  unfold linkErr
  repeat' first
    | with_reducible
        first
          | assumption | refine sticky_keeps ?_
    | dsimp only
    | split

theorem badFlit_keeps {s₀ : State} {s : State} {l : Nat} (hk : State.Keeps s₀ s) : State.Keeps s₀ (badFlit s l) := by
  unfold badFlit
  repeat' first
    | with_reducible
        first
          | assumption | refine discardFlit_keeps ?_ | refine linkErr_keeps ?_ | refine State.satFld_keeps ?_
    | dsimp only
    | split

theorem cancelWatch_keeps {s₀ s : State} {node tag : Nat} (hk : State.Keeps s₀ s) : State.Keeps s₀ (cancelWatch s node
    tag) := by
  unfold cancelWatch
  repeat' first
    | with_reducible
        first
          | assumption
    | refine keeps_mk ?_; with_reducible
        first
          | assumption
    | dsimp only
    | split

theorem markSent_keeps {s₀ s : State} {tag : BitVec 32} (hk : State.Keeps s₀ s) : State.Keeps s₀ (markSent s tag) :=
    by
  unfold markSent
  repeat' first
    | with_reducible
        first
          | assumption | refine keeps_ite_else ?_ (fun _ => ?_)
    | refine keeps_mk ?_; with_reducible
        first
          | assumption | refine keeps_ite_else ?_ (fun _ => ?_)
    | dsimp only
    | split

theorem failOwn_keeps {s₀ s : State} {tag : BitVec 32} {status : Nat} (hk : State.Keeps s₀ s) : State.Keeps s₀
    (failOwn s tag status) := by
  unfold failOwn
  repeat' first
    | with_reducible
        first
          | assumption | refine failOp_keeps ?_
    | dsimp only
    | split

theorem dropPacket_keeps {s₀ s : State} {p : Packet} {status : Nat} (hk : State.Keeps s₀ s) : State.Keeps s₀
    (dropPacket s p status) := by
  unfold dropPacket
  repeat' first
    | with_reducible
        first
          | assumption | refine State.satFld_keeps ?_ | refine failOwn_keeps ?_ | refine sendPacket_keeps ?_
          | refine keeps_ite_else ?_ (fun _ => ?_) | refine keeps_ite_fst ?_ ?_
    | dsimp only
    | split

theorem retryHeld_keeps {s₀ s : State} {h : Held} (hk : State.Keeps s₀ s) : State.Keeps s₀ (retryHeld s h) := by
  unfold retryHeld
  repeat' first
    | with_reducible
        first
          | assumption | refine sendPacket_keeps ?_ | refine markSent_keeps ?_ | refine failOwn_keeps ?_
          | refine dropPacket_keeps ?_ | refine keeps_ite_else ?_ (fun _ => ?_) | refine keeps_ite_fst ?_ ?_
    | dsimp only
    | split

theorem sendHeld_keeps {s₀ : State} {s : State} (hk : State.Keeps s₀ s) : State.Keeps s₀ (sendHeld s) := by
  unfold sendHeld
  repeat' first
    | with_reducible
        first
          | assumption | refine retryHeld_keeps ?_ | refine keeps_foldl ?_ (fun _ _ _ => ?_)
          | refine keeps_foldl_fst ?_ (fun _ _ _ => ?_)
    | refine keeps_mk ?_; with_reducible
        first
          | assumption | refine retryHeld_keeps ?_ | refine keeps_foldl ?_ (fun _ _ _ => ?_)
          | refine keeps_foldl_fst ?_ (fun _ _ _ => ?_)
    | dsimp only
    | split

theorem loseLink_keeps {s₀ s : State} {l : Nat} (hk : State.Keeps s₀ s) : State.Keeps s₀ (loseLink s l) := by
  unfold loseLink
  repeat' first
    | with_reducible
        first
          | assumption | refine State.modLink_keeps ?_ | refine dropPacket_keeps ?_
          | refine keeps_foldl ?_ (fun _ _ _ => ?_) | refine keeps_foldl_fst ?_ (fun _ _ _ => ?_)
    | dsimp only
    | split

theorem setLinkState_keeps {s₀ s : State} {l st : Nat} (hk : State.Keeps s₀ s) : State.Keeps s₀ (setLinkState s l st)
    := by
  unfold setLinkState
  repeat' first
    | with_reducible
        first
          | assumption | refine State.setFld_keeps ?_ | refine State.setBit_keeps ?_
    | dsimp only
    | split

theorem downLink_keeps {s₀ s : State} {l : Nat} (hk : State.Keeps s₀ s) : State.Keeps s₀ (downLink s l) := by
  unfold downLink
  repeat' first
    | with_reducible
        first
          | assumption | refine sendHeld_keeps ?_ | refine loseLink_keeps ?_ | refine setLinkState_keeps ?_
          | refine keeps_ite_else ?_ (fun _ => ?_)
    | dsimp only
    | split

theorem execAltWaitEnd_keeps {s₀ : State} {dst : BitVec 10} {s : State} (hk : State.Keeps s₀ s) : OutKeeps s₀
    (execAltWaitEnd dst s) := by
  unfold execAltWaitEnd
  repeat' first
    | with_reducible
        first
          | assumption | refine outKeeps_next ?_ | refine sendHeld_keeps ?_ | refine keeps_ite_else ?_ (fun _ => ?_)
    | refine keeps_mk ?_; with_reducible
        first
          | assumption | refine outKeeps_next ?_ | refine sendHeld_keeps ?_ | refine keeps_ite_else ?_ (fun _ => ?_)
    | dsimp only
    | split

theorem lateAnswer_keeps {s₀ s : State} {tag : BitVec 32} (hk : State.Keeps s₀ s) : State.Keeps s₀ (lateAnswer s tag)
    := by
  unfold lateAnswer
  repeat' first
    | with_reducible
        first
          | assumption | refine State.satFld_keeps ?_ | refine keeps_ite_else ?_ (fun _ => ?_)
    | dsimp only
    | split

theorem execFailureNotice_keeps {s₀ : State} {tag : BitVec 32} {status : Byte} {s : State} (hk : State.Keeps s₀ s) :
    OutKeeps s₀ (execFailureNotice tag status s) := by
  unfold execFailureNotice
  repeat' first
    | with_reducible
        first
          | assumption | refine outKeeps_next ?_ | refine failOp_keeps ?_ | refine lateAnswer_keeps ?_
    | dsimp only
    | split

theorem takeAck_keeps {s₀ s : State} {l ack : Nat} (hk : State.Keeps s₀ s) : State.Keeps s₀ (takeAck s l ack) := by
  unfold takeAck
  repeat' first
    | with_reducible
        first
          | assumption | refine pump_keeps ?_ | refine State.modLink_keeps ?_ | refine keeps_ite_else ?_ (fun _ => ?_)
    | dsimp only
    | split

theorem failLink_keeps {s₀ s : State} {l reason : Nat} (hk : State.Keeps s₀ s) : State.Keeps s₀ (failLink s l reason)
    := by
  unfold failLink
  repeat' first
    | with_reducible
        first
          | assumption | refine State.setFld_keeps ?_ | refine setLinkState_keeps ?_ | refine State.satFld_keeps ?_
          | refine raise_keeps ?_ | refine linkErr_keeps ?_ | refine freezeCause_keeps ?_ | refine obsEvent_keeps ?_
          | refine sendHeld_keeps ?_ | refine loseLink_keeps ?_
    | dsimp only
    | split

theorem replayLink_keeps {s₀ s : State} {l : Nat} (hk : State.Keeps s₀ s) : State.Keeps s₀ (replayLink s l) := by
  unfold replayLink
  repeat' first
    | with_reducible
        first
          | assumption | refine failLink_keeps ?_ | refine State.modLink_keeps ?_ | refine count_keeps ?_
          | refine State.wrapFld_keeps ?_ | refine obsEvent_keeps ?_ | refine linkErr_keeps ?_
          | refine keeps_ite_else ?_ (fun _ => ?_)
    | dsimp only
    | split

theorem nakLink_keeps {s₀ s : State} {l ack : Nat} (hk : State.Keeps s₀ s) : State.Keeps s₀ (nakLink s l ack) := by
  unfold nakLink
  repeat' first
    | with_reducible
        first
          | assumption | refine replayLink_keeps ?_ | refine takeAck_keeps ?_ | refine keeps_ite_else ?_ (fun _ => ?_)
    | dsimp only
    | split

theorem goodFlit_keeps {s₀ s : State} {l : Nat} {b : List Byte} (hk : State.Keeps s₀ s) : State.Keeps s₀ (goodFlit s l
    b) := by
  unfold goodFlit
  repeat' first
    | with_reducible
        first
          | assumption | refine takeAck_keeps ?_ | refine pump_keeps ?_ | refine State.modLink_keeps ?_
          | refine count_keeps ?_ | refine sendCtl_keeps ?_ | refine discardFlit_keeps ?_ | refine nakLink_keeps ?_
          | refine keeps_ite_else ?_ (fun _ => ?_)
    | dsimp only
    | split

theorem execFlitReceive_keeps {s₀ : State} {l : Fin 8} {bytes : List Byte} {s : State} (hk : State.Keeps s₀ s) :
    OutKeeps s₀ (execFlitReceive l bytes s) := by
  unfold execFlitReceive
  repeat' first
    | with_reducible
        first
          | assumption | refine outKeeps_next ?_ | refine badFlit_keeps ?_ | refine goodFlit_keeps ?_
          | refine keeps_ite_else ?_ (fun _ => ?_)
    | dsimp only
    | split

theorem execHoldTimeout_keeps {s₀ : State} {dst : BitVec 10} {s : State} (hk : State.Keeps s₀ s) : OutKeeps s₀
    (execHoldTimeout dst s) := by
  unfold execHoldTimeout
  repeat' first
    | with_reducible
        first
          | assumption | refine outKeeps_next ?_ | refine failOwn_keeps ?_ | refine dropPacket_keeps ?_
          | refine keeps_ite_else ?_ (fun _ => ?_)
    | refine keeps_mk ?_; with_reducible
        first
          | assumption | refine outKeeps_next ?_ | refine failOwn_keeps ?_ | refine dropPacket_keeps ?_
          | refine keeps_ite_else ?_ (fun _ => ?_)
    | dsimp only
    | split

theorem startTraining_keeps {s₀ s : State} {l : Nat} (hk : State.Keeps s₀ s) : State.Keeps s₀ (startTraining s l) :=
    by
  unfold startTraining
  repeat' first
    | with_reducible
        first
          | assumption | refine setLinkState_keeps ?_ | refine keeps_ite_else ?_ (fun _ => ?_)
    | dsimp only
    | split

theorem writeLinkCtl_keeps {s₀ s : State} {l : Nat} {v : Word} (hk : State.Keeps s₀ s) : State.Keeps s₀ (writeLinkCtl
    s l v) := by
  unfold writeLinkCtl
  repeat' first
    | with_reducible
        first
          | assumption | refine State.setReg_keeps ?_ | refine startTraining_keeps ?_ | refine downLink_keeps ?_
          | refine keeps_ite_else ?_ (fun _ => ?_)
    | dsimp only
    | split

theorem execLinkDisable_keeps {s₀ : State} {l : Fin 8} {s : State} (hk : State.Keeps s₀ s) : OutKeeps s₀
    (execLinkDisable l s) := by
  unfold execLinkDisable
  repeat' first
    | with_reducible
        first
          | assumption | refine outKeeps_next ?_ | refine writeLinkCtl_keeps ?_
    | dsimp only
    | split

theorem execLinkEnable_keeps {s₀ : State} {l : Fin 8} {s : State} (hk : State.Keeps s₀ s) : OutKeeps s₀
    (execLinkEnable l s) := by
  unfold execLinkEnable
  repeat' first
    | with_reducible
        first
          | assumption | refine outKeeps_next ?_ | refine writeLinkCtl_keeps ?_
    | dsimp only
    | split

theorem execLinkRetrain_keeps {s₀ : State} {l : Fin 8} {s : State} (hk : State.Keeps s₀ s) : OutKeeps s₀
    (execLinkRetrain l s) := by
  unfold execLinkRetrain
  repeat' first
    | with_reducible
        first
          | assumption | refine outKeeps_next ?_ | refine writeLinkCtl_keeps ?_
          | refine keeps_ite_else ?_ (fun _ => ?_)
    | dsimp only
    | split

theorem execLinkSilence_keeps {s₀ : State} {l : Fin 8} {s : State} (hk : State.Keeps s₀ s) : OutKeeps s₀
    (execLinkSilence l s) := by
  unfold execLinkSilence
  repeat' first
    | with_reducible
        first
          | assumption | refine outKeeps_next ?_ | refine failLink_keeps ?_ | refine keeps_ite_else ?_ (fun _ => ?_)
    | dsimp only
    | split

theorem execNak_keeps {s₀ : State} {l : Fin 8} {ack : BitVec 16} {s : State} (hk : State.Keeps s₀ s) : OutKeeps s₀
    (execNak l ack s) := by
  unfold execNak
  repeat' first
    | with_reducible
        first
          | assumption | refine outKeeps_next ?_ | refine nakLink_keeps ?_
    | dsimp only
    | split

theorem execReplayTimeout_keeps {s₀ : State} {l : Fin 8} {s : State} (hk : State.Keeps s₀ s) : OutKeeps s₀
    (execReplayTimeout l s) := by
  unfold execReplayTimeout
  repeat' first
    | with_reducible
        first
          | assumption | refine outKeeps_next ?_ | refine replayLink_keeps ?_ | refine keeps_ite_else ?_ (fun _ => ?_)
    | dsimp only
    | split

theorem execTrainingComplete_keeps {s₀ : State} {l : Fin 8} {peer : BitVec 10} {s : State} (hk : State.Keeps s₀ s) :
    OutKeeps s₀ (execTrainingComplete l peer s) := by
  unfold execTrainingComplete
  repeat' first
    | with_reducible
        first
          | assumption | refine outKeeps_next ?_ | refine linkErr_keeps ?_ | refine State.setFld_keeps ?_
          | refine setLinkState_keeps ?_ | refine State.modLink_keeps ?_ | refine sendHeld_keeps ?_
          | refine pump_keeps ?_ | refine keeps_ite_else ?_ (fun _ => ?_)
    | dsimp only
    | split

theorem execTrainingTimeout_keeps {s₀ : State} {l : Fin 8} {laneFailed : Bool} {s : State} (hk : State.Keeps s₀ s) :
    OutKeeps s₀ (execTrainingTimeout l laneFailed s) := by
  unfold execTrainingTimeout
  repeat' first
    | with_reducible
        first
          | assumption | refine outKeeps_next ?_ | refine failLink_keeps ?_ | refine keeps_ite_else ?_ (fun _ => ?_)
    | dsimp only
    | split

theorem execWatchCancel_keeps {s₀ : State} {node : BitVec 10} {tag : BitVec 32} {s : State} (hk : State.Keeps s₀ s) :
    OutKeeps s₀ (execWatchCancel node tag s) := by
  unfold execWatchCancel
  repeat' first
    | with_reducible
        first
          | assumption | refine outKeeps_next ?_ | refine cancelWatch_keeps ?_
    | dsimp only
    | split

theorem execWatchConfirm_keeps {s₀ : State} {tag : BitVec 32} {s : State} (hk : State.Keeps s₀ s) : OutKeeps s₀
    (execWatchConfirm tag s) := by
  unfold execWatchConfirm
  repeat' first
    | with_reducible
        first
          | assumption | refine outKeeps_next ?_ | refine keeps_ite_else ?_ (fun _ => ?_)
    | refine keeps_mk ?_; with_reducible
        first
          | assumption | refine outKeeps_next ?_ | refine keeps_ite_else ?_ (fun _ => ?_)
    | dsimp only
    | split

theorem execWatchConfirmLoss_keeps {s₀ : State} {tag : BitVec 32} {s : State} (hk : State.Keeps s₀ s) : OutKeeps s₀
    (execWatchConfirmLoss tag s) := by
  unfold execWatchConfirmLoss
  repeat' first
    | with_reducible
        first
          | assumption | refine outKeeps_next ?_ | refine failOp_keeps ?_ | refine sendPacket_keeps ?_
          | refine keeps_ite_else ?_ (fun _ => ?_) | refine keeps_ite_fst ?_ ?_
    | dsimp only
    | split

theorem forwardPacket_keeps {s₀ s : State} {p : Packet} {vl : Bool} (hk : State.Keeps s₀ s) : State.Keeps s₀
    (forwardPacket s p vl) := by
  unfold forwardPacket
  repeat' first
    | with_reducible
        first
          | assumption | refine dropPacket_keeps ?_ | refine State.bumpFree_keeps ?_ | refine sendPacket_keeps ?_
          | refine keeps_ite_else ?_ (fun _ => ?_) | refine keeps_ite_fst ?_ ?_
    | dsimp only
    | split

theorem idleLinks_keeps {s₀ : State} {s : State} (hk : State.Keeps s₀ s) : State.Keeps s₀ (idleLinks s) := by
  unfold idleLinks
  repeat' first
    | with_reducible
        first
          | assumption | refine setLinkState_keeps ?_ | refine keeps_ite_else ?_ (fun _ => ?_)
          | refine keeps_foldl ?_ (fun _ _ _ => ?_) | refine keeps_foldl_fst ?_ (fun _ _ _ => ?_)
    | dsimp only
    | split

theorem wakeLinks_keeps {s₀ : State} {s : State} (hk : State.Keeps s₀ s) : State.Keeps s₀ (wakeLinks s) := by
  unfold wakeLinks
  repeat' first
    | with_reducible
        first
          | assumption | refine startTraining_keeps ?_ | refine keeps_foldl ?_ (fun _ _ _ => ?_)
          | refine keeps_foldl_fst ?_ (fun _ _ _ => ?_)
    | dsimp only
    | split

/-! ### Machine/Reset.lean -/

theorem showSec_keeps {s₀ : State} {s : State} (hk : State.Keeps s₀ s) : State.Keeps s₀ (showSec s) := by
  unfold showSec
  repeat' first
    | with_reducible
        first
          | assumption | refine State.setFld_keeps ?_ | refine State.setReg_keeps ?_
          | refine keeps_foldl ?_ (fun _ _ _ => ?_) | refine keeps_foldl_fst ?_ (fun _ _ _ => ?_)
    | dsimp only
    | split

theorem beginStart_keeps {s₀ s : State} {kind phase : Nat} (hk : State.Keeps s₀ s) :
    State.Keeps s₀ (beginStart s kind phase) := by
  unfold beginStart
  extract_lets
  refine showSec_keeps (State.setFld_keeps (State.setFld_keeps (hk.trans ⟨fun i => ⟨⟨i.1.1, i.1.2, i.1.3⟩, ⟨i.2.1, i.2.2, i.2.3, i.2.4, i.2.5, i.2.6, i.2.7, i.2.8, i.2.9, i.2.10, i.2.11, i.2.12⟩,
    ⟨Nat.le_refl _, i.3.2, i.3.3, i.3.4⟩⟩, rfl, fun i => ?_, Nat.le_refl _⟩)))
  exact ⟨Nat.le_refl _, i.3.1, Nat.le_refl _, Nat.le_refl _, fun _ x h => ⟨x, h, id, id, fun _ => rfl⟩, rfl, rfl, rfl,
    rfl, rfl⟩

theorem dropMemory_keeps {s₀ s : State} (hk : State.Keeps s₀ s) : State.Keeps s₀ (dropMemory s) := by
  unfold dropMemory
  exact hk.trans ⟨fun i => ⟨⟨keptCells_wf (F := keptFills s.fills (fun r => decide (2 ≤ r))) (keep := fun a => decide (2 ≤ regionOf a)) i.1.1 rfl rfl, i.1.2, i.1.3⟩, ⟨i.2.1, i.2.2, i.2.3, i.2.4, i.2.5, i.2.6, i.2.7, i.2.8, i.2.9, i.2.10, i.2.11, i.2.12⟩, i.3⟩, rfl, fun _ => .refl _, Nat.le_refl _⟩

theorem levelFall_keeps {s₀ : State} {s : State} (hk : State.Keeps s₀ s) : State.Keeps s₀ (levelFall s) := by
  unfold levelFall
  repeat' first
    | with_reducible
        first
          | assumption | refine State.setTrBuf_keeps ?_ | refine State.setFld_keeps ?_
          | refine keeps_ite_else ?_ (fun _ => ?_) | refine keeps_foldl ?_ (fun _ _ _ => ?_)
          | refine keeps_foldl_fst ?_ (fun _ _ _ => ?_)
    | dsimp only
    | split

theorem showHeld_keeps {s₀ : State} {s : State} (hk : State.Keeps s₀ s) : State.Keeps s₀ (showHeld s) := by
  unfold showHeld
  repeat' first
    | with_reducible
        first
          | assumption | refine raise_keeps ?_ | refine State.setBit_keeps ?_ | refine keeps_ite_else ?_ (fun _ => ?_)
    | dsimp only
    | split

theorem setLevel_keeps {s₀ s : State} {lvl mask until_ : Nat} (hk : State.Keeps s₀ s) : State.Keeps s₀ (setLevel s lvl
    mask until_) := by
  unfold setLevel
  repeat' first
    | with_reducible
        first
          | assumption | refine State.setFld_keeps ?_ | refine State.setReg_keeps ?_ | refine levelFall_keeps ?_
          | refine showHeld_keeps ?_ | refine showSec_keeps ?_ | refine raise_keeps ?_
          | refine keeps_ite_else ?_ (fun _ => ?_)
    | refine keeps_mk ?_; with_reducible
        first
          | assumption | refine State.setFld_keeps ?_ | refine State.setReg_keeps ?_ | refine levelFall_keeps ?_
          | refine showHeld_keeps ?_ | refine showSec_keeps ?_ | refine raise_keeps ?_
          | refine keeps_ite_else ?_ (fun _ => ?_)
    | dsimp only
    | split

theorem endSession_keeps {s₀ : State} {s : State} (hk : State.Keeps s₀ s) : State.Keeps s₀ (endSession s) := by
  unfold endSession
  repeat' first
    | with_reducible
        first
          | assumption | refine sticky_keeps ?_ | refine setLevel_keeps ?_ | refine keeps_ite_else ?_ (fun _ => ?_)
    | dsimp only
    | split

theorem keepObjects_keeps {s₀ : State} {s : State} (hk : State.Keeps s₀ s) : State.Keeps s₀ (keepObjects s) := by
  unfold keepObjects
  repeat' first
    | with_reducible
        first
          | assumption | refine State.fillRange_keeps ?_ | refine keeps_ite_else ?_ (fun _ => ?_)
          | refine keeps_foldl ?_ (fun _ _ _ => ?_) | refine keeps_foldl_fst ?_ (fun _ _ _ => ?_)
    | refine keeps_mk ?_; with_reducible
        first
          | assumption | refine State.fillRange_keeps ?_ | refine keeps_ite_else ?_ (fun _ => ?_)
          | refine keeps_foldl ?_ (fun _ _ _ => ?_) | refine keeps_foldl_fst ?_ (fun _ _ _ => ?_)
    | dsimp only
    | split

theorem porReset_keeps {s₀ s : State} (hk : State.Keeps s₀ s) : State.Keeps s₀ (porReset s) := by
  unfold porReset
  extract_lets
  exact showSec_keeps (State.setBit_keeps (hk.trans ⟨fun i => ⟨⟨keptCells_wf (F := keptFills s.fills (· == 3)) (keep := fun a => regionOf a == 3) i.1.1 rfl rfl, rfl, i.1.3⟩, ⟨rfl, rfl, rfl, rfl, rfl, rfl, rfl, rfl, rfl, rfl, rfl, i.2.12⟩, i.3⟩, rfl,
    fun _ => .refl _, Nat.le_refl _⟩))

theorem resetDomain_keeps {s₀ s : State} (hk : State.Keeps s₀ s) : State.Keeps s₀ (resetDomain s) := by
  unfold resetDomain
  extract_lets
  exact showSec_keeps (State.setBit_keeps (State.setBit_keeps (State.setFld_keeps (State.fillRange_keeps
    (hk.trans ⟨fun i => ⟨⟨keptCells_wf (F := keptFills s.fills (· != 2)) (keep := fun a => regionOf a != 2) i.1.1 rfl rfl, keptRegs_wf i.1.2, i.1.3⟩, ⟨rfl, rfl, rfl, rfl, rfl, rfl, rfl, rfl, rfl, rfl, rfl, i.2.12⟩, i.3⟩, rfl, fun _ => .refl _,
    Nat.le_add_right _ _⟩)))))

/-! ### Machine/Power.lean -/

theorem nextStep_keeps {s₀ : State} {s : State} (hk : State.Keeps s₀ s) : State.Keeps s₀ (nextStep s) := by
  unfold nextStep
  repeat' first
    | with_reducible
        first
          | assumption | refine showHeld_keeps ?_ | refine keeps_ite_else ?_ (fun _ => ?_)
    | refine keeps_mk ?_; with_reducible
        first
          | assumption | refine showHeld_keeps ?_ | refine keeps_ite_else ?_ (fun _ => ?_)
    | dsimp only
    | split

theorem startDrain_keeps {s₀ : State} {s : State} (hk : State.Keeps s₀ s) : State.Keeps s₀ (startDrain s) := by
  unfold startDrain
  repeat' first
    | with_reducible
        first
          | assumption | refine nextStep_keeps ?_ | refine sticky_keeps ?_ | refine State.setBit_keeps ?_
    | dsimp only
    | split

theorem brownoutRequest_keeps {s₀ s : State} (hk : State.Keeps s₀ s) : State.Keeps s₀ (brownoutRequest s) := by
  unfold brownoutRequest
  repeat' first
    | with_reducible
        first
          | assumption | refine State.satFld_keeps ?_ | refine sticky_keeps ?_ | refine State.setBit_keeps ?_
          | refine showHeld_keeps ?_ | refine startDrain_keeps ?_ | refine keeps_ite_else ?_ (fun _ => ?_)
    | refine keeps_mk ?_; with_reducible
        first
          | assumption | refine State.satFld_keeps ?_ | refine sticky_keeps ?_ | refine State.setBit_keeps ?_
          | refine showHeld_keeps ?_ | refine startDrain_keeps ?_ | refine keeps_ite_else ?_ (fun _ => ?_)
    | dsimp only
    | split

theorem endBrownout_keeps {s₀ : State} {s : State} (hk : State.Keeps s₀ s) : State.Keeps s₀ (endBrownout s) := by
  unfold endBrownout
  repeat' first
    | with_reducible
        first
          | assumption | refine State.setBit_keeps ?_ | refine nextStep_keeps ?_ | refine sticky_keeps ?_
          | refine keeps_ite_else ?_ (fun _ => ?_)
    | dsimp only
    | split

theorem enterPower_keeps {s₀ s : State} {p : Nat} (hk : State.Keeps s₀ s) : State.Keeps s₀ (enterPower s p) := by
  unfold enterPower
  repeat' first
    | with_reducible
        first
          | assumption | refine nextStep_keeps ?_ | refine showHeld_keeps ?_ | refine raise_keeps ?_
          | refine State.setFld_keeps ?_
    | refine keeps_mk ?_; with_reducible
        first
          | assumption | refine nextStep_keeps ?_ | refine showHeld_keeps ?_ | refine raise_keeps ?_
          | refine State.setFld_keeps ?_
    | dsimp only
    | split

theorem execAonLoss_keeps {s₀ : State} {s : State} (hk : State.Keeps s₀ s) : OutKeeps s₀ (execAonLoss s) := by
  unfold execAonLoss
  repeat' first
    | with_reducible
        first
          | assumption | refine outKeeps_next ?_ | refine porReset_keeps ?_
    | refine keeps_mk ?_; with_reducible
        first
          | assumption | refine outKeeps_next ?_ | refine porReset_keeps ?_
    | dsimp only
    | split

theorem latchBit_keeps {s₀ s : State} {i : Nat} (hk : State.Keeps s₀ s) : State.Keeps s₀ (latchBit s i) := by
  unfold latchBit
  repeat' first
    | with_reducible
        first
          | assumption | refine State.setBit_keeps ?_
    | dsimp only
    | split

theorem execAsyncLatch_keeps {s₀ : State} {bit : Fin 27} {s : State} (hk : State.Keeps s₀ s) : OutKeeps s₀
    (execAsyncLatch bit s) := by
  unfold execAsyncLatch
  repeat' first
    | with_reducible
        first
          | assumption | refine outKeeps_next ?_ | refine latchBit_keeps ?_ | refine keeps_ite_else ?_ (fun _ => ?_)
    | dsimp only
    | split

theorem execBrownoutDrain_keeps {s₀ s : State} (hk : State.Keeps s₀ s) : OutKeeps s₀ (execBrownoutDrain s) := by
  unfold execBrownoutDrain
  repeat' first
    | with_reducible
        first
          | assumption | refine outKeeps_next ?_ | refine runTicks_keeps ?_ | refine startDrain_keeps ?_
          | refine keeps_ite_else ?_ (fun _ => ?_)
    | dsimp only
    | split

theorem execBrownoutEnd_keeps {s₀ : State} {s : State} (hk : State.Keeps s₀ s) : OutKeeps s₀ (execBrownoutEnd s) := by
  unfold execBrownoutEnd
  repeat' first
    | with_reducible
        first
          | assumption | refine outKeeps_next ?_ | refine endBrownout_keeps ?_
          | refine keeps_ite_else ?_ (fun _ => ?_)
    | refine keeps_mk ?_; with_reducible
        first
          | assumption | refine outKeeps_next ?_ | refine endBrownout_keeps ?_
          | refine keeps_ite_else ?_ (fun _ => ?_)
    | dsimp only
    | split

theorem execDroop_keeps {s₀ : State} {s : State} (hk : State.Keeps s₀ s) : OutKeeps s₀ (execDroop s) := by
  unfold execDroop
  repeat' first
    | with_reducible
        first
          | assumption | refine outKeeps_next ?_ | refine sticky_keeps ?_ | refine State.satFld_keeps ?_
          | refine keeps_ite_else ?_ (fun _ => ?_)
    | dsimp only
    | split

theorem raiseClock_keeps {s₀ : State} {s : State} (hk : State.Keeps s₀ s) : State.Keeps s₀ (raiseClock s) := by
  unfold raiseClock
  repeat' first
    | with_reducible
        first
          | assumption | refine State.setFld_keeps ?_
    | refine keeps_mk ?_; with_reducible
        first
          | assumption | refine State.setFld_keeps ?_
    | dsimp only
    | split

theorem execDvfsClockRaise_keeps {s₀ s : State} (hk : State.Keeps s₀ s) : OutKeeps s₀ (execDvfsClockRaise s) := by
  unfold execDvfsClockRaise
  repeat' first
    | with_reducible
        first
          | assumption | refine outKeeps_next ?_ | refine raiseClock_keeps ?_ | refine runTicks_keeps ?_
    | dsimp only
    | split

theorem writePoint_keeps {s₀ s : State} {v : Word} (hk : State.Keeps s₀ s) : State.Keeps s₀ (writePoint s v) := by
  unfold writePoint
  repeat' first
    | with_reducible
        first
          | assumption | refine State.setFld_keeps ?_ | refine applyPoint_keeps ?_
          | refine keeps_ite_else ?_ (fun _ => ?_)
    | refine keeps_mk ?_; with_reducible
        first
          | assumption | refine State.setFld_keeps ?_ | refine applyPoint_keeps ?_
          | refine keeps_ite_else ?_ (fun _ => ?_)
    | dsimp only
    | split

theorem execDvfsPoint_keeps {s₀ : State} {value : Word} {ack : Bool} {s : State} (hk : State.Keeps s₀ s) : OutKeeps s₀
    (execDvfsPoint value ack s) := by
  unfold execDvfsPoint
  repeat' first
    | with_reducible
        first
          | assumption | refine outKeeps_next ?_ | refine writePoint_keeps ?_
    | refine keeps_mk ?_; with_reducible
        first
          | assumption | refine outKeeps_next ?_ | refine writePoint_keeps ?_
    | dsimp only
    | split

theorem execP0ToP1_keeps {s₀ : State} {s : State} (hk : State.Keeps s₀ s) : OutKeeps s₀ (execP0ToP1 s) := by
  unfold execP0ToP1
  repeat' first
    | with_reducible
        first
          | assumption | refine outKeeps_next ?_ | refine nextStep_keeps ?_ | refine doEdge_keeps ?_
          | refine advanceTo_keeps ?_ | refine enterPower_keeps ?_ | refine keeps_ite_else ?_ (fun _ => ?_)
    | dsimp only
    | split

theorem execP1ToP0_keeps {s₀ : State} {s : State} (hk : State.Keeps s₀ s) : OutKeeps s₀ (execP1ToP0 s) := by
  unfold execP1ToP0
  repeat' first
    | with_reducible
        first
          | assumption | refine outKeeps_next ?_ | refine nextStep_keeps ?_ | refine enterPower_keeps ?_
          | refine keeps_ite_else ?_ (fun _ => ?_)
    | dsimp only
    | split

theorem idleDevice_keeps {s₀ s : State} (hk : State.Keeps s₀ s) : State.Keeps s₀ (idleDevice s) := by
  have h : ∀ t : State, State.Keeps s₀ t →
      State.Keeps s₀ { t.setBit Reg.pwrBrown 2 false with flt := t.flt.map (fun c => { c with resume := true }) } :=
    fun t h => keeps_mk (s := t.setBit Reg.pwrBrown 2 false) (State.setBit_keeps h) (h10 := List.length_map ..)
  unfold idleDevice
  extract_lets s1 s2 s3
  have h1 : State.Keeps s₀ s1 := setSync_keeps (idleLinks_keeps (stopPorts_keeps hk))
  have h2 : State.Keeps s₀ s2 := by unfold s2; split; exact h1; exact State.setBit_keeps h1
  exact h s3 (applyPower_keeps h2)

theorem execP1ToP2_keeps {s₀ : State} {s : State} (hk : State.Keeps s₀ s) : OutKeeps s₀ (execP1ToP2 s) := by
  unfold execP1ToP2
  repeat' first
    | with_reducible
        first
          | assumption | refine outKeeps_next ?_ | refine nextStep_keeps ?_ | refine enterPower_keeps ?_
          | refine idleDevice_keeps ?_ | refine keeps_ite_else ?_ (fun _ => ?_)
    | dsimp only
    | split

theorem execP2ToP1_keeps {s₀ : State} {s : State} (hk : State.Keeps s₀ s) : OutKeeps s₀ (execP2ToP1 s) := by
  unfold execP2ToP1
  repeat' first
    | with_reducible
        first
          | assumption | refine outKeeps_next ?_ | refine nextStep_keeps ?_ | refine wakeLinks_keeps ?_
          | refine restartLamp_keeps ?_ | refine enterPower_keeps ?_ | refine State.setBit_keeps ?_
          | refine keeps_ite_else ?_ (fun _ => ?_)
    | dsimp only
    | split

theorem latchRestart_keeps {s₀ : State} {s : State} (hk : State.Keeps s₀ s) : State.Keeps s₀ (latchRestart s) := by
  unfold latchRestart
  repeat' first
    | with_reducible
        first
          | assumption | refine raise_keeps ?_ | refine keeps_ite_else ?_ (fun _ => ?_)
          | refine keeps_foldl ?_ (fun _ _ _ => ?_) | refine keeps_foldl_fst ?_ (fun _ _ _ => ?_)
    | dsimp only
    | split

theorem wakeP3_keeps {s₀ s : State} {code : Nat} (hk : State.Keeps s₀ s) : State.Keeps s₀ (wakeP3 s code) := by
  unfold wakeP3
  repeat' first
    | with_reducible
        first
          | assumption | refine latchRestart_keeps ?_ | refine State.setFld_keeps ?_ | refine beginStart_keeps ?_
          | refine raise_keeps ?_
    | dsimp only
    | split

theorem execP2ToP3_keeps {s₀ : State} {s : State} (hk : State.Keeps s₀ s) : OutKeeps s₀ (execP2ToP3 s) := by
  unfold execP2ToP3
  repeat' first
    | with_reducible
        first
          | assumption | refine outKeeps_next ?_ | refine nextStep_keeps ?_ | refine State.setReg_keeps ?_
          | refine resetDomain_keeps ?_ | refine raise_keeps ?_ | refine endSession_keeps ?_
          | refine State.setFld_keeps ?_ | refine wakeP3_keeps ?_ | refine keeps_ite_else ?_ (fun _ => ?_)
    | refine keeps_mk ?_; with_reducible
        first
          | assumption | refine outKeeps_next ?_ | refine nextStep_keeps ?_ | refine State.setReg_keeps ?_
          | refine resetDomain_keeps ?_ | refine raise_keeps ?_ | refine endSession_keeps ?_
          | refine State.setFld_keeps ?_ | refine wakeP3_keeps ?_ | refine keeps_ite_else ?_ (fun _ => ?_)
    | dsimp only
    | split

theorem writeTarget_keeps {s₀ s : State} {v : Word} (hk : State.Keeps s₀ s) : State.Keeps s₀ (writeTarget s v) := by
  unfold writeTarget
  repeat' first
    | with_reducible
        first
          | assumption | refine State.setFld_keeps ?_ | refine nextStep_keeps ?_
    | refine keeps_mk ?_; with_reducible
        first
          | assumption | refine State.setFld_keeps ?_ | refine nextStep_keeps ?_
    | dsimp only
    | split

theorem execPowerTarget_keeps {s₀ : State} {value : Word} {s : State} (hk : State.Keeps s₀ s) : OutKeeps s₀
    (execPowerTarget value s) := by
  unfold execPowerTarget
  repeat' first
    | with_reducible
        first
          | assumption | refine outKeeps_next ?_ | refine writeTarget_keeps ?_
    | dsimp only
    | split

theorem throttledOf_keeps {s₀ s : State} {short : Bool} {n : Nat} (hk : State.Keeps s₀ s) : State.Keeps s₀
    (throttledOf s short n).1 := by
  unfold throttledOf
  repeat' first
    | with_reducible
        first
          | assumption | refine State.bumpFree_keeps ?_ | refine keeps_ite_else ?_ (fun _ => ?_)
          | refine keeps_ite_fst ?_ ?_
    | dsimp only
    | split

theorem powerWindow_keeps {s₀ s : State} {demands : List PowerDemand} {base : Nat} (hk : State.Keeps s₀ s) :
    State.Keeps s₀ (powerWindow s demands base) := by
  unfold powerWindow
  repeat' first
    | with_reducible
        first
          | assumption | refine exceedResv_keeps ?_ | refine throttledOf_keeps ?_ | refine State.setReg_keeps ?_
          | refine sticky_keeps ?_ | refine State.wrapFld_keeps ?_ | refine keeps_ite_else ?_ (fun _ => ?_)
          | refine keeps_ite_fst ?_ ?_ | refine keeps_foldl ?_ (fun _ _ _ => ?_)
          | refine keeps_foldl_fst ?_ (fun _ _ _ => ?_)
    | refine keeps_mk ?_; with_reducible
        first
          | assumption | refine exceedResv_keeps ?_ | refine throttledOf_keeps ?_ | refine State.setReg_keeps ?_
          | refine sticky_keeps ?_ | refine State.wrapFld_keeps ?_ | refine keeps_ite_else ?_ (fun _ => ?_)
          | refine keeps_ite_fst ?_ ?_ | refine keeps_foldl ?_ (fun _ _ _ => ?_)
          | refine keeps_foldl_fst ?_ (fun _ _ _ => ?_)
    | dsimp only
    | split

theorem execPowerWindow_keeps {s₀ : State} {demands : List PowerDemand} {base : Nat} {s : State} (hk : State.Keeps s₀
    s) : OutKeeps s₀ (execPowerWindow demands base s) := by
  unfold execPowerWindow
  repeat' first
    | with_reducible
        first
          | assumption | refine outKeeps_next ?_ | refine powerWindow_keeps ?_
          | refine keeps_ite_else ?_ (fun _ => ?_)
    | dsimp only
    | split

theorem execTempUpdate_keeps {s₀ : State} {readings : List (BitVec 16)} {s : State} (hk : State.Keeps s₀ s) : OutKeeps
    s₀ (execTempUpdate readings s) := by
  unfold execTempUpdate
  repeat' first
    | with_reducible
        first
          | assumption | refine outKeeps_next ?_ | refine pickCode_keeps ?_ | refine State.setFld_keeps ?_
          | refine keeps_ite_else ?_ (fun _ => ?_) | refine keeps_ite_fst ?_ ?_
    | refine keeps_mk ?_; with_reducible
        first
          | assumption | refine outKeeps_next ?_ | refine pickCode_keeps ?_ | refine State.setFld_keeps ?_
          | refine keeps_ite_else ?_ (fun _ => ?_) | refine keeps_ite_fst ?_ ?_
    | dsimp only
    | split

theorem execThermtrip_keeps {s₀ : State} {s : State} (hk : State.Keeps s₀ s) : OutKeeps s₀ (execThermtrip s) := by
  unfold execThermtrip
  repeat' first
    | with_reducible
        first
          | assumption | refine outKeeps_next ?_ | refine resetDomain_keeps ?_ | refine endSession_keeps ?_
    | refine keeps_mk ?_; with_reducible
        first
          | assumption | refine outKeeps_next ?_ | refine resetDomain_keeps ?_ | refine endSession_keeps ?_
    | dsimp only
    | split

theorem execVrAlert_keeps {s₀ : State} {s : State} (hk : State.Keeps s₀ s) : OutKeeps s₀ (execVrAlert s) := by
  unfold execVrAlert
  repeat' first
    | with_reducible
        first
          | assumption | refine outKeeps_next ?_ | refine brownoutRequest_keeps ?_
          | refine keeps_ite_else ?_ (fun _ => ?_)
    | refine keeps_mk ?_; with_reducible
        first
          | assumption | refine outKeeps_next ?_ | refine brownoutRequest_keeps ?_
          | refine keeps_ite_else ?_ (fun _ => ?_)
    | dsimp only
    | split

theorem wakeEvent_keeps {s₀ s : State} {cause : WakeCause} (hk : State.Keeps s₀ s) : State.Keeps s₀ (wakeEvent s
    cause) := by
  unfold wakeEvent
  repeat' first
    | with_reducible
        first
          | assumption | refine runTo_keeps ?_ | refine latchBit_keeps ?_ | refine wakeP3_keeps ?_
          | refine endBrownout_keeps ?_ | refine State.setFld_keeps ?_ | refine nextStep_keeps ?_
          | refine keeps_ite_else ?_ (fun _ => ?_)
    | refine keeps_mk ?_; with_reducible
        first
          | assumption | refine runTo_keeps ?_ | refine latchBit_keeps ?_ | refine wakeP3_keeps ?_
          | refine endBrownout_keeps ?_ | refine State.setFld_keeps ?_ | refine nextStep_keeps ?_
          | refine keeps_ite_else ?_ (fun _ => ?_)
    | dsimp only
    | split

theorem execWakeEvent_keeps {s₀ : State} {cause : WakeCause} {s : State} (hk : State.Keeps s₀ s) : OutKeeps s₀
    (execWakeEvent cause s) := by
  unfold execWakeEvent
  repeat' first
    | with_reducible
        first
          | assumption | refine outKeeps_next ?_ | refine wakeEvent_keeps ?_
    | dsimp only
    | split

/-! ### Machine/Filter.lean -/

theorem State.modChan_keeps {s₀ s : State} {n : Nat} {f : Chan → Chan} (hk : State.Keeps s₀ s) : State.Keeps s₀
    (State.modChan s n f) := by
  unfold State.modChan
  repeat' first
    | with_reducible
        first
          | assumption
    | refine keeps_mk ?_; with_reducible
        first
          | assumption
    | dsimp only
    | split

theorem swapBank_keeps {s₀ s : State} {n : Nat} (hk : State.Keeps s₀ s) : State.Keeps s₀ (swapBank s n) := by
  unfold swapBank
  repeat' first
    | with_reducible
        first
          | assumption | refine State.setBit_keeps ?_ | refine State.setFld_keeps ?_ | refine State.modChan_keeps ?_
    | dsimp only
    | split

theorem switchChan_keeps {s₀ s : State} {n : Nat} (hk : State.Keeps s₀ s) : State.Keeps s₀ (switchChan s n) := by
  unfold switchChan
  repeat' first
    | with_reducible
        first
          | assumption | refine State.modChan_keeps ?_ | refine State.setFld_keeps ?_ | refine State.setBit_keeps ?_
    | dsimp only
    | split

theorem beginSample_keeps {s₀ s : State} {n : Nat} (hk : State.Keeps s₀ s) : State.Keeps s₀ (beginSample s n) := by
  unfold beginSample
  repeat' first
    | with_reducible
        first
          | assumption | refine swapBank_keeps ?_ | refine switchChan_keeps ?_ | refine State.modChan_keeps ?_
          | refine keeps_ite_else ?_ (fun _ => ?_)
    | dsimp only
    | split

theorem downEvent_keeps {s₀ s : State} {n : Nat} (hk : State.Keeps s₀ s) : State.Keeps s₀ (downEvent s n) := by
  unfold downEvent
  repeat' first
    | with_reducible
        first
          | assumption | refine raise_keeps ?_ | refine sticky_keeps ?_ | refine brownoutRequest_keeps ?_
          | refine keeps_ite_else ?_ (fun _ => ?_)
    | dsimp only
    | split

theorem compare_keeps {s₀ s : State} {n : Nat} {v : Int} (hk : State.Keeps s₀ s) : State.Keeps s₀ (compare s n v) :=
    by
  unfold compare
  repeat' first
    | with_reducible
        first
          | assumption | refine State.modChan_keeps ?_ | refine State.setBit_keeps ?_ | refine downEvent_keeps ?_
          | refine sticky_keeps ?_ | refine keeps_ite_else ?_ (fun _ => ?_)
    | dsimp only
    | split

theorem fltErr_keeps {s₀ s : State} {bit : Nat} (hk : State.Keeps s₀ s) : State.Keeps s₀ (fltErr s bit) := by
  unfold fltErr
  repeat' first
    | with_reducible
        first
          | assumption | refine sticky_keeps ?_
    | dsimp only
    | split

theorem writeRecord_keeps {s₀ s : State} {n stamp : Nat} {unsync coarse : Bool} {value : Int} (hk : State.Keeps s₀ s)
    : State.Keeps s₀ (writeRecord s n stamp unsync coarse value) := by
  unfold writeRecord
  repeat' first
    | with_reducible
        first
          | assumption | refine State.modChan_keeps ?_ | refine unitPut_keeps ?_ | refine bumpTo_keeps ?_
    | dsimp only
    | split

theorem chanSample_keeps {s₀ s : State} {n : Nat} {v : Int} {stamp : Nat} {unsync : Bool} (hk : State.Keeps s₀ s) :
    State.Keeps s₀ (chanSample s n v stamp unsync) := by
  unfold chanSample
  repeat' first
    | with_reducible
        first
          | assumption | refine State.modChan_keeps ?_ | refine State.setFld_keeps ?_ | refine compare_keeps ?_
          | refine State.setBit_keeps ?_ | refine fltErr_keeps ?_ | refine writeRecord_keeps ?_
          | refine keeps_ite_else ?_ (fun _ => ?_)
    | dsimp only
    | split

theorem chanTakes_keeps {s₀ s : State} {n : Nat} (hk : State.Keeps s₀ s) : State.Keeps s₀ (chanTakes s n) := by
  unfold chanTakes
  repeat' first
    | with_reducible
        first
          | assumption | refine State.modChan_keeps ?_
    | dsimp only
    | split

theorem dropSample_keeps {s₀ s : State} {n : Nat} (hk : State.Keeps s₀ s) : State.Keeps s₀ (dropSample s n) := by
  unfold dropSample
  repeat' first
    | with_reducible
        first
          | assumption | refine State.modChan_keeps ?_ | refine fltErr_keeps ?_ | refine count_keeps ?_
    | dsimp only
    | split

theorem enableChan_keeps {s₀ s : State} {n : Nat} (hk : State.Keeps s₀ s) : State.Keeps s₀ (enableChan s n) := by
  unfold enableChan
  repeat' first
    | with_reducible
        first
          | assumption | refine State.setBit_keeps ?_ | refine switchChan_keeps ?_ | refine State.modChan_keeps ?_
          | refine fltErr_keeps ?_ | refine keeps_ite_else ?_ (fun _ => ?_)
    | dsimp only
    | split

theorem requestSwap_keeps {s₀ s : State} {n : Nat} (hk : State.Keeps s₀ s) : State.Keeps s₀ (requestSwap s n) := by
  unfold requestSwap
  repeat' first
    | with_reducible
        first
          | assumption | refine fltErr_keeps ?_ | refine State.setBit_keeps ?_ | refine swapBank_keeps ?_
          | refine keeps_ite_else ?_ (fun _ => ?_)
    | dsimp only
    | split

theorem writeChanCfg_keeps {s₀ s : State} {n : Nat} {v : Word} (hk : State.Keeps s₀ s) : State.Keeps s₀ (writeChanCfg
    s n v) := by
  unfold writeChanCfg
  repeat' first
    | with_reducible
        first
          | assumption | refine State.setReg_keeps ?_ | refine requestSwap_keeps ?_ | refine State.setBit_keeps ?_
          | refine swapBank_keeps ?_ | refine enableChan_keeps ?_ | refine keeps_ite_else ?_ (fun _ => ?_)
    | dsimp only
    | split

theorem execChannelEnable_keeps {s₀ : State} {ch : Fin 64} {s : State} (hk : State.Keeps s₀ s) : OutKeeps s₀
    (execChannelEnable ch s) := by
  unfold execChannelEnable
  repeat' first
    | with_reducible
        first
          | assumption | refine outKeeps_next ?_ | refine writeChanCfg_keeps ?_
    | dsimp only
    | split

theorem modBank_keeps {s₀ s : State} {n : Nat} {f : Bank → Bank} (hk : State.Keeps s₀ s) : State.Keeps s₀ (modBank s n
    f) := by
  unfold modBank
  repeat' first
    | with_reducible
        first
          | assumption | refine fltErr_keeps ?_ | refine State.modChan_keeps ?_
          | refine keeps_ite_else ?_ (fun _ => ?_)
    | dsimp only
    | split

theorem writeTaps_keeps {s₀ s : State} {n taps : Nat} (hk : State.Keeps s₀ s) : State.Keeps s₀ (writeTaps s n taps) :=
    by
  unfold writeTaps
  repeat' first
    | with_reducible
        first
          | assumption | refine modBank_keeps ?_
    | dsimp only
    | split

theorem execCoefSetn_keeps {s₀ : State} {ch : Fin 64} {ntapsM1 : BitVec 7} {s : State} (hk : State.Keeps s₀ s) :
    OutKeeps s₀ (execCoefSetn ch ntapsM1 s) := by
  unfold execCoefSetn
  repeat' first
    | with_reducible
        first
          | assumption | refine outKeeps_next ?_ | refine writeTaps_keeps ?_
    | dsimp only
    | split

theorem writeCoef_keeps {s₀ s : State} {n index coef : Nat} (hk : State.Keeps s₀ s) : State.Keeps s₀ (writeCoef s n
    index coef) := by
  unfold writeCoef
  repeat' first
    | with_reducible
        first
          | assumption | refine modBank_keeps ?_
    | dsimp only
    | split

theorem execCoefWrite_keeps {s₀ : State} {ch : Fin 64} {index : BitVec 7} {coef : BitVec 18} {s : State} (hk :
    State.Keeps s₀ s) : OutKeeps s₀ (execCoefWrite ch index coef s) := by
  unfold execCoefWrite
  repeat' first
    | with_reducible
        first
          | assumption | refine outKeeps_next ?_ | refine writeCoef_keeps ?_
    | dsimp only
    | split

theorem execFilterDrop_keeps {s₀ : State} {ch : Fin 64} {s : State} (hk : State.Keeps s₀ s) : OutKeeps s₀
    (execFilterDrop ch s) := by
  unfold execFilterDrop
  repeat' first
    | with_reducible
        first
          | assumption | refine outKeeps_next ?_ | refine dropSample_keeps ?_ | refine chanTakes_keeps ?_
          | refine keeps_ite_else ?_ (fun _ => ?_)
    | dsimp only
    | split

theorem execFilterSample_keeps {s₀ : State} {ch : Fin 64} {input : FilterInput} {smon : Fin 4} {code : BitVec 16} {s : State} (hk : State.Keeps s₀ s) :
    OutKeeps s₀ (execFilterSample ch input smon code s) := by
  unfold execFilterSample
  repeat' first
    | with_reducible
        first
          | assumption | refine outKeeps_next ?_ | refine chanTakes_keeps ?_ | refine dropSample_keeps ?_
          | refine chanSample_keeps ?_ | refine beginSample_keeps ?_ | refine keeps_ite_else ?_ (fun _ => ?_)
    | dsimp only
    | split

theorem execSwap_keeps {s₀ : State} {ch : Fin 64} {s : State} (hk : State.Keeps s₀ s) : OutKeeps s₀ (execSwap ch s) :=
    by
  unfold execSwap
  repeat' first
    | with_reducible
        first
          | assumption | refine outKeeps_next ?_ | refine requestSwap_keeps ?_
    | dsimp only
    | split

theorem writeChanCoef_keeps {s₀ s : State} {n : Nat} {v : Word} (hk : State.Keeps s₀ s) : State.Keeps s₀
    (writeChanCoef s n v) := by
  unfold writeChanCoef
  repeat' first
    | with_reducible
        first
          | assumption | refine writeTaps_keeps ?_ | refine writeCoef_keeps ?_
          | refine keeps_ite_else ?_ (fun _ => ?_)
    | dsimp only
    | split

/-! ### Machine/Integrity.lean -/

theorem State.dropCheck_keeps {s₀ s : State} {id : Nat} (hk : State.Keeps s₀ s) : State.Keeps s₀ (State.dropCheck s
    id) := by
  unfold State.dropCheck
  repeat' first
    | with_reducible
        first
          | assumption
    | refine keeps_mk ?_; with_reducible
        first
          | assumption
    | dsimp only
    | split

theorem State.unfence_keeps {s₀ s : State} {u : Nat} (hk : State.Keeps s₀ s) : State.Keeps s₀ (State.unfence s u) :=
    by
  unfold State.unfence
  repeat' first
    | with_reducible
        first
          | assumption
    | refine keeps_mk ?_; with_reducible
        first
          | assumption
    | dsimp only
    | split

theorem arbitrated_keeps {s₀ : State} {a : Arb} {unit expect got : Nat} {s : State} (hk : State.Keeps s₀ s) :
    State.Keeps s₀ (arbitrated a unit expect got s) := by
  unfold arbitrated
  repeat' first
    | with_reducible
        first
          | assumption | refine chargeEvent_keeps ?_ | refine keeps_ite_else ?_ (fun _ => ?_)
    | dsimp only
    | split

theorem visWork_keeps {s₀ : State} {ty : Nat} {x0 : State} {x1 : Snap} {x2 : Nat} {x3 : List Byte} (hk : State.Keeps
    s₀ x0) : State.Keeps s₀ (visWork ty x0 x1 x2 x3).1 := by
  unfold visWork
  repeat' first
    | with_reducible
        first
          | assumption | refine runDetect_keeps ?_ | refine runMatch_keeps ?_ | refine runStereo_keeps ?_
          | refine runFlow_keeps ?_ | refine keeps_ite_else ?_ (fun _ => ?_) | refine keeps_ite_fst ?_ ?_
    | dsimp only
    | split

theorem slvWork_keeps {s₀ : State} {raw : List Byte} {x0 : State} {x1 : UJob} (hk : State.Keeps s₀ x0) : State.Keeps
    s₀ (slvWork raw x0 x1).1 := by
  unfold slvWork
  repeat' first
    | with_reducible
        first
          | assumption | refine runSolve_keeps ?_ | refine runFk_keeps ?_ | refine runId_keeps ?_
          | refine runFd_keeps ?_ | refine runIk_keeps ?_ | refine keeps_ite_else ?_ (fun _ => ?_)
          | refine keeps_ite_fst ?_ ?_
    | dsimp only
    | split

theorem recompute_keeps {s₀ s : State} {c : Check} {k : Nat} (hk : State.Keeps s₀ s) : State.Keeps s₀ (recompute s c
    k).1 := by
  unfold recompute
  repeat' first
    | with_reducible
        first
          | assumption | refine readOperands_keeps ?_ | refine visWork_keeps ?_ | refine slvWork_keeps ?_
          | refine keeps_ite_else ?_ (fun _ => ?_) | refine keeps_ite_fst ?_ ?_
    | refine keeps_mk ?_; with_reducible
        first
          | assumption | refine readOperands_keeps ?_ | refine visWork_keeps ?_ | refine slvWork_keeps ?_
          | refine keeps_ite_else ?_ (fun _ => ?_) | refine keeps_ite_fst ?_ ?_
    | dsimp only
    | split

theorem unitCrc_keeps {s₀ s : State} {c : Check} {k : Nat} {fault : BitVec 32} (hk : State.Keeps s₀ s) : State.Keeps
    s₀ (unitCrc s c k fault).1 := by
  unfold unitCrc
  repeat' first
    | with_reducible
        first
          | assumption | refine recompute_keeps ?_
    | dsimp only
    | split

theorem execArbitrationComplete_keeps {s₀ : State} {id : Nat} {faults : List (BitVec 32)} {s : State} (hk :
    State.Keeps s₀ s) : OutKeeps s₀ (execArbitrationComplete id faults s) := by
  unfold execArbitrationComplete
  repeat' first
    | with_reducible
        first
          | assumption | refine outKeeps_next ?_ | refine unitCrc_keeps ?_ | refine arbitrated_keeps ?_
          | refine keeps_ite_else ?_ (fun _ => ?_) | refine keeps_ite_fst ?_ ?_
    | refine keeps_mk ?_; with_reducible
        first
          | assumption | refine outKeeps_next ?_ | refine unitCrc_keeps ?_ | refine arbitrated_keeps ?_
          | refine keeps_ite_else ?_ (fun _ => ?_) | refine keeps_ite_fst ?_ ?_
    | dsimp only
    | split

theorem mismatch_keeps {s₀ s : State} {c : Check} {got : Nat} (hk : State.Keeps s₀ s) : State.Keeps s₀ (mismatch s c
    got) := by
  unfold mismatch
  repeat' first
    | with_reducible
        first
          | assumption | refine State.satFld_keeps ?_ | refine sticky_keeps ?_ | refine journal_keeps ?_
          | refine hwStore_keeps ?_ | refine raise_keeps ?_ | refine bumpTo_keeps ?_ | refine freezeCause_keeps ?_
          | refine raiseCluster_keeps ?_ | refine keeps_ite_else ?_ (fun _ => ?_) | refine keeps_ite_fst ?_ ?_
    | refine keeps_mk ?_; with_reducible
        first
          | assumption | refine State.satFld_keeps ?_ | refine sticky_keeps ?_ | refine journal_keeps ?_
          | refine hwStore_keeps ?_ | refine raise_keeps ?_ | refine bumpTo_keeps ?_ | refine freezeCause_keeps ?_
          | refine raiseCluster_keeps ?_ | refine keeps_ite_else ?_ (fun _ => ?_) | refine keeps_ite_fst ?_ ?_
    | dsimp only
    | split

theorem execCheckComplete_keeps {s₀ : State} {id : Nat} {fault : BitVec 32} {s : State} (hk : State.Keeps s₀ s) :
    OutKeeps s₀ (execCheckComplete id fault s) := by
  unfold execCheckComplete
  repeat' first
    | with_reducible
        first
          | assumption | refine outKeeps_next ?_ | refine unitCrc_keeps ?_ | refine State.wrapFld_keeps ?_
          | refine State.dropCheck_keeps ?_ | refine mismatch_keeps ?_ | refine keeps_ite_else ?_ (fun _ => ?_)
          | refine keeps_ite_fst ?_ ?_
    | dsimp only
    | split

theorem execCheckLapse_keeps {s₀ : State} {id : Nat} {s : State} (hk : State.Keeps s₀ s) : OutKeeps s₀ (execCheckLapse
    id s) := by
  unfold execCheckLapse
  repeat' first
    | with_reducible
        first
          | assumption | refine outKeeps_next ?_ | refine State.satFld_keeps ?_ | refine State.dropCheck_keeps ?_
          | refine sticky_keeps ?_ | refine journal_keeps ?_ | refine keeps_ite_else ?_ (fun _ => ?_)
    | dsimp only
    | split

theorem execDeviceMinute_keeps {s₀ s : State} (hk : State.Keeps s₀ s) : OutKeeps s₀ (execDeviceMinute s) := by
  unfold execDeviceMinute
  repeat' first
    | with_reducible
        first
          | assumption | refine outKeeps_next ?_ | refine State.setFld_keeps ?_ | refine showUnit_keeps ?_
          | refine setUnit_keeps ?_ | refine keeps_ite_else ?_ (fun _ => ?_) | refine keeps_foldl ?_ (fun _ _ _ => ?_)
          | refine keeps_foldl_fst ?_ (fun _ _ _ => ?_)
    | refine keeps_mk ?_; with_reducible
        first
          | assumption | refine outKeeps_next ?_ | refine State.setFld_keeps ?_ | refine showUnit_keeps ?_
          | refine setUnit_keeps ?_ | refine keeps_ite_else ?_ (fun _ => ?_) | refine keeps_foldl ?_ (fun _ _ _ => ?_)
          | refine keeps_foldl_fst ?_ (fun _ _ _ => ?_)
    | dsimp only
    | split

theorem moveChecks_keeps {s₀ s : State} {u : Nat} (hk : State.Keeps s₀ s) : State.Keeps s₀ (moveChecks s u) := by
  unfold moveChecks
  repeat' first
    | with_reducible
        first
          | assumption | refine State.bumpFree_keeps ?_ | refine keeps_ite_else ?_ (fun _ => ?_)
    | refine keeps_mk ?_; with_reducible
        first
          | assumption | refine State.bumpFree_keeps ?_ | refine keeps_ite_else ?_ (fun _ => ?_)
    | dsimp only
    | split

theorem moveCluster_keeps {s₀ s : State} {c : Nat} (hk : State.Keeps s₀ s) : State.Keeps s₀ (moveCluster s c) := by
  unfold moveCluster
  repeat' first
    | with_reducible
        first
          | assumption | refine State.modClu_keeps ?_ | refine keeps_foldl ?_ (fun _ _ _ => ?_)
          | refine keeps_foldl_fst ?_ (fun _ _ _ => ?_)
    | dsimp only
    | split

theorem moveEngine_length (es : List Engine) (a b : Nat) : (moveEngine es a b).length = es.length := by
  simp [moveEngine]

theorem execFenceEffect_keeps {s₀ : State} {unit : BitVec 16} {s : State} (hk : State.Keeps s₀ s) :
    OutKeeps s₀ (execFenceEffect unit s) := by
  have hv : ∀ a b, State.Keeps s₀ { (s.unfence unit.toNat) with vis := { s.vis with engines := moveEngine s.vis.engines a b } } :=
    fun a b => keeps_mk (s := s.unfence unit.toNat) (State.unfence_keeps hk) (h4 := moveEngine_length ..)
  have hs : ∀ a b, State.Keeps s₀ { (s.unfence unit.toNat) with slv := { s.slv with units := moveEngine s.slv.units a b } } :=
    fun a b => keeps_mk (s := s.unfence unit.toNat) (State.unfence_keeps hk) (h6 := moveEngine_length ..)
  unfold execFenceEffect
  repeat' (first
    | with_reducible assumption
    | with_reducible refine outKeeps_next ?_
    | with_reducible exact moveChecks_keeps (hv _ _)
    | with_reducible exact moveChecks_keeps (hs _ _)
    | with_reducible refine moveChecks_keeps ?_
    | with_reducible refine moveCluster_keeps ?_
    | with_reducible refine State.unfence_keeps ?_
    | with_reducible refine parkId_keeps ?_
    | with_reducible refine keeps_ite_else ?_ (fun _ => ?_)
    | with_reducible refine keeps_foldl ?_ (fun _ _ _ => ?_)
    | dsimp only
    | split)

theorem writeTest_keeps {s₀ s : State} {t : TestRun} (hk : State.Keeps s₀ s) : State.Keeps s₀ (writeTest s t) := by
  unfold writeTest
  repeat' first
    | with_reducible
        first
          | assumption | refine State.store_keeps ?_ | refine keeps_ite_else ?_ (fun _ => ?_)
          | refine keeps_foldl ?_ (fun _ _ _ => ?_) | refine keeps_foldl_fst ?_ (fun _ _ _ => ?_)
    | dsimp only
    | split

theorem startTest_keeps {s₀ : State} {s : State} (hk : State.Keeps s₀ s) : State.Keeps s₀ (startTest s) := by
  unfold startTest
  repeat' first
    | with_reducible
        first
          | assumption | refine writeTest_keeps ?_
    | dsimp only
    | split

theorem execIdleTest_keeps {s₀ : State} {unit : Nat} {s : State} (hk : State.Keeps s₀ s) : OutKeeps s₀ (execIdleTest
    unit s) := by
  unfold execIdleTest
  repeat' first
    | with_reducible
        first
          | assumption | refine outKeeps_next ?_ | refine startTest_keeps ?_ | refine keeps_ite_else ?_ (fun _ => ?_)
    | refine keeps_mk ?_; with_reducible
        first
          | assumption | refine outKeeps_next ?_ | refine startTest_keeps ?_ | refine keeps_ite_else ?_ (fun _ => ?_)
    | dsimp only
    | split

theorem readEntries_keeps {s₀ : State} {x0 : Nat} {x1 : State} {x2 : Word} (hk : State.Keeps s₀ x1) : State.Keeps s₀
    (readEntries x0 x1 x2).1 := by
  induction x0 generalizing x1 x2
  · unfold readEntries
    repeat' first
      | with_reducible
          first
            | assumption | refine unitRead_keeps ?_ | refine keeps_ite_else ?_ (fun _ => ?_)
            | refine keeps_ite_fst ?_ ?_
      | dsimp only
      | split
  · rename_i ih
    unfold readEntries
    repeat' first
      | with_reducible
          first
            | assumption | refine ih ?_ | refine unitRead_keeps ?_ | refine keeps_ite_else ?_ (fun _ => ?_)
            | refine keeps_ite_fst ?_ ?_
      | dsimp only
      | split

theorem readBlob_keeps {s₀ s : State} {a : Word} (hk : State.Keeps s₀ s) : State.Keeps s₀ (readBlob s a).1 := by
  unfold readBlob
  repeat' first
    | with_reducible
        first
          | assumption | refine unitRead_keeps ?_ | refine readEntries_keeps ?_
          | refine keeps_ite_else ?_ (fun _ => ?_) | refine keeps_ite_fst ?_ ?_
    | dsimp only
    | split

theorem tcLoad_keeps {s₀ : State} {s : State} {a : Word} (hk : State.Keeps s₀ s) : State.Keeps s₀ (tcLoad s a) := by
  unfold tcLoad
  repeat' first
    | with_reducible
        first
          | assumption | refine readBlob_keeps ?_ | refine State.setFld_keeps ?_ | refine State.setReg_keeps ?_
          | refine sticky_keeps ?_ | refine journal_keeps ?_ | refine State.bumpFree_keeps ?_
          | refine keeps_ite_else ?_ (fun _ => ?_) | refine keeps_ite_fst ?_ ?_
    | refine keeps_mk ?_; with_reducible
        first
          | assumption | refine readBlob_keeps ?_ | refine State.setFld_keeps ?_ | refine State.setReg_keeps ?_
          | refine sticky_keeps ?_ | refine journal_keeps ?_ | refine State.bumpFree_keeps ?_
          | refine keeps_ite_else ?_ (fun _ => ?_) | refine keeps_ite_fst ?_ ?_
    | dsimp only
    | split

theorem execTcLoad_keeps {s₀ : State} {value : Word} {s : State} (hk : State.Keeps s₀ s) : OutKeeps s₀ (execTcLoad
    value s) := by
  unfold execTcLoad
  repeat' first
    | with_reducible
        first
          | assumption | refine outKeeps_next ?_ | refine tcLoad_keeps ?_
    | dsimp only
    | split

theorem execTestComplete_keeps {s₀ : State} {unit : Nat} {crc : BitVec 32} {ok : Bool} {s : State} (hk : State.Keeps
    s₀ s) : OutKeeps s₀ (execTestComplete unit crc ok s) := by
  unfold execTestComplete
  repeat' first
    | with_reducible
        first
          | assumption | refine outKeeps_next ?_ | refine State.fillRange_keeps ?_ | refine raiseCluster_keeps ?_
          | refine sticky_keeps ?_ | refine chargeEvent_keeps ?_ | refine startTest_keeps ?_
          | refine keeps_ite_else ?_ (fun _ => ?_)
    | refine keeps_mk ?_; with_reducible
        first
          | assumption | refine outKeeps_next ?_ | refine State.fillRange_keeps ?_ | refine raiseCluster_keeps ?_
          | refine sticky_keeps ?_ | refine chargeEvent_keeps ?_ | refine startTest_keeps ?_
          | refine keeps_ite_else ?_ (fun _ => ?_)
    | dsimp only
    | split

theorem unitFence_keeps {s₀ s : State} {u : Nat} (hk : State.Keeps s₀ s) : State.Keeps s₀ (unitFence s u) := by
  unfold unitFence
  repeat' first
    | with_reducible
        first
          | assumption | refine fenceUnit_keeps ?_ | refine keeps_ite_else ?_ (fun _ => ?_)
    | dsimp only
    | split

theorem execUnitFence_keeps {s₀ : State} {unit : BitVec 16} {s : State} (hk : State.Keeps s₀ s) : OutKeeps s₀
    (execUnitFence unit s) := by
  unfold execUnitFence
  repeat' first
    | with_reducible
        first
          | assumption | refine outKeeps_next ?_ | refine unitFence_keeps ?_
    | dsimp only
    | split

theorem unitReset_keeps {s₀ s : State} {u : Nat} (hk : State.Keeps s₀ s) : State.Keeps s₀ (unitReset s u) := by
  unfold unitReset
  repeat' first
    | with_reducible
        first
          | assumption | refine setUnit_keeps ?_ | refine State.unfence_keeps ?_ | refine responseEvent_keeps ?_
          | refine keeps_ite_else ?_ (fun _ => ?_)
    | dsimp only
    | split

theorem execUnitReset_keeps {s₀ : State} {unit : BitVec 16} {s : State} (hk : State.Keeps s₀ s) : OutKeeps s₀
    (execUnitReset unit s) := by
  unfold execUnitReset
  repeat' first
    | with_reducible
        first
          | assumption | refine outKeeps_next ?_ | refine unitReset_keeps ?_
    | dsimp only
    | split

theorem unitUnfence_keeps {s₀ s : State} {u : Nat} (hk : State.Keeps s₀ s) : State.Keeps s₀ (unitUnfence s u) := by
  unfold unitUnfence
  repeat' first
    | with_reducible
        first
          | assumption | refine setUnit_keeps ?_ | refine State.unfence_keeps ?_ | refine responseEvent_keeps ?_
          | refine State.bumpFree_keeps ?_ | refine keeps_ite_else ?_ (fun _ => ?_)
    | dsimp only
    | split

theorem execUnitUnfence_keeps {s₀ : State} {unit : BitVec 16} {s : State} (hk : State.Keeps s₀ s) : OutKeeps s₀
    (execUnitUnfence unit s) := by
  unfold execUnitUnfence
  repeat' first
    | with_reducible
        first
          | assumption | refine outKeeps_next ?_ | refine unitUnfence_keeps ?_
    | dsimp only
    | split

theorem writeUnitCmd_keeps {s₀ s : State} {v : Word} (hk : State.Keeps s₀ s) : State.Keeps s₀ (writeUnitCmd s v) := by
  unfold writeUnitCmd
  repeat' first
    | with_reducible
        first
          | assumption | refine unitReset_keeps ?_ | refine unitFence_keeps ?_ | refine unitUnfence_keeps ?_
    | dsimp only
    | split

/-! ### Machine/Sec.lean -/

theorem openSession_keeps {s₀ s : State} {lvl mask until_ : Nat} (hk : State.Keeps s₀ s) : State.Keeps s₀ (openSession
    s lvl mask until_) := by
  unfold openSession
  repeat' first
    | with_reducible
        first
          | assumption | refine setLevel_keeps ?_ | refine keeps_ite_else ?_ (fun _ => ?_)
    | refine keeps_mk ?_; with_reducible
        first
          | assumption | refine setLevel_keeps ?_ | refine keeps_ite_else ?_ (fun _ => ?_)
    | dsimp only
    | split

/-- Owner slots after one of them was changed upwards. -/
theorem owners_modify_rises (l : List OwnerSlot) (k : Nat) (f : OwnerSlot → OwnerSlot)
    (hf : ∀ o, l[k]? = some o → OwnerSlot.Rises o (f o)) (i : Nat) (x : OwnerSlot) (h : l[i]? = some x) :
    ∃ y : OwnerSlot, (l.modify k f)[i]? = some y ∧ OwnerSlot.Rises x y := by
  rw [List.getElem?_modify]
  by_cases hi : k = i
  · subst hi; exact ⟨f x, by simp [h], hf x h⟩
  · exact ⟨x, by simp [h, hi], id, id, fun _ => rfl⟩

/-- A record that gives OK and is no ADD_OWNER of a valid slot keeps the fuses' one way. -/
theorem applyRecord_keeps {s₀ s : State} {b : List Byte}
    (hb : u8At b 4 = 2 → ∀ o, s.fuses.owners[u8At b 6]? = some o → o.valid = false) (hk : State.Keeps s₀ s) :
    State.Keeps s₀ (applyRecord s b) := by
  unfold applyRecord
  extract_lets slot
  split
  · exact openSession_keeps hk
  · rename_i h2
    refine showSec_keeps (hk.trans ⟨fun i => ⟨⟨i.1.1, i.1.2, i.1.3⟩, ⟨i.2.1, i.2.2, i.2.3, i.2.4, i.2.5, i.2.6, i.2.7, i.2.8, i.2.9, i.2.10, i.2.11, (List.length_modify ..).trans i.2.12⟩, i.3.1, i.3.2, i.3.3, i.3.4⟩, rfl, fun i => ?_,
      Nat.le_refl _⟩)
    refine ⟨Nat.le_refl _, Nat.le_refl _, Nat.le_refl _, Nat.le_refl _, owners_modify_rises _ _ _ (fun o ho => ?_), rfl, rfl,
      rfl, rfl, rfl⟩
    have := hb h2 o ho
    exact ⟨fun _ => rfl, id, fun h => by simp [this] at h⟩
  · refine showSec_keeps (hk.trans ⟨fun i => ⟨⟨i.1.1, i.1.2, i.1.3⟩, ⟨i.2.1, i.2.2, i.2.3, i.2.4, i.2.5, i.2.6, i.2.7, i.2.8, i.2.9, i.2.10, i.2.11, (List.length_modify ..).trans i.2.12⟩, i.3.1, i.3.2, i.3.3, i.3.4⟩, rfl, fun i => ?_,
      Nat.le_refl _⟩)
    exact ⟨Nat.le_refl _, Nat.le_refl _, Nat.le_refl _, Nat.le_refl _,
      owners_modify_rises _ _ _ (fun o _ => ⟨id, fun _ => rfl, fun _ => rfl⟩), rfl, rfl, rfl, rfl, rfl⟩
  · refine showSec_keeps (hk.trans ⟨fun i => ⟨⟨i.1.1, i.1.2, i.1.3⟩, ⟨i.2.1, i.2.2, i.2.3, i.2.4, i.2.5, i.2.6, i.2.7, i.2.8, i.2.9, i.2.10, i.2.11, i.2.12⟩, Nat.le_trans i.3.1 (Nat.le_max_left _ _),
      Nat.max_le.2 ⟨i.3.2, by omega⟩, i.3.3, i.3.4⟩, rfl, fun i => ?_, Nat.le_refl _⟩)
    exact ⟨Nat.le_max_left _ _, Nat.le_refl _, Nat.le_refl _, Nat.le_refl _, fun _ x h => ⟨x, h, id, id, fun _ => rfl⟩, rfl,
      rfl, rfl, rfl, rfl⟩
  · refine showSec_keeps (hk.trans ⟨fun i => ⟨⟨i.1.1, i.1.2, i.1.3⟩, ⟨i.2.1, i.2.2, i.2.3, i.2.4, i.2.5, i.2.6, i.2.7, i.2.8, i.2.9, i.2.10, i.2.11, i.2.12⟩, Nat.le_trans i.3.1 (Nat.le_max_left _ _),
      Nat.max_le.2 ⟨i.3.2, Nat.le_refl _⟩, i.3.3, i.3.4⟩, rfl, fun i => ?_, Nat.le_refl _⟩)
    exact ⟨Nat.le_max_left _ _, Nat.le_refl _, Nat.le_refl _, Nat.le_refl _, fun _ x h => ⟨x, h, id, id, fun _ => rfl⟩, rfl,
      rfl, rfl, rfl, rfl⟩
  · refine showSec_keeps (hk.trans ⟨fun i => ⟨⟨i.1.1, i.1.2, i.1.3⟩, ⟨i.2.1, i.2.2, i.2.3, i.2.4, i.2.5, i.2.6, i.2.7, i.2.8, i.2.9, i.2.10, i.2.11, i.2.12⟩, i.3.1, i.3.2,
      Nat.max_le.2 ⟨i.3.3, Nat.min_le_left _ _⟩, Nat.max_le.2 ⟨i.3.4, Nat.min_le_left _ _⟩⟩, rfl, fun i => ?_,
      Nat.le_refl _⟩)
    exact ⟨Nat.le_refl _, Nat.le_refl _, Nat.le_max_left _ _, Nat.le_max_left _ _,
      fun _ x h => ⟨x, h, id, id, fun _ => rfl⟩, rfl, rfl, rfl, rfl, rfl⟩

theorem attest_keeps {s₀ : State} {s : State} {a : Word} (hk : State.Keeps s₀ s) : State.Keeps s₀ (attest s a) := by
  unfold attest
  repeat' first
    | with_reducible
        first
          | assumption | refine unitRead_keeps ?_ | refine State.setFld_keeps ?_ | refine unitWrite_keeps ?_
          | refine raise_keeps ?_ | refine State.wrapFld_keeps ?_ | refine State.bumpFree_keeps ?_
          | refine keeps_ite_else ?_ (fun _ => ?_) | refine keeps_ite_fst ?_ ?_
    | dsimp only
    | split

theorem readRecord_keeps {s₀ s : State} {a : Word} (hk : State.Keeps s₀ s) : State.Keeps s₀ (readRecord s a).1 := by
  unfold readRecord
  repeat' first
    | with_reducible
        first
          | assumption | refine unitRead_keeps ?_ | refine keeps_ite_else ?_ (fun _ => ?_)
          | refine keeps_ite_fst ?_ ?_
    | dsimp only
    | split

theorem signerRule_ne_one (s : State) (type signer slot : Nat) : signerRule s type signer slot ≠ 1 := by
  unfold signerRule
  extract_lets o a b c
  have ha : a ≠ 1 := by simp only [a]; split <;> simp
  have hb : b ≠ 1 := by simp only [b]; split <;> simp
  have hc : c ≠ 1 := by simp only [c]; split <;> simp
  clear_value a b c
  repeat' (first | split | assumption | simp)

theorem submitRecord_keeps {s₀ s : State} {b : List Byte} (hk : State.Keeps s₀ s) :
    State.Keeps s₀ (submitRecord s b) := by
  unfold submitRecord
  extract_lets r s1 s2
  have h1 : State.Keeps s₀ s1 := State.setFld_keeps hk
  have h2 : State.Keeps s₀ s2 := by
    unfold s2
    split
    · rename_i hr
      refine raise_keeps (applyRecord_keeps (fun h2 o ho => ?_) h1)
      have ho : s.fuses.owners[u8At b 6]? = some o := ho
      simp only [r, recordResult, h2] at hr
      repeat' split at hr
      all_goals simp_all [ownerSlot, signerRule_ne_one]
    · exact sticky_keeps h1
  exact keeps_mk h2

theorem submitType_keeps {s₀ : State} {type : Nat} {a : Word} {s : State} (hk : State.Keeps s₀ s) : State.Keeps s₀
    (submitType type a s) := by
  unfold submitType
  repeat' first
    | with_reducible
        first
          | assumption | refine readRecord_keeps ?_ | refine submitRecord_keeps ?_
          | refine keeps_ite_else ?_ (fun _ => ?_) | refine keeps_ite_fst ?_ ?_
    | dsimp only
    | split

theorem execAddOwner_keeps {s₀ : State} {value : Word} {s : State} (hk : State.Keeps s₀ s) : OutKeeps s₀ (execAddOwner
    value s) := by
  unfold execAddOwner
  repeat' first
    | with_reducible
        first
          | assumption | refine outKeeps_next ?_ | refine submitType_keeps ?_
    | dsimp only
    | split

theorem execAdvanceSvn_keeps {s₀ : State} {value : Word} {s : State} (hk : State.Keeps s₀ s) : OutKeeps s₀
    (execAdvanceSvn value s) := by
  unfold execAdvanceSvn
  repeat' first
    | with_reducible
        first
          | assumption | refine outKeeps_next ?_ | refine submitType_keeps ?_
    | dsimp only
    | split

theorem execBypass_keeps {s₀ : State} {s : State} (hk : State.Keeps s₀ s) : OutKeeps s₀ (execBypass s) := by
  unfold execBypass
  repeat' first
    | with_reducible
        first
          | assumption | refine outKeeps_next ?_ | refine keeps_ite_else ?_ (fun _ => ?_)
    | refine keeps_mk ?_; with_reducible
        first
          | assumption | refine outKeeps_next ?_ | refine keeps_ite_else ?_ (fun _ => ?_)
    | dsimp only
    | split

theorem execDebugSessionEnd_keeps {s₀ s : State} (hk : State.Keeps s₀ s) : OutKeeps s₀ (execDebugSessionEnd s) := by
  unfold execDebugSessionEnd
  repeat' first
    | with_reducible
        first
          | assumption | refine outKeeps_next ?_ | refine endSession_keeps ?_ | refine runTo_keeps ?_
          | refine keeps_ite_else ?_ (fun _ => ?_)
    | dsimp only
    | split

theorem execDebugToken_keeps {s₀ : State} {value : Word} {s : State} (hk : State.Keeps s₀ s) : OutKeeps s₀
    (execDebugToken value s) := by
  unfold execDebugToken
  repeat' first
    | with_reducible
        first
          | assumption | refine outKeeps_next ?_ | refine submitType_keeps ?_
    | dsimp only
    | split

theorem writeSecDebug_keeps {s₀ s : State} {v : Word} (hk : State.Keeps s₀ s) : State.Keeps s₀ (writeSecDebug s v) :=
    by
  unfold writeSecDebug
  repeat' first
    | with_reducible
        first
          | assumption | refine endSession_keeps ?_ | refine setLevel_keeps ?_
          | refine keeps_ite_else ?_ (fun _ => ?_)
    | dsimp only
    | split

theorem execDebugWrite_keeps {s₀ : State} {value : Word} {s : State} (hk : State.Keeps s₀ s) : OutKeeps s₀
    (execDebugWrite value s) := by
  unfold execDebugWrite
  repeat' first
    | with_reducible
        first
          | assumption | refine outKeeps_next ?_ | refine writeSecDebug_keeps ?_
    | dsimp only
    | split

theorem tapAt_keeps {s₀ s : State} {lvl : Nat} {run : State → State} (hk : State.Keeps s₀ s) (hf : ∀ s , State.Keeps
    s₀ s → State.Keeps s₀ (run s )) : State.Keeps s₀ (tapAt s lvl run) := by
  unfold tapAt
  repeat' first
    | with_reducible
        first
          | assumption | refine hf _ ?_ | refine sticky_keeps ?_ | refine keeps_ite_else ?_ (fun _ => ?_)
    | dsimp only
    | split

theorem execExtest_keeps {s₀ : State} {s : State} (hk : State.Keeps s₀ s) : OutKeeps s₀ (execExtest s) := by
  unfold execExtest
  repeat' first
    | with_reducible
        first
          | assumption | refine outKeeps_next ?_ | refine tapAt_keeps ?_ (fun _ _ => ?_) | refine resetDomain_keeps ?_
          | refine State.setReg_keeps ?_ | refine showSec_keeps ?_
    | refine keeps_mk ?_; with_reducible
        first
          | assumption | refine outKeeps_next ?_ | refine tapAt_keeps ?_ (fun _ _ => ?_) | refine resetDomain_keeps ?_
          | refine State.setReg_keeps ?_ | refine showSec_keeps ?_
    | dsimp only
    | split

theorem tapAnswer_keeps {s₀ s : State} {b : List Byte} (hk : State.Keeps s₀ s) : State.Keeps s₀ (tapAnswer s b) := by
  unfold tapAnswer
  repeat' first
    | with_reducible
        first
          | assumption
    | refine keeps_mk ?_; with_reducible
        first
          | assumption
    | dsimp only
    | split

theorem execIdcode_keeps {s₀ : State} {s : State} (hk : State.Keeps s₀ s) : OutKeeps s₀ (execIdcode s) := by
  unfold execIdcode
  repeat' first
    | with_reducible
        first
          | assumption | refine outKeeps_next ?_ | refine tapAnswer_keeps ?_ | refine keeps_ite_else ?_ (fun _ => ?_)
    | dsimp only
    | split

theorem execKhalt_keeps {s₀ : State} {keeper : Fin 4} {act : HaltAction} {s : State} (hk : State.Keeps s₀ s) :
    OutKeeps s₀ (execKhalt keeper act s) := by
  unfold execKhalt
  repeat' first
    | with_reducible
        first
          | assumption | refine outKeeps_next ?_ | refine tapAt_keeps ?_ (fun _ _ => ?_) | refine showHeld_keeps ?_
    | refine keeps_mk ?_; with_reducible
        first
          | assumption | refine outKeeps_next ?_ | refine tapAt_keeps ?_ (fun _ _ => ?_) | refine showHeld_keeps ?_
    | dsimp only
    | split

theorem execRetire_keeps {s₀ : State} {value : Word} {s : State} (hk : State.Keeps s₀ s) : OutKeeps s₀ (execRetire
    value s) := by
  unfold execRetire
  repeat' first
    | with_reducible
        first
          | assumption | refine outKeeps_next ?_ | refine submitType_keeps ?_
    | dsimp only
    | split

theorem execRevokeOwner_keeps {s₀ : State} {value : Word} {s : State} (hk : State.Keeps s₀ s) : OutKeeps s₀
    (execRevokeOwner value s) := by
  unfold execRevokeOwner
  repeat' first
    | with_reducible
        first
          | assumption | refine outKeeps_next ?_ | refine submitType_keeps ?_
    | dsimp only
    | split

theorem execSamplePreload_keeps {s₀ s : State} (hk : State.Keeps s₀ s) : OutKeeps s₀ (execSamplePreload s) := by
  unfold execSamplePreload
  repeat' first
    | with_reducible
        first
          | assumption | refine outKeeps_next ?_ | refine tapAt_keeps ?_ (fun _ _ => ?_)
          | refine State.bumpFree_keeps ?_ | refine tapAnswer_keeps ?_
    | dsimp only
    | split

theorem execSecAttest_keeps {s₀ : State} {value : Word} {s : State} (hk : State.Keeps s₀ s) : OutKeeps s₀
    (execSecAttest value s) := by
  unfold execSecAttest
  repeat' first
    | with_reducible
        first
          | assumption | refine outKeeps_next ?_ | refine attest_keeps ?_
    | dsimp only
    | split

theorem execSecaccess_keeps {s₀ : State} {rec : List Byte} {s : State} (hk : State.Keeps s₀ s) : OutKeeps s₀
    (execSecaccess rec s) := by
  unfold execSecaccess
  repeat' first
    | with_reducible
        first
          | assumption | refine outKeeps_next ?_ | refine tapAt_keeps ?_ (fun _ _ => ?_)
          | refine submitRecord_keeps ?_ | refine tapAnswer_keeps ?_
    | dsimp only
    | split

theorem execTakeOwnership_keeps {s₀ : State} {value : Word} {s : State} (hk : State.Keeps s₀ s) : OutKeeps s₀
    (execTakeOwnership value s) := by
  unfold execTakeOwnership
  repeat' first
    | with_reducible
        first
          | assumption | refine outKeeps_next ?_ | refine submitType_keeps ?_
    | dsimp only
    | split

theorem secCmd_keeps {s₀ : State} {s : State} {a : Word} (hk : State.Keeps s₀ s) : State.Keeps s₀ (secCmd s a) := by
  unfold secCmd
  repeat' first
    | with_reducible
        first
          | assumption | refine readRecord_keeps ?_ | refine submitRecord_keeps ?_
    | dsimp only
    | split

/-! ### Machine/ObsOps.lean -/

theorem dueLost_keeps {s₀ : State} {s : State} {n : Nat} (hk : State.Keeps s₀ s) : State.Keeps s₀ (dueLost s n) := by
  unfold dueLost
  repeat' first
    | with_reducible
        first
          | assumption | refine bufRec_keeps ?_ | refine State.setTrBuf_keeps ?_
          | refine keeps_ite_else ?_ (fun _ => ?_) | refine keeps_ite_fst ?_ ?_
    | dsimp only
    | split

theorem lookedRoom_keeps {s₀ s : State} {n : Nat} (hk : State.Keeps s₀ s) : State.Keeps s₀ (lookedRoom s n) := by
  unfold lookedRoom
  repeat' first
    | with_reducible
        first
          | assumption | refine State.bumpFree_keeps ?_ | refine keeps_ite_else ?_ (fun _ => ?_)
    | dsimp only
    | split

theorem drainRec_keeps {s₀ : State} {n : Nat} {s : State} {r : ObsRec} (hk : State.Keeps s₀ s) : State.Keeps s₀
    (drainRec n s r) := by
  unfold drainRec
  repeat' first
    | with_reducible
        first
          | assumption | refine unitPut_keeps ?_ | refine State.setReg_keeps ?_ | refine sticky_keeps ?_
          | refine State.satFld_keeps ?_ | refine keeps_ite_else ?_ (fun _ => ?_)
    | dsimp only
    | split

theorem drainChunk_keeps {s₀ s : State} {n : Nat} (hk : State.Keeps s₀ s) : State.Keeps s₀ (drainChunk s n) := by
  unfold drainChunk
  repeat' first
    | with_reducible
        first
          | assumption | refine dueLost_keeps ?_ | refine lookedRoom_keeps ?_ | refine State.setTrBuf_keeps ?_
          | refine bumpTo_keeps ?_ | refine drainRec_keeps ?_ | refine raise_keeps ?_
          | refine keeps_ite_else ?_ (fun _ => ?_) | refine keeps_foldl ?_ (fun _ _ _ => ?_)
          | refine keeps_foldl_fst ?_ (fun _ _ _ => ?_)
    | dsimp only
    | split

theorem writeBwAddr_keeps {s₀ s : State} {b : Nat} {v : Word} (hk : State.Keeps s₀ s) : State.Keeps s₀ (writeBwAddr s
    b v) := by
  unfold writeBwAddr
  repeat' first
    | with_reducible
        first
          | assumption | refine State.setReg_keeps ?_ | refine buoyWatchTest_keeps ?_ | refine State.setBit_keeps ?_
          | refine keeps_ite_else ?_ (fun _ => ?_)
    | dsimp only
    | split

theorem execBuoyWatchArm_keeps {s₀ : State} {b : Fin 48} {auto : Bool} {s : State} (hk : State.Keeps s₀ s) : OutKeeps
    s₀ (execBuoyWatchArm b auto s) := by
  unfold execBuoyWatchArm
  repeat' first
    | with_reducible
        first
          | assumption | refine outKeeps_next ?_ | refine writeBwAddr_keeps ?_
          | refine keeps_ite_else ?_ (fun _ => ?_)
    | dsimp only
    | split

theorem obsDenied_keeps {s₀ : State} {s : State} (hk : State.Keeps s₀ s) : State.Keeps s₀ (obsDenied s) := by
  unfold obsDenied
  repeat' first
    | with_reducible
        first
          | assumption | refine sticky_keeps ?_
    | dsimp only
    | split

theorem thaw_keeps {s₀ : State} {s : State} (hk : State.Keeps s₀ s) : State.Keeps s₀ (thaw s) := by
  unfold thaw
  repeat' first
    | with_reducible
        first
          | assumption | refine State.setBit_keeps ?_ | refine keeps_ite_else ?_ (fun _ => ?_)
          | refine keeps_foldl ?_ (fun _ _ _ => ?_) | refine keeps_foldl_fst ?_ (fun _ _ _ => ?_)
    | refine keeps_mk ?_; with_reducible
        first
          | assumption | refine State.setBit_keeps ?_ | refine keeps_ite_else ?_ (fun _ => ?_)
          | refine keeps_foldl ?_ (fun _ _ _ => ?_) | refine keeps_foldl_fst ?_ (fun _ _ _ => ?_)
    | dsimp only
    | split

theorem writeFreezeCtl_keeps {s₀ s : State} {v : Word} (hk : State.Keeps s₀ s) : State.Keeps s₀ (writeFreezeCtl s v)
    := by
  unfold writeFreezeCtl
  repeat' first
    | with_reducible
        first
          | assumption | refine obsDenied_keeps ?_ | refine State.setReg_keeps ?_ | refine freezeCause_keeps ?_
          | refine thaw_keeps ?_ | refine keeps_ite_else ?_ (fun _ => ?_)
    | dsimp only
    | split

theorem execFire_keeps {s₀ : State} {s : State} (hk : State.Keeps s₀ s) : OutKeeps s₀ (execFire s) := by
  unfold execFire
  repeat' first
    | with_reducible
        first
          | assumption | refine outKeeps_next ?_ | refine writeFreezeCtl_keeps ?_
    | dsimp only
    | split

theorem execFreeze_keeps {s₀ : State} {cause : FreezeCause} {s : State} (hk : State.Keeps s₀ s) : OutKeeps s₀
    (execFreeze cause s) := by
  unfold execFreeze
  repeat' first
    | with_reducible
        first
          | assumption | refine outKeeps_next ?_ | refine freezeCause_keeps ?_
    | dsimp only
    | split

theorem writeIntEn_keeps {s₀ s : State} {k : Nat} {v : Word} (hk : State.Keeps s₀ s) : State.Keeps s₀ (writeIntEn s k
    v) := by
  unfold writeIntEn
  repeat' first
    | with_reducible
        first
          | assumption | refine deliverAll_keeps ?_ | refine State.setReg_keeps ?_
    | dsimp only
    | split

theorem execIntEnableWrite_keeps {s₀ : State} {k : Fin 4} {value : Word} {s : State} (hk : State.Keeps s₀ s) :
    OutKeeps s₀ (execIntEnableWrite k value s) := by
  unfold execIntEnableWrite
  repeat' first
    | with_reducible
        first
          | assumption | refine outKeeps_next ?_ | refine writeIntEn_keeps ?_
    | dsimp only
    | split

theorem pendClear_keeps {s₀ s : State} {k : Nat} {mask coincident : Word} (hk : State.Keeps s₀ s) : State.Keeps s₀
    (pendClear s k mask coincident) := by
  unfold pendClear
  repeat' first
    | with_reducible
        first
          | assumption | refine State.setReg_keeps ?_ | refine State.setBit_keeps ?_ | refine deliverAll_keeps ?_
          | refine keeps_foldl ?_ (fun _ _ _ => ?_) | refine keeps_foldl_fst ?_ (fun _ _ _ => ?_)
    | dsimp only
    | split

theorem execIntPendClear_keeps {s₀ : State} {k : Fin 4} {mask coincident : Word} {s : State} (hk : State.Keeps s₀ s) :
    OutKeeps s₀ (execIntPendClear k mask coincident s) := by
  unfold execIntPendClear
  repeat' first
    | with_reducible
        first
          | assumption | refine outKeeps_next ?_ | refine pendClear_keeps ?_
    | dsimp only
    | split

theorem writeMark_keeps {s₀ s : State} {v : Word} (hk : State.Keeps s₀ s) : State.Keeps s₀ (writeMark s v) := by
  unfold writeMark
  repeat' first
    | with_reducible
        first
          | assumption | refine obsDenied_keeps ?_ | refine bufRec_keeps ?_ | refine obsPush_keeps ?_
          | refine State.bumpFree_keeps ?_ | refine keeps_ite_else ?_ (fun _ => ?_) | refine keeps_ite_fst ?_ ?_
    | dsimp only
    | split

theorem execMark_keeps {s₀ : State} {value : Word} {s : State} (hk : State.Keeps s₀ s) : OutKeeps s₀ (execMark value
    s) := by
  unfold execMark
  repeat' first
    | with_reducible
        first
          | assumption | refine outKeeps_next ?_ | refine writeMark_keeps ?_
    | dsimp only
    | split

theorem execThaw_keeps {s₀ : State} {s : State} (hk : State.Keeps s₀ s) : OutKeeps s₀ (execThaw s) := by
  unfold execThaw
  repeat' first
    | with_reducible
        first
          | assumption | refine outKeeps_next ?_ | refine writeFreezeCtl_keeps ?_
    | dsimp only
    | split

theorem execTraceDrain_keeps {s₀ : State} {n : Fin 12} {s : State} (hk : State.Keeps s₀ s) : OutKeeps s₀
    (execTraceDrain n s) := by
  unfold execTraceDrain
  repeat' first
    | with_reducible
        first
          | assumption | refine outKeeps_next ?_ | refine drainChunk_keeps ?_ | refine keeps_ite_else ?_ (fun _ => ?_)
    | dsimp only
    | split

theorem writeTrCtl_keeps {s₀ s : State} {n : Nat} {v : Word} (hk : State.Keeps s₀ s) : State.Keeps s₀ (writeTrCtl s n
    v) := by
  unfold writeTrCtl
  repeat' first
    | with_reducible
        first
          | assumption | refine obsDenied_keeps ?_ | refine State.setReg_keeps ?_ | refine State.setTrBuf_keeps ?_
          | refine State.setBit_keeps ?_ | refine sticky_keeps ?_ | refine keeps_ite_else ?_ (fun _ => ?_)
    | dsimp only
    | split

theorem execTraceEnable_keeps {s₀ : State} {n : Fin 12} {s : State} (hk : State.Keeps s₀ s) : OutKeeps s₀
    (execTraceEnable n s) := by
  unfold execTraceEnable
  repeat' first
    | with_reducible
        first
          | assumption | refine outKeeps_next ?_ | refine writeTrCtl_keeps ?_
    | dsimp only
    | split

theorem writeBwCond_keeps {s₀ s : State} {b : Nat} {v : Word} (hk : State.Keeps s₀ s) : State.Keeps s₀ (writeBwCond s
    b v) := by
  unfold writeBwCond
  repeat' first
    | with_reducible
        first
          | assumption | refine State.setReg_keeps ?_ | refine keeps_ite_else ?_ (fun _ => ?_)
    | dsimp only
    | split

theorem writeRoute_keeps {s₀ s : State} {src : Nat} {v : Word} (hk : State.Keeps s₀ s) : State.Keeps s₀ (writeRoute s
    src v) := by
  unfold writeRoute
  repeat' first
    | with_reducible
        first
          | assumption | refine State.setReg_keeps ?_ | refine keeps_ite_else ?_ (fun _ => ?_)
    | dsimp only
    | split

/-! ### Machine/Endpoint.lean -/

theorem discardHost_keeps {s₀ : State} {s : State} (hk : State.Keeps s₀ s) : State.Keeps s₀ (discardHost s) := by
  unfold discardHost
  repeat' first
    | with_reducible
        first
          | assumption | refine keeps_ite_else ?_ (fun _ => ?_)
    | refine keeps_mk ?_; with_reducible
        first
          | assumption | refine keeps_ite_else ?_ (fun _ => ?_)
    | dsimp only
    | split

theorem endHostWaits_keeps {s₀ : State} {s : State} (hk : State.Keeps s₀ s) : State.Keeps s₀ (endHostWaits s) := by
  unfold endHostWaits
  repeat' first
    | with_reducible
        first
          | assumption | refine failOp_keeps ?_ | refine keeps_foldl ?_ (fun _ _ _ => ?_)
          | refine keeps_foldl_fst ?_ (fun _ _ _ => ?_)
    | dsimp only
    | split

theorem execConfigurationWrite_keeps {s₀ : State} {w : ConfigWrite} {s : State} (hk : State.Keeps s₀ s) : OutKeeps s₀
    (execConfigurationWrite w s) := by
  unfold execConfigurationWrite
  repeat' first
    | with_reducible
        first
          | assumption | refine outKeeps_next ?_ | refine msixRelease_keeps ?_ | refine State.setBit_keeps ?_
          | refine keeps_ite_else ?_ (fun _ => ?_)
    | refine keeps_mk ?_; with_reducible
        first
          | assumption | refine outKeeps_next ?_ | refine msixRelease_keeps ?_ | refine State.setBit_keeps ?_
          | refine keeps_ite_else ?_ (fun _ => ?_)
    | dsimp only
    | split

theorem execD3hotEntry_keeps {s₀ : State} {s : State} (hk : State.Keeps s₀ s) : OutKeeps s₀ (execD3hotEntry s) := by
  unfold execD3hotEntry
  repeat' first
    | with_reducible
        first
          | assumption | refine outKeeps_next ?_ | refine State.setBit_keeps ?_
          | refine keeps_ite_else ?_ (fun _ => ?_)
    | dsimp only
    | split

theorem resetFunction_keeps {s₀ s : State} (hk : State.Keeps s₀ s) : State.Keeps s₀ (resetFunction s) := by
  unfold resetFunction
  extract_lets
  exact endHostWaits_keeps (discardHost_keeps (State.setBit_keeps (State.setBit_keeps (hk.trans ⟨fun i => ⟨⟨i.1.1,
    kvWf_filter _ i.1.2 (fun e he _ => kvWf_ne i.1.2 he), i.1.3⟩, ⟨i.2.1, i.2.2, i.2.3, i.2.4, i.2.5, i.2.6, i.2.7, i.2.8, i.2.9, i.2.10, i.2.11, i.2.12⟩, i.3⟩, rfl, fun _ => .refl _, Nat.le_refl _⟩))))

theorem execFlr_keeps {s₀ : State} {s : State} (hk : State.Keeps s₀ s) : OutKeeps s₀ (execFlr s) := by
  unfold execFlr
  repeat' first
    | with_reducible
        first
          | assumption | refine outKeeps_next ?_ | refine sticky_keeps ?_ | refine resetFunction_keeps ?_
          | refine keeps_ite_else ?_ (fun _ => ?_)
    | dsimp only
    | split

theorem execHstSignal_keeps {s₀ : State} {value : Word} {s : State} (hk : State.Keeps s₀ s) : OutKeeps s₀
    (execHstSignal value s) := by
  unfold execHstSignal
  repeat' first
    | with_reducible
        first
          | assumption | refine outKeeps_next ?_ | refine hstSignal_keeps ?_
    | dsimp only
    | split

theorem execPcieCrsEnd_keeps {s₀ : State} {s : State} (hk : State.Keeps s₀ s) : OutKeeps s₀ (execPcieCrsEnd s) := by
  unfold execPcieCrsEnd
  repeat' first
    | with_reducible
        first
          | assumption | refine outKeeps_next ?_
    | refine keeps_mk ?_; with_reducible
        first
          | assumption | refine outKeeps_next ?_
    | dsimp only
    | split

theorem linkDownPcie_keeps {s₀ : State} {s : State} (hk : State.Keeps s₀ s) : State.Keeps s₀ (linkDownPcie s) := by
  unfold linkDownPcie
  repeat' first
    | with_reducible
        first
          | assumption | refine State.setBit_keeps ?_ | refine State.setFld_keeps ?_
    | dsimp only
    | split

theorem execPcieLinkDown_keeps {s₀ s : State} (hk : State.Keeps s₀ s) : OutKeeps s₀ (execPcieLinkDown s) := by
  unfold execPcieLinkDown
  repeat' first
    | with_reducible
        first
          | assumption | refine outKeeps_next ?_ | refine endHostWaits_keeps ?_ | refine sticky_keeps ?_
          | refine linkDownPcie_keeps ?_ | refine keeps_ite_else ?_ (fun _ => ?_)
    | dsimp only
    | split

theorem execPcieLinkUp_keeps {s₀ : State} {speed : Fin 6} {width : BitVec 4} {s : State} (hk : State.Keeps s₀ s) :
    OutKeeps s₀ (execPcieLinkUp speed width s) := by
  unfold execPcieLinkUp
  repeat' first
    | with_reducible
        first
          | assumption | refine outKeeps_next ?_ | refine State.setBit_keeps ?_ | refine State.setFld_keeps ?_
          | refine msixRelease_keeps ?_ | refine keeps_ite_else ?_ (fun _ => ?_)
    | dsimp only
    | split

theorem execPerstN_keeps {s₀ : State} {asserted : Bool} {s : State} (hk : State.Keeps s₀ s) : OutKeeps s₀ (execPerstN
    asserted s) := by
  unfold execPerstN
  repeat' first
    | with_reducible
        first
          | assumption | refine outKeeps_next ?_ | refine State.setBit_keeps ?_ | refine linkDownPcie_keeps ?_
          | refine resetFunction_keeps ?_ | refine sticky_keeps ?_ | refine wakeEvent_keeps ?_
          | refine keeps_ite_else ?_ (fun _ => ?_)
    | refine keeps_mk ?_; with_reducible
        first
          | assumption | refine outKeeps_next ?_ | refine State.setBit_keeps ?_ | refine linkDownPcie_keeps ?_
          | refine resetFunction_keeps ?_ | refine sticky_keeps ?_ | refine wakeEvent_keeps ?_
          | refine keeps_ite_else ?_ (fun _ => ?_)
    | dsimp only
    | split

/-! ### Machine/Boot.lean -/

theorem acceptImage_keeps {s₀ s : State} {img : Nat} (hk : State.Keeps s₀ s) : State.Keeps s₀ (acceptImage s img) :=
    by
  unfold acceptImage
  repeat' first
    | with_reducible
        first
          | assumption | refine State.setBit_keeps ?_ | refine State.setReg_keeps ?_ | refine State.setFld_keeps ?_
    | refine keeps_mk ?_; with_reducible
        first
          | assumption | refine State.setBit_keeps ?_ | refine State.setReg_keeps ?_ | refine State.setFld_keeps ?_
    | dsimp only
    | split

theorem setPhase_keeps {s₀ s : State} {p : Nat} (hk : State.Keeps s₀ s) : State.Keeps s₀ (setPhase s p) := by
  unfold setPhase
  repeat' first
    | with_reducible
        first
          | assumption | refine State.setFld_keeps ?_ | refine raise_keeps ?_ | refine keeps_ite_else ?_ (fun _ => ?_)
    | dsimp only
    | split

theorem romAgain_keeps {s₀ : State} {s : State} (hk : State.Keeps s₀ s) : State.Keeps s₀ (romAgain s) := by
  unfold romAgain
  repeat' first
    | with_reducible
        first
          | assumption | refine State.setReg_keeps ?_ | refine resetDomain_keeps ?_
          | refine keeps_ite_else ?_ (fun _ => ?_)
    | dsimp only
    | split

theorem bootFail_keeps {s₀ s : State} {code : Nat} (hk : State.Keeps s₀ s) : State.Keeps s₀ (bootFail s code) := by
  unfold bootFail
  repeat' first
    | with_reducible
        first
          | assumption | refine setPhase_keeps ?_ | refine State.setFld_keeps ?_ | refine romAgain_keeps ?_
          | refine State.setBit_keeps ?_ | refine keeps_ite_else ?_ (fun _ => ?_)
    | refine keeps_mk ?_; with_reducible
        first
          | assumption | refine setPhase_keeps ?_ | refine State.setFld_keeps ?_ | refine romAgain_keeps ?_
          | refine State.setBit_keeps ?_ | refine keeps_ite_else ?_ (fun _ => ?_)
    | dsimp only
    | split

theorem execBootImageCheck_keeps {s₀ s : State} (hk : State.Keeps s₀ s) : OutKeeps s₀ (execBootImageCheck s) := by
  unfold execBootImageCheck
  repeat' first
    | with_reducible
        first
          | assumption | refine outKeeps_next ?_ | refine State.setFld_keeps ?_ | refine setPhase_keeps ?_
          | refine acceptImage_keeps ?_ | refine bootFail_keeps ?_ | refine keeps_ite_else ?_ (fun _ => ?_)
    | refine keeps_mk ?_; with_reducible
        first
          | assumption | refine outKeeps_next ?_ | refine State.setFld_keeps ?_ | refine setPhase_keeps ?_
          | refine acceptImage_keeps ?_ | refine bootFail_keeps ?_ | refine keeps_ite_else ?_ (fun _ => ?_)
    | dsimp only
    | split

theorem execDramTrainTimeout_keeps {s₀ s : State} (hk : State.Keeps s₀ s) : OutKeeps s₀ (execDramTrainTimeout s) := by
  unfold execDramTrainTimeout
  repeat' first
    | with_reducible
        first
          | assumption | refine outKeeps_next ?_ | refine bootFail_keeps ?_ | refine keeps_ite_else ?_ (fun _ => ?_)
    | dsimp only
    | split

theorem execDramTrained_keeps {s₀ : State} {s : State} (hk : State.Keeps s₀ s) : OutKeeps s₀ (execDramTrained s) := by
  unfold execDramTrained
  repeat' first
    | with_reducible
        first
          | assumption | refine outKeeps_next ?_ | refine keepObjects_keeps ?_ | refine dropMemory_keeps ?_
          | refine State.fillRange_keeps ?_ | refine State.setFld_keeps ?_ | refine keeps_ite_else ?_ (fun _ => ?_)
    | dsimp only
    | split

theorem keeperStart_keeps {s₀ : State} {s : State} (hk : State.Keeps s₀ s) : State.Keeps s₀ (keeperStart s) := by
  unfold keeperStart
  repeat' first
    | with_reducible
        first
          | assumption | refine showUnit_keeps ?_ | refine showVdd_keeps ?_ | refine showUnrated_keeps ?_
          | refine State.setFld_keeps ?_ | refine State.setReg_keeps ?_ | refine State.bumpFree_keeps ?_
          | refine keeps_foldl ?_ (fun _ _ _ => ?_) | refine keeps_foldl_fst ?_ (fun _ _ _ => ?_)
    | dsimp only
    | split

theorem execFirmwareLoaded_keeps {s₀ s : State} (hk : State.Keeps s₀ s) : OutKeeps s₀ (execFirmwareLoaded s) := by
  unfold execFirmwareLoaded
  repeat' first
    | with_reducible
        first
          | assumption | refine outKeeps_next ?_ | refine bootFail_keeps ?_ | refine keeperStart_keeps ?_
          | refine State.setFld_keeps ?_ | refine keeps_ite_else ?_ (fun _ => ?_)
    | dsimp only
    | split

theorem execPllLock_keeps {s₀ : State} {ack : Bool} {s : State} (hk : State.Keeps s₀ s) : OutKeeps s₀ (execPllLock ack
    s) := by
  unfold execPllLock
  repeat' first
    | with_reducible
        first
          | assumption | refine outKeeps_next ?_ | refine State.setFld_keeps ?_ | refine sticky_keeps ?_
          | refine keeps_ite_else ?_ (fun _ => ?_)
    | refine keeps_mk ?_; with_reducible
        first
          | assumption | refine outKeeps_next ?_ | refine State.setFld_keeps ?_ | refine sticky_keeps ?_
          | refine keeps_ite_else ?_ (fun _ => ?_)
    | dsimp only
    | split

theorem execPorN_keeps {s₀ : State} {straps : BitVec 3} {s : State} (hk : State.Keeps s₀ s) : OutKeeps s₀ (execPorN
    straps s) := by
  unfold execPorN
  repeat' first
    | with_reducible
        first
          | assumption | refine outKeeps_next ?_ | refine beginStart_keeps ?_ | refine porReset_keeps ?_
          | refine State.setBit_keeps ?_ | refine State.setReg_keeps ?_
    | dsimp only
    | split

theorem recoverGo_keeps {s₀ : State} {s : State} (hk : State.Keeps s₀ s) : State.Keeps s₀ (recoverGo s) := by
  unfold recoverGo
  repeat' first
    | with_reducible
        first
          | assumption | refine State.setFld_keeps ?_ | refine acceptImage_keeps ?_
          | refine keeps_ite_else ?_ (fun _ => ?_)
    | dsimp only
    | split

theorem execRecoverGo_keeps {s₀ : State} {s : State} (hk : State.Keeps s₀ s) : OutKeeps s₀ (execRecoverGo s) := by
  unfold execRecoverGo
  repeat' first
    | with_reducible
        first
          | assumption | refine outKeeps_next ?_ | refine recoverGo_keeps ?_
    | dsimp only
    | split

theorem execWarmRstN_keeps {s₀ : State} {s : State} (hk : State.Keeps s₀ s) : OutKeeps s₀ (execWarmRstN s) := by
  unfold execWarmRstN
  repeat' first
    | with_reducible
        first
          | assumption | refine outKeeps_next ?_ | refine beginStart_keeps ?_ | refine resetDomain_keeps ?_
          | refine endSession_keeps ?_ | refine keeps_ite_else ?_ (fun _ => ?_)
    | dsimp only
    | split

/-! ### Machine/RegWrite.lean -/

theorem plainWrite_keeps {s₀ s : State} {d : RegDesc} {off : Nat} {v : Word} (hk : State.Keeps s₀ s) : State.Keeps s₀
    (plainWrite s d off v) := by
  unfold plainWrite
  repeat' first
    | with_reducible
        first
          | assumption | refine State.setReg_keeps ?_
    | dsimp only
    | split

theorem writeGctl_keeps {s₀ s : State} {d : RegDesc} {off : Nat} {v : Word} (hk : State.Keeps s₀ s) : State.Keeps s₀
    (writeGctl s d off v) := by
  unfold writeGctl
  repeat' first
    | with_reducible
        first
          | assumption | refine recoverGo_keeps ?_ | refine plainWrite_keeps ?_
          | refine keeps_ite_else ?_ (fun _ => ?_)
    | dsimp only
    | split

theorem writeUnless_keeps {s₀ : State} {lock : Bool} {s : State} {d : RegDesc} {off : Nat} {v : Word} (hk :
    State.Keeps s₀ s) : State.Keeps s₀ (writeUnless lock s d off v) := by
  unfold writeUnless
  repeat' first
    | with_reducible
        first
          | assumption | refine plainWrite_keeps ?_ | refine keeps_ite_else ?_ (fun _ => ?_)
    | dsimp only
    | split

theorem writeLmp_keeps {s₀ s : State} {d : RegDesc} {off : Nat} {v : Word} (hk : State.Keeps s₀ s) : State.Keeps s₀
    (writeLmp s d off v) := by
  unfold writeLmp
  repeat' first
    | with_reducible
        first
          | assumption | refine writeLmpCtl_keeps ?_ | refine writeLmpResv_keeps ?_ | refine writeSeqCtl_keeps ?_
          | refine writeUnless_keeps ?_ | refine plainWrite_keeps ?_ | refine keeps_ite_else ?_ (fun _ => ?_)
    | dsimp only
    | split

theorem writeInt_keeps {s₀ s : State} {d : RegDesc} {off : Nat} {v : Word} (hk : State.Keeps s₀ s) : State.Keeps s₀
    (writeInt s d off v) := by
  unfold writeInt
  repeat' first
    | with_reducible
        first
          | assumption | refine pendClear_keeps ?_ | refine writeIntEn_keeps ?_ | refine writeRoute_keeps ?_
          | refine writeBwAddr_keeps ?_ | refine writeBwCond_keeps ?_ | refine plainWrite_keeps ?_
          | refine keeps_ite_else ?_ (fun _ => ?_)
    | dsimp only
    | split

theorem writeTim_keeps {s₀ s : State} {d : RegDesc} {off : Nat} {v : Word} (hk : State.Keeps s₀ s) : State.Keeps s₀
    (writeTim s d off v) := by
  unfold writeTim
  repeat' first
    | with_reducible
        first
          | assumption | refine writeTimCtl_keeps ?_ | refine setInc_keeps ?_ | refine addStep_keeps ?_
          | refine State.setFld_keeps ?_ | refine plainWrite_keeps ?_ | refine keeps_ite_else ?_ (fun _ => ?_)
    | dsimp only
    | split

theorem writePwr_keeps {s₀ s : State} {d : RegDesc} {off : Nat} {v : Word} (hk : State.Keeps s₀ s) : State.Keeps s₀
    (writePwr s d off v) := by
  unfold writePwr
  repeat' first
    | with_reducible
        first
          | assumption | refine writeTarget_keeps ?_ | refine State.setReg_keeps ?_ | refine writePoint_keeps ?_
          | refine State.setBit_keeps ?_ | refine State.setFld_keeps ?_ | refine plainWrite_keeps ?_
          | refine keeps_ite_else ?_ (fun _ => ?_)
    | dsimp only
    | split

theorem writeSec_keeps {s₀ s : State} {d : RegDesc} {off : Nat} {v : Word} (hk : State.Keeps s₀ s) : State.Keeps s₀
    (writeSec s d off v) := by
  unfold writeSec
  repeat' first
    | with_reducible
        first
          | assumption | refine secCmd_keeps ?_ | refine writeSecDebug_keeps ?_ | refine attest_keeps ?_
          | refine plainWrite_keeps ?_ | refine keeps_ite_else ?_ (fun _ => ?_)
    | dsimp only
    | split

theorem writeObs_keeps {s₀ s : State} {d : RegDesc} {off : Nat} {v : Word} (hk : State.Keeps s₀ s) : State.Keeps s₀
    (writeObs s d off v) := by
  unfold writeObs
  repeat' first
    | with_reducible
        first
          | assumption | refine plainWrite_keeps ?_ | refine writeFreezeCtl_keeps ?_ | refine writeMark_keeps ?_
          | refine writeTrCtl_keeps ?_ | refine obsDenied_keeps ?_ | refine keeps_ite_else ?_ (fun _ => ?_)
    | dsimp only
    | split

theorem writeChk_keeps {s₀ s : State} {d : RegDesc} {off : Nat} {v : Word} (hk : State.Keeps s₀ s) : State.Keeps s₀
    (writeChk s d off v) := by
  unfold writeChk
  repeat' first
    | with_reducible
        first
          | assumption | refine plainWrite_keeps ?_ | refine tcLoad_keeps ?_ | refine writeUnitCmd_keeps ?_
          | refine keeps_ite_else ?_ (fun _ => ?_)
    | dsimp only
    | split

theorem writeTir_keeps {s₀ s : State} {d : RegDesc} {off : Nat} {v : Word} (hk : State.Keeps s₀ s) : State.Keeps s₀
    (writeTir s d off v) := by
  unfold writeTir
  repeat' first
    | with_reducible
        first
          | assumption | refine writeTirCtl_keeps ?_ | refine writeQuota_keeps ?_ | refine plainWrite_keeps ?_
          | refine writeUnless_keeps ?_ | refine keeps_ite_else ?_ (fun _ => ?_)
    | dsimp only
    | split

theorem writeFab_keeps {s₀ s : State} {d : RegDesc} {off : Nat} {v : Word} (hk : State.Keeps s₀ s) : State.Keeps s₀
    (writeFab s d off v) := by
  unfold writeFab
  repeat' first
    | with_reducible
        first
          | assumption | refine writeUnless_keeps ?_ | refine State.setReg_keeps ?_ | refine writeLinkCtl_keeps ?_
          | refine sendHeld_keeps ?_ | refine plainWrite_keeps ?_ | refine keeps_ite_else ?_ (fun _ => ?_)
    | dsimp only
    | split

theorem writeHst_keeps {s₀ s : State} {d : RegDesc} {off : Nat} {v : Word} (hk : State.Keeps s₀ s) : State.Keeps s₀
    (writeHst s d off v) := by
  unfold writeHst
  repeat' first
    | with_reducible
        first
          | assumption | refine hstSignal_keeps ?_ | refine State.setReg_keeps ?_ | refine msixRelease_keeps ?_
          | refine plainWrite_keeps ?_ | refine keeps_ite_else ?_ (fun _ => ?_)
    | dsimp only
    | split

theorem writeSns_keeps {s₀ s : State} {d : RegDesc} {off : Nat} {v : Word} (hk : State.Keeps s₀ s) : State.Keeps s₀
    (writeSns s d off v) := by
  unfold writeSns
  repeat' first
    | with_reducible
        first
          | assumption | refine writeTrigCtl_keeps ?_ | refine writeSnsSrc_keeps ?_ | refine plainWrite_keeps ?_
          | refine keeps_ite_else ?_ (fun _ => ?_)
    | dsimp only
    | split

theorem writeVis_keeps {s₀ s : State} {d : RegDesc} {off : Nat} {v : Word} (hk : State.Keeps s₀ s) : State.Keeps s₀
    (writeVis s d off v) := by
  unfold writeVis
  repeat' first
    | with_reducible
        first
          | assumption | refine writeVisSlot_keeps ?_ | refine writeUnless_keeps ?_ | refine plainWrite_keeps ?_
          | refine keeps_ite_else ?_ (fun _ => ?_)
    | dsimp only
    | split

theorem writeFlt_keeps {s₀ s : State} {d : RegDesc} {off : Nat} {v : Word} (hk : State.Keeps s₀ s) : State.Keeps s₀
    (writeFlt s d off v) := by
  unfold writeFlt
  repeat' first
    | with_reducible
        first
          | assumption | refine writeChanCfg_keeps ?_ | refine writeChanCoef_keeps ?_ | refine writeUnless_keeps ?_
          | refine plainWrite_keeps ?_ | refine keeps_ite_else ?_ (fun _ => ?_)
    | dsimp only
    | split

theorem writeSlv_keeps {s₀ s : State} {d : RegDesc} {off : Nat} {v : Word} (hk : State.Keeps s₀ s) : State.Keeps s₀
    (writeSlv s d off v) := by
  unfold writeSlv
  repeat' first
    | with_reducible
        first
          | assumption | refine writeSlvCtl_keeps ?_ | refine writeSlvArea_keeps ?_ | refine writeSlvSlot_keeps ?_
          | refine writeUnless_keeps ?_ | refine plainWrite_keeps ?_ | refine keeps_ite_else ?_ (fun _ => ?_)
    | dsimp only
    | split

theorem writeClu_keeps {s₀ s : State} {d : RegDesc} {off : Nat} {v : Word} (hk : State.Keeps s₀ s) : State.Keeps s₀
    (writeClu s d off v) := by
  unfold writeClu
  repeat' first
    | with_reducible
        first
          | assumption | refine plainWrite_keeps ?_ | refine keeps_ite_else ?_ (fun _ => ?_)
    | dsimp only
    | split

theorem writeBrc_keeps {s₀ s : State} {d : RegDesc} {off : Nat} {v : Word} (hk : State.Keeps s₀ s) : State.Keeps s₀
    (writeBrc s d off v) := by
  unfold writeBrc
  repeat' first
    | with_reducible
        first
          | assumption | refine writeBrcCtl_keeps ?_ | refine writeBrcArea_keeps ?_ | refine writeIdxCmd_keeps ?_
          | refine plainWrite_keeps ?_ | refine keeps_ite_else ?_ (fun _ => ?_)
    | dsimp only
    | split

theorem writeReg_keeps {s₀ s : State} {off : Nat} {v : Word} (hk : State.Keeps s₀ s) : State.Keeps s₀ (writeReg s off
    v) := by
  unfold writeReg
  repeat' first
    | with_reducible
        first
          | assumption | refine writeGctl_keeps ?_ | refine writeLmp_keeps ?_ | refine writeInt_keeps ?_
          | refine writeTim_keeps ?_ | refine writePwr_keeps ?_ | refine writeSec_keeps ?_ | refine writeObs_keeps ?_
          | refine writeChk_keeps ?_ | refine writeTir_keeps ?_ | refine writeFab_keeps ?_ | refine writeHst_keeps ?_
          | refine writeSns_keeps ?_ | refine writeVis_keeps ?_ | refine writeFlt_keeps ?_ | refine writeSlv_keeps ?_
          | refine writeClu_keeps ?_ | refine writeBrc_keeps ?_ | refine keeps_ite_else ?_ (fun _ => ?_)
    | dsimp only
    | split

theorem writeRegChecked_keeps {s₀ s : State} {la : Nat} {bs : List Byte} {remote : Option Nat} (hk : State.Keeps s₀ s)
    : State.Keeps s₀ (writeRegChecked s la bs remote).1 := by
  unfold writeRegChecked
  repeat' first
    | with_reducible
        first
          | assumption | refine writeReg_keeps ?_ | refine sticky_keeps ?_ | refine keeps_ite_else ?_ (fun _ => ?_)
          | refine keeps_ite_fst ?_ ?_
    | dsimp only
    | split

theorem registerWrite_keeps {s₀ s : State} {src : Source} {la : Nat} {bs : List Byte} {remote : Option Nat} (hk :
    State.Keeps s₀ s) : State.Keeps s₀ (registerWrite s src la bs remote) := by
  unfold registerWrite
  repeat' first
    | with_reducible
        first
          | assumption | refine writeRegChecked_keeps ?_ | refine keeps_ite_else ?_ (fun _ => ?_)
          | refine keeps_ite_fst ?_ ?_
    | refine keeps_mk ?_; with_reducible
        first
          | assumption | refine writeRegChecked_keeps ?_ | refine keeps_ite_else ?_ (fun _ => ?_)
          | refine keeps_ite_fst ?_ ?_
    | dsimp only
    | split

theorem execRegisterWrite_keeps {s₀ : State} {addr : Word} {len : Nat} {value : Word} {s : State} (hk : State.Keeps s₀
    s) : OutKeeps s₀ (execRegisterWrite addr len value s) := by
  unfold execRegisterWrite
  repeat' first
    | with_reducible
        first
          | assumption | refine outKeeps_next ?_ | refine registerWrite_keeps ?_
          | refine keeps_ite_else ?_ (fun _ => ?_)
    | dsimp only
    | split

theorem execRemoteRegisterWrite_keeps {s₀ : State} {node : BitVec 10} {addr : Word} {len : Nat} {value : Word} {s :
    State} (hk : State.Keeps s₀ s) : OutKeeps s₀ (execRemoteRegisterWrite node addr len value s) := by
  unfold execRemoteRegisterWrite
  repeat' first
    | with_reducible
        first
          | assumption | refine outKeeps_next ?_ | refine registerWrite_keeps ?_
          | refine keeps_ite_else ?_ (fun _ => ?_)
    | dsimp only
    | split

theorem readObs_keeps {s₀ s : State} {d : RegDesc} {off : Nat} (hk : State.Keeps s₀ s) : State.Keeps s₀ (readObs s d
    off).1 := by
  unfold readObs
  repeat' first
    | with_reducible
        first
          | assumption | refine obsDenied_keeps ?_ | refine keeps_ite_else ?_ (fun _ => ?_)
          | refine keeps_ite_fst ?_ ?_
    | dsimp only
    | split

theorem readReg_keeps {s₀ s : State} {off : Nat} (hk : State.Keeps s₀ s) : State.Keeps s₀ (readReg s off).1 := by
  unfold readReg
  repeat' first
    | with_reducible
        first
          | assumption | refine nowRead_keeps ?_ | refine readObs_keeps ?_ | refine keeps_ite_else ?_ (fun _ => ?_)
          | refine keeps_ite_fst ?_ ?_
    | dsimp only
    | split

theorem readRegBytes_keeps {s₀ s : State} {off len : Nat} (hk : State.Keeps s₀ s) : State.Keeps s₀ (readRegBytes s off
    len).1 := by
  unfold readRegBytes
  repeat' first
    | with_reducible
        first
          | assumption | refine readReg_keeps ?_
    | dsimp only
    | split

end Sys2Proof.Machine
end

