-- ==== Sys2Proof/Laws/KeepsIssue.lean ====
section
/-! SUPPORT. What issued operations, packets, the host, the TAP, nodes, batches, steps and the start-up keep of a state: one lemma
for each function, cited by those of the functions that call it. -/

set_option Elab.async false
set_option linter.unusedTactic false
set_option linter.unreachableTactic false

namespace Sys2Proof.Machine

/-! ### Machine/Issue.lean -/

theorem afterDone_keeps {s₀ s : State} {p : PendingOp} {status : Nat} {result : Word} {data : List Byte} (hk :
    State.Keeps s₀ s) : State.Keeps s₀ (afterDone s p status result data) := by
  unfold afterDone
  repeat' first
    | with_reducible
        first
          | assumption | refine takeRecord_keeps ?_ | refine complete_keeps ?_
          | refine keeps_ite_else ?_ (fun _ => ?_)
    | dsimp only
    | split

theorem afterPerf_keeps {s₀ : State} {r : State × Perf} {p : PendingOp} (hk : State.Keeps s₀ r.1) : State.Keeps s₀
    (afterPerf r p) := by
  unfold afterPerf
  repeat' first
    | with_reducible
        first
          | assumption | refine afterDone_keeps ?_ | refine askHost_keeps ?_ | refine State.addOp_keeps ?_
          | refine respond_keeps ?_
    | dsimp only
    | split

theorem awayBytes_keeps {s₀ s : State} {src dst : Word} {n : Nat} {c : CopyRun} (hk : State.Keeps s₀ s) : State.Keeps
    s₀ (awayBytes s src dst n c).1 := by
  unfold awayBytes
  repeat' first
    | with_reducible
        first
          | assumption | refine State.bumpFree_keeps ?_ | refine keeps_ite_else ?_ (fun _ => ?_)
          | refine keeps_ite_fst ?_ ?_
    | dsimp only
    | split

theorem copyGets_keeps {s₀ : State} {tag : Nat} {op : Op} {x0 : Nat} {x1 : State} {x2 : Nat} (hk : State.Keeps s₀ x1)
    : State.Keeps s₀ (copyGets tag op x0 x1 x2) := by
  induction x0 generalizing x1 x2
  · unfold copyGets
    repeat' first
      | with_reducible
          first
            | assumption | refine sendPacket_keeps ?_ | refine keeps_ite_else ?_ (fun _ => ?_)
            | refine keeps_ite_fst ?_ ?_
      | dsimp only
      | split
  · rename_i ih
    unfold copyGets
    repeat' first
      | with_reducible
          first
            | assumption | refine ih ?_ | refine sendPacket_keeps ?_ | refine keeps_ite_else ?_ (fun _ => ?_)
            | refine keeps_ite_fst ?_ ?_
      | dsimp only
      | split

theorem readAt_keeps {s₀ s : State} {la len cls : Nat} {cluster : Option Nat} (hk : State.Keeps s₀ s) :
    State.Keeps s₀ (readAt s la len cls cluster).1 := by
  unfold readAt
  extract_lets st r q
  refine keeps_ite_fst hk (keeps_ite_fst ?_ (keeps_ite_fst ?_ hk))
  · exact readBytes_keeps hk
  · have h : ∀ off, State.Keeps s₀ ((readRegBytes s off len).1, stOK, (readRegBytes s off len).2.map some).1 :=
      fun _ => readRegBytes_keeps (len := len) hk
    exact h _

theorem writeAt_keeps {s₀ s : State} {la : Nat} {bs : List (Option Byte)} {remote : Option Nat} (hk : State.Keeps s₀
    s) : State.Keeps s₀ (writeAt s la bs remote).1 := by
  unfold writeAt
  repeat' first
    | with_reducible
        first
          | assumption | refine writeRegChecked_keeps ?_ | refine writeData_keeps ?_ | refine settle_keeps ?_
          | refine postData_keeps ?_ | refine keeps_ite_else ?_ (fun _ => ?_) | refine keeps_ite_fst ?_ ?_
    | dsimp only
    | split

theorem copyPuts_keeps {s₀ : State} {tag cls : Nat} {dst : Word} {x0 : Nat} {x1 : State} {x2 : Nat} {x3 : List Byte}
    (hk : State.Keeps s₀ x1) : State.Keeps s₀ (copyPuts tag cls dst x0 x1 x2 x3) := by
  induction x0 generalizing x1 x2 x3
  · unfold copyPuts
    repeat' first
      | with_reducible
          first
            | assumption | refine sendPacket_keeps ?_ | refine keeps_ite_else ?_ (fun _ => ?_)
            | refine keeps_ite_fst ?_ ?_
      | dsimp only
      | split
  · rename_i ih
    unfold copyPuts
    repeat' first
      | with_reducible
          first
            | assumption | refine ih ?_ | refine sendPacket_keeps ?_ | refine keeps_ite_else ?_ (fun _ => ?_)
            | refine keeps_ite_fst ?_ ?_
      | dsimp only
      | split

theorem copyPart_keeps {s₀ s : State} {p : PendingOp} {off n : Nat} {c : CopyRun} (hk : State.Keeps s₀ s) :
    State.Keeps s₀ (copyPart s p off n c).1 := by
  unfold copyPart
  repeat' first
    | with_reducible
        first
          | assumption | refine awayBytes_keeps ?_ | refine readAt_keeps ?_ | refine writeAt_keeps ?_
          | refine copyPuts_keeps ?_ | refine keeps_ite_else ?_ (fun _ => ?_) | refine keeps_ite_fst ?_ ?_
          | refine keeps_foldl ?_ (fun _ _ _ => ?_) | refine keeps_foldl_fst ?_ (fun _ _ _ => ?_)
    | dsimp only
    | split

theorem copyParts_keeps {s₀ : State} {p : PendingOp} {x0 : Nat} {x1 : State} {x2 : Nat} {x3 : CopyRun} (hk :
    State.Keeps s₀ x1) : State.Keeps s₀ (copyParts p x0 x1 x2 x3).1 := by
  induction x0 generalizing x1 x2 x3
  · unfold copyParts
    repeat' first
      | with_reducible
          first
            | assumption | refine copyPart_keeps ?_ | refine keeps_ite_else ?_ (fun _ => ?_)
            | refine keeps_ite_fst ?_ ?_
      | dsimp only
      | split
  · rename_i ih
    unfold copyParts
    repeat' first
      | with_reducible
          first
            | assumption | refine ih ?_ | refine copyPart_keeps ?_ | refine keeps_ite_else ?_ (fun _ => ?_)
            | refine keeps_ite_fst ?_ ?_
      | dsimp only
      | split

theorem copyReads_keeps {s₀ : State} {tag : Nat} {op : Op} {x0 : Nat} {x1 : State} {x2 : Nat} (hk : State.Keeps s₀ x1)
    : State.Keeps s₀ (copyReads tag op x0 x1 x2) := by
  induction x0 generalizing x1 x2
  · unfold copyReads
    repeat' first
      | with_reducible
          first
            | assumption | refine hostRequestAt_keeps ?_ | refine keeps_ite_else ?_ (fun _ => ?_)
      | dsimp only
      | split
  · rename_i ih
    unfold copyReads
    repeat' first
      | with_reducible
          first
            | assumption | refine ih ?_ | refine hostRequestAt_keeps ?_ | refine keeps_ite_else ?_ (fun _ => ?_)
      | dsimp only
      | split

theorem deliverGet_keeps {s₀ s : State} {o : Origin} {op : Op} {st : Nat} {bs : List (Option Byte)} (hk : State.Keeps
    s₀ s) : State.Keeps s₀ (deliverGet s o op st bs).1 := by
  unfold deliverGet
  repeat' first
    | with_reducible
        first
          | assumption | refine State.bumpFree_keeps ?_ | refine writeAt_keeps ?_
          | refine keeps_ite_else ?_ (fun _ => ?_) | refine keeps_ite_fst ?_ ?_
    | dsimp only
    | split

theorem doAtomic_keeps {s₀ s : State} {op : Op} (hk : State.Keeps s₀ s) : State.Keeps s₀ (doAtomic s op).1 := by
  unfold doAtomic
  repeat' first
    | with_reducible
        first
          | assumption | refine openResult_keeps ?_ | refine readAt_keeps ?_ | refine settle_keeps ?_
          | refine writeBytes_keeps ?_ | refine keeps_ite_else ?_ (fun _ => ?_) | refine keeps_ite_fst ?_ ?_
    | dsimp only
    | split

theorem doGet_keeps {s₀ s : State} {o : Origin} {op : Op} (hk : State.Keeps s₀ s) : State.Keeps s₀ (doGet s o op).1 :=
    by
  unfold doGet
  repeat' first
    | with_reducible
        first
          | assumption | refine readAt_keeps ?_ | refine deliverGet_keeps ?_ | refine keeps_ite_else ?_ (fun _ => ?_)
          | refine keeps_ite_fst ?_ ?_
    | dsimp only
    | split

theorem putBytes_keeps {s₀ s : State} {op : Op} {bs : List (Option Byte)} {remote : Option Nat} (hk : State.Keeps s₀
    s) : State.Keeps s₀ (putBytes s op bs remote).1 := by
  unfold putBytes
  repeat' first
    | with_reducible
        first
          | assumption | refine writeAt_keeps ?_ | refine bump_keeps ?_ | refine keeps_ite_else ?_ (fun _ => ?_)
          | refine keeps_ite_fst ?_ ?_
    | dsimp only
    | split

theorem doPut_keeps {s₀ s : State} {o : Origin} {op : Op} {data : List Byte} {remote : Option Nat} (hk : State.Keeps
    s₀ s) : State.Keeps s₀ (doPut s o op data remote).1 := by
  unfold doPut
  repeat' first
    | with_reducible
        first
          | assumption | refine putBytes_keeps ?_ | refine readAt_keeps ?_ | refine bump_keeps ?_
          | refine keeps_ite_else ?_ (fun _ => ?_) | refine keeps_ite_fst ?_ ?_
    | dsimp only
    | split

theorem doWatch_keeps {s₀ s : State} {op : Op} (hk : State.Keeps s₀ s) : State.Keeps s₀ (doWatch s op).1 := by
  unfold doWatch
  repeat' first
    | with_reducible
        first
          | assumption | refine openResult_keeps ?_ | refine readAt_keeps ?_ | refine keeps_ite_else ?_ (fun _ => ?_)
          | refine keeps_ite_fst ?_ ?_
    | dsimp only
    | split

theorem endCopy_keeps {s₀ s : State} {p : PendingOp} {st : Nat} {moved : Word} {bs : List Byte} (hk : State.Keeps s₀
    s) : State.Keeps s₀ (endCopy s p st moved bs) := by
  unfold endCopy
  repeat' first
    | with_reducible
        first
          | assumption | refine completeOp_keeps ?_ | refine unitWrite_keeps ?_ | refine sendPacket_keeps ?_
          | refine State.addOp_keeps ?_ | refine State.dropOp_keeps ?_ | refine keeps_ite_else ?_ (fun _ => ?_)
          | refine keeps_ite_fst ?_ ?_
    | dsimp only
    | split

theorem sendBlocks_keeps {s₀ s : State} {p : PendingOp} {bs : List (Option Byte)} (hk : State.Keeps s₀ s) :
    State.Keeps s₀ (sendBlocks s p bs) := by
  unfold sendBlocks
  repeat' first
    | with_reducible
        first
          | assumption | refine sendOp_keeps ?_ | refine bump_keeps ?_ | refine complete_keeps ?_
          | refine keeps_ite_else ?_ (fun _ => ?_) | refine keeps_ite_fst ?_ ?_
          | refine keeps_foldl ?_ (fun _ _ _ => ?_) | refine keeps_foldl_fst ?_ (fun _ _ _ => ?_)
    | refine keeps_mk ?_; with_reducible
        first
          | assumption | refine sendOp_keeps ?_ | refine bump_keeps ?_ | refine complete_keeps ?_
          | refine keeps_ite_else ?_ (fun _ => ?_) | refine keeps_ite_fst ?_ ?_
          | refine keeps_foldl ?_ (fun _ _ _ => ?_) | refine keeps_foldl_fst ?_ (fun _ _ _ => ?_)
    | dsimp only
    | split

theorem sendPut_keeps {s₀ s : State} {p : PendingOp} (hk : State.Keeps s₀ s) : State.Keeps s₀ (sendPut s p) := by
  unfold sendPut
  repeat' first
    | with_reducible
        first
          | assumption | refine sendOp_keeps ?_ | refine complete_keeps ?_ | refine askHost_keeps ?_
          | refine readAt_keeps ?_ | refine sendBlocks_keeps ?_ | refine keeps_ite_else ?_ (fun _ => ?_)
          | refine keeps_ite_fst ?_ ?_
    | dsimp only
    | split

theorem startOp_keeps {s₀ s : State} {p : PendingOp} (hk : State.Keeps s₀ s) : State.Keeps s₀ (startOp s p) := by
  unfold startOp
  repeat' first
    | with_reducible
        first
          | assumption | refine openResult_keeps ?_ | refine complete_keeps ?_ | refine State.addOp_keeps ?_
          | refine copyGets_keeps ?_ | refine copyReads_keeps ?_ | refine startSignal_keeps ?_
          | refine afterPerf_keeps ?_ | refine doGet_keeps ?_ | refine doAtomic_keeps ?_ | refine doWatch_keeps ?_
          | refine doPut_keeps ?_ | refine sendPut_keeps ?_ | refine sendOp_keeps ?_
          | refine keeps_ite_else ?_ (fun _ => ?_) | refine keeps_ite_fst ?_ ?_
    | dsimp only
    | split

theorem issue_keeps {s₀ s : State} {o : Origin} {op : Op} {data : List Byte} (hk : State.Keeps s₀ s) : State.Keeps s₀
    (issue s o op data) := by
  unfold issue
  repeat' first
    | with_reducible
        first
          | assumption | refine State.addOp_keeps ?_ | refine startOp_keeps ?_
          | refine keeps_ite_else ?_ (fun _ => ?_)
    | refine keeps_mk ?_; with_reducible
        first
          | assumption | refine State.addOp_keeps ?_ | refine startOp_keeps ?_
          | refine keeps_ite_else ?_ (fun _ => ?_)
    | dsimp only
    | split

theorem execAtomicAdd_keeps {s₀ : State} {h : OpHead} {dst operand : Word} {s : State} (hk : State.Keeps s₀ s) :
    OutKeeps s₀ (execAtomicAdd h dst operand s) := by
  unfold execAtomicAdd
  repeat' first
    | with_reducible
        first
          | assumption | refine outKeeps_next ?_ | refine issue_keeps ?_
    | dsimp only
    | split

theorem execAtomicAnd_keeps {s₀ : State} {h : OpHead} {dst operand : Word} {s : State} (hk : State.Keeps s₀ s) :
    OutKeeps s₀ (execAtomicAnd h dst operand s) := by
  unfold execAtomicAnd
  repeat' first
    | with_reducible
        first
          | assumption | refine outKeeps_next ?_ | refine issue_keeps ?_
    | dsimp only
    | split

theorem execAtomicCas_keeps {s₀ : State} {h : OpHead} {dst operand compare : Word} {s : State} (hk : State.Keeps s₀ s)
    : OutKeeps s₀ (execAtomicCas h dst operand compare s) := by
  unfold execAtomicCas
  repeat' first
    | with_reducible
        first
          | assumption | refine outKeeps_next ?_ | refine issue_keeps ?_
    | dsimp only
    | split

theorem execAtomicMax_keeps {s₀ : State} {h : OpHead} {dst operand : Word} {s : State} (hk : State.Keeps s₀ s) :
    OutKeeps s₀ (execAtomicMax h dst operand s) := by
  unfold execAtomicMax
  repeat' first
    | with_reducible
        first
          | assumption | refine outKeeps_next ?_ | refine issue_keeps ?_
    | dsimp only
    | split

theorem execAtomicMin_keeps {s₀ : State} {h : OpHead} {dst operand : Word} {s : State} (hk : State.Keeps s₀ s) :
    OutKeeps s₀ (execAtomicMin h dst operand s) := by
  unfold execAtomicMin
  repeat' first
    | with_reducible
        first
          | assumption | refine outKeeps_next ?_ | refine issue_keeps ?_
    | dsimp only
    | split

theorem execAtomicOr_keeps {s₀ : State} {h : OpHead} {dst operand : Word} {s : State} (hk : State.Keeps s₀ s) :
    OutKeeps s₀ (execAtomicOr h dst operand s) := by
  unfold execAtomicOr
  repeat' first
    | with_reducible
        first
          | assumption | refine outKeeps_next ?_ | refine issue_keeps ?_
    | dsimp only
    | split

theorem execAtomicSwap_keeps {s₀ : State} {h : OpHead} {dst operand : Word} {s : State} (hk : State.Keeps s₀ s) :
    OutKeeps s₀ (execAtomicSwap h dst operand s) := by
  unfold execAtomicSwap
  repeat' first
    | with_reducible
        first
          | assumption | refine outKeeps_next ?_ | refine issue_keeps ?_
    | dsimp only
    | split

theorem execCopy_keeps {s₀ : State} {h : OpHead} {dst src : Word} {len : Nat} {report : Word} {s : State} (hk :
    State.Keeps s₀ s) : OutKeeps s₀ (execCopy h dst src len report s) := by
  unfold execCopy
  repeat' first
    | with_reducible
        first
          | assumption | refine outKeeps_next ?_ | refine issue_keeps ?_
    | dsimp only
    | split

theorem releaseQueued_keeps {s₀ : State} {x0 : Nat} {x1 : State} (hk : State.Keeps s₀ x1) : State.Keeps s₀
    (releaseQueued x0 x1) := by
  induction x0 generalizing x1
  · unfold releaseQueued
    repeat' first
      | with_reducible
          first
            | assumption | refine startOp_keeps ?_ | refine State.dropOp_keeps ?_
      | dsimp only
      | split
  · rename_i ih
    unfold releaseQueued
    repeat' first
      | with_reducible
          first
            | assumption | refine ih ?_ | refine startOp_keeps ?_ | refine State.dropOp_keeps ?_
      | dsimp only
      | split

theorem release_keeps {s₀ : State} {s : State} (hk : State.Keeps s₀ s) : State.Keeps s₀ (release s) := by
  unfold release
  repeat' first
    | with_reducible
        first
          | assumption | refine releaseQueued_keeps ?_ | refine keeps_ite_else ?_ (fun _ => ?_)
    | dsimp only
    | split

theorem execCopyComplete_keeps {s₀ : State} {tag : Nat} {remote : List Byte} {s : State} (hk : State.Keeps s₀ s) :
    OutKeeps s₀ (execCopyComplete tag remote s) := by
  unfold execCopyComplete
  repeat' first
    | with_reducible
        first
          | assumption | refine outKeeps_next ?_ | refine copyParts_keeps ?_ | refine release_keeps ?_
          | refine endCopy_keeps ?_ | refine keeps_ite_else ?_ (fun _ => ?_) | refine keeps_ite_fst ?_ ?_
    | dsimp only
    | split

theorem execFence_keeps {s₀ : State} {h : OpHead} {s : State} (hk : State.Keeps s₀ s) : OutKeeps s₀ (execFence h s) :=
    by
  unfold execFence
  repeat' first
    | with_reducible
        first
          | assumption | refine outKeeps_next ?_ | refine issue_keeps ?_
    | dsimp only
    | split

theorem execFenceComplete_keeps {s₀ : State} {tag : Nat} {s : State} (hk : State.Keeps s₀ s) : OutKeeps s₀
    (execFenceComplete tag s) := by
  unfold execFenceComplete
  repeat' first
    | with_reducible
        first
          | assumption | refine outKeeps_next ?_ | refine release_keeps ?_ | refine completeOp_keeps ?_
          | refine keeps_ite_else ?_ (fun _ => ?_)
    | dsimp only
    | split

theorem execGet_keeps {s₀ : State} {h : OpHead} {dst src : Word} {len : Nat} {s : State} (hk : State.Keeps s₀ s) :
    OutKeeps s₀ (execGet h dst src len s) := by
  unfold execGet
  repeat' first
    | with_reducible
        first
          | assumption | refine outKeeps_next ?_ | refine issue_keeps ?_
    | dsimp only
    | split

theorem execHostCompletion_keeps {s₀ : State} {tag : Nat} {ok : Bool} {data : List Byte} {s : State} (hk : State.Keeps
    s₀ s) : OutKeeps s₀ (execHostCompletion tag ok data s) := by
  unfold execHostCompletion
  repeat' first
    | with_reducible
        first
          | assumption | refine outKeeps_next ?_ | refine release_keeps ?_ | refine failOp_keeps ?_
          | refine State.bumpFree_keeps ?_ | refine State.dropOp_keeps ?_ | refine afterPerf_keeps ?_
          | refine deliverGet_keeps ?_ | refine complete_keeps ?_ | refine putBytes_keeps ?_ | refine sendOp_keeps ?_
          | refine keeps_ite_else ?_ (fun _ => ?_) | refine keeps_ite_fst ?_ ?_
    | dsimp only
    | split

theorem execPut_keeps {s₀ : State} {h : OpHead} {dst src : Word} {len : Nat} {s : State} (hk : State.Keeps s₀ s) :
    OutKeeps s₀ (execPut h dst src len s) := by
  unfold execPut
  repeat' first
    | with_reducible
        first
          | assumption | refine outKeeps_next ?_ | refine issue_keeps ?_
    | dsimp only
    | split

theorem execPutSignal_keeps {s₀ : State} {h : OpHead} {dst src : Word} {len : Nat} {signal : Word} {s : State} (hk :
    State.Keeps s₀ s) : OutKeeps s₀ (execPutSignal h dst src len signal s) := by
  unfold execPutSignal
  repeat' first
    | with_reducible
        first
          | assumption | refine outKeeps_next ?_ | refine issue_keeps ?_
    | dsimp only
    | split

theorem execWatch_keeps {s₀ : State} {h : OpHead} {dst operand : Word} {edges : Nat} {s : State} (hk : State.Keeps s₀
    s) : OutKeeps s₀ (execWatch h dst operand edges s) := by
  unfold execWatch
  repeat' first
    | with_reducible
        first
          | assumption | refine outKeeps_next ?_ | refine issue_keeps ?_
    | dsimp only
    | split

theorem execWatchTimeout_keeps {s₀ : State} {tag : Nat} {s : State} (hk : State.Keeps s₀ s) : OutKeeps s₀
    (execWatchTimeout tag s) := by
  unfold execWatchTimeout
  repeat' first
    | with_reducible
        first
          | assumption | refine outKeeps_next ?_ | refine release_keeps ?_ | refine completeOp_keeps ?_
          | refine failOp_keeps ?_ | refine State.dropHeld_keeps ?_ | refine sendPacket_keeps ?_
          | refine keeps_ite_else ?_ (fun _ => ?_) | refine keeps_ite_fst ?_ ?_
    | dsimp only
    | split

theorem idle_keeps {s₀ : State} {s : State} (hk : State.Keeps s₀ s) : State.Keeps s₀ (idle s) := by
  unfold idle
  repeat' first
    | with_reducible
        first
          | assumption | refine release_keeps ?_ | refine mediaArrives_keeps ?_ | refine idleTick_keeps ?_
    | dsimp only
    | split

theorem issueRecord_keeps {s₀ s : State} {src : Source} {cls : Option Nat} {a : Word} {origin : Option Word → Origin}
    (hk : State.Keeps s₀ s) : State.Keeps s₀ (issueRecord s src cls a origin) := by
  unfold issueRecord
  repeat' first
    | with_reducible
        first
          | assumption | refine complete_keeps ?_ | refine State.bumpFree_keeps ?_ | refine issue_keeps ?_
          | refine unitRead_keeps ?_ | refine rejectRecord_keeps ?_ | refine keeps_ite_else ?_ (fun _ => ?_)
          | refine keeps_ite_fst ?_ ?_
    | dsimp only
    | split

/-! ### Machine/Service.lean -/

theorem readBlock_keeps {s₀ s : State} {a : Word} {n : Nat} (hk : State.Keeps s₀ s) : State.Keeps s₀ (readBlock s a
    n).1 := by
  unfold readBlock
  repeat' first
    | with_reducible
        first
          | assumption | refine unitRead_keeps ?_ | refine keeps_ite_else ?_ (fun _ => ?_)
          | refine keeps_ite_fst ?_ ?_
    | dsimp only
    | split

theorem readHeader_keeps {s₀ s : State} {p : ServiceParams} {u : Nat} (hk : State.Keeps s₀ s) : State.Keeps s₀
    (readHeader s p u).1 := by
  unfold readHeader
  repeat' first
    | with_reducible
        first
          | assumption | refine readBlock_keeps ?_
    | dsimp only
    | split

theorem plainResult_keeps {s₀ s : State} {admitAt status : Nat} {ended : List Nat} (hk : State.Keeps s₀ s) :
    State.Keeps s₀ (plainResult s admitAt status ended).1 := by
  unfold plainResult
  repeat' first
    | with_reducible
        first
          | assumption | refine State.bumpFree_keeps ?_
    | dsimp only
    | split

theorem claimInput_keeps {s₀ s : State} {p : ServiceParams} {u : Nat} (hk : State.Keeps s₀ s) : State.Keeps s₀
    (claimInput s p u).1 := by
  unfold claimInput
  repeat' first
    | with_reducible
        first
          | assumption | refine unitRead_keeps ?_ | refine unitWrite_keeps ?_ | refine keeps_ite_else ?_ (fun _ => ?_)
          | refine keeps_ite_fst ?_ ?_
    | dsimp only
    | split

theorem countService_keeps {s₀ s : State} {p : ServiceParams} {i : Nat} (hk : State.Keeps s₀ s) : State.Keeps s₀
    (countService s p i) := by
  unfold countService
  repeat' first
    | with_reducible
        first
          | assumption | refine settle_keeps ?_ | refine countAt_keeps ?_
    | dsimp only
    | split

theorem writeAnswer_keeps {s₀ s : State} {p : ServiceParams} {h : InputHeader} {bytes : List Byte} (hk : State.Keeps
    s₀ s) : State.Keeps s₀ (writeAnswer s p h bytes) := by
  unfold writeAnswer
  repeat' first
    | with_reducible
        first
          | assumption | refine issue_keeps ?_ | refine keeps_ite_else ?_ (fun _ => ?_)
    | dsimp only
    | split

theorem answerInput_keeps {s₀ s : State} {p : ServiceParams} {u : Nat} {h : InputHeader} {r : ServiceResult} (hk :
    State.Keeps s₀ s) : State.Keeps s₀ (answerInput s p u h r) := by
  unfold answerInput
  repeat' first
    | with_reducible
        first
          | assumption | refine claimInput_keeps ?_ | refine countService_keeps ?_ | refine writeAnswer_keeps ?_
          | refine keeps_ite_else ?_ (fun _ => ?_) | refine keeps_ite_fst ?_ ?_
    | dsimp only
    | split

theorem answerAborted_keeps {s₀ : State} {p : ServiceParams} {s : State} {a : SvcAborted} (hk : State.Keeps s₀ s) :
    State.Keeps s₀ (answerAborted p s a) := by
  unfold answerAborted
  repeat' first
    | with_reducible
        first
          | assumption | refine readHeader_keeps ?_ | refine plainResult_keeps ?_ | refine answerInput_keeps ?_
          | refine keeps_foldl ?_ (fun _ _ _ => ?_) | refine keeps_foldl_fst ?_ (fun _ _ _ => ?_)
    | dsimp only
    | split

theorem answerOwed_keeps {s₀ : State} {t : ServiceTurn} {s : State} (hk : State.Keeps s₀ s) : State.Keeps s₀
    (answerOwed t s) := by
  unfold answerOwed
  repeat' first
    | with_reducible
        first
          | assumption | refine answerAborted_keeps ?_ | refine keeps_foldl ?_ (fun _ _ _ => ?_)
          | refine keeps_foldl_fst ?_ (fun _ _ _ => ?_)
    | refine keeps_mk ?_; with_reducible
        first
          | assumption | refine answerAborted_keeps ?_ | refine keeps_foldl ?_ (fun _ _ _ => ?_)
          | refine keeps_foldl_fst ?_ (fun _ _ _ => ?_)
    | dsimp only
    | split

theorem refined_keeps {s₀ s : State} {p : ServiceParams} {e : SvcInput} (hk : State.Keeps s₀ s) :
    State.Keeps s₀ (refined s p e).1 := by
  unfold refined
  extract_lets rep out
  refine keeps_fst ?_
  exact readBlock_keeps (readBlock_keeps hk)

theorem entryResult_keeps {s₀ s : State} {p : ServiceParams} {e : SvcInput} (hk : State.Keeps s₀ s) :
    State.Keeps s₀ (entryResult s p e).1 := by
  unfold entryResult
  extract_lets tile used r0 r f
  split
  · exact keeps_fst hk
  · split
    · exact keeps_fst hk
    · refine keeps_fst ?_
      exact refined_keeps hk

theorem fetchedEntries_keeps {s₀ s : State} {a : Word} {h : List Byte} (hk : State.Keeps s₀ s) : State.Keeps s₀
    (fetchedEntries s a h).1 := by
  unfold fetchedEntries
  repeat' first
    | with_reducible
        first
          | assumption | refine readBlock_keeps ?_ | refine keeps_ite_else ?_ (fun _ => ?_)
          | refine keeps_ite_fst ?_ ?_
    | dsimp only
    | split

theorem putChain_keeps {s₀ s : State} {job : Word} {rs : List (List Byte)} (hk : State.Keeps s₀ s) : State.Keeps s₀
    (putChain s job rs) := by
  unfold putChain
  repeat' first
    | with_reducible
        first
          | assumption | refine unitPut_keeps ?_ | refine keeps_ite_else ?_ (fun _ => ?_)
          | refine keeps_foldl ?_ (fun _ _ _ => ?_) | refine keeps_foldl_fst ?_ (fun _ _ _ => ?_)
    | dsimp only
    | split

theorem putEntry_keeps {s₀ s : State} {e : SvcInput} (hk : State.Keeps s₀ s) : State.Keeps s₀ (putEntry s e) := by
  unfold putEntry
  repeat' first
    | with_reducible
        first
          | assumption | refine keeps_ite_else ?_ (fun _ => ?_)
    | refine keeps_mk ?_; with_reducible
        first
          | assumption | refine keeps_ite_else ?_ (fun _ => ?_)
    | dsimp only
    | split

theorem putQuery_keeps {s₀ s : State} {t : ServiceTurn} {node u j : Nat} {bytes : List Byte} (hk : State.Keeps s₀ s) :
    State.Keeps s₀ (putQuery s t node u j bytes) := by
  unfold putQuery
  repeat' first
    | with_reducible
        first
          | assumption | refine unitPut_keeps ?_
    | dsimp only
    | split

theorem serviceNode0_keeps {s₀ : State} {t : ServiceTurn} {s : State} {i u : Nat} (hk : State.Keeps s₀ s) :
    State.Keeps s₀ (serviceNode0 t s i u) := by
  unfold serviceNode0
  repeat' first
    | with_reducible
        first
          | assumption | refine countService_keeps ?_ | refine readHeader_keeps ?_ | refine putQuery_keeps ?_
          | refine readBlock_keeps ?_ | refine plainResult_keeps ?_ | refine answerInput_keeps ?_
          | refine keeps_ite_else ?_ (fun _ => ?_) | refine keeps_ite_fst ?_ ?_
    | refine keeps_mk ?_; with_reducible
        first
          | assumption | refine countService_keeps ?_ | refine readHeader_keeps ?_ | refine putQuery_keeps ?_
          | refine readBlock_keeps ?_ | refine plainResult_keeps ?_ | refine answerInput_keeps ?_
          | refine keeps_ite_else ?_ (fun _ => ?_) | refine keeps_ite_fst ?_ ?_
    | dsimp only
    | split

theorem serviceNode2_keeps {s₀ : State} {t : ServiceTurn} {s : State} {_i u : Nat} (hk : State.Keeps s₀ s) :
    State.Keeps s₀ (serviceNode2 t s _i u) := by
  unfold serviceNode2
  repeat' first
    | with_reducible
        first
          | assumption | refine putQuery_keeps ?_ | refine readBlock_keeps ?_ | refine putEntry_keeps ?_
          | refine keeps_ite_else ?_ (fun _ => ?_) | refine keeps_ite_fst ?_ ?_
          | refine keeps_foldl ?_ (fun _ _ _ => ?_) | refine keeps_foldl_fst ?_ (fun _ _ _ => ?_)
    | dsimp only
    | split

theorem serviceNode3_keeps {s₀ : State} {t : ServiceTurn} {s : State} {_i u : Nat} (hk : State.Keeps s₀ s) :
    State.Keeps s₀ (serviceNode3 t s _i u) := by
  unfold serviceNode3
  repeat' first
    | with_reducible
        first
          | assumption | refine readBlock_keeps ?_ | refine putEntry_keeps ?_
    | dsimp only
    | split

theorem takeFetch_keeps {s₀ : State} {p : ServiceParams} {u kept : Nat}
    {r : State × SvcInput × List (Nat × List (List Byte))} {j : Nat} (hk : State.Keeps s₀ r.1) :
    State.Keeps s₀ (takeFetch p u kept r j).1 := by
  unfold takeFetch
  extract_lets h hb f
  have h2 : State.Keeps s₀ h.1 := readBlock_keeps hk
  have h3 : State.Keeps s₀ f.1 := by
    unfold f
    split
    · exact fetchedEntries_keeps h2
    · exact keeps_fst h2
  exact keeps_fst h3

theorem serviceNode5_keeps {s₀ : State} {t : ServiceTurn} {s : State} {_i u : Nat} (hk : State.Keeps s₀ s) :
    State.Keeps s₀ (serviceNode5 t s _i u) := by
  unfold serviceNode5
  repeat' first
    | with_reducible
        first
          | assumption | refine takeFetch_keeps ?_ | refine putEntry_keeps ?_
          | refine keeps_foldl ?_ (fun _ _ _ => ?_) | refine keeps_foldl_fst ?_ (fun _ _ _ => ?_)
    | dsimp only
    | split

theorem serviceNode6_keeps {s₀ : State} {t : ServiceTurn} {s : State} (hk : State.Keeps s₀ s) : State.Keeps s₀
    (serviceNode6 t s) := by
  unfold serviceNode6
  repeat' first
    | with_reducible
        first
          | assumption | refine putEntry_keeps ?_ | refine unitPut_keeps ?_ | refine putChain_keeps ?_
          | refine keeps_ite_else ?_ (fun _ => ?_) | refine keeps_foldl ?_ (fun _ _ _ => ?_)
          | refine keeps_foldl_fst ?_ (fun _ _ _ => ?_)
    | dsimp only
    | split

theorem serviceNode8_keeps {s₀ : State} {t : ServiceTurn} {s : State} {_i u : Nat} (hk : State.Keeps s₀ s) :
    State.Keeps s₀ (serviceNode8 t s _i u) := by
  unfold serviceNode8
  repeat' first
    | with_reducible
        first
          | assumption | refine entryResult_keeps ?_ | refine answerInput_keeps ?_
    | dsimp only
    | split

theorem serviceTurn_keeps {s₀ s : State} {run : Run} {x : Inst} {g : Graph} {arg : Word} (hk : State.Keeps s₀ s) :
    State.Keeps s₀ (serviceTurn s run x g arg).1 := by
  unfold serviceTurn
  repeat' first
    | with_reducible
        first
          | assumption | refine readBlock_keeps ?_
    | dsimp only
    | split

theorem serviceWork_keeps {s₀ s : State} {t : ServiceTurn} {inputs : List Nat} (hk : State.Keeps s₀ s) : State.Keeps
    s₀ (serviceWork s t inputs) := by
  unfold serviceWork
  repeat' first
    | with_reducible
        first
          | assumption | refine serviceNode0_keeps ?_ | refine answerOwed_keeps ?_ | refine serviceNode2_keeps ?_
          | refine serviceNode3_keeps ?_ | refine serviceNode5_keeps ?_ | refine serviceNode6_keeps ?_
          | refine serviceNode8_keeps ?_ | refine keeps_foldl ?_ (fun _ _ _ => ?_)
          | refine keeps_foldl_fst ?_ (fun _ _ _ => ?_)
    | dsimp only
    | split

/-! ### Machine/PacketOps.lean -/

theorem answerSent_keeps {s₀ s : State} {p : PendingOp} {status : Nat} {aux : Word} {data : List Byte} (hk :
    State.Keeps s₀ s) : State.Keeps s₀ (answerSent s p status aux data) := by
  unfold answerSent
  repeat' first
    | with_reducible
        first
          | assumption | refine State.dropOp_keeps ?_ | refine afterPerf_keeps ?_ | refine deliverGet_keeps ?_
          | refine State.bumpFree_keeps ?_ | refine completeOp_keeps ?_ | refine keeps_ite_else ?_ (fun _ => ?_)
          | refine keeps_ite_fst ?_ ?_
    | dsimp only
    | split

theorem answerOp_keeps {s₀ s : State} {p : PendingOp} {status : Nat} {aux : Word} {data : List Byte} (hk : State.Keeps
    s₀ s) : State.Keeps s₀ (answerOp s p status aux data) := by
  unfold answerOp
  repeat' first
    | with_reducible
        first
          | assumption | refine completeOp_keeps ?_ | refine answerSent_keeps ?_
    | dsimp only
    | split

theorem takeResponse_keeps {s₀ s : State} {tag : BitVec 32} {status : Nat} {aux : Word} {data : List Byte} (hk :
    State.Keeps s₀ s) : State.Keeps s₀ (takeResponse s tag status aux data) := by
  unfold takeResponse
  repeat' first
    | with_reducible
        first
          | assumption | refine release_keeps ?_ | refine answerOp_keeps ?_ | refine lateAnswer_keeps ?_
    | dsimp only
    | split

theorem takeRequest_keeps {s₀ s : State} {p : Packet} (hk : State.Keeps s₀ s) : State.Keeps s₀ (takeRequest s p) := by
  unfold takeRequest
  repeat' first
    | with_reducible
        first
          | assumption | refine bump_keeps ?_ | refine respond_keeps ?_ | refine issue_keeps ?_
          | refine keeps_ite_else ?_ (fun _ => ?_) | refine keeps_ite_fst ?_ ?_
    | dsimp only
    | split

theorem execPacketArrive_keeps {s₀ : State} {l : Fin 8} {vl : Bool} {pkt : Packet} {s : State} (hk : State.Keeps s₀ s)
    : OutKeeps s₀ (execPacketArrive l vl pkt s) := by
  unfold execPacketArrive
  repeat' first
    | with_reducible
        first
          | assumption | refine outKeeps_next ?_ | refine execExchangeReceive_keeps ?_ | refine cancelWatch_keeps ?_
          | refine forwardPacket_keeps ?_ | refine takeResponse_keeps ?_ | refine execWatchConfirm_keeps ?_
          | refine execFailureNotice_keeps ?_ | refine State.satFld_keeps ?_ | refine takeRequest_keeps ?_
          | refine keeps_ite_else ?_ (fun _ => ?_)
    | dsimp only
    | split

theorem execResponse_keeps {s₀ : State} {tag : BitVec 32} {status : Byte} {aux : Word} {data : List Byte} {s : State}
    (hk : State.Keeps s₀ s) : OutKeeps s₀ (execResponse tag status aux data s) := by
  unfold execResponse
  repeat' first
    | with_reducible
        first
          | assumption | refine outKeeps_next ?_ | refine takeResponse_keeps ?_
    | dsimp only
    | split

theorem execResponseTimeout_keeps {s₀ : State} {tag : BitVec 32} {s : State} (hk : State.Keeps s₀ s) : OutKeeps s₀
    (execResponseTimeout tag s) := by
  unfold execResponseTimeout
  repeat' first
    | with_reducible
        first
          | assumption | refine outKeeps_next ?_ | refine release_keeps ?_ | refine failOp_keeps ?_
          | refine partTimeout_keeps ?_ _ (by assumption)
    | dsimp only
    | split

/-! ### Machine/HostOps.lean -/

theorem countBar_keeps {s₀ s : State} {bar : Bar} {n : Nat} (hk : State.Keeps s₀ s) : State.Keeps s₀ (countBar s bar
    n) := by
  unfold countBar
  repeat' first
    | with_reducible
        first
          | assumption | refine countTier_keeps ?_
    | dsimp only
    | split

theorem unsupported_keeps {s₀ : State} {s : State} (hk : State.Keeps s₀ s) : State.Keeps s₀ (unsupported s) := by
  unfold unsupported
  repeat' first
    | with_reducible
        first
          | assumption
    | refine keeps_mk ?_; with_reducible
        first
          | assumption
    | dsimp only
    | split

theorem hostRequest_keeps {s₀ s : State} {bar : Bar} {p : HostPlace} {op : Op} {data : List Byte} (hk : State.Keeps s₀
    s) : State.Keeps s₀ (hostRequest s bar p op data) := by
  unfold hostRequest
  repeat' first
    | with_reducible
        first
          | assumption | refine complete_keeps ?_ | refine issue_keeps ?_ | refine countBar_keeps ?_
    | dsimp only
    | split

theorem execHostAtomicop_keeps {s₀ : State} {bar : Bar} {off : Word} {op : HostAtomic} {operand compare : Word} {s :
    State} (hk : State.Keeps s₀ s) : OutKeeps s₀ (execHostAtomicop bar off op operand compare s) := by
  unfold execHostAtomicop
  repeat' first
    | with_reducible
        first
          | assumption | refine outKeeps_next ?_ | refine unsupported_keeps ?_ | refine hostRequest_keeps ?_
          | refine keeps_ite_else ?_ (fun _ => ?_)
    | dsimp only
    | split

theorem execHostRead_keeps {s₀ : State} {bar : Bar} {off : Word} {len : Nat} {s : State} (hk : State.Keeps s₀ s) :
    OutKeeps s₀ (execHostRead bar off len s) := by
  unfold execHostRead
  repeat' first
    | with_reducible
        first
          | assumption | refine outKeeps_next ?_ | refine unsupported_keeps ?_ | refine hostRequest_keeps ?_
          | refine keeps_ite_else ?_ (fun _ => ?_)
    | dsimp only
    | split

theorem execHostWrite_keeps {s₀ : State} {bar : Bar} {off : Word} {data : List Byte} {s : State} (hk : State.Keeps s₀
    s) : OutKeeps s₀ (execHostWrite bar off data s) := by
  unfold execHostWrite
  repeat' first
    | with_reducible
        first
          | assumption | refine outKeeps_next ?_ | refine hostRequest_keeps ?_
          | refine keeps_ite_else ?_ (fun _ => ?_)
    | dsimp only
    | split

theorem lookedSlot_keeps {s₀ : State} {s : State} (hk : State.Keeps s₀ s) : State.Keeps s₀ (lookedSlot s) := by
  unfold lookedSlot
  repeat' first
    | with_reducible
        first
          | assumption | refine State.bumpFree_keeps ?_ | refine keeps_ite_else ?_ (fun _ => ?_)
    | dsimp only
    | split

theorem execServiceRecord_keeps {s₀ s : State} (hk : State.Keeps s₀ s) : OutKeeps s₀ (execServiceRecord s) := by
  unfold execServiceRecord
  repeat' first
    | with_reducible
        first
          | assumption | refine outKeeps_next ?_ | refine lookedSlot_keeps ?_ | refine State.bumpFree_keeps ?_
          | refine issueRecord_keeps ?_ | refine keeps_ite_else ?_ (fun _ => ?_)
    | refine keeps_mk ?_; with_reducible
        first
          | assumption | refine outKeeps_next ?_ | refine lookedSlot_keeps ?_ | refine State.bumpFree_keeps ?_
          | refine issueRecord_keeps ?_ | refine keeps_ite_else ?_ (fun _ => ?_)
    | dsimp only
    | split

/-! ### Machine/Tap.lean -/

theorem memAccess_keeps {s₀ s : State} {acc : TapAccess} (hk : State.Keeps s₀ s) : State.Keeps s₀ (memAccess s acc) :=
    by
  unfold memAccess
  repeat' first
    | with_reducible
        first
          | assumption | refine tapAnswer_keeps ?_ | refine readAt_keeps ?_ | refine writeAt_keeps ?_
          | refine keeps_ite_else ?_ (fun _ => ?_) | refine keeps_ite_fst ?_ ?_
    | dsimp only
    | split

theorem execMemacc_keeps {s₀ : State} {acc : TapAccess} {s : State} (hk : State.Keeps s₀ s) : OutKeeps s₀ (execMemacc
    acc s) := by
  unfold execMemacc
  repeat' first
    | with_reducible
        first
          | assumption | refine outKeeps_next ?_ | refine tapAt_keeps ?_ (fun _ _ => ?_) | refine memAccess_keeps ?_
    | dsimp only
    | split

theorem execObsread_keeps {s₀ : State} {off : Word} {s : State} (hk : State.Keeps s₀ s) : OutKeeps s₀ (execObsread off
    s) := by
  unfold execObsread
  repeat' first
    | with_reducible
        first
          | assumption | refine outKeeps_next ?_ | refine tapAt_keeps ?_ (fun _ _ => ?_) | refine readReg_keeps ?_
          | refine tapAnswer_keeps ?_ | refine keeps_ite_else ?_ (fun _ => ?_) | refine keeps_ite_fst ?_ ?_
    | dsimp only
    | split

/-! ### Machine/Nodes.lean -/

theorem closeNode_keeps {s₀ : State} {n : Fin 16} {uid i x0 : Nat} {x1 : State} (hk : State.Keeps s₀ x1) : State.Keeps
    s₀ (closeNode n uid i x0 x1) := by
  induction x0 generalizing x1
  · unfold closeNode
    repeat' first
      | with_reducible
          first
            | assumption | refine advanceInst_keeps ?_ | refine finishNode_keeps ?_ | refine State.setPhase_keeps ?_
            | refine issueRecord_keeps ?_ | refine keeps_ite_else ?_ (fun _ => ?_)
      | dsimp only
      | split
  · rename_i ih
    unfold closeNode
    repeat' first
      | with_reducible
          first
            | assumption | refine ih ?_ | refine advanceInst_keeps ?_ | refine finishNode_keeps ?_
            | refine State.setPhase_keeps ?_ | refine issueRecord_keeps ?_ | refine keeps_ite_else ?_ (fun _ => ?_)
      | dsimp only
      | split

theorem execNodeDone_keeps {s₀ : State} {seq : Fin 16} {inst node : Nat} {s : State} (hk : State.Keeps s₀ s) :
    OutKeeps s₀ (execNodeDone seq inst node s) := by
  unfold execNodeDone
  repeat' first
    | with_reducible
        first
          | assumption | refine outKeeps_next ?_ | refine readBuoy_keeps ?_ | refine checkInst_keeps ?_
          | refine State.setPhase_keeps ?_ | refine State.modNode_keeps ?_ | refine closeNode_keeps ?_
          | refine keeps_ite_else ?_ (fun _ => ?_) | refine keeps_ite_fst ?_ ?_
    | dsimp only
    | split

theorem execNodeFinish_keeps {s₀ : State} {seq : Fin 16} {inst node : Nat} {s : State} (hk : State.Keeps s₀ s) :
    OutKeeps s₀ (execNodeFinish seq inst node s) := by
  unfold execNodeFinish
  repeat' first
    | with_reducible
        first
          | assumption | refine outKeeps_next ?_ | refine closeNode_keeps ?_
    | dsimp only
    | split

/-! ### Machine/Batches.lean -/

theorem markBadPools_keeps {s₀ s : State} {cs : List Nat} (hk : State.Keeps s₀ s) : State.Keeps s₀ (markBadPools s cs)
    := by
  unfold markBadPools
  repeat' first
    | with_reducible
        first
          | assumption | refine State.setBit_keeps ?_ | refine keeps_ite_else ?_ (fun _ => ?_)
          | refine keeps_foldl ?_ (fun _ _ _ => ?_) | refine keeps_foldl_fst ?_ (fun _ _ _ => ?_)
    | dsimp only
    | split

theorem serviceBatch_keeps {s₀ : State} {b : Batch} {r : State × Option ServiceTurn} {first count per : Nat} (hk :
    State.Keeps s₀ r.1) : State.Keeps s₀ (serviceBatch b r first count per) := by
  unfold serviceBatch
  repeat' first
    | with_reducible
        first
          | assumption | refine State.wrapFld_keeps ?_ | refine State.setBit_keeps ?_ | refine State.satFld_keeps ?_
          | refine endBatch_keeps ?_ | refine serviceWork_keeps ?_ | refine keeps_ite_else ?_ (fun _ => ?_)
          | refine keeps_foldl ?_ (fun _ _ _ => ?_) | refine keeps_foldl_fst ?_ (fun _ _ _ => ?_)
    | dsimp only
    | split

theorem notSpawned_keeps {s₀ s : State} {c n number : Nat} (hk : State.Keeps s₀ s) : State.Keeps s₀ (notSpawned s c n
    number) := by
  unfold notSpawned
  repeat' first
    | with_reducible
        first
          | assumption | refine State.satFld_keeps ?_ | refine State.setBit_keeps ?_ | refine State.setBatch_keeps ?_
    | dsimp only
    | split

theorem spawnAll_keeps {s₀ : State} {p : BatchPlan} {number total x0 : Nat} {x1 : State} {x2 : Nat} (hk : State.Keeps
    s₀ x1) : State.Keeps s₀ (spawnAll p number total x0 x1 x2) := by
  induction x0 generalizing x1 x2
  · unfold spawnAll
    repeat' first
      | with_reducible
          first
            | assumption | refine notSpawned_keeps ?_ | refine spawnStrand_keeps ?_ _ (by assumption)
            | refine keeps_ite_else ?_ (fun _ => ?_) | refine keeps_foldl ?_ (fun _ _ _ => ?_)
            | refine keeps_foldl_fst ?_ (fun _ _ _ => ?_)
      | dsimp only
      | split
  · rename_i ih
    unfold spawnAll
    repeat' first
      | with_reducible
          first
            | assumption | refine ih ?_ | refine notSpawned_keeps ?_ | refine spawnStrand_keeps ?_ _ (by assumption)
            | refine keeps_ite_else ?_ (fun _ => ?_) | refine keeps_foldl ?_ (fun _ _ _ => ?_)
            | refine keeps_foldl_fst ?_ (fun _ _ _ => ?_)
      | dsimp only
      | split

theorem execBatchLaunch_keeps {s₀ : State} {seq : Fin 16} {node : Nat} {s : State} (hk : State.Keeps s₀ s) : OutKeeps
    s₀ (execBatchLaunch seq node s) := by
  unfold execBatchLaunch
  repeat' first
    | with_reducible
        first
          | assumption | refine outKeeps_next ?_ | refine takeLaunch_keeps ?_ _ (by assumption)
          | refine unitRead_keeps ?_ | refine obsStart_keeps ?_ | refine pickCode_keeps ?_ | refine endBatch_keeps ?_
          | refine markBadPools_keeps ?_ | refine abortBatch_keeps ?_ | refine admittedRange_keeps ?_
          | refine serviceBatch_keeps ?_ | refine serviceTurn_keeps ?_ | refine checkBatch_keeps ?_
          | refine spawnAll_keeps ?_ | refine keeps_ite_else ?_ (fun _ => ?_) | refine keeps_ite_fst ?_ ?_
    | refine keeps_mk ?_; with_reducible
        first
          | assumption | refine outKeeps_next ?_ | refine takeLaunch_keeps ?_ _ (by assumption)
          | refine unitRead_keeps ?_ | refine obsStart_keeps ?_ | refine pickCode_keeps ?_ | refine endBatch_keeps ?_
          | refine markBadPools_keeps ?_ | refine abortBatch_keeps ?_ | refine admittedRange_keeps ?_
          | refine serviceBatch_keeps ?_ | refine serviceTurn_keeps ?_ | refine checkBatch_keeps ?_
          | refine spawnAll_keeps ?_ | refine keeps_ite_else ?_ (fun _ => ?_) | refine keeps_ite_fst ?_ ?_
    | extract_lets
    | split

theorem execParkTimeout_keeps {s₀ : State} {id : BitVec 22} {s : State} (hk : State.Keeps s₀ s) : OutKeeps s₀
    (execParkTimeout id s) := by
  unfold execParkTimeout
  repeat' first
    | with_reducible
        first
          | assumption | refine outKeeps_next ?_ | refine runTo_keeps ?_ | refine parkStrand_keeps ?_
          | refine keeps_ite_else ?_ (fun _ => ?_)
    | dsimp only
    | split

theorem loadStrand_keeps {s₀ s : State} {t : Strand} {p ctx : Nat} (hk : State.Keeps s₀ s) : State.Keeps s₀
    (loadStrand s t p ctx) := by
  unfold loadStrand
  repeat' first
    | with_reducible
        first
          | assumption | refine State.setStrand_keeps ?_
    | dsimp only
    | split

theorem loadAnywhere_keeps {s₀ s : State} {c : Nat} {t : Strand} {p : Nat} (hk : State.Keeps s₀ s) : State.Keeps s₀
    (loadAnywhere s c t p) := by
  unfold loadAnywhere
  repeat' first
    | with_reducible
        first
          | assumption | refine loadStrand_keeps ?_ | refine State.bumpFree_keeps ?_
    | dsimp only
    | split

theorem execStrandLoad_keeps {s₀ : State} {cluster : Fin 8} {s : State} (hk : State.Keeps s₀ s) : OutKeeps s₀
    (execStrandLoad cluster s) := by
  unfold execStrandLoad
  repeat' first
    | with_reducible
        first
          | assumption | refine outKeeps_next ?_ | refine loadAnywhere_keeps ?_ | refine State.bumpFree_keeps ?_
          | refine State.setStrand_keeps ?_ | refine settle_keeps ?_ | refine saveStrand_keeps ?_
          | refine loadStrand_keeps ?_ | refine keeps_ite_else ?_ (fun _ => ?_)
    | dsimp only
    | split

/-! ### Machine/Steps.lean -/

theorem State.modProc_keeps {s₀ s : State} {p : Nat} {f : Proc → Proc} (hk : State.Keeps s₀ s) : State.Keeps s₀
    (State.modProc s p f) := by
  unfold State.modProc
  repeat' first
    | with_reducible
        first
          | assumption
    | refine keeps_mk ?_; with_reducible
        first
          | assumption
    | dsimp only
    | split

theorem keptStep_keeps {s₀ s : State} {pc : Word} {bs : List Byte} (hk : State.Keeps s₀ s) : State.Keeps s₀ (keptStep
    s pc bs).1 := by
  unfold keptStep
  repeat' first
    | with_reducible
        first
          | assumption | refine State.bumpFree_keeps ?_ | refine keeps_ite_else ?_ (fun _ => ?_)
          | refine keeps_ite_fst ?_ ?_
    | dsimp only
    | split

theorem fetchStep_keeps {s₀ s : State} {t : Strand} (hk : State.Keeps s₀ s) : State.Keeps s₀ (fetchStep s t).1 := by
  unfold fetchStep
  repeat' first
    | with_reducible
        first
          | assumption | refine State.bumpFree_keeps ?_ | refine keptStep_keeps ?_ | refine unitRead_keeps ?_
          | refine State.modProc_keeps ?_ | refine keeps_ite_else ?_ (fun _ => ?_) | refine keeps_ite_fst ?_ ?_
    | dsimp only
    | split

theorem issued_keeps {s₀ : State} {s : State} {t : Strand} (hk : State.Keeps s₀ s) : State.Keeps s₀ (issued s t) := by
  unfold issued
  repeat' first
    | with_reducible
        first
          | assumption | refine exceedResv_keeps ?_ | refine State.modProc_keeps ?_
          | refine keeps_ite_else ?_ (fun _ => ?_)
    | dsimp only
    | split

theorem issueStep_keeps {s₀ s : State} {id : BitVec 22} {op : Nat} {run : State → Strand → StepWord → State} (hk :
    State.Keeps s₀ s) (hf : ∀ s y0 y1, State.Keeps s₀ s → State.Keeps s₀ (run s y0 y1)) : State.Keeps s₀ (issueStep s
    id op run) := by
  unfold issueStep
  repeat' first
    | with_reducible
        first
          | assumption | refine hf _ _ _ ?_ | refine fetchStep_keeps ?_ | refine faultStrand_keeps ?_
          | refine issued_keeps ?_ | refine keeps_ite_else ?_ (fun _ => ?_) | refine keeps_ite_fst ?_ ?_
    | dsimp only
    | split

theorem stepAlu_keeps {s₀ s : State} {id : BitVec 22} {op : Nat} {f : Strand → StepWord → Word} (hk : State.Keeps s₀
    s) : State.Keeps s₀ (stepAlu s id op f) := by
  unfold stepAlu
  repeat' first
    | with_reducible
        first
          | assumption | refine issueStep_keeps ?_ (fun _ _ _ _ => ?_) | refine State.setStrand_keeps ?_
    | dsimp only
    | split

theorem execStepAdd_keeps {s₀ : State} {id : BitVec 22} {s : State} (hk : State.Keeps s₀ s) : OutKeeps s₀ (execStepAdd
    id s) := by
  unfold execStepAdd
  repeat' first
    | with_reducible
        first
          | assumption | refine outKeeps_next ?_ | refine stepAlu_keeps ?_
    | dsimp only
    | split

theorem execStepAddi_keeps {s₀ : State} {id : BitVec 22} {s : State} (hk : State.Keeps s₀ s) : OutKeeps s₀
    (execStepAddi id s) := by
  unfold execStepAddi
  repeat' first
    | with_reducible
        first
          | assumption | refine outKeeps_next ?_ | refine stepAlu_keeps ?_
    | dsimp only
    | split

theorem execStepAnd_keeps {s₀ : State} {id : BitVec 22} {s : State} (hk : State.Keeps s₀ s) : OutKeeps s₀ (execStepAnd
    id s) := by
  unfold execStepAnd
  repeat' first
    | with_reducible
        first
          | assumption | refine outKeeps_next ?_ | refine stepAlu_keeps ?_
    | dsimp only
    | split

theorem stepBranch_keeps {s₀ s : State} {id : BitVec 22} {op : Nat} {cond : Word → Word → Bool} (hk : State.Keeps s₀
    s) : State.Keeps s₀ (stepBranch s id op cond) := by
  unfold stepBranch
  repeat' first
    | with_reducible
        first
          | assumption | refine issueStep_keeps ?_ (fun _ _ _ _ => ?_) | refine State.setStrand_keeps ?_
          | refine keeps_ite_else ?_ (fun _ => ?_)
    | dsimp only
    | split

theorem execStepBeq_keeps {s₀ : State} {id : BitVec 22} {s : State} (hk : State.Keeps s₀ s) : OutKeeps s₀ (execStepBeq
    id s) := by
  unfold execStepBeq
  repeat' first
    | with_reducible
        first
          | assumption | refine outKeeps_next ?_ | refine stepBranch_keeps ?_
    | dsimp only
    | split

theorem execStepBge_keeps {s₀ : State} {id : BitVec 22} {s : State} (hk : State.Keeps s₀ s) : OutKeeps s₀ (execStepBge
    id s) := by
  unfold execStepBge
  repeat' first
    | with_reducible
        first
          | assumption | refine outKeeps_next ?_ | refine stepBranch_keeps ?_
    | dsimp only
    | split

theorem execStepBlt_keeps {s₀ : State} {id : BitVec 22} {s : State} (hk : State.Keeps s₀ s) : OutKeeps s₀ (execStepBlt
    id s) := by
  unfold execStepBlt
  repeat' first
    | with_reducible
        first
          | assumption | refine outKeeps_next ?_ | refine stepBranch_keeps ?_
    | dsimp only
    | split

theorem execStepBne_keeps {s₀ : State} {id : BitVec 22} {s : State} (hk : State.Keeps s₀ s) : OutKeeps s₀ (execStepBne
    id s) := by
  unfold execStepBne
  repeat' first
    | with_reducible
        first
          | assumption | refine outKeeps_next ?_ | refine stepBranch_keeps ?_
    | dsimp only
    | split

theorem stepFloat_keeps {s₀ s : State} {id : BitVec 22} {op : Nat} {f : Nat → Nat → Nat} (hk : State.Keeps s₀ s) :
    State.Keeps s₀ (stepFloat s id op f) := by
  unfold stepFloat
  repeat' first
    | with_reducible
        first
          | assumption | refine stepAlu_keeps ?_
    | dsimp only
    | split

theorem execStepFadd_keeps {s₀ : State} {id : BitVec 22} {s : State} (hk : State.Keeps s₀ s) : OutKeeps s₀
    (execStepFadd id s) := by
  unfold execStepFadd
  repeat' first
    | with_reducible
        first
          | assumption | refine outKeeps_next ?_ | refine stepFloat_keeps ?_
    | dsimp only
    | split

theorem execStepFcvtfi_keeps {s₀ : State} {id : BitVec 22} {s : State} (hk : State.Keeps s₀ s) : OutKeeps s₀
    (execStepFcvtfi id s) := by
  unfold execStepFcvtfi
  repeat' first
    | with_reducible
        first
          | assumption | refine outKeeps_next ?_ | refine stepAlu_keeps ?_
    | dsimp only
    | split

theorem execStepFcvtif_keeps {s₀ : State} {id : BitVec 22} {s : State} (hk : State.Keeps s₀ s) : OutKeeps s₀
    (execStepFcvtif id s) := by
  unfold execStepFcvtif
  repeat' first
    | with_reducible
        first
          | assumption | refine outKeeps_next ?_ | refine stepAlu_keeps ?_
    | dsimp only
    | split

theorem execStepFdiv_keeps {s₀ : State} {id : BitVec 22} {s : State} (hk : State.Keeps s₀ s) : OutKeeps s₀
    (execStepFdiv id s) := by
  unfold execStepFdiv
  repeat' first
    | with_reducible
        first
          | assumption | refine outKeeps_next ?_ | refine stepFloat_keeps ?_
    | dsimp only
    | split

theorem execStepFfma_keeps {s₀ : State} {id : BitVec 22} {s : State} (hk : State.Keeps s₀ s) : OutKeeps s₀
    (execStepFfma id s) := by
  unfold execStepFfma
  repeat' first
    | with_reducible
        first
          | assumption | refine outKeeps_next ?_ | refine stepAlu_keeps ?_
    | dsimp only
    | split

theorem execStepFlt_keeps {s₀ : State} {id : BitVec 22} {s : State} (hk : State.Keeps s₀ s) : OutKeeps s₀ (execStepFlt
    id s) := by
  unfold execStepFlt
  repeat' first
    | with_reducible
        first
          | assumption | refine outKeeps_next ?_ | refine stepAlu_keeps ?_ | refine keeps_ite_else ?_ (fun _ => ?_)
    | dsimp only
    | split

theorem execStepFmul_keeps {s₀ : State} {id : BitVec 22} {s : State} (hk : State.Keeps s₀ s) : OutKeeps s₀
    (execStepFmul id s) := by
  unfold execStepFmul
  repeat' first
    | with_reducible
        first
          | assumption | refine outKeeps_next ?_ | refine stepFloat_keeps ?_
    | dsimp only
    | split

theorem execStepFsqrt_keeps {s₀ : State} {id : BitVec 22} {s : State} (hk : State.Keeps s₀ s) : OutKeeps s₀
    (execStepFsqrt id s) := by
  unfold execStepFsqrt
  repeat' first
    | with_reducible
        first
          | assumption | refine outKeeps_next ?_ | refine stepAlu_keeps ?_
    | dsimp only
    | split

theorem execStepFsub_keeps {s₀ : State} {id : BitVec 22} {s : State} (hk : State.Keeps s₀ s) : OutKeeps s₀
    (execStepFsub id s) := by
  unfold execStepFsub
  repeat' first
    | with_reducible
        first
          | assumption | refine outKeeps_next ?_ | refine stepFloat_keeps ?_
    | dsimp only
    | split

theorem execStepHash_keeps {s₀ : State} {id : BitVec 22} {s : State} (hk : State.Keeps s₀ s) : OutKeeps s₀
    (execStepHash id s) := by
  unfold execStepHash
  repeat' first
    | with_reducible
        first
          | assumption | refine outKeeps_next ?_ | refine stepAlu_keeps ?_
    | dsimp only
    | split

theorem execStepJal_keeps {s₀ : State} {id : BitVec 22} {s : State} (hk : State.Keeps s₀ s) : OutKeeps s₀ (execStepJal
    id s) := by
  unfold execStepJal
  repeat' first
    | with_reducible
        first
          | assumption | refine outKeeps_next ?_ | refine issueStep_keeps ?_ (fun _ _ _ _ => ?_)
          | refine State.setStrand_keeps ?_
    | dsimp only
    | split

theorem execStepJr_keeps {s₀ : State} {id : BitVec 22} {s : State} (hk : State.Keeps s₀ s) : OutKeeps s₀ (execStepJr
    id s) := by
  unfold execStepJr
  repeat' first
    | with_reducible
        first
          | assumption | refine outKeeps_next ?_ | refine issueStep_keeps ?_ (fun _ _ _ _ => ?_)
          | refine faultStrand_keeps ?_ | refine State.setStrand_keeps ?_ | refine keeps_ite_else ?_ (fun _ => ?_)
    | dsimp only
    | split

theorem execStepMul_keeps {s₀ : State} {id : BitVec 22} {s : State} (hk : State.Keeps s₀ s) : OutKeeps s₀ (execStepMul
    id s) := by
  unfold execStepMul
  repeat' first
    | with_reducible
        first
          | assumption | refine outKeeps_next ?_ | refine stepAlu_keeps ?_
    | dsimp only
    | split

theorem execStepOr_keeps {s₀ : State} {id : BitVec 22} {s : State} (hk : State.Keeps s₀ s) : OutKeeps s₀ (execStepOr
    id s) := by
  unfold execStepOr
  repeat' first
    | with_reducible
        first
          | assumption | refine outKeeps_next ?_ | refine stepAlu_keeps ?_
    | dsimp only
    | split

theorem execStepPopc_keeps {s₀ : State} {id : BitVec 22} {s : State} (hk : State.Keeps s₀ s) : OutKeeps s₀
    (execStepPopc id s) := by
  unfold execStepPopc
  repeat' first
    | with_reducible
        first
          | assumption | refine outKeeps_next ?_ | refine stepAlu_keeps ?_
    | dsimp only
    | split

theorem execStepSari_keeps {s₀ : State} {id : BitVec 22} {s : State} (hk : State.Keeps s₀ s) : OutKeeps s₀
    (execStepSari id s) := by
  unfold execStepSari
  repeat' first
    | with_reducible
        first
          | assumption | refine outKeeps_next ?_ | refine stepAlu_keeps ?_
    | dsimp only
    | split

theorem execStepShli_keeps {s₀ : State} {id : BitVec 22} {s : State} (hk : State.Keeps s₀ s) : OutKeeps s₀
    (execStepShli id s) := by
  unfold execStepShli
  repeat' first
    | with_reducible
        first
          | assumption | refine outKeeps_next ?_ | refine stepAlu_keeps ?_
    | dsimp only
    | split

theorem execStepShri_keeps {s₀ : State} {id : BitVec 22} {s : State} (hk : State.Keeps s₀ s) : OutKeeps s₀
    (execStepShri id s) := by
  unfold execStepShri
  repeat' first
    | with_reducible
        first
          | assumption | refine outKeeps_next ?_ | refine stepAlu_keeps ?_
    | dsimp only
    | split

theorem execStepSlt_keeps {s₀ : State} {id : BitVec 22} {s : State} (hk : State.Keeps s₀ s) : OutKeeps s₀ (execStepSlt
    id s) := by
  unfold execStepSlt
  repeat' first
    | with_reducible
        first
          | assumption | refine outKeeps_next ?_ | refine stepAlu_keeps ?_ | refine keeps_ite_else ?_ (fun _ => ?_)
    | dsimp only
    | split

theorem execStepSltu_keeps {s₀ : State} {id : BitVec 22} {s : State} (hk : State.Keeps s₀ s) : OutKeeps s₀
    (execStepSltu id s) := by
  unfold execStepSltu
  repeat' first
    | with_reducible
        first
          | assumption | refine outKeeps_next ?_ | refine stepAlu_keeps ?_ | refine keeps_ite_else ?_ (fun _ => ?_)
    | dsimp only
    | split

theorem execStepStat_keeps {s₀ : State} {id : BitVec 22} {s : State} (hk : State.Keeps s₀ s) : OutKeeps s₀
    (execStepStat id s) := by
  unfold execStepStat
  repeat' first
    | with_reducible
        first
          | assumption | refine outKeeps_next ?_ | refine issueStep_keeps ?_ (fun _ _ _ _ => ?_)
          | refine State.setStrand_keeps ?_ | refine keeps_ite_else ?_ (fun _ => ?_)
    | dsimp only
    | split

theorem execStepSub_keeps {s₀ : State} {id : BitVec 22} {s : State} (hk : State.Keeps s₀ s) : OutKeeps s₀ (execStepSub
    id s) := by
  unfold execStepSub
  repeat' first
    | with_reducible
        first
          | assumption | refine outKeeps_next ?_ | refine stepAlu_keeps ?_
    | dsimp only
    | split

theorem execStepTime_keeps {s₀ : State} {id : BitVec 22} {s : State} (hk : State.Keeps s₀ s) : OutKeeps s₀
    (execStepTime id s) := by
  unfold execStepTime
  repeat' first
    | with_reducible
        first
          | assumption | refine outKeeps_next ?_ | refine issueStep_keeps ?_ (fun _ _ _ _ => ?_)
          | refine State.setStrand_keeps ?_
    | dsimp only
    | split

theorem execStepWext_keeps {s₀ : State} {id : BitVec 22} {s : State} (hk : State.Keeps s₀ s) : OutKeeps s₀
    (execStepWext id s) := by
  unfold execStepWext
  repeat' first
    | with_reducible
        first
          | assumption | refine outKeeps_next ?_ | refine stepAlu_keeps ?_
    | dsimp only
    | split

theorem execStepWins_keeps {s₀ : State} {id : BitVec 22} {s : State} (hk : State.Keeps s₀ s) : OutKeeps s₀
    (execStepWins id s) := by
  unfold execStepWins
  repeat' first
    | with_reducible
        first
          | assumption | refine outKeeps_next ?_ | refine issueStep_keeps ?_ (fun _ _ _ _ => ?_)
          | refine State.setStrand_keeps ?_
    | dsimp only
    | split

theorem execStepXor_keeps {s₀ : State} {id : BitVec 22} {s : State} (hk : State.Keeps s₀ s) : OutKeeps s₀ (execStepXor
    id s) := by
  unfold execStepXor
  repeat' first
    | with_reducible
        first
          | assumption | refine outKeeps_next ?_ | refine stepAlu_keeps ?_
    | dsimp only
    | split

/-! ### Machine/StepsMem.lean -/

theorem beginWait_keeps {s₀ s : State} {t : Strand} {w : SWait} (hk : State.Keeps s₀ s) : State.Keeps s₀ (beginWait s
    t w) := by
  unfold beginWait
  repeat' first
    | with_reducible
        first
          | assumption | refine settle_keeps ?_ | refine State.tickReady_keeps ?_ | refine saveStrand_keeps ?_
    | dsimp only
    | split

theorem stepBlock_keeps {s₀ s : State} {t : Strand} {rd state : Nat} {op : Op} (hk : State.Keeps s₀ s) : State.Keeps
    s₀ (stepBlock s t rd state op) := by
  unfold stepBlock
  repeat' first
    | with_reducible
        first
          | assumption | refine State.setStrand_keeps ?_ | refine issue_keeps ?_
    | dsimp only
    | split

theorem execStepAtom_keeps {s₀ : State} {id : BitVec 22} {s : State} (hk : State.Keeps s₀ s) : OutKeeps s₀
    (execStepAtom id s) := by
  unfold execStepAtom
  repeat' first
    | with_reducible
        first
          | assumption | refine outKeeps_next ?_ | refine issueStep_keeps ?_ (fun _ _ _ _ => ?_)
          | refine stepBlock_keeps ?_
    | dsimp only
    | split

theorem execStepCopy_keeps {s₀ : State} {id : BitVec 22} {s : State} (hk : State.Keeps s₀ s) : OutKeeps s₀
    (execStepCopy id s) := by
  unfold execStepCopy
  repeat' first
    | with_reducible
        first
          | assumption | refine outKeeps_next ?_ | refine issueStep_keeps ?_ (fun _ _ _ _ => ?_)
          | refine stepBlock_keeps ?_
    | dsimp only
    | split

theorem execStepEnd_keeps {s₀ : State} {id : BitVec 22} {s : State} (hk : State.Keeps s₀ s) : OutKeeps s₀ (execStepEnd
    id s) := by
  unfold execStepEnd
  repeat' first
    | with_reducible
        first
          | assumption | refine outKeeps_next ?_ | refine issueStep_keeps ?_ (fun _ _ _ _ => ?_)
          | refine State.setStrand_keeps ?_
    | dsimp only
    | split

theorem execStepFence_keeps {s₀ : State} {id : BitVec 22} {s : State} (hk : State.Keeps s₀ s) : OutKeeps s₀
    (execStepFence id s) := by
  unfold execStepFence
  repeat' first
    | with_reducible
        first
          | assumption | refine outKeeps_next ?_ | refine issueStep_keeps ?_ (fun _ _ _ _ => ?_)
          | refine State.setStrand_keeps ?_
    | dsimp only
    | split

theorem execStepGet_keeps {s₀ : State} {id : BitVec 22} {s : State} (hk : State.Keeps s₀ s) : OutKeeps s₀ (execStepGet
    id s) := by
  unfold execStepGet
  repeat' first
    | with_reducible
        first
          | assumption | refine outKeeps_next ?_ | refine issueStep_keeps ?_ (fun _ _ _ _ => ?_)
          | refine stepBlock_keeps ?_
    | dsimp only
    | split

theorem sendLoad_keeps {s₀ s : State} {t : Strand} (hk : State.Keeps s₀ s) : State.Keeps s₀ (sendLoad s t) := by
  unfold sendLoad
  repeat' first
    | with_reducible
        first
          | assumption | refine State.setStrand_keeps ?_ | refine issue_keeps ?_
          | refine keeps_ite_else ?_ (fun _ => ?_)
    | dsimp only
    | split

theorem stepLoad_keeps {s₀ s : State} {id : BitVec 22} {op len : Nat} {addr : Strand → StepWord → Word} (hk :
    State.Keeps s₀ s) : State.Keeps s₀ (stepLoad s id op len addr) := by
  unfold stepLoad
  repeat' first
    | with_reducible
        first
          | assumption | refine issueStep_keeps ?_ (fun _ _ _ _ => ?_) | refine faultStrand_keeps ?_
          | refine sendLoad_keeps ?_ | refine State.setStrand_keeps ?_ | refine keeps_ite_else ?_ (fun _ => ?_)
    | dsimp only
    | split

theorem execStepHamm_keeps {s₀ : State} {id : BitVec 22} {s : State} (hk : State.Keeps s₀ s) : OutKeeps s₀
    (execStepHamm id s) := by
  unfold execStepHamm
  repeat' first
    | with_reducible
        first
          | assumption | refine outKeeps_next ?_ | refine stepLoad_keeps ?_
    | dsimp only
    | split

theorem waitLocal_keeps {s₀ s : State} {t : Strand} {rd limit since : Nat} {a cond : Word} (hk : State.Keeps s₀ s) :
    State.Keeps s₀ (waitLocal s t rd limit since a cond) := by
  unfold waitLocal
  repeat' first
    | with_reducible
        first
          | assumption | refine endWait_keeps ?_ | refine beginWait_keeps ?_
    | dsimp only
    | split

theorem waitBuoy_keeps {s₀ s : State} {t : Strand} {rd limit since : Nat} {a cond : Word} (hk : State.Keeps s₀ s) :
    State.Keeps s₀ (waitBuoy s t rd limit since a cond) := by
  unfold waitBuoy
  repeat' first
    | with_reducible
        first
          | assumption | refine endWait_keeps ?_ | refine State.bumpFree_keeps ?_ | refine waitLocal_keeps ?_
          | refine beginWait_keeps ?_ | refine issue_keeps ?_ | refine keeps_ite_else ?_ (fun _ => ?_)
    | dsimp only
    | split

theorem jobWait_keeps {s₀ s : State} {t : Strand} {rd limit : Nat} {done w : Word} {status : Nat} (hk : State.Keeps s₀
    s) : State.Keeps s₀ (jobWait s t rd limit done w status) := by
  unfold jobWait
  repeat' first
    | with_reducible
        first
          | assumption | refine settle_keeps ?_ | refine endWait_keeps ?_ | refine waitBuoy_keeps ?_
          | refine keeps_ite_else ?_ (fun _ => ?_)
    | dsimp only
    | split

theorem sendLaunch_keeps {s₀ s : State} {t : Strand} {rd limit : Nat} {launch done w : Word} (hk : State.Keeps s₀ s) :
    State.Keeps s₀ (sendLaunch s t rd limit launch done w) := by
  unfold sendLaunch
  repeat' first
    | with_reducible
        first
          | assumption | refine sendPacket_keeps ?_ | refine saveStrand_keeps ?_ | refine jobWait_keeps ?_
          | refine State.addOp_keeps ?_
    | refine keeps_mk ?_; with_reducible
        first
          | assumption | refine sendPacket_keeps ?_ | refine saveStrand_keeps ?_ | refine jobWait_keeps ?_
          | refine State.addOp_keeps ?_
    | dsimp only
    | split

theorem jobGo_keeps {s₀ s : State} {t : Strand} {rd limit : Nat} {launch done : Word} {status : Nat} {data : List
    Byte} (hk : State.Keeps s₀ s) : State.Keeps s₀ (jobGo s t rd limit launch done status data) := by
  unfold jobGo
  repeat' first
    | with_reducible
        first
          | assumption | refine settle_keeps ?_ | refine endWait_keeps ?_ | refine State.bumpFree_keeps ?_
          | refine sendLaunch_keeps ?_ | refine bump_keeps ?_ | refine jobWait_keeps ?_
          | refine keeps_ite_else ?_ (fun _ => ?_) | refine keeps_ite_fst ?_ ?_
    | dsimp only
    | split

theorem jobAnswer_keeps {s₀ s : State} {id : Nat} (hk : State.Keeps s₀ s) : State.Keeps s₀ (jobAnswer s id) := by
  unfold jobAnswer
  repeat' first
    | with_reducible
        first
          | assumption | refine jobGo_keeps ?_ | refine jobWait_keeps ?_ | refine keeps_ite_else ?_ (fun _ => ?_)
    | dsimp only
    | split

theorem execStepJob_keeps {s₀ : State} {id : BitVec 22} {s : State} (hk : State.Keeps s₀ s) : OutKeeps s₀ (execStepJob
    id s) := by
  unfold execStepJob
  repeat' first
    | with_reducible
        first
          | assumption | refine outKeeps_next ?_ | refine issueStep_keeps ?_ (fun _ _ _ _ => ?_)
          | refine endWait_keeps ?_ | refine State.bumpFree_keeps ?_ | refine beginWait_keeps ?_
          | refine issue_keeps ?_ | refine jobAnswer_keeps ?_ | refine keeps_ite_else ?_ (fun _ => ?_)
    | dsimp only
    | split

theorem execStepLd32_keeps {s₀ : State} {id : BitVec 22} {s : State} (hk : State.Keeps s₀ s) : OutKeeps s₀
    (execStepLd32 id s) := by
  unfold execStepLd32
  repeat' first
    | with_reducible
        first
          | assumption | refine outKeeps_next ?_ | refine stepLoad_keeps ?_
    | dsimp only
    | split

theorem execStepLd64_keeps {s₀ : State} {id : BitVec 22} {s : State} (hk : State.Keeps s₀ s) : OutKeeps s₀
    (execStepLd64 id s) := by
  unfold execStepLd64
  repeat' first
    | with_reducible
        first
          | assumption | refine outKeeps_next ?_ | refine stepLoad_keeps ?_
    | dsimp only
    | split

theorem execStepLd8_keeps {s₀ : State} {id : BitVec 22} {s : State} (hk : State.Keeps s₀ s) : OutKeeps s₀ (execStepLd8
    id s) := by
  unfold execStepLd8
  repeat' first
    | with_reducible
        first
          | assumption | refine outKeeps_next ?_ | refine stepLoad_keeps ?_
    | dsimp only
    | split

theorem execStepLdk_keeps {s₀ : State} {id : BitVec 22} {s : State} (hk : State.Keeps s₀ s) : OutKeeps s₀ (execStepLdk
    id s) := by
  unfold execStepLdk
  repeat' first
    | with_reducible
        first
          | assumption | refine outKeeps_next ?_ | refine stepLoad_keeps ?_
    | dsimp only
    | split

theorem execStepLdw_keeps {s₀ : State} {id : BitVec 22} {s : State} (hk : State.Keeps s₀ s) : OutKeeps s₀ (execStepLdw
    id s) := by
  unfold execStepLdw
  repeat' first
    | with_reducible
        first
          | assumption | refine outKeeps_next ?_ | refine stepLoad_keeps ?_
    | dsimp only
    | split

theorem execStepOprec_keeps {s₀ : State} {id : BitVec 22} {s : State} (hk : State.Keeps s₀ s) : OutKeeps s₀
    (execStepOprec id s) := by
  unfold execStepOprec
  repeat' first
    | with_reducible
        first
          | assumption | refine outKeeps_next ?_ | refine issueStep_keeps ?_ (fun _ _ _ _ => ?_)
          | refine State.setStrand_keeps ?_ | refine issueRecord_keeps ?_
    | dsimp only
    | split

theorem execStepPark_keeps {s₀ : State} {id : BitVec 22} {s : State} (hk : State.Keeps s₀ s) : OutKeeps s₀
    (execStepPark id s) := by
  unfold execStepPark
  repeat' first
    | with_reducible
        first
          | assumption | refine outKeeps_next ?_ | refine issueStep_keeps ?_ (fun _ _ _ _ => ?_)
          | refine waitBuoy_keeps ?_ | refine parkStrand_keeps ?_ | refine keeps_ite_else ?_ (fun _ => ?_)
    | dsimp only
    | split

theorem execStepPut_keeps {s₀ : State} {id : BitVec 22} {s : State} (hk : State.Keeps s₀ s) : OutKeeps s₀ (execStepPut
    id s) := by
  unfold execStepPut
  repeat' first
    | with_reducible
        first
          | assumption | refine outKeeps_next ?_ | refine issueStep_keeps ?_ (fun _ _ _ _ => ?_)
          | refine stepBlock_keeps ?_
    | dsimp only
    | split

theorem execStepPuts_keeps {s₀ : State} {id : BitVec 22} {s : State} (hk : State.Keeps s₀ s) : OutKeeps s₀
    (execStepPuts id s) := by
  unfold execStepPuts
  repeat' first
    | with_reducible
        first
          | assumption | refine outKeeps_next ?_ | refine issueStep_keeps ?_ (fun _ _ _ _ => ?_)
          | refine stepBlock_keeps ?_
    | dsimp only
    | split

theorem execStepSpawn_keeps {s₀ : State} {id : BitVec 22} {s : State} (hk : State.Keeps s₀ s) : OutKeeps s₀
    (execStepSpawn id s) := by
  unfold execStepSpawn
  repeat' first
    | with_reducible
        first
          | assumption | refine outKeeps_next ?_ | refine issueStep_keeps ?_ (fun _ _ _ _ => ?_)
          | refine State.setStrand_keeps ?_ | refine keeps_ite_else ?_ (fun _ => ?_)
    | dsimp only
    | split

theorem stepStore_keeps {s₀ s : State} {id : BitVec 22} {op len scale : Nat} {data : Strand → StepWord → List Byte}
    (hk : State.Keeps s₀ s) : State.Keeps s₀ (stepStore s id op len scale data) := by
  unfold stepStore
  repeat' first
    | with_reducible
        first
          | assumption | refine issueStep_keeps ?_ (fun _ _ _ _ => ?_) | refine faultStrand_keeps ?_
          | refine issue_keeps ?_ | refine State.setStrand_keeps ?_ | refine keeps_ite_else ?_ (fun _ => ?_)
    | dsimp only
    | split

theorem execStepSt32_keeps {s₀ : State} {id : BitVec 22} {s : State} (hk : State.Keeps s₀ s) : OutKeeps s₀
    (execStepSt32 id s) := by
  unfold execStepSt32
  repeat' first
    | with_reducible
        first
          | assumption | refine outKeeps_next ?_ | refine stepStore_keeps ?_
    | dsimp only
    | split

theorem execStepSt64_keeps {s₀ : State} {id : BitVec 22} {s : State} (hk : State.Keeps s₀ s) : OutKeeps s₀
    (execStepSt64 id s) := by
  unfold execStepSt64
  repeat' first
    | with_reducible
        first
          | assumption | refine outKeeps_next ?_ | refine stepStore_keeps ?_
    | dsimp only
    | split

theorem execStepSt8_keeps {s₀ : State} {id : BitVec 22} {s : State} (hk : State.Keeps s₀ s) : OutKeeps s₀ (execStepSt8
    id s) := by
  unfold execStepSt8
  repeat' first
    | with_reducible
        first
          | assumption | refine outKeeps_next ?_ | refine stepStore_keeps ?_
    | dsimp only
    | split

theorem execStepStw_keeps {s₀ : State} {id : BitVec 22} {s : State} (hk : State.Keeps s₀ s) : OutKeeps s₀ (execStepStw
    id s) := by
  unfold execStepStw
  repeat' first
    | with_reducible
        first
          | assumption | refine outKeeps_next ?_ | refine stepStore_keeps ?_
    | dsimp only
    | split

theorem execStepWatch_keeps {s₀ : State} {id : BitVec 22} {s : State} (hk : State.Keeps s₀ s) : OutKeeps s₀
    (execStepWatch id s) := by
  unfold execStepWatch
  repeat' first
    | with_reducible
        first
          | assumption | refine outKeeps_next ?_ | refine issueStep_keeps ?_ (fun _ _ _ _ => ?_)
          | refine waitBuoy_keeps ?_
    | dsimp only
    | split

theorem finishLoad_keeps {s₀ s : State} {t : Strand} {code rd status : Nat} {data : List Byte} (hk : State.Keeps s₀ s)
    : State.Keeps s₀ (finishLoad s t code rd status data) := by
  unfold finishLoad
  repeat' first
    | with_reducible
        first
          | assumption | refine faultStrand_keeps ?_ | refine makeReady_keeps ?_
          | refine keeps_ite_else ?_ (fun _ => ?_)
    | dsimp only
    | split

theorem takeSpawn_keeps {s₀ s : State} {t : Strand} {rd c : Nat} {pc arg : Word} (hk : State.Keeps s₀ s) : State.Keeps
    s₀ (takeSpawn s t rd c pc arg) := by
  unfold takeSpawn
  repeat' first
    | with_reducible
        first
          | assumption | refine State.satFld_keeps ?_ | refine State.setBit_keeps ?_ | refine State.setBatch_keeps ?_
          | refine endWait_keeps ?_ | refine spawnStrand_keeps ?_ _ (by assumption)
          | refine keeps_ite_else ?_ (fun _ => ?_)
    | dsimp only
    | split

theorem execStrandOpComplete_keeps {s₀ : State} {id : BitVec 22} {s : State} (hk : State.Keeps s₀ s) : OutKeeps s₀
    (execStrandOpComplete id s) := by
  unfold execStrandOpComplete
  repeat' first
    | with_reducible
        first
          | assumption | refine outKeeps_next ?_ | refine finishLoad_keeps ?_ | refine sendLoad_keeps ?_
          | refine jobAnswer_keeps ?_ | refine endWait_keeps ?_ | refine takeSpawn_keeps ?_
          | refine makeReady_keeps ?_ | refine endStrand_keeps ?_ | refine keeps_ite_else ?_ (fun _ => ?_)
    | dsimp only
    | split

theorem execStrandWaitTimeout_keeps {s₀ : State} {id : BitVec 22} {s : State} (hk : State.Keeps s₀ s) : OutKeeps s₀
    (execStrandWaitTimeout id s) := by
  unfold execStrandWaitTimeout
  repeat' first
    | with_reducible
        first
          | assumption | refine outKeeps_next ?_ | refine settle_keeps ?_ | refine endWait_keeps ?_
          | refine execWatchTimeout_keeps ?_ | refine keeps_ite_else ?_ (fun _ => ?_)
    | dsimp only
    | split

/-! ### Machine/Plan.lean -/

theorem applyPlan_keeps {s₀ s : State} {plan : Nat} {sizes : List Nat} (hk : State.Keeps s₀ s) : State.Keeps s₀
    (applyPlan s plan sizes) := by
  unfold applyPlan
  repeat' first
    | with_reducible
        first
          | assumption | refine State.setReg_keeps ?_ | refine State.setBit_keeps ?_ | refine writeLinkCtl_keeps ?_
          | refine keeps_ite_else ?_ (fun _ => ?_) | refine keeps_foldl ?_ (fun _ _ _ => ?_)
          | refine keeps_foldl_fst ?_ (fun _ _ _ => ?_)
    | dsimp only
    | split

/-! ### Machine/Startup.lean -/

theorem applyBytes_keeps {s₀ s : State} {la len : Nat} {zero : Bool} {bs : List Byte} (hk : State.Keeps s₀ s) :
    State.Keeps s₀ (applyBytes s la len zero bs).1 := by
  unfold applyBytes
  repeat' first
    | with_reducible
        first
          | assumption | refine settle_keeps ?_ | refine mendBlocks_keeps ?_ | refine State.fillRange_keeps ?_
          | refine writeBytes_keeps ?_ | refine keeps_ite_else ?_ (fun _ => ?_) | refine keeps_ite_fst ?_ ?_
    | dsimp only
    | split

theorem applyCal_keeps {s₀ s : State} {area : Nat} {user : List Byte} (hk : State.Keeps s₀ s) : State.Keeps s₀
    (applyCal s area user).1 := by
  unfold applyCal
  repeat' first
    | with_reducible
        first
          | assumption | refine applyBytes_keeps ?_ | refine State.setReg_keeps ?_
          | refine keeps_ite_else ?_ (fun _ => ?_) | refine keeps_ite_fst ?_ ?_
    | dsimp only
    | split

theorem applyChunk_keeps {s₀ s : State} {c : Chunk} (hk : State.Keeps s₀ s) : State.Keeps s₀ (applyChunk s c).1 := by
  unfold applyChunk
  repeat' first
    | with_reducible
        first
          | assumption | refine applyBytes_keeps ?_ | refine keeps_ite_else ?_ (fun _ => ?_)
          | refine keeps_ite_fst ?_ ?_
    | dsimp only
    | split

theorem applyEach_keeps {s₀ : State} {α : Type} {f : State → α → State × Bool} {x0 : State} {x1 : List α} (hk :
    State.Keeps s₀ x0) (hf : ∀ s y0, State.Keeps s₀ s → State.Keeps s₀ (f s y0).1) : State.Keeps s₀ (applyEach f x0
    x1).1 := by
  induction x1 generalizing x0
  · unfold applyEach
    repeat' first
      | with_reducible
          first
            | assumption | refine hf _ _ ?_ | refine keeps_ite_else ?_ (fun _ => ?_) | refine keeps_ite_fst ?_ ?_
      | dsimp only
      | split
  · rename_i ih
    unfold applyEach
    repeat' first
      | with_reducible
          first
            | assumption | refine ih ?_ | refine hf _ _ ?_ | refine keeps_ite_else ?_ (fun _ => ?_)
            | refine keeps_ite_fst ?_ ?_
      | dsimp only
      | split

theorem applyNode_keeps {s₀ s : State} {b : List Byte} (hk : State.Keeps s₀ s) : State.Keeps s₀ (applyNode s b).1 :=
    by
  unfold applyNode
  repeat' first
    | with_reducible
        first
          | assumption | refine applyPlan_keeps ?_ | refine State.setFld_keeps ?_ | refine State.bumpFree_keeps ?_
          | refine keeps_ite_else ?_ (fun _ => ?_) | refine keeps_ite_fst ?_ ?_
    | dsimp only
    | split

theorem applyTests_keeps {s₀ s : State} {b : List Byte} (hk : State.Keeps s₀ s) : State.Keeps s₀ (applyTests s b) :=
    by
  unfold applyTests
  repeat' first
    | with_reducible
        first
          | assumption | refine State.setReg_keeps ?_ | refine keeps_ite_else ?_ (fun _ => ?_)
    | refine keeps_mk ?_; with_reducible
        first
          | assumption | refine State.setReg_keeps ?_ | refine keeps_ite_else ?_ (fun _ => ?_)
    | dsimp only
    | split

theorem applyReg_keeps {s₀ s : State} {e : List Byte} (hk : State.Keeps s₀ s) : State.Keeps s₀ (applyReg s e).1 := by
  unfold applyReg
  repeat' first
    | with_reducible
        first
          | assumption | refine writeRegChecked_keeps ?_ | refine keeps_ite_else ?_ (fun _ => ?_)
          | refine keeps_ite_fst ?_ ?_
    | dsimp only
    | split

theorem sealNow_keeps {s₀ s : State} {id home : Nat} (hk : State.Keeps s₀ s) : State.Keeps s₀ (sealNow s id home).1 :=
    by
  unfold sealNow
  repeat' first
    | with_reducible
        first
          | assumption | refine tierRun_keeps ?_ | refine sealEnd_keeps ?_
    | dsimp only
    | split

theorem applyObject_keeps {s₀ s : State} {b : List Byte} (hk : State.Keeps s₀ s) : State.Keeps s₀ (applyObject s b).1
    := by
  unfold applyObject
  repeat' first
    | with_reducible
        first
          | assumption | refine tierRun_keeps ?_ | refine applyBytes_keeps ?_ | refine sealNow_keeps ?_
          | refine keeps_ite_else ?_ (fun _ => ?_) | refine keeps_ite_fst ?_ ?_
    | dsimp only
    | split

theorem applySect_keeps {s₀ s : State} {e : Nat × List Byte} (hk : State.Keeps s₀ s) : State.Keeps s₀ (applySect s
    e).1 := by
  unfold applySect
  repeat' first
    | with_reducible
        first
          | assumption | refine applyEach_keeps ?_ (fun _ _ _ => ?_) | refine applyReg_keeps ?_
          | refine applyChunk_keeps ?_ | refine applyObject_keeps ?_ | refine applyTests_keeps ?_
    | refine keeps_mk ?_; with_reducible
        first
          | assumption | refine applyEach_keeps ?_ (fun _ _ _ => ?_) | refine applyReg_keeps ?_
          | refine applyChunk_keeps ?_ | refine applyObject_keeps ?_ | refine applyTests_keeps ?_
    | dsimp only
    | split

theorem applyImage_keeps {s₀ s : State} {img : Nat} {secs : List (Nat × List Byte)} (hk : State.Keeps s₀ s) :
    State.Keeps s₀ (applyImage s img secs).1 := by
  unfold applyImage
  repeat' first
    | with_reducible
        first
          | assumption | refine applyNode_keeps ?_ | refine applyCal_keeps ?_ | refine applyTests_keeps ?_
          | refine applyEach_keeps ?_ (fun _ _ _ => ?_) | refine applySect_keeps ?_
          | refine keeps_ite_else ?_ (fun _ => ?_) | refine keeps_ite_fst ?_ ?_
    | dsimp only
    | split

theorem resetEntries_keeps {s₀ : State} {s : State} (hk : State.Keeps s₀ s) : State.Keeps s₀ (resetEntries s) := by
  unfold resetEntries
  repeat' first
    | with_reducible
        first
          | assumption | refine lerPush_keeps ?_ | refine keeps_ite_else ?_ (fun _ => ?_)
          | refine keeps_foldl ?_ (fun _ _ _ => ?_) | refine keeps_foldl_fst ?_ (fun _ _ _ => ?_)
    | dsimp only
    | split

theorem enterRunning_keeps {s₀ : State} {s : State} (hk : State.Keeps s₀ s) : State.Keeps s₀ (enterRunning s) := by
  unfold enterRunning
  repeat' first
    | with_reducible
        first
          | assumption | refine setPhase_keeps ?_ | refine resetEntries_keeps ?_
    | dsimp only
    | split

theorem retireErase_keeps {s₀ s : State} (hk : State.Keeps s₀ s) : State.Keeps s₀ (retireErase s) := by
  unfold retireErase
  split
  · exact hk
  · exact hk.trans ⟨fun i => ⟨⟨keptCells_wf (F := keptFills s.fills (· == 2)) (keep := fun a => regionOf a == 2) i.1.1 rfl rfl, i.1.2, i.1.3⟩, ⟨i.2.1, i.2.2, i.2.3, i.2.4, i.2.5, i.2.6, i.2.7, i.2.8, i.2.9, i.2.10, i.2.11, i.2.12⟩, i.3⟩, rfl, fun _ => .refl _, Nat.le_refl _⟩

theorem lockKeeperSources_keeps {s₀ s : State} (hk : State.Keeps s₀ s) : State.Keeps s₀ (lockKeeperSources s) := by
  unfold lockKeeperSources
  repeat' first
    | with_reducible
        first
          | assumption | refine State.setReg_keeps ?_ | refine keeps_foldl ?_ (fun _ _ _ => ?_)
          | refine keeps_foldl_fst ?_ (fun _ _ _ => ?_)
    | dsimp only
    | split

theorem keptIndexes_keeps {s₀ : State} {s : State} (hk : State.Keeps s₀ s) : State.Keeps s₀ (keptIndexes s) := by
  unfold keptIndexes
  repeat' first
    | with_reducible
        first
          | assumption | refine setIdxState_keeps ?_ | refine keeps_foldl ?_ (fun _ _ _ => ?_)
          | refine keeps_foldl_fst ?_ (fun _ _ _ => ?_)
    | dsimp only
    | split

theorem writeXspi_keeps {s₀ s : State} {b : List Byte} (hk : State.Keeps s₀ s) : State.Keeps s₀ (writeXspi s b) := by
  unfold writeXspi
  exact hk.trans ⟨fun i => ⟨⟨i.1.1, i.1.2, kvSetAll_wf _ _ i.1.3⟩, ⟨i.2.1, i.2.2, i.2.3, i.2.4, i.2.5, i.2.6, i.2.7, i.2.8, i.2.9, i.2.10, i.2.11, i.2.12⟩, i.3⟩, rfl, fun _ => .refl _, Nat.le_refl _⟩

theorem reopenIndexes_keeps {s₀ : State} {s : State} (hk : State.Keeps s₀ s) : State.Keeps s₀ (reopenIndexes s) := by
  unfold reopenIndexes
  repeat' first
    | with_reducible
        first
          | assumption | refine openCmd_keeps ?_ | refine keeps_ite_else ?_ (fun _ => ?_)
          | refine keeps_foldl ?_ (fun _ _ _ => ?_) | refine keeps_foldl_fst ?_ (fun _ _ _ => ?_)
    | dsimp only
    | split

theorem execConfigApply_keeps {s₀ : State} {s : State} (hk : State.Keeps s₀ s) : OutKeeps s₀ (execConfigApply s) := by
  unfold execConfigApply
  repeat' first
    | with_reducible
        first
          | assumption | refine outKeeps_next ?_ | refine bootFail_keeps ?_ | refine retireErase_keeps ?_
          | refine lockKeeperSources_keeps ?_ | refine State.setFld_keeps ?_ | refine keptIndexes_keeps ?_
          | refine applyImage_keeps ?_ | refine writeXspi_keeps ?_ | refine enterRunning_keeps ?_
          | refine reopenIndexes_keeps ?_ | refine keeps_ite_else ?_ (fun _ => ?_) | refine keeps_ite_fst ?_ ?_
          | refine keeps_foldl ?_ (fun _ _ _ => ?_) | refine keeps_foldl_fst ?_ (fun _ _ _ => ?_)
    | dsimp only
    | split

end Sys2Proof.Machine
end

