-- ==== Sys2Proof/Laws/Place.lean ====
section
/-! SUPPORT. When the structures of an index find places in the Bramble area: the gaps that used ranges leave hold what the
area holds less what is used, so the longest of them is long enough (R196, R210). -/

set_option Elab.async false

namespace Sys2Proof.Machine

/-- The bytes of ranges given by address and length. -/
def spanBytes (l : List (Nat × Nat)) : Nat := (l.map (·.2)).sum

/-- The bytes of gaps given by their ends. -/
def gapBytes (l : List (Nat × Nat)) : Nat := (l.map (fun g => g.2 - g.1)).sum

theorem insertBy_perm {α : Type} (lt : α → α → Bool) (x : α) (l : List α) : (insertBy lt x l).Perm (x :: l) := by
  induction l with
  | nil => rfl
  | cons y ys ih =>
    unfold insertBy
    split
    · rfl
    · exact (ih.cons y).trans (List.Perm.swap x y ys)

theorem sortBy_perm {α : Type} (lt : α → α → Bool) (l : List α) : (sortBy lt l).Perm l := by
  have h : ∀ acc : List α, (l.foldl (fun acc x => insertBy lt x acc) acc).Perm (acc ++ l) := by
    induction l with
    | nil => intro acc; simp
    | cons x l ih =>
      intro acc
      refine (ih _).trans (((insertBy_perm lt x acc).append_right l).trans ?_)
      simpa using (List.perm_middle (a := x) (l₁ := acc) (l₂ := l)).symm
  simpa [sortBy] using h []

theorem gapsOf_length (hi : Nat) (us : List (Nat × Nat)) (lo : Nat) : (gapsOf hi lo us).length ≤ us.length + 1 := by
  induction us generalizing lo with
  | nil => unfold gapsOf; split <;> simp
  | cons u us ih =>
    unfold gapsOf
    have := ih (max lo (u.1 + u.2))
    split <;> simp <;> omega

/-- The gaps hold at least what the range holds less what is used. -/
theorem gapsOf_bytes (hi : Nat) (us : List (Nat × Nat)) (lo : Nat) :
    hi - lo ≤ gapBytes (gapsOf hi lo us) + spanBytes us := by
  induction us generalizing lo with
  | nil => unfold gapsOf gapBytes spanBytes; split <;> (simp; try omega)
  | cons u us ih =>
    unfold gapsOf
    have h := ih (max lo (u.1 + u.2))
    unfold gapBytes spanBytes at h ⊢
    split <;> simp at h ⊢ <;> omega

/-- Among fewer than `bytes / n` gaps one has at least `n` bytes. -/
theorem exists_gap {l : List (Nat × Nat)} {n : Nat} (h : l.length * n < gapBytes l) : ∃ g ∈ l, n < g.2 - g.1 := by
  by_contra hc
  push Not at hc
  have : gapBytes l ≤ l.length * n := by
    unfold gapBytes
    have := List.sum_le_card_nsmul (l.map (fun g => g.2 - g.1)) n (by
      intro x hx; obtain ⟨g, hg, rfl⟩ := List.mem_map.1 hx; exact hc g hg)
    simpa using this
  omega

theorem fitsOf_pos {n : Nat} {g : Nat × Nat} (h : n + 63 < g.2 - g.1) : 0 < (fitsOf n 64 g).2 := by
  have : ceilDiv g.1 64 * 64 ≤ g.1 + 63 := by unfold ceilDiv; omega
  unfold fitsOf
  simp only
  rw [if_pos (by omega)]
  omega

theorem foldl_add_pos {l : List Nat} {x : Nat} (hx : x ∈ l) (h : 0 < x) : 0 < l.foldl (· + ·) 0 := by
  rw [← List.sum_eq_foldl_nat]
  exact Nat.lt_of_lt_of_le h (List.single_le_sum (by simp) x hx)

/-- A gap of `n + 63` bytes is a place for `n`. -/
theorem placeIn_isSome {ctr n : Nat} {gaps : List (Nat × Nat)} (h : gaps.length * (n + 63) < gapBytes gaps) :
    (placeIn ctr n 64 gaps).isSome = true := by
  obtain ⟨g, hg, hl⟩ := exists_gap h
  have : 0 < ((gaps.map (fitsOf n 64)).map (·.2)).foldl (· + ·) 0 :=
    foldl_add_pos (List.mem_map.2 ⟨_, List.mem_map.2 ⟨g, hg, rfl⟩, rfl⟩) (fitsOf_pos hl)
  unfold placeIn
  simp only
  rw [if_neg (by omega)]
  rfl

/-- Room for structures of these sizes in `area` bytes of which `count` ranges of `bytes` bytes are used: at each one the
gaps are too few to be all too short. -/
def hasRoom (area : Nat) : List Nat → Nat → Nat → Bool
  | [], _, _ => true
  | n :: ns, count, bytes => decide ((count + 1) * (n + 63) + bytes < area) && hasRoom area ns (count + 1) (bytes + n)

/-- Structures for which there is room find places. -/
theorem placeAll_isSome (ns : List Nat) (s : State) (used : List (Nat × Nat)) (out : List Nat)
    (h : hasRoom ((bramSpan s).2 * 0x100000 - 0x40000) ns used.length (spanBytes used) = true) :
    (placeAll ns s used out).2.isSome = true := by
  induction ns generalizing s used out with
  | nil => rfl
  | cons n ns ih =>
    simp only [hasRoom, Bool.and_eq_true, decide_eq_true_eq] at h
    unfold placeAll
    extract_lets lo gaps
    have hp : (placeIn s.freeCtr n 64 gaps).isSome = true := by
      apply placeIn_isSome
      have hperm := sortBy_perm (fun a b : Nat × Nat => decide (a.1 < b.1)) used
      have h1 := gapsOf_length (lo + (bramSpan s).2 * 0x100000) (sortBy (fun a b => decide (a.1 < b.1)) used) (lo + 0x40000)
      have h2 := gapsOf_bytes (lo + (bramSpan s).2 * 0x100000) (sortBy (fun a b => decide (a.1 < b.1)) used) (lo + 0x40000)
      have h3 : spanBytes (sortBy (fun a b => decide (a.1 < b.1)) used) = spanBytes used := (hperm.map _).sum_eq
      rw [hperm.length_eq] at h1
      rw [h3] at h2
      have h4 : gaps.length * (n + 63) ≤ (used.length + 1) * (n + 63) := Nat.mul_le_mul_right _ h1
      have : gaps = gapsOf (lo + (bramSpan s).2 * 0x100000) (lo + 0x40000) (sortBy (fun a b => decide (a.1 < b.1)) used) := rfl
      rw [← this] at h2
      omega
    obtain ⟨a, ha⟩ := Option.isSome_iff_exists.1 hp
    rw [ha]
    apply ih
    simpa [spanBytes, Nat.add_comm, State.bumpFree, bramSpan, State.fld, State.reg] using h.2

end Sys2Proof.Machine
end

