-- ==== Sys2Proof/Laws/State.lean ====
section
/-! SUPPORT. What the named updates of the state leave unchanged: one lemma for each field and update. -/

set_option Elab.async false

namespace Sys2Proof.Machine

/-! ### State.setReg -/

@[simp] theorem State.setReg_mem (s : State) (off : Nat) (w : Word) : (s.setReg off w).mem = s.mem := rfl
@[simp] theorem State.setReg_fills (s : State) (off : Nat) (w : Word) : (s.setReg off w).fills = s.fills := rfl
@[simp] theorem State.setReg_ops (s : State) (off : Nat) (w : Word) : (s.setReg off w).ops = s.ops := rfl
@[simp] theorem State.setReg_nextTag (s : State) (off : Nat) (w : Word) : (s.setReg off w).nextTag = s.nextTag := rfl
@[simp] theorem State.setReg_completions (s : State) (off : Nat) (w : Word) : (s.setReg off w).completions = s.completions := rfl
@[simp] theorem State.setReg_keeperSignals (s : State) (off : Nat) (w : Word) : (s.setReg off w).keeperSignals = s.keeperSignals := rfl
@[simp] theorem State.setReg_fab (s : State) (off : Nat) (w : Word) : (s.setReg off w).fab = s.fab := rfl
@[simp] theorem State.setReg_tier (s : State) (off : Nat) (w : Word) : (s.setReg off w).tier = s.tier := rfl
@[simp] theorem State.setReg_ep (s : State) (off : Nat) (w : Word) : (s.setReg off w).ep = s.ep := rfl
@[simp] theorem State.setReg_lamp (s : State) (off : Nat) (w : Word) : (s.setReg off w).lamp = s.lamp := rfl
@[simp] theorem State.setReg_seqs (s : State) (off : Nat) (w : Word) : (s.setReg off w).seqs = s.seqs := rfl
@[simp] theorem State.setReg_str (s : State) (off : Nat) (w : Word) : (s.setReg off w).str = s.str := rfl
@[simp] theorem State.setReg_clus (s : State) (off : Nat) (w : Word) : (s.setReg off w).clus = s.clus := rfl
@[simp] theorem State.setReg_ftab (s : State) (off : Nat) (w : Word) : (s.setReg off w).ftab = s.ftab := rfl
@[simp] theorem State.setReg_bram (s : State) (off : Nat) (w : Word) : (s.setReg off w).bram = s.bram := rfl
@[simp] theorem State.setReg_vis (s : State) (off : Nat) (w : Word) : (s.setReg off w).vis = s.vis := rfl
@[simp] theorem State.setReg_slv (s : State) (off : Nat) (w : Word) : (s.setReg off w).slv = s.slv := rfl
@[simp] theorem State.setReg_sns (s : State) (off : Nat) (w : Word) : (s.setReg off w).sns = s.sns := rfl
@[simp] theorem State.setReg_fus (s : State) (off : Nat) (w : Word) : (s.setReg off w).fus = s.fus := rfl
@[simp] theorem State.setReg_svc (s : State) (off : Nat) (w : Word) : (s.setReg off w).svc = s.svc := rfl
@[simp] theorem State.setReg_flt (s : State) (off : Nat) (w : Word) : (s.setReg off w).flt = s.flt := rfl
@[simp] theorem State.setReg_tim (s : State) (off : Nat) (w : Word) : (s.setReg off w).tim = s.tim := rfl
@[simp] theorem State.setReg_boot (s : State) (off : Nat) (w : Word) : (s.setReg off w).boot = s.boot := rfl
@[simp] theorem State.setReg_obs (s : State) (off : Nat) (w : Word) : (s.setReg off w).obs = s.obs := rfl
@[simp] theorem State.setReg_integ (s : State) (off : Nat) (w : Word) : (s.setReg off w).integ = s.integ := rfl
@[simp] theorem State.setReg_power (s : State) (off : Nat) (w : Word) : (s.setReg off w).power = s.power := rfl
@[simp] theorem State.setReg_fuses (s : State) (off : Nat) (w : Word) : (s.setReg off w).fuses = s.fuses := rfl
@[simp] theorem State.setReg_sec (s : State) (off : Nat) (w : Word) : (s.setReg off w).sec = s.sec := rfl
@[simp] theorem State.setReg_freeCtr (s : State) (off : Nat) (w : Word) : (s.setReg off w).freeCtr = s.freeCtr := rfl
@[simp] theorem State.setReg_pending (s : State) (off : Nat) (w : Word) : (s.setReg off w).pending = s.pending := rfl

/-! ### State.setFld -/

@[simp] theorem State.setFld_mem (s : State) (off hi lo v : Nat) : (s.setFld off hi lo v).mem = s.mem := rfl
@[simp] theorem State.setFld_fills (s : State) (off hi lo v : Nat) : (s.setFld off hi lo v).fills = s.fills := rfl
@[simp] theorem State.setFld_ops (s : State) (off hi lo v : Nat) : (s.setFld off hi lo v).ops = s.ops := rfl
@[simp] theorem State.setFld_nextTag (s : State) (off hi lo v : Nat) : (s.setFld off hi lo v).nextTag = s.nextTag := rfl
@[simp] theorem State.setFld_completions (s : State) (off hi lo v : Nat) : (s.setFld off hi lo v).completions = s.completions := rfl
@[simp] theorem State.setFld_keeperSignals (s : State) (off hi lo v : Nat) : (s.setFld off hi lo v).keeperSignals = s.keeperSignals := rfl
@[simp] theorem State.setFld_fab (s : State) (off hi lo v : Nat) : (s.setFld off hi lo v).fab = s.fab := rfl
@[simp] theorem State.setFld_tier (s : State) (off hi lo v : Nat) : (s.setFld off hi lo v).tier = s.tier := rfl
@[simp] theorem State.setFld_ep (s : State) (off hi lo v : Nat) : (s.setFld off hi lo v).ep = s.ep := rfl
@[simp] theorem State.setFld_lamp (s : State) (off hi lo v : Nat) : (s.setFld off hi lo v).lamp = s.lamp := rfl
@[simp] theorem State.setFld_seqs (s : State) (off hi lo v : Nat) : (s.setFld off hi lo v).seqs = s.seqs := rfl
@[simp] theorem State.setFld_str (s : State) (off hi lo v : Nat) : (s.setFld off hi lo v).str = s.str := rfl
@[simp] theorem State.setFld_clus (s : State) (off hi lo v : Nat) : (s.setFld off hi lo v).clus = s.clus := rfl
@[simp] theorem State.setFld_ftab (s : State) (off hi lo v : Nat) : (s.setFld off hi lo v).ftab = s.ftab := rfl
@[simp] theorem State.setFld_bram (s : State) (off hi lo v : Nat) : (s.setFld off hi lo v).bram = s.bram := rfl
@[simp] theorem State.setFld_vis (s : State) (off hi lo v : Nat) : (s.setFld off hi lo v).vis = s.vis := rfl
@[simp] theorem State.setFld_slv (s : State) (off hi lo v : Nat) : (s.setFld off hi lo v).slv = s.slv := rfl
@[simp] theorem State.setFld_sns (s : State) (off hi lo v : Nat) : (s.setFld off hi lo v).sns = s.sns := rfl
@[simp] theorem State.setFld_fus (s : State) (off hi lo v : Nat) : (s.setFld off hi lo v).fus = s.fus := rfl
@[simp] theorem State.setFld_svc (s : State) (off hi lo v : Nat) : (s.setFld off hi lo v).svc = s.svc := rfl
@[simp] theorem State.setFld_flt (s : State) (off hi lo v : Nat) : (s.setFld off hi lo v).flt = s.flt := rfl
@[simp] theorem State.setFld_tim (s : State) (off hi lo v : Nat) : (s.setFld off hi lo v).tim = s.tim := rfl
@[simp] theorem State.setFld_boot (s : State) (off hi lo v : Nat) : (s.setFld off hi lo v).boot = s.boot := rfl
@[simp] theorem State.setFld_obs (s : State) (off hi lo v : Nat) : (s.setFld off hi lo v).obs = s.obs := rfl
@[simp] theorem State.setFld_integ (s : State) (off hi lo v : Nat) : (s.setFld off hi lo v).integ = s.integ := rfl
@[simp] theorem State.setFld_power (s : State) (off hi lo v : Nat) : (s.setFld off hi lo v).power = s.power := rfl
@[simp] theorem State.setFld_fuses (s : State) (off hi lo v : Nat) : (s.setFld off hi lo v).fuses = s.fuses := rfl
@[simp] theorem State.setFld_sec (s : State) (off hi lo v : Nat) : (s.setFld off hi lo v).sec = s.sec := rfl
@[simp] theorem State.setFld_freeCtr (s : State) (off hi lo v : Nat) : (s.setFld off hi lo v).freeCtr = s.freeCtr := rfl
@[simp] theorem State.setFld_pending (s : State) (off hi lo v : Nat) : (s.setFld off hi lo v).pending = s.pending := rfl

/-! ### State.setBit -/

@[simp] theorem State.setBit_mem (s : State) (off i : Nat) (b : Bool) : (s.setBit off i b).mem = s.mem := rfl
@[simp] theorem State.setBit_fills (s : State) (off i : Nat) (b : Bool) : (s.setBit off i b).fills = s.fills := rfl
@[simp] theorem State.setBit_ops (s : State) (off i : Nat) (b : Bool) : (s.setBit off i b).ops = s.ops := rfl
@[simp] theorem State.setBit_nextTag (s : State) (off i : Nat) (b : Bool) : (s.setBit off i b).nextTag = s.nextTag := rfl
@[simp] theorem State.setBit_completions (s : State) (off i : Nat) (b : Bool) : (s.setBit off i b).completions = s.completions := rfl
@[simp] theorem State.setBit_keeperSignals (s : State) (off i : Nat) (b : Bool) : (s.setBit off i b).keeperSignals = s.keeperSignals := rfl
@[simp] theorem State.setBit_fab (s : State) (off i : Nat) (b : Bool) : (s.setBit off i b).fab = s.fab := rfl
@[simp] theorem State.setBit_tier (s : State) (off i : Nat) (b : Bool) : (s.setBit off i b).tier = s.tier := rfl
@[simp] theorem State.setBit_ep (s : State) (off i : Nat) (b : Bool) : (s.setBit off i b).ep = s.ep := rfl
@[simp] theorem State.setBit_lamp (s : State) (off i : Nat) (b : Bool) : (s.setBit off i b).lamp = s.lamp := rfl
@[simp] theorem State.setBit_seqs (s : State) (off i : Nat) (b : Bool) : (s.setBit off i b).seqs = s.seqs := rfl
@[simp] theorem State.setBit_str (s : State) (off i : Nat) (b : Bool) : (s.setBit off i b).str = s.str := rfl
@[simp] theorem State.setBit_clus (s : State) (off i : Nat) (b : Bool) : (s.setBit off i b).clus = s.clus := rfl
@[simp] theorem State.setBit_ftab (s : State) (off i : Nat) (b : Bool) : (s.setBit off i b).ftab = s.ftab := rfl
@[simp] theorem State.setBit_bram (s : State) (off i : Nat) (b : Bool) : (s.setBit off i b).bram = s.bram := rfl
@[simp] theorem State.setBit_vis (s : State) (off i : Nat) (b : Bool) : (s.setBit off i b).vis = s.vis := rfl
@[simp] theorem State.setBit_slv (s : State) (off i : Nat) (b : Bool) : (s.setBit off i b).slv = s.slv := rfl
@[simp] theorem State.setBit_sns (s : State) (off i : Nat) (b : Bool) : (s.setBit off i b).sns = s.sns := rfl
@[simp] theorem State.setBit_fus (s : State) (off i : Nat) (b : Bool) : (s.setBit off i b).fus = s.fus := rfl
@[simp] theorem State.setBit_svc (s : State) (off i : Nat) (b : Bool) : (s.setBit off i b).svc = s.svc := rfl
@[simp] theorem State.setBit_flt (s : State) (off i : Nat) (b : Bool) : (s.setBit off i b).flt = s.flt := rfl
@[simp] theorem State.setBit_tim (s : State) (off i : Nat) (b : Bool) : (s.setBit off i b).tim = s.tim := rfl
@[simp] theorem State.setBit_boot (s : State) (off i : Nat) (b : Bool) : (s.setBit off i b).boot = s.boot := rfl
@[simp] theorem State.setBit_obs (s : State) (off i : Nat) (b : Bool) : (s.setBit off i b).obs = s.obs := rfl
@[simp] theorem State.setBit_integ (s : State) (off i : Nat) (b : Bool) : (s.setBit off i b).integ = s.integ := rfl
@[simp] theorem State.setBit_power (s : State) (off i : Nat) (b : Bool) : (s.setBit off i b).power = s.power := rfl
@[simp] theorem State.setBit_fuses (s : State) (off i : Nat) (b : Bool) : (s.setBit off i b).fuses = s.fuses := rfl
@[simp] theorem State.setBit_sec (s : State) (off i : Nat) (b : Bool) : (s.setBit off i b).sec = s.sec := rfl
@[simp] theorem State.setBit_freeCtr (s : State) (off i : Nat) (b : Bool) : (s.setBit off i b).freeCtr = s.freeCtr := rfl
@[simp] theorem State.setBit_pending (s : State) (off i : Nat) (b : Bool) : (s.setBit off i b).pending = s.pending := rfl

/-! ### State.satFld -/

@[simp] theorem State.satFld_mem (s : State) (off hi lo add : Nat) : (s.satFld off hi lo add).mem = s.mem := rfl
@[simp] theorem State.satFld_fills (s : State) (off hi lo add : Nat) : (s.satFld off hi lo add).fills = s.fills := rfl
@[simp] theorem State.satFld_ops (s : State) (off hi lo add : Nat) : (s.satFld off hi lo add).ops = s.ops := rfl
@[simp] theorem State.satFld_nextTag (s : State) (off hi lo add : Nat) : (s.satFld off hi lo add).nextTag = s.nextTag := rfl
@[simp] theorem State.satFld_completions (s : State) (off hi lo add : Nat) : (s.satFld off hi lo add).completions = s.completions := rfl
@[simp] theorem State.satFld_keeperSignals (s : State) (off hi lo add : Nat) : (s.satFld off hi lo add).keeperSignals = s.keeperSignals := rfl
@[simp] theorem State.satFld_fab (s : State) (off hi lo add : Nat) : (s.satFld off hi lo add).fab = s.fab := rfl
@[simp] theorem State.satFld_tier (s : State) (off hi lo add : Nat) : (s.satFld off hi lo add).tier = s.tier := rfl
@[simp] theorem State.satFld_ep (s : State) (off hi lo add : Nat) : (s.satFld off hi lo add).ep = s.ep := rfl
@[simp] theorem State.satFld_lamp (s : State) (off hi lo add : Nat) : (s.satFld off hi lo add).lamp = s.lamp := rfl
@[simp] theorem State.satFld_seqs (s : State) (off hi lo add : Nat) : (s.satFld off hi lo add).seqs = s.seqs := rfl
@[simp] theorem State.satFld_str (s : State) (off hi lo add : Nat) : (s.satFld off hi lo add).str = s.str := rfl
@[simp] theorem State.satFld_clus (s : State) (off hi lo add : Nat) : (s.satFld off hi lo add).clus = s.clus := rfl
@[simp] theorem State.satFld_ftab (s : State) (off hi lo add : Nat) : (s.satFld off hi lo add).ftab = s.ftab := rfl
@[simp] theorem State.satFld_bram (s : State) (off hi lo add : Nat) : (s.satFld off hi lo add).bram = s.bram := rfl
@[simp] theorem State.satFld_vis (s : State) (off hi lo add : Nat) : (s.satFld off hi lo add).vis = s.vis := rfl
@[simp] theorem State.satFld_slv (s : State) (off hi lo add : Nat) : (s.satFld off hi lo add).slv = s.slv := rfl
@[simp] theorem State.satFld_sns (s : State) (off hi lo add : Nat) : (s.satFld off hi lo add).sns = s.sns := rfl
@[simp] theorem State.satFld_fus (s : State) (off hi lo add : Nat) : (s.satFld off hi lo add).fus = s.fus := rfl
@[simp] theorem State.satFld_svc (s : State) (off hi lo add : Nat) : (s.satFld off hi lo add).svc = s.svc := rfl
@[simp] theorem State.satFld_flt (s : State) (off hi lo add : Nat) : (s.satFld off hi lo add).flt = s.flt := rfl
@[simp] theorem State.satFld_tim (s : State) (off hi lo add : Nat) : (s.satFld off hi lo add).tim = s.tim := rfl
@[simp] theorem State.satFld_boot (s : State) (off hi lo add : Nat) : (s.satFld off hi lo add).boot = s.boot := rfl
@[simp] theorem State.satFld_obs (s : State) (off hi lo add : Nat) : (s.satFld off hi lo add).obs = s.obs := rfl
@[simp] theorem State.satFld_integ (s : State) (off hi lo add : Nat) : (s.satFld off hi lo add).integ = s.integ := rfl
@[simp] theorem State.satFld_power (s : State) (off hi lo add : Nat) : (s.satFld off hi lo add).power = s.power := rfl
@[simp] theorem State.satFld_fuses (s : State) (off hi lo add : Nat) : (s.satFld off hi lo add).fuses = s.fuses := rfl
@[simp] theorem State.satFld_sec (s : State) (off hi lo add : Nat) : (s.satFld off hi lo add).sec = s.sec := rfl
@[simp] theorem State.satFld_freeCtr (s : State) (off hi lo add : Nat) : (s.satFld off hi lo add).freeCtr = s.freeCtr := rfl
@[simp] theorem State.satFld_pending (s : State) (off hi lo add : Nat) : (s.satFld off hi lo add).pending = s.pending := rfl

/-! ### State.wrapFld -/

@[simp] theorem State.wrapFld_mem (s : State) (off hi lo add : Nat) : (s.wrapFld off hi lo add).mem = s.mem := rfl
@[simp] theorem State.wrapFld_fills (s : State) (off hi lo add : Nat) : (s.wrapFld off hi lo add).fills = s.fills := rfl
@[simp] theorem State.wrapFld_ops (s : State) (off hi lo add : Nat) : (s.wrapFld off hi lo add).ops = s.ops := rfl
@[simp] theorem State.wrapFld_nextTag (s : State) (off hi lo add : Nat) : (s.wrapFld off hi lo add).nextTag = s.nextTag := rfl
@[simp] theorem State.wrapFld_completions (s : State) (off hi lo add : Nat) : (s.wrapFld off hi lo add).completions = s.completions := rfl
@[simp] theorem State.wrapFld_keeperSignals (s : State) (off hi lo add : Nat) : (s.wrapFld off hi lo add).keeperSignals = s.keeperSignals := rfl
@[simp] theorem State.wrapFld_fab (s : State) (off hi lo add : Nat) : (s.wrapFld off hi lo add).fab = s.fab := rfl
@[simp] theorem State.wrapFld_tier (s : State) (off hi lo add : Nat) : (s.wrapFld off hi lo add).tier = s.tier := rfl
@[simp] theorem State.wrapFld_ep (s : State) (off hi lo add : Nat) : (s.wrapFld off hi lo add).ep = s.ep := rfl
@[simp] theorem State.wrapFld_lamp (s : State) (off hi lo add : Nat) : (s.wrapFld off hi lo add).lamp = s.lamp := rfl
@[simp] theorem State.wrapFld_seqs (s : State) (off hi lo add : Nat) : (s.wrapFld off hi lo add).seqs = s.seqs := rfl
@[simp] theorem State.wrapFld_str (s : State) (off hi lo add : Nat) : (s.wrapFld off hi lo add).str = s.str := rfl
@[simp] theorem State.wrapFld_clus (s : State) (off hi lo add : Nat) : (s.wrapFld off hi lo add).clus = s.clus := rfl
@[simp] theorem State.wrapFld_ftab (s : State) (off hi lo add : Nat) : (s.wrapFld off hi lo add).ftab = s.ftab := rfl
@[simp] theorem State.wrapFld_bram (s : State) (off hi lo add : Nat) : (s.wrapFld off hi lo add).bram = s.bram := rfl
@[simp] theorem State.wrapFld_vis (s : State) (off hi lo add : Nat) : (s.wrapFld off hi lo add).vis = s.vis := rfl
@[simp] theorem State.wrapFld_slv (s : State) (off hi lo add : Nat) : (s.wrapFld off hi lo add).slv = s.slv := rfl
@[simp] theorem State.wrapFld_sns (s : State) (off hi lo add : Nat) : (s.wrapFld off hi lo add).sns = s.sns := rfl
@[simp] theorem State.wrapFld_fus (s : State) (off hi lo add : Nat) : (s.wrapFld off hi lo add).fus = s.fus := rfl
@[simp] theorem State.wrapFld_svc (s : State) (off hi lo add : Nat) : (s.wrapFld off hi lo add).svc = s.svc := rfl
@[simp] theorem State.wrapFld_flt (s : State) (off hi lo add : Nat) : (s.wrapFld off hi lo add).flt = s.flt := rfl
@[simp] theorem State.wrapFld_tim (s : State) (off hi lo add : Nat) : (s.wrapFld off hi lo add).tim = s.tim := rfl
@[simp] theorem State.wrapFld_boot (s : State) (off hi lo add : Nat) : (s.wrapFld off hi lo add).boot = s.boot := rfl
@[simp] theorem State.wrapFld_obs (s : State) (off hi lo add : Nat) : (s.wrapFld off hi lo add).obs = s.obs := rfl
@[simp] theorem State.wrapFld_integ (s : State) (off hi lo add : Nat) : (s.wrapFld off hi lo add).integ = s.integ := rfl
@[simp] theorem State.wrapFld_power (s : State) (off hi lo add : Nat) : (s.wrapFld off hi lo add).power = s.power := rfl
@[simp] theorem State.wrapFld_fuses (s : State) (off hi lo add : Nat) : (s.wrapFld off hi lo add).fuses = s.fuses := rfl
@[simp] theorem State.wrapFld_sec (s : State) (off hi lo add : Nat) : (s.wrapFld off hi lo add).sec = s.sec := rfl
@[simp] theorem State.wrapFld_freeCtr (s : State) (off hi lo add : Nat) : (s.wrapFld off hi lo add).freeCtr = s.freeCtr := rfl
@[simp] theorem State.wrapFld_pending (s : State) (off hi lo add : Nat) : (s.wrapFld off hi lo add).pending = s.pending := rfl

/-! ### State.bumpFree -/

@[simp] theorem State.bumpFree_regs (s : State) : (s.bumpFree).regs = s.regs := rfl
@[simp] theorem State.bumpFree_mem (s : State) : (s.bumpFree).mem = s.mem := rfl
@[simp] theorem State.bumpFree_fills (s : State) : (s.bumpFree).fills = s.fills := rfl
@[simp] theorem State.bumpFree_ops (s : State) : (s.bumpFree).ops = s.ops := rfl
@[simp] theorem State.bumpFree_nextTag (s : State) : (s.bumpFree).nextTag = s.nextTag := rfl
@[simp] theorem State.bumpFree_completions (s : State) : (s.bumpFree).completions = s.completions := rfl
@[simp] theorem State.bumpFree_keeperSignals (s : State) : (s.bumpFree).keeperSignals = s.keeperSignals := rfl
@[simp] theorem State.bumpFree_fab (s : State) : (s.bumpFree).fab = s.fab := rfl
@[simp] theorem State.bumpFree_tier (s : State) : (s.bumpFree).tier = s.tier := rfl
@[simp] theorem State.bumpFree_ep (s : State) : (s.bumpFree).ep = s.ep := rfl
@[simp] theorem State.bumpFree_lamp (s : State) : (s.bumpFree).lamp = s.lamp := rfl
@[simp] theorem State.bumpFree_seqs (s : State) : (s.bumpFree).seqs = s.seqs := rfl
@[simp] theorem State.bumpFree_str (s : State) : (s.bumpFree).str = s.str := rfl
@[simp] theorem State.bumpFree_clus (s : State) : (s.bumpFree).clus = s.clus := rfl
@[simp] theorem State.bumpFree_ftab (s : State) : (s.bumpFree).ftab = s.ftab := rfl
@[simp] theorem State.bumpFree_bram (s : State) : (s.bumpFree).bram = s.bram := rfl
@[simp] theorem State.bumpFree_vis (s : State) : (s.bumpFree).vis = s.vis := rfl
@[simp] theorem State.bumpFree_slv (s : State) : (s.bumpFree).slv = s.slv := rfl
@[simp] theorem State.bumpFree_sns (s : State) : (s.bumpFree).sns = s.sns := rfl
@[simp] theorem State.bumpFree_fus (s : State) : (s.bumpFree).fus = s.fus := rfl
@[simp] theorem State.bumpFree_svc (s : State) : (s.bumpFree).svc = s.svc := rfl
@[simp] theorem State.bumpFree_flt (s : State) : (s.bumpFree).flt = s.flt := rfl
@[simp] theorem State.bumpFree_tim (s : State) : (s.bumpFree).tim = s.tim := rfl
@[simp] theorem State.bumpFree_boot (s : State) : (s.bumpFree).boot = s.boot := rfl
@[simp] theorem State.bumpFree_obs (s : State) : (s.bumpFree).obs = s.obs := rfl
@[simp] theorem State.bumpFree_integ (s : State) : (s.bumpFree).integ = s.integ := rfl
@[simp] theorem State.bumpFree_power (s : State) : (s.bumpFree).power = s.power := rfl
@[simp] theorem State.bumpFree_fuses (s : State) : (s.bumpFree).fuses = s.fuses := rfl
@[simp] theorem State.bumpFree_sec (s : State) : (s.bumpFree).sec = s.sec := rfl
@[simp] theorem State.bumpFree_pending (s : State) : (s.bumpFree).pending = s.pending := rfl

/-! ### State.store -/

@[simp] theorem State.store_regs (s : State) (a : Nat) (bs : List Byte) : (s.store a bs).regs = s.regs := rfl
@[simp] theorem State.store_fills (s : State) (a : Nat) (bs : List Byte) : (s.store a bs).fills = s.fills := rfl
@[simp] theorem State.store_ops (s : State) (a : Nat) (bs : List Byte) : (s.store a bs).ops = s.ops := rfl
@[simp] theorem State.store_nextTag (s : State) (a : Nat) (bs : List Byte) : (s.store a bs).nextTag = s.nextTag := rfl
@[simp] theorem State.store_completions (s : State) (a : Nat) (bs : List Byte) : (s.store a bs).completions = s.completions := rfl
@[simp] theorem State.store_keeperSignals (s : State) (a : Nat) (bs : List Byte) : (s.store a bs).keeperSignals = s.keeperSignals := rfl
@[simp] theorem State.store_fab (s : State) (a : Nat) (bs : List Byte) : (s.store a bs).fab = s.fab := rfl
@[simp] theorem State.store_tier (s : State) (a : Nat) (bs : List Byte) : (s.store a bs).tier = s.tier := rfl
@[simp] theorem State.store_ep (s : State) (a : Nat) (bs : List Byte) : (s.store a bs).ep = s.ep := rfl
@[simp] theorem State.store_lamp (s : State) (a : Nat) (bs : List Byte) : (s.store a bs).lamp = s.lamp := rfl
@[simp] theorem State.store_seqs (s : State) (a : Nat) (bs : List Byte) : (s.store a bs).seqs = s.seqs := rfl
@[simp] theorem State.store_str (s : State) (a : Nat) (bs : List Byte) : (s.store a bs).str = s.str := rfl
@[simp] theorem State.store_clus (s : State) (a : Nat) (bs : List Byte) : (s.store a bs).clus = s.clus := rfl
@[simp] theorem State.store_ftab (s : State) (a : Nat) (bs : List Byte) : (s.store a bs).ftab = s.ftab := rfl
@[simp] theorem State.store_bram (s : State) (a : Nat) (bs : List Byte) : (s.store a bs).bram = s.bram := rfl
@[simp] theorem State.store_vis (s : State) (a : Nat) (bs : List Byte) : (s.store a bs).vis = s.vis := rfl
@[simp] theorem State.store_slv (s : State) (a : Nat) (bs : List Byte) : (s.store a bs).slv = s.slv := rfl
@[simp] theorem State.store_sns (s : State) (a : Nat) (bs : List Byte) : (s.store a bs).sns = s.sns := rfl
@[simp] theorem State.store_fus (s : State) (a : Nat) (bs : List Byte) : (s.store a bs).fus = s.fus := rfl
@[simp] theorem State.store_svc (s : State) (a : Nat) (bs : List Byte) : (s.store a bs).svc = s.svc := rfl
@[simp] theorem State.store_flt (s : State) (a : Nat) (bs : List Byte) : (s.store a bs).flt = s.flt := rfl
@[simp] theorem State.store_tim (s : State) (a : Nat) (bs : List Byte) : (s.store a bs).tim = s.tim := rfl
@[simp] theorem State.store_boot (s : State) (a : Nat) (bs : List Byte) : (s.store a bs).boot = s.boot := rfl
@[simp] theorem State.store_obs (s : State) (a : Nat) (bs : List Byte) : (s.store a bs).obs = s.obs := rfl
@[simp] theorem State.store_integ (s : State) (a : Nat) (bs : List Byte) : (s.store a bs).integ = s.integ := rfl
@[simp] theorem State.store_power (s : State) (a : Nat) (bs : List Byte) : (s.store a bs).power = s.power := rfl
@[simp] theorem State.store_fuses (s : State) (a : Nat) (bs : List Byte) : (s.store a bs).fuses = s.fuses := rfl
@[simp] theorem State.store_sec (s : State) (a : Nat) (bs : List Byte) : (s.store a bs).sec = s.sec := rfl
@[simp] theorem State.store_freeCtr (s : State) (a : Nat) (bs : List Byte) : (s.store a bs).freeCtr = s.freeCtr := rfl
@[simp] theorem State.store_pending (s : State) (a : Nat) (bs : List Byte) : (s.store a bs).pending = s.pending := rfl

/-! ### State.storeWord -/

@[simp] theorem State.storeWord_regs (s : State) (a : Nat) (w : Word) : (s.storeWord a w).regs = s.regs := rfl
@[simp] theorem State.storeWord_fills (s : State) (a : Nat) (w : Word) : (s.storeWord a w).fills = s.fills := rfl
@[simp] theorem State.storeWord_ops (s : State) (a : Nat) (w : Word) : (s.storeWord a w).ops = s.ops := rfl
@[simp] theorem State.storeWord_nextTag (s : State) (a : Nat) (w : Word) : (s.storeWord a w).nextTag = s.nextTag := rfl
@[simp] theorem State.storeWord_completions (s : State) (a : Nat) (w : Word) : (s.storeWord a w).completions = s.completions := rfl
@[simp] theorem State.storeWord_keeperSignals (s : State) (a : Nat) (w : Word) : (s.storeWord a w).keeperSignals = s.keeperSignals := rfl
@[simp] theorem State.storeWord_fab (s : State) (a : Nat) (w : Word) : (s.storeWord a w).fab = s.fab := rfl
@[simp] theorem State.storeWord_tier (s : State) (a : Nat) (w : Word) : (s.storeWord a w).tier = s.tier := rfl
@[simp] theorem State.storeWord_ep (s : State) (a : Nat) (w : Word) : (s.storeWord a w).ep = s.ep := rfl
@[simp] theorem State.storeWord_lamp (s : State) (a : Nat) (w : Word) : (s.storeWord a w).lamp = s.lamp := rfl
@[simp] theorem State.storeWord_seqs (s : State) (a : Nat) (w : Word) : (s.storeWord a w).seqs = s.seqs := rfl
@[simp] theorem State.storeWord_str (s : State) (a : Nat) (w : Word) : (s.storeWord a w).str = s.str := rfl
@[simp] theorem State.storeWord_clus (s : State) (a : Nat) (w : Word) : (s.storeWord a w).clus = s.clus := rfl
@[simp] theorem State.storeWord_ftab (s : State) (a : Nat) (w : Word) : (s.storeWord a w).ftab = s.ftab := rfl
@[simp] theorem State.storeWord_bram (s : State) (a : Nat) (w : Word) : (s.storeWord a w).bram = s.bram := rfl
@[simp] theorem State.storeWord_vis (s : State) (a : Nat) (w : Word) : (s.storeWord a w).vis = s.vis := rfl
@[simp] theorem State.storeWord_slv (s : State) (a : Nat) (w : Word) : (s.storeWord a w).slv = s.slv := rfl
@[simp] theorem State.storeWord_sns (s : State) (a : Nat) (w : Word) : (s.storeWord a w).sns = s.sns := rfl
@[simp] theorem State.storeWord_fus (s : State) (a : Nat) (w : Word) : (s.storeWord a w).fus = s.fus := rfl
@[simp] theorem State.storeWord_svc (s : State) (a : Nat) (w : Word) : (s.storeWord a w).svc = s.svc := rfl
@[simp] theorem State.storeWord_flt (s : State) (a : Nat) (w : Word) : (s.storeWord a w).flt = s.flt := rfl
@[simp] theorem State.storeWord_tim (s : State) (a : Nat) (w : Word) : (s.storeWord a w).tim = s.tim := rfl
@[simp] theorem State.storeWord_boot (s : State) (a : Nat) (w : Word) : (s.storeWord a w).boot = s.boot := rfl
@[simp] theorem State.storeWord_obs (s : State) (a : Nat) (w : Word) : (s.storeWord a w).obs = s.obs := rfl
@[simp] theorem State.storeWord_integ (s : State) (a : Nat) (w : Word) : (s.storeWord a w).integ = s.integ := rfl
@[simp] theorem State.storeWord_power (s : State) (a : Nat) (w : Word) : (s.storeWord a w).power = s.power := rfl
@[simp] theorem State.storeWord_fuses (s : State) (a : Nat) (w : Word) : (s.storeWord a w).fuses = s.fuses := rfl
@[simp] theorem State.storeWord_sec (s : State) (a : Nat) (w : Word) : (s.storeWord a w).sec = s.sec := rfl
@[simp] theorem State.storeWord_freeCtr (s : State) (a : Nat) (w : Word) : (s.storeWord a w).freeCtr = s.freeCtr := rfl
@[simp] theorem State.storeWord_pending (s : State) (a : Nat) (w : Word) : (s.storeWord a w).pending = s.pending := rfl

/-! ### State.fillRange -/

@[simp] theorem State.fillRange_regs (s : State) (lo len : Nat) (z : Bool) : (s.fillRange lo len z).regs = s.regs := rfl
@[simp] theorem State.fillRange_ops (s : State) (lo len : Nat) (z : Bool) : (s.fillRange lo len z).ops = s.ops := rfl
@[simp] theorem State.fillRange_nextTag (s : State) (lo len : Nat) (z : Bool) : (s.fillRange lo len z).nextTag = s.nextTag := rfl
@[simp] theorem State.fillRange_completions (s : State) (lo len : Nat) (z : Bool) : (s.fillRange lo len z).completions = s.completions := rfl
@[simp] theorem State.fillRange_keeperSignals (s : State) (lo len : Nat) (z : Bool) : (s.fillRange lo len z).keeperSignals = s.keeperSignals := rfl
@[simp] theorem State.fillRange_fab (s : State) (lo len : Nat) (z : Bool) : (s.fillRange lo len z).fab = s.fab := rfl
@[simp] theorem State.fillRange_tier (s : State) (lo len : Nat) (z : Bool) : (s.fillRange lo len z).tier = s.tier := rfl
@[simp] theorem State.fillRange_ep (s : State) (lo len : Nat) (z : Bool) : (s.fillRange lo len z).ep = s.ep := rfl
@[simp] theorem State.fillRange_lamp (s : State) (lo len : Nat) (z : Bool) : (s.fillRange lo len z).lamp = s.lamp := rfl
@[simp] theorem State.fillRange_seqs (s : State) (lo len : Nat) (z : Bool) : (s.fillRange lo len z).seqs = s.seqs := rfl
@[simp] theorem State.fillRange_str (s : State) (lo len : Nat) (z : Bool) : (s.fillRange lo len z).str = s.str := rfl
@[simp] theorem State.fillRange_clus (s : State) (lo len : Nat) (z : Bool) : (s.fillRange lo len z).clus = s.clus := rfl
@[simp] theorem State.fillRange_ftab (s : State) (lo len : Nat) (z : Bool) : (s.fillRange lo len z).ftab = s.ftab := rfl
@[simp] theorem State.fillRange_bram (s : State) (lo len : Nat) (z : Bool) : (s.fillRange lo len z).bram = s.bram := rfl
@[simp] theorem State.fillRange_vis (s : State) (lo len : Nat) (z : Bool) : (s.fillRange lo len z).vis = s.vis := rfl
@[simp] theorem State.fillRange_slv (s : State) (lo len : Nat) (z : Bool) : (s.fillRange lo len z).slv = s.slv := rfl
@[simp] theorem State.fillRange_sns (s : State) (lo len : Nat) (z : Bool) : (s.fillRange lo len z).sns = s.sns := rfl
@[simp] theorem State.fillRange_fus (s : State) (lo len : Nat) (z : Bool) : (s.fillRange lo len z).fus = s.fus := rfl
@[simp] theorem State.fillRange_svc (s : State) (lo len : Nat) (z : Bool) : (s.fillRange lo len z).svc = s.svc := rfl
@[simp] theorem State.fillRange_flt (s : State) (lo len : Nat) (z : Bool) : (s.fillRange lo len z).flt = s.flt := rfl
@[simp] theorem State.fillRange_tim (s : State) (lo len : Nat) (z : Bool) : (s.fillRange lo len z).tim = s.tim := rfl
@[simp] theorem State.fillRange_boot (s : State) (lo len : Nat) (z : Bool) : (s.fillRange lo len z).boot = s.boot := rfl
@[simp] theorem State.fillRange_obs (s : State) (lo len : Nat) (z : Bool) : (s.fillRange lo len z).obs = s.obs := rfl
@[simp] theorem State.fillRange_integ (s : State) (lo len : Nat) (z : Bool) : (s.fillRange lo len z).integ = s.integ := rfl
@[simp] theorem State.fillRange_power (s : State) (lo len : Nat) (z : Bool) : (s.fillRange lo len z).power = s.power := rfl
@[simp] theorem State.fillRange_fuses (s : State) (lo len : Nat) (z : Bool) : (s.fillRange lo len z).fuses = s.fuses := rfl
@[simp] theorem State.fillRange_sec (s : State) (lo len : Nat) (z : Bool) : (s.fillRange lo len z).sec = s.sec := rfl
@[simp] theorem State.fillRange_pending (s : State) (lo len : Nat) (z : Bool) : (s.fillRange lo len z).pending = s.pending := rfl

/-! ### State.modLink -/

@[simp] theorem State.modLink_regs (s : State) (l : Nat) (f : Link → Link) : (s.modLink l f).regs = s.regs := rfl
@[simp] theorem State.modLink_mem (s : State) (l : Nat) (f : Link → Link) : (s.modLink l f).mem = s.mem := rfl
@[simp] theorem State.modLink_fills (s : State) (l : Nat) (f : Link → Link) : (s.modLink l f).fills = s.fills := rfl
@[simp] theorem State.modLink_ops (s : State) (l : Nat) (f : Link → Link) : (s.modLink l f).ops = s.ops := rfl
@[simp] theorem State.modLink_nextTag (s : State) (l : Nat) (f : Link → Link) : (s.modLink l f).nextTag = s.nextTag := rfl
@[simp] theorem State.modLink_completions (s : State) (l : Nat) (f : Link → Link) : (s.modLink l f).completions = s.completions := rfl
@[simp] theorem State.modLink_keeperSignals (s : State) (l : Nat) (f : Link → Link) : (s.modLink l f).keeperSignals = s.keeperSignals := rfl
@[simp] theorem State.modLink_tier (s : State) (l : Nat) (f : Link → Link) : (s.modLink l f).tier = s.tier := rfl
@[simp] theorem State.modLink_ep (s : State) (l : Nat) (f : Link → Link) : (s.modLink l f).ep = s.ep := rfl
@[simp] theorem State.modLink_lamp (s : State) (l : Nat) (f : Link → Link) : (s.modLink l f).lamp = s.lamp := rfl
@[simp] theorem State.modLink_seqs (s : State) (l : Nat) (f : Link → Link) : (s.modLink l f).seqs = s.seqs := rfl
@[simp] theorem State.modLink_str (s : State) (l : Nat) (f : Link → Link) : (s.modLink l f).str = s.str := rfl
@[simp] theorem State.modLink_clus (s : State) (l : Nat) (f : Link → Link) : (s.modLink l f).clus = s.clus := rfl
@[simp] theorem State.modLink_ftab (s : State) (l : Nat) (f : Link → Link) : (s.modLink l f).ftab = s.ftab := rfl
@[simp] theorem State.modLink_bram (s : State) (l : Nat) (f : Link → Link) : (s.modLink l f).bram = s.bram := rfl
@[simp] theorem State.modLink_vis (s : State) (l : Nat) (f : Link → Link) : (s.modLink l f).vis = s.vis := rfl
@[simp] theorem State.modLink_slv (s : State) (l : Nat) (f : Link → Link) : (s.modLink l f).slv = s.slv := rfl
@[simp] theorem State.modLink_sns (s : State) (l : Nat) (f : Link → Link) : (s.modLink l f).sns = s.sns := rfl
@[simp] theorem State.modLink_fus (s : State) (l : Nat) (f : Link → Link) : (s.modLink l f).fus = s.fus := rfl
@[simp] theorem State.modLink_svc (s : State) (l : Nat) (f : Link → Link) : (s.modLink l f).svc = s.svc := rfl
@[simp] theorem State.modLink_flt (s : State) (l : Nat) (f : Link → Link) : (s.modLink l f).flt = s.flt := rfl
@[simp] theorem State.modLink_tim (s : State) (l : Nat) (f : Link → Link) : (s.modLink l f).tim = s.tim := rfl
@[simp] theorem State.modLink_boot (s : State) (l : Nat) (f : Link → Link) : (s.modLink l f).boot = s.boot := rfl
@[simp] theorem State.modLink_obs (s : State) (l : Nat) (f : Link → Link) : (s.modLink l f).obs = s.obs := rfl
@[simp] theorem State.modLink_integ (s : State) (l : Nat) (f : Link → Link) : (s.modLink l f).integ = s.integ := rfl
@[simp] theorem State.modLink_power (s : State) (l : Nat) (f : Link → Link) : (s.modLink l f).power = s.power := rfl
@[simp] theorem State.modLink_fuses (s : State) (l : Nat) (f : Link → Link) : (s.modLink l f).fuses = s.fuses := rfl
@[simp] theorem State.modLink_sec (s : State) (l : Nat) (f : Link → Link) : (s.modLink l f).sec = s.sec := rfl
@[simp] theorem State.modLink_freeCtr (s : State) (l : Nat) (f : Link → Link) : (s.modLink l f).freeCtr = s.freeCtr := rfl
@[simp] theorem State.modLink_pending (s : State) (l : Nat) (f : Link → Link) : (s.modLink l f).pending = s.pending := rfl

/-! ### What they write -/

@[simp] theorem State.bumpFree_freeCtr (s : State) : s.bumpFree.freeCtr = s.freeCtr + 1 := rfl
@[simp] theorem State.setReg_regs (s : State) (off : Nat) (w : Word) :
    (s.setReg off w).regs = kvSet regReset s.regs off w := rfl
@[simp] theorem State.store_mem (s : State) (a : Nat) (bs : List Byte) :
    (s.store a bs).mem = kvSetAll s.dflt s.mem a bs := rfl
@[simp] theorem State.modLink_fab (s : State) (l : Nat) (f : Link → Link) :
    (s.modLink l f).fab = { s.fab with links := s.fab.links.modify l f } := rfl

/-! ### Registers and memory see only their own field -/

theorem State.reg_of_regs {s t : State} (h : t.regs = s.regs) (off : Nat) : t.reg off = s.reg off := by
  simp [State.reg, h]
theorem State.fld_of_regs {s t : State} (h : t.regs = s.regs) (off hi lo : Nat) : t.fld off hi lo = s.fld off hi lo := by
  simp [State.fld, State.reg, h]
theorem State.bit_of_regs {s t : State} (h : t.regs = s.regs) (off i : Nat) : t.bit off i = s.bit off i := by
  simp [State.bit, State.reg, h]
theorem State.byteAt_of_mem {s t : State} (h : t.mem = s.mem) (k : t.fills = s.fills) (a : Nat) :
    t.byteAt a = s.byteAt a := by simp [State.byteAt, State.dflt, h, k]

@[simp] theorem State.bumpFree_reg (s : State) (off : Nat) : s.bumpFree.reg off = s.reg off := rfl
@[simp] theorem State.store_reg (s : State) (a : Nat) (bs : List Byte) (off : Nat) : (s.store a bs).reg off = s.reg off :=
  rfl
@[simp] theorem State.storeWord_reg (s : State) (a : Nat) (w : Word) (off : Nat) : (s.storeWord a w).reg off = s.reg off :=
  rfl
@[simp] theorem State.modLink_reg (s : State) (l : Nat) (f : Link → Link) (off : Nat) : (s.modLink l f).reg off = s.reg off :=
  rfl
@[simp] theorem State.setReg_byteAt (s : State) (off : Nat) (w : Word) (a : Nat) : (s.setReg off w).byteAt a = s.byteAt a :=
  rfl
@[simp] theorem State.setFld_byteAt (s : State) (off hi lo v a : Nat) : (s.setFld off hi lo v).byteAt a = s.byteAt a := rfl
@[simp] theorem State.bumpFree_byteAt (s : State) (a : Nat) : s.bumpFree.byteAt a = s.byteAt a := rfl
@[simp] theorem State.setReg_now (s : State) (off : Nat) (w : Word) : (s.setReg off w).now = s.now := rfl
@[simp] theorem State.setFld_now (s : State) (off hi lo v : Nat) : (s.setFld off hi lo v).now = s.now := rfl
@[simp] theorem State.store_now (s : State) (a : Nat) (bs : List Byte) : (s.store a bs).now = s.now := rfl

end Sys2Proof.Machine
end

