-- ==== Sys2Proof/Laws/Regs.lean ====
section
/-! SUPPORT. The laws of the register file, of its fields and bits, and of memory: a read after a write. The stores must
be in canonical form. -/

set_option Elab.async false

namespace Sys2Proof.Machine

/-! ### Fields of a word -/

theorem bitsOf_lt (w : Word) (hi lo : Nat) : bitsOf w hi lo < 2 ^ (hi + 1 - lo) := Nat.mod_lt _ (Nat.two_pow_pos _)

/-- Bit `i` of a field, read as a number. -/
theorem bitsOf_testBit (w : Word) (hi lo i : Nat) :
    (bitsOf w hi lo).testBit i = (decide (i < hi + 1 - lo) && w.getLsbD (lo + i)) := by
  simp [bitsOf, Nat.testBit_mod_two_pow, Nat.testBit_shiftRight, BitVec.getLsbD]

/-- Bit `i` of a word with a field replaced. -/
theorem putBits_getLsbD (w : Word) (hi lo v i : Nat) (hh : hi < 64) (hl : lo ≤ hi) :
    (putBits w hi lo v).getLsbD i = if lo ≤ i ∧ i ≤ hi then v.testBit (i - lo) else w.getLsbD i := by
  have h1 : (BitVec.ofNat 64 ((2 ^ (hi + 1 - lo) - 1) <<< lo)).getLsbD i = decide (lo ≤ i ∧ i ≤ hi) := by
    simp only [BitVec.getLsbD_ofNat, Nat.testBit_shiftLeft, Nat.testBit_two_pow_sub_one]
    by_cases h : lo ≤ i ∧ i ≤ hi
    · simp [h, show i < 64 by omega, show i - lo < hi + 1 - lo by omega]
    · rw [decide_eq_false h]
      by_cases k : lo ≤ i
      · simp [show ¬ i - lo < hi + 1 - lo by omega]
      · simp [show ¬ i ≥ lo by omega]
  have h2 : (BitVec.ofNat 64 ((v % 2 ^ (hi + 1 - lo)) <<< lo)).getLsbD i =
      (decide (lo ≤ i ∧ i ≤ hi) && v.testBit (i - lo)) := by
    simp only [BitVec.getLsbD_ofNat, Nat.testBit_shiftLeft, Nat.testBit_mod_two_pow]
    by_cases h : lo ≤ i ∧ i ≤ hi
    · simp [h, show i < 64 by omega, show i - lo < hi + 1 - lo by omega]
    · rw [decide_eq_false h]
      by_cases k : lo ≤ i
      · simp [show ¬ i - lo < hi + 1 - lo by omega]
      · simp [show ¬ i ≥ lo by omega]
  simp only [putBits, BitVec.getLsbD_or, BitVec.getLsbD_and, BitVec.getLsbD_not, h1, h2]
  by_cases h : lo ≤ i ∧ i ≤ hi
  · simp [h]
  · by_cases k : i < 64
    · simp [h, k]
    · simp [h, k, BitVec.getLsbD_of_ge w i (by omega)]

/-- A field just replaced. -/
theorem bitsOf_putBits (w : Word) (hi lo v : Nat) (hh : hi < 64) (hl : lo ≤ hi) :
    bitsOf (putBits w hi lo v) hi lo = v % 2 ^ (hi + 1 - lo) := by
  apply Nat.eq_of_testBit_eq
  intro i
  rw [bitsOf_testBit, putBits_getLsbD w hi lo v _ hh hl, Nat.testBit_mod_two_pow]
  by_cases h : i < hi + 1 - lo
  · simp [h, show lo ≤ lo + i ∧ lo + i ≤ hi by omega]
  · simp [h]

/-- A field that another field's replacement does not meet. -/
theorem bitsOf_putBits_ne (w : Word) (hi lo v hi' lo' : Nat) (hh : hi < 64) (hl : lo ≤ hi)
    (hd : hi' < lo ∨ hi < lo') : bitsOf (putBits w hi lo v) hi' lo' = bitsOf w hi' lo' := by
  apply Nat.eq_of_testBit_eq
  intro i
  rw [bitsOf_testBit, bitsOf_testBit, putBits_getLsbD w hi lo v _ hh hl]
  by_cases h : i < hi' + 1 - lo'
  · simp [h, show ¬ (lo ≤ lo' + i ∧ lo' + i ≤ hi) by omega]
  · simp [h]

theorem bitOf_putBits_ne (w : Word) (hi lo v i : Nat) (hh : hi < 64) (hl : lo ≤ hi) (hd : i < lo ∨ hi < i) :
    bitOf (putBits w hi lo v) i = bitOf w i := by
  rw [bitOf, putBits_getLsbD w hi lo v i hh hl, if_neg (by omega)]; rfl

/-- A bit just replaced. -/
theorem bitOf_putBits (w : Word) (i : Nat) (b : Bool) (hh : i < 64) :
    bitOf (putBits w i i (if b then 1 else 0)) i = b := by
  rw [bitOf, putBits_getLsbD w i i _ i hh (Nat.le_refl _), if_pos ⟨Nat.le_refl _, Nat.le_refl _⟩]
  cases b <;> simp

/-- A single bit, read as a field. -/
theorem bitsOf_bit (w : Word) (i : Nat) : bitsOf w i i = if bitOf w i then 1 else 0 := by
  apply Nat.eq_of_testBit_eq
  intro j
  rw [bitsOf_testBit]
  cases j with
  | zero => cases h : bitOf w i <;> simp_all [bitOf]
  | succ j => cases h : bitOf w i <;> simp [Nat.testBit_succ]

/-! ### The register file -/

variable {s : State}

theorem State.reg_setReg (h : kvWf regReset s.regs = true) (off : Nat) (w : Word) (o : Nat) :
    (s.setReg off w).reg o = if o = off then w else s.reg o :=
  kvGet_kvSet ((kvWf_iff _ _).1 h) off w o

theorem State.setReg_wf (h : kvWf regReset s.regs = true) (off : Nat) (w : Word) :
    kvWf regReset (s.setReg off w).regs = true := kvSet_wf off w h

theorem State.setFld_wf (h : kvWf regReset s.regs = true) (off hi lo v : Nat) :
    kvWf regReset (s.setFld off hi lo v).regs = true := kvSet_wf off _ h

theorem State.setBit_wf (h : kvWf regReset s.regs = true) (off i : Nat) (b : Bool) :
    kvWf regReset (s.setBit off i b).regs = true := kvSet_wf off _ h

theorem State.reg_setFld (h : kvWf regReset s.regs = true) (off hi lo v o : Nat) :
    (s.setFld off hi lo v).reg o = if o = off then putBits (s.reg off) hi lo v else s.reg o :=
  State.reg_setReg h off _ o

theorem State.reg_setBit (h : kvWf regReset s.regs = true) (off i : Nat) (b : Bool) (o : Nat) :
    (s.setBit off i b).reg o = if o = off then putBits (s.reg off) i i (if b then 1 else 0) else s.reg o :=
  State.reg_setReg h off _ o

theorem State.fld_setFld (h : kvWf regReset s.regs = true) (off hi lo v : Nat) (hh : hi < 64) (hl : lo ≤ hi) :
    (s.setFld off hi lo v).fld off hi lo = v % 2 ^ (hi + 1 - lo) := by
  rw [State.fld, State.reg_setFld h, if_pos rfl, bitsOf_putBits _ _ _ _ hh hl]

theorem State.bit_setBit (h : kvWf regReset s.regs = true) (off i : Nat) (b : Bool) (hi : i < 64) :
    (s.setBit off i b).bit off i = b := by
  rw [State.bit, State.reg_setBit h, if_pos rfl, bitOf_putBits _ _ _ hi]

theorem State.reg_setReg_ne (h : kvWf regReset s.regs = true) {off o : Nat} (w : Word) (hne : o ≠ off) :
    (s.setReg off w).reg o = s.reg o := by rw [State.reg_setReg h, if_neg hne]

theorem State.reg_setFld_ne (h : kvWf regReset s.regs = true) {off o : Nat} (hi lo v : Nat) (hne : o ≠ off) :
    (s.setFld off hi lo v).reg o = s.reg o := by rw [State.reg_setFld h, if_neg hne]

theorem State.reg_setBit_ne (h : kvWf regReset s.regs = true) {off o : Nat} (i : Nat) (b : Bool) (hne : o ≠ off) :
    (s.setBit off i b).reg o = s.reg o := by rw [State.reg_setBit h, if_neg hne]

/-! ### Memory -/

theorem State.byteAt_store (h : kvWf s.dflt s.mem = true) (a : Nat) (bs : List Byte) (c : Nat) :
    (s.store a bs).byteAt c = if a ≤ c then (bs[c - a]?).getD (s.byteAt c) else s.byteAt c :=
  kvGet_kvSetAll h a bs c

/-- The bytes just stored. -/
theorem State.load_store (h : kvWf s.dflt s.mem = true) (a : Nat) (bs : List Byte) :
    (s.store a bs).load a bs.length = bs := by
  apply List.ext_getElem?
  intro i
  rw [State.load, kvRange_getElem?]
  split
  · rename_i hi
    have := State.byteAt_store h a bs (a + i)
    simp only [Nat.le_add_right, if_true, Nat.add_sub_cancel_left, List.getElem?_eq_getElem hi, Option.getD_some] at this
    rw [List.getElem?_eq_getElem hi]
    exact congrArg some this
  · rename_i hi
    exact (List.getElem?_eq_none (by omega)).symm

/-- Every byte outside the stored ones. -/
theorem State.byteAt_store_outside (h : kvWf s.dflt s.mem = true) (a : Nat) (bs : List Byte) (c : Nat)
    (hc : c < a ∨ a + bs.length ≤ c) : (s.store a bs).byteAt c = s.byteAt c := by
  rw [State.byteAt_store h]
  split
  · rw [List.getElem?_eq_none (by omega)]; rfl
  · rfl

end Sys2Proof.Machine
end

