-- ==== Sys2Proof/Laws/Signals.lean ====
section
/-! SUPPORT. What raising an interrupt source and recording an event change: nothing but what `State.Signals` names. -/

set_option Elab.async false

namespace Sys2Proof.Machine

theorem State.Signals.refl (s : State) : State.Signals s s := by
  constructor <;> first | rfl | exact Nat.le_refl _ | exact fun h => ⟨h, fun _ _ => rfl⟩

theorem State.Signals.trans {a b c : State} (h : State.Signals a b) (k : State.Signals b c) : State.Signals a c where
  mem := k.mem.trans h.mem
  fills := k.fills.trans h.fills
  ops := k.ops.trans h.ops
  nextTag := k.nextTag.trans h.nextTag
  completions := k.completions.trans h.completions
  fab := k.fab.trans h.fab
  tier := k.tier.trans h.tier
  ep := by rw [k.ep, h.ep]
  lamp := k.lamp.trans h.lamp
  seqs := k.seqs.trans h.seqs
  str := k.str.trans h.str
  clus := k.clus.trans h.clus
  ftab := k.ftab.trans h.ftab
  bram := k.bram.trans h.bram
  vis := k.vis.trans h.vis
  slv := k.slv.trans h.slv
  sns := k.sns.trans h.sns
  fus := k.fus.trans h.fus
  svc := k.svc.trans h.svc
  flt := k.flt.trans h.flt
  tim := k.tim.trans h.tim
  boot := k.boot.trans h.boot
  integ := k.integ.trans h.integ
  power := k.power.trans h.power
  fuses := k.fuses.trans h.fuses
  sec := k.sec.trans h.sec
  pending := k.pending.trans h.pending
  freeCtr := Nat.le_trans h.freeCtr k.freeCtr
  regs := fun w => ⟨(k.regs (h.regs w).1).1, fun o ho => ((k.regs (h.regs w).1).2 o ho).trans ((h.regs w).2 o ho)⟩

variable {s₀ s : State}

/-- A change of the fields that signalling may change, beside the registers. -/
theorem signals_mk {keeperSignals msix sent obs} (h : State.Signals s₀ s) :
    State.Signals s₀ { s with keeperSignals := keeperSignals, ep := { s.ep with msix := msix, sent := sent }, obs := obs } :=
  h.trans (by constructor <;> first | rfl | exact Nat.le_refl _ | exact fun h => ⟨h, fun _ _ => rfl⟩)

theorem State.setReg_signals {off : Nat} {w : Word} (ho : sigReg off = true) (h : State.Signals s₀ s) :
    State.Signals s₀ (s.setReg off w) := by
  refine h.trans ?_
  constructor <;> first | rfl | exact Nat.le_refl _ | skip
  exact fun k => ⟨State.setReg_wf k off w, fun o no => State.reg_setReg_ne k w (fun e => by simp_all)⟩

theorem State.setFld_signals {off hi lo v : Nat} (ho : sigReg off = true) (h : State.Signals s₀ s) :
    State.Signals s₀ (s.setFld off hi lo v) := State.setReg_signals ho h

theorem State.setBit_signals {off i : Nat} {b : Bool} (ho : sigReg off = true) (h : State.Signals s₀ s) :
    State.Signals s₀ (s.setBit off i b) := State.setReg_signals ho h

theorem State.satFld_signals {off hi lo n : Nat} (ho : sigReg off = true) (h : State.Signals s₀ s) :
    State.Signals s₀ (s.satFld off hi lo n) := State.setReg_signals ho h

theorem State.bumpFree_signals (h : State.Signals s₀ s) : State.Signals s₀ s.bumpFree :=
  h.trans (by constructor <;> first | rfl | exact Nat.le_succ _ | exact fun h => ⟨h, fun _ _ => rfl⟩)

theorem signals_foldl {α : Type} {f : State → α → State} {l : List α} (h : State.Signals s₀ s)
    (hf : ∀ s x, x ∈ l → State.Signals s₀ s → State.Signals s₀ (f s x)) : State.Signals s₀ (l.foldl f s) := by
  induction l generalizing s with
  | nil => exact h
  | cons x l ih =>
    exact ih (hf s x List.mem_cons_self h) (fun s y hy => hf s y (List.mem_cons_of_mem _ hy))

/-! ### Interrupts (R429, R498, R499) -/

theorem msixSend_signals {v : Nat} (h : State.Signals s₀ s) : State.Signals s₀ (msixSend s v) :=
  signals_mk (keeperSignals := s.keeperSignals) (obs := s.obs) h

theorem msixDue_signals {v : Nat} (h : State.Signals s₀ s) : State.Signals s₀ (msixDue s v) := by
  unfold msixDue
  split
  · exact msixSend_signals h
  · exact State.setBit_signals rfl h

theorem deliverAll_signals {srcs : List Nat} (h : State.Signals s₀ s) : State.Signals s₀ (deliverAll s srcs) := by
  unfold deliverAll
  extract_lets on t
  have ht : State.Signals s₀ t := signals_foldl h (fun _ _ _ => msixDue_signals)
  exact signals_mk (msix := t.ep.msix) (sent := t.ep.sent) (obs := t.obs) ht

theorem raiseCore_signals {n : Nat} (hn : n < 256) (h : State.Signals s₀ s) : State.Signals s₀ (raiseCore s n) := by
  have hr : sigReg (Reg.intPend (n / 64)) = true := by
    have : n / 64 * 8 < 32 := by omega
    simp [sigReg, Reg.intPend]; omega
  unfold raiseCore
  extract_lets k b t
  split
  · exact h
  · have ht : State.Signals s₀ t := State.setBit_signals hr h
    split
    · exact deliverAll_signals ht
    · exact ht

theorem stickyCore_signals {off bit : Nat} {src : Option Nat} (hn : ∀ n, src = some n → n < 256)
    (h : State.Signals s₀ (s.setBit off bit true)) (h0 : State.Signals s₀ s) :
    State.Signals s₀ (stickyCore s off bit src) := by
  unfold stickyCore
  extract_lets t
  split
  · exact h0
  · split
    · exact raiseCore_signals (hn _ rfl) h
    · exact h

/-! ### Trace buffers and the freeze (R486 to R490) -/

theorem State.setTrBuf_signals {n : Nat} {b : TraceBuf} (h : State.Signals s₀ s) : State.Signals s₀ (s.setTrBuf n b) :=
  signals_mk (keeperSignals := s.keeperSignals) (msix := s.ep.msix) (sent := s.ep.sent) h

theorem trPush_signals {n : Nat} {r : ObsRec} {f : Bool} (hn : n < 12) (h : State.Signals s₀ s) :
    State.Signals s₀ (trPush s n r f) := by
  have hc : sigReg (Reg.obsTrCount n) = true := by simp [sigReg, Reg.obsTrCount]; omega
  unfold trPush
  extract_lets b full t
  have ht : State.Signals s₀ t := by
    unfold t
    split
    · exact stickyCore_signals (by simp) (State.setBit_signals rfl h) h
    · exact h
  clear_value t
  repeat' first
    | with_reducible
        first
          | exact ht | refine State.setTrBuf_signals ?_ | refine State.satFld_signals hc ?_
          | refine State.setBit_signals rfl ?_
    | split

theorem bufRec_signals {n e t a : Nat} (h : State.Signals s₀ s) : State.Signals s₀ (bufRec s n e t a).1 :=
  State.bumpFree_signals h

theorem freezeBuf_signals {c n : Nat} (hn : n < 12) (h : State.Signals s₀ s) : State.Signals s₀ (freezeBuf c s n) := by
  unfold freezeBuf
  repeat' first
    | with_reducible
        first
          | assumption | refine State.setTrBuf_signals ?_ | refine State.setBit_signals rfl ?_
          | refine trPush_signals hn ?_ | refine bufRec_signals ?_
    | dsimp only
    | split

theorem freezeNow_signals {c : Nat} (h : State.Signals s₀ s) : State.Signals s₀ (freezeNow s c) := by
  have snap : ∀ {s : State}, State.Signals s₀ s → State.Signals s₀ (snapCounters s) := fun h =>
    signals_foldl h (fun _ x hx => State.setReg_signals (by simp [sigReg, Reg.obsSnap] at hx ⊢; omega))
  have bufs : ∀ {s : State}, State.Signals s₀ s → State.Signals s₀ ((List.range 12).foldl (freezeBuf c) s) := fun h =>
    signals_foldl h (fun _ x hx => freezeBuf_signals (by simpa using hx))
  unfold freezeNow
  extract_lets o s1 s2 s3 s4 s5 s6 o' s7
  have h1 : State.Signals s₀ s1 := signals_mk (keeperSignals := s.keeperSignals) (msix := s.ep.msix) (sent := s.ep.sent) h
  have h2 : State.Signals s₀ s2 := by
    unfold s2
    split
    · exact raiseCore_signals (by decide) h1
    · exact h1
  clear_value s2
  have h6 : State.Signals s₀ s6 := State.setReg_signals rfl (snap (State.setBit_signals rfl (bufs h2)))
  clear_value s6
  have h7 : State.Signals s₀ s7 := by
    unfold s7
    split
    · exact signals_mk (keeperSignals := s6.keeperSignals) (msix := s6.ep.msix) (sent := s6.ep.sent) h6
    · exact h6
  split
  · exact h2
  · exact raiseCore_signals (by decide) h7

theorem freezeCause_signals {i : Nat} (h : State.Signals s₀ s) : State.Signals s₀ (freezeCause s i) := by
  unfold freezeCause; split; exact freezeNow_signals h; exact h

theorem freezeRisen_signals {b : State} (h : State.Signals s₀ s) : State.Signals s₀ (freezeRisen b s) := by
  unfold freezeRisen; extract_lets; split; exact freezeNow_signals h; exact h

theorem raise_signals {n : Nat} (hn : n < 256) (h : State.Signals s₀ s) : State.Signals s₀ (raise s n) :=
  freezeRisen_signals (raiseCore_signals hn h)

/-- A sticky bit that is clear is set, and its source raised. -/
theorem sticky_signals {off bit : Nat} {src : Option Nat} (hn : ∀ n, src = some n → n < 256)
    (hb : s.bit off bit = false) : State.Signals (s.setBit off bit true) (sticky s off bit src) := by
  unfold sticky stickyCore
  refine freezeRisen_signals ?_
  extract_lets t
  rw [if_neg (by simp [hb])]
  cases src with
  | none => exact .refl _
  | some n => exact raiseCore_signals (hn n rfl) (.refl _)

/-! ### Events (R485, R491, R492) -/

theorem lerPush_signals {r : ObsRec} (h : State.Signals s₀ s) : State.Signals s₀ (lerPush s r) :=
  signals_mk (keeperSignals := s.keeperSignals) (msix := s.ep.msix) (sent := s.ep.sent) h

theorem traceBufOf_lt {u n : Nat} (h : traceBufOf u = some n) : n < 12 := by
  unfold traceBufOf at h
  repeat' split at h
  all_goals first | (cases h; omega) | cases h

theorem obsPush_signals {r : ObsRec} (h : State.Signals s₀ s) : State.Signals s₀ (obsPush s r) := by
  unfold obsPush
  extract_lets t
  have ht : State.Signals s₀ t := by unfold t; split; exact lerPush_signals h; exact h
  split
  · exact ht
  · rename_i n hn
    extract_lets c
    split
    · exact freezeRisen_signals (trPush_signals (traceBufOf_lt hn) ht)
    · exact ht

theorem obsEvent_signals {u e c d : Nat} {g : Bool} {t a b : Nat} (h : State.Signals s₀ s) :
    State.Signals s₀ (obsEvent s u e c d g t a b) := obsPush_signals h

theorem count_signals {off n : Nat} (ho : sigReg off = true) (h : State.Signals s₀ s) : State.Signals s₀ (count s off n) :=
  State.setReg_signals ho h

end Sys2Proof.Machine
end

