-- ==== Sys2Proof/Laws/Settle.lean ====
section
/-! SUPPORT. What issuing, completing and settling do where nothing waits: the lemmas that results of operations, steps
and launches are proved with. -/

set_option Elab.async false

namespace Sys2Proof.Machine

/-- The offset in the register space, as a difference: to rewrite with, since the simplifier does not unfold it. -/
theorem regOff_eq (la : Nat) : regOff la = la - regBase := rfl

/-- With no WATCH pending, testing the pending WATCHes changes nothing (R36). -/
theorem settleWatches_quiet : ∀ (n : Nat) (s : State), (∀ p ∈ s.ops, ∀ e, p.phase ≠ .watch e) → settleWatches n s = s := by
  intro n s h
  have k : ∀ ps : List PendingOp, (∀ p ∈ ps, ∀ e, p.phase ≠ .watch e) → nextSatisfied s ps = none := by
    intro ps; induction ps with
    | nil => intro _; rfl
    | cons p ps ih =>
      intro h
      have hp : watchEnds s p = none := by
        unfold watchEnds
        split
        · rename_i e he; exact absurd he (h p (by simp) e)
        · rfl
      simp only [nextSatisfied, hp]
      exact ih (fun q hq => h q (by simp [hq]))
  cases n with
  | zero => rfl
  | succ n => simp [settleWatches, k s.ops h]

/-- A strand that does not wait on a buoy is woken by none. -/
theorem wokenBy_none (s : State) (t : Strand) (h : ∀ r l e, t.wait ≠ .buoy r l e) : wokenBy s t = none := by
  unfold wokenBy
  split
  · rename_i r l e he; exact absurd he (h r l e)
  · rfl

/-- With no strand waiting on a buoy and no buoy-watch source armed, testing them changes nothing (R178, R507). -/
theorem settleStrands_quiet (s : State) (h : ∀ t ∈ s.str.all, ∀ r l e, t.wait ≠ .buoy r l e)
    (ha : armedWatches s = []) : ∀ n, settleStrands n s = s := by
  have hb : buoyWatchAll s = s := by simp [buoyWatchAll, ha]
  intro n
  cases n with
  | zero => exact hb
  | succ n =>
    have : s.str.all.any (fun t => (wokenBy s t).isSome) = false := by
      rw [List.any_eq_false]; intro t ht; simp [wokenBy_none s t (h t ht)]
    simp [settleStrands, hb, this]

/-- A change to memory settles at once where nothing waits on it. -/
theorem settleOnce_quiet (s : State) (h : s.Quiet) : settleOnce s = s := settleStrands_quiet s h.strands h.sources _

/-- A change to memory settles at once where nothing waits on it. -/
theorem settle_quiet (s : State) (h : s.Quiet) : settle s = s := by
  simp only [settle, settleOnce_quiet s h]
  exact settleWatches_quiet _ _ h.ops

/-- An operation that is behind no FENCE is issued at once (R42). -/
theorem mustQueue_unfenced (s : State) (p : PendingOp) (h : s.unfenced p.op.source) (ho : p.origin = .plain) :
    mustQueue s p = false := by
  simp only [mustQueue, ho, Bool.or_eq_false_iff]
  constructor
  · rw [List.any_eq_false]
    intro q hq
    simp only [Bool.and_eq_true, beq_iff_eq, decide_eq_true_eq, Bool.or_eq_true, not_and]
    rintro ⟨hs, -⟩ hh
    obtain ⟨h1, h2, h3, h4⟩ := h q hq hs
    rcases hh with ((hh | hh) | hh) | ⟨hh, -⟩ <;> simp_all
  · simp

/-- A completion with a usable DONE buoy, or none, is given to its issuer and increments the buoy (R33). -/
theorem complete_quiet (s : State) (o : Origin) (op : Op) (st : Nat) (res : Word) (ho : o = .plain)
    (hq : s.Quiet) (hd : s.doneOk op.done) :
    complete s o op st res [] = bumpTo (s.completed op.source op.code st res) op.done (st == stOK) op.cls := by
  subst ho
  have hn : ¬ (op.done ≠ 0 ∧ nodeOf op.done ≠ s.node) := by
    rcases hd with hd | ⟨hn, -⟩ <;> simp_all
  have e : pickCode s (doneFaults (doneCheck s op.done) st) = (s, st) := by
    have hb : doneCheck s op.done = stOK := by
      unfold doneCheck
      rcases hd with hd | ⟨hn, hd⟩ <;> simp_all
    simp only [hb, doneFaults]
    by_cases h : st = stOK <;> simp [causes, pickCode, Config.freeBelow, h, stOK]
  have c : complete s .plain op st res [] =
      settle (bumpDone (s.completed op.source op.code st res) op.done (st == stOK) op.cls) := by
    simp only [complete, completeCore, completeWith, if_neg hn, finalStatus, e, finishWith, putResult, Origin.recordAddr,
      reportTo, State.completed]
    rfl
  rw [c]
  unfold bumpDone bumpTo
  split
  · exact settle_quiet _ ⟨hq.ops, hq.strands, hq.sources⟩
  · rfl

/-- A plain operation that is behind no FENCE starts at once (R42). -/
theorem issue_plain (s : State) (op : Op) (h : s.unfenced op.source) :
    issue s .plain op [] = startOp { s with nextTag := s.nextTag + 1 } ⟨s.nextTag, op, .plain, .queued, []⟩ := by
  have := mustQueue_unfenced { s with nextTag := s.nextTag + 1 } ⟨s.nextTag, op, .plain, .queued, []⟩ h rfl
  show (if mustQueue _ _ then _ else _) = _
  rw [if_neg (by rw [this]; simp)]

/-- A strand's step whose opcode is the command's is run by the command's effect (R173, R184). -/
theorem issueStep_eq {s : State} {id : BitVec 22} {t : Strand} {u : State} {w : StepWord} (h : s.Steps id t u w) {op : Nat}
    (ho : w.op = op) (f : State → Strand → StepWord → State) : issueStep s id op f = f u t w := by
  obtain ⟨r, v, h1, h2, h3, h4, rfl, rfl⟩ := h
  subst ho
  have : (stepRow w.op).isNone = false := by
    revert h4; unfold stepIllegal; cases stepRow w.op <;> simp
  simp [issueStep, h1, h2, h3, h4, this]

/-- An idle unit with nothing suspended takes the run its queue's order gives (R257, R336). -/
theorem choose_take (e : Engine) (q : List QRun) (ok : QRun → Bool) (r : QRun) (rest : List QRun) (h1 : e.run = none)
    (h2 : e.susp = []) (h : pickRun ok q = some (r, rest)) : choose e q ok = .take r rest := by
  simp [choose, h1, h2, h, bestSusp, leastBy]

end Sys2Proof.Machine
end

