-- ==== Sys2Proof/Tests/Base.lean ====
section
/-! SUPPORT. What the tests share: small states, a check of the invariant that evaluates, and idle states. -/

set_option Elab.async false

open Sys2Proof Sys2Proof.Machine
namespace Sys2Proof.Tests

/-- The invariant as a check that evaluates. -/
def wf (s : State) : Bool :=
  Memory.wf s.fills s.mem && kvWf regReset s.regs && kvWf (fun _ => (0xFF : Byte)) s.boot.xspi &&
  decide (s.fab.links.length = 8 ∧ s.seqs.length = 16 ∧ s.clus.length = 8 ∧ s.vis.engines.length = 8 ∧
    s.vis.slots.length = 16 ∧ s.slv.units.length = 2 ∧ s.slv.slots.length = 8 ∧ s.sns.sources.length = 44 ∧
    s.sns.trigs.length = 8 ∧ s.flt.length = 64 ∧ s.obs.bufs.length = 12 ∧ s.fuses.owners.length = 4) &&
  decide (s.fuses.lifecycle ≤ s.fuses.pending ∧ s.fuses.pending ≤ 2 ∧ s.fuses.svnImage ≤ 64 ∧ s.fuses.svnFw ≤ 64)

theorem inv_of_wf {s : State} (h : wf s = true) : s.Inv := by
  simp only [wf, Bool.and_eq_true, decide_eq_true_eq] at h
  obtain ⟨⟨⟨⟨h1, h2⟩, h3⟩, a1, a2, a3, a4, a5, a6, a7, a8, a9, a10, a11, a12⟩, f1, f2, f3, f4⟩ := h
  exact ⟨⟨h1, h2, h3⟩, ⟨a1, a2, a3, a4, a5, a6, a7, a8, a9, a10, a11, a12⟩, ⟨f1, f2, f3, f4⟩⟩

/-- No operation in flight, no strand, no buoy watched. -/
def idle (s : State) : Bool := decide (s.ops = [] ∧ s.str.all = [] ∧ armedWatches s = [])

/-- No WATCH pending, no strand waiting on a buoy, no buoy watched. -/
def still (s : State) : Bool :=
  s.ops.all (fun p => match p.phase with
    | .watch _ => false
    | _ => true) &&
  s.str.all.all (fun t => match t.wait with
    | .buoy _ _ _ => false
    | _ => true) && decide (armedWatches s = [])

theorem quiet_of_still {s : State} (h : still s = true) : s.Quiet := by
  simp only [still, Bool.and_eq_true, List.all_eq_true, decide_eq_true_eq] at h
  refine ⟨fun p hp e he => ?_, fun t ht r l e he => ?_, h.2⟩
  · have := h.1.1 p hp; simp [he] at this
  · have := h.1.2 t ht; simp [he] at this

theorem unfenced_of_idle {s : State} {src : Source} (h : idle s = true) : s.unfenced src := by
  simp only [idle, decide_eq_true_eq] at h
  simp [State.unfenced, h.1]

/-- A state after reset with these registers written. -/
def regs (l : List (Nat × Word)) (s : State := State.reset) : State := l.foldl (fun s e => s.setReg e.1 e.2) s

/-- A device that runs: start-up has ended, the time clock ticks and the Lamp is stopped. -/
def started : State :=
  let s := regs [(Reg.gctlBoot, 7)]
  { s with tim := { s.tim with running := true, n := 123456789 } }

/-- The host's operations, without a DONE buoy. -/
def plain : OpHead := ⟨.host, 0, 0⟩

/-- The host's operations with a DONE buoy at the top of the DRAM direct region. -/
def counted : OpHead := ⟨.host, 3, BitVec.ofNat 64 (dramBase + 0x7FFFFFFF8)⟩

/-- A word stored at a local address. -/
def mem (la : Nat) (w : Word) (s : State) : State := s.store la (wordBytes w)

/-- A node of a graph that has launched nothing, with its buoys in T2. -/
def nodeD (kind : Nat) (job : Word) : NodeDesc :=
  { kind, stage := 0, preds := [], ncomp := 0, job, launch := BitVec.ofNat 64 (dramBase + 0x100)
    done := BitVec.ofNat 64 (dramBase + 0x108), comp := BitVec.ofNat 64 (dramBase + 0x200), taken := 0, seenOk := 0,
    seenBad := 0, stalls := 0, overruns := 0, lastEdge := 0, full := false, fullAt := 0 }

/-- An enabled graph of class C1 with these nodes. -/
def graphD (nodes : List NodeDesc) : Graph :=
  { gid := 0, nodes, cls := 1, last := 0, runOn := false, gated := false, period := 1, phase := 0, input := 0
    output := 0, ring := 0, counters := 0, stride := 0, active := true, started := 1, lastIn := 0 }

/-- The first instance of that graph, with its nodes in these phases. -/
def instD (phases : List NodePhase) : Inst :=
  { uid := 0, gid := 0, number := 0, start := 0, time := 0, first := 0, count := 0, stage := 0, begun := 0, held := false
    aborted := false, ranOn := false, nodes := phases }

/-- `s` with that graph and instance on sequencer 0. -/
def withGraph (nodes : List NodeDesc) (phases : List NodePhase) (s : State := started) : State :=
  { s with seqs := s.seqs.set 0 ⟨[graphD nodes], [instD phases], 1, 1⟩ }

/-- A run of node 0 of that graph, in no instance. -/
def runD (job : Word) : Run :=
  { seq := 0, node := 0, gid := 0, slot := none, uid := none, number := 0, cls := 1, dom := 0, job, done := 0, ring := 0, time := 0 }

/-- A global address of node 0. -/
def at_ (la : Nat) : Word := BitVec.ofNat 64 la

/-- Where a job record of these tests lies, as a local address. -/
abbrev recLa : Nat := dramBase + 0x5000
/-- The same place as a global address. -/
abbrev recAt : Word := at_ recLa

end Sys2Proof.Tests
end

