-- ==== Sys2Proof/Tests/Device.lean ====
section
/-! SUPPORT. Resets, start-up, the host, integrity, signed records, power, traces and interrupts: one state and operands that meet every hypothesis of the statements about them, with the
outcome each statement names. -/

set_option Elab.async false

open Sys2Proof Sys2Proof.Machine
namespace Sys2Proof.Tests

/-! Resets and start-up. -/

/-- A device in a phase of start-up. -/
def phaseSt (p : Nat) (s : State := started) : State := s.setFld Reg.gctlBoot 3 0 p

theorem witness_reset : started.Inv ∧ started.power.off = false ∧ started.power.thermtrip = false ∧
    started.tim.running = true := ⟨inv_of_wf (by decide +kernel), by decide +kernel⟩

/-- The header of a candidate of one section of keeper firmware. -/
def headerD : List Byte :=
  [0x53, 0x4E, 0x52, 0x58] ++ leBytes 2 1 ++ leBytes 2 1 ++ leBytes 8 9 ++ leBytes 4 0x6000 ++ zeroBytes 8
    ++ leBytes 4 (started.fld Reg.gctlId 63 32) ++ [0xB0, 0xB0] ++ zeroBytes 222
    ++ leBytes 2 1 ++ leBytes 2 0 ++ leBytes 4 0x5000 ++ leBytes 4 0x10

/-- That header in slot B, and as the recovery image. -/
def imageSt (present : Bool := true) : State :=
  let s := phaseSt 2
  { s with boot := { s.boot with xspi := kvSetAll (fun _ => 0xFF) [] 0x10000000 headerD, big := true, present } }

def recoverySt : State := (phaseSt 9).store (cluSram 0) headerD

theorem witness_start_up :
    (let s := { phaseSt 0 with tim := State.reset.tim }
     s.power.off = false ∧ bootPhase s = 0 ∧ s.tim.running = false) ∧
    (∀ p ∈ [1, 2], let s := phaseSt p imageSt
      let u := s.setFld Reg.gctlBoot 3 0 2
      bootPhase s = p ∧ s.boot.image = none ∧ u.boot.present = true ∧
        (slotOrder u).filter (fun i => u.boot.failed != some i) = [1]) ∧
    (wf (imageSt false) = true ∧ bootPhase (imageSt false) = 2 ∧ (imageSt false).boot.image = none ∧
      (imageSt false).boot.present = false) ∧
    (let s := { imageSt with boot := { imageSt.boot with image := some 1 } }
     s.boot.image = some 1 ∧ bootPhase s = 2 ∧ ((sectsOf s 1).find? (·.type == 1)).map (fun e => (e.off, e.len)) = some (0x5000, 0x10) ∧
       0x10 ≤ 0x800000 ∧ 0x5000 + 0x10 ≤ imageMax 1) ∧
    wf (phaseSt 4) = true ∧ bootPhase (phaseSt 4) = 4 ∧ bootPhase recoverySt = 9 ∧ isCandidate recoverySt 2 = true ∧
    bootPhase (phaseSt 9) = 9 ∧ isCandidate (phaseSt 9) 2 = false ∧
    (let s := { phaseSt 5 with boot := { started.boot with image := some 0 } }; s.boot.image = some 0 ∧ bootPhase s = 5) := by
  decide +kernel

/-! The host. -/

/-- An endpoint with a link at 16 GT/s on 8 lanes, out of reset and of the retry status. -/
def hostSt (more : List (Nat × Word) := []) : State :=
  let s := regs ((Reg.hstStat, 0x184) :: more) started
  { s with ep := { s.ep with perst := false, crs := false, needPerst := false } }

theorem witness_endpoint :
    wf hostSt = true ∧ pcieUp hostSt = true ∧ hostSt.ep.perst = false ∧ hostSt.ep.crs = false ∧
    (∀ p ∈ hostSt.ops, p.phase ≠ .hostWait) ∧ hostSt.power.off = false ∧ hostSt.power.thermtrip = false ∧
    (let s := hostSt [(Reg.hstStat, 0)]
     wf s = true ∧ s.ep.perst = false ∧ s.ep.needPerst = false ∧ pState s ≠ 3 ∧ pcieUp s = false ∧ ((4 : Fin 6).val ≠ 0) ∧
       (8 : BitVec 4).toNat ∈ [1, 2, 4, 8]) := by decide +kernel

/-- Requests at the ends of BAR2 and of the registers of BAR0, and in D3hot. -/
theorem witness_host_requests :
    (∀ off ∈ [0, 0xFFFFFFFFF], configOpen hostSt = true ∧ hostSt.bit Reg.hstStat 9 = false ∧ off < 0x1000000000 ∧
      nodeOf (hostSt.reg Reg.hstBar2Base + at_ off) = nodeOf (hostSt.reg Reg.hstBar2Base)) ∧
    (0x1FFFFF8 < 0x2000000 ∧ (zeroBytes 8).length ≠ 4) ∧
    (let s := hostSt [(Reg.hstStat, 0x384)]
     configOpen s = true ∧ s.bit Reg.hstStat 9 = true ∧ 0x3FFFFF8 < 0x4000000) := by decide +kernel

/-- A signal to a buoy in T2 and to flash; a service slot with one keeper running; an AtomicOp to the host. -/
theorem witness_host_signals :
    (let w := { started with nextTag := started.nextTag + 1 }
     nodeOf (at_ (dramBase + 8)) = started.node ∧ idle started = true ∧
       still (bump w (at_ (dramBase + 8)) true 3).1 = true ∧ (bump w (at_ (dramBase + 8)) true 3).2 = stOK ∧
       nodeOf (at_ flashBase) = started.node ∧ still (bump w (at_ flashBase) true 3).1 = true ∧
       (bump w (at_ flashBase) true 3).2 ≠ stOK ∧ nodeOf (BitVec.ofNat 64 (5 * 2 ^ 54)) ≠ started.node) ∧
    (let s := mem (dramBase + 8) 1 (regs [(Reg.hstSvcBuoy, at_ (dramBase + 8)), (Reg.hstSvcRing, at_ (dramBase + 0x10000))] started)
     let s := { s with power := { s.power with halted := [0, 1, 2] } }
     s.fld Reg.gctlBoot 3 0 = 7 ∧ pState s < 2 ∧ slotKeeper s = some 3 ∧ nodeOf (s.reg Reg.hstSvcBuoy) = s.node ∧
       buoyCheck s (localOf (s.reg Reg.hstSvcBuoy)) = stOK ∧
       s.ep.svc < bitsOf (s.word (localOf (s.reg Reg.hstSvcBuoy))) 47 0) ∧
    (let p : PendingOp := ⟨3, opOf plain 4 0 (at_ hostBase) 0 8 1 0 0, .plain, .hostWait, []⟩
     let s := { started with ops := [p] }
     s.ops.find? (fun q => q.tag == 3 && q.phase == .hostWait) = some p ∧ p.op.code = 4) := by decide +kernel

/-! Integrity. -/

/-- A check of edge 40, and the state that holds it at an edge. -/
def checkD : Check :=
  { id := 7, kind := 0, unit := 3, layer := 0, object := 0, tile := 0, addr := 0, fedge := 40, pstart := 0, op := 1, crc := 5
    checker := 4, desc := [], job := none, struct := none }

def checkSt (edge : Nat) : State :=
  let s := regs [(Reg.lmpEdge, BitVec.ofNat 64 edge)] started
  { s with integ := { s.integ with checks := [checkD], arbs := [⟨checkD, 6, 5⟩] } }

/-- The entry of a test of unit kind 2 with expected CRC 9, and content that holds it alone. -/
def testD : List Byte := leBytes 2 2 ++ zeroBytes 6 ++ leBytes 4 32 ++ zeroBytes 12 ++ leBytes 4 9 ++ zeroBytes 4

def contentD : List Byte :=
  [0x53, 0x58, 0x54, 0x43] ++ leBytes 2 1 ++ zeroBytes 2 ++ leBytes 8 3 ++ leBytes 4 1 ++ zeroBytes 4 ++ leBytes 8 dramBase
    ++ zeroBytes 32 ++ testD

theorem witness_checks :
    (∀ e ∈ [41, 42, 43], (checkSt e).integ.checks.find? (·.id == checkD.id) = some checkD ∧ wf (checkSt e) = true ∧
      (decide (lampEdgeNo (checkSt e) ≤ checkD.fedge + 2) = decide (e ≤ 42)) ∧
      (decide (checkD.fedge + 2 ≤ lampEdgeNo (checkSt e)) = decide (42 ≤ e))) ∧
    (checkSt 41).integ.arbs.find? (·.check.id == checkD.id) = some ⟨checkD, 6, 5⟩ ∧ checkD.kind ≠ 2 ∧
    (let c := { checkD with kind := 2 }
     let s := { started with integ := { started.integ with arbs := [⟨c, 6, 5⟩] } }
     s.integ.arbs.find? (·.check.id == c.id) = some ⟨c, 6, 5⟩ ∧ c.kind = 2) ∧
    (let s := regs [(Reg.chkCtl, 0x40)] { started with integ := { started.integ with content := contentD } }
     testKind (136 : Fin 146).val = some 2 ∧ contentEntries s.integ.content = some [testD] ∧ s.bit Reg.chkCtl 6 = true ∧
       pState s < 2 ∧ s.integ.tests = [] ∧ [testD].filter (fun e => u16At e 0 == 2) ≠ [] ∧ unitIdle s 136 = true ∧
       gapPassed s 136 = true ∧ unitFenced s 136 = false) ∧
    (∀ left ∈ [1, 3],
      let t : TestRun := ⟨136, testD, dramBase, left⟩
      let s := { started with integ := { started.integ with tests := [t] } }
      s.integ.tests = [t] ∧ wf s = true ∧ u32At t.raw 24 = 9 ∧ (9 : BitVec 32).toNat = u32At t.raw 24 ∧
        (8 : BitVec 32).toNat ≠ u32At t.raw 24) := by decide +kernel

/-- A blob of unsigned content, as old as the content in use. -/
theorem witness_blob :
    let s := started.store (dramBase + 0x10000) contentD
    let s := s.setReg Reg.chkTcver 3
    (match readBlob s (at_ (dramBase + 0x10000) &&& ~~~0xFFF) with
     | (u, some (b, g)) => !sigOk u g b && decide (tcver b ≤ (u.reg Reg.chkTcver).toNat)
     | _ => false) = true ∧ (readBlob started (at_ (dramBase + 0x10000) &&& ~~~0xFFF)).2 = none := by decide +kernel

/-- Units that may be fenced, one that may not, a fenced one, and cluster 2 about to hand its work on. -/
theorem witness_units :
    (fenceable started 145 = true ∧ fenceable started 146 = false ∧ unitFenced started 163 = false) ∧
    (let s := setUnit started 163 3 7; unitFenced s 163 = true) ∧
    (let s := { started with integ := { started.integ with fencing := [2] } }
     2 ∈ s.integ.fencing ∧ (2 : BitVec 16).toNat < 8 ∧ (cluOf s 2).run = none ∧ s.integ.checks = []) ∧
    (let s := { started with integ := { started.integ with charged := [(3, 0), (4, 2)], minutes := 59999 } }
     wf s = true ∧ pState s < 2 ∧ s.power.thermtrip = false ∧ s.power.off = false ∧ (s.integ.minutes + 1) % 2 ^ 32 ≠ 12000) := by
  decide +kernel

/-! Signed records and the debug level. -/

/-- A record of this type and these bytes 5, 6 and 7 with no argument but a token's, and the nonce `n`. -/
def recordD (ty lvl slot signer : Nat) (n : List Byte) : List Byte :=
  [0x53, 0x58, 0x53, 0x52] ++ leBytes 1 ty ++ leBytes 1 lvl ++ leBytes 1 slot ++ leBytes 1 signer ++ leBytes 8 0 ++ n
    ++ (if ty = 1 then leBytes 2 0xFFFF ++ zeroBytes 2 ++ leBytes 4 60 else zeroBytes 8) ++ zeroBytes 248

theorem witness_record_read : ∀ ty ∈ [1, 2, 3, 4, 5, 6],
    let b := recordD ty 0 0 0xFE (zeroBytes 48)
    let s := started.store recLa b
    wf s = true ∧ (unitRead s (recAt &&& ~~~0x3F) 320 3 none).2 = (stOK, b) ∧ u8At b 4 = ty := by decide +kernel

/-- A record of another device, of another nonce, and one that passes both, whatever the nonce is. -/
theorem witness_record_order :
    started.power.step = none ∧ started.fuses.lifecycle = 0 ∧ recordForm (zeroBytes 320) = false ∧
    (let s := { started with power := { started.power with step := some 1 } }; s.power.step.isSome = true) ∧
    (let s := { started with fuses := { started.fuses with deviceId := 1 } }
     u64At (recordD 3 0 0 0xFE (zeroBytes 48)) 8 ≠ s.fuses.deviceId.toNat) ∧
    (∀ ty ∈ [2, 3, 5, 6], recordForm (recordD ty 0 0 0xFE (nonceBytes started)) = true ∧
      u64At (recordD ty 0 0 0xFE (nonceBytes started)) 8 = started.fuses.deviceId.toNat ∧
      u8At (recordD ty 0 0 0xFE (nonceBytes started)) 4 = ty ∧ u8At (recordD ty 0 0 0xFE (nonceBytes started)) 7 = 0xFE) ∧
    (ownerSlot started 0).valid = false ∧
    recordForm (recordD 1 3 0 0xFF (nonceBytes started)) = true ∧ u8At (recordD 1 3 0 0xFF (nonceBytes started)) 4 = 1 ∧
    wf started = true := by
  decide +kernel

theorem witness_record_nonce : ∀ ty : Nat, sliceB (recordD ty 0 0 0xFE (nonceBytes started)) 16 48 = nonceBytes started :=
  fun _ => rfl

theorem witness_record_wrong_nonce : ∃ n : List Byte, recordForm (recordD 3 0 0 0xFE n) = true ∧
    u64At (recordD 3 0 0 0xFE n) 8 = started.fuses.deviceId.toNat ∧
    sliceB (recordD 3 0 0 0xFE n) 16 48 ≠ nonceBytes started := by
  by_cases h : nonceBytes started = zeroBytes 48
  · refine ⟨1 :: zeroBytes 47, by decide +kernel, by decide +kernel, ?_⟩
    rw [h]
    decide +kernel
  · refine ⟨zeroBytes 48, by decide +kernel, by decide +kernel, ?_⟩
    have e : sliceB (recordD 3 0 0 0xFE (zeroBytes 48)) 16 48 = zeroBytes 48 := by decide +kernel
    rw [e]
    exact fun x => h x.symm

theorem witness_attest :
    (unitRead started ((recAt &&& ~~~0x3F) + 104) 48 3 none).2 = (stOK, zeroBytes 48) ∧ tapReaches started = true := by
  decide +kernel

/-- A device at this level and lifecycle, with a session that has ended. -/
def levelSt (lvl lifecycle : Nat) : State :=
  let s := regs [(Reg.secDebug, BitVec.ofNat 64 lvl), (Reg.secDebugEnd, 5)] started
  { s with fuses := { s.fuses with lifecycle, pending := lifecycle } }

theorem witness_levels :
    (∀ l ∈ [0, 1, 2, 3], ∀ c ∈ [0, 1, 2], let s := levelSt l c
      wf s = true ∧ s.fuses.lifecycle = c ∧ debugLevel s = l ∧ s.reg Reg.secDebugEnd ≠ 0 ∧
        (s.reg Reg.secDebugEnd).toNat ≤ s.now ∧ s.power.off = false ∧ tapReaches s = true) ∧
    (let s := (levelSt 3 1).setReg Reg.secDebugEnd 0xFFFFFFFFFFFFFFFF
     wf s = true ∧ debugLevel s ≠ 0 ∧ s.now < (s.reg Reg.secDebugEnd).toNat ∧ debugLevel s ≤ bitsOf (3 : Word) 1 0 ∧
       bitsOf (1 : Word) 1 0 < debugLevel s ∧ bitsOf (4 : Word) 1 0 < debugLevel s) ∧
    (let s := (levelSt 3 1).setReg Reg.secDebugEnd 0
     wf s = true ∧ s.reg Reg.secDebugEnd = 0) ∧
    (let s := { levelSt 3 1 with power := { (levelSt 3 1).power with off := true } }
     wf s = true ∧ s.power.off = true ∧ tapReaches s = false) ∧
    (∀ hs ∈ [[2], [1, 2]], let s := { levelSt 3 1 with power := { (levelSt 3 1).power with halted := hs } }
     wf s = true ∧ tapReaches s = true ∧ debugLevel s = 3 ∧ (decide (∀ j ∈ s.power.halted, j = 2) = decide (hs = [2]))) ∧
    (0x60000 ≤ 0x61000 ∧ 0x61000 < 0x70000 ∧ 0x61000 % 8 = 0 ∧ findReg 0x61000 ≠ none) := by decide +kernel

/-! Power. -/

/-- A device in a power state with a step under way toward `step`, and this TARGET. -/
def powerSt (p : Nat) (step : Option Nat) (target : Nat) (wake : Option Nat := none) : State :=
  let s := regs [(Reg.pwrState, BitVec.ofNat 64 p), (Reg.pwrStateCtl, BitVec.ofNat 64 target)] started
  { s with power := { s.power with step, wake } }

/-- The Lamp on, with a period of 1,000,000 ns. -/
def lampOf (s : State) : State := s.setReg Reg.lmpCtl (BitVec.ofNat 64 (1 + 1000000 * 256))

theorem witness_power_steps :
    (∀ c ∈ [(0, none, 0), (0, some 1, 1), (1, some 0, 0), (1, some 2, 2), (2, some 1, 0), (2, some 3, 3)],
      let s := powerSt c.1 c.2.1 c.2.2
      wf s = true ∧ s.power.off = false ∧ s.power.thermtrip = false ∧ s.bit Reg.pwrBrown 1 = false ∧ s.power.woken = false ∧
        s.power.halted = [] ∧ pState s = c.1 ∧ s.power.step = c.2.1 ∧ pwrTarget s = c.2.2 ∧
        lampOn s = false ∧ drainBusy s = false ∧ s.power.wake = none) ∧
    (∀ since ∈ [0, 1], let u := lampOf (powerSt 0 (some 1) 1)
     let s := { u with power := { u.power with since } }
     s.power.step.isSome = true ∧ lampOn s = true ∧ pState s = 0 ∧ s.power.step = some 1 ∧
       decide (s.lamp.counted = s.power.since) = decide (since = 0)) ∧
    (let s := { powerSt 1 (some 2) 2 with integ := { started.integ with checks := [checkD] } }
     drainBusy s = true ∧ s.power.step = some 2) ∧
    (let s := powerSt 2 (some 3) 3 (some 15)
     wf s = true ∧ pState s = 2 ∧ s.power.step = some 3 ∧ s.power.halted = [] ∧ s.power.wake = some 15) := by
  decide +kernel

/-- A device whose brownout bits and HOLD stand as given, with VR_ALERT_N low or high, in a power state. -/
def brownSt (bits hold : Nat) (alert : Bool) (p : Nat := 0) : State :=
  let s := regs [(Reg.pwrBrown, BitVec.ofNat 64 (bits + hold * 2 ^ 16)), (Reg.pwrState, BitVec.ofNat 64 p)] started
  { s with power := { s.power with vrAlert := alert } }

theorem witness_brownout :
    (wf (brownSt 0 5 false) = true ∧ (brownSt 0 5 false).bit Reg.pwrBrown 0 = false ∧ 2 ≤ pState (brownSt 1 5 false 2)) ∧
    (∀ hold ∈ [0, 5], let s := brownSt 1 hold false
     wf s = true ∧ s.bit Reg.pwrBrown 0 = true ∧ pState s < 2 ∧ s.bit Reg.pwrBrown 1 = false ∧
       decide (s.fld Reg.pwrBrown 31 16 = 0) = decide (hold = 0)) ∧
    (let s := brownSt 3 5 true
     wf s = true ∧ s.bit Reg.pwrBrown 0 = true ∧ s.bit Reg.pwrBrown 1 = true ∧ pState s < 2 ∧
       brownStands { s with power := { s.power with vrAlert := false } } = false ∧ drainDue s = true ∧
       s.tim.ticks < s.power.holdAt + 125 * s.fld Reg.pwrBrown 31 16 ∧
       (let u := { s with tim := { s.tim with ticks := 625 } }
        drainDue u = true ∧ u.power.holdAt + 125 * u.fld Reg.pwrBrown 31 16 ≤ u.tim.ticks)) ∧
    (drainDue (brownSt 3 5 false) = false ∧ drainDue (brownSt 7 5 true) = false) ∧
    (let s := (brownSt 3 5 true).setReg (Reg.fltChThr 63) (BitVec.ofNat 64 (2 ^ 51))
     wf s = true ∧ brownStands { s with power := { s.power with vrAlert := false } } = true) ∧
    (pState (brownSt 0 5 false 3) = 3 ∧ wf (brownSt 0 5 false 3) = true ∧ pState started ≠ 3 ∧ started.power.off = false ∧
      started.power.thermtrip = false) := by decide +kernel

/-- Sixteen readings of which sensors 3 and 9 are the hottest. -/
theorem witness_temperatures :
    let rs : List (BitVec 16) := (List.range 16).map (fun i => if i = 3 ∨ i = 9 then 0x0400 else 0xFF00)
    rs.length = 16 ∧ rs.all (fun x => decide (x.toInt ≤ (rs.getD 3 0).toInt)) = true ∧
      sextN 16 (started.fld Reg.pwrTemp 47 32) < (rs.getD 3 0).toInt ∧
      ¬ sextN 16 ((regs [(Reg.pwrTemp, BitVec.ofNat 64 (0x0400 * 2 ^ 32))] started).fld Reg.pwrTemp 47 32) < (rs.getD 3 0).toInt := by
  decide +kernel

/-- A device in a power state that every cause may wake, with source 0 asserted, or not. -/
def wakeSt (p : Nat) (step : Option Nat) (asserted : Bool := true) : State :=
  let s := regs [(Reg.pwrWakeEn, 0xFFFFF), (Reg.pwrState, BitVec.ofNat 64 p), (Reg.intPend 0, if asserted then 1 else 0),
    (Reg.intEn 0, 1)] started
  { s with power := { s.power with step } }

/-- What the statement on wakes asks of a cause: it is enabled in every power state, with or without the step to P3. -/
def wakeOk (c : WakeCause) : Bool :=
  [(0, none), (1, none), (2, none), (2, some 3), (3, none)].all (fun e =>
    let s := wakeSt e.1 e.2
    wf s && s.bit Reg.pwrWakeEn (wakeBit c) && pState s == e.1 && s.power.step == e.2 && anyAsserted s &&
      !s.power.off && !s.power.thermtrip && decide ((s.reg Reg.pwrWakeTime).toNat ≤ s.now)) &&
  !started.bit Reg.pwrWakeEn (wakeBit c) && wf started

theorem witness_wakes :
    (∀ c ∈ [WakeCause.gpio 0, .gpio 15, .pps, .perst, .time, .interrupt], wakeOk c = true) ∧
    anyAsserted (wakeSt 2 none false) = false ∧
    (∀ f ∈ [(true, false), (false, true)],
      let s := { started with power := { started.power with off := f.1, thermtrip := f.2 } }
      wf s = true ∧ s.power.off = f.1 ∧ s.power.thermtrip = f.2) ∧
    (wf (lampOf started) = true ∧ lampOn (lampOf started) = true ∧ lampOn started = false ∧ started.power.raise = none) ∧
    (∀ t ∈ [0, 9], let s := { started with power := { started.power with raise := some (2, t) } }
     s.power.raise = some (2, t) ∧ decide (t ≤ s.tim.ticks) = decide (t = 0)) := by decide +kernel

/-- A window in which two clients of C0 need what the share of C0 allows, and a token more is available; and P2. -/
theorem witness_window :
    (let s := regs [(Reg.pwrCap, BitVec.ofNat 64 (100 + 200 * 2 ^ 8)), (Reg.lmpResv, BitVec.ofNat 64 (50 * 2 ^ 40)),
      (Reg.pwrDvfs, BitVec.ofNat 64 (550 * 2 ^ 16))] started
    let ds : List PowerDemand := [⟨0, 150⟩, ⟨0, 50⟩]
    let lim := min (s.fld Reg.pwrCap 7 0 * 4000) (s.fld Reg.pwrCap 15 8 * s.fld Reg.pwrDvfs 27 16 * 4)
    wf s = true ∧ pState s < 2 ∧ s.bit Reg.pwrBrown 1 = false ∧ (∀ d ∈ ds, d.cls = 0) ∧
      (ds.map (·.tokens)).foldl (· + ·) 0 ≤ s.fld Reg.pwrCap 7 0 * 4 * s.fld Reg.lmpResv 47 40 / 100 ∧
      (ds.map (·.tokens)).foldl (· + ·) 0 ≤ (lim - 40 * 1000) / 4000 * 4) ∧
    2 ≤ pState (powerSt 2 none 2) := by decide +kernel

/-! Traces, freezes and interrupts. -/

/-- Trace buffer 11 under these CTL bits, with a ring of 64 KiB at 1 MiB of DRAM and a record in it. -/
def traceSt (lvl ctl : Nat) : State :=
  let s := regs [(Reg.secDebug, BitVec.ofNat 64 lvl), (Reg.obsTrCtl 11, BitVec.ofNat 64 ctl),
    (Reg.obsTrRing 11, at_ (dramBase + 0x100010)), (Reg.obsTrBuoy 11, at_ (dramBase + 8))] started
  s.setTrBuf 11 ⟨[⟨5, 164, 1, 0, 0, 0, 0⟩], 0, none⟩

theorem witness_trace :
    (wf started = true ∧ debugLevel started = 0) ∧
    (let s := traceSt 1 0
     wf s = true ∧ 0 < debugLevel s ∧ s.fld (Reg.obsTrCtl 11) 23 22 ≠ 3 ∧ s.bit (Reg.obsTrCtl 11) 0 = false ∧
       traceRingOk s 11 = true) ∧
    (let s := traceSt 3 1
     let b := trBuf s 11
     wf s = true ∧ s.bit (Reg.obsTrCtl 11) 0 = true ∧ debugLevel s = 3 ∧ chunkDue s b = true ∧
       s.fld (Reg.obsTrCtl 11) 23 22 = 0 ∧ b.lost = 0 ∧ b.post = none ∧ 0 < min (min 64 (ringRoom s 11)) b.recs.length) ∧
    (let s := (traceSt 3 1).setTrBuf 11 ⟨[⟨123456789, 164, 1, 0, 0, 0, 0⟩], 0, none⟩
     chunkDue s (trBuf s 11) = false) ∧
    (let s := traceSt 3 (1 + 2 * 2 ^ 22)
     chunkDue s (trBuf s 11) = true ∧ s.fld (Reg.obsTrCtl 11) 23 22 = 2 ∧ (trBuf s 11).post ≠ some 0) ∧
    (let s := traceSt 1 0
     bitsOf (11 : Word) 3 0 < 12 ∧ lerOpen s = true ∧ s.bit (Reg.obsTrCtl (bitsOf (11 : Word) 3 0)) 0 = false) := by decide +kernel

/-- A freeze trigger with every cause enabled, and with none; frozen and not. -/
theorem witness_freeze :
    (∀ c ∈ [FreezeCause.overrun, .mismatch, .linkFailed, .inpin, .source], started.bit Reg.obsFreezeCtl (causeBit c) = false ∧
      ∀ f ∈ [0, 0x10000], let s := regs [(Reg.obsFreezeCtl, 0x3F), (Reg.secDebug, 1), (Reg.obsStat, BitVec.ofNat 64 f)] started
        wf s = true ∧ s.bit Reg.obsFreezeCtl (causeBit c) = true ∧ frozen s = decide (f ≠ 0)) ∧
    (let s := regs [(Reg.obsFreezeCtl, 0x3F), (Reg.secDebug, 1)] started
     wf s = true ∧ frozen s = false ∧ 0 < debugLevel s ∧ s.bit Reg.obsFreezeCtl 0 = true ∧ s.bit Reg.obsFreezeCtl 33 = false ∧
       s.bit Reg.obsFreezeCtl 32 = false) := by decide +kernel

/-- The first and the last source, pending or not, enabled or not. -/
theorem witness_pending :
    (∀ c ∈ [(0, 0), (3, 63)], ∀ p ∈ [0, 1], ∀ e ∈ [0, 1],
      let s := regs [(Reg.intPend c.1, BitVec.ofNat 64 (p * 2 ^ c.2)), (Reg.intEn c.1, BitVec.ofNat 64 (e * 2 ^ c.2))] started
      wf s = true ∧ s.bit (Reg.intPend c.1) c.2 = decide (p = 1) ∧ s.bit (Reg.intEn c.1) c.2 = decide (e = 1)) ∧
    sourceReserved (64 * 0 + 0) = false ∧ sourceReserved (64 * 3 + 63) = false ∧ bitOf (BitVec.ofNat 64 (2 ^ 63)) 63 = true := by
  decide +kernel

theorem witness_delivery :
    (started.Inv ∧ started.reg (Reg.intPend 3) &&& 0xFF &&& ~~~(started.reg (Reg.intEn 3)) = 0) ∧
    (let s := regs [(Reg.intPend 3, BitVec.ofNat 64 (2 ^ 63))] started
     s.reg (Reg.intPend 3) &&& ~~~(0#64) &&& ~~~(s.reg (Reg.intEn 3)) = BitVec.ofNat 64 (2 ^ 63)) ∧
    (∀ r ∈ [0, 0x100], bitOf ((regs [(Reg.intRoute 255, BitVec.ofNat 64 r)] started).reg (Reg.intRoute 255)) 7 = false) ∧
    (let s := regs [(Reg.intRoute 255, 0xBF)] started
     bitOf (s.reg (Reg.intRoute 255)) 7 = true ∧ bitOf (s.reg (Reg.intRoute 255)) 8 = false) :=
  ⟨⟨inv_of_wf (by decide +kernel), by decide +kernel⟩, by decide +kernel⟩

/-- A buoy that a source may watch, whose target is not reached, is reached, or has failed, and one in flash; and an armed
source. -/
theorem witness_buoy_watch :
    (∀ c ∈ [(1, 0, none), (1, 1, some stOK), (1 + 2 ^ 48, 2 ^ 48, some stWATCH_FAILED)],
      let s := mem (dramBase + 8) (BitVec.ofNat 64 c.2.1)
        (regs [(Reg.intBwAddr 47, at_ (dramBase + 8)), (Reg.intBwCond 47, BitVec.ofNat 64 c.1)] started)
      let a := s.reg (Reg.intBwAddr 47) &&& ~~~7
      wf s = true ∧ s.bit (Reg.intBwAddr 47) 0 = false ∧ buoyOk s a = true ∧
        watchCond (s.word (localOf a)) (s.reg (Reg.intBwCond 47)) = c.2.2) ∧
    (let s := regs [(Reg.intBwAddr 47, at_ flashBase)] started
     wf s = true ∧ s.bit (Reg.intBwAddr 47) 0 = false ∧ buoyOk s (s.reg (Reg.intBwAddr 47) &&& ~~~7) = false) ∧
    (let s := regs [(Reg.intBwAddr 47, at_ (dramBase + 9))] started
     wf s = true ∧ s.bit (Reg.intBwAddr 47) 0 = true) := by decide +kernel

end Sys2Proof.Tests
end

