-- ==== Sys2Proof/Tests/Engines.lean ====
section
/-! SUPPORT. Bramble, vision, fusion, the solver and the service: one state and operands that meet every hypothesis of the statements about them, with the
outcome each statement names. -/

set_option Elab.async false

open Sys2Proof Sys2Proof.Machine
namespace Sys2Proof.Tests

/-! Bramble. -/

/-- Bramble on, with a 64 MiB area at 16 MiB below a T2 base of 1 GiB, and the header of index 3: B 12, a side list of 65,536
entries, an update ring at 256 MiB. -/
def bramSt (on : Bool := true) : State :=
  let s := regs [(Reg.brcCtl, if on then 1 else 0), (Reg.brcArea, BitVec.ofNat 64 (0x10 * 2 ^ 20 + 64)), (Reg.tirT2Base, 1024)] started
  let h := dramBase + 0x1000000 + 3 * 0x4000
  mem h 0x10000C (mem (h + 24) (at_ (dramBase + 0x10000000)) s)

/-- Its generation 0, whose eight directory tiles stand at 32 MiB, and its index, whose side list stands behind the headers. -/
def genD : Gen :=
  { num := 0, mpos := 0, addr := dramBase + 0x2008000, root := dramBase + 0x2008040, ctlAt := dramBase + 0x2008080
    tiles := (List.range 8).map (fun i => dramBase + 0x2000000 + 4096 * i), buckets := [], ctl := [], sweep := 0, holds := 0 }

def idxD : Index :=
  { head := 0, oldest := 0, side := [], sideAt := dramBase + 0x1040000, space := 0x910000, gens := [genD], next := 0, taken := 0
    merge := none, blocks := [] }

/-- Index 3 open. -/
def openSt (i : Index := idxD) (s : State := bramSt) : State :=
  setIdxState { s with bram := { s.bram with indexes := [(3, i)] } } 3 1

theorem witness_bramble_enable : (bramSt false).Inv ∧ (bramSt).Inv ∧
    (let fits := fun (s : State) => (bramSpan s).1 + (bramSpan s).2 ≤ s.fld Reg.tirT2Base 14 0 ∧
      (∀ c, c < 8 → spansMeet (bramSpan s) (poolSpan s c) = false) ∧
      spansMeet (bramSpan s) (s.fld Reg.slvArea 34 20, s.fld Reg.slvArea 14 0) = false
     bramOn (bramSt false) = false ∧ fits (bramSt false) ∧ fits (regs [(Reg.tirT2Base, 80)] (bramSt false)) ∧
       ¬ fits (regs [(Reg.tirT2Base, 79)] (bramSt false)) ∧
       ¬ fits (regs [(Reg.slvArea, BitVec.ofNat 64 (0x10 * 2 ^ 20 + 1))] (bramSt false))) :=
  ⟨inv_of_wf (by decide +kernel), inv_of_wf (by decide +kernel), by decide +kernel⟩

theorem witness_bramble_index :
    (bramOn bramSt = true ∧ idxState bramSt 3 = 0 ∧ idxOf bramSt 3 = none ∧ hdrOk bramSt 3 = true ∧
      idxSpace bramSt 3 ≤ areaLeft bramSt) ∧
    (let s := mem (dramBase + 0x1000000 + 3 * 0x4000) 0x10000B bramSt
     idxState s 3 = 0 ∧ hdrOk s 3 = false) ∧
    (let s := regs [(Reg.brcArea, BitVec.ofNat 64 (0x10 * 2 ^ 20 + 8))] bramSt
     idxState s 3 = 0 ∧ hdrOk s 3 = true ∧ areaLeft s < idxSpace s 3) ∧
    (bramOn openSt = true ∧ idxState openSt 3 = 1 ∧ idxOf openSt 3 = some idxD ∧ (∀ g ∈ idxD.gens, g.holds = 0) ∧
      bramOn (bramSt false) = false ∧ idxState openSt 3 ∉ [0, 2]) ∧
    idxState (setIdxState bramSt 3 2) 3 = 2 ∧ idxState (setIdxState bramSt 3 2) 3 ≠ 1 ∧
    (∃ g ∈ [{ genD with holds := 1 }], g.holds ≠ 0) := by decide +kernel

/-- Index 3 closed, with a DIGEST in its header that is `k` more than the right one. -/
def digestSt (k : Nat) : State :=
  let s := setIdxState bramSt 3 2
  s.store (hdrAddr s 3 + 16) (leBytes 4 (hdrDigest s 3 + k))

theorem digestSt_canon : kvWf (setIdxState bramSt 3 2).dflt (setIdxState bramSt 3 2).mem = true := by decide +kernel

theorem load_digest (k a n : Nat) (h : a + n ≤ hdrAddr bramSt 3 + 16 ∨ hdrAddr bramSt 3 + 20 ≤ a) :
    (digestSt k).load a n = (setIdxState bramSt 3 2).load a n := by
  apply List.ext_getElem?
  intro i
  rw [State.load, State.load, kvRange_getElem?, kvRange_getElem?]
  split
  · exact congrArg some (State.byteAt_store_outside digestSt_canon _ _ (a + i) (by
      have : hdrAddr (setIdxState bramSt 3 2) 3 = hdrAddr bramSt 3 := by decide +kernel
      simp only [this, leBytes, List.length_cons, List.length_nil]
      omega))
  · rfl

theorem u32At_leBytes (v : Nat) : u32At (leBytes 4 v) 0 = v % 2 ^ 32 := by
  simp [u32At, sliceB, leBytes, leNat]
  omega

theorem digest_words (k : Nat) : hdrDigest (digestSt k) 3 = hdrDigest (setIdxState bramSt 3 2) 3 ∧
    u32At (hdrBytes (digestSt k) 3 16 4) 0 = (hdrDigest (setIdxState bramSt 3 2) 3 + k) % 2 ^ 32 := by
  have e0 : ∀ (s : State) (a : Nat) (bs : List Byte), hdrAddr (s.store a bs) 3 = hdrAddr s 3 := fun _ _ _ => rfl
  have e2 : hdrAddr (setIdxState bramSt 3 2) 3 = hdrAddr bramSt 3 := by decide +kernel
  have e : hdrAddr (digestSt k) 3 = hdrAddr bramSt 3 := (e0 _ _ _).trans e2
  constructor
  · simp only [hdrDigest, hdrBytes, e, e2]
    rw [load_digest k _ _ (Or.inl (by omega)), load_digest k _ _ (Or.inr (by omega)), load_digest k _ _ (Or.inr (by omega))]
  · rw [← u32At_leBytes, hdrBytes, e, ← e2]
    exact congrArg (u32At · 0) (State.load_store digestSt_canon _ _)

/-- A closed index whose DIGEST is right, and one whose DIGEST is not. -/
theorem witness_bramble_digest :
    hdrDigest (digestSt 0) 3 = u32At (hdrBytes (digestSt 0) 3 16 4) 0 ∧
    hdrDigest (digestSt 1) 3 ≠ u32At (hdrBytes (digestSt 1) 3 16 4) 0 := by
  have h : hdrDigest (setIdxState bramSt 3 2) 3 < 2 ^ 32 := BitVec.isLt _
  rw [(digest_words 0).1, (digest_words 0).2, (digest_words 1).1, (digest_words 1).2]
  omega

/-- The index that is created finds places, and nothing waits. -/
theorem witness_bramble_create : bramSt.Quiet ∧ bramSt.tier.media = [] ∧
    (placeAll ([sideCap bramSt 3 * 128, 64, 8 * tileCount bramSt 3, 0] ++ List.replicate (tileCount bramSt 3) 4096) bramSt
      (areaSpans bramSt) []).2.isSome = true :=
  ⟨quiet_of_still (by decide +kernel), rfl, placeAll_isSome _ _ _ _ (by decide +kernel)⟩

/-- An insert in slot 0 of the update ring. -/
def entryD : List Byte := leBytes 8 77 ++ zeroBytes 80 ++ leBytes 4 0x2000000 ++ zeroBytes 36

theorem witness_update :
    let s := openSt.store (dramBase + 0x10000000) entryD
    let slot := uringOf s 3 + BitVec.ofNat 64 0
    idxOf s 3 = some idxD ∧ (unitRead s slot 128 3 none).2 = (stOK, entryD) ∧ entFe entryD / 2 ^ 25 % 2 = 1 ∧
      entEpoch entryD = 0 ∧ updateFaults s 3 idxD entryD = [] := by decide +kernel

/-- A batch of one SEARCH query of the open index that is admitted, and one whose job record is reserved. -/
def batchRaw (bad : Byte) : List Byte := leBytes 8 (dramBase + 0x6000) ++ leBytes 4 1 ++ [0, bad] ++ zeroBytes 50

def queryRaw : List Byte := leBytes 8 3 ++ leBytes 8 (dramBase + 0x7000) ++ leBytes 8 (dramBase + 0x7100) ++ zeroBytes 40

theorem witness_query_batch : ∀ bad ∈ [0, 1],
    let s := mem (dramBase + 0x100) 1 (withGraph [nodeD 6 (at_ (dramBase + 0x5000))] [.launched false 0] openSt)
    let s := (s.store (dramBase + 0x5000) (batchRaw (BitVec.ofNat 8 bad))).store (dramBase + 0x6000) queryRaw
    (match takeLaunch s 0 0 [6] with
     | none => false
     | some (v, run) =>
       let r := unitRead (obsStart v 188 run) run.job 64 run.cls none
       let b : QBatch :=
         { number := r.1.bram.nextBatch, run := run, report := 0, start := r.1.now, queries := [], ok := 0, incomplete := 0
           refused := 0, unwritten := 0, aborted := 0 }
       let x := { r.1 with bram := { r.1.bram with nextBatch := r.1.bram.nextBatch + 1, batches := r.1.bram.batches ++ [b] } }
       let codes := qbatchCauses x run.job (r.2.1 == stOK) r.2.2
       if bad = 1 then codes == [2]
       else
         let a := queryAddrs x run r.2.2
         let u := a.2.foldl (fun (u : State × List Query) a =>
           ((admitQuery u.1 run.cls a).1, u.2 ++ [(admitQuery u.1 run.cls a).2])) (a.1, [])
         let w := u.2.zipIdx.foldl (fun s e => askQdesc s run.cls b.number e.2 e.1) (u.1.setQBatch { b with queries := u.2 })
         codes.isEmpty && u.2.length == 1 && u.2.all (fun q => q.status == 0) &&
           (match qbatchOf w b.number with
            | none => false
            | some d => d.queries.any (fun q => q.status != 3))) = true := by decide +kernel

/-- A query of batch 0 as its admission leaves it. -/
def queryD (raw : List Byte) : Query :=
  { raw, desc := some (stOK, zeroBytes 64), index := 3, gen := 0, wmark := 0, mpos := 0, start := 0, held := true, searched := false, status := 0, reason := 0
    cands := [], parts := [], found := 0, passed := 0, pages := 0, chanFail := 0, nodeFail := [], probeFail := [], sideFail := false }

def qbatchD (q : Query) (uid : Option Nat := none) : QBatch :=
  { number := 0, run := { runD 0 with uid }, report := 0, start := 0, queries := [q], ok := 0, incomplete := 0, refused := 0
    unwritten := 0, aborted := 0 }

def withQuery (b : QBatch) : State := { openSt with bram := { openSt.bram with batches := [b] } }

/-- A SEARCH, a FETCH, a query whose local part has run, one with a remote part, and one that is aborted. -/
theorem witness_queries :
    (let q := queryD queryRaw
     qbatchOf (withQuery (qbatchD q)) 0 = some (qbatchD q) ∧ (qbatchD q).queries[0]? = some q ∧ q.status = 0 ∧
       runAborted (withQuery (qbatchD q)) (qbatchD q).run = false ∧ q.searched = false ∧ q.fetch = false) ∧
    (queryD (leBytes 8 0x13 ++ zeroBytes 56)).fetch = true ∧
    (let q := { queryD queryRaw with searched := true }
     qbatchOf (withQuery (qbatchD q)) 0 = some (qbatchD q) ∧ q.searched = true ∧ q.parts = [] ∧ q.status = 0) ∧
    (let q := { queryD queryRaw with searched := true, parts := [⟨5, 0, [0]⟩] }
     qbatchOf (withQuery (qbatchD q)) 0 = some (qbatchD q) ∧
       q.parts.find? (fun p => p.node == (5 : BitVec 10).toNat) = some ⟨5, 0, [0]⟩) ∧
    (let b := qbatchD (queryD queryRaw) (some 0)
     let s := withGraph [nodeD 6 0] [.launched true 0] (withQuery b)
     let s := { s with seqs := s.seqs.set 0 ⟨[graphD [nodeD 6 0]], [{ instD [.launched true 0] with aborted := true }], 1, 1⟩ }
     qbatchOf s 0 = some b ∧ runAborted s b.run = true) ∧
    (idxOf openSt 3 = some idxD ∧ idxD.gens.head? = some genD ∧ bramOn openSt = true ∧ idxState openSt 3 = 1 ∧
      u32At (hdrBytes openSt 3 16 4) 0 = 0) := by decide +kernel

/-- A merge record with a reserved bit, one that merges nothing, and a merge to publish. -/
theorem witness_merge : ∀ c ∈ [0, 4],
    let ring := dramBase + 0x10000000
    let s := mem (ring + 0x90000) (BitVec.ofNat 64 c) (mem (ring + 0x80018) 1 openSt)
    let d := ((countsOf s (uringOf s 3 + 0x80018)).1 + 2 ^ 48 - idxD.taken) % 2 ^ 48
    let u := s.modIdx 3 (fun i => { i with taken := (i.taken + 1) % 2 ^ 48 })
    let r := unitRead u (uringOf s 3 + 0x90000) 64 3 none
    idxOf s 3 = some idxD ∧ bramOn s = true ∧ idxState s 3 = 1 ∧ 0 < d ∧ d < 2 ^ 47 ∧ r.2.1 = stOK ∧
      (match (mergeWork r.1 3 idxD genD r.2.2).2 with
       | .ok _ => c == 0
       | .fail st => c == 4 && st == 1) = true := by decide +kernel

/-- A merge record that cannot be read. -/
theorem witness_merge_unread :
    let ring := dramBase + 0x10000000
    let s := mem (ring + 0x80018) 1 openSt
    let s := { s with tier := { s.tier with media := [⟨.direct (ring + 0x90000), .uncorrectable⟩] } }
    let u := s.modIdx 3 (fun i => { i with taken := (i.taken + 1) % 2 ^ 48 })
    (unitRead u (uringOf s 3 + 0x90000) 64 3 none).2.1 ≠ stOK ∧ (countsOf s (uringOf s 3 + 0x80018)).1 = 1 := by decide +kernel

/-- A merge that is done. -/
def mergedIdx : Index := { idxD with merge := some ⟨zeroBytes 64, { genD with num := 1 }, [], [0, 0, 0, 0], 0⟩ }

theorem witness_merge_publish : idxOf (openSt mergedIdx) 3 = some mergedIdx ∧ mergedIdx.merge.isSome = true ∧
    (placeAll [64, 64, 0] (openSt mergedIdx) (areaSpans (openSt mergedIdx)) []).2.isSome = true :=
  ⟨by decide +kernel, rfl, placeAll_isSome _ _ _ _ (by decide +kernel)⟩

/-- A channel that has not failed, with both dies, with one die failed, and with a die suspended. -/
theorem witness_flash : started.Inv ∧ (regs [(Reg.brmStat 15, 4)] started).Inv ∧
    (channelFailed started 15 = false ∧ started.bit (Reg.brmStat 15) 1 = false ∧ started.bit (Reg.brmStat 15) 2 = false) ∧
    (let s := regs [(Reg.brmStat 15, 4)] started
     s.bit (Reg.brmStat 15) 1 = false ∧ s.bit (Reg.brmStat 15) 2 = true ∧ channelFailed s 15 = false) :=
  ⟨inv_of_wf (by decide +kernel), inv_of_wf (by decide +kernel), by decide +kernel⟩

/-! Vision, fusion and solver runs. -/


/-- A run that a queue holds, without a WAIT. -/
def qrunD : QRun := { run := runD recAt, units := 0, wait := 0, waitn := 0, sids := [], base := none }

/-- That run on its engine, with its record. -/
def ujobD (raw : List Byte) (target : Option Target := none) : UJob :=
  { q := qrunD, taken := 0, raws := [raw], index := 0, start := 0, slices := 0, ok := true, target, old := started.snap }

/-- A node of `kind` that has launched a run of the record at `recAt`. -/
def launchedSt (kind : Nat) (raw : List Byte) : State :=
  mem (dramBase + 0x100) 1 ((withGraph [nodeD kind recAt] [.launched false 0]).store recLa raw)

/-- The same with a full fusion and a full solver queue. -/
def fullSt (kind : Nat) : State :=
  let s := launchedSt kind []
  { s with fus := { s.fus with queue := List.replicate 64 qrunD }, slv := { s.slv with queue := List.replicate 64 qrunD } }

theorem witness_runs_enter :
    (let s := launchedSt 2 (leBytes 8 3)
     (match peekLaunch s 0 0 [2] with
      | some (g, n) =>
        let t := visEnter s n.job g.cls
        decide ((visQueue t.1 t.2.1).length < 64) && (takeLaunch t.1 0 0 [2]).isSome
      | none => false) = true) ∧
    (let s := launchedSt 3 []
     s.fus.queue.length < 64 ∧ (takeLaunch s 0 0 [3]).isSome = true) ∧
    (let s := launchedSt 4 []
     s.slv.queue.length < 64 ∧ (takeLaunch s 0 0 [4]).isSome = true) ∧
    (peekLaunch (fullSt 3) 0 0 [3]).map (·.2.full) = some false ∧ 64 ≤ (fullSt 3).fus.queue.length ∧
    (peekLaunch (fullSt 4) 0 0 [4]).map (·.2.full) = some false ∧ 64 ≤ (fullSt 4).slv.queue.length := by decide +kernel

/-- Slots 15 of the vision engines and 7 of the solver, enabled, with a launch that no unit has taken. -/
def slotSt : State :=
  mem (dramBase + 0x100) 1 (regs [(Reg.visSlotJob 15, 1), (Reg.visSlotLaunch 15, at_ (dramBase + 0x100)),
    (Reg.slvSlotJob 7, 1), (Reg.slvSlotLaunch 7, at_ (dramBase + 0x100))] started)

theorem witness_slots :
    (let k := slotSt.vis.slots.getD 15 ⟨0, false, 0⟩
     let run := slotRun slotSt (visSlot 15) 15 k
     let t := visEnter slotSt run.job run.cls
     slotAhead slotSt (visSlot 15) k = true ∧ (visQueue t.1 t.2.1).length < 64) ∧
    slotAhead slotSt (slvSlot 7) (slotSt.slv.slots.getD 7 ⟨0, false, 0⟩) = true ∧ slotSt.slv.queue.length < 64 ∧
    (∀ slot ∈ [SlotRef.vis 15, SlotRef.slv 7], slotSt.bit (slotJobReg slot) 0 = true ∧
      started.bit (slotJobReg slot) 0 = false) := by decide +kernel

/-- A DETECT record of a 64 by 32 image: 9 of the circle, at most 100 features. -/
def detectRaw (band : Nat := 0) : List Byte :=
  leBytes 8 (1 + band * 2 ^ 32) ++ zeroBytes 24 ++ leBytes 8 (dramBase + 0x100000) ++ leBytes 2 64 ++ leBytes 2 32 ++ leBytes 4 64
    ++ zeroBytes 8 ++ [9, 0, 0, 20, 0, 0, 1, 1] ++ leBytes 8 (dramBase + 0x200000) ++ leBytes 8 (dramBase + 0x300000)
    ++ leBytes 4 100 ++ zeroBytes 44

theorem witness_vision_take : ∀ band ∈ [0, 1],
    let s := (started.store recLa (detectRaw band)).setVisQueue false [qrunD]
    let u := obsStart (s.setVisQueue false []) 136 qrunD.run
    let d := unitRead u recAt 128 1 none
    (visEngine s 0).run = none ∧ (visEngine s 0).susp = [] ∧ unitFenced s 136 = false ∧
      pickRun (QRun.eligible s 136) (visQueue s false) = some (qrunD, []) ∧ qrunD.run.job.toNat % 128 = 0 ∧
      addrOk u recAt 128 = true ∧ d.2.1 = stOK ∧ runAborted d.1 qrunD.run = false ∧ qrunD.waits d.1 = .go ∧
      u8At d.2.2 57 = 0 ∧ visCauses d.1 false recAt d.2.2 = (if band = 0 then [] else [4]) := by decide +kernel

/-- A vision engine that runs a record of this type. -/
def visRunSt (ty : Nat) : State :=
  started.modVis 7 (fun k => { k with run := some (ujobD (leBytes 8 ty)) })

theorem witness_vision_work : ∀ ty ∈ [1, 2, 3, 4],
    (visEngine (visRunSt ty) 7).run = some (ujobD (leBytes 8 ty)) ∧
    runAborted (visRunSt ty) (ujobD (leBytes 8 ty)).q.run = false ∧ visType (ujobD (leBytes 8 ty)).raw = ty := by
  decide +kernel

/-- A calibration record of model 1 for 64 by 32 pixels, without rotation. -/
def calD : List Byte :=
  let one := leBytes 4 f32one
  let row := fun (i : Nat) => (List.range 4).flatMap (fun k => if k = i then one else zeroBytes 4)
  [1, 0, 0, 0] ++ leBytes 2 64 ++ leBytes 2 32 ++ one ++ one ++ zeroBytes 48 ++ (List.range 4).flatMap row

/-- A fusion record of one source at instant 1,000, with its calibration, source entry and buoys. -/
def fusRaw : List Byte :=
  leBytes 8 0 ++ leBytes 8 1000 ++ leBytes 8 (dramBase + 0x10000) ++ leBytes 8 (dramBase + 0x20000) ++ leBytes 4 16 ++ zeroBytes 4
    ++ leBytes 8 (dramBase + 0x200) ++ leBytes 8 (dramBase + 0x30000) ++ leBytes 8 (dramBase + 0x40000)
    ++ leBytes 8 (dramBase + 0x50000) ++ leBytes 4 f32one ++ leBytes 4 0x40000000 ++ leBytes 8 (dramBase + 0x11000) ++ zeroBytes 40

def fusSrcD : List Byte :=
  leBytes 8 (dramBase + 0x60000) ++ leBytes 4 4 ++ zeroBytes 4 ++ leBytes 8 (dramBase + 0x10000) ++ leBytes 8 (dramBase + 0x208)

def fusSt : State :=
  let s := ((started.store recLa fusRaw).store (dramBase + 0x10000) calD).store (dramBase + 0x11000) fusSrcD
  { s with fus := { s.fus with queue := [qrunD] } }

theorem witness_fusion :
    (let u := obsStart { fusSt with fus := { fusSt.fus with queue := [] } } 146 qrunD.run
     let d := unitRead u recAt 128 1 none
     let r := readFus d.1 1 d.2.2
     fusSt.fus.eng.run = none ∧ fusSt.fus.eng.susp = [] ∧ unitFenced fusSt 146 = false ∧ fusSt.fus.queue = [qrunD] ∧
       fusAddr u recAt 128 = true ∧ d.2.1 = stOK ∧ runAborted d.1 qrunD.run = false ∧
       (match r.2 with
        | .ok k => (fusTarget r.1 k).isSome
        | _ => false) = true) ∧
    (let j := ujobD fusRaw (some ⟨1000, 0, false, [0], 0⟩)
     let s := fusSt.modFus (fun e => { e with run := some j })
     s.fus.eng.run = some j ∧ runAborted s j.q.run = false ∧ j.target.isSome = true ∧
       (match (readFus (s.modFus (fun e => { e with run := none })) 1 fusRaw).2 with
        | .ok _ => true
        | _ => false) = true) := by decide +kernel

/-- A solver with a 16 MiB area at 16 MiB below a T2 base of 1 GiB. -/
def slvSt (on : Bool := true) : State :=
  regs [(Reg.slvCtl, if on then 1 else 0), (Reg.slvArea, BitVec.ofNat 64 (0x10 * 2 ^ 20 + 16)), (Reg.tirT2Base, 1024)] started

theorem witness_solver_enable :
    (let ok := fun (s : State) => (slvSpan s).1 + (slvSpan s).2 ≤ s.fld Reg.tirT2Base 14 0 ∧
      (∀ c, c < 8 → spansMeet (slvSpan s) (poolSpan s c) = false) ∧
      spansMeet (slvSpan s) (s.fld Reg.brcArea 34 20, s.fld Reg.brcArea 14 0) = false
     slvOn (slvSt false) = false ∧ ok (slvSt false) ∧ ok (regs [(Reg.tirT2Base, 32)] (slvSt false)) ∧
       ¬ ok (regs [(Reg.tirT2Base, 31)] (slvSt false)) ∧
       ¬ ok (regs [(Reg.brcArea, BitVec.ofNat 64 (0x1F * 2 ^ 20 + 1))] (slvSt false))) := by decide +kernel

/-- A solver record of this type and mode for structure 9. -/
def slvRaw (ty mode : Nat) : List Byte :=
  leBytes 8 (ty + mode * 2 ^ 16) ++ zeroBytes 16 ++ leBytes 8 9 ++ leBytes 8 (dramBase + 0x8000) ++ zeroBytes 88

theorem witness_solver_take :
    let s := { (slvSt).store recLa (slvRaw 1 0) with slv := { slvSt.slv with queue := [qrunD] } }
    let v := obsStart { s with slv := { s.slv with queue := [] } } 145 qrunD.run
    let d := unitRead v recAt 128 1 none
    (slvUnit s 1).run = none ∧ (slvUnit s 1).susp = [] ∧ unitFenced s 145 = false ∧
      pickRun (fun r => r.eligible s 145 && !r.sids.any (heldSids (slvUnit s 0)).contains) s.slv.queue = some (qrunD, []) ∧
      qrunD.run.job.toNat % 128 = 0 ∧ addrOk v recAt 128 = true ∧ d.2.1 = stOK ∧ runAborted d.1 qrunD.run = false ∧
      qrunD.waits d.1 = .go ∧ slvCauses d.1 true d.2.2 = [] := by decide +kernel

/-- Unit SU1 with a record, and the six kinds of record. -/
def slvRunSt (raw : List Byte) : State := (slvSt).modSlv 1 (fun k => { k with run := some (ujobD raw) })

theorem witness_solver_records : ∀ c ∈ [(1, 0), (2, 0), (3, 0), (4, 0), (4, 1), (4, 2), (4, 3)],
    let j := ujobD (slvRaw c.1 c.2)
    (slvUnit (slvRunSt (slvRaw c.1 c.2)) 1).run = some j ∧ runAborted (slvRunSt (slvRaw c.1 c.2)) j.q.run = false ∧
      slvType j.current = c.1 ∧ slvMode j.current = c.2 := by decide +kernel

/-- A structure record of one VEC block, and of one joint. -/
def lsqD : List Byte := [0, 0, 0, 0] ++ leBytes 4 1 ++ leBytes 8 0 ++ leBytes 8 (dramBase + 0x9000) ++ zeroBytes 40

def bodyD : List Byte := [1, 0, 0, 0] ++ leBytes 4 1 ++ leBytes 8 0 ++ leBytes 8 (dramBase + 0x9000) ++ zeroBytes 40

theorem witness_structures : ∀ kind ∈ [0, 1],
    let h := if kind = 0 then lsqD else bodyD
    let block := if kind = 0 then leBytes 8 (3 * 2 ^ 4) else leBytes 8 0xFFFF ++ zeroBytes 184
    let s := ((slvSt).store (dramBase + 0x8000) h).store (dramBase + 0x9000) block
    let d := readDeltas s 1 (slvRaw 1 0)
    let r := unitRead d.1 (wordAt (slvRaw 1 0) 32) 64 1 none
    d.2 = (stOK, []) ∧ r.2 = (stOK, h) ∧ u8At h 0 ≤ 1 ∧ allZero (sliceB h 1 3) = true ∧ u32At h 12 = 0 ∧ u64At h 56 = 0 ∧
      (let t := if u8At h 0 = 0 then readLsq r.1 1 h 9 else readBody r.1 1 h 9
       (t.2.1 = stOK ∧ t.2.2.isSome = true)) := by decide +kernel

/-- DROP with structure 9 resident and without. -/
theorem witness_drop :
    let st : Struct := ⟨9, false, [⟨0, 3, false⟩], [], [], [], 0⟩
    let s := { slvSt with slv := { slvSt.slv with structs := [st] } }
    (match (checkDeltas s 1 (slvRaw 2 0)).2 with
     | .ok (k, es) => decide (k = st ∧ es = [])
     | .error _ => false) = true ∧
    (match (checkDeltas slvSt 1 (slvRaw 2 0)).2 with
     | .ok _ => false
     | .error _ => true) = true := by decide +kernel

/-- The inputs of a fusion job of one source. -/
theorem witness_fusion_pack : let f : FusIn := ⟨fusRaw, calD, [fusSrcD], [calD]⟩
    f.srcs.length = fusSources f.raw ∧ f.cals.length = fusSources f.raw := by decide +kernel

/-- A slice boundary with an empty queue, with a run of the same class, and with one of a higher class. -/
theorem witness_slices :
    (let j := ujobD (leBytes 8 1)
     let s := visRunSt 1
     let u := s.modVis 7 (fun k => { k with run := some { j with slices := j.slices + 1 } })
     (visEngine s 7).run = some j ∧ (visEngine s 7).susp = [] ∧ s.vis.engines.length = 8 ∧ unitFenced u 143 = false ∧
       pickRun (QRun.eligible u 143) (visQueue u true) = none ∧
       (∀ cls ∈ [0, 1], let q := { qrunD with run := { qrunD.run with cls } }
         let v := u.setVisQueue true [q]
         pickRun (QRun.eligible v 143) (visQueue v true) = some (q, []) ∧ unitFenced v 143 = false)) ∧
    (∀ dl ∈ [0, 123456790],
      let raw := sliceB (slvRaw 3 0) 0 72 ++ leBytes 8 dl ++ zeroBytes 48
      let s := slvRunSt raw
      (slvUnit s 1).run = some (ujobD raw) ∧ runAborted s (ujobD raw).q.run = false ∧ (slvUnit s 1).susp = [] ∧
        s.slv.units.length = 2 ∧ s.slv.queue = [] ∧
        (slvDeadline (ujobD raw).current = 0 ∨ s.now < slvDeadline (ujobD raw).current)) ∧
    (let j := ujobD fusRaw
     let s := started.modFus (fun e => { e with run := some j })
     s.fus.eng.run = some j ∧ runAborted s j.q.run = false ∧ s.fus.eng.susp = [] ∧ s.fus.queue = []) := by decide +kernel

/-- R456: with FE0 fenced, a mask of FE0 alone allows every engine, and a mask of FE0 and FE1 only FE1. -/
theorem test_fenced_mask :
    let s := setUnit started 136 3 7
    ({ qrunD with units := 1 }).allows s 138 = true ∧ ({ qrunD with units := 3 }).allows s 137 = true ∧
      ({ qrunD with units := 3 }).allows s 138 = false := by decide +kernel

/-! ### The relocalisation service: the worked examples of 09 and 07 -/

/-- The parameters of the worked example of 09: node 2, INRING at DRAM offset 0x4000_0000, the shipped values. -/
def servicePar : ServiceParams := { serviceParams (serviceDefaults 0 1) with inring := 0x0081000040000000 }

theorem test_service_defaults : serviceParamsOk (serviceDefaults 0 1) = true ∧
    serviceParamsOk (serviceDefaults 1 1) = false := by decide
theorem test_service_slot : inputSlot servicePar 0x10085 = 0x0081000040064000 ∧
    featureAddr (inputSlot servicePar 0x10085) 17 = 0x0081000040064508 := by decide
theorem test_service_match : matchOf servicePar [(41, 40), (58, 12), (77, 41)] = some (41, 40) ∧
    matchOf servicePar [(52, 0), (60, 1)] = none := by decide
theorem test_service_key : matchKey (List.range 12) [0xA3, 0x05] = 0x5A3 ∧
    popN 12 (0x5A3 ^^^ 0x4A3) = 1 ∧ popN 12 (0x5A3 ^^^ 0x5A0) = 2 := by decide
theorem test_service_answers : answerStart 128 0 0 = 0 ∧ answerStart 128 0 5 = 2 ^ 48 + 5 - 128 ∧
    claimWord 128 5 (answerStart 128 0 5) = (5, true) ∧ claimWord 128 5 5 = (5, false) := by decide
theorem test_service_inlier : inlier 0x39800000
    [0x3F800000, 0, 0, 0, 0, 0, 0x40000000]
    [0x3F000000, 0xBE800000, 0x40000000, 0x3E080000, 0xBD800000] = true := by decide +kernel
theorem test_service_best : bestHypothesis [3, 91, 7, 91] = (1, 91) := by decide

end Sys2Proof.Tests
end

