-- ==== Sys2Proof/Tests/Lamp.lean ====
section
/-! SUPPORT. The Lamp, graphs, nodes and time: one state and operands that meet every hypothesis of the statements about them, with the
outcome each statement names. -/

set_option Elab.async false

open Sys2Proof Sys2Proof.Machine
namespace Sys2Proof.Tests

/-! The Lamp, graphs and nodes. -/

/-- A Lamp of 100 µs that runs, with the counter at 123,456,789 ns: edge 1,234 is the last multiple. -/
def lamp (next : Nat) : State :=
  let s := regs [(Reg.lmpCtl, BitVec.ofNat 64 (1 + 100000 * 256))] started
  { s with lamp := ⟨next, next, 0, []⟩ }

/-- LMP_CTL.RUN 0 and 1, with a period below the least and one above the most. -/
theorem witness_lamp_settings : started.Inv ∧ (lamp 1235).Inv ∧ started.bit Reg.lmpCtl 0 = false ∧
    (lamp 1235).bit Reg.lmpCtl 0 = true ∧ (lamp 1235).power.point = none ∧ 2 ^ 27 - 1 < 2 ^ 27 ∧
    clampN (2 ^ 27 - 1) 100000 100000000 ≠ lampPeriod (lamp 1235) ∧ clampN 99999 100000 100000000 = lampPeriod (lamp 1235) :=
  ⟨inv_of_wf (by decide +kernel), inv_of_wf (by decide +kernel), by decide +kernel⟩

/-- The edge that comes next, one that is due, and one that is due with two passed over. -/
theorem witness_lamp_edge :
    (lampOn (lamp 1235) = true ∧ (lamp 1235).tim.step = none ∧ edgeDue (lamp 1235) = false) ∧
    (∀ n ∈ [1234, 1232], lampOn (lamp n) = true ∧ edgeDue (lamp n) = true ∧ (∀ k ∈ (lamp n).seqs, k.graphs = [] ∧ k.insts = []) ∧
      (lamp n).ops = [] ∧ (lamp n).power.point = none ∧ (lamp n).power.margin = false ∧ (lamp n).fld Reg.timCtl 1 0 = 0) ∧
    (lamp 1234).tim.n / lampPeriod (lamp 1234) - 1234 = 0 ∧ (lamp 1232).tim.n / lampPeriod (lamp 1232) - 1232 = 2 := by
  decide +kernel

theorem witness_lamp_edge_inv : (lamp 1234).Inv ∧ (lamp 1232).Inv :=
  ⟨inv_of_wf (by decide +kernel), inv_of_wf (by decide +kernel)⟩

/-- A sequencer with no nodes, with 257, and with PHASE equal to PERIOD. -/
theorem witness_graph_refused : ∀ c ∈ [0x100000, 0x100000 + 257 * 2 ^ 8, 0x1000100000 + 2 ^ 8],
    let s := regs [(Reg.lmpSeqCtl 0, BitVec.ofNat 64 c)] started
    wf s = true ∧ bitOf (s.reg (Reg.lmpSeqCtl 0)) 0 = false ∧ (∀ g ∈ (seqOf s 0).graphs, g.active = false) ∧
      (bitsOf (BitVec.ofNat 64 c) 16 8 = 0 ∨ 256 < bitsOf (BitVec.ofNat 64 c) 16 8 ∨ bitsOf (BitVec.ofNat 64 c) 35 20 = 0 ∨
        bitsOf (BitVec.ofNat 64 c) 35 20 ≤ bitsOf (BitVec.ofNat 64 c) 51 36) := by decide +kernel

/-- The same without a failing check but NODES. -/
theorem witness_graph_refused_only : ∀ c ∈ [0x100000, 0x100000 + 257 * 2 ^ 8],
    let s := regs [(Reg.lmpSeqCtl 0, BitVec.ofNat 64 c), (Reg.lmpSeqGraph 0, at_ (dramBase + 0x4000))] started
    bitOf (s.reg (Reg.lmpSeqCtl 0)) 2 = false ∧ nodeOf (s.reg (Reg.lmpSeqGraph 0)) = s.node ∧
      regionOf (localOf (s.reg (Reg.lmpSeqGraph 0))) = 1 ∧ s.bit Reg.secStat 6 = false := by decide +kernel

/-- A graph of one node of KIND 1 in T2 that passes the checks. -/
def graphSt : State :=
  let a := dramBase + 0x4000
  let s := regs [(Reg.lmpSeqCtl 0, 0x100100), (Reg.lmpSeqGraph 0, at_ a)] started
  mem a 1 (mem (a + 8) (at_ (dramBase + 0x8000)) (mem (a + 16) (at_ (dramBase + 0x100)) (mem (a + 24) (at_ (dramBase + 0x108)) s)))

theorem witness_graph_taken : graphSt.Inv ∧ graphSt.Quiet ∧
    (let s := graphSt
     let c := s.reg (Reg.lmpSeqCtl 0)
     let la := localOf (s.reg (Reg.lmpSeqGraph 0))
     let nodes := bitsOf c 16 8
     bitOf c 0 = false ∧ 0 < nodes ∧ nodes ≤ 256 ∧ 0 < bitsOf c 35 20 ∧ bitsOf c 51 36 < bitsOf c 35 20 ∧ bitOf c 2 = false ∧
       nodeOf (s.reg (Reg.lmpSeqGraph 0)) = s.node ∧ regionOf la = 1 ∧ s.tier.media = [] ∧
       crossesRegion la (64 * nodes) = false ∧ placeCheck s la (64 * nodes) .read none = stOK ∧
       s.bit Reg.secStat 6 = false ∧ graphCauses (s.load la (64 * nodes)) (bitsOf c 19 17) nodes = none) :=
  ⟨inv_of_wf (by decide +kernel), quiet_of_still (by decide +kernel), by decide +kernel⟩

/-- A graph that is enabled and is disabled. -/
theorem witness_graph_disabled : bitOf ((regs [(Reg.lmpSeqCtl 15, 1)] started).reg (Reg.lmpSeqCtl 15)) 0 = true := by
  decide +kernel

/-- A launched node whose DONE buoy has risen, without and with a completion record; and nodes with records to do. -/
theorem witness_node_done :
    (∀ k ∈ [0, 1],
      let s := mem (dramBase + 0x108) 1 (withGraph [{ nodeD 1 0 with ncomp := k }] [.launched true 0])
      instOf s 0 0 = some (instD [.launched true 0]) ∧ graphOf s 0 0 = some (graphD [{ nodeD 1 0 with ncomp := k }]) ∧
        launchedInst s 0 0 0 = some (instD [.launched true 0]) ∧ ((instD [.launched true 0]).nodes.getD 0 .waiting).isLaunched = true ∧ (countsOf s (nodeD 1 0).done).1 ≠ 0) ∧
    (let s := withGraph [{ nodeD 1 0 with ncomp := 1 }] [.closing 0 false true, .closing 1 false true]
     (instOf s 0 0).map (·.nodes) = some [.closing 0 false true, .closing 1 false true]) := by decide +kernel

/-- A node whose completion record is a WATCH that stays pending. -/
theorem witness_node_record :
    let s := mem (dramBase + 0x108) 1 (mem (dramBase + 0x200) 5 (mem (dramBase + 0x208) (at_ dramBase)
      (mem (dramBase + 0x218) 1 (withGraph [{ nodeD 1 0 with ncomp := 1 }] [.launched true 0]))))
    let u := issueRecord ((s.setPhase 0 0 0 (.closing 1 false true)).setPhase 0 0 0 (.closing 1 true true)) (.sequencer 0) (some 1)
      (nodeD 1 0).comp (fun a => .node 0 0 0 0 a)
    ((instOf u 0 0).bind (fun y => y.nodes[0]?)) = some (.closing 1 true true) ∧ u.ops.length = 1 := by decide +kernel

/-! Time. -/

/-- A time slave on link 2, which is up, with a TIM_SERVO of 100, 1,000 and 2,000 ns. -/
def slaveSt : State :=
  regs [(Reg.timCtl, 0x1A3), (Reg.fabLinkStat 2, 2), (Reg.timServo, BitVec.ofNat 64 (2000 * 2 ^ 32 + 1000 * 2 ^ 16 + 100))] started

/-- A pending step in both directions, with the Lamp stopped. -/
def stepSt (d : Int) : State := { started with tim := { started.tim with step := some d } }

theorem witness_time_step : ∀ d ∈ [-5, 0, 7], (stepSt d).Inv ∧ (stepSt d).tim.step = some d ∧
    (stepSt d).tim.running = true ∧ (stepSt d).bit Reg.lmpCtl 0 = false := by
  intro d hd
  simp only [List.mem_cons, List.not_mem_nil, or_false] at hd
  rcases hd with rfl | rfl | rfl <;> exact ⟨inv_of_wf (by decide +kernel), rfl, rfl, by decide +kernel⟩

/-- The operands of INC_WRITE at the limits of TIM_INC and next to them. -/
theorem witness_inc : ∀ v ∈ [0x07FF000000, 0x0801000000],
    0x07FF000000 ≤ bitsOf (BitVec.ofNat 64 v) 39 0 ∧ bitsOf (BitVec.ofNat 64 v) 39 0 ≤ 0x0801000000 ∧
    (bitsOf (BitVec.ofNat 64 (v - 1)) 39 0 < 0x07FF000000 ∨ 0x0801000000 < bitsOf (BitVec.ofNat 64 (v + 1)) 39 0) := by
  decide +kernel

/-- An exchange packet. -/
def exchangeD : Packet :=
  { ptype := 0x20, ctl := 0, src := 9, dst := 0, addr := 0, aux := 0, tag := 0, status := 0, hops := 0, data := [] }

/-- The slave after it has stamped an exchange packet, at t2 = t3 = 400, 402, 1,000 and 8,002 half nanoseconds. -/
def stampedSt (h : Nat) : State := { slaveSt with tim := { slaveSt.tim with got := some (h, h) } }

theorem witness_time_slave : slaveSt.Inv ∧ ((3 : BitVec 2).toNat ≠ started.fld Reg.timCtl 1 0) ∧
    (3 : BitVec 2).toNat = slaveSt.fld Reg.timCtl 1 0 ∧ slaveSt.fld Reg.timCtl 6 4 = (2 : Fin 8).val ∧
    linkState slaveSt (2 : Fin 8).val = 2 ∧ pState slaveSt < 2 ∧ exchangeD.ptype = 0x20 ∧
    (∀ h ∈ [400, 402, 1000, 8002], wf (stampedSt h) = true ∧ stampedHere (stampedSt h) h h = true ∧
      (stampedSt h).fld Reg.timCtl 1 0 = 3 ∧ linkState (stampedSt h) ((stampedSt h).fld Reg.timCtl 6 4) = 2) ∧
    (let th := fun (t1 t2 t3 t4 : Nat) => divTrunc (((t2 : Int) - t1) - ((t4 : Int) - t3)) 2
     let s := slaveSt
     let far := fun x => s.bit Reg.timStatus 0 = false ∧ 2 * s.fld Reg.timServo 15 0 < x.natAbs
     far (th 0 1000 1000 1000) ∧ ¬ far (th 0 400 400 400) ∧ far (th 0 402 402 402) ∧
       2 * s.fld Reg.timServo 47 32 < (th 0 8002 8002 8002).natAbs) :=
  ⟨inv_of_wf (by decide +kernel), by decide +kernel⟩

/-- The packet of an exchange that this node began on link 2 comes back. -/
theorem witness_exchange_back :
    let s := regs [(Reg.fabLinkStat 2, 2)] { started with tim := { started.tim with sentAt := [(2, 800)] } }
    wf s = true ∧ linkState s 2 = 2 ∧ pState s < 2 ∧ ¬ (s.fld Reg.timCtl 1 0 = 3 ∧ s.fld Reg.timCtl 6 4 = 2) ∧
      (s.tim.sentAt.any (·.1 == 2)) = true := by decide +kernel

/-- The time slave 15 and 16 edges after its last exchange. -/
theorem witness_exchange_loss : ∀ n ∈ [15, 16],
    let s := { slaveSt with tim := { slaveSt.tim with edges := n } }
    wf s = true ∧ s.fld Reg.timCtl 1 0 = 3 ∧ decide (s.tim.edges < 16) = decide (n = 15) := by decide +kernel

/-- R326: 16 edges without an exchange set NO_EXCHANGE; 15 do nothing. -/
theorem test_exchange_loss : ∀ n ∈ [15, 16],
    (match exec .exchangeLoss { slaveSt with tim := { slaveSt.tim with edges := n } } with
     | .next t => t.bit Reg.timErr 1
     | _ => false) = decide (n = 16) := by decide +kernel

/-- A PPS edge a tick before and at half a second after the last one, free of the servo and feeding it. -/
def ppsSt (ago role : Nat) : State :=
  let s := regs [(Reg.timCtl, BitVec.ofNat 64 (0x80 + role))] started
  { s with tim := { s.tim with ticks := ago, ppsLast := some 0 } }

theorem witness_pps :
    (∀ r ∈ [0, 1], ∀ a ∈ [62499999, 62500000], wf (ppsSt a r) = true ∧ (ppsSt a r).tim.ppsLast = some 0 ∧
      (decide ((ppsSt a r).tim.ticks < 0 + 62500000) = decide (a < 62500000)) ∧ (ppsSt a r).fld Reg.timCtl 1 0 = r) ∧
    (let s := fun n => (let s := regs [(Reg.timCtl, 0x80), (Reg.timStatus, 1)] started; { s with tim := { s.tim with n := n } })
     ∀ n ∈ [5000000007, 5000000008], (s n).bit Reg.timCtl 7 = true ∧ (s n).bit Reg.timStatus 0 = true ∧
       (s n).tim.step = none ∧ (s n).tim.running = true ∧ (s n).tim.ppsOut = false ∧
       decide ((s n).tim.n % 1000000000 < 8) = decide (n = 5000000007)) ∧
    started.bit Reg.timStatus 0 = false ∧ started.bit Reg.timCtl 8 = false ∧ portsOn started = true ∧
    portsOn (regs [(Reg.pwrState, 2)]) = false := by decide +kernel

/-- PPS_OUT while it is active. -/
theorem witness_pps_active : ({ started with tim := { started.tim with ppsOut := true } } : State).tim.ppsOut = true := rfl

end Sys2Proof.Tests
end

