-- ==== Sys2Proof/Tests/Operations.lean ====
section
/-! SUPPORT. The step, the register space, memory and the memory operations: one state and operands that meet every hypothesis of the statements about them, with the
outcome each statement names. -/

set_option Elab.async false

open Sys2Proof Sys2Proof.Machine
namespace Sys2Proof.Tests

/-! The step (StepRunsTheFrontCommand, StepKeepsTheInvariant, FusesOnlyRise). -/

/-- A state with an empty queue whose clock does not run, and one whose clock runs with no edge due. -/
theorem witness_idle : (regs [(Reg.lmpCtl, 1)]).pending = [] ∧ (regs [(Reg.lmpCtl, 1)]).tim.running = false ∧
    (∀ p ∈ started.ops, p.phase ≠ .queued) ∧ started.tim.running = true ∧ started.tim.step = none ∧
    edgeDue (tickTime started) = false := by decide +kernel

/-- A state that is not reset's meets the invariant, and a step from it answers. -/
theorem witness_step_inv : ∃ s t : State, s.Inv ∧ s ≠ State.reset ∧ step s = .next t :=
  ⟨{ started with pending := [.lampRun true] }, _, inv_of_wf (by decide +kernel), by decide +kernel, rfl⟩

/-! The register space (RegisterSpaceChecks, RegisterWritesReachTheirFields). -/

/-- Reads of 3 bytes, of 8 bytes at an address aligned to 4 only, and of 4 and 8 bytes where no register stands. -/
theorem witness_register_read :
    (∀ c ∈ [(3, Reg.lmpCtl), (8, Reg.lmpCtl + 4), (4, 0x0FFF8), (8, 0x0FFF8)],
      let s1 := { started with nextTag := started.nextTag + 1 }
      let reg := at_ (regBase + c.2)
      let buf := at_ dramBase
      started.unfenced plain.source ∧ s1.Quiet ∧ s1.doneOk plain.done ∧ nodeOf reg = started.node ∧
        regionOf (localOf reg) = 63 ∧ nodeOf buf = started.node ∧ 0 < c.1 ∧ c.1 ≤ 4096 ∧
        crossesRegion (localOf reg) c.1 = false ∧ crossesRegion (localOf buf) c.1 = false) ∧
    (∀ c ∈ [(3, Reg.lmpCtl), (8, Reg.lmpCtl + 4)], ¬ ((c.1 = 4 ∨ c.1 = 8) ∧ (regBase + c.2) % c.1 = 0)) ∧
    (regBase + 0x0FFF8) % 8 = 0 ∧ findReg 0x0FFF8 = none ∧ regionOf (localOf (at_ (regBase + 2 ^ 32))) = 63 ∧
    crossesRegion (localOf (at_ (regBase + 2 ^ 32))) 8 = false := by
  refine ⟨?_, by decide +kernel, by decide +kernel, by decide +kernel⟩
  intro c h
  refine ⟨unfenced_of_idle (by decide +kernel), quiet_of_still (by decide +kernel), Or.inl rfl, ?_⟩
  revert c h
  decide +kernel

/-- Writes of 1 byte, of 8 bytes misaligned, where no register stands, and to LMP_RESV. -/
theorem witness_register_put :
    ∀ c ∈ [(1, Reg.lmpResv), (8, Reg.lmpResv + 4), (8, 0x0FFF8), (8, Reg.lmpResv)],
      let s1 := { started with nextTag := started.nextTag + 1 }
      let reg := at_ (regBase + c.2)
      let bs : List Byte := List.replicate c.1 0
      let r := readBytes s1 dramBase c.1 0 none
      started.unfenced counted.source ∧ (writeReg r.1 c.2 0).Quiet ∧ r.1.Quiet ∧
        (writeReg r.1 c.2 0).doneOk counted.done ∧ r.1.doneOk counted.done ∧
        nodeOf reg = started.node ∧ regionOf dramBase < 4 ∧ 0 < bs.length ∧ bs.length ≤ 4096 ∧
        crossesRegion (localOf reg) bs.length = false ∧ crossesRegion dramBase bs.length = false ∧
        placeCheck s1 dramBase bs.length .read none = stOK ∧ r.2 = bs.map some := by
  intro c h
  simp only [List.mem_cons, List.not_mem_nil, or_false] at h
  rcases h with rfl | rfl | rfl | rfl <;>
  exact ⟨unfenced_of_idle (by decide +kernel), quiet_of_still (by decide +kernel), quiet_of_still (by decide +kernel),
    Or.inr (by decide +kernel), Or.inr (by decide +kernel), by decide +kernel⟩

/-- A write from node 5 to an aligned register, permitted and refused. -/
theorem witness_register_remote : (5 : BitVec 10).toNat ≠ started.node ∧ (regBase + Reg.lmpResv) % 8 = 0 ∧
    findReg Reg.lmpResv ≠ none ∧ (started.fld Reg.secStat 1 0 = 0) ∧
    (let s := regs [(Reg.secStat, 1)]; ¬ (s.fld Reg.secStat 1 0 = 0 ∨ s.fld Reg.secDebug 1 0 = 3
      ∨ (s.bit Reg.secRemote 0 = true ∧ s.fld Reg.secRemote 25 16 = 5))) := by decide +kernel

/-- A register of the plain ones, in a state that is not reset's. -/
theorem witness_plain_register : started.Inv ∧ nodeOf (started.global (regBase + Reg.hstWinBase)) = started.node ∧
    regionOf (localOf (started.global (regBase + Reg.hstWinBase))) = 63 ∧ (findReg Reg.hstWinBase).isSome = true ∧
    (findReg (Reg.lmpSeqErr 15)).isSome = true :=
  ⟨inv_of_wf (by decide +kernel), by decide +kernel⟩

/-! Memory and operations. -/

/-- DRAM and SRAM, with the last bytes of the DRAM direct region. -/
theorem witness_direct_memory : started.Inv ∧ regionOf dramBase = 1 ∧ regionOf (dramBase + 0x7FFFFFFFF) = 1 ∧
    regionOf sramBase = 2 ∧ started.tier.media = [] := ⟨inv_of_wf (by decide +kernel), by decide +kernel⟩

/-- A word of T2 whose old value is 0, with every value written. -/
theorem witness_atomic :
    let s1 := { started with nextTag := started.nextTag + 1 }
    let r := readBytes s1 dramBase 8 0 none
    started.unfenced plain.source ∧
      (∀ v, (writeBytes r.1 dramBase (wordBytes v)).Quiet ∧ (writeBytes r.1 dramBase (wordBytes v)).doneOk plain.done) ∧
      nodeOf (at_ dramBase) = started.node ∧ regionOf dramBase < 3 ∧ crossesRegion dramBase 8 = false ∧
      placeCheck s1 dramBase 8 .atomic none = stOK ∧ r.2 = (wordBytes 0).map some := by
  refine ⟨unfenced_of_idle (by decide +kernel), ?_, by decide +kernel⟩
  intro v
  exact ⟨quiet_of_still rfl, Or.inl rfl⟩

/-- GET and PUT of 4,096 bytes between T2 and T1, and PUT_SIGNAL with its buoy. -/
theorem witness_get_put :
    let s1 := { started with nextTag := started.nextTag + 1 }
    let bs : List Byte := List.replicate 64 0
    let dst := at_ (dramBase + 0x1000)
    let src := at_ sramBase
    let r := readBytes s1 (localOf dst) bs.length 0 none
    let w := writeBytes r.1 (localOf src) bs
    let r2 := readBytes s1 (localOf src) bs.length 0 none
    let w2 := writeBytes r2.1 (localOf dst) bs
    let b := bump w2 (at_ (dramBase + 8)) true 0
    started.unfenced plain.source ∧ w.Quiet ∧ w.doneOk plain.done ∧ w2.Quiet ∧ w2.doneOk plain.done ∧ b.1.Quiet ∧
      b.1.doneOk plain.done ∧ nodeOf dst = started.node ∧ nodeOf src = started.node ∧ nodeOf (at_ (dramBase + 8)) = started.node ∧
      0 < bs.length ∧ bs.length ≤ 4096 ∧ crossesRegion (localOf dst) bs.length = false ∧
      crossesRegion (localOf src) bs.length = false ∧ regionOf (localOf dst) < 3 ∧ regionOf (localOf src) < 3 ∧
      placeCheck s1 (localOf dst) bs.length .read none = stOK ∧ r.2 = bs.map some ∧
      placeCheck r.1 (localOf src) bs.length .write none = stOK ∧
      placeCheck s1 (localOf dst) bs.length .write none = stOK ∧ r2.2 = bs.map some ∧
      placeCheck s1 (localOf src) bs.length .read none = stOK ∧
      placeCheck r2.1 (localOf dst) bs.length .write none = stOK ∧ b.2 = stOK :=
  ⟨unfenced_of_idle (by decide +kernel), quiet_of_still (by decide +kernel), Or.inl rfl, quiet_of_still (by decide +kernel),
    Or.inl rfl, quiet_of_still (by decide +kernel), Or.inl rfl, by decide +kernel⟩

/-- A WATCH of the buoy 0 in T2: a target reached, one not reached; and of a buoy with two failures, a threshold reached
and one not. -/
theorem witness_watch :
    let s1 := { started with nextTag := started.nextTag + 1 }
    let r := readBytes s1 dramBase 8 3 none
    started.unfenced counted.source ∧ r.1.Quiet ∧ r.1.doneOk counted.done ∧ nodeOf (at_ dramBase) = started.node ∧
      buoyCheck s1 dramBase = stOK ∧ r.2 = (wordBytes 0).map some ∧ watchCond 0 0 = some stOK ∧ watchCond 0 1 = none ∧
      watchCount r.1 < 262144 :=
  ⟨unfenced_of_idle (by decide +kernel), quiet_of_still (by decide +kernel), Or.inr (by decide +kernel), by decide +kernel⟩

theorem witness_watch_failing :
    let s := { started with mem := [⟨dramBase + 6, 2⟩] }
    let w : Word := 0x2000000000000
    let r := readBytes { s with nextTag := s.nextTag + 1 } dramBase 8 3 none
    let failed := fun (x : Word) => bitsOf x 63 48 ≠ 0 ∧ bitsOf x 63 48 ≤ bitsOf w 63 48
    let reached := fun (x : Word) => (bitsOf w 47 0 + 2 ^ 48 - bitsOf x 47 0) % 2 ^ 48 < 2 ^ 47
    s.unfenced counted.source ∧ r.1.Quiet ∧ r.1.doneOk counted.done ∧
      buoyCheck { s with nextTag := s.nextTag + 1 } dramBase = stOK ∧ r.2 = (wordBytes w).map some ∧
      failed 0x2000000000000 ∧ ¬ failed 0x3000000000000 ∧ reached 0x3000000000000 ∧ ¬ failed 0x3000000000001 ∧
      ¬ reached 0x3000000000001 ∧ watchCond w 0x2000000000000 = some stWATCH_FAILED ∧ watchCond w 0x3000000000001 = none :=
  ⟨unfenced_of_idle (by decide +kernel), quiet_of_still (by decide +kernel), Or.inr (by decide +kernel), by decide +kernel⟩

/-- A WATCH registered at edge 7. -/
def watching : PendingOp := ⟨1, opOf plain 5 0 (at_ dramBase) 0 3 1 0 0, .plain, .watch 7, []⟩

/-- A state in which 262,144 WATCHes are pending. -/
theorem witness_watch_full : ∃ s : State, s.unfenced (.keeper 0) ∧ nodeOf (at_ dramBase) = s.node ∧
    buoyCheck { s with nextTag := s.nextTag + 1 } dramBase = stOK ∧
    (readBytes { s with nextTag := s.nextTag + 1 } dramBase 8 0 none).2 = (wordBytes 0).map some ∧
    watchCond 0 1 = none ∧ 262144 ≤ watchCount (readBytes { s with nextTag := s.nextTag + 1 } dramBase 8 0 none).1 := by
  refine ⟨{ started with ops := List.replicate 262144 watching }, ?_, by decide +kernel, by decide +kernel, by decide +kernel,
    by decide +kernel, ?_⟩
  · intro q hq
    rw [List.eq_of_mem_replicate hq]
    intro h; cases h
  · have h : ∀ p : PendingOp → Bool, p watching = true →
        ((List.replicate 262144 watching).filter p).length = 262144 := by
      intro p hp
      rw [List.filter_replicate_of_pos hp, List.length_replicate]
    exact Nat.le_of_eq (h _ rfl).symm

/-- The timeout of a WATCH of 3 edges registered at edge 7: at edge 9, and at edge 10. -/
theorem witness_watch_timeout :
    let s := { started with ops := [watching] }
    (s.dropOp watching.tag).Quiet ∧ s.doneOk watching.op.done ∧ s.ops.find? (·.tag == 1) = some watching ∧
      watching.phase = .watch 7 ∧ watching.origin = .plain ∧ watching.op.len ≠ 0 ∧ 9 < 7 + watching.op.len ∧
      7 + watching.op.len ≤ 10 :=
  ⟨quiet_of_still (by decide +kernel), Or.inl rfl, by decide +kernel⟩

/-- The operation of the host that a FENCE waits for, the FENCE behind it, and a FENCE alone. -/
def inFlight : PendingOp := ⟨1, opOf plain 1 0 (at_ (dramBase)) 0 8 0 0 0, .plain, .sent 3, []⟩
def fencing : PendingOp := ⟨2, opOf plain 7 0 0 0 0 0 0 0, .plain, .fence, []⟩

theorem witness_fence_free : (∀ q ∈ started.ops, q.op.source ≠ plain.source) ∧
    ({ started with nextTag := started.nextTag + 1 } : State).Quiet ∧
    ({ started with nextTag := started.nextTag + 1 } : State).doneOk plain.done :=
  ⟨by simp [started, regs, State.reset, State.setReg], quiet_of_still (by decide +kernel), Or.inl rfl⟩

theorem witness_fence_behind : let s := { started with ops := [inFlight], nextTag := 2 }
    s.unfenced plain.source ∧ ∃ q ∈ s.ops, q.op.source = plain.source ∧ (q.tag < s.nextTag ∨ q.phase.isClosing = true) :=
  ⟨by simp [State.unfenced, inFlight, Origin.fetches], inFlight, by simp, rfl, Or.inl (by decide)⟩

/-- A waiting FENCE: with an earlier operation, alone, and with an operation that comes after it. -/
theorem witness_fence_waits : let s := { started with ops := [inFlight, fencing], nextTag := 3 }
    s.ops.find? (fun p => p.tag == 2 && p.phase == .fence) = some fencing ∧
      (∃ q ∈ s.ops, q.op.source = fencing.op.source ∧ (q.tag < fencing.tag ∨ q.phase.isClosing = true)) ∧
      (∃ q ∈ s.ops, q.op.source = plain.source ∧ q.tag < s.nextTag ∧ q.phase = .fence) :=
  ⟨by decide +kernel, ⟨inFlight, by simp, rfl, Or.inl (by decide)⟩, ⟨fencing, by simp, rfl, by decide, rfl⟩⟩

theorem witness_fence_ends : let s := { started with ops := [fencing], nextTag := 3 }
    s.ops.find? (fun p => p.tag == 2 && p.phase == .fence) = some fencing ∧
      (∀ q ∈ s.ops, q.op.source = fencing.op.source → fencing.tag ≤ q.tag ∧ q.phase.isClosing = false) ∧
      fencing.origin = .plain ∧
      (s.dropOp fencing.tag).Quiet ∧ s.doneOk fencing.op.done :=
  ⟨by decide +kernel, by simp [fencing, Phase.isClosing], rfl, quiet_of_still (by decide +kernel), Or.inl rfl⟩

/-- A COPY of 64 KiB, and one in flight. -/
theorem witness_copy : started.unfenced plain.source ∧ nodeOf (at_ sramBase) = started.node ∧ (0 : Nat) < 0x40000000 ∧
    crossesRegion dramBase 0x40000000 = false ∧ crossesRegion sramBase 0x10000 = false :=
  ⟨unfenced_of_idle (by decide +kernel), by decide +kernel⟩

def copying : PendingOp := ⟨1, opOf plain 6 0 (at_ dramBase) (at_ sramBase) 16 0 0 0, .plain, .copy, []⟩

theorem witness_copy_ends :
    let s := { started with ops := [copying] }
    let bs : List Byte := List.replicate 16 0
    let r := readBytes s sramBase 16 copying.op.cls none
    let w := writeBytes r.1 dramBase bs
    (w.dropOp 1).Quiet ∧ w.doneOk copying.op.done ∧ s.ops.find? (fun p => p.tag == 1 && p.phase == .copy) = some copying ∧
      copying.origin = .plain ∧ copying.op.signal = 0 ∧ copying.op.len = bs.length ∧ 0 < bs.length ∧
      bs.length ≤ 65536 - copying.op.dst.toNat % 65536 ∧ nodeOf copying.op.dst = s.node ∧
      nodeOf copying.op.src = s.node ∧ regionOf sramBase < 4 ∧ regionOf dramBase < 3 ∧
      placeCheck s sramBase bs.length .read none = stOK ∧ r.2 = bs.map some ∧ nodeOf copying.op.dst = r.1.node ∧
      placeCheck r.1 dramBase bs.length .write none = stOK :=
  ⟨quiet_of_still (by decide +kernel), Or.inl rfl, by decide +kernel⟩

theorem witness_copy_quiet :
    let s := { started with ops := [copying] }
    (writeBytes (readBytes s sramBase 16 copying.op.cls none).1 dramBase (List.replicate 16 0)).Quiet :=
  quiet_of_still (by decide +kernel)

end Sys2Proof.Tests
end

