-- ==== Sys2Proof/Tests/Programs.lean ====
section
/-! SUPPORT. Tensor programs, the tier manager and strands: one state and operands that meet every hypothesis of the statements about them, with the
outcome each statement names. -/

set_option Elab.async false

open Sys2Proof Sys2Proof.Machine
namespace Sys2Proof.Tests

/-! Tensor programs. -/

/-- A descriptor of one layer of OPC `opc` over one element in format 2, with this WAIT; it is the last. -/
def layer (opc : Nat) (wait : Nat := 0) : List Byte :=
  leBytes 8 (opc + 0x202 * 16 + 2 ^ 23) ++ leBytes 4 1 ++ leBytes 4 1 ++ leBytes 4 0 ++ leBytes 4 0x3F800000 ++ zeroBytes 8
    ++ leBytes 8 (dramBase + 0x100000) ++ leBytes 8 0 ++ leBytes 8 (dramBase + 0x200000) ++ zeroBytes 48 ++ leBytes 8 wait
    ++ zeroBytes 16

def progJob : Nat := dramBase + 0x8000

/-- The device with that layer's descriptor in T2. -/
def withLayer (opc : Nat) (s : State := started) : State := s.store progJob (layer opc)

/-- A launch of KIND 1 that is ahead by one. -/
theorem witness_program_launch :
    let s := mem (dramBase + 0x100) 1 (withGraph [nodeD 1 (at_ progJob)] [.launched false 0])
    let r := unitRead s (at_ progJob + 120) 8 1 none
    let k := runsOn r.1 (if r.2.1 = stOK then bitsOf (wordAt r.2.2 0) 2 0 else 0)
    (peekLaunch s 0 0 [1]).isSome = true ∧ (cluOf r.1 k).queue.length < 256 ∧ (takeLaunch r.1 0 0 [1]).isSome = true := by
  decide +kernel

/-- A program at the front of an idle cluster, with a layer that passes the checks and with one of the reserved OPC 7. -/
theorem witness_program_take : ∀ opc ∈ [3, 7],
    let s := (withLayer opc).modClu 7 (fun k => { k with queue := [runD (at_ progJob)] })
    let u := obsStart (s.modClu 7 (fun k => { k with queue := [] })) 7 (runD (at_ progJob))
    let d := readDescs (at_ progJob) 1 7 4096 0 u
    unitFenced s 7 = false ∧ (cluOf s 7).run = none ∧ (cluOf s 7).susp = [] ∧ (cluOf s 7).queue = [runD (at_ progJob)] ∧
      (checkProg d.1 (at_ progJob) d.2.1 d.2.2 = if opc = 3 then none else some (3, 0)) := by decide +kernel

/-- That program as the unit takes it, with this WAIT and these WAIT buoys read. -/
def progD (inLayer : Bool) (wait : Nat := 0) (waits : Option (List WaitRead) := none) : Prog :=
  { freshProg (runD (at_ progJob)) 0 [layer 3 wait] started.snap with inLayer, waits }

/-- A cluster with that program. -/
def progSt (p : Prog) (s : State := started) : State := (withLayer 3 s).modClu 0 (fun k => { k with run := some p })

/-- A layer without a WAIT. -/
theorem witness_layer_start :
    let p := progD false
    let s := progSt p
    let r := requestTiles s p
    let w := waitsRead r.1 0 r.2
    (cluOf s 0).run = some p ∧ runAborted s p.run = false ∧ p.inLayer = false ∧
      (cluOf s 0).queue.any (fun r => decide (r.cls < 1)) = false ∧ unitFenced s 0 = false ∧ weightsReady r.1 r.2 = true ∧
      w.2 = { r.2 with waits := some (w.2.waits.getD []) } ∧ (r.2.layerAt 0).wait = 0 := by decide +kernel

/-- A layer whose WAIT buoy, read as 0 at the start, now reads as `b`. -/
def waitMet (b : Word) : Bool :=
  let p := progD false (dramBase + 0x100) (some [.got 0 0])
  let s := progSt p (mem (dramBase + 0x100) b started)
  let r := requestTiles s p
  let w := waitsRead r.1 0 r.2
  decide ((cluOf s 0).run = some p) && !runAborted s p.run && !p.inLayer &&
    !(cluOf s 0).queue.any (fun r => decide (r.cls < 1)) && !unitFenced s 0 && weightsReady r.1 r.2 &&
    decide (w.2 = { r.2 with waits := some [.got 0 0] } ∧ r.2.layer = 0 ∧ (r.2.layerAt 0).wait ≠ 0 ∧ r.2.polled = none ∧
      nodeOf (r.2.layerAt 0).wait = w.1.node ∧ (readBuoy w.1 (r.2.layerAt 0).wait).2 = some b)

/-- A buoy that has not failed since it was read, and one that has. -/
theorem witness_layer_wait : waitMet 0 = true ∧ waitMet 0x1000000000000 = true ∧
    (0 : Nat) < bitsOf (0x1000000000000 : Word) 63 48 := by decide +kernel

/-- The end of that layer. -/
theorem witness_layer_end :
    let p := progD true
    let s := progSt p
    let l := parseLayer (layer 3)
    let r := readOperands s 0 1 p.old l
    let tiles := List.range (tensorTiles l.ofmt l.m l.n)
    let ts := tiles.map (l.outTile r.1.ftab r.2.1)
    tiles.length = 1 ∧ (cluOf s 0).run = some p ∧ runAborted s p.run = false ∧ p.inLayer = true ∧ l.occOut = false ∧
      r.2.2 = [] ∧ (∀ t ∈ tiles, l.tileFormatBad r.2.1 t = false) ∧
      (∀ t ∈ ts, placeCheck r.1 (localOf l.c + 4096 * t.index) 4096 .write none = stOK) := by decide +kernel

/-- A run of an aborted instance, queued alone, before a layer, and in one. -/
theorem witness_program_aborted :
    let run := { runD (at_ progJob) with uid := some 0 }
    let t := withGraph [nodeD 1 (at_ progJob)] [.launched true 0]
    let s := { t with seqs := t.seqs.set 0 ⟨[graphD [nodeD 1 (at_ progJob)]], [{ instD [.launched true 0] with aborted := true }], 1, 1⟩ }
    let q := s.modClu 0 (fun k => { k with queue := [run] })
    runAborted s run = true ∧ ((cluOf q 0).run = none ∧ (cluOf q 0).susp = [] ∧ (cluOf q 0).queue = [run] ∧
      runAborted q run = true) ∧
    ∀ inLayer : Bool, let p := { freshProg run 0 [layer 3] started.snap with inLayer }
      let r := s.modClu 0 (fun k => { k with run := some p })
      (cluOf r 0).run = some p ∧ runAborted r p.run = true ∧ p.inLayer = inLayer := by decide +kernel

/-! The tier manager. -/

/-- The manager on, with 512 tiles of managed T2, a quota of 2 tiles there for domain 0, and its ring in T2. -/
def tierSt : State :=
  regs [(Reg.tirCtl, 3), (Reg.tirT2Base, 32766), (Reg.tirDomQuota 0, 2), (Reg.tirReqRing, at_ (dramBase + 0x10000)),
    (Reg.tirObjTable, at_ (dramBase + 0x400000))] started

/-- A request record: OP and OBJECT in the control word, and its arguments. -/
def request (op id : Nat) (a0 a1 a2 : Nat) (seq : Nat := 0) : List Byte :=
  leBytes 8 (op + id * 2 ^ 16 + seq * 2 ^ 32) ++ leBytes 8 a0 ++ leBytes 8 a1 ++ leBytes 8 a2 ++ zeroBytes 32

/-- An object of one tile in T2. -/
def objD (state : Nat) : Obj :=
  { id := 5, base := 0, size := 4096, state, domain := 0, home := if state = 1 then 0 else 2, cluster := 0, tier := 2, promote := true
    flushed := state == 3, digest := 0, lastUse := 0, gen := 7, signed := false }

/-- That object in a tier manager, with these copies. -/
def withObj (o : Obj) (copies : List TileCopy := []) (s : State := tierSt) : State :=
  { s with tier := { s.tier with objs := [o], copies } }

/-- Each of the six requests in slot 0. -/
theorem witness_tier_taken : ∀ op ∈ [1, 2, 3, 4, 5, 6],
    let s := tierSt.store (dramBase + 0x10000) (request op 5 0 0 0)
    let r := unitRead s (tierSlot s s.tier.nextSeq) 64 3 none
    tierOn s = true ∧ tierRung s = true ∧ r.2 = (stOK, request op 5 0 0 0) ∧
      bitsOf (wordAt (request op 5 0 0 0) 0) 63 32 = s.tier.nextSeq % 2 ^ 32 ∧
      bitsOf (wordAt (request op 5 0 0 0) 0) 3 0 = op := by decide +kernel

/-- CREATE of the least and of the greatest size, the latter with a quota to match. -/
theorem witness_tier_create : ∀ c ∈ [(4096, tierSt), (2 ^ 42, regs [(Reg.tirDomQuota 0, 0x40000000)] tierSt)],
    let raw := request 1 5 c.1 0x20 0
    bitsOf (wordAt raw 0) 7 6 = 0 ∧ allZero (sliceB raw 48 16) = true ∧ bitsOf (wordAt raw 0) 31 16 = 5 ∧
      bitsOf (wordAt raw 0) 3 0 = 1 ∧ (wordAt raw 16) &&& ~~~(0x1F3F#64) = 0 ∧ wordAt raw 24 = 0 ∧
      bitsOf (wordAt raw 16) 5 4 = 2 ∧ (wordAt raw 8).toNat = c.1 ∧ 0 < c.1 ∧ c.1 % 4096 = 0 ∧ c.1 ≤ 2 ^ 42 ∧
      objOf c.2 5 = none ∧ lowestRange c.1 [] 0 = some 0 ∧ c.2.tier.objs = [] ∧
      quotaUsed c.2 0 ⟨2, 0⟩ + c.1 / 4096 ≤ quotaOf c.2 0 ⟨2, 0⟩ ∧ spaceOf 2 0 = ⟨2, 0⟩ := by decide +kernel

/-- SEAL to the object's own tier, FREE, PLACE with and without room, DROP and UNPIN. -/
theorem witness_tier_requests :
    (let raw := request 2 5 0 2 0
     let s := withObj (objD 1)
     (wordAt raw 16).toNat = (objD 1).tier ∧ objOf s 5 = some (objD 1) ∧ (objD 1).state = 1 ∧ s.tier.media = []) ∧
    (let s := withObj (objD 3)
     objOf s 5 = some (objD 3) ∧ (objD 3).state ≠ 4 ∧ s.bit Reg.secStat 6 = false) ∧
    (let raw := request 4 5 0 4096 0x105
     let a2 := wordAt raw 24
     let p := spaceOf (bitsOf a2 1 0) (bitsOf a2 10 8)
     let s := withObj (objD 3) [] (regs [(Reg.tirDomQuota 0, 0x100000002)] tierSt)
     a2 &&& ~~~(0x707#64) = 0 ∧ bitsOf a2 1 0 = 1 ∧ bitOf a2 2 = true ∧ (wordAt raw 16).toNat = 4096 ∧
       homeIn (objD 3) p = false ∧ copyIn s 5 0 p = none ∧ quotaUsed s 0 p < quotaOf s 0 p ∧
       quotaOf (withObj (objD 3)) 0 p ≤ quotaUsed (withObj (objD 3)) 0 p ∧ domCopies (withObj (objD 3)) 0 p = []) ∧
    (let c : TileCopy := ⟨5, 0, 2, 0, true, true, 0, 0, false, 3, false⟩
     let s := withObj (objD 3) [c]
     objOf s 5 = some (objD 3) ∧ s.tier.copies = [c] ∧ s.bit Reg.secStat 6 = false) := by decide +kernel

/-- An object whose seal ends, and one that is freed. -/
theorem witness_tier_ends :
    (let s := withObj (objD 2)
     let t := { s with tier := { s.tier with busy := [⟨0, 2, 5, 0, 0, 0, 0⟩] } }
     objOf t 5 = some (objD 2) ∧ (∃ r ∈ t.tier.busy, r.op = 2 ∧ r.obj = (objD 2).id) ∧
       (match (sealEnd t (objD 2)).2 with
        | .done 0 _ => true
        | _ => false) = true) ∧
    objOf (withObj (objD 4)) 5 = some (objD 4) ∧ (objD 4).state = 4 := by decide +kernel

/-- A copy that is not valid yet, and a tile to promote with room and without. -/
theorem witness_tile_copies :
    (let c : TileCopy := ⟨5, 0, 2, 0, false, false, 0, 0, false, 3, false⟩
     let s := withObj { objD 3 with home := 3 } [c]
     copyIn s 5 0 (spaceOf 2 0) = some c ∧ c.valid = false) ∧
    (let o := { objD 3 with home := 3 }
     let s := withObj o
     let t := { s with tier := { s.tier with promote := [(5, 0)] } }
     (5, 0) ∈ t.tier.promote ∧ copyIn t 5 0 ⟨2, 0⟩ = none ∧ quotaUsed t 0 ⟨2, 0⟩ < quotaOf t 0 ⟨2, 0⟩) ∧
    (let o := { objD 3 with home := 3 }
     let s := withObj o [] (regs [(Reg.tirDomQuota 0, 0), (Reg.tirT2Base, 32767), (Reg.tirDomQuota 1, 256)] tierSt)
     takeAny s 0 ⟨2, 0⟩ (fun _ => false) = none) := by decide +kernel

theorem witness_tile_read :
    (readTile (withObj { objD 3 with home := 3 }) { objD 3 with home := 3 } 0 4096 3 none).2.all (·.isSome) = true := by decide +kernel

/-- The manager off with a table in its place and without one; quotas that fit and that do not; the scrub. -/
theorem witness_tier_settings :
    tierSt.Inv ∧ (regs [(Reg.tirCtl, 0)] tierSt).Inv ∧ started.Inv ∧
    (tierOn (regs [(Reg.tirCtl, 0)] tierSt) = false ∧ tableOk (regs [(Reg.tirCtl, 0)] tierSt) = true ∧
      tierOn started = false ∧ tableOk started = false) ∧
    (let others := (List.range 16).filter (· != 0)
     let sum := fun (p : Space) => (others.map (fun e => quotaOf tierSt e p)).foldl (· + ·) 0
     let fits := fun (v : Word) => (∀ p ∈ spaces, (if p.tier = 2 then bitsOf v 31 0 else bitsOf v 47 32) + sum ⟨p.tier, 0⟩ ≤
       managedTiles tierSt ⟨p.tier, 0⟩ ∧ fixedTiles tierSt 0 p + ((domCopies tierSt 0 p).filter (·.pinned)).length ≤
         (if p.tier = 2 then bitsOf v 31 0 else bitsOf v 47 32))
     fits 512 ∧ ¬ fits 513 ∧ tierSt.tier.copies = []) ∧
    tierOn tierSt = true ∧ tierSt.bit Reg.tirCtl 1 = true ∧ tierSt.tier.objs = [] ∧ tierSt.tier.media = [] ∧ tierSt.Quiet :=
  ⟨inv_of_wf (by decide +kernel), inv_of_wf (by decide +kernel), inv_of_wf (by decide +kernel), by decide +kernel,
    by decide +kernel, by decide +kernel, by decide +kernel, by decide +kernel, by decide +kernel, quiet_of_still (by decide +kernel)⟩

/-! Strands. -/

/-- A READY strand of cluster 0 at a PC in T2, with g1 and g2 as given. -/
def strandD (g1 g2 : Word) : Strand :=
  { id := 0, sid := 0, batch := 0, state := 1, resident := true, proc := 0, ctx := 0, cls := 1, ready := 0, waited := 0
    parking := false, busy := 0, wait := .none
    gregs := [0, g1, g2] ++ List.replicate 13 0, wide := List.replicate 8 0, pc := at_ (dramBase + 0x3000), waddr := 0, wcond := 0
    owner := 0, lstat := 0, serr := 0, fault := 0, exit := 0, steps := 0 }

/-- A step word: opcode, rd, ra, rb, imm. -/
def stepW (op rd ra rb imm : Nat) : Word := BitVec.ofNat 64 (op * 2 ^ 26 + rd * 2 ^ 22 + ra * 2 ^ 18 + rb * 2 ^ 14 + imm)

/-- The device with the strand, whose next step is `w`. -/
def withStrand (t : Strand) (w : Word := 0) (s : State := started) : State :=
  mem (dramBase + 0x3000) w { s with str := { s.str with all := [t] } }

/-- What `State.Steps` asks, as a check: the opcode of the step that is read. -/
def stepsAs (s : State) (t : Strand) (op : Nat) : Bool :=
  decide (strandOf s t.id = some t) && mayIssue s t &&
    (match (fetchStep s t).2 with
     | .ok w => decide (w.op = op) && !stepIllegal w
     | .error _ => false)

theorem steps_of_check {s : State} {t : Strand} {op : Nat} (hid : t.id < 2 ^ 22) (h : stepsAs s t op = true) :
    ∃ u w, s.Steps (BitVec.ofNat 22 t.id) (issuing s t op) u w ∧ w.op = op := by
  simp only [stepsAs, Bool.and_eq_true, decide_eq_true_eq] at h
  obtain ⟨⟨h1, h2⟩, h3⟩ := h
  have hn : (BitVec.ofNat 22 t.id).toNat = t.id := by rw [BitVec.toNat_ofNat]; exact Nat.mod_eq_of_lt hid
  match hf : fetchStep s t with
  | (v, .ok w) =>
    rw [hf] at h3
    simp only [Bool.and_eq_true, decide_eq_true_eq, Bool.not_eq_true'] at h3
    exact ⟨issued v _, w, ⟨t, v, by rw [hn]; exact h1, h2, hf, h3.2, by rw [h3.1], rfl⟩, h3.1⟩
  | (u, .error e) => rw [hf] at h3; cases h3

/-- Every opcode of the step table stands in a word that is read and legal. -/
theorem witness_steps : ∀ op ∈ [0x01, 0x02, 0x03, 0x04, 0x05, 0x06, 0x07, 0x08, 0x09, 0x0A, 0x0B, 0x0C, 0x0D, 0x0E, 0x10, 0x11,
      0x12, 0x13, 0x14, 0x15, 0x18, 0x19, 0x1A, 0x1B, 0x1C, 0x1D, 0x1E, 0x1F, 0x20, 0x24, 0x25, 0x26, 0x27, 0x28, 0x29, 0x2A,
      0x2B, 0x2C, 0x2D, 0x2E, 0x2F, 0x30, 0x31, 0x32, 0x33, 0x34, 0x35, 0x36, 0x37, 0x38, 0x39, 0x3A, 0x3B, 0x3C, 0x3D],
    ∃ t u w, (withStrand (strandD 0 0) (stepW op 0 0 0 0)).Steps (BitVec.ofNat 22 0) t u w ∧ w.op = op := by
  intro op h
  refine ⟨_, steps_of_check (t := strandD 0 0) (by decide) ?_⟩
  revert op h
  decide +kernel

/-- JR to an aligned address and to a misaligned one. -/
theorem witness_step_jr : (∀ g ∈ [0, 2], let t := strandD (BitVec.ofNat 64 g) 0
      stepsAs (withStrand t (stepW 0x15 0 1 0 0)) t 0x15 = true) ∧
    (strandD 0 0).g 1 = 0 ∧ ((strandD 2 0).g 1).toNat % 4 ≠ 0 := by decide +kernel

/-- The frame of a step. -/
theorem witness_step_frame : strandOf (withStrand (strandD 0 0)) 0 = some (strandD 0 0) ∧ (strandD 0 0).gregs.length = 16 ∧
    (15 : Nat) < 16 := by decide +kernel

/-- WATCH and PARK of a buoy that holds the condition and of one that does not. -/
theorem witness_step_watch :
    (∀ c ∈ [(0x34, 0), (0x34, 1), (0x3A, 1)],
      let t := strandD (at_ dramBase) (BitVec.ofNat 64 c.2)
      let s := withStrand t (stepW c.1 3 1 2 0)
      let u := issued (fetchStep s t).1 (issuing s t c.1)
      nodeOf (t.g 1) = u.node ∧ buoyCheck u (localOf (t.g 1)) = stOK ∧ u.word dramBase = s.word dramBase ∧
      stepsAs s t c.1 = true ∧ nodeOf (t.g 1) = s.node ∧ buoyCheck s (localOf (t.g 1)) = stOK) ∧
    watchCond ((withStrand (strandD (at_ dramBase) 0)).word dramBase) 0 = some stOK ∧
    watchCond ((withStrand (strandD (at_ dramBase) 1)).word dramBase) 1 = none := by decide +kernel

/-- JOB: the DONE buoy is read at once, the LAUNCH buoy takes its increment, and the wait begins. -/
theorem witness_step_job :
    let r := strandD (at_ (dramBase + 0x100)) (at_ (dramBase + 0x108))
    let s := withStrand r (stepW 0x39 3 1 2 0)
    let t := issuing s r 0x39
    let a := t.g 1
    let b := t.g 2
    let u := issued (fetchStep s r).1 t
    let v := issue (beginWait u t.next (.job 3 0 a b none)) (.load t.id) (strandOp t 1 0 b 0 8 0 0 0) []
    let l := bump v a true t.cls
    let cond := putBits (BitVec.ofNat 64 1) 63 48 1
    stepsAs s r 0x39 = true ∧ nodeOf b = u.node ∧ buoyCheck u (localOf b) = stOK ∧
      (strandOf v t.id).map (fun x => (x.resident, x.wait)) = some (true, .job 3 0 a b (some (stOK, wordBytes 0))) ∧
      nodeOf a = v.node ∧ l.2 = stOK ∧ (strandOf l.1 t.id).isSome = true ∧ nodeOf b = l.1.node ∧
      buoyCheck l.1 (localOf b) = stOK ∧ watchCond (l.1.word (localOf b)) cond = none := by decide +kernel

/-- What a strand goes on from: loads of both outcomes, a result, a spawn, a fence, an end, a timeout, parking. -/
theorem witness_strands_go_on :
    (∀ w ∈ [SWait.load 0x24 3 0 1 true (some (stOK, [5])), .load 0x2A 3 0 64 true (some (stUNMAPPED, [])), .result stOK 7 3,
        .fence, .drain 9, .buoy 3 2 0], strandOf (withStrand { strandD 0 0 with state := 2, wait := w }) 0 =
      some { strandD 0 0 with state := 2, wait := w }) ∧
    (∀ p ∈ started.ops, p.origin.ofStrand 0 = false) ∧ 0 + 2 ≤ ({ started with lamp := ⟨3, 2, 0, []⟩ } : State).lamp.counted ∧
    (let t := { strandD 0 0 with state := 3 }
     let s := withStrand t
     let v := runTo s (t.waited + cyclesNs s 0 (64 * s.fld (Reg.cluStrCtl 0) 15 0))
     homeCluster t.id = 0 ∧ strandOf v 0 = some t ∧ storesDone v 0 = true) ∧
    (let b : Batch := { number := 0, seq := 0, inst := none, instNo := 0, node := 0, job := 0, clusters := [0], cls := 1, dom := 0, done := 0
                        report := 0, aborted := false, started := 1, endedOk := 0, endedBad := 0, faulted := [], killed := 0
                        notSpawned := 0, refused := 0, start := 0 }
     let s := regs [(Reg.cluStrPool 0, 0x100001), (Reg.tirT2Base, 32766)] (withStrand (strandD 0 0))
     let s := { s with str := { s.str with batches := [b] } }
     batchOf s 0 = some b ∧ poolOk s 0 = true ∧
       (spawnStrand s 0 b (at_ dramBase) ([0, 0] ++ List.replicate 14 0) 1).isSome = true) ∧
    (let t := { strandD 0 0 with pc := at_ (dramBase + 2) }
     mayIssue (withStrand t) t = true ∧ (match (fetchStep (withStrand t) t).2 with
      | .error _ => true
      | .ok _ => false) = true) := by decide +kernel

/-- A batch of two strands over cluster 0 that passes its checks, and one with an ENTRY that is misaligned. -/
theorem witness_batch : ∀ entry ∈ [0x3000, 0x3002],
    let raw := leBytes 8 (dramBase + entry) ++ leBytes 4 2 ++ [1, 0] ++ zeroBytes 50
    let s := regs [(Reg.cluStrPool 0, 0x100001), (Reg.tirT2Base, 32766)] started
    let s := mem (dramBase + 0x100) 1 (withGraph [nodeD 5 (at_ (dramBase + 0x5000))] [.launched false 0] s)
    let s := s.store (dramBase + 0x5000) raw
    (takeLaunch s 0 0 [5]).isSome = true ∧ (at_ (dramBase + 0x5000)).toNat % 64 = 0 ∧
      (unitRead s (at_ (dramBase + 0x5000)) 64 1 none).2 = (stOK, raw) ∧ u8At raw 13 ≠ 1 ∧
      batchCauses s raw = (if entry = 0x3000 then [] else [1]) := by decide +kernel

/-- A READY strand in the pool, with contexts free. -/
theorem witness_strand_load :
    nextPooled (withStrand { strandD 0 0 with resident := false }) 0 = some { strandD 0 0 with resident := false } ∧
    hasContext (withStrand { strandD 0 0 with resident := false }) 0 15 1 = true := by decide +kernel

/-- Where the batch record of node `i` of a graph of the relocalisation service lies. -/
def svcRec (i : Nat) : Nat := dramBase + 0x20000 + 64 * i

/-- The service's nine nodes. -/
def svcNodes : List NodeDesc :=
  serviceNodes.zipIdx.map (fun e => { nodeD e.1.1 (at_ (svcRec e.2)) with stage := e.1.2.1, preds := e.1.2.2 })

/-- That graph. -/
def svcGraph : Graph := { graphD svcNodes with cls := 0, last := 2, gated := true }

/-- The batch record of node `c.1`, with COUNT `c.2`, PER_INPUT and ARG 0x30000 of T2. -/
def svcBatch (c : Nat × Nat) : List Byte :=
  leBytes 8 (dramBase + 0x3000) ++ leBytes 4 c.2 ++ (if c.1 = 1 ∨ c.1 = 4 then [1, 0] else [1, 1]) ++ zeroBytes 2
    ++ leBytes 8 (dramBase + 0x30000) ++ leBytes 8 (dramBase + 0x40000) ++ zeroBytes 32

/-- The device whose sequencer 0 has launched node 0 of that graph. -/
def svcSt : State :=
  let s := regs [(Reg.cluStrPool 0, 0x100001), (Reg.tirT2Base, 32766)] started
  let s := { s with seqs := s.seqs.set 0 ⟨[svcGraph], [instD (.launched false 0 :: List.replicate 8 .waiting)], 1, 1⟩ }
  serviceCounts.foldl (fun s c => s.store (svcRec c.1) (svcBatch c)) (mem (dramBase + 0x100) 1 s)

/-- A batch of the service that is launched: its record passes the checks and its graph is the service's. -/
def svcTakes : Bool :=
  match takeLaunch svcSt 0 0 [5] with
  | none => false
  | some (v, run) =>
    let r := unitRead v run.job 64 run.cls none
    let raw := svcBatch (0, 1)
    let x := obsStart r.1 ((batchClusters (u8At raw 12)).headD 0) run
    let x := { x with str := { x.str with clock := x.str.clock + 1 } }
    decide (run.job.toNat % 64 = 0 ∧ r.2 = (stOK, raw) ∧ u8At raw 13 = 1 ∧ batchCauses x raw = []) && !runAborted x run
      && (serviceOf x run).isSome

theorem witness_service_batch : svcTakes = true := by decide +kernel

end Sys2Proof.Tests
end

