-- ==== Sys2Proof/Tests/Sensors.lean ====
section
/-! SUPPORT. Sensor sources, the filter chain, links and packets: one state and operands that meet every hypothesis of the statements about them, with the
outcome each statement names. -/

set_option Elab.async false

open Sys2Proof Sys2Proof.Machine
namespace Sys2Proof.Tests

/-! Sensor sources. -/

/-- A descriptor: a ring of 16 slots of 64 bytes at 1 MiB of DRAM with a buoy, and its last 32 bytes. -/
def descD (rest : List Byte) (slots slot : Nat) (release : Nat := 0) : List Byte :=
  leBytes 8 (dramBase + 0x100000) ++ leBytes 4 slots ++ leBytes 4 slot ++ leBytes 8 (dramBase + 0x200) ++ leBytes 8 release ++ rest

/-- An Ethernet source that accepts everything, an SPI and a CAN source. -/
def etherD : List Byte := descD (zeroBytes 32) 16 64
def spiD : List Byte := descD ([0, 0, 0, 0, 0, 3, 8, 16] ++ zeroBytes 24) 16 64
/-- An SPI source that reads every 1,000 ns. -/
def spiPeriodD : List Byte := descD ([0, 0, 0, 0, 0, 3, 8, 16] ++ zeroBytes 8 ++ [2, 0, 0, 0] ++ leBytes 4 1000 ++ zeroBytes 8) 16 64
def canD : List Byte := descD ([0, 0, 0, 0, 0, 0] ++ zeroBytes 26) 16 64

/-- A camera of 2,048 by 32 RAW8 pixels with 2 buffers and a record ring. -/
def camD (release : Nat := 0) : List Byte :=
  descD (zeroBytes 4 ++ leBytes 2 2048 ++ leBytes 2 32 ++ leBytes 4 2048 ++ [0, 0x2A, 0, 0] ++ leBytes 8 (dramBase + 0x300000) ++ zeroBytes 8)
    2 0x10000 release

/-- Source `n` enabled with this descriptor. -/
def srcSt (n : Nat) (d : List Byte) (s : State := started) : State :=
  (s.setReg (Reg.snsSrc n) (at_ (dramBase + 0x7001))).modSrc n (fun k => { k with desc := d })

/-- Every kind of source with a valid descriptor at its address, and with one of no slot. -/
theorem witness_source_enable : ∀ c ∈ [(0, camD, true), (31, camD, true), (32, etherD, true), (34, spiD, true), (43, canD, true),
    (33, zeroBytes 64, false)],
    let s := (regs [(Reg.snsSrc c.1, at_ (dramBase + 0x7000))] started).store (dramBase + 0x7000) c.2.1
    let v := s.reg (Reg.snsSrc c.1) ||| 1
    let r := unitRead (s.setReg (Reg.snsSrc c.1) (v &&& ~~~0x3F)) (v &&& ~~~0x3F) 64 3 none
    wf s = true ∧ srcOn s c.1 = false ∧ r.2.1 = stOK ∧ descOk r.1 c.1 r.2.2 = c.2.2 := by decide +kernel

/-- An IPv4 frame of 60 bytes. -/
def frameD : List Byte := zeroBytes 12 ++ [8, 0, 0x45] ++ zeroBytes 45

theorem witness_ports :
    (portsOn (srcSt 33 etherD) = true ∧ srcOn (srcSt 33 etherD) 33 = true ∧ frameD.length ≤ 9216 ∧
      (etherFields frameD).1 ∉ [0x8100, 0x8808] ∧ etherFilter (srcOf (srcSt 33 etherD) 33).desc frameD = some 4 ∧ (zeroBytes 9217).length > 9216) ∧
    (∀ d ∈ [spiD, spiPeriodD], let u := spiInstant (srcSt 41 d) 41
      portsOn (srcSt 41 d) = true ∧ srcOn (srcSt 41 d) 41 = true ∧ srcOn u 41 = true ∧ portsOn u = true ∧
        (srcOf u 41).spi = none) ∧ u8At spiD 48 ≠ 2 ∧
    (let s := (srcSt 41 spiD).modSrc 41 (fun k => { k with spi := some (5, false) })
     portsOn s = true ∧ srcOn s 41 = true ∧ (srcOf s 41).spi = some (5, false)) ∧
    (portsOn (srcSt 43 canD) = true ∧ srcOn (srcSt 43 canD) 43 = true ∧ canAccepts (srcOf (srcSt 43 canD) 43).desc 0 = true) := by
  decide +kernel

/-- A ring record of `len` bytes that is written, and one whose reader is 16 records behind. -/
theorem witness_ring :
    (∀ len ∈ [32, 33], let s := srcSt 43 canD
     let v := lookedRelease s 43
     let r := unitWrite v (srcBase v 43 + BitVec.ofNat 64 ((srcOf v 43).count % srcSlots v 43 * srcSlot v 43)) (zeroBytes 64)
     released s 43 = true ∧ r.2 = stOK ∧ wf s = true ∧ wf r.1 = true ∧ srcSlot v 43 - 32 = 32 ∧
       decide (len ≤ srcSlot v 43 - 32) = decide (len = 32)) ∧
    (let s := (srcSt 43 (descD (zeroBytes 32) 16 64 (dramBase + 0x208))).modSrc 43 (fun k => { k with count := 16 })
     wf s = true ∧ released s 43 = false) := by decide +kernel

theorem witness_camera :
    (srcOn (srcSt 31 camD) 31 = true ∧ portsOn (srcSt 31 camD) = true ∧ (srcOf (srcSt 31 camD) 31).frame = none) ∧
    (∀ lines ∈ [0, 31, 32], ∀ drop ∈ [true, false],
      let f : CamFrame := ⟨5, false, lines, 0, false, false, drop⟩
      let s := (srcSt 31 camD).modSrc 31 (fun k => { k with frame := some f })
      srcOn s 31 = true ∧ portsOn s = true ∧ (srcOf s 31).frame = some f ∧ u8At (srcOf s 31).desc 45 = 0x2A ∧
        camHeight s 31 = 32 ∧ nodeOf (wordAt (srcOf s 31).desc 48 + BitVec.ofNat 64 (64 * ((srcOf s 31).count % srcSlots s 31))) =
          s.node) := by decide +kernel

/-- Trigger 7 at every second edge, 80 ns after it, with the Lamp on and the instant reached, and without its enable. -/
theorem witness_trigger :
    (let s := regs [(Reg.snsTrigCtl 7, BitVec.ofNat 64 (1 + 2 * 4 + 10 * 2 ^ 50)), (Reg.lmpCtl, BitVec.ofNat 64 (1 + 1000000 * 256)),
       (Reg.lmpEdge, 122)] started
     let c := s.reg (Reg.snsTrigCtl 7)
     bitOf c 0 = true ∧ lampOn s = true ∧ (lampEdgeNo s + bitsOf c 17 2 * 65536 - bitsOf c 33 18) % bitsOf c 17 2 = 0 ∧
       (trigStart s 7).2 ≠ ({ s with lamp := { s.lamp with counted := 1 } } : State).lamp.counted ∧
       lampEdgeNo s * lampPeriod s + 8 * bitsOf c 63 50 ≤ s.tim.n) ∧
    bitOf (started.reg (Reg.snsTrigCtl 7)) 0 = false ∧ started.sns.trigs.getD 7 false = false ∧
    ({ started with sns := { started.sns with trigs := List.replicate 8 true } } : State).sns.trigs.getD 7 false = true := by
  decide +kernel

/-! The filter chain. -/

/-- Channel 63 on ADC input 48, CICR 2, a ring of 16 records, with these further CFG bits and comparator select. -/
def chanSt (cfg sel : Nat) (k : Nat := 4) : State :=
  let s := regs [(Reg.fltChCfg 63, BitVec.ofNat 64 (48 + 1 * 2 ^ 20 + cfg)), (Reg.fltChRing 63, at_ (dramBase + 0x100000 + k)),
    (Reg.fltChThr 63, BitVec.ofNat 64 (sel * 2 ^ 48))] started
  s.modChan 63 (fun c => { c with gd := 2 })

theorem witness_channel_enable :
    (∀ k ∈ [4, 16], wf (chanSt 0 0 k) = true ∧ (chanSt 0 0 k).bit (Reg.fltChCfg 63) 44 = false ∧
      (chanSt 0 0 k).bit (Reg.fltChCfg 63) 45 = false ∧ chanOk (chanSt 0 0 k) 63 = true) ∧
    (∀ k ∈ [3, 17], wf (chanSt 0 0 k) = true ∧ (chanSt 0 0 k).bit (Reg.fltChCfg 63) 44 = false ∧
      (chanSt 0 0 k).bit (Reg.fltChCfg 63) 45 = false ∧ chanOk (chanSt 0 0 k) 63 = false) := by decide +kernel

theorem witness_banks :
    (chanSt 0 0).bit (Reg.fltChStat 63) 3 = false ∧ wf (chanSt 0 0) = true ∧ (chanSt 0 0).bit (Reg.fltChCfg 63) 44 = false ∧
    (chanSt (2 ^ 44) 0).bit (Reg.fltChCfg 63) 44 = true ∧ (chanSt (2 ^ 44) 0).bit (Reg.fltChStat 63) 3 = false ∧
    (let s := (chanSt (2 ^ 44) 0).setBit (Reg.fltChStat 63) 3 true; wf s = true ∧ s.bit (Reg.fltChStat 63) 3 = true) := by
  decide +kernel

/-- Channel 63 after `i` samples, with its input taken. -/
def sampSt (i : Nat) : State := chanTakes ((chanSt (2 ^ 44) 0).modChan 63 (fun c => { c with i := i })) 63

/-- The first samples of a channel: input 1 has no fine value, input 2 has one within the group delay, input 4 one after. -/
def sampleOk (i : Nat) : Bool :=
  let s := (chanSt (2 ^ 44) 0).modChan 63 (fun c => { c with i := i })
  let u := sampSt i
  let c := chanOf u 63
  let y := (sat24 100).1
  let f := if i + 1 = 1 then y else c.f + (y - c.f) / ((2 ^ cfgFld u 63 31 28 : Nat) : Int)
  let r := finePath u 63 { c with i := i + 1, f := f, sat := (sat24 100).2 } y
  wf s && chanRuns s 63 && (feedOf s 63 .adc 0 100).any (fun x => inputValue u 63 x.input == some 100) &&
    decide (c.resume = false ∧ u.bit (Reg.fltChStat 63) 3 = false ∧ r.1.sat = false ∧ u.fld (Reg.fltChThr 63) 50 48 = 0) &&
    (r.2.isSome == decide (i % 2 = 1)) && (decide (c.gd < i + 1) == decide (2 ≤ i))

/-- A CAN record of 61 bytes that its channel has not taken yet, of the identifier the channel takes, and another one. -/
def fedSt (ident : Nat) : State :=
  ((srcSt 43 canD).setReg (Reg.fltChCfg 63) (BitVec.ofNat 64 (2 ^ 44 + 43 + 60 * 2 ^ 6))).modSrc 43 (fun k => { k with
    fed := some ⟨7, false, ident, false, zeroBytes 61⟩, feeds := k.feeds + 1 })

theorem witness_channel_samples :
    (∀ i ∈ [0, 1, 2, 3], sampleOk i = true) ∧
    (chanRuns (fedSt 0) 63 = true ∧ (feedOf (fedSt 0) 63 .record 0 0).isSome = true ∧
      (feedOf (fedSt 0) 63 .record 0 0).all (fun x => (inputValue (chanTakes (fedSt 0) 63) 63 x.input).isNone) = true) ∧
    (chanRuns (fedSt 1) 63 = true ∧ (feedOf (fedSt 1) 63 .record 0 0).isNone = true) ∧
    chanRuns (chanSt 0 0) 63 = false := by
  decide +kernel

/-! Links and packets. -/

/-- Link 7 in a state, enabled or not. -/
def linkSt (state : Nat) (en : Bool := true) (reason : Nat := 0) : State :=
  regs [(Reg.fabLinkStat 7, BitVec.ofNat 64 (state + reason * 16)), (Reg.fabLinkCtl 7, if en then 1 else 0)] started

theorem witness_links : (∀ st ∈ [0, 1, 2, 3], wf (linkSt st) = true ∧ linkState (linkSt st) 7 = st ∧ pState (linkSt st) < 2 ∧
      (linkOf (linkSt st) 7).trained = false) ∧
    (let s := linkSt 3 true 1
     s.bit (Reg.fabLinkCtl 7) 0 = true ∧ linkState s 7 = 3 ∧ s.fld (Reg.fabLinkStat 7) 7 4 = 1 ∧ s.fld Reg.gctlBoot 3 0 = 7) ∧
    (let s := (linkSt 1).modLink 7 (fun k => { k with trained := true })
     (linkOf s 7).trained = true ∧ s.fld (Reg.fabLinkStat 7) 17 8 = (0 : BitVec 10).toNat) := by decide +kernel

/-- A flit of 256 bytes that begins with `head`, with its CRC. -/
def flitD (head : List Byte) : List Byte :=
  let b := sliceB head 0 252
  b ++ leBytes 4 (crc32 b).toNat

/-- A DATA flit in order, one out of order, and two that are bad. -/
theorem witness_flits :
    (∀ seq ∈ [0, 1], let b := flitD (leBytes 2 seq ++ leBytes 2 0 ++ [1, 0x10])
      b.length = 256 ∧ (crc32 (b.take 252)).toNat = u32At b 252 ∧ u8At b 4 % 4 = 1 ∧
        (let v := pump ((takeAck (linkSt 2) 7 (u16At b 2)).modLink 7 (fun k => { k with
           credits := k.credits.modify (u8At b 5 % 8) (· + u8At b 5 / 16) })) 7
         decide (u16At b 0 = ((linkOf v 7).rxSeq + 1) % 65536) = decide (seq = 0))) ∧
    (zeroBytes 255 ++ [1]).length = 256 ∧ (crc32 ((zeroBytes 255 ++ [1]).take 252)).toNat ≠ u32At (zeroBytes 255 ++ [1]) 252 ∧
    u8At (flitD [0, 0, 0, 0, 3]) 4 % 4 = 3 := by decide +kernel

/-- A link with one unacknowledged flit, sent again `n` times so far. -/
def replaySt (n : Nat) : State := (linkSt 2).modLink 7 (fun k => { k with replay := [⟨5, 0, false, [], n, []⟩] })

theorem witness_replay : ∀ n ∈ [0, 15, 16], wf (replaySt n) = true ∧ linkState (replaySt n) 7 = 2 ∧
    (linkOf (replaySt n) 7).replay ≠ [] ∧
    (decide (∀ f ∈ (linkOf (replaySt n) 7).replay, f.resent < 16) = decide (n < 16)) ∧
    (linkOf (takeAck (replaySt n) 7 4) 7).replay = (linkOf (replaySt n) 7).replay := by decide +kernel

/-- A packet of this type from node 5, and a node whose link 7 is up with a route to node 9. -/
def packetD (ty dst hops : Nat) : Packet :=
  { ptype := BitVec.ofNat 8 ty, ctl := 0, src := 5, dst := BitVec.ofNat 10 dst, addr := at_ dramBase, aux := 0, tag := 3, status := 0
    hops := BitVec.ofNat 8 hops, data := [1] }

def routeSt (valid : Bool) : State := (linkSt 2).setReg (Reg.fabRoute 9) (if valid then 0x107 else 0x007)

theorem witness_packets :
    (∀ ty ∈ [1, 2, 3, 4, 5, 6, 0x10, 0x11, 0x12, 0x20, 0, 7, 15], linkState (linkSt 2) 7 = 2 ∧
      (packetD ty 0 0).dst.toNat = (linkSt 2).node ∧ (packetD ty 0 0).ptype.toNat = ty ∧ (packetD ty 0 0).data ≠ [] ∧
      (packetD ty 9 30).dst.toNat ≠ (linkSt 2).node ∧ (packetD ty 9 30).hops.toNat < 31) ∧
    (let q := packetD 1 9 1
     (sendPacket (routeSt true) 9 q false false).2 = .sent ∧ (sendPacket (routeSt false) 9 q false false).2 = .failed stNO_ROUTE) := by
  decide +kernel

/-- A PUT of 64 bytes to node 5, sent or held, and the states in which packets are held. -/
def sentPut (done : Word := 0) (phase : Phase := .sent 5) : PendingOp :=
  ⟨3, opOf { plain with done } 2 0 (BitVec.ofNat 64 (5 * 2 ^ 54 + dramBase)) (at_ dramBase) 64 0 0 0, .plain, phase, []⟩

def heldSt (wait : Bool) : State :=
  { started with fab := { started.fab with held := [⟨9, false, true, packetD 1 9 0⟩], altWait := if wait then [9] else [] } }

theorem witness_held :
    (heldSt false).fab.held.find? (·.dst == 9) = some ⟨9, false, true, packetD 1 9 0⟩ ∧ 9 ∉ (heldSt false).fab.altWait ∧
    9 ∈ (heldSt true).fab.altWait ∧ sentOp started 3 = none ∧ started.ops = [] := by decide +kernel

theorem witness_sent_op : ∀ d ∈ [0, dramBase + 0x7FFFFFFF8], ∀ f ∈ [Phase.sent 5, .held 5 1],
    let p := sentPut (BitVec.ofNat 64 d) f
    let s := { started with ops := [p] }
    let drop := { s with ops := s.ops.filter (fun q => q.tag != p.tag) }
    sentOp s 3 = some p ∧ p.op.code = 2 ∧ p.origin = .plain ∧ drop.Quiet ∧ drop.doneOk p.op.done ∧ p.phase = f := by
  intro d hd f hf
  simp only [List.mem_cons, List.not_mem_nil, or_false] at hd hf
  rcases hd with rfl | rfl <;> rcases hf with rfl | rfl
  · exact ⟨by decide +kernel, rfl, rfl, quiet_of_still (by decide +kernel), Or.inl (by decide +kernel), rfl⟩
  · exact ⟨by decide +kernel, rfl, rfl, quiet_of_still (by decide +kernel), Or.inl (by decide +kernel), rfl⟩
  · exact ⟨by decide +kernel, rfl, rfl, quiet_of_still (by decide +kernel), Or.inr (by decide +kernel), rfl⟩
  · exact ⟨by decide +kernel, rfl, rfl, quiet_of_still (by decide +kernel), Or.inr (by decide +kernel), rfl⟩

/-- A WATCH at node 5, not confirmed, and confirmed 32 edges ago. -/
theorem witness_remote_watch : ∀ c ∈ [none, some 7],
    let p : PendingOp := ⟨3, opOf plain 5 0 (BitVec.ofNat 64 (5 * 2 ^ 54 + dramBase)) 0 0 0 0 0, .plain, .remoteWatch 5 c 7, []⟩
    let s := { started with ops := [p], lamp := { started.lamp with counted := 39 } }
    sentOp s 3 = some p ∧ p.phase = .remoteWatch 5 c 7 ∧ 7 + 32 ≤ s.lamp.counted := by decide +kernel

end Sys2Proof.Tests
end

