-- ==== Sys2Proof/WellFormed.lean ====
section
/-! DEFINITION. The operands that a command can carry: lengths and codes that its bus, pin or protocol allows. A command's
meaning is total; this says which terms stand for something that can reach the block. -/

namespace Sys2Proof

/-- A fabric packet (R385): at most 4,096 data bytes. -/
def Packet.WellFormed (p : Packet) : Bool := decide (p.data.length ≤ 4096)

/-- A host write carries at most the maximum payload, 512 bytes, and a read at most 4,096 (R422). -/
def hostLen (limit n : Nat) : Bool := decide (1 ≤ n) && decide (n ≤ limit)

/-- A command whose operands can occur. -/
def Instr.WellFormed : Instr → Bool
  | .registerWrite _ len _ => decide (len ≤ 8)
  | .remoteRegisterWrite _ _ len _ => decide (len ≤ 8)
  | .nodeDone _ _ node => decide (node < 256)
  | .nodeFinish _ _ node => decide (node < 256)
  | .programLaunch _ node => decide (node < 256)
  | .batchLaunch _ node => decide (node < 256)
  | .queryBatchLaunch _ node => decide (node < 256)
  | .fusionLaunch _ node => decide (node < 256)
  | .lampPeriodSet ns => decide (ns < 2 ^ 27)
  | .exchangeReceive _ p => p.WellFormed
  | .packetArrive _ _ p => p.WellFormed
  | .response _ _ _ data => decide (data.length ≤ 4096)
  | .flitReceive _ bytes => decide (bytes.length = 256)
  | .ethernetFrame _ bytes _ _ => decide (1 ≤ bytes.length)
  | .canFrame _ _ bytes => decide (bytes.length ≤ 64)
  | .hostRead _ _ len => hostLen 4096 len
  | .hostWrite _ _ data => hostLen 512 data.length
  | .secaccess rec => decide (rec.length = 320)
  | .shardPart req => decide (req.sketch.length = 16) && decide (req.desc.length = 64)
  | .tempUpdate readings => decide (readings.length = 16)
  | .memacc (.read _ len) => decide (1 ≤ len)
  | .memacc (.write _ data) => decide (1 ≤ data.length)
  | .testComplete unit _ _ => decide (unit < 190)
  | .idleTest unit => decide (unit < 190)
  | _ => true

end Sys2Proof
end

