-- ==== Sys2Proof/Tests/Slice0.lean ====
section
/-! SUPPORT. One ill-formed command for each check of `Instr.WellFormed`, and the worked examples of the spec, whose
results stand in the spec and not in the model. -/

set_option Elab.async false

open Sys2Proof Sys2Proof.Machine
namespace Sys2Proof.Tests

/-! ### Commands that cannot reach the block -/

/-- A packet with `n` data bytes. -/
def packetOf (n : Nat) : Packet := ⟨1, 0, 0, 0, 0, 0, 0, 0, 0, List.replicate n 0⟩

theorem test_wf_register_write : Instr.WellFormed (.registerWrite 0 9 0) = false := by decide
theorem test_wf_remote_register_write : Instr.WellFormed (.remoteRegisterWrite 0 0 9 0) = false := by decide
theorem test_wf_nodes :
    Instr.WellFormed (.nodeDone 0 0 256) = false ∧ Instr.WellFormed (.nodeFinish 0 0 256) = false ∧
    Instr.WellFormed (.programLaunch 0 256) = false ∧ Instr.WellFormed (.batchLaunch 0 256) = false ∧
    Instr.WellFormed (.queryBatchLaunch 0 256) = false ∧ Instr.WellFormed (.fusionLaunch 0 256) = false := by decide
theorem test_wf_period : Instr.WellFormed (.lampPeriodSet (2 ^ 27)) = false := by decide
theorem test_wf_packet : (packetOf 4097).WellFormed = false := by
  simp only [Packet.WellFormed, packetOf, List.length_replicate]; decide
theorem test_wf_packet_commands : ∀ p : Packet, Instr.WellFormed (.packetArrive 0 false p) = p.WellFormed ∧
    Instr.WellFormed (.exchangeReceive 0 p) = p.WellFormed := fun _ => ⟨rfl, rfl⟩
theorem test_wf_response : Instr.WellFormed (.response 0 0 0 (List.replicate 4097 0)) = false := by
  simp only [Instr.WellFormed, List.length_replicate]; decide
theorem test_wf_flit : Instr.WellFormed (.flitReceive 0 (List.replicate 255 0)) = false := by
  simp only [Instr.WellFormed, List.length_replicate]; decide
theorem test_wf_ethernet : Instr.WellFormed (.ethernetFrame 0 [] true none) = false := by decide
theorem test_wf_can :
    Instr.WellFormed (.canFrame 0 ⟨0, false, true, false, false, false, 15, false⟩ (List.replicate 65 0)) = false := by decide
theorem test_wf_host_read : Instr.WellFormed (.hostRead .bar0 0 0) = false ∧ Instr.WellFormed (.hostRead .bar2 0 4097) = false := by
  decide
theorem test_wf_host_write : Instr.WellFormed (.hostWrite .bar0 0 []) = false ∧
    Instr.WellFormed (.hostWrite .bar2 0 (List.replicate 513 0)) = false := by
  simp only [Instr.WellFormed, List.length_replicate]; decide
theorem test_wf_secaccess : Instr.WellFormed (.secaccess (List.replicate 319 0)) = false := by
  simp only [Instr.WellFormed, List.length_replicate]; decide
theorem test_wf_shard : Instr.WellFormed (.shardPart ⟨0, 0, 0, 0, false, 0, List.replicate 15 0, List.replicate 64 0, 0, 0, 0, 0, 0, []⟩) = false ∧
    Instr.WellFormed (.shardPart ⟨0, 0, 0, 0, false, 0, List.replicate 16 0, List.replicate 63 0, 0, 0, 0, 0, 0, []⟩) = false := by
  decide
theorem test_wf_temperatures : Instr.WellFormed (.tempUpdate (List.replicate 15 0)) = false := by decide
theorem test_wf_memacc : Instr.WellFormed (.memacc (.read 0 0)) = false ∧ Instr.WellFormed (.memacc (.write 0 [])) = false := by
  decide
theorem test_wf_units : Instr.WellFormed (.testComplete 190 0 true) = false ∧ Instr.WellFormed (.idleTest 190) = false := by
  decide

/-- A command at the limit of its check is well-formed. -/
theorem test_wf_limits : Instr.WellFormed (.registerWrite 0 8 0) = true ∧ Instr.WellFormed (.nodeDone 0 0 255) = true ∧
    Instr.WellFormed (.hostRead .bar0 0 4096) = true ∧ Instr.WellFormed (.idleTest 189) = true := by decide

/-- The table gives no row any bits. -/
theorem test_no_word : decodeTableWord 32 0x12345678 = none := by decide

/-! ### The worked examples of the spec -/

/-- 02_addresses_and_memory_operations.md: tile 5 of cluster 3 begins at local address 0x02_0000_0568_0000. -/
theorem test_tile_address : tileSram 3 5 = 0x0200000568 * 0x10000 := by decide

/-- 02, "posting a record to another node": the addresses of nodes 2 and 5. -/
theorem test_global_addresses :
    BitVec.ofNat 64 (2 * 2 ^ 54 + (dramBase + 0x1000)) = (0x0081000000001000 : Word) ∧
    nodeOf 0x0141000000020000 = 5 ∧ localOf 0x0141000000020000 = dramBase + 0x20000 := by decide

/-- 02, the same: the record's CTRL is a 64-byte PUT_SIGNAL of class C0. -/
theorem test_operation_record : bitsOf (0x400003 : Word) 3 0 = 3 ∧ bitsOf (0x400003 : Word) 9 8 = 0 ∧ bitsOf (0x400003 : Word) 46 16 = 64 := by
  decide

/-- 03, "finding an instance edge": of the edges 1,234,568 to 1,234,572 of a graph of period 33 and phase 9, the last
alone is an instance edge. -/
theorem test_instance_edge :
    instanceEdges { graphD [] with period := 33, phase := 9 } 1234568 4 = 0 ∧
    instanceEdges { graphD [] with period := 33, phase := 9 } 1234572 1 = 1 := by decide

/-- The descriptor fields of a layer, all zero. -/
def blank : Layer := parseLayer (zeroBytes 128)

/-- The values of 04, "one BSQ4 block", as binary32 codes. -/
def bsqValues : List Nat := [0x40400000, 0xBFA00000, 0x3F000000, 0, 0, 0, 0, 0, 0x3E99999A, 0xBE4CCCCD, 0x3DCCCCCD]

/-- 04, "one BSQ4 block": the exponent 0x7E, the micro-shifts 0, 3, 0, 0 and the elements. -/
theorem test_bsq_block :
    (bsqEncode blank ((bsqValues ++ List.replicate 21 0).map (fun v => some (fmtF32.decode v, 0)))).1 =
    ⟨[6, 0xE, 1, 0, 0, 0, 0, 0, 5, 0xD, 2] ++ List.replicate 21 0, 0x7E, [0, 3, 0, 0]⟩ := by decide

/-- 04, "why the step is the unit of rounding": one step of four E4M3 products. -/
theorem test_step_rounding :
    fpStep 0x4B800000 ((List.zip [0x3C, 0xC0, 0x28, 0x44] [0x40, 0x30, 0xC8, 0x20]).map
      (fun p => (fmtE4M3.decode p.1).mul (fmtE4M3.decode p.2))) = 0x4B800001 := by decide

/-- 04, "converting to E4M3": the rows to nearest, toward zero and stochastic, with what they count. -/
theorem test_to_e4m3 :
    floatOut fmtE4M3 .rne false (fmtF32.decode 0x3FA80000) = (0x3A, ⟨0, 0, 0⟩) ∧
    floatOut fmtE4M3 .rtz false (fmtF32.decode 0x3FA80000) = (0x3A, ⟨0, 0, 0⟩) ∧
    floatOut fmtE4M3 (.sr 0x90000000) false (fmtF32.decode 0x3FA80000) = (0x3B, ⟨0, 0, 0⟩) ∧
    floatOut fmtE4M3 .rne false (fmtF32.decode 0x43E80000) = (0x7E, ⟨0, 0, 0⟩) := by decide

/-- 04, the same: the rows that overflow or saturate. -/
theorem test_to_e4m3_overflow :
    floatOut fmtE4M3 .rne false (fmtF32.decode 0x43E80001) = (0x7F, ⟨1, 1, 0⟩) ∧
    floatOut fmtE4M3 .rne true (fmtF32.decode 0x43E80001) = (0x7E, ⟨1, 0, 0⟩) ∧
    floatOut fmtE4M3 .rtz false (fmtF32.decode 0x43E80001) = (0x7E, ⟨0, 0, 0⟩) := by decide

/-- 04, "composing two transforms": element [1][3]. -/
theorem test_compose :
    ar32.dot 0 [0x3F800000, 0, 0, 0x40000000] [0x3DCCCCCD, 0, 0, 0x3F800000] = 0x40066666 := by decide +kernel

/-- 06, "one requantised layer": where element (70, 130) of A and output (70, 5) stand. -/
theorem test_layer_offsets : elemOff 1 200 70 130 = 0x610A ∧ elemOff 1 128 70 5 = 0x2119 ∧ tensorTiles 1 96 200 = 8 ∧
    tensorTiles 1 96 128 = 4 ∧ mapBytes 96 128 = 96 := by decide

/-- 06, the same: 12,345 becomes the output byte 0x41. -/
theorem test_requantise :
    ({ blank with ofmt := 1, mult := 1518500250, shift := 38, zp := -3 } : Layer).convert 70 5 (.int 12345) =
      (⟨70, 5, 0x41, 0, 0⟩, ⟨0, 0, 0⟩) := by decide

/-- 08, "one bit and sixteen probes": the keys of b = 12 and K0 = 0x5A3. -/
theorem test_probes : probesOf 12 0x5A3 16 =
    [0x5A3, 0x5A2, 0x5A1, 0x5A7, 0x5AB, 0x5B3, 0x583, 0x5E3, 0x523, 0x4A3, 0x7A3, 0x1A3, 0xDA3, 0x5A0, 0x5A6, 0x5AA] := by
  decide

/-- 10, "one disparity word": the confidence and the sub-pixel part. -/
theorem test_disparity : 255 * (1650 - 1100) / 1650 = 85 ∧ subMove (some 1320) (some 1100) (some 1180) = 7 ∧
    confidence [⟨60, 0, 1650⟩, ⟨88, 0, 1320⟩, ⟨89, 0, 1100⟩, ⟨90, 0, 1180⟩] ⟨89, 0, 1100⟩ = 85 := by decide

/-- A filter channel with FASTK 3 that has seen a steady code of 62,915 (14, "a 48 V bus"). -/
def busChan : State :=
  (regs [(Reg.fltChCfg 60, 3 * 2 ^ 28), (Reg.fltChThr 60, 52429)] started).modChan 60 (fun c => { c with i := 5, f := 62915 })

/-- 14, "a 48 V bus": the fast values at 38 V, code 49,807; the 13th sample is the first below 52,429. -/
theorem test_fast_path :
    ((List.range 13).foldl (fun (l : State × List Int) _ =>
      let t := chanSample l.1 60 49807 0 false
      (t, l.2 ++ [(chanOf t 60).f])) (busChan, [])).2 =
    [61276, 59842, 58587, 57489, 56528, 55687, 54952, 54308, 53745, 53252, 52821, 52444, 52114] := by decide

/-- 15, "node 5 to node 1,000": the hops of the plan of a 4 × 4 × 8 torus. -/
theorem test_plan_path :
    [5, 900, 899, 994, 992, 1001].map (fun n => planRoute [4, 4, 8] n 1000 % 16) = [7, 3, 7, 0, 7, 0] := by decide

/-- 15, the same: the twin of hop 1 is FL6, to node 7. -/
theorem test_plan_twin : planRoute [4, 4, 8] 5 1000 / 16 % 8 = 6 ∧ octetLink 5 7 = 6 := by decide

/-- 21, "one window": 168 tokens split 4 : 2 : 1 over demands of 200, 80 and 40. -/
theorem test_window_split : wrr 169 168 (200, 80, 40) (0, 0, 0) = (96, 48, 24) ∧ wrr 141 140 (200, 80, 40) (0, 0, 0) = (80, 40, 20) := by
  decide

/-- 12, "one exchange": an offset of +12 ns is 24 half-nanoseconds of TIM_OFFSET. -/
theorem test_exchange_offset :
    ((servo (regs [(Reg.timCtl, 1), (Reg.timServo, 0xFFFF)] started) 24 1000000000).reg Reg.timOffset).toNat % 2 ^ 32 = 24 := by decide

/-- 20, "an interrupt per batch end": the condition holds when the buoy becomes 18. -/
theorem test_buoy_condition : watchCond 0x11 0x0001000000000012 = none ∧ watchCond 0x12 0x0001000000000012 = some 0 := by
  decide

end Sys2Proof.Tests
end

section
/-! PROOFS. The invariant: the state after reset meets it, and every step keeps it. -/

namespace Sys2Proof.Machine

/-- What a command leaves keeps what `State.Keeps` says, whatever the command is. -/
theorem exec_keeps {s₀ s : State} (i : Instr) (h : State.Keeps s₀ s) : OutKeeps s₀ (exec i s) :=
  match i with
  | .registerWrite .. => execRegisterWrite_keeps h
  | .get .. => execGet_keeps h
  | .put .. => execPut_keeps h
  | .putSignal .. => execPutSignal_keeps h
  | .atomicAdd .. => execAtomicAdd_keeps h
  | .atomicSwap .. => execAtomicSwap_keeps h
  | .atomicCas .. => execAtomicCas_keeps h
  | .atomicMax .. => execAtomicMax_keeps h
  | .atomicMin .. => execAtomicMin_keeps h
  | .atomicOr .. => execAtomicOr_keeps h
  | .atomicAnd .. => execAtomicAnd_keeps h
  | .watch .. => execWatch_keeps h
  | .watchTimeout .. => execWatchTimeout_keeps h
  | .copy .. => execCopy_keeps h
  | .copyComplete .. => execCopyComplete_keeps h
  | .fence .. => execFence_keeps h
  | .fenceComplete .. => execFenceComplete_keeps h
  | .lampRun .. => execLampRun_keeps h
  | .lampPeriodSet .. => execLampPeriodSet_keeps h
  | .lampEdge => execLampEdge_keeps h
  | .lmpResvWrite .. => execLmpResvWrite_keeps h
  | .graphEnable .. => execGraphEnable_keeps h
  | .graphDisable .. => execGraphDisable_keeps h
  | .nodeDone .. => execNodeDone_keeps h
  | .nodeFinish .. => execNodeFinish_keeps h
  | .programLaunch .. => execProgramLaunch_keeps h
  | .programTake .. => execProgramTake_keeps h
  | .layerStart .. => execLayerStart_keeps h
  | .layerEnd .. => execLayerEnd_keeps h
  | .programCancel .. => execProgramCancel_keeps h
  | .tierEnable => execTierEnable_keeps h
  | .create => execCreate_keeps h
  | .seal => execSeal_keeps h
  | .sealFlushComplete .. => execSealFlushComplete_keeps h
  | .free => execFree_keeps h
  | .freeComplete .. => execFreeComplete_keeps h
  | .place => execPlace_keeps h
  | .drop => execDrop_keeps h
  | .unpin => execUnpin_keeps h
  | .tileCopyValid .. => execTileCopyValid_keeps h
  | .promoteCopy .. => execPromoteCopy_keeps h
  | .quotaWrite .. => execQuotaWrite_keeps h
  | .patrolScrub => execPatrolScrub_keeps h
  | .batchLaunch .. => execBatchLaunch_keeps h
  | .strandLoad .. => execStrandLoad_keeps h
  | .strandOpComplete .. => execStrandOpComplete_keeps h
  | .parkTimeout .. => execParkTimeout_keeps h
  | .strandWaitTimeout .. => execStrandWaitTimeout_keeps h
  | .stepAdd .. => execStepAdd_keeps h
  | .stepSub .. => execStepSub_keeps h
  | .stepAddi .. => execStepAddi_keeps h
  | .stepMul .. => execStepMul_keeps h
  | .stepAnd .. => execStepAnd_keeps h
  | .stepOr .. => execStepOr_keeps h
  | .stepXor .. => execStepXor_keeps h
  | .stepShli .. => execStepShli_keeps h
  | .stepShri .. => execStepShri_keeps h
  | .stepSari .. => execStepSari_keeps h
  | .stepSlt .. => execStepSlt_keeps h
  | .stepSltu .. => execStepSltu_keeps h
  | .stepPopc .. => execStepPopc_keeps h
  | .stepLdk .. => execStepLdk_keeps h
  | .stepBeq .. => execStepBeq_keeps h
  | .stepBne .. => execStepBne_keeps h
  | .stepBlt .. => execStepBlt_keeps h
  | .stepBge .. => execStepBge_keeps h
  | .stepJal .. => execStepJal_keeps h
  | .stepJr .. => execStepJr_keeps h
  | .stepFadd .. => execStepFadd_keeps h
  | .stepFsub .. => execStepFsub_keeps h
  | .stepFmul .. => execStepFmul_keeps h
  | .stepFfma .. => execStepFfma_keeps h
  | .stepFdiv .. => execStepFdiv_keeps h
  | .stepFsqrt .. => execStepFsqrt_keeps h
  | .stepFlt .. => execStepFlt_keeps h
  | .stepFcvtif .. => execStepFcvtif_keeps h
  | .stepFcvtfi .. => execStepFcvtfi_keeps h
  | .stepLd8 .. => execStepLd8_keeps h
  | .stepLd32 .. => execStepLd32_keeps h
  | .stepLd64 .. => execStepLd64_keeps h
  | .stepSt8 .. => execStepSt8_keeps h
  | .stepSt32 .. => execStepSt32_keeps h
  | .stepSt64 .. => execStepSt64_keeps h
  | .stepLdw .. => execStepLdw_keeps h
  | .stepStw .. => execStepStw_keeps h
  | .stepHamm .. => execStepHamm_keeps h
  | .stepWins .. => execStepWins_keeps h
  | .stepWext .. => execStepWext_keeps h
  | .stepHash .. => execStepHash_keeps h
  | .stepGet .. => execStepGet_keeps h
  | .stepPut .. => execStepPut_keeps h
  | .stepPuts .. => execStepPuts_keeps h
  | .stepAtom .. => execStepAtom_keeps h
  | .stepWatch .. => execStepWatch_keeps h
  | .stepCopy .. => execStepCopy_keeps h
  | .stepFence .. => execStepFence_keeps h
  | .stepOprec .. => execStepOprec_keeps h
  | .stepSpawn .. => execStepSpawn_keeps h
  | .stepJob .. => execStepJob_keeps h
  | .stepPark .. => execStepPark_keeps h
  | .stepEnd .. => execStepEnd_keeps h
  | .stepStat .. => execStepStat_keeps h
  | .stepTime .. => execStepTime_keeps h
  | .brambleEnable => execBrambleEnable_keeps h
  | .openIndex .. => execOpenIndex_keeps h
  | .closeIndex .. => execCloseIndex_keeps h
  | .destroyIndex .. => execDestroyIndex_keeps h
  | .updateTake .. => execUpdateTake_keeps h
  | .queryBatchLaunch .. => execQueryBatchLaunch_keeps h
  | .search .. => execSearch_keeps h
  | .fetch .. => execFetch_keeps h
  | .queryComplete .. => execQueryComplete_keeps h
  | .shardPart .. => execShardPart_keeps h
  | .shardReply .. => execShardReply_keeps h
  | .mergeStart .. => execMergeStart_keeps h
  | .mergePublish .. => execMergePublish_keeps h
  | .channelFailed .. => execChannelFailed_keeps h
  | .dieFailed .. => execDieFailed_keeps h
  | .programResume .. => execProgramResume_keeps h
  | .visionLaunch .. => execVisionLaunch_keeps h
  | .visionRunTake .. => execVisionRunTake_keeps h
  | .sliceBoundary .. => execSliceBoundary_keeps h
  | .detect .. => execDetect_keeps h
  | .matchFeatures .. => execMatchFeatures_keeps h
  | .stereo .. => execStereo_keeps h
  | .flow .. => execFlow_keeps h
  | .slotEnable .. => execSlotEnable_keeps h
  | .slotDisable .. => execSlotDisable_keeps h
  | .sourceEnable .. => execSourceEnable_keeps h
  | .frameStart .. => execFrameStart_keeps h
  | .lineReceived .. => execLineReceived_keeps h
  | .frameEnd .. => execFrameEnd_keeps h
  | .ethernetFrame .. => execEthernetFrame_keeps h
  | .spiDataReady .. => execSpiDataReady_keeps h
  | .spiTransferDone .. => execSpiTransferDone_keeps h
  | .canFrame .. => execCanFrame_keeps h
  | .triggerStart .. => execTriggerStart_keeps h
  | .triggerEnd .. => execTriggerEnd_keeps h
  | .fusionLaunch .. => execFusionLaunch_keeps h
  | .fusionTake => execFusionTake_keeps h
  | .fusionEnd => execFusionEnd_keeps h
  | .incWrite .. => execIncWrite_keeps h
  | .timeStep .. => execTimeStep_keeps h
  | .stepApply => execStepApply_keeps h
  | .nowRead => execNowRead_keeps h
  | .roleWrite .. => execRoleWrite_keeps h
  | .exchangeReceive .. => execExchangeReceive_keeps h
  | .exchangeResult .. => execExchangeResult_keeps h
  | .exchangeLoss => execExchangeLoss_keeps h
  | .ppsEdge => execPpsEdge_keeps h
  | .ppsOutStart => execPpsOutStart_keeps h
  | .ppsOutEnd => execPpsOutEnd_keeps h
  | .ptpTxStamp .. => execPtpTxStamp_keeps h
  | .solverEnable => execSolverEnable_keeps h
  | .solverLaunch .. => execSolverLaunch_keeps h
  | .solverRunTake .. => execSolverRunTake_keeps h
  | .load .. => execLoad_keeps h
  | .dropStructure .. => execDropStructure_keeps h
  | .solve .. => execSolve_keeps h
  | .bodyFk .. => execBodyFk_keeps h
  | .bodyId .. => execBodyId_keeps h
  | .bodyFd .. => execBodyFd_keeps h
  | .bodyIk .. => execBodyIk_keeps h
  | .channelEnable .. => execChannelEnable_keeps h
  | .filterSample .. => execFilterSample_keeps h
  | .filterDrop .. => execFilterDrop_keeps h
  | .coefWrite .. => execCoefWrite_keeps h
  | .coefSetn .. => execCoefSetn_keeps h
  | .swap .. => execSwap_keeps h
  | .linkEnable .. => execLinkEnable_keeps h
  | .linkDisable .. => execLinkDisable_keeps h
  | .trainingComplete .. => execTrainingComplete_keeps h
  | .trainingTimeout .. => execTrainingTimeout_keeps h
  | .flitReceive .. => execFlitReceive_keeps h
  | .nak .. => execNak_keeps h
  | .replayTimeout .. => execReplayTimeout_keeps h
  | .linkSilence .. => execLinkSilence_keeps h
  | .packetArrive .. => execPacketArrive_keeps h
  | .holdTimeout .. => execHoldTimeout_keeps h
  | .altWaitEnd .. => execAltWaitEnd_keeps h
  | .failureNotice .. => execFailureNotice_keeps h
  | .response .. => execResponse_keeps h
  | .responseTimeout .. => execResponseTimeout_keeps h
  | .watchConfirm .. => execWatchConfirm_keeps h
  | .watchConfirmLoss .. => execWatchConfirmLoss_keeps h
  | .watchCancel .. => execWatchCancel_keeps h
  | .linkRetrain .. => execLinkRetrain_keeps h
  | .porN .. => execPorN_keeps h
  | .warmRstN => execWarmRstN_keeps h
  | .perstN .. => execPerstN_keeps h
  | .flr => execFlr_keeps h
  | .pllLock .. => execPllLock_keeps h
  | .bootImageCheck => execBootImageCheck_keeps h
  | .firmwareLoaded => execFirmwareLoaded_keeps h
  | .dramTrained => execDramTrained_keeps h
  | .dramTrainTimeout => execDramTrainTimeout_keeps h
  | .configApply => execConfigApply_keeps h
  | .recoverGo => execRecoverGo_keeps h
  | .pcieCrsEnd => execPcieCrsEnd_keeps h
  | .hostRead .. => execHostRead_keeps h
  | .hostWrite .. => execHostWrite_keeps h
  | .hostAtomicop .. => execHostAtomicop_keeps h
  | .hstSignal .. => execHstSignal_keeps h
  | .d3hotEntry => execD3hotEntry_keeps h
  | .serviceRecord => execServiceRecord_keeps h
  | .checkComplete .. => execCheckComplete_keeps h
  | .checkLapse .. => execCheckLapse_keeps h
  | .arbitrationComplete .. => execArbitrationComplete_keeps h
  | .idleTest .. => execIdleTest_keeps h
  | .testComplete .. => execTestComplete_keeps h
  | .tcLoad .. => execTcLoad_keeps h
  | .unitReset .. => execUnitReset_keeps h
  | .unitFence .. => execUnitFence_keeps h
  | .unitUnfence .. => execUnitUnfence_keeps h
  | .fenceEffect .. => execFenceEffect_keeps h
  | .debugToken .. => execDebugToken_keeps h
  | .addOwner .. => execAddOwner_keeps h
  | .revokeOwner .. => execRevokeOwner_keeps h
  | .takeOwnership .. => execTakeOwnership_keeps h
  | .retire .. => execRetire_keeps h
  | .advanceSvn .. => execAdvanceSvn_keeps h
  | .debugWrite .. => execDebugWrite_keeps h
  | .debugSessionEnd => execDebugSessionEnd_keeps h
  | .idcode => execIdcode_keeps h
  | .bypass => execBypass_keeps h
  | .secaccess .. => execSecaccess_keeps h
  | .obsread .. => execObsread_keeps h
  | .extest => execExtest_keeps h
  | .samplePreload => execSamplePreload_keeps h
  | .memacc .. => execMemacc_keeps h
  | .khalt .. => execKhalt_keeps h
  | .secAttest .. => execSecAttest_keeps h
  | .remoteRegisterWrite .. => execRemoteRegisterWrite_keeps h
  | .powerTarget .. => execPowerTarget_keeps h
  | .p0ToP1 => execP0ToP1_keeps h
  | .p1ToP0 => execP1ToP0_keeps h
  | .p1ToP2 => execP1ToP2_keeps h
  | .p2ToP1 => execP2ToP1_keeps h
  | .p2ToP3 => execP2ToP3_keeps h
  | .wakeEvent .. => execWakeEvent_keeps h
  | .aonLoss => execAonLoss_keeps h
  | .powerWindow .. => execPowerWindow_keeps h
  | .dvfsPoint .. => execDvfsPoint_keeps h
  | .dvfsClockRaise => execDvfsClockRaise_keeps h
  | .droop => execDroop_keeps h
  | .vrAlert => execVrAlert_keeps h
  | .brownoutDrain => execBrownoutDrain_keeps h
  | .brownoutEnd => execBrownoutEnd_keeps h
  | .thermtrip => execThermtrip_keeps h
  | .tempUpdate .. => execTempUpdate_keeps h
  | .traceDrain .. => execTraceDrain_keeps h
  | .freeze .. => execFreeze_keeps h
  | .fire => execFire_keeps h
  | .thaw => execThaw_keeps h
  | .mark .. => execMark_keeps h
  | .traceEnable .. => execTraceEnable_keeps h
  | .intPendClear .. => execIntPendClear_keeps h
  | .intEnableWrite .. => execIntEnableWrite_keeps h
  | .buoyWatchArm .. => execBuoyWatchArm_keeps h
  | .asyncLatch .. => execAsyncLatch_keeps h
  | .hostCompletion .. => execHostCompletion_keeps h
  | .pcieLinkDown => execPcieLinkDown_keeps h
  | .pcieLinkUp .. => execPcieLinkUp_keeps h
  | .configurationWrite .. => execConfigurationWrite_keeps h
  | .queryAbort .. => execQueryAbort_keeps h
  | .deviceMinute => execDeviceMinute_keeps h

/-- The queue of waiting commands is no part of the invariant. -/
theorem State.Inv.withPending {s : State} (h : s.Inv) (q : List Instr) : State.Inv { s with pending := q } := by
  obtain ⟨⟨hm, hr, hx⟩, ⟨h1, h2, h3, h4, h5, h6, h7, h8, h9, h10, h11, h12⟩, hf⟩ := h
  exact ⟨⟨hm, hr, hx⟩, ⟨h1, h2, h3, h4, h5, h6, h7, h8, h9, h10, h11, h12⟩, hf⟩

/-- An outcome that keeps what `State.Keeps` says keeps the invariant. -/
theorem outKeeps_inv {s t : State} {o : Host.Outcome State Fault Refusal} (h : OutKeeps s o) (ht : o = .next t)
    (hi : s.Inv) : t.Inv := by
  subst ht
  exact State.Keeps.inv h hi

/-- Settles O4: each command's effect, and the idle tick, keep the invariant. -/
theorem stepKeepsTheInvariant : Obligations.StepKeepsTheInvariant := by
  intro s t hs ht
  unfold step at ht
  split at ht
  · exact outKeeps_inv (outKeeps_next (idle_keeps (.refl s))) ht hs
  · next c rest _ => exact outKeeps_inv (exec_keeps c (.refl _)) ht (hs.withPending rest)

/-- Settles O2: every part of the invariant is read off the reset state. -/
theorem resetHoldsTheInvariant : Obligations.ResetHoldsTheInvariant where
  canon := ⟨rfl, rfl, rfl⟩
  shape := by constructor <;> rfl
  fuses := by constructor <;> decide

/-- Settles O3: each value is read off the reset state and the register table. -/
theorem resetLeavesTheSpecValues : Obligations.ResetLeavesTheSpecValues := by
  refine ⟨rfl, rfl, rfl, rfl, rfl, ?_, ?_, ?_, ?_, ?_, ?_⟩ <;> decide

end Sys2Proof.Machine
end

section
/-! PROOFS. Register writes: the checks, and the access codes of the fields (R4 to R7, R18, R21, R22). -/

namespace Sys2Proof.Machine

/-! ### Bytes of a word (R3) -/

theorem leNat_leBytes (n v : Nat) : leNat (leBytes n v) = v % 2 ^ (8 * n) := by
  induction n generalizing v with
  | zero => simp [leBytes, leNat, Nat.mod_one]
  | succ n ih =>
    have h : 2 ^ (8 * (n + 1)) = 256 * 2 ^ (8 * n) := by rw [Nat.mul_succ, Nat.pow_add]; omega
    rw [leBytes, leNat, ih, h, Nat.mod_mul]
    simp

theorem leBytes_length (n v : Nat) : (leBytes n v).length = n := by
  induction n generalizing v with
  | zero => rfl
  | succ n ih => simp [leBytes, ih]

theorem sliceB_length (bs : List Byte) (o n : Nat) : (sliceB bs o n).length = n := by
  simp [sliceB]

/-- A slice of all of a string is that string. -/
theorem sliceB_all (bs : List Byte) : sliceB bs 0 bs.length = bs := by simp [sliceB]

theorem wordBytes_length (v : Word) : (wordBytes v).length = 8 := leBytes_length 8 v.toNat

theorem sliceB_wordBytes (v : Word) : sliceB (wordBytes v) 0 8 = wordBytes v := by
  rw [← wordBytes_length v, sliceB_all]

theorem wordAt_wordBytes (v : Word) : wordAt (wordBytes v) 0 = v := by
  rw [wordAt, u64At, sliceB_wordBytes, wordBytes, leNat_leBytes]
  apply BitVec.eq_of_toNat_eq
  exact (BitVec.toNat_ofNat ..).trans (by rw [Nat.mod_mod]; exact Nat.mod_eq_of_lt v.isLt)

/-! ### The checks and the fields (R4 to R7, R18, R21, R22) -/

/-- The checks of a write of this node to its own register space, in their order (R18, R22; log 159). -/
theorem placeCheck_regSpace_write (s : State) {la : Nat} (len : Nat) (h : regionOf la = 63) :
    placeCheck s la len .write none =
      if regBase + 2 ^ 32 < la + len then stUNMAPPED
      else if len ≠ 8 then stACCESS
      else if la % 8 ≠ 0 then stALIGNMENT
      else if findReg (regOff la) = none then stUNMAPPED
      else stOK := by
  simp [placeCheck, h, regCheck, remoteWriteOk]

theorem registerWrite_refused {s : State} {la len st : Nat} {bs : List Byte} (src : Source) (hbs : bs.length = len)
    (h : placeCheck s la len .write none = st) (hst : st ≠ stOK) :
    registerWrite s src la bs none = s.completed src 2 st 0 := by
  subst hbs h
  simp [registerWrite, writeRegChecked, State.completed, hst]

theorem registerWrite_ok {s : State} {la len : Nat} {bs : List Byte} (src : Source) (hbs : bs.length = len)
    (h : placeCheck s la len .write none = stOK) :
    registerWrite s src la bs none = (writeReg s (regOff la) (wordAt bs 0)).completed src 2 stOK 8 := by
  subst hbs
  simp [registerWrite, writeRegChecked, State.completed, h]

theorem exec_registerWrite (s : State) {addr : Word} (len : Nat) (v : Word) (hn : nodeOf addr = s.node)
    (hr : regionOf (localOf addr) = 63) :
    exec (.registerWrite addr len v) s =
      .next (registerWrite s (.engine 0xFF) (localOf addr) (sliceB (wordBytes v) 0 len) none) := by
  show execRegisterWrite addr len v s = _
  simp [execRegisterWrite, hn, hr]

/-- The registers of the statement, whose writes have no effect beside their fields' access codes. -/
def plainRegs : List Nat :=
  [Reg.lmpSeqErr 0, Reg.lmpSeqErr 15, Reg.intErr, Reg.timErr, Reg.pwrErr, Reg.secErr, Reg.obsErr, Reg.chkErr,
    Reg.tirErr, Reg.fabLinkErr 0, Reg.fabLinkErr 7, Reg.hstErr, Reg.hstWinBase, Reg.snsErr, Reg.fusErr, Reg.visErr,
    Reg.fltErr, Reg.slvErr, Reg.cluErr 0, Reg.cluErr 7, Reg.cluStrErr 3, Reg.brmErr 0, Reg.brmErr 15, Reg.brcErr,
    Reg.secRemote]

theorem plainRegs_small : ∀ off ∈ plainRegs, off < 2 ^ 32 ∧ off % 8 = 0 := by decide

theorem plainRegs_masks : ∀ off ∈ plainRegs, ∀ d ∈ findReg off, maskOf d .rw &&& maskOf d .w1c = 0 := by
  decide

/-- A write of a register of the list is decided by the access codes of its fields alone (R6, R7). -/
theorem writeReg_plain {s : State} {off : Nat} {d : RegDesc} {v : Word} (h : off ∈ plainRegs)
    (hd : findReg off = some d) : writeReg s off v = plainWrite s d off v := by
  fin_cases h
  all_goals
    obtain rfl := Option.some.inj (hd.symm.trans rfl)
    rfl

theorem State.node_lt (s : State) : s.node < 2 ^ 10 := bitsOf_lt _ 9 0

theorem toNat_global (s : State) {la : Nat} (h : la < 2 ^ 54) : (s.global la).toNat = s.node * 2 ^ 54 + la := by
  have hn := s.node_lt
  rw [State.global, BitVec.toNat_ofNat, ← Nat.shiftLeft_add_eq_or_of_lt h, Nat.shiftLeft_eq]
  omega

theorem nodeOf_global (s : State) {la : Nat} (h : la < 2 ^ 54) : nodeOf (s.global la) = s.node := by
  have hn := s.node_lt
  rw [nodeOf, bitsOf, toNat_global s h, Nat.shiftRight_eq_div_pow]
  omega

theorem localOf_global (s : State) {la : Nat} (h : la < 2 ^ 54) : localOf (s.global la) = la := by
  rw [localOf, bitsOf, toNat_global s h, Nat.shiftRight_zero]
  omega

theorem regionOf_regBase {off : Nat} (h : off < 2 ^ 32) : regionOf (regBase + off) = 63 := by
  rw [regionOf, Nat.shiftRight_eq_div_pow, regBase]
  omega

/-- What a write that the access codes decide leaves in each bit: RW takes the value, W1C clears where it holds 1, and the
rest stays, where no bit is both (R6, R7). -/
theorem plainWrite_bit {s : State} {d : RegDesc} {off i : Nat} {v : Word} (hs : kvWf regReset s.regs = true)
    (hd : maskOf d .rw &&& maskOf d .w1c = 0) (hi : i < 64) :
    bitOf ((plainWrite s d off v).reg off) i =
      if bitOf (maskOf d .rw) i then bitOf v i
      else if bitOf (maskOf d .w1c) i then bitOf (s.reg off) i && !bitOf v i
      else bitOf (s.reg off) i := by
  have hx : ((maskOf d .rw).getLsbD i && (maskOf d .w1c).getLsbD i) = false := by
    rw [← BitVec.getLsbD_and, hd]; simp
  rw [plainWrite, State.reg_setReg hs, if_pos rfl]
  simp only [bitOf, BitVec.getLsbD_or, BitVec.getLsbD_and, BitVec.getLsbD_not, hi, decide_true, Bool.true_and]
  by_cases hrw : (maskOf d .rw).getLsbD i = true
  · have hwc : (maskOf d .w1c).getLsbD i = false := by simpa [hrw] using hx
    simp [hrw, hwc]
  · by_cases hwc : (maskOf d .w1c).getLsbD i = true <;> simp [hrw, hwc]

theorem exec_registerWrite_global {s : State} {off : Nat} {d : RegDesc} (v : Word) (ho : off < 2 ^ 32 ∧ off % 8 = 0)
    (hd : findReg off = some d) :
    exec (.registerWrite (s.global (regBase + off)) 8 v) s =
      .next ((writeReg s off v).completed (.engine 0xFF) 2 stOK 8) := by
  obtain ⟨hlt, hal⟩ := ho
  have hla : regBase + off < 2 ^ 54 := by rw [regBase]; omega
  have hoff : regOff (regBase + off) = off := Nat.add_sub_cancel_left ..
  have hlocal := localOf_global s hla
  rw [exec_registerWrite s 8 v (nodeOf_global s hla) (by rw [hlocal, regionOf_regBase hlt]), hlocal]
  have hb : regBase % 8 = 0 := by decide
  have hcheck : placeCheck s (regBase + off) 8 .write none = stOK := by
    rw [placeCheck_regSpace_write s 8 (regionOf_regBase hlt), hoff, hd]
    rw [if_neg (by omega), if_neg (by omega), if_neg (by omega), if_neg nofun]
  rw [registerWrite_ok _ (sliceB_length ..) hcheck, hoff, sliceB_wordBytes, wordAt_wordBytes]

/-- Settles O10: the checks of a register write in their order, and the access codes of the fields. -/
theorem registerWritesReachTheirFields : Obligations.RegisterWritesReachTheirFields := by
  refine ⟨fun s addr v len hnode hregion => ?_, fun s off d v hinv hoff hd => ?_⟩
  · have hcheck := placeCheck_regSpace_write s len hregion
    have hbytes := sliceB_length (wordBytes v) 0 len
    rw [exec_registerWrite s len v hnode hregion]
    split_ifs at hcheck ⊢ with _ hlen
    iterate 4 · rw [registerWrite_refused _ hbytes hcheck (by decide)]
    · obtain rfl : len = 8 := of_not_not hlen
      rw [registerWrite_ok _ hbytes hcheck, sliceB_wordBytes, wordAt_wordBytes]
  · have hw : writeReg s off v = plainWrite s d off v := writeReg_plain hoff hd
    refine ⟨_, exec_registerWrite_global v (plainRegs_small off hoff) hd, ?_, fun o ho => ?_, fun i hi => ?_⟩
    · rw [hw]; rfl
    · rw [hw]
      exact State.reg_setReg_ne hinv.canon.regs _ ho
    · rw [hw]
      exact plainWrite_bit hinv.canon.regs (plainRegs_masks off hoff d hd) hi

end Sys2Proof.Machine
end

section
/-! PROOFS. Reads and writes of the direct regions (R3, R16, R19, R492). -/

namespace Sys2Proof.Machine

/-- The state once an access of `n` bytes at `la` in a direct region is counted: on port `k` of T1, or the like port of T2;
on none for a tile's own memory (R492). -/
def directPort (s : State) (la k n : Nat) : State :=
  if regionOf la = 2 ∧ (la - sramBase) % cluStride < 0xC00000 then s
  else countTier s (if regionOf la = 1 then k + 2 else k) n

theorem directPort_only_regs (s : State) (la k n : Nat) :
    directPort s la k n = { s with regs := (directPort s la k n).regs } := by
  unfold directPort; split <;> rfl

theorem directPort_mem (s : State) (la k n : Nat) : (directPort s la k n).mem = s.mem := by
  rw [directPort_only_regs]

theorem directPort_fills (s : State) (la k n : Nat) : (directPort s la k n).fills = s.fills := by
  rw [directPort_only_regs]

theorem directPort_media (s : State) (la k n : Nat) : (directPort s la k n).tier.media = s.tier.media := by
  rw [directPort_only_regs]

theorem directPort_load (s : State) (la k n a len : Nat) : (directPort s la k n).load a len = s.load a len := by
  rw [directPort_only_regs]; rfl

theorem readDirect_noMedia {s : State} (la len : Nat) (h : s.tier.media = []) :
    readDirect s la len = (s, (s.load la len).map some) := by
  simp [readDirect, directFaults, markBad, h]

theorem mendBlocks_noMedia {s : State} (la len : Nat) (h : s.tier.media = []) : mendBlocks s la len = s := by
  simp [mendBlocks, h]

theorem readBytes_direct (s : State) (la len cls : Nat) (cl : Option Nat) (h : regionOf la = 1 ∨ regionOf la = 2) :
    readBytes s la len cls cl = readDirect (directPort s la 0 len) la len := by
  rcases h with h | h <;> simp [readBytes, directPort, h]

theorem writeBytes_direct (s : State) (la : Nat) (bs : List Byte) (h : regionOf la = 1 ∨ regionOf la = 2) :
    writeBytes s la bs = mendBlocks ((directPort s la 1 bs.length).store la bs) la bs.length := by
  rcases h with h | h <;> simp [writeBytes, directPort, h]

/-- A byte after a store: the stored one in the range, the one before outside. -/
theorem State.byteAt_store_range {s : State} (h : kvWf s.dflt s.mem = true) (la : Nat) (bs : List Byte) (a : Nat) :
    (s.store la bs).byteAt a = if la ≤ a ∧ a < la + bs.length then bs.getD (a - la) 0 else s.byteAt a := by
  split
  · next hin =>
    have hi : a - la < bs.length := by omega
    simp [State.byteAt_store h, hin.1, hi]
  · next hout => exact State.byteAt_store_outside h la bs a (by omega)

/-- Settles O12: a direct access is the count on its port and then the bare load or store, as no media error is met. -/
theorem directMemoryKeepsItsBytes : Obligations.DirectMemoryKeepsItsBytes := by
  intro s la len cls cl bs hinv hreg hmedia
  have hwrite : writeBytes s la bs = (directPort s la 1 bs.length).store la bs := by
    rw [writeBytes_direct s la bs hreg, mendBlocks_noMedia]
    simpa [directPort_media] using hmedia
  refine ⟨?_, hwrite, fun a => ?_⟩
  · rw [readBytes_direct s la len cls cl hreg, readDirect_noMedia, directPort_load]
    · rfl
    · rw [directPort_media, hmedia]
  · have hwf : kvWf (directPort s la 1 bs.length).dflt (directPort s la 1 bs.length).mem = true := by
      rw [State.dflt, directPort_fills, directPort_mem]
      exact hinv.canon.mem
    rw [hwrite, State.byteAt_store_range hwf, State.byteAt_of_mem (directPort_mem ..) (directPort_fills ..)]

end Sys2Proof.Machine
end

section
/-! PROOFS. What POR_N and WARM_RST_N keep (R8, R319, R397, R398, R416 to R418, R471, R474, R504). -/

namespace Sys2Proof.Machine

/-! ### The register file outside a set of registers -/

/-- Every register outside `p` reads in `t` as it does in `s`. -/
def State.RegsBut (p : Nat → Bool) (s t : State) : Prop :=
  kvWf regReset s.regs = true → kvWf regReset t.regs = true ∧ ∀ o, p o = false → t.reg o = s.reg o

section
variable {p q : Nat → Bool} {s t u : State}

theorem State.RegsBut.refl (p : Nat → Bool) (s : State) : State.RegsBut p s s := fun h => ⟨h, fun _ _ => rfl⟩

theorem State.RegsBut.trans (h : State.RegsBut p s t) (k : State.RegsBut p t u) : State.RegsBut p s u := fun hs =>
  have ⟨ht, hreg⟩ := h hs
  have ⟨hu, kreg⟩ := k ht
  ⟨hu, fun o ho => (kreg o ho).trans (hreg o ho)⟩

theorem State.RegsBut.mono (hpq : ∀ o, q o = false → p o = false) (h : State.RegsBut p s t) : State.RegsBut q s t :=
  fun hs => have ⟨ht, hreg⟩ := h hs; ⟨ht, fun o ho => hreg o (hpq o ho)⟩

theorem State.RegsBut.setReg {off : Nat} {w : Word} (ho : p off = true) (h : State.RegsBut p s t) :
    State.RegsBut p s (t.setReg off w) :=
  h.trans fun ht => ⟨State.setReg_wf ht off w, fun o hno => State.reg_setReg_ne ht w (fun e => by simp_all)⟩

theorem State.RegsBut.setFld {off hi lo v : Nat} (ho : p off = true) (h : State.RegsBut p s t) :
    State.RegsBut p s (t.setFld off hi lo v) := h.setReg ho

theorem State.RegsBut.setBit {off i : Nat} {b : Bool} (ho : p off = true) (h : State.RegsBut p s t) :
    State.RegsBut p s (t.setBit off i b) := h.setReg ho

/-- A state with other registers. -/
def State.withRegs (s : State) (r : List (Nat × Word)) : State := { s with regs := r }

/-- `t` is `s` but for registers. -/
def State.SameRest (s t : State) : Prop := ∃ r, t = s.withRegs r

theorem State.SameRest.refl (s : State) : State.SameRest s s := ⟨_, rfl⟩

theorem State.SameRest.trans (h : State.SameRest s t) (k : State.SameRest t u) : State.SameRest s u := by
  obtain ⟨r, rfl⟩ := h
  obtain ⟨r', rfl⟩ := k
  exact ⟨r', rfl⟩

theorem State.SameRest.setReg {off : Nat} {w : Word} (h : State.SameRest s t) : State.SameRest s (t.setReg off w) := by
  obtain ⟨r, rfl⟩ := h
  exact ⟨_, rfl⟩

/-- `t` is `s` but for registers in `p`. -/
structure State.WritesOnly (p : Nat → Bool) (s t : State) : Prop where
  same : State.SameRest s t
  regs : State.RegsBut p s t

theorem State.WritesOnly.refl (p : Nat → Bool) (s : State) : State.WritesOnly p s s := ⟨.refl s, .refl p s⟩

theorem State.WritesOnly.trans (h : State.WritesOnly p s t) (k : State.WritesOnly p t u) : State.WritesOnly p s u :=
  ⟨h.same.trans k.same, h.regs.trans k.regs⟩

theorem State.WritesOnly.mono (hpq : ∀ o, q o = false → p o = false) (h : State.WritesOnly p s t) :
    State.WritesOnly q s t := ⟨h.same, h.regs.mono hpq⟩

theorem State.WritesOnly.setReg {off : Nat} {w : Word} (ho : p off = true) (h : State.WritesOnly p s t) :
    State.WritesOnly p s (t.setReg off w) := ⟨h.same.setReg, h.regs.setReg ho⟩

theorem State.WritesOnly.setFld {off hi lo v : Nat} (ho : p off = true) (h : State.WritesOnly p s t) :
    State.WritesOnly p s (t.setFld off hi lo v) := h.setReg ho

theorem State.WritesOnly.foldl {α : Type} {f : State → α → State} {xs : List α}
    (hf : ∀ t, ∀ x ∈ xs, State.WritesOnly p s t → State.WritesOnly p s (f t x)) (h : State.WritesOnly p s t) :
    State.WritesOnly p s (xs.foldl f t) := by
  induction xs generalizing t with
  | nil => exact h
  | cons x xs ih =>
    exact ih (fun t y hy => hf t y (List.mem_cons_of_mem _ hy)) (hf t x List.mem_cons_self h)

end

/-! ### A field that stands at a value -/

/-- The register file is canonical and the field `[hi:lo]` of the register at `off` holds `v`. -/
structure State.HasFld (s : State) (off hi lo v : Nat) : Prop where
  wf  : kvWf regReset s.regs = true
  fld : s.fld off hi lo = v

section
variable {s t : State} {off hi lo v : Nat}

theorem State.HasFld.set (hs : kvWf regReset s.regs = true) (hv : v < 2 ^ (hi + 1 - lo)) (hh : hi < 64) (hl : lo ≤ hi) :
    State.HasFld (s.setFld off hi lo v) off hi lo v :=
  ⟨State.setFld_wf hs .., by rw [State.fld_setFld hs _ _ _ _ hh hl, Nat.mod_eq_of_lt hv]⟩

theorem State.HasFld.setFld_apart {hi' lo' w : Nat} (hh : hi' < 64) (hl : lo' ≤ hi') (hd : hi < lo' ∨ hi' < lo)
    (h : State.HasFld s off hi lo v) : State.HasFld (s.setFld off hi' lo' w) off hi lo v := by
  refine ⟨State.setFld_wf h.wf .., ?_⟩
  rw [State.fld, State.reg_setFld h.wf, if_pos rfl, bitsOf_putBits_ne _ _ _ _ _ _ hh hl hd]
  exact h.fld

theorem State.HasFld.regsBut {p : Nat → Bool} (ht : State.RegsBut p s t) (ho : p off = false)
    (h : State.HasFld s off hi lo v) : State.HasFld t off hi lo v := by
  obtain ⟨hwf, hreg⟩ := ht h.wf
  refine ⟨hwf, ?_⟩
  rw [State.fld, hreg off ho]
  exact h.fld

theorem State.HasFld.setReg_ne {o : Nat} {w : Word} (ho : off ≠ o) (h : State.HasFld s off hi lo v) :
    State.HasFld (s.setReg o w) off hi lo v :=
  h.regsBut (.setReg (p := (· == o)) (by simp) (.refl _ _)) (by simpa using ho)

end

/-! ### What the SEC block shows, and a start (R416, R464, R471, R474) -/

/-- The registers, but SEC_STAT, in which the SEC block shows the fuses. -/
def fuseReg (o : Nat) : Bool :=
  o == Reg.secDeviceId || o == Reg.secSvn || (decide (Reg.secDkeyHash 0 ≤ o) && decide (o ≤ Reg.secDkeyHash 5))

/-- The registers in which the SEC block shows fuses and session. -/
def shownReg (o : Nat) : Bool := o == Reg.secStat || fuseReg o

/-- They stand in the SEC block. -/
theorem shownReg_range {o : Nat} (h : shownReg o = true) : 0x50000 ≤ o ∧ o < 0x60000 := by
  simp only [shownReg, fuseReg, Bool.or_eq_true, Bool.and_eq_true, beq_iff_eq, decide_eq_true_eq,
    Reg.secStat, Reg.secDeviceId, Reg.secSvn, Reg.secDkeyHash] at h
  omega

theorem shownReg_outside {o : Nat} (h : o < 0x50000 ∨ 0x60000 ≤ o) : shownReg o = false := by
  rw [Bool.eq_false_iff]
  intro hs
  have := shownReg_range hs
  omega

/-- The registers that the beginning of a start writes. -/
def startReg (o : Nat) : Bool := o == Reg.gctlBoot || shownReg o

/-- The part of `showSec` that writes SEC_STAT. -/
def showStat (s : State) : State :=
  let s := s.setFld Reg.secStat 1 0 s.fuses.lifecycle
  let s := s.setFld Reg.secStat 3 2 s.fuses.pending
  let s := s.setFld Reg.secStat 5 4 (debugLevel s)
  let s := s.setFld Reg.secStat 11 8 (ownerBits (·.valid) s)
  s.setFld Reg.secStat 15 12 (ownerBits (·.revoked) s)

/-- The part of `showSec` that writes the other registers. -/
def showFuses (s : State) : State :=
  let s := s.setReg Reg.secDeviceId s.fuses.deviceId
  let s := s.setReg Reg.secSvn (BitVec.ofNat 64 (s.fuses.svnImage + s.fuses.svnFw * 2 ^ 32))
  (List.range 6).foldl (fun s i => s.setReg (Reg.secDkeyHash i) (wordAt s.fuses.dkeyHash (8 * i))) s

theorem showSec_eq (s : State) : showSec s = showFuses (showStat s) := rfl

theorem showFuses_writesOnly (s : State) : State.WritesOnly fuseReg s (showFuses s) := by
  have hkey : ∀ i ∈ List.range 6, fuseReg (Reg.secDkeyHash i) = true := by decide
  unfold showFuses
  extract_lets s1 s2
  have h1 : State.WritesOnly fuseReg s s1 := .setReg (by decide) (.refl _ _)
  have h2 : State.WritesOnly fuseReg s s2 := .setReg (by decide) h1
  exact .foldl (fun _ i hi h => .setReg (hkey i hi) h) h2

theorem showStat_writesOnly (s : State) : State.WritesOnly (· == Reg.secStat) s (showStat s) := by
  unfold showStat
  extract_lets s1 s2 s3 s4
  have h1 : State.WritesOnly (· == Reg.secStat) s s1 := .setFld (by decide) (.refl _ _)
  have h2 : State.WritesOnly (· == Reg.secStat) s s2 := .setFld (by decide) h1
  have h3 : State.WritesOnly (· == Reg.secStat) s s3 := .setFld (by decide) h2
  have h4 : State.WritesOnly (· == Reg.secStat) s s4 := .setFld (by decide) h3
  exact .setFld (by decide) h4

theorem showSec_writesOnly (s : State) : State.WritesOnly shownReg s (showSec s) := by
  rw [showSec_eq]
  refine .trans (.mono (fun o ho => ?_) (showStat_writesOnly s)) (.mono (fun o ho => ?_) (showFuses_writesOnly _)) <;>
    simp_all [shownReg]

/-- SEC_STAT shows the lifecycle of the fuses. -/
theorem showSec_lifecycle {s : State} (hs : kvWf regReset s.regs = true) (hl : s.fuses.lifecycle ≤ 2) :
    State.HasFld (showSec s) Reg.secStat 1 0 s.fuses.lifecycle := by
  rw [showSec_eq]
  refine .regsBut (showFuses_writesOnly _).regs (by decide) ?_
  unfold showStat
  extract_lets s1 s2 s3 s4
  have h1 : State.HasFld s1 Reg.secStat 1 0 s.fuses.lifecycle := .set hs (by omega) (by decide) (by decide)
  have h2 : State.HasFld s2 Reg.secStat 1 0 s.fuses.lifecycle := .setFld_apart (by decide) (by decide) (.inl (by decide)) h1
  have h3 : State.HasFld s3 Reg.secStat 1 0 s.fuses.lifecycle := .setFld_apart (by decide) (by decide) (.inl (by decide)) h2
  have h4 : State.HasFld s4 Reg.secStat 1 0 s.fuses.lifecycle := .setFld_apart (by decide) (by decide) (.inl (by decide)) h3
  exact .setFld_apart (by decide) (by decide) (.inl (by decide)) h4

/-- What a start of a kind does before the registers show it: the pending lifecycle takes effect, a nonce is drawn, and no
image stands. -/
def turnLifecycle (s : State) : State :=
  let retire := s.fuses.pending == 2 && s.fuses.lifecycle != 2
  { s with
    fuses := { s.fuses with lifecycle := s.fuses.pending }
    sec := { s.sec with draws := s.sec.draws + 1, retire := s.sec.retire || retire }
    boot := { s.boot with image := none, failed := none } }

theorem beginStart_eq (s : State) (kind phase : Nat) : beginStart s kind phase =
    showSec (((turnLifecycle s).setFld Reg.gctlBoot 5 4 kind).setFld Reg.gctlBoot 3 0 phase) := rfl

theorem turnLifecycle_regs (s : State) : (turnLifecycle s).regs = s.regs := rfl

theorem beginStart_regsBut (s : State) (kind phase : Nat) : State.RegsBut startReg s (beginStart s kind phase) := by
  have h0 : State.RegsBut startReg s (turnLifecycle s) := fun h => ⟨h, fun _ _ => rfl⟩
  rw [beginStart_eq]
  exact .trans (.setFld (by decide) (.setFld (by decide) h0))
    (.mono (fun o ho => by simp_all [startReg]) (showSec_writesOnly _).regs)

theorem beginStart_phase {s : State} (hs : kvWf regReset s.regs = true) (kind : Nat) {phase : Nat} (hp : phase < 16) :
    State.HasFld (beginStart s kind phase) Reg.gctlBoot 3 0 phase := by
  rw [beginStart_eq]
  refine .regsBut (showSec_writesOnly _).regs (by decide) ?_
  exact .set (State.setFld_wf hs ..) hp (by decide) (by decide)

theorem beginStart_kind {s : State} (hs : kvWf regReset s.regs = true) {kind : Nat} (hk : kind < 4) (phase : Nat) :
    State.HasFld (beginStart s kind phase) Reg.gctlBoot 5 4 kind := by
  rw [beginStart_eq]
  refine .regsBut (showSec_writesOnly _).regs (by decide) ?_
  refine .setFld_apart (by decide) (by decide) (.inr (by decide)) ?_
  exact .set hs hk (by decide) (by decide)

theorem beginStart_lifecycle {s : State} (hs : kvWf regReset s.regs = true) (hp : s.fuses.pending ≤ 2) (kind phase : Nat) :
    State.HasFld (beginStart s kind phase) Reg.secStat 1 0 s.fuses.pending := by
  rw [beginStart_eq]
  exact showSec_lifecycle (State.setFld_wf (State.setFld_wf hs ..) ..) hp

/-! ### The end of a debug session (R474, R479, R494) -/

/-- The registers that the end of a debug session may write: those that interrupts and events write, PWR_STATE.HELD and
the SEC block. -/
def sessionReg (o : Nat) : Bool :=
  sigReg o || o == Reg.pwrState || (decide (0x50000 ≤ o) && decide (o < 0x60000))

/-- `t` has the memory, objects, time, start-up state and fuses of `s`, and its registers but those of a session's end. -/
structure State.SessionApart (s t : State) : Prop where
  mem   : t.mem = s.mem
  fills : t.fills = s.fills
  tier  : t.tier = s.tier
  tim   : t.tim = s.tim
  boot  : t.boot = s.boot
  fuses : t.fuses = s.fuses
  regs  : State.RegsBut sessionReg s t

section
variable {s t u : State}

theorem State.SessionApart.refl (s : State) : State.SessionApart s s := ⟨rfl, rfl, rfl, rfl, rfl, rfl, .refl _ _⟩

theorem State.SessionApart.trans (h : State.SessionApart s t) (k : State.SessionApart t u) : State.SessionApart s u :=
  ⟨k.mem.trans h.mem, k.fills.trans h.fills, k.tier.trans h.tier, k.tim.trans h.tim, k.boot.trans h.boot,
    k.fuses.trans h.fuses, h.regs.trans k.regs⟩

theorem State.SessionApart.setReg {off : Nat} {w : Word} (ho : sessionReg off = true) (h : State.SessionApart s t) :
    State.SessionApart s (t.setReg off w) := ⟨h.mem, h.fills, h.tier, h.tim, h.boot, h.fuses, h.regs.setReg ho⟩

theorem State.SessionApart.setFld {off hi lo v : Nat} (ho : sessionReg off = true) (h : State.SessionApart s t) :
    State.SessionApart s (t.setFld off hi lo v) := h.setReg ho

theorem State.SessionApart.setBit {off i : Nat} {b : Bool} (ho : sessionReg off = true) (h : State.SessionApart s t) :
    State.SessionApart s (t.setBit off i b) := h.setReg ho

/-- A change of buffers, of the keepers' halts or of the session's own state. -/
theorem State.SessionApart.mk_units {obs power sec} (h : State.SessionApart s t) :
    State.SessionApart s { t with obs := obs, power := power, sec := sec } :=
  ⟨h.mem, h.fills, h.tier, h.tim, h.boot, h.fuses, h.regs⟩

theorem State.SessionApart.signals (h : State.SessionApart s t) (k : State.Signals t u) : State.SessionApart s u :=
  h.trans ⟨k.mem, k.fills, k.tier, k.tim, k.boot, k.fuses, .mono (fun o ho => by simp_all [sessionReg]) k.regs⟩

theorem State.SessionApart.foldl {α : Type} {f : State → α → State} {xs : List α}
    (hf : ∀ t, ∀ x ∈ xs, State.SessionApart s t → State.SessionApart s (f t x)) (h : State.SessionApart s t) :
    State.SessionApart s (xs.foldl f t) := by
  induction xs generalizing t with
  | nil => exact h
  | cons x xs ih =>
    exact ih (fun t y hy => hf t y (List.mem_cons_of_mem _ hy)) (hf t x List.mem_cons_self h)

theorem levelFall_apart (h : State.SessionApart s t) : State.SessionApart s (levelFall t) := by
  have hctl : ∀ n ∈ List.range 12, sessionReg (Reg.obsTrCtl n) = true := by decide
  unfold levelFall
  refine .foldl (fun t n hn h => ?_) h
  dsimp only
  split
  · exact .setFld (hctl n hn) h.mk_units
  · exact h.mk_units

theorem showHeld_apart (h : State.SessionApart s t) : State.SessionApart s (showHeld t) := by
  unfold showHeld
  dsimp only
  split
  · exact (h.setBit (by decide)).signals (raise_signals (by decide) (.refl _))
  · exact h.setBit (by decide)

theorem showSec_apart (h : State.SessionApart s t) : State.SessionApart s (showSec t) := by
  obtain ⟨⟨r, hr⟩, hregs⟩ := showSec_writesOnly t
  have hsub : ∀ o, sessionReg o = false → shownReg o = false := by
    intro o ho
    simp only [sessionReg, Bool.or_eq_false_iff, Bool.and_eq_false_iff, decide_eq_false_iff_not] at ho
    exact shownReg_outside (by omega)
  refine h.trans ⟨?_, ?_, ?_, ?_, ?_, ?_, .mono hsub hregs⟩ <;> rw [hr] <;> rfl

theorem setLevel_apart {lvl mask end_ : Nat} (h : State.SessionApart s t) :
    State.SessionApart s (setLevel t lvl mask end_) := by
  unfold setLevel
  extract_lets old t1 t2 t3 p t4 q t5
  have h2 : State.SessionApart s t2 := .setReg (by decide) (.setFld (by decide) (.setFld (by decide) h))
  clear_value t2
  have h3 : State.SessionApart s t3 := by
    unfold t3
    split
    · exact levelFall_apart h2
    · exact h2
  have h4 : State.SessionApart s t4 := by
    unfold t4
    split
    · exact showHeld_apart h3.mk_units
    · exact h3
  have h5 : State.SessionApart s t5 := by
    unfold t5
    split
    · exact h4.mk_units
    · exact h4
  refine showSec_apart ?_
  split
  · exact h5
  · exact h5.signals (raise_signals (by decide) (.refl _))

/-- A sticky bit that is set already stays, and raises nothing (R7). -/
theorem sticky_of_set {off bit : Nat} (src : Option Nat) (hb : s.bit off bit = true) : sticky s off bit src = s := by
  simp [sticky, stickyCore, freezeRisen, hb]

theorem endSession_apart (s : State) : State.SessionApart s (endSession s) := by
  unfold endSession
  split
  · exact .refl s
  · have h : State.SessionApart s (setLevel s 0 0 0) := setLevel_apart (.refl s)
    by_cases hb : (setLevel s 0 0 0).bit Reg.secErr 1 = true
    · rw [sticky_of_set _ hb]
      exact h
    · exact (h.setBit (by decide)).signals (sticky_signals (by simp) (by simpa using hb))

end

/-! ### Memory over a reset (R397, R418) -/

/-- A filter that keeps every entry of a key leaves its value. -/
theorem kvGet_filter {β : Type} {d d' : Nat → β} {m : List (Nat × β)} {p : Nat × β → Bool} {a : Nat}
    (hd : d' a = d a) (hp : ∀ e ∈ m, e.1 = a → p e = true) : kvGet d' (m.filter p) a = kvGet d m a := by
  induction m with
  | nil => exact hd
  | cons e m ih =>
    obtain ⟨k, v⟩ := e
    have ihm := ih (fun e he => hp e (List.mem_cons_of_mem _ he))
    by_cases hk : k = a
    · rw [List.filter_cons_of_pos (hp _ List.mem_cons_self hk)]
      simp [kvGet, hk]
    · by_cases hpe : p (k, v) = true
      · simp [List.filter_cons_of_pos hpe, kvGet, hk, ihm]
      · simp [List.filter_cons_of_neg hpe, kvGet, hk, ihm]

/-- A change of values that leaves the keys and the entries of one key leaves that key's value. -/
theorem kvGet_map {β : Type} {d : Nat → β} {m : List (Nat × β)} {f : Nat × β → Nat × β} {a : Nat}
    (hf : ∀ e, (f e).1 = e.1) (ha : ∀ e, e.1 = a → f e = e) : kvGet d (m.map f) a = kvGet d m a := by
  induction m with
  | nil => rfl
  | cons e m ih =>
    obtain ⟨k, v⟩ := e
    have hk := hf (k, v)
    by_cases h : k = a
    · rw [List.map_cons, ha (k, v) h]
      simp [kvGet, h]
    · rw [List.map_cons]
      generalize f (k, v) = w at hk
      obtain ⟨k', v'⟩ := w
      cases hk
      simp [kvGet, h, ih]

/-- A key that is not listed reads as its default. -/
theorem kvGet_of_not_mem {β : Type} {d : Nat → β} {m : List (Nat × β)} {a : Nat}
    (h : ∀ e ∈ m, e.1 ≠ a) : kvGet d m a = d a := by
  induction m with
  | nil => rfl
  | cons e m ih =>
    obtain ⟨k, v⟩ := e
    simp [kvGet, h (k, v) List.mem_cons_self, ih (fun e he => h e (List.mem_cons_of_mem _ he))]

theorem State.fillRange_reg (s : State) (lo len : Nat) (z : Bool) (o : Nat) : (s.fillRange lo len z).reg o = s.reg o := rfl

/-- Is `a` outside every fill? -/
def Unfilled (fills : List Fill) (a : Nat) : Prop := ∀ f ∈ fills, ¬ (f.lo ≤ a ∧ a < f.lo + f.len)

theorem memDefault_unfilled {fills : List Fill} {a : Nat} (h : Unfilled fills a) :
    memDefault fills a = if a >>> 48 = 3 then 0xFF else 0 := by
  have : fills.find? (fun f => decide (f.lo ≤ a) && decide (a < f.lo + f.len)) = none := by
    rw [List.find?_eq_none]
    intro f hf
    simpa using h f hf
  rw [memDefault, this]

/-- Kept cells read as before at an address that is kept and that no fill holds. -/
theorem byteAt_keptCells {s t : State} {keep : Nat → Bool} {a : Nat} (hs : Memory.wf s.fills s.mem = true)
    (hm : t.mem = keptCells s.mem t.fills keep) (hf : t.fills ⊆ s.fills) (hk : keep a = true) (ha : Unfilled s.fills a) :
    t.byteAt a = s.byteAt a := by
  have hd : memDefault t.fills a = memDefault s.fills a := by
    rw [memDefault_unfilled ha, memDefault_unfilled (fun f h => ha f (hf h))]
  rw [State.byteAt, hm]
  refine kvGet_filter hd (fun e he hea => ?_)
  subst hea
  simpa [hk, hd] using kvWf_ne hs he

/-- A fill changes no byte outside its range. -/
theorem byteAt_fillRange {s : State} {lo len a : Nat} (z : Bool) (ha : a < lo ∨ lo + len ≤ a) :
    (s.fillRange lo len z).byteAt a = s.byteAt a := by
  refine kvGet_filter ?_ (fun e _ hea => ?_)
  · rw [State.dflt, State.dflt, ← memDefault_filter s.fills lo len a ha]
    have hout : (decide (lo ≤ a) && decide (a < lo + len)) = false := by simp; omega
    simp only [State.fillRange]
    conv => lhs; unfold memDefault
    rw [List.find?_cons_of_neg (by simp [hout])]
    rfl
  · simp; omega

theorem unlockRoute_fst (e : Nat × Word) : (unlockRoute e).1 = e.1 := by
  unfold unlockRoute; split <;> rfl

/-- The registers of the always-on domain that keep their contents, the route registers apart (R333, R398, R504). -/
theorem reg_keptRegs {s t : State} (hs : kvWf regReset s.regs = true) (ht : t.regs = keptRegs s) {o : Nat}
    (hk : keptReg o = true) (ho : o < 0x21000 ∨ 0x22000 ≤ o) : t.reg o = s.reg o := by
  have hstay : ∀ e : Nat × Word, e.1 = o → unlockRoute e = e := by
    rintro e rfl
    exact if_neg (by omega)
  rw [State.reg, ht, keptRegs, kvGet_filter rfl, kvGet_map unlockRoute_fst hstay, kvGet_filter rfl]
  · rfl
  · rintro e - rfl
    exact hk
  · intro e he heo
    obtain ⟨e', he', rfl⟩ := List.mem_map.1 he
    rw [unlockRoute_fst] at heo
    rw [hstay e' heo]
    simpa using kvWf_ne hs (List.mem_of_mem_filter he')

/-- Every other register is at its reset value. -/
theorem reg_keptRegs_reset {s t : State} (ht : t.regs = keptRegs s) {o : Nat} (hk : keptReg o = false) :
    t.reg o = regReset o := by
  rw [State.reg, ht]
  refine kvGet_of_not_mem (fun e he heo => ?_)
  obtain ⟨e', he', rfl⟩ := List.mem_map.1 (List.mem_of_mem_filter he)
  rw [unlockRoute_fst] at heo
  simpa [heo, hk] using List.of_mem_filter he'

/-! ### POR_N (R8, R397, R398) -/

/-- What POR_N makes of `s` before the registers show pins and fuses. -/
structure PorBase (s t : State) : Prop where
  regs        : t.regs = []
  fills       : t.fills = keptFills s.fills (· == 3)
  mem         : t.mem = keptCells s.mem t.fills (fun a => regionOf a == 3)
  fuses       : t.fuses = s.fuses
  xspi        : t.boot.xspi = s.boot.xspi
  ops         : t.ops = []
  fab         : t.fab = State.reset.fab
  objs        : t.tier.objs = []
  str         : t.str = State.reset.str
  tim         : t.tim = State.reset.tim
  completions : t.completions = s.completions

/-- The registers in which the state after the reset of POR_N shows pins and fuses. -/
def pinReg (o : Nat) : Bool := o == Reg.hstStat || shownReg o

theorem porReset_base (s : State) : ∃ t, PorBase s t ∧ porReset s = showSec (t.setBit Reg.hstStat 11 t.ep.perst) := by
  unfold porReset
  extract_lets r tier ep sns boot integ power sec t
  exact ⟨t, by constructor <;> rfl, rfl⟩

theorem porReset_writesOnly {s t : State} (h : porReset s = showSec (t.setBit Reg.hstStat 11 t.ep.perst)) :
    State.WritesOnly pinReg t (porReset s) := by
  rw [h]
  refine .trans (.setFld (by decide) (.refl _ _)) (.mono (fun o ho => ?_) (showSec_writesOnly _))
  simp_all [pinReg]

theorem turnLifecycle_same {s t : State} (h : State.SameRest s t) : State.SameRest (turnLifecycle s) (turnLifecycle t) := by
  obtain ⟨r, rfl⟩ := h
  exact ⟨r, rfl⟩

/-- A start changes registers, the lifecycle, and what it notes of image and nonce. -/
theorem beginStart_same (s : State) (kind phase : Nat) : State.SameRest (turnLifecycle s) (beginStart s kind phase) := by
  rw [beginStart_eq]
  exact .trans (.setReg (.setReg (.refl _))) (showSec_writesOnly _).same

/-- Flash reads as before, where nothing fills it (R397). -/
theorem PorBase.byteAt {s t : State} (h : PorBase s t) (hs : Memory.wf s.fills s.mem = true) {a : Nat}
    (hr : regionOf a = 3) (ha : Unfilled s.fills a) : t.byteAt a = s.byteAt a := by
  refine byteAt_keptCells hs h.mem (fun f hf => ?_) (by simpa using hr) ha
  rw [h.fills] at hf
  exact List.mem_of_mem_filter hf

/-- The registers that POR_N leaves at other than their reset values. -/
def porReg (o : Nat) : Bool := o == Reg.gctlStrap || o == Reg.timStatus || o == Reg.gctlBoot || pinReg o

/-- POR_N: the base, its pending lifecycle in force, and the registers that show both. -/
theorem exec_porN (s : State) (straps : BitVec 3) (hp : s.fuses.pending ≤ 2) :
    ∃ t u, exec (.porN straps) s = .next u ∧ PorBase s t ∧ State.SameRest (turnLifecycle t) u ∧
      State.RegsBut porReg t u ∧ State.HasFld u Reg.gctlBoot 3 0 0 ∧ State.HasFld u Reg.gctlBoot 5 4 0 ∧
      State.HasFld u Reg.secStat 1 0 s.fuses.pending ∧ u.reg Reg.gctlStrap = BitVec.ofNat 64 straps.toNat := by
  obtain ⟨t, hbase, ht⟩ := porReset_base s
  obtain ⟨hsame, hregs⟩ := porReset_writesOnly ht
  obtain ⟨hwf, -⟩ := hregs (by rw [hbase.regs]; rfl)
  have hpend : (porReset s).fuses.pending = s.fuses.pending := by
    obtain ⟨r, hr⟩ := hsame
    rw [hr]
    exact congrArg _ hbase.fuses
  have hstart := beginStart_regsBut (porReset s) 0 0
  obtain ⟨hwf', -⟩ := hstart hwf
  have hlife := beginStart_lifecycle hwf (by omega) 0 0
  rw [hpend] at hlife
  refine ⟨t, _, rfl, hbase, ?_, ?_, ?_, ?_, ?_, ?_⟩
  · exact .setReg (.setReg ((turnLifecycle_same hsame).trans (beginStart_same ..)))
  · refine .setBit (by decide) (.setReg (by decide) (.trans (.mono (fun o ho => ?_) hregs) (.mono (fun o ho => ?_) hstart)))
    · simp_all [porReg]
    · simp_all [porReg, pinReg, startReg]
  · exact .setReg_ne (by decide) (.setReg_ne (by decide) (beginStart_phase hwf 0 (by decide)))
  · exact .setReg_ne (by decide) (.setReg_ne (by decide) (beginStart_kind hwf (by decide) 0))
  · exact .setReg_ne (by decide) (.setReg_ne (by decide) hlife)
  · rw [State.reg_setBit_ne (State.setReg_wf hwf' ..) _ _ (by decide), State.reg_setReg hwf', if_pos rfl]

/-- Below the SEC block POR_N leaves only these registers off their reset values. -/
theorem porReg_low {o : Nat} (ho : o < 0x50000) (hn : o ∉ [Reg.gctlBoot, Reg.gctlStrap, Reg.timStatus]) :
    porReg o = false := by
  have hshown := shownReg_outside (.inl ho)
  have hhst : o ≠ Reg.hstStat := by rw [Reg.hstStat]; omega
  simp_all [porReg, pinReg]

/-! ### WARM_RST_N (R319, R397, R416 to R418, R504) -/

/-- What the reset of every unit outside the always-on domain makes of `s` before SRAM is forgotten and the registers show
pins and fuses. -/
structure DomainBase (s t : State) : Prop where
  regs    : t.regs = keptRegs s
  fills   : t.fills = keptFills s.fills (· != 2)
  mem     : t.mem = keptCells s.mem t.fills (fun a => regionOf a != 2)
  fuses   : t.fuses = s.fuses
  boot    : t.boot = s.boot
  ops     : t.ops = []
  fab     : t.fab = State.reset.fab
  objs    : t.tier.objs = s.tier.objs
  str     : t.str = State.reset.str
  n       : t.tim.n = s.tim.n
  running : t.tim.running = s.tim.running

/-- The registers that the reset of the units writes beside those that it resets. -/
def domainReg (o : Nat) : Bool := o == Reg.pwrTemp || o == Reg.timStatus || pinReg o

theorem resetDomain_base (s : State) : ∃ (t : State) (temp : Nat) (strap : Bool), DomainBase s t ∧
    resetDomain s = showSec ((((t.fillRange sramBase sramSize false).setFld Reg.pwrTemp 47 32 temp).setBit
      Reg.timStatus 1 strap).setBit Reg.hstStat 11 t.ep.perst) := by
  unfold resetDomain
  extract_lets r tier ep bram sns tim obs integ power sec t t1 t2
  exact ⟨t, _, _, by constructor <;> rfl, rfl⟩

theorem resetDomain_writesOnly {s t : State} {temp : Nat} {strap : Bool}
    (h : resetDomain s = showSec ((((t.fillRange sramBase sramSize false).setFld Reg.pwrTemp 47 32 temp).setBit
      Reg.timStatus 1 strap).setBit Reg.hstStat 11 t.ep.perst)) :
    State.WritesOnly domainReg (t.fillRange sramBase sramSize false) (resetDomain s) := by
  rw [h]
  refine .trans (.setFld (by decide) (.setFld (by decide) (.setFld (by decide) (.refl _ _))))
    (.mono (fun o ho => ?_) (showSec_writesOnly _))
  simp_all [domainReg, pinReg]

theorem regionOf_sram {a : Nat} (h : regionOf a ≠ 2) : a < sramBase ∨ sramBase + sramSize ≤ a := by
  rw [regionOf, Nat.shiftRight_eq_div_pow] at h
  rw [sramBase, sramSize]
  omega

/-- Memory outside SRAM reads as before, where nothing fills it (R418). -/
theorem DomainBase.byteAt {s t : State} (h : DomainBase s t) (hs : Memory.wf s.fills s.mem = true) {a : Nat}
    (hr : regionOf a ≠ 2) (ha : Unfilled s.fills a) :
    (t.fillRange sramBase sramSize false).byteAt a = s.byteAt a := by
  rw [byteAt_fillRange _ (regionOf_sram hr)]
  refine byteAt_keptCells hs h.mem (fun f hf => ?_) (by simpa using hr) ha
  rw [h.fills] at hf
  exact List.mem_of_mem_filter hf

/-- The registers that a warm start writes beside those that it resets. -/
def warmReg (o : Nat) : Bool := startReg o || domainReg o

/-- WARM_RST_N where it may happen: the debug session ends, the units are reset, and a warm start begins in the ROM phase
with the pending lifecycle in force. -/
theorem exec_warmRstN {s : State} (hs : kvWf regReset s.regs = true) (hoff : s.power.off = false)
    (htrip : s.power.thermtrip = false) (hrun : s.tim.running = true) :
    ∃ v t u, exec .warmRstN s = .next u ∧ State.SessionApart s v ∧ DomainBase v t ∧
      State.SameRest (turnLifecycle (t.fillRange sramBase sramSize false)) u ∧
      State.RegsBut warmReg (t.fillRange sramBase sramSize false) u ∧
      State.HasFld u Reg.gctlBoot 3 0 2 ∧ State.HasFld u Reg.gctlBoot 5 4 1 := by
  have hv := endSession_apart s
  obtain ⟨t, temp, strap, hbase, ht⟩ := resetDomain_base (endSession s)
  obtain ⟨hsame, hregs⟩ := resetDomain_writesOnly ht
  have htwf : kvWf regReset t.regs = true := by
    rw [hbase.regs]
    exact keptRegs_wf (hv.regs hs).1
  obtain ⟨hwf, -⟩ := hregs htwf
  refine ⟨_, t, beginStart (resetDomain (endSession s)) 1 2, ?_, hv, hbase, ?_, ?_, ?_, ?_⟩
  · show execWarmRstN s = _
    simp [execWarmRstN, hoff, htrip, hrun]
  · exact (turnLifecycle_same hsame).trans (beginStart_same ..)
  · exact .trans (.mono (fun o ho => by simp_all [warmReg]) hregs)
      (.mono (fun o ho => by simp_all [warmReg]) (beginStart_regsBut _ _ _))
  · exact beginStart_phase hwf 1 (by decide)
  · exact beginStart_kind hwf (by decide) 2

/-- The registers of the statement that outlive WARM_RST_N: no part of a warm start or of a session's end writes them. -/
theorem retainedRegs_apart : ∀ o ∈ [Reg.gctlStrap, Reg.timInc, Reg.timServo, Reg.timPpsOffset, Reg.pwrWakeEn,
    Reg.pwrWakeTime], keptReg o = true ∧ (o < 0x21000 ∨ 0x22000 ≤ o) ∧ warmReg o = false ∧ sessionReg o = false := by decide

/-- Settles O48: both resets are a base built from what they keep, a start in which the pending lifecycle takes effect, and
writes of registers that lie apart from the kept ones. -/
theorem resetsKeepWhatTheyKeep : Obligations.ResetsKeepWhatTheyKeep := by
  intro s straps hinv
  obtain ⟨⟨hmem, hregs, -⟩, -, -, hpend, -, -⟩ := hinv
  refine ⟨?_, fun hoff htrip hrun => ?_⟩
  · obtain ⟨t, u, hexec, hb, ⟨r, rfl⟩, hkeep, hphase, hkind, hlife, hstrap⟩ := exec_porN s straps hpend
    have hreg := (hkeep (by rw [hb.regs]; rfl)).2
    refine ⟨_, hexec, hphase.fld, hkind.fld, hstrap, ?_, hlife.fld, hb.xspi, hb.ops, hb.fab, hb.objs, hb.str, hb.tim,
      hb.completions, fun a ha hfill => hb.byteAt hmem ha hfill, fun o ho hno => ?_⟩
    · exact congrArg (fun f : Fuses => { f with lifecycle := f.pending }) hb.fuses
    · rw [hreg o (porReg_low ho hno), State.reg, hb.regs]
      rfl
  · obtain ⟨v, t, u, hexec, hv, hb, ⟨r, rfl⟩, hkeep, hphase, hkind⟩ := exec_warmRstN hregs hoff htrip hrun
    obtain ⟨hvwf, hvreg⟩ := hv.regs hregs
    have hreg := (hkeep (show kvWf regReset t.regs = true by rw [hb.regs]; exact keptRegs_wf hvwf)).2
    refine ⟨_, hexec, hphase.fld, hkind.fld, ?_, ?_, hb.ops, hb.fab, hb.str, ?_, ?_, ?_, ?_, fun a ha hfill => ?_,
      fun o ho => ?_⟩
    · exact congrArg (fun f : Fuses => { f with lifecycle := f.pending }) (hb.fuses.trans hv.fuses)
    · have hboot : t.boot.xspi = s.boot.xspi := congrArg Boot.xspi (hb.boot.trans hv.boot)
      exact hboot
    · exact hb.n.trans (congrArg Time.n hv.tim)
    · exact hb.running.trans ((congrArg Time.running hv.tim).trans hrun)
    · exact hb.objs.trans (congrArg Tier.objs hv.tier)
    · rw [State.fld, hreg _ (by decide), State.fillRange_reg, reg_keptRegs_reset hb.regs (by decide)]
      decide
    · have hvmem : Memory.wf v.fills v.mem = true := by rw [hv.fills, hv.mem]; exact hmem
      exact (hb.byteAt hvmem ha (by rw [hv.fills]; exact hfill)).trans (State.byteAt_of_mem hv.mem hv.fills a)
    · obtain ⟨hk, hroute, hw, hses⟩ := retainedRegs_apart o ho
      rw [hreg o hw, State.fillRange_reg, reg_keptRegs hvwf hb.regs hk hroute, hvreg o hses]

end Sys2Proof.Machine
end

section
/-! PROOFS. Every command is answered: no command ends in a fault or a refusal (log 158). -/

namespace Sys2Proof.Machine

/-- An outcome keeps what `State.Keeps` says exactly when it is a next state that does. -/
theorem outKeeps_iff {s : State} {o : Host.Outcome State Fault Refusal} :
    OutKeeps s o ↔ ∃ t, o = .next t ∧ State.Keeps s t := by
  constructor
  · intro h
    cases o with
    | next t => exact ⟨t, rfl, h⟩
    | fault => exact h.elim
    | refused => exact h.elim
  · rintro ⟨t, rfl, h⟩
    exact outKeeps_next h

/-- Settles O6: every command's outcome is a next state that keeps the queue and the counter of free values. -/
theorem everyCommandAnswers : Obligations.EveryCommandAnswers := by
  intro c s
  obtain ⟨t, ht, hkeep⟩ := outKeeps_iff.1 (exec_keeps c (.refl s))
  exact ⟨t, ht, hkeep.pending, hkeep.freeCtr⟩

end Sys2Proof.Machine
end

section
/-! PROOFS. The memory operations of this node: how one is issued, what its home does, and how it completes (R18, R22 to
R25, R31 to R38, R42, R46). -/

namespace Sys2Proof.Machine

/-! ### Buoys (R31, R32) -/

/-- Settles O7: each increment replaces one of the two fields, which do not meet. -/
theorem buoyIncrementsGoFieldByField : Obligations.BuoyIncrementsGoFieldByField := by
  intro w
  have hok : buoyWord w true = putBits w 47 0 (bitsOf w 47 0 + 1) := rfl
  have hbad : buoyWord w false = putBits w 63 48 (min (bitsOf w 63 48 + 1) 0xFFFF) := rfl
  rw [hok, hbad]
  refine ⟨⟨?_, ?_⟩, ?_, ?_⟩
  · exact bitsOf_putBits w 47 0 _ (by decide) (by decide)
  · exact bitsOf_putBits_ne w 47 0 _ 63 48 (by decide) (by decide) (Or.inr (by decide))
  · rw [bitsOf_putBits w 63 48 _ (by decide) (by decide)]
    omega
  · exact bitsOf_putBits_ne w 63 48 _ 47 0 (by decide) (by decide) (Or.inl (by decide))

/-! ### Places (R16 to R22, R31) -/

/-- A check passes when its first condition does not hold and the rest of it passes. -/
theorem ite_status_eq_ok {c : Prop} [Decidable c] {st rest : Nat} (hst : st ≠ stOK) :
    (if c then st else rest) = stOK ↔ ¬ c ∧ rest = stOK := by
  by_cases h : c <;> simp [h, hst]

/-- Memory of T1 and T2 that may be accessed in any way may be read. -/
theorem placeCheck_read_of_ok {s : State} {la len : Nat} {want : Want} (hr : regionOf la < 3)
    (h : placeCheck s la len want none = stOK) : placeCheck s la len .read none = stOK := by
  have hunmapped : stUNMAPPED ≠ stOK := by decide
  have haccess : stACCESS ≠ stOK := by decide
  have hcases : regionOf la = 0 ∨ regionOf la = 1 ∨ regionOf la = 2 := by omega
  rcases hcases with hr | hr | hr <;>
    simp only [placeCheck, hr, ite_status_eq_ok hunmapped, ite_status_eq_ok haccess] at h ⊢
  · exact ⟨h.1, by simp, by simp⟩
  · exact ⟨h.1, h.2.1, by simp, by simp⟩
  · exact ⟨h.1, h.2.1, by simp⟩

/-- Outside T1 and T2 there is no buoy: flash and the host window refuse it, and so does the register space. -/
theorem placeCheck_buoy_ne_ok {s : State} {la len : Nat} (hr : 3 ≤ regionOf la) :
    placeCheck s la len .buoy none ≠ stOK := by
  unfold placeCheck
  extract_lets aligned
  split
  iterate 3 · omega
  · simp only [reduceCtorEq, if_false]; split_ifs <;> decide
  · rw [if_pos rfl]; decide
  · simp only [regCheck]; split_ifs <;> decide
  · decide

/-- A buoy that may be named is a word of T1 or T2 that may be read. -/
theorem buoyCheck_ok {s : State} {la : Nat} (h : buoyCheck s la = stOK) :
    regionOf la < 3 ∧ placeCheck s la 8 .read none = stOK := by
  obtain ⟨-, hplace⟩ := (ite_status_eq_ok (st := stUNMAPPED) (by decide)).1 h
  have hr : regionOf la < 3 := by
    by_contra hr
    exact placeCheck_buoy_ne_ok (by omega) hplace
  exact ⟨hr, placeCheck_read_of_ok hr hplace⟩

/-! ### What the checks read of the state -/

section
variable {s t : State}

theorem objAt_congr (h : t.tier = s.tier) (a : Nat) : objAt t a = objAt s a := by rw [objAt, h]; rfl

theorem objCovers_congr (h : t.tier = s.tier) (n a e : Nat) : objCovers t n a e = objCovers s n a e := by
  induction n generalizing a with
  | zero => rfl
  | succ n ih => simp only [objCovers, objAt_congr h, ih]

/-- What a place allows depends on the registers and the objects alone. -/
theorem placeCheck_congr (hr : t.regs = s.regs) (ht : t.tier = s.tier) (la len : Nat) (w : Want) (o : Option Nat) :
    placeCheck t la len w o = placeCheck s la len w o := by
  have hreg : t.reg = s.reg := funext (State.reg_of_regs hr)
  have hfld : t.fld = s.fld := by funext off hi lo; exact State.fld_of_regs hr off hi lo
  have hbit : t.bit = s.bit := by funext off i; exact State.bit_of_regs hr off i
  have hcovers : objCovers t = objCovers s := by funext n a e; exact objCovers_congr ht n a e
  unfold placeCheck hitsManaged guardedArea hostCheck regCheck remoteWriteOk objWritable tierOn managedT1 managedT2
    inStaging
  rw [hcovers, hreg, hfld, hbit, ht]

theorem State.doneOk_congr (hr : t.regs = s.regs) (ht : t.tier = s.tier) (a : Word) : t.doneOk a ↔ s.doneOk a := by
  simp only [State.doneOk, State.node, State.fld_of_regs hr, buoyCheck, placeCheck_congr hr ht]

end

/-! ### Reading and writing where every check passes (R18, R46) -/

section
variable {s : State} {la len cls : Nat} {cl : Option Nat} {bs : List Byte}

theorem readAt_ok (hr : regionOf la < 4) (hc : placeCheck s la len .read none = stOK)
    (hb : (readBytes s la len cls cl).2 = bs.map some) :
    readAt s la len cls cl = ((readBytes s la len cls cl).1, stOK, bs.map some) := by
  simp [readAt, hc, hr, hb]

theorem writeAt_memory_ok (hr : regionOf la < 3) (hc : placeCheck s la bs.length .write none = stOK)
    (hq : (writeBytes s la bs).Quiet) :
    writeAt s la (bs.map some) none = (writeBytes s la bs, stOK, bs.length) := by
  have hne : regionOf la ≠ 63 := by omega
  simp [writeAt, writeData, hne, hr, hc, settle_quiet _ hq]

theorem writeAt_register_ok (hr : regionOf la = 63) (hc : placeCheck s la bs.length .write none = stOK) :
    writeAt s la (bs.map some) none = (writeReg s (regOff la) (wordAt bs 0), stOK, bs.length) := by
  simp [writeAt, writeRegChecked, hr, hc]

end

/-! ### What the home of an operation does (R23 to R25, R31 to R36) -/

/-- What the home of a plain operation other than COPY and FENCE does. -/
def homePerf (s : State) (op : Op) : State × Perf :=
  match op.code with
  | 1 => doGet s .plain op
  | 4 => doAtomic s op
  | 5 => doWatch s op
  | _ => doPut s .plain op [] none

section
variable {s : State} {op : Op} {bs : List Byte}

theorem doGet_refused {st : Nat} (hr : regionOf (localOf op.dst) ≠ 62)
    (hc : placeCheck s (localOf op.dst) op.len .read none = st) (hst : st ≠ stOK) :
    doGet s .plain op = (s, .done st 0 []) := by
  simp [doGet, hr, hc, hst]

theorem doGet_ok (hdst : regionOf (localOf op.dst) < 4)
    (hread : placeCheck s (localOf op.dst) op.len .read none = stOK)
    (hsrc : placeCheck s (localOf op.src) op.len .write none = stOK)
    {r : State × List (Option Byte)} (hr : readBytes s (localOf op.dst) op.len op.cls (sourceCluster op.source) = r)
    (hb : r.2 = bs.map some) {t : State}
    (hw : writeAt r.1 (localOf op.src) (bs.map some) none = (t, stOK, bs.length)) :
    doGet s .plain op = (t, .done stOK (BitVec.ofNat 64 bs.length) []) := by
  subst hr
  have hne : regionOf (localOf op.dst) ≠ 62 := by omega
  simp [doGet, hne, hread, bufferCheck, Origin.carries, hsrc, opCluster, readAt_ok hdst hread hb, deliverGet, hw]

theorem doPut_refused {st : Nat} (hsrc : regionOf (localOf op.src) ≠ 62) (hcode : op.code ≠ 3)
    (hc : placeCheck s (localOf op.dst) op.len .write none = st) (hst : st ≠ stOK) :
    doPut s .plain op [] none = (s, .done st 0 []) := by
  simp [doPut, Origin.carries, hsrc, hc, hst, hcode]

theorem doPut_reads (hsrc : regionOf (localOf op.src) < 4)
    (hread : placeCheck s (localOf op.src) op.len .read none = stOK)
    (hdst : placeCheck s (localOf op.dst) op.len .write none = stOK)
    {r : State × List (Option Byte)} (hr : readBytes s (localOf op.src) op.len op.cls (sourceCluster op.source) = r)
    (hb : r.2 = bs.map some) : doPut s .plain op [] none = putBytes r.1 op (bs.map some) none := by
  subst hr
  have hne : regionOf (localOf op.src) ≠ 62 := by omega
  simp [doPut, Origin.carries, hne, hdst, opCluster, readAt_ok hsrc hread hb]

theorem putBytes_ok {t : State} (hne : bs ≠ []) (hcode : op.code ≠ 3)
    (hw : writeAt s (localOf op.dst) (bs.map some) none = (t, stOK, bs.length)) :
    putBytes s op (bs.map some) none = (t, .done stOK (BitVec.ofNat 64 bs.length) []) := by
  simp [putBytes, hne, hcode, hw]

/-- The increment of a PUT_SIGNAL comes after its bytes (R34). -/
theorem putBytes_signal_ok {t : State} {b : State × Nat} (hne : bs ≠ []) (hcode : op.code = 3)
    (hw : writeAt s (localOf op.dst) (bs.map some) none = (t, stOK, bs.length)) (hb : bump t op.signal true op.cls = b)
    (hst : b.2 = stOK) : putBytes s op (bs.map some) none = (b.1, .done stOK (BitVec.ofNat 64 bs.length) []) := by
  simp [putBytes, hne, hcode, hw, hb, hst]

theorem doAtomic_ok {old : Word} (hcross : crossesRegion (localOf op.dst) 8 = false)
    (hdst : regionOf (localOf op.dst) < 3)
    (hc : placeCheck s (localOf op.dst) 8 .atomic none = stOK)
    {r : State × List (Option Byte)} (hr : readBytes s (localOf op.dst) 8 op.cls (sourceCluster op.source) = r)
    (hb : r.2 = (wordBytes old).map some)
    {t : State} (ht : writeBytes r.1 (localOf op.dst) (wordBytes (atomicValue op.aop old op.operand op.compare)) = t)
    (hq : t.Quiet) : doAtomic s op = (t, .done stOK old []) := by
  subst hr ht
  have hne : regionOf (localOf op.dst) ≠ 62 := by omega
  have hread := readAt_ok (by omega) (placeCheck_read_of_ok hdst hc) hb
  simp [doAtomic, hcross, hne, hc, opCluster, hread, wordAt_wordBytes, settle_quiet _ hq]

/-- A WATCH whose buoy can be read completes with the outcome of its condition and the word, or waits, or finds no room
(R35, R36, R38). -/
theorem doWatch_ok {w : Word} (hc : buoyCheck s (localOf op.dst) = stOK)
    {r : State × List (Option Byte)} (hr : readBytes s (localOf op.dst) 8 op.cls (sourceCluster op.source) = r)
    (hb : r.2 = (wordBytes w).map some) :
    doWatch s op = (r.1, (watchCond w op.operand).elim
      (if 262144 ≤ watchCount r.1 then .done stNO_RESOURCE w [] else .watch) (fun st => .done st w [])) := by
  subst hr
  obtain ⟨hdst, hread⟩ := buoyCheck_ok hc
  have hat := readAt_ok (by omega) hread hb
  cases hw : watchCond w op.operand <;> simp [doWatch, hc, opCluster, hat, wordAt_wordBytes, hw]
  split_ifs <;> rfl

end

/-! ### Issue and completion of a plain operation (R33, R42) -/

section
variable {s : State} {op : Op}

theorem limitCheck_transfer (hcode : op.code = 1 ∨ op.code = 2 ∨ op.code = 3 ∧ nodeOf op.signal = nodeOf op.dst)
    (hsrc : nodeOf op.src = s.node) (hpos : 0 < op.len) (hmax : op.len ≤ 4096)
    (hd : crossesRegion (localOf op.dst) op.len = false) (hs : crossesRegion (localOf op.src) op.len = false) :
    limitCheck s .plain op = 0 := by
  rcases hcode with h | h | ⟨h, hsig⟩ <;> simp [limitCheck, h, hsrc, hd, hs] <;> omega

theorem startOp_home {p : PendingOp} (ho : p.origin = .plain) (hdata : p.data = []) (hcode : p.op.code < 6)
    (hlim : limitCheck s .plain p.op = 0) (hn : nodeOf p.op.dst = s.node) :
    startOp s p = afterPerf (homePerf s p.op) p := by
  have h7 : p.op.code ≠ 7 := by omega
  have h6 : p.op.code ≠ 6 := by omega
  have hsignal : Origin.plain ≠ .signal := nofun
  simp only [startOp, ho, hdata, hlim, h7, h6, hn, hsignal, ne_eq, not_true_eq_false, if_false, if_true]
  rfl

/-- An operation on this node that is behind no FENCE goes to its home at once. -/
theorem issue_home (hu : s.unfenced op.source) (hcode : op.code < 6)
    (hlim : limitCheck { s with nextTag := s.nextTag + 1 } .plain op = 0) (hn : nodeOf op.dst = s.node) :
    issue s .plain op [] =
      afterPerf (homePerf { s with nextTag := s.nextTag + 1 } op) ⟨s.nextTag, op, .plain, .queued, []⟩ :=
  (issue_plain s op hu).trans (startOp_home rfl rfl hcode hlim hn)

/-- An operation on this node that its home is done with completes. -/
theorem issue_done (hu : s.unfenced op.source) (hcode : op.code < 6)
    (hlim : limitCheck { s with nextTag := s.nextTag + 1 } .plain op = 0) (hn : nodeOf op.dst = s.node)
    {t : State} {st : Nat} {res : Word} (hp : homePerf { s with nextTag := s.nextTag + 1 } op = (t, .done st res []))
    (hq : t.Quiet) (hd : t.doneOk op.done) :
    issue s .plain op [] = bumpTo (t.completed op.source op.code st res) op.done (st == stOK) op.cls := by
  rw [issue_home hu hcode hlim hn, hp]
  exact complete_quiet t .plain op st res rfl hq hd

/-- A pending operation completes like one that is done at once, unless it waits for its DONE buoy or its part report. -/
theorem completeOp_plain {p : PendingOp} {st : Nat} {res : Word} (ho : p.origin = .plain)
    (hclosing : ∀ a b, p.phase ≠ .closing a b) (hreport : ∀ a b, p.phase ≠ .report a b) (hq : (s.dropOp p.tag).Quiet)
    (hd : s.doneOk p.op.done) :
    completeOp s p st res [] =
      bumpTo ((s.dropOp p.tag).completed p.op.source p.op.code st res) p.op.done (st == stOK) p.op.cls := by
  have hcomplete : completeOp s p st res [] = complete (s.dropOp p.tag) p.origin p.op st res [] := by
    unfold completeOp
    split
    · exact absurd ‹_› (hclosing _ _)
    · exact absurd ‹_› (hreport _ _)
    · rfl
  have hd' : (s.dropOp p.tag).doneOk p.op.done := (State.doneOk_congr (s := s) (t := s.dropOp p.tag) rfl rfl _).2 hd
  exact hcomplete.trans (complete_quiet _ _ _ _ _ ho hq hd')

end

end Sys2Proof.Machine
end

section
/-! PROOFS. GET, PUT, PUT_SIGNAL, ATOMIC and WATCH on this node (R22 to R25, R35 to R38, R475). -/

namespace Sys2Proof.Machine

/-! ### ATOMIC (R25) -/

/-- An ATOMIC on a word of T1 or T2 that may be addressed writes its new value and completes with the old one. -/
theorem issue_atomic {s : State} {op : Op} {old : Word} (hcode : op.code = 4) (haop : op.aop ≤ 6)
    (hu : s.unfenced op.source) (hn : nodeOf op.dst = s.node) (hcross : crossesRegion (localOf op.dst) 8 = false)
    (hdst : regionOf (localOf op.dst) < 3)
    (hc : placeCheck { s with nextTag := s.nextTag + 1 } (localOf op.dst) 8 .atomic none = stOK)
    {r : State × List (Option Byte)}
    (hr : readBytes { s with nextTag := s.nextTag + 1 } (localOf op.dst) 8 op.cls (sourceCluster op.source) = r)
    (hb : r.2 = (wordBytes old).map some)
    {t : State} (ht : writeBytes r.1 (localOf op.dst) (wordBytes (atomicValue op.aop old op.operand op.compare)) = t)
    (hq : t.Quiet) (hd : t.doneOk op.done) :
    issue s .plain op [] = bumpTo (t.completed op.source 4 stOK old) op.done true op.cls := by
  have hlim : limitCheck { s with nextTag := s.nextTag + 1 } .plain op = 0 := by simp [limitCheck, hcode]; omega
  have hperf : homePerf { s with nextTag := s.nextTag + 1 } op = (t, .done stOK old []) := by
    simpa [homePerf, hcode] using doAtomic_ok hcross hdst hc hr hb ht hq
  rw [issue_done hu (by omega) hlim hn hperf hq hd, hcode]
  rfl

/-- Settles O11: the seven operations differ in the value they write alone. -/
theorem atomicsReturnTheOldValue : Obligations.AtomicsReturnTheOldValue := by
  intro s h dst x c old la s1 r w t hu hn hdst hcross hc hb hsettled
  have hnext : ∀ (aop : Nat) (cmp : Word), aop ≤ 6 →
      .next (issue s .plain (opOf h 4 aop dst 0 8 x cmp 0) []) = t (atomicValue aop old x cmp) := fun aop cmp haop =>
    congrArg _ (issue_atomic (op := opOf h 4 aop dst 0 8 x cmp 0) rfl haop hu hn hcross hdst hc rfl hb rfl
      (hsettled _).1 (hsettled _).2)
  exact ⟨hnext 0 0 (by decide), hnext 1 0 (by decide), hnext 2 c (by decide), hnext 3 0 (by decide),
    hnext 4 0 (by decide), hnext 5 0 (by decide), hnext 6 0 (by decide)⟩

/-! ### GET, PUT and PUT_SIGNAL (R23, R24, R34) -/

/-- Settles O13: the checks pass, the bytes that are read are written, and the operation completes. -/
theorem getAndPutMoveBytes : Obligations.GetAndPutMoveBytes := by
  intro s h dst src sig bs s1 len ok cl hu hdn hsn hpos hmax hdc hsc
  have hne : bs ≠ [] := List.ne_nil_of_length_pos hpos
  refine ⟨?_, ?_⟩
  · intro r w hdst hread hb hsrc hbuf hwrite hq hd
    have hperf : homePerf s1 (opOf h 1 0 dst src len 0 0 0) = (w, .done stOK (BitVec.ofNat 64 len) []) :=
      doGet_ok (op := opOf h 1 0 dst src len 0 0 0) hdst hread hbuf rfl hb (writeAt_memory_ok hsrc hwrite hq)
    exact congrArg _ (issue_done (op := opOf h 1 0 dst src len 0 0 0) hu (show 1 < 6 by decide)
      (limitCheck_transfer (.inl rfl) hsn hpos hmax hdc hsc) hdn hperf hq hd)
  · intro r w b hdst hwcheck hb hsrc hread hwrite hq
    have hw := writeAt_memory_ok hdst hwrite hq
    refine ⟨fun hd => ?_, fun hsig hst hbq hd => ?_⟩
    · have hperf : homePerf s1 (opOf h 2 0 dst src len 0 0 0) = (w, .done stOK (BitVec.ofNat 64 len) []) :=
        (doPut_reads (op := opOf h 2 0 dst src len 0 0 0) hsrc hread hwcheck rfl hb).trans
          (putBytes_ok hne nofun hw)
      exact congrArg _ (issue_done (op := opOf h 2 0 dst src len 0 0 0) hu (show 2 < 6 by decide)
        (limitCheck_transfer (.inr (.inl rfl)) hsn hpos hmax hdc hsc) hdn hperf hq hd)
    · have hperf : homePerf s1 (opOf h 3 0 dst src len 0 0 sig) = (b.1, .done stOK (BitVec.ofNat 64 len) []) :=
        (doPut_reads (op := opOf h 3 0 dst src len 0 0 sig) hsrc hread hwcheck rfl hb).trans
          (putBytes_signal_ok hne rfl hw rfl hst)
      exact congrArg _ (issue_done (op := opOf h 3 0 dst src len 0 0 sig) hu (show 3 < 6 by decide)
        (limitCheck_transfer (.inr (.inr ⟨rfl, hsig.trans hdn.symm⟩)) hsn hpos hmax hdc hsc) hdn hperf hbq hd)

/-! ### WATCH (R35 to R38) -/

section
variable {s : State} {op : Op} {w : Word} {r : State × List (Option Byte)}
  (hcode : op.code = 5) (hu : s.unfenced op.source) (hn : nodeOf op.dst = s.node)
  (hc : buoyCheck { s with nextTag := s.nextTag + 1 } (localOf op.dst) = stOK)
  (hr : readBytes { s with nextTag := s.nextTag + 1 } (localOf op.dst) 8 op.cls (sourceCluster op.source) = r)
  (hb : r.2 = (wordBytes w).map some)
include hcode hu hn hc hr hb

/-- A WATCH whose condition has an outcome on arrival completes with it and the buoy's word (R35, R36). -/
theorem issue_watch_ends {st : Nat} (hw : watchCond w op.operand = some st) (hq : r.1.Quiet)
    (hd : r.1.doneOk op.done) :
    issue s .plain op [] = bumpTo (r.1.completed op.source 5 st w) op.done (st == stOK) op.cls := by
  have hperf : homePerf { s with nextTag := s.nextTag + 1 } op = (r.1, .done st w []) := by
    simpa [homePerf, hcode, hw] using doWatch_ok hc hr hb
  rw [issue_done hu (by omega) (by simp [limitCheck, hcode]) hn hperf hq hd, hcode]

/-- A WATCH whose condition has no outcome on arrival stays pending, counting from the present edge (R36, R37). -/
theorem issue_watch_waits (hw : watchCond w op.operand = none) (hroom : watchCount r.1 < 262144) :
    issue s .plain op [] = r.1.addOp ⟨s.nextTag, op, .plain, .watch r.1.lamp.counted, []⟩ := by
  have hperf : homePerf { s with nextTag := s.nextTag + 1 } op = (r.1, .watch) := by
    simpa [homePerf, hcode, hw, Nat.not_le.2 hroom] using doWatch_ok hc hr hb
  rw [issue_home hu (by omega) (by simp [limitCheck, hcode]) hn, hperf]
  rfl

/-- It completes with NO_RESOURCE where there is no room for it (R38). -/
theorem issue_watch_full (hw : watchCond w op.operand = none) (hfull : 262144 ≤ watchCount r.1) :
    issue s .plain op [] = complete r.1 .plain op stNO_RESOURCE w [] := by
  have hperf : homePerf { s with nextTag := s.nextTag + 1 } op = (r.1, .done stNO_RESOURCE w []) := by
    simpa [homePerf, hcode, hw, hfull] using doWatch_ok hc hr hb
  rw [issue_home hu (by omega) (by simp [limitCheck, hcode]) hn, hperf]
  rfl

end

/-- WATCH_TIMEOUT of a WATCH on this node's buoy, before LENGTH further edges have been counted and from then on (R37). -/
theorem exec_watchTimeout {s : State} {tag since : Nat} {p : PendingOp} (hfind : s.ops.find? (·.tag == tag) = some p)
    (hphase : p.phase = .watch since) (horigin : p.origin = .plain) (hlen : p.op.len ≠ 0) :
    exec (.watchTimeout tag) s = if s.lamp.counted < since + p.op.len then .next s
      else .next (release (completeOp s p stTIMEOUT (s.word (localOf p.op.dst)) [])) := by
  show execWatchTimeout tag s = _
  simp [execWatchTimeout, hfind, hphase, horigin, hlen, Origin.carries]

/-- Settles O14: the outcome on arrival, the wait, and the timeout. -/
theorem watchesWaitUntilTheirTimeout : Obligations.WatchesWaitUntilTheirTimeout := by
  refine ⟨?_, ?_⟩
  · intro s h dst x w edges la s1 r op hu hn hc hb
    refine ⟨fun st hst hq hd => ?_, fun hw hroom => ?_, fun hw hfull => ?_⟩
    · exact congrArg _ (issue_watch_ends (op := op) rfl hu hn hc rfl hb hst hq hd)
    · exact congrArg _ (issue_watch_waits (op := op) rfl hu hn hc rfl hb hw hroom)
    · exact congrArg _ (issue_watch_full (op := op) rfl hu hn hc rfl hb hw hfull)
  · intro s tag since p hfind hphase horigin hlen
    have hexec := exec_watchTimeout hfind hphase horigin hlen
    refine ⟨fun hearly => ?_, fun hdue hq hd => ?_⟩
    · rw [hexec, if_pos hearly]
    · rw [hexec, if_neg (Nat.not_lt.2 hdue), completeOp_plain horigin (by simp [hphase]) (by simp [hphase]) hq hd]
      rfl

/-- Settles O8: the condition of a WATCH gives WATCH_FAILED first, then OK, and else none, and the WATCH waits. -/
theorem watchConditionFollowsItsOperand : Obligations.WatchConditionFollowsItsOperand := by
  intro s h dst x w edges s1 r failed reached done hu hn hc hb
  have hends : ∀ st, watchCond w x = some st → r.1.Quiet → r.1.doneOk h.done →
      exec (.watch h dst x edges) s = done st := fun st hst hq hd =>
    congrArg _ (issue_watch_ends (op := opOf h 5 0 dst 0 edges x 0 0) rfl hu hn hc rfl hb hst hq hd)
  refine ⟨fun hq hd hf => ?_, fun hq hd hf hreach => ?_, fun hf hreach hroom => ?_⟩
  · exact hends _ (if_pos hf) hq hd
  · exact hends _ ((if_neg hf).trans (if_pos hreach)) hq hd
  · have hw : watchCond w x = none := (if_neg hf).trans (if_neg hreach)
    have hwait := issue_watch_waits (op := opOf h 5 0 dst 0 edges x 0 0) rfl hu hn hc rfl hb hw hroom
    exact ⟨_, congrArg Host.Outcome.next hwait, rfl, _, List.mem_append_right _ (List.mem_singleton_self _), rfl, rfl⟩

end Sys2Proof.Machine
end

section
/-! PROOFS. GET and PUT of the register space, and the writes of other nodes (R18, R21, R22, R475; log 159). -/

namespace Sys2Proof.Machine

/-! ### Where registers stand (R21) -/

/-- A row of the register map holds registers below its end. -/
theorem RegDesc.lt_of_covers {d : RegDesc} {off : Nat} (h : d.covers off = true) :
    off ≤ d.off + d.count * d.stride := by
  unfold RegDesc.covers at h
  split at h
  · have : off = d.off := by simpa using h
    omega
  · simp only [Bool.and_eq_true, decide_eq_true_eq, beq_iff_eq] at h
    obtain ⟨⟨hle, -⟩, hlt⟩ := h
    have := (Nat.div_lt_iff_lt_mul (by omega)).1 hlt
    omega

theorem regTable_end : ∀ d ∈ regTable, d.off + d.count * d.stride ≤ 0x400000 := by decide +kernel

/-- Every register stands in the first 4 MiB of the register space. -/
theorem findReg_lt {off : Nat} (h : findReg off ≠ none) : off ≤ 0x400000 := by
  obtain ⟨d, hd⟩ := Option.ne_none_iff_exists'.1 h
  rw [findReg] at hd
  have hcovers : d.covers off = true := (List.find?_some hd :)
  exact (RegDesc.lt_of_covers hcovers).trans (regTable_end d (List.mem_of_find?_eq_some hd))

theorem regBase_le {la : Nat} (h : regionOf la = 63) : regBase ≤ la := by
  rw [regionOf, Nat.shiftRight_eq_div_pow] at h
  rw [regBase]
  omega

/-! ### The checks in their order (R18, R22, R475) -/

/-- The checks of a read of the register space. -/
theorem placeCheck_regSpace_read (s : State) {la : Nat} (len : Nat) (h : regionOf la = 63) :
    placeCheck s la len .read none =
      if regBase + 2 ^ 32 < la + len then stUNMAPPED
      else if ¬ ((len = 4 ∨ len = 8) ∧ la % len = 0) then stALIGNMENT
      else if findReg (regOff la / 8 * 8) = none then stUNMAPPED
      else stOK := by
  simp only [placeCheck, h, regCheck, not_and_or, ne_eq, Option.isNone_iff_eq_none]

/-- A write of another node to a register is permitted outside the SEC block by the lifecycle, a D3 session or SEC_REMOTE
(R475). -/
theorem remoteWriteOk_iff (s : State) (node off : Nat) :
    remoteWriteOk s (some node) off = true ↔
      ¬ (0x50000 ≤ off ∧ off < 0x60000) ∧ (s.fld Reg.secStat 1 0 = 0 ∨ s.fld Reg.secDebug 1 0 = 3
        ∨ (s.bit Reg.secRemote 0 = true ∧ s.fld Reg.secRemote 25 16 = node)) := by
  unfold remoteWriteOk
  split_ifs with hsec <;> simp [hsec, or_assoc]

/-- Of a write of another node to a register, what is left to check is its right. -/
theorem placeCheck_remote_register (s : State) {la : Nat} (node : Nat) (hr : regionOf la = 63) (hal : la % 8 = 0)
    (hreg : findReg (regOff la) ≠ none) :
    placeCheck s la 8 .write (some node) = if remoteWriteOk s (some node) (regOff la) then stOK else stACCESS := by
  have hend : ¬ regBase + 2 ^ 32 < la + 8 := by
    have hlt : la - regBase ≤ 0x400000 := findReg_lt hreg
    have hle := regBase_le hr
    omega
  simp only [placeCheck, hr, if_neg hend]
  simp [regCheck, hal, hreg]

/-- A write of another node to a register is done, or refused with ACCESS and REMOTE_REFUSED (R475). -/
theorem registerWrite_remote (s : State) (src : Source) {la : Nat} (node : Nat) (v : Word) (hr : regionOf la = 63)
    (hal : la % 8 = 0) (hreg : findReg (regOff la) ≠ none) :
    registerWrite s src la (wordBytes v) (some node) =
      if remoteWriteOk s (some node) (regOff la) then (writeReg s (regOff la) v).completed src 2 stOK 8
      else (sticky s Reg.secErr 2 (some 197)).completed src 2 stACCESS 0 := by
  have hcheck := placeCheck_remote_register s node hr hal hreg
  split_ifs at hcheck ⊢ <;>
    simp [registerWrite, writeRegChecked, wordBytes_length, hcheck, wordAt_wordBytes, State.completed]

theorem exec_remoteRegisterWrite (s : State) (node : BitVec 10) {addr : Word} (v : Word) (hn : nodeOf addr = s.node)
    (hr : regionOf (localOf addr) = 63) (hnode : node.toNat ≠ s.node) :
    exec (.remoteRegisterWrite node addr 8 v) s =
      .next (registerWrite s (.remote node) (localOf addr) (wordBytes v) (some node.toNat)) := by
  show execRemoteRegisterWrite node addr 8 v s = _
  simp [execRemoteRegisterWrite, hn, hr, hnode, sliceB_wordBytes]

/-! ### GET and PUT (R22) -/

/-- A GET of the register space that the checks refuse completes with their status. -/
theorem issue_get_refused {s : State} {op : Op} {st : Nat} (hcode : op.code = 1) (hu : s.unfenced op.source)
    (hn : nodeOf op.dst = s.node) (hlim : limitCheck { s with nextTag := s.nextTag + 1 } .plain op = 0)
    (hr : regionOf (localOf op.dst) = 63)
    (hc : placeCheck { s with nextTag := s.nextTag + 1 } (localOf op.dst) op.len .read none = st) (hst : st ≠ stOK)
    (hq : ({ s with nextTag := s.nextTag + 1 } : State).Quiet)
    (hd : ({ s with nextTag := s.nextTag + 1 } : State).doneOk op.done) :
    issue s .plain op [] =
      bumpTo (({ s with nextTag := s.nextTag + 1 } : State).completed op.source 1 st 0) op.done false op.cls := by
  have hperf : homePerf { s with nextTag := s.nextTag + 1 } op =
      ({ s with nextTag := s.nextTag + 1 }, .done st 0 []) := by
    simpa [homePerf, hcode] using doGet_refused (by omega) hc hst
  rw [issue_done hu (by omega) hlim hn hperf hq hd, hcode, beq_false_of_ne hst]

/-- A PUT to the register space does what its checks say: nothing, or the write of the register. -/
theorem homePerf_put_register {s : State} {op : Op} {bs : List Byte} {st : Nat} (hcode : op.code = 2)
    (hlen : op.len = bs.length) (hdst : regionOf (localOf op.dst) = 63) (hsrc : regionOf (localOf op.src) < 4)
    (hc : placeCheck s (localOf op.dst) op.len .write none = st)
    (hread : placeCheck s (localOf op.src) op.len .read none = stOK)
    {r : State × List (Option Byte)} (hr : readBytes s (localOf op.src) op.len op.cls (sourceCluster op.source) = r)
    (hb : r.2 = bs.map some) :
    homePerf s op = (if st = stOK then writeReg r.1 (regOff (localOf op.dst)) (wordAt bs 0) else s,
      .done st (if st = stOK then 8 else 0) []) := by
  have hput : homePerf s op = doPut s .plain op [] none := by simp [homePerf, hcode]
  by_cases hst : st = stOK
  · subst hst
    have hspace := placeCheck_regSpace_write s op.len hdst
    have hsame : placeCheck r.1 (localOf op.dst) bs.length .write none = stOK := by
      rw [placeCheck_regSpace_write r.1 _ hdst, ← hlen, ← hspace, hc]
    have h8 : bs.length = 8 := by
      rw [hc, hlen, eq_comm, ite_status_eq_ok (by decide), ite_status_eq_ok (by decide)] at hspace
      exact not_not.1 hspace.2.1
    have hne : bs ≠ [] := List.ne_nil_of_length_pos (by omega)
    rw [hput, doPut_reads hsrc hread hc hr hb, putBytes_ok hne (by omega) (writeAt_register_ok hdst hsame),
      h8, if_pos rfl, if_pos rfl, BitVec.ofNat_eq_ofNat]
  · rw [hput, doPut_refused (by omega) (by omega) hc hst, if_neg hst, if_neg hst]

/-- Settles O9: the checks of a read and of a write come in their order, and the right of another node is the last. -/
theorem registerSpaceChecks : Obligations.RegisterSpaceChecks := by
  intro s h reg buf bs len node v s1 la off hnode hregion
  refine ⟨fun hu hbuf hq hd hpos hmax hcr hcb => ?_, ?_, fun hother hal hreg => ?_⟩
  · have hget : ∀ st, placeCheck s1 la len .read none = st → st ≠ stOK → exec (.get h reg buf len) s =
        .next (bumpTo (s1.completed h.source 1 st 0) h.done false h.cls.toNat) := fun st hc hst =>
      congrArg _ (issue_get_refused (op := opOf h 1 0 reg buf len 0 0 0) rfl hu hnode
        (limitCheck_transfer (.inl rfl) hbuf hpos hmax hcr hcb) hregion hc hst hq hd)
    have hcheck := placeCheck_regSpace_read s1 len hregion
    refine ⟨fun hin hform => hget _ ?_ (by decide), fun hbad => hget _ ?_ (by decide)⟩
    · rw [hcheck, if_neg (Nat.not_lt.2 hin), if_pos hform]
    · rw [hcheck]
      rcases hbad with hout | ⟨hlen, hal, hnone⟩
      · rw [if_pos hout]
      · rw [if_neg (not_not.2 ⟨hlen, hal⟩), if_pos hnone, ite_self]
  · intro r st w hu hbuf hsrc hpos hmax hcr hcb hread hb hq hd
    have hperf : homePerf s1 (opOf h 2 0 reg buf bs.length 0 0 0) = (w, .done st (if st = stOK then 8 else 0) []) :=
      homePerf_put_register (op := opOf h 2 0 reg buf bs.length 0 0 0) rfl rfl hregion hsrc
        (placeCheck_regSpace_write s1 bs.length hregion) hread rfl hb
    exact congrArg _ (issue_done (op := opOf h 2 0 reg buf bs.length 0 0 0) hu (show 2 < 6 by decide)
      (limitCheck_transfer (.inr (.inl rfl)) hbuf hpos hmax hcr hcb) hnode hperf hq hd)
  · rw [exec_remoteRegisterWrite s node v hnode hregion hother, registerWrite_remote s _ _ v hregion hal hreg]
    simp only [remoteWriteOk_iff]
    split_ifs <;> rfl

end Sys2Proof.Machine
end

section
/-! PROOFS. FENCE and COPY (R24, R42, R43, R47; log 13, log 173). -/

namespace Sys2Proof.Machine

/-- The operation that a command finds by its tag and its phase is in that phase. -/
theorem phase_of_find {s : State} {tag : Nat} {phase : Phase} {p : PendingOp}
    (h : s.ops.find? (fun q => q.tag == tag && q.phase == phase) = some p) : p.phase = phase := by
  have hp := List.find?_some h
  simp only [Bool.and_eq_true, beq_iff_eq] at hp
  exact hp.2

/-! ### FENCE (R42) -/

section
variable {s : State} {p : PendingOp}

theorem busyBefore_of_mem {q : PendingOp} (hq : q ∈ s.ops) (hsrc : q.op.source = p.op.source)
    (h : q.tag < p.tag ∨ q.phase.isClosing = true) : busyBefore s p = true := by
  simp only [busyBefore, List.any_eq_true, Bool.and_eq_true, beq_iff_eq, Bool.or_eq_true, decide_eq_true_eq]
  exact ⟨q, hq, hsrc, h⟩

theorem busyBefore_eq_false (h : ∀ q ∈ s.ops, q.op.source = p.op.source → p.tag ≤ q.tag ∧ q.phase.isClosing = false) :
    busyBefore s p = false := by
  simp only [busyBefore, List.any_eq_false, Bool.and_eq_true, beq_iff_eq, Bool.or_eq_true, decide_eq_true_eq]
  rintro q hq ⟨hsrc, hbefore⟩
  obtain ⟨htag, hclosing⟩ := h q hq hsrc
  rcases hbefore with hlt | hc
  · omega
  · simp [hclosing] at hc

/-- An operation of a source whose FENCE waits is queued behind it. -/
theorem issue_behind_fence {op : Op} {q : PendingOp} (hq : q ∈ s.ops) (hsrc : q.op.source = op.source)
    (htag : q.tag < s.nextTag) (hphase : q.phase = .fence) :
    issue s .plain op [] =
      { s with nextTag := s.nextTag + 1, ops := s.ops ++ [⟨s.nextTag, op, .plain, .queued, []⟩] } := by
  have hmust : mustQueue { s with nextTag := s.nextTag + 1 } ⟨s.nextTag, op, .plain, .queued, []⟩ = true := by
    have hany : s.ops.any (fun q => q.op.source == op.source && decide (q.tag < s.nextTag)
        && (q.phase == .fence || q.phase == .queued || q.origin.fetches
          || (q.phase == .hostWait && inOrder q.op op))) = true :=
      List.any_eq_true.2 ⟨q, hq, by simp [hsrc, htag, hphase]⟩
    simp [mustQueue, hany]
  exact if_pos hmust

/-- A FENCE completes at once, or waits for what its source issued before it. -/
theorem startOp_fence (ho : p.origin = .plain) (hcode : p.op.code = 7) :
    startOp s p = if busyBefore s p then s.addOp { p with phase := .fence } else complete s .plain p.op stOK 0 [] := by
  have hlim : limitCheck s .plain p.op = 0 := by simp [limitCheck, hcode]
  simp only [startOp, ho, hlim, hcode, ne_eq, not_true_eq_false, if_false, if_true]

theorem exec_fenceComplete {tag : Nat} (hfind : s.ops.find? (fun p => p.tag == tag && p.phase == .fence) = some p) :
    exec (.fenceComplete tag) s =
      if busyBefore s p then .next s else .next (release (completeOp s p stOK 0 [])) := by
  show execFenceComplete tag s = _
  simp [execFenceComplete, hfind]

end

/-- Settles O15: what is in flight holds a FENCE back, and a FENCE holds back what comes after it. -/
theorem fencesOrderTheirSource : Obligations.FencesOrderTheirSource := by
  refine ⟨fun s h => ⟨fun hnone hq hd => ?_, fun ⟨q, hq, hsrc, hbefore⟩ hu => ?_, fun tag p hfind => ⟨?_, ?_⟩⟩, ?_⟩
  · have hidle : busyBefore { s with nextTag := s.nextTag + 1 }
        ⟨s.nextTag, opOf h 7 0 0 0 0 0 0 0, .plain, .queued, []⟩ = false :=
      busyBefore_eq_false fun q hq hsrc => absurd hsrc (hnone q hq)
    have hfree : s.unfenced h.source := fun q hq hsrc => absurd hsrc (hnone q hq)
    have hissue := (issue_plain s (opOf h 7 0 0 0 0 0 0 0) hfree).trans (startOp_fence rfl rfl)
    rw [hidle, if_neg nofun, complete_quiet _ _ _ _ _ rfl hq hd] at hissue
    exact congrArg _ hissue
  · have hbusy : busyBefore { s with nextTag := s.nextTag + 1 }
        ⟨s.nextTag, opOf h 7 0 0 0 0 0 0 0, .plain, .queued, []⟩ = true :=
      busyBefore_of_mem hq hsrc hbefore
    exact congrArg _ ((issue_plain s (opOf h 7 0 0 0 0 0 0 0) hu).trans ((startOp_fence rfl rfl).trans (if_pos hbusy)))
  · rintro ⟨q, hq, hsrc, hbefore⟩
    rw [exec_fenceComplete hfind, if_pos (busyBefore_of_mem hq hsrc hbefore)]
  · intro hfirst horigin hq hd
    have hphase := phase_of_find hfind
    rw [exec_fenceComplete hfind, busyBefore_eq_false hfirst, if_neg nofun,
      completeOp_plain horigin (by simp [hphase]) (by simp [hphase]) hq hd]
    rfl
  · intro s h dst src x c len q hq hsrc htag hphase t
    have hqueued : ∀ op : Op, op.source = h.source → .next (issue s .plain op []) = t op := fun op hop =>
      congrArg _ (issue_behind_fence hq (hsrc.trans hop.symm) htag hphase)
    refine ⟨?_, ?_, ?_, ?_, ?_, ?_, ?_, ?_, ?_, ?_, ?_, ?_, ?_⟩ <;> exact hqueued _ rfl

/-! ### COPY (R47) -/

/-- A COPY whose ranges keep to their regions is taken, and asks another node or the host for its source. -/
theorem startOp_copy {s : State} {p : PendingOp} (ho : p.origin = .plain) (hcode : p.op.code = 6) (hpos : 0 < p.op.len)
    (hmax : p.op.len ≤ 0x40000000) (hd : crossesRegion (localOf p.op.dst) p.op.len = false)
    (hs : crossesRegion (localOf p.op.src) p.op.len = false) :
    startOp s p = State.addOp
      (if nodeOf p.op.src ≠ s.node then copyGets p.tag p.op (p.op.len / 4096 + 1) s 0
        else if regionOf (localOf p.op.src) = 62 then copyReads p.tag p.op (p.op.len / 65536 + 2) s 0 else s)
      { p with phase := .copy } := by
  have hlim : limitCheck s .plain p.op = 0 := by simp [limitCheck, hcode, hd, hs]; omega
  simp only [startOp, ho, hlim, hcode, ne_eq, not_true_eq_false, if_false, if_true, reduceCtorEq, Nat.reduceEqDiff]

/-- The one part of a COPY within this node's memory: its bytes are read and written (R43, R46). -/
theorem copyPart_memory {s : State} {p : PendingOp} {bs : List Byte} {c : CopyRun}
    (hdn : nodeOf p.op.dst = s.node) (hsn : nodeOf p.op.src = s.node) (hsrc : regionOf (localOf p.op.src) < 4)
    (hdst : regionOf (localOf p.op.dst) < 3) (hread : placeCheck s (localOf p.op.src) bs.length .read none = stOK)
    {r : State × List (Option Byte)}
    (hr : readBytes s (localOf p.op.src) bs.length p.op.cls (sourceCluster p.op.source) = r) (hb : r.2 = bs.map some)
    (hwrite : placeCheck r.1 (localOf p.op.dst) bs.length .write none = stOK)
    (hq : (writeBytes r.1 (localOf p.op.dst) bs).Quiet) :
    copyPart s p 0 bs.length c =
      (writeBytes r.1 (localOf p.op.dst) bs, { c with moved := c.moved + bs.length, parts := c.parts + 1 }) := by
  subst hr
  have haway : ¬ (nodeOf p.op.src ≠ s.node ∨ regionOf (localOf p.op.src) = 62) := by
    rintro (h | h)
    · exact h hsn
    · omega
  simp only [copyPart, BitVec.add_zero, if_neg haway, opCluster, readAt_ok hsrc hread hb,
    writeAt_memory_ok hdst hwrite hq, hdn]
  simp

/-- A COPY that lies within one part of DST ends with the bytes of that part. -/
theorem copyParts_one {p : PendingOp} {s t : State} {c d : CopyRun} (k : Nat) (hpos : 0 < p.op.len)
    (hpart : p.op.len ≤ 65536 - p.op.dst.toNat % 65536) (h : copyPart s p 0 p.op.len c = (t, d)) :
    copyParts p (k + 2) s 0 c = (t, d) := by
  have hn : partLen p.op 0 = p.op.len := by simp only [partLen, Nat.sub_zero, Nat.add_zero]; omega
  simp [copyParts, hn, h, Nat.not_le.2 hpos]

/-- Settles O16: a COPY is taken, and within one part its completion is a read, a write and the report to its issuer. -/
theorem copyMovesItsParts : Obligations.CopyMovesItsParts := by
  refine ⟨?_, ?_⟩
  · intro s h dst src report len op s1 t hu hpos hmax hd hs
    exact congrArg _ ((issue_plain s op hu).trans (startOp_copy rfl rfl hpos hmax hd hs))
  · intro s tag p bs remote dst src r w hfind horigin hsignal hlen hpos hpart hdn hsn hsrc hdst hread hb _ hwrite hq hd
    have hphase := phase_of_find hfind
    have hmoved : copyParts p (p.op.len / 65536 + 2) s 0 ⟨0, [], 0, remote⟩ = (w, ⟨0 + bs.length, [], 0 + 1, remote⟩) :=
      copyParts_one _ (hlen ▸ hpos) (hlen ▸ hpart)
        (by rw [hlen]; exact copyPart_memory hdn hsn hsrc hdst hread rfl hb hwrite hq)
    have hquiet : (w.dropOp p.tag).Quiet :=
      ⟨fun q hmem => hq.ops q (List.mem_filter.1 hmem).1, hq.strands, hq.sources⟩
    have hend := completeOp_plain (s := w) (st := stOK) (res := BitVec.ofNat 64 bs.length) horigin (by simp [hphase])
      (by simp [hphase]) hquiet hd
    show execCopyComplete tag remote s = _
    simp only [execCopyComplete, hfind, hmoved, endCopy, hsignal, List.isEmpty_nil, if_true, Nat.zero_add, hend]
    rfl

end Sys2Proof.Machine
end

section
/-! PROOFS. Packets that arrive, packets that are held, and the answers to operations on other nodes (R45, R385, R387 to
R390; log 13, log 140). -/

namespace Sys2Proof.Machine

/-! ### Packets that arrive (R385, R387) -/

section
variable {s : State} {l : Fin 8} {vl : Bool} {p : Packet}

/-- A packet below 32 hops whose route fails is dropped (R387, R389). -/
theorem forwardPacket_failed (h : p.hops.toNat < 31) {st : Nat}
    (hroute : (sendPacket s p.dst.toNat { p with hops := p.hops + 1 } vl false).2 = .failed st) :
    forwardPacket s p vl =
      dropPacket (sendPacket s p.dst.toNat { p with hops := p.hops + 1 } vl false).1 { p with hops := p.hops + 1 }
        st := by
  have hhops : ¬ 32 ≤ (p.hops + 1).toNat := by bv_omega
  simp only [forwardPacket, if_neg hhops, hroute]

/-- A packet below 32 hops whose route does not fail goes on its way, or waits for it (R387). -/
theorem forwardPacket_routed (h : p.hops.toNat < 31)
    (hroute : ∀ st, (sendPacket s p.dst.toNat { p with hops := p.hops + 1 } vl false).2 ≠ .failed st) :
    forwardPacket s p vl = (sendPacket s p.dst.toNat { p with hops := p.hops + 1 } vl false).1 := by
  have hhops : ¬ 32 ≤ (p.hops + 1).toNat := by bv_omega
  cases hres : (sendPacket s p.dst.toNat { p with hops := p.hops + 1 } vl false).2 with
  | failed st => exact absurd hres (hroute st)
  | sent => simp only [forwardPacket, if_neg hhops, hres]
  | held => simp only [forwardPacket, if_neg hhops, hres]

variable (hup : linkState s l.val = 2)
include hup

/-- A packet of another node is forwarded, unless it is a time exchange or of a reserved type. -/
theorem exec_packetArrive_forward (hdst : p.dst.toNat ≠ s.node)
    (htype : p.ptype.toNat ∈ [1, 2, 3, 4, 5, 6, 0x10, 0x11, 0x12]) :
    exec (.packetArrive l vl p) s = .next (forwardPacket s p vl) := by
  show execPacketArrive l vl p s = _
  simp only [List.mem_cons, List.not_mem_nil, or_false] at htype
  rcases htype with h | h | h | h | h | h | h | h | h <;> simp [execPacketArrive, hup, hdst, h]

/-- A request for this node is taken. -/
theorem exec_packetArrive_request (hdst : p.dst.toNat = s.node) (htype : p.ptype.toNat ∈ [1, 2, 3, 4, 5]) :
    exec (.packetArrive l vl p) s = .next (takeRequest s p) := by
  show execPacketArrive l vl p s = _
  simp only [List.mem_cons, List.not_mem_nil, or_false] at htype
  rcases htype with h | h | h | h | h <;> simp [execPacketArrive, hup, hdst, h]

/-- An answer, a confirm, a notice, a cancel or an exchange for this node is taken as the command of its name. -/
theorem exec_packetArrive_answer (hdst : p.dst.toNat = s.node) :
    (p.ptype = 0x10 → exec (.packetArrive l vl p) s = exec (.response p.tag p.status p.aux p.data) s) ∧
    (p.ptype = 0x11 → exec (.packetArrive l vl p) s = exec (.watchConfirm p.tag) s) ∧
    (p.ptype = 0x12 → exec (.packetArrive l vl p) s = exec (.failureNotice p.tag p.status) s) ∧
    (p.ptype = 0x06 → exec (.packetArrive l vl p) s = exec (.watchCancel p.src p.tag) s) ∧
    (p.ptype = 0x20 → exec (.packetArrive l vl p) s = exec (.exchangeReceive l p) s) := by
  have hexec : ∀ o, execPacketArrive l vl p s = o → exec (.packetArrive l vl p) s = o := fun _ h => h
  refine ⟨fun h => hexec _ ?_, fun h => hexec _ ?_, fun h => hexec _ ?_, fun h => hexec _ ?_, fun h => hexec _ ?_⟩ <;>
    simp [execPacketArrive, hup, hdst, h] <;> rfl

/-- A packet of a reserved type is dropped and counted. -/
theorem exec_packetArrive_reserved (h : p.ptype.toNat = 0 ∨ 6 < p.ptype.toNat ∧ p.ptype.toNat < 0x10) :
    exec (.packetArrive l vl p) s = .next (s.satFld Reg.fabDrops 31 0 1) := by
  show execPacketArrive l vl p s = _
  have hreserved : p.ptype.toNat = 0 ∨ 5 < p.ptype.toNat := by omega
  unfold execPacketArrive
  rw [if_neg (not_not.2 hup)]
  split
  iterate 5 · omega
  · exact if_pos hreserved

/-- A time exchange is never forwarded (R385). -/
theorem exec_packetArrive_exchange_of_other (hdst : p.dst.toNat ≠ s.node) (h : p.ptype = 0x20) :
    exec (.packetArrive l vl p) s = .next s := by
  show execPacketArrive l vl p s = _
  simp [execPacketArrive, hup, hdst, h]

end

/-- A request is issued as its operation; a PUT_SIGNAL without data is the bare increment of a buoy (log 13). -/
theorem takeRequest_operation {s : State} {p : Packet} (h : ¬ (p.ptype = 3 ∧ p.data = [])) :
    takeRequest s p = issue s (.packet p.src.toNat p.tag.toNat (p.ctl.toNat % 4)) (packetOp p) p.data := if_neg h

theorem takeRequest_increment {s : State} {p : Packet} (ht : p.ptype = 3) (hd : p.data = []) :
    let b := bump s p.aux (p.status = 0) (p.ctl.toNat % 4)
    takeRequest s p = respond b.1 p.src.toNat p.tag.toNat (p.ctl.toNat % 4) 0x10 b.2 0 [] := if_pos ⟨ht, hd⟩

/-! ### Packets that are held (R387, R388) -/

theorem exec_holdTimeout {s : State} {dst : BitVec 10} {h : Held}
    (hfind : s.fab.held.find? (·.dst == dst.toNat) = some h)
    (hwait : dst.toNat ∉ s.fab.altWait) :
    let free := { s with fab := { s.fab with held := s.fab.held.erase h } }
    exec (.holdTimeout dst) s =
      .next (if h.own = true then failOwn free h.pkt.tag stLINK_FAILED else dropPacket free h.pkt stLINK_FAILED) := by
  show execHoldTimeout dst s = _
  simp [execHoldTimeout, hfind, hwait]

theorem exec_altWaitEnd {s : State} {dst : BitVec 10} (hwait : dst.toNat ∈ s.fab.altWait) :
    exec (.altWaitEnd dst) s =
      .next (sendHeld { s with fab := { s.fab with altWait := s.fab.altWait.filter (· != dst.toNat) } }) := by
  show execAltWaitEnd dst s = _
  simp [execAltWaitEnd, hwait]

/-! ### Answers to operations on other nodes (R45, R385, R389, R390) -/

section
variable {s : State} {tag : BitVec 32}

/-- A late answer that is of no COPY is counted (R389). -/
theorem lateAnswer_counted (htag : tag ≠ 0) (h : ∀ q ∈ s.ops, BitVec.ofNat 32 q.tag = tag → q.phase ≠ .copy) :
    lateAnswer s tag = s.satFld Reg.fabDrops 63 32 1 := by
  have hcopy : s.ops.any (fun q => BitVec.ofNat 32 q.tag == tag && q.phase == .copy) = false := by
    simpa [List.any_eq_false] using h
  refine if_neg ?_
  rintro (hzero | hany)
  · exact htag hzero
  · rw [hcopy] at hany
    exact Bool.false_ne_true hany

variable {p : PendingOp}

theorem exec_failureNotice (hsent : sentOp s tag = some p) (status : Byte) :
    exec (.failureNotice tag status) s = .next (failOp s p status.toNat) := by
  show execFailureNotice tag status s = _
  simp only [execFailureNotice, hsent]

theorem exec_failureNotice_late (hsent : sentOp s tag = none) (status : Byte) :
    exec (.failureNotice tag status) s = .next (lateAnswer s tag) := by
  show execFailureNotice tag status s = _
  simp only [execFailureNotice, hsent]

theorem exec_response (hsent : sentOp s tag = some p) (status : Byte) (aux : Word) (data : List Byte) :
    exec (.response tag status aux data) s = .next (release (answerOp s p status.toNat aux data)) := by
  show execResponse tag status aux data s = _
  simp only [execResponse, takeResponse, hsent]

theorem exec_response_late (hsent : sentOp s tag = none) (status : Byte) (aux : Word) (data : List Byte) :
    exec (.response tag status aux data) s = .next (lateAnswer s tag) := by
  show execResponse tag status aux data s = _
  simp only [execResponse, takeResponse, hsent]

theorem exec_responseTimeout (hsent : sentOp s tag = some p) {n : Nat} (hphase : p.phase = .sent n) :
    exec (.responseTimeout tag) s = .next (release (failOp s p stLINK_FAILED)) := by
  show execResponseTimeout tag s = _
  simp only [execResponseTimeout, hsent, hphase]

theorem exec_watchConfirm (hsent : sentOp s tag = some p) {n since : Nat} {c : Option Nat}
    (hphase : p.phase = .remoteWatch n c since) :
    exec (.watchConfirm tag) s = .next { s with ops := s.ops.map (fun q =>
      if q.tag == p.tag then { q with phase := .remoteWatch n (some s.lamp.counted) since } else q) } := by
  show execWatchConfirm tag s = _
  simp only [execWatchConfirm, hsent, hphase]

theorem exec_watchConfirmLoss (hsent : sentOp s tag = some p) {n c since : Nat}
    (hphase : p.phase = .remoteWatch n (some c) since) (hdue : c + 32 ≤ s.lamp.counted) :
    let u := failOp s p stLINK_FAILED
    exec (.watchConfirmLoss tag) s =
      .next (sendPacket u n (ownPacket u 0x06 p.op.cls 0 n p.op.dst 0 tag.toNat 0 []) false false).1 := by
  show execWatchConfirmLoss tag s = _
  simp only [execWatchConfirmLoss, hsent, hphase, if_pos hdue]

/-- An operation that is sent, or held here, waits neither for its DONE buoy nor for its part report. -/
theorem phase_of_sent (h : ∃ n, p.phase = .sent n ∨ ∃ e, p.phase = .held n e) :
    (∀ a b, p.phase ≠ .closing a b) ∧ ∀ a b, p.phase ≠ .report a b := by
  obtain ⟨n, h | ⟨e, h⟩⟩ := h <;> simp [h]

/-- A PUT takes its response: RESULT is its length, or what the response says of its failure (R385). -/
theorem answerOp_put (hcode : p.op.code = 2)
    (hphase : ∃ n, p.phase = .sent n ∨ ∃ e, p.phase = .held n e) (st : Nat) (aux : Word) (data : List Byte) :
    answerOp s p st aux data = completeOp s p st (if st = stOK then BitVec.ofNat 64 p.op.len else aux) [] := by
  obtain ⟨hclosing, hreport⟩ := phase_of_sent hphase
  unfold answerOp
  split
  · exact absurd ‹_› (hclosing _ _)
  · exact absurd ‹_› (hreport _ _)
  · simp only [answerSent, hcode]

variable (hcode : p.op.code = 2) (ho : p.origin = .plain) (hphase : ∃ n, p.phase = .sent n ∨ ∃ e, p.phase = .held n e)
  (hq : (s.dropOp p.tag).Quiet) (hd : s.doneOk p.op.done)
include hcode ho hphase hq hd

/-- A PUT on another node ends like one that is done at once. -/
theorem completeOp_put (st : Nat) (res : Word) : completeOp s p st res [] =
    bumpTo ((s.dropOp p.tag).completed p.op.source 2 st res) p.op.done (st == stOK) p.op.cls := by
  obtain ⟨hclosing, hreport⟩ := phase_of_sent hphase
  rw [completeOp_plain ho hclosing hreport hq hd, hcode]

/-- A PUT that fails ends with RESULT 0, but for one that was lost, which may have taken effect (R45; log 140). -/
theorem failOp_put (st : Nat) : failOp s p st = if st = stLINK_FAILED
    then bumpTo ((s.bumpFree.dropOp p.tag).completed p.op.source 2 stLINK_FAILED
      (BitVec.ofNat 64 (Config.freeBelow s.freeCtr (p.op.len + 1)))) p.op.done false p.op.cls
    else bumpTo ((s.dropOp p.tag).completed p.op.source 2 st 0) p.op.done (st == stOK) p.op.cls := by
  split_ifs with hst
  · subst hst
    have hopen : openResult s p.op stLINK_FAILED =
        (s.bumpFree, BitVec.ofNat 64 (Config.freeBelow s.freeCtr (p.op.len + 1))) := by simp [openResult, hcode]
    rw [failOp, hopen]
    exact completeOp_put (s := s.bumpFree) hcode ho hphase ⟨hq.ops, hq.strands, hq.sources⟩
      ((State.doneOk_congr (s := s) (t := s.bumpFree) rfl rfl _).2 hd) _ _
  · have hopen : openResult s p.op st = (s, 0) := by simp [openResult, hcode, hst]
    rw [failOp, hopen]
    exact completeOp_put hcode ho hphase hq hd _ _

end

/-- Settles O47: each packet is what its type and destination say, and each answer ends the operation it names. -/
theorem packetsAreRoutedHeldAndAnswered : Obligations.PacketsAreRoutedHeldAndAnswered := by
  refine ⟨fun s l vl p hup => ⟨fun hdst => ⟨fun htype => ?_, fun htype hdata => ?_, exec_packetArrive_answer hup hdst⟩,
    fun hdst => ⟨fun htype hhops => ?_, exec_packetArrive_exchange_of_other hup hdst⟩,
    exec_packetArrive_reserved hup⟩, ?_⟩
  · have hrequest : p.ptype.toNat ∈ [1, 2, 3, 4, 5] ∧ ¬ (p.ptype = 3 ∧ p.data = []) := by
      rcases htype with h | ⟨h, hdata⟩
      · have hne : p.ptype ≠ 3 := by rintro h3; simp [h3] at h
        simp only [List.mem_cons, List.not_mem_nil, or_false] at h ⊢
        exact ⟨by tauto, fun h3 => hne h3.1⟩
      · exact ⟨by simp [h], fun h3 => hdata h3.2⟩
    rw [exec_packetArrive_request hup hdst hrequest.1, takeRequest_operation hrequest.2]
  · rw [exec_packetArrive_request hup hdst (by simp [htype]), takeRequest_increment htype hdata]
  · refine ⟨fun st hst => ?_, fun hst => ?_⟩
    · rw [exec_packetArrive_forward hup hdst htype, forwardPacket_failed hhops hst]
    · rw [exec_packetArrive_forward hup hdst htype, forwardPacket_routed hhops hst]
  · intro s dst h tag p status aux data drop free
    refine ⟨exec_holdTimeout, exec_altWaitEnd, fun hsent htag hcopy => ?_, ?_,
      fun n c since hsent hphase => exec_watchConfirm hsent hphase,
      fun n c since hsent hphase hdue => exec_watchConfirmLoss hsent hphase hdue, fun node => rfl⟩
    · rw [← lateAnswer_counted htag hcopy]
      exact ⟨exec_failureNotice_late hsent status, exec_response_late hsent status aux data⟩
    · intro hsent hcode ho hphase hq hd done lost
      have hd' : s.doneOk p.op.done := (State.doneOk_congr (s := s) (t := drop p) rfl rfl _).1 hd
      have hlost : failOp s p stLINK_FAILED = lost := (failOp_put hcode ho hphase hq hd' _).trans (if_pos rfl)
      refine ⟨?_, ?_, fun n hn => ?_⟩
      · rw [exec_failureNotice hsent]
        exact congrArg _ (failOp_put hcode ho hphase hq hd' _)
      · rw [exec_response hsent, answerOp_put hcode hphase]
        exact congrArg (fun t => Host.Outcome.next (release t)) (completeOp_put hcode ho hphase hq hd' _ _)
      · rw [exec_responseTimeout hsent hn, hlost]

end Sys2Proof.Machine
end

section
/-! PROOFS. The step: the command in front of the queue, or a tick of the time clock (R52, R316; log 2, log 187). -/

namespace Sys2Proof.Machine

section
variable {s : State}

/-- With no operation waiting to go on, nothing is started. -/
theorem release_of_none_queued (h : ∀ p ∈ s.ops, p.phase ≠ .queued) : release s = s := by
  have hnone : s.ops.filter (·.phase == .queued) = [] := by
    rw [List.filter_eq_nil_iff]
    intro p hp
    simpa using h p hp
  simp [release, hnone]

/-- The media errors that arise and the free values that they take are all that changes. -/
theorem mediaArrives_eq (s : State) : mediaArrives s = { s with
    tier := { s.tier with media := (mediaArrives s).tier.media }, freeCtr := (mediaArrives s).freeCtr } := by
  unfold mediaArrives
  extract_lets w v u
  split
  · rfl
  · split <;> rfl

/-- With no operation waiting to go on, an idle step is the tick and the media errors that arise in it. -/
theorem idle_of_none_queued (h : ∀ p ∈ (idleTick s).ops, p.phase ≠ .queued) : idle s = mediaArrives (idleTick s) := by
  refine release_of_none_queued ?_
  rw [mediaArrives_eq]
  exact h

theorem idleTick_stopped (hrun : s.tim.running = false) : idleTick s = s := by
  simp [idleTick, tickTime, edgeDue, lampOn, hrun]

/-- A tick without a pending step carries the counter on by TIM_INC (R316). -/
theorem tickTime_running (hrun : s.tim.running = true) (hstep : s.tim.step = none) :
    tickTime s =
      let c := timeAfter s.tim.n s.tim.f (s.fld Reg.timInc 39 0) 1
      { s with tim := { s.tim with n := c.1, f := c.2, ticks := s.tim.ticks + 1 } } := by
  simp [tickTime, hrun, applyStep, hstep]

theorem idleTick_running (hdue : edgeDue (tickTime s) = false) : idleTick s = tickTime s := by
  simp [idleTick, hdue]

end

/-- Settles O1: a step takes the front command off the queue, and on an empty queue it is a tick with the media errors that
arise in it. -/
theorem stepRunsTheFrontCommand : Obligations.StepRunsTheFrontCommand := by
  refine ⟨fun c s => rfl, fun s hempty => ⟨idle s, ?_, ?_, fun hqueued => ⟨fun hrun => ?_, fun hrun hstep hdue => ?_⟩⟩⟩
  · simp [step, hempty]
  · exact (idle_keeps (.refl s)).pending.trans hempty
  · have htick := idleTick_stopped hrun
    rw [idle_of_none_queued (by rwa [htick]), htick]
    exact mediaArrives_eq s
  · have htick := (idleTick_running hdue).trans (tickTime_running hrun hstep)
    rw [idle_of_none_queued (by rwa [htick]), htick]
    exact mediaArrives_eq _

end Sys2Proof.Machine
end

section
/-! PROOFS. The Lamp: LMP_CTL, LMP_RESV and its edges (R51 to R56, R70, R71, R514). -/

namespace Sys2Proof.Machine

/-! ### LMP_CTL (R51, R54) -/

/-- A period as LMP_CTL takes it, held to its limits (R51). -/
abbrev heldPeriod (ns : Nat) : Nat := clampN ns 100000 100000000

/-- LMP_CTL takes a period and RUN. -/
def State.setLamp (s : State) (per : Nat) (run : Bool) : State :=
  (s.setFld Reg.lmpCtl 34 8 per).setBit Reg.lmpCtl 0 run

section
variable {s : State}

theorem heldPeriod_lt (ns : Nat) : heldPeriod ns < 2 ^ 27 := by
  simp only [heldPeriod, clampN]
  split_ifs <;> omega

theorem State.setLamp_reg (hs : kvWf regReset s.regs = true) {o : Nat} (per : Nat) (run : Bool) (ho : o ≠ Reg.lmpCtl) :
    (s.setLamp per run).reg o = s.reg o := by
  rw [State.setLamp, State.reg_setBit_ne (State.setFld_wf hs ..) _ _ ho, State.reg_setFld_ne hs _ _ _ ho]

theorem State.setLamp_run (hs : kvWf regReset s.regs = true) (per : Nat) (run : Bool) :
    (s.setLamp per run).bit Reg.lmpCtl 0 = run :=
  State.bit_setBit (State.setFld_wf hs ..) _ _ _ (by decide)

theorem State.setBit_run_period (hs : kvWf regReset s.regs = true) (run : Bool) :
    lampPeriod (s.setBit Reg.lmpCtl 0 run) = lampPeriod s := by
  rw [lampPeriod, State.fld, State.reg_setBit hs, if_pos rfl,
    bitsOf_putBits_ne _ _ _ _ _ _ (by decide) (by decide) (.inr (by decide))]
  rfl

theorem State.setLamp_period (hs : kvWf regReset s.regs = true) (ns : Nat) (run : Bool) :
    lampPeriod (s.setLamp (heldPeriod ns) run) = heldPeriod ns := by
  rw [State.setLamp, State.setBit_run_period (State.setFld_wf hs ..), lampPeriod,
    State.fld_setFld hs _ _ _ _ (by decide) (by decide)]
  exact Nat.mod_eq_of_lt (heldPeriod_lt ns)

/-- A write that changes RUN, or is made while the Lamp stands, takes the period (R51, R54). -/
theorem writeLmpCtl_taken {v : Word} (h : s.bit Reg.lmpCtl 0 = false ∨ bitOf v 0 = false) :
    writeLmpCtl s v =
      let t := s.setLamp (heldPeriod (bitsOf v 34 8)) (bitOf v 0)
      if bitOf v 0 then restartLamp t else if s.bit Reg.lmpCtl 0 then applyPower t else t := by
  have hboth : (s.bit Reg.lmpCtl 0 && bitOf v 0) = false := by rcases h with h | h <;> simp [h]
  simp only [writeLmpCtl, hboth, State.setLamp]
  rcases h with h | h <;> simp [h]

/-- While the Lamp runs, another period is refused (R51). -/
theorem writeLmpCtl_refused {v : Word} (hrun : s.bit Reg.lmpCtl 0 = true) (hrun' : bitOf v 0 = true)
    (hper : heldPeriod (bitsOf v 34 8) ≠ lampPeriod s) :
    writeLmpCtl s v = (s.setBit Reg.lmpStatus 3 true).setBit Reg.lmpCtl 0 true := by
  simp [writeLmpCtl, hrun, hrun', hper]

/-- LAMP_RUN writes RUN alone. -/
theorem exec_lampRun (run : Bool) : ∃ v : Word, exec (.lampRun run) s = .next (writeLmpCtl s v) ∧
    bitOf v 0 = run ∧ bitsOf v 34 8 = lampPeriod s :=
  ⟨_, rfl, bitOf_putBits _ _ _ (by decide), bitsOf_putBits_ne _ _ _ _ _ _ (by decide) (by decide) (.inr (by decide))⟩

/-- LAMP_PERIOD_SET writes PERIOD_NS alone. -/
theorem exec_lampPeriodSet {ns : Nat} (hns : ns < 2 ^ 27) : ∃ v : Word,
    exec (.lampPeriodSet ns) s = .next (writeLmpCtl s v) ∧ bitOf v 0 = s.bit Reg.lmpCtl 0 ∧ bitsOf v 34 8 = ns := by
  refine ⟨_, rfl, bitOf_putBits_ne _ _ _ _ _ (by decide) (by decide) (.inl (by decide)), ?_⟩
  rw [bitsOf_putBits _ _ _ _ (by decide) (by decide)]
  omega

theorem exec_lampRun_start (hrun : s.bit Reg.lmpCtl 0 = false) :
    exec (.lampRun true) s = .next (restartLamp (s.setLamp (heldPeriod (lampPeriod s)) true)) := by
  obtain ⟨v, hexec, hbit, hper⟩ := exec_lampRun (s := s) true
  rw [hexec, writeLmpCtl_taken (.inl hrun), hbit, hper]
  rfl

theorem exec_lampRun_stop (hrun : s.bit Reg.lmpCtl 0 = true) :
    exec (.lampRun false) s = .next (applyPower (s.setLamp (heldPeriod (lampPeriod s)) false)) := by
  obtain ⟨v, hexec, hbit, hper⟩ := exec_lampRun (s := s) false
  rw [hexec, writeLmpCtl_taken (.inr hbit), hbit, hper, hrun]
  rfl

theorem exec_lampPeriodSet_stopped {ns : Nat} (hns : ns < 2 ^ 27) (hrun : s.bit Reg.lmpCtl 0 = false) :
    exec (.lampPeriodSet ns) s = .next (s.setLamp (heldPeriod ns) false) := by
  obtain ⟨v, hexec, hbit, hper⟩ := exec_lampPeriodSet (s := s) hns
  rw [hexec, writeLmpCtl_taken (.inl hrun), hbit, hper, hrun]
  rfl

theorem exec_lampPeriodSet_running {ns : Nat} (hns : ns < 2 ^ 27) (hrun : s.bit Reg.lmpCtl 0 = true)
    (hne : heldPeriod ns ≠ lampPeriod s) :
    exec (.lampPeriodSet ns) s = .next ((s.setBit Reg.lmpStatus 3 true).setBit Reg.lmpCtl 0 true) := by
  obtain ⟨v, hexec, hbit, hper⟩ := exec_lampPeriodSet (s := s) hns
  rw [hexec, writeLmpCtl_refused hrun (hbit.trans hrun) (by rwa [hper])]

end

/-! ### LMP_RESV (R71) -/

/-- Byte `i` of the number that bytes spell (R3). -/
theorem leNat_byte (bs : List Byte) (i : Nat) : leNat bs >>> (8 * i) % 2 ^ 8 = (bs.getD i 0).toNat := by
  induction bs generalizing i with
  | nil => simp [leNat]
  | cons b bs ih =>
    have hb := b.isLt
    cases i with
    | zero => simp only [leNat, Nat.mul_zero, Nat.shiftRight_zero, List.getD_cons_zero]; omega
    | succ i =>
      have hshift : leNat (b :: bs) >>> (8 * (i + 1)) = leNat bs >>> (8 * i) := by
        rw [Nat.mul_succ, Nat.add_comm, Nat.shiftRight_add, leNat]
        congr 1
        rw [Nat.shiftRight_eq_div_pow]
        omega
      rw [hshift, ih, List.getD_cons_succ]

/-- Byte `i` of the word that bytes spell. -/
theorem bitsOf_leNat_byte (bs : List Byte) {i : Nat} (hi : i < 8) :
    bitsOf (BitVec.ofNat 64 (leNat bs)) (8 * i + 7) (8 * i) = (bs.getD i 0).toNat := by
  rw [← leNat_byte]
  apply Nat.eq_of_testBit_eq
  intro j
  rw [bitsOf_testBit, Nat.testBit_mod_two_pow, Nat.testBit_shiftRight, BitVec.getLsbD_ofNat]
  by_cases hj : j < 8
  · simp [hj, show j < 8 * i + 7 + 1 - 8 * i by omega, show 8 * i + j < 64 by omega]
  · simp [hj, show ¬ j < 8 * i + 7 + 1 - 8 * i by omega]

theorem writeLmpResv_fld {s : State} (hs : kvWf regReset s.regs = true) (v : Word) {i : Nat} (hi : i < 8) :
    (writeLmpResv s v).fld Reg.lmpResv (8 * i + 7) (8 * i) = min 40 (bitsOf v (8 * i + 7) (8 * i)) := by
  rw [writeLmpResv, State.fld, State.reg_setReg_ne (State.setReg_wf hs ..) _ (by decide), State.reg_setReg hs, if_pos rfl,
    bitsOf_leNat_byte _ hi]
  simp [List.getD_eq_getElem?_getD, hi]

theorem writeLmpResv_reg {s : State} (hs : kvWf regReset s.regs = true) (v : Word) {o : Nat}
    (ho : o ∉ [Reg.lmpResv, Reg.lmpResvExceed]) : (writeLmpResv s v).reg o = s.reg o := by
  simp only [List.mem_cons, List.not_mem_nil, or_false, not_or] at ho
  rw [writeLmpResv, State.reg_setReg_ne (State.setReg_wf hs ..) _ ho.2, State.reg_setReg_ne hs _ ho.1]

theorem writeLmpResv_exceed {s : State} (hs : kvWf regReset s.regs = true) (v : Word) :
    (writeLmpResv s v).reg Reg.lmpResvExceed = 0 := by
  rw [writeLmpResv, State.reg_setReg (State.setReg_wf hs ..), if_pos rfl]

/-- Settles O17: each setting is a write of LMP_CTL or of LMP_RESV, whose fields lie apart. -/
theorem lampSettings : Obligations.LampSettings := by
  intro s ns v hinv hns
  have hs := hinv.canon.regs
  have hctl : ∀ per run, ∀ o, o ∉ [Reg.lmpCtl] → (s.setLamp per run).reg o = s.reg o := fun per run o ho =>
    State.setLamp_reg hs per run (by simpa using ho)
  refine ⟨fun hrun => ⟨⟨_, exec_lampRun_start hrun, rfl, hctl _ _, State.setLamp_run hs _ _, State.setLamp_period hs _ _, ?_⟩,
      ⟨_, exec_lampPeriodSet_stopped hns hrun, rfl, hctl _ _, State.setLamp_run hs _ _, State.setLamp_period hs _ _⟩⟩,
    fun hrun => ⟨⟨_, exec_lampRun_stop hrun, rfl, hctl _ _, State.setLamp_run hs _ _⟩, fun hne => ?_⟩,
    ⟨_, rfl, rfl, fun o ho => writeLmpResv_reg hs v ho, writeLmpResv_exceed hs v, fun i hi => writeLmpResv_fld hs v hi⟩⟩
  · have hedge : lampEdgeNo (s.setLamp (heldPeriod (lampPeriod s)) true) = lampEdgeNo s :=
      congrArg BitVec.toNat (hctl _ _ _ (by decide))
    rw [← hedge]
    rfl
  · have hstat : kvWf regReset (s.setBit Reg.lmpStatus 3 true).regs = true := State.setBit_wf hs ..
    refine ⟨_, exec_lampPeriodSet_running hns hrun hne, rfl, fun o ho => ?_, ?_, ?_, State.bit_setBit hstat _ _ _ (by decide)⟩
    · simp only [List.mem_cons, List.not_mem_nil, or_false, not_or] at ho
      rw [State.reg_setBit_ne hstat _ _ ho.2, State.reg_setBit_ne hs _ _ ho.1]
    · rw [State.bit, State.reg_setBit_ne hstat _ _ (by decide)]
      exact State.bit_setBit hs _ _ _ (by decide)
    · rw [State.setBit_run_period hstat, lampPeriod, State.fld, State.reg_setBit_ne hs _ _ (by decide)]
      rfl

/-! ### LAMP_EDGE (R52, R55, R56, R70) -/

/-- What an edge shows in the registers: its number, and the edges passed over (R52, R55). -/
def State.showEdge (s : State) (edge gone : Nat) : State :=
  let s := s.setReg Reg.lmpEdge (BitVec.ofNat 64 edge)
  if gone = 0 then s else (count s Reg.lmpSkipCount gone).setBit Reg.lmpStatus 1 true

section
variable {s : State}

theorem count_wf (hs : kvWf regReset s.regs = true) (off n : Nat) : kvWf regReset (count s off n).regs = true :=
  State.setReg_wf hs ..

theorem count_reg_same (hs : kvWf regReset s.regs = true) (off n : Nat) :
    (count s off n).reg off = s.reg off + BitVec.ofNat 64 n := by
  rw [count, State.reg_setReg hs, if_pos rfl]

theorem count_reg_ne (hs : kvWf regReset s.regs = true) {off o : Nat} (n : Nat) (ho : o ≠ off) :
    (count s off n).reg o = s.reg o := State.reg_setReg_ne hs _ ho

theorem State.showEdge_next_reg (hs : kvWf regReset s.regs = true) (edge : Nat) {o : Nat} (ho : o ≠ Reg.lmpEdge) :
    (s.showEdge edge 0).reg o = s.reg o := State.reg_setReg_ne hs _ ho

theorem State.showEdge_passedOver {edge gone : Nat} (hg : gone ≠ 0) : s.showEdge edge gone =
    (count (s.setReg Reg.lmpEdge (BitVec.ofNat 64 edge)) Reg.lmpSkipCount gone).setBit Reg.lmpStatus 1 true := if_neg hg

/-- A register that neither LMP_SKIP_COUNT nor LMP_STATUS is reads as the edge number alone leaves it. -/
theorem State.showEdge_reg_setReg (hs : kvWf regReset s.regs = true) (edge gone : Nat) {o : Nat}
    (hstat : o ≠ Reg.lmpStatus) (hskip : o ≠ Reg.lmpSkipCount) :
    (s.showEdge edge gone).reg o = (s.setReg Reg.lmpEdge (BitVec.ofNat 64 edge)).reg o := by
  have hs1 : kvWf regReset (s.setReg Reg.lmpEdge (BitVec.ofNat 64 edge)).regs = true := State.setReg_wf hs ..
  by_cases hg : gone = 0
  · rw [hg]
    rfl
  · rw [State.showEdge_passedOver hg, State.reg_setBit_ne (count_wf hs1 ..) _ _ hstat, count_reg_ne hs1 _ hskip]

theorem State.showEdge_reg (hs : kvWf regReset s.regs = true) (edge gone : Nat) {o : Nat}
    (ho : o ∉ [Reg.lmpEdge, Reg.lmpStatus, Reg.lmpSkipCount]) : (s.showEdge edge gone).reg o = s.reg o := by
  simp only [List.mem_cons, List.not_mem_nil, or_false, not_or] at ho
  obtain ⟨hedge, hstat, hskip⟩ := ho
  rw [State.showEdge_reg_setReg hs _ _ hstat hskip, State.reg_setReg_ne hs _ hedge]

theorem State.showEdge_edge (hs : kvWf regReset s.regs = true) (edge gone : Nat) :
    (s.showEdge edge gone).reg Reg.lmpEdge = BitVec.ofNat 64 edge := by
  rw [State.showEdge_reg_setReg hs _ _ (by decide) (by decide), State.reg_setReg hs, if_pos rfl]

theorem State.showEdge_skipped (hs : kvWf regReset s.regs = true) (edge : Nat) {gone : Nat} (hg : gone ≠ 0) :
    (s.showEdge edge gone).bit Reg.lmpStatus 1 = true := by
  rw [State.showEdge_passedOver hg]
  exact State.bit_setBit (count_wf (State.setReg_wf hs ..) ..) _ _ _ (by decide)

theorem State.showEdge_count (hs : kvWf regReset s.regs = true) (edge : Nat) {gone : Nat} (hg : gone ≠ 0) :
    (s.showEdge edge gone).reg Reg.lmpSkipCount = s.reg Reg.lmpSkipCount + BitVec.ofNat 64 gone := by
  have hs1 : kvWf regReset (s.setReg Reg.lmpEdge (BitVec.ofNat 64 edge)).regs = true := State.setReg_wf hs ..
  rw [State.showEdge_passedOver hg, State.reg_setBit_ne (count_wf hs1 ..) _ _ (by decide), count_reg_same hs1,
    State.reg_setReg_ne hs _ (by decide)]

theorem exec_lampEdge (hon : lampOn s = true) (hstep : s.tim.step = none) :
    exec .lampEdge s = .next (doEdge (if edgeDue s then s else advanceTo s (s.lamp.next * lampPeriod s))) := by
  show execLampEdge s = _
  cases hdue : edgeDue s <;> simp [execLampEdge, hon, hstep, hdue]

/-- Nothing waits for an edge. -/
theorem applyPower_idle (hpoint : s.power.point = none) (hmargin : s.power.margin = false) : applyPower s = s := by
  simp [applyPower, hpoint, hmargin]

/-- With no operation and no instance in flight no reservation is judged; the counts of the next period begin (R71). -/
theorem edgeReservations_idle (hops : s.ops = []) (hseqs : ∀ k ∈ s.seqs, k.insts = []) :
    edgeReservations s = { s with
      lamp := { s.lamp with flash := 0, spent := [] }
      str := { s.str with procs := s.str.procs.map (fun p => { p with c0 := 0 }) }
      fab := { s.fab with links := s.fab.links.map (fun k => { k with t0 := 0 }) } } := by
  have hnone : c0Active s = false := by
    simp only [c0Active, hops, List.any_nil, Bool.false_or, List.any_eq_false]
    intro k hk
    simp [hseqs k hk]
  simp [edgeReservations, hnone]

/-- A sequencer without graphs and instances does nothing at an edge. -/
theorem edgeSeq_idle (hseqs : ∀ k ∈ s.seqs, k.graphs = [] ∧ k.insts = []) (edge skipped q : Nat) :
    edgeSeq edge skipped s q = s := by
  have hseq : (seqOf s q).graphs = [] ∧ (seqOf s q).insts = [] := by
    rw [seqOf, List.getD_eq_getElem?_getD]
    cases hq : s.seqs[q]? with
    | none => exact ⟨rfl, rfl⟩
    | some k => exact hseqs k (List.mem_of_getElem? hq)
  simp [edgeSeq, activeGraph, hseq.1, hseq.2]

/-- A node whose role is FREE sends no time exchange (R325). -/
theorem edgeExchanges_free (hrole : s.fld Reg.timCtl 1 0 = 0) : edgeExchanges s = s := by
  simp [edgeExchanges, hrole]

theorem edgeConfirms_no_ops (hops : s.ops = []) (before : Nat) : edgeConfirms before s = s := by
  simp [edgeConfirms, hops]

/-- An edge has come: the registers show it, and it is counted (R52, R55). -/
def State.meetEdge (s : State) (edge gone : Nat) : State :=
  { s with
    regs := (s.showEdge edge gone).regs, lamp := { s.lamp with next := edge + 1, counted := s.lamp.counted + 1 + gone }
    tim := { s.tim with edges := s.tim.edges + 1 } }

/-- An edge is met, what waits for it takes effect, and the sequencers and the exchanges follow. -/
theorem doEdge_eq (s : State) :
    let e := s.tim.n / lampPeriod s
    let gone := e - s.lamp.next
    doEdge s = edgeConfirms s.lamp.counted (edgeExchanges ((List.range 16).foldl (edgeSeq e gone)
      (edgeReservations (applyPower (s.meetEdge e gone))))) := by
  simp only [doEdge, State.meetEdge, State.showEdge]
  split <;> rfl

/-- What an edge leaves where no graph, no operation and no servo is at work. -/
def State.idleEdge (s : State) : State :=
  let e := s.tim.n / lampPeriod s
  let gone := e - s.lamp.next
  { s with
    regs := (s.showEdge e gone).regs, lamp := ⟨e + 1, s.lamp.counted + 1 + gone, 0, []⟩
    tim := { s.tim with edges := s.tim.edges + 1 }
    str := { s.str with procs := s.str.procs.map (fun p => { p with c0 := 0 }) }
    fab := { s.fab with links := s.fab.links.map (fun k => { k with t0 := 0 }) } }

theorem doEdge_idle (hs : kvWf regReset s.regs = true) (hseqs : ∀ k ∈ s.seqs, k.graphs = [] ∧ k.insts = [])
    (hops : s.ops = []) (hpoint : s.power.point = none) (hmargin : s.power.margin = false)
    (hrole : s.fld Reg.timCtl 1 0 = 0) : doEdge s = s.idleEdge := by
  have hrole' : s.idleEdge.fld Reg.timCtl 1 0 = 0 :=
    (congrArg (bitsOf · 1 0) (State.showEdge_reg hs _ _ (by decide))).trans hrole
  have hpower (e gone : Nat) : applyPower (s.meetEdge e gone) = s.meetEdge e gone := applyPower_idle hpoint hmargin
  have hresv : edgeReservations (s.meetEdge (s.tim.n / lampPeriod s) (s.tim.n / lampPeriod s - s.lamp.next)) =
      s.idleEdge := edgeReservations_idle hops (fun k hk => (hseqs k hk).2)
  rw [doEdge_eq, hpower, hresv, List.foldl_fixed' (edgeSeq_idle (s := s.idleEdge) hseqs _ _), edgeExchanges_free hrole',
    edgeConfirms_no_ops (s := s.idleEdge) hops]

end

/-- Settles O18: an edge is made where time stands or where it is brought to, and with nothing at work it shows itself in the
registers and begins the counts of the period. -/
theorem lampEdgeOccurs : Obligations.LampEdgeOccurs := by
  intro s hon hstep
  refine ⟨fun hdue => ?_, fun hdue => ?_, fun hinv hdue hseqs hops hpoint hmargin hrole => ?_⟩
  · rw [exec_lampEdge hon hstep, if_pos hdue]
  · rw [exec_lampEdge hon hstep, if_neg (by simp [hdue])]
  · have hs := hinv.canon.regs
    refine ⟨s.idleEdge, ?_, rfl, ?_, fun hg o ho => ?_, fun hg => ⟨?_, ?_, fun o ho => ?_⟩⟩
    · rw [exec_lampEdge hon hstep, if_pos hdue, doEdge_idle hs hseqs hops hpoint hmargin hrole]
    · exact congrArg BitVec.toNat (State.showEdge_edge hs _ _)
    · have hshow : s.idleEdge.regs = (s.showEdge (s.tim.n / lampPeriod s) 0).regs := by rw [← hg]; rfl
      rw [State.reg_of_regs hshow, State.showEdge_next_reg hs _ ho]
    · exact State.showEdge_skipped hs _ hg
    · exact State.showEdge_count hs _ hg
    · exact State.showEdge_reg hs _ _ ho

end Sys2Proof.Machine
end

section
/-! PROOFS. The power states and the steps between them (R57, R417, R430, R477 to R479, R503; log 3, log 52, log 166). -/

namespace Sys2Proof.Machine

/-! ### The next step (R477, R479) -/

section
variable {s : State}

/-- HELD stays in its own bit. -/
theorem pState_setHeld (hs : kvWf regReset s.regs = true) (b : Bool) : pState (s.setBit Reg.pwrState 3 b) = pState s := by
  rw [pState, State.fld, State.reg_setBit hs, if_pos rfl,
    bitsOf_putBits_ne _ _ _ _ _ _ (by decide) (by decide) (.inl (by decide))]
  rfl

theorem pwrTarget_setHeld (hs : kvWf regReset s.regs = true) (b : Bool) :
    pwrTarget (s.setBit Reg.pwrState 3 b) = pwrTarget s :=
  congrArg (bitsOf · 2 0) (State.reg_setBit_ne hs _ _ (by decide))

/-- With no keeper halted no step is held. -/
theorem showHeld_none_halted (hhalt : s.power.halted = []) : showHeld s = s.setBit Reg.pwrState 3 false := by
  simp [showHeld, hhalt]

/-- A step under way stays the one under way. -/
theorem nextStep_under_way (hstep : s.power.step.isSome) : nextStep s = s := by
  simp [nextStep, hstep]

/-- Without brownout the device moves toward TARGET, unless a wake event has ended the request. -/
theorem pwrGoal_eq_target (hbrown : s.bit Reg.pwrBrown 1 = false) (hwoken : s.power.woken = false) :
    pwrGoal s = pwrTarget s := by
  simp [pwrGoal, hbrown, hwoken]

/-- Power is on, and nothing but TARGET decides on the next step: no trip, no brownout, no halted keeper and no wake. -/
structure State.FollowsTarget (s : State) : Prop where
  on        : s.power.off = false
  untripped : s.power.thermtrip = false
  unbrowned : s.bit Reg.pwrBrown 1 = false
  unhalted  : s.power.halted = []
  unwoken   : s.power.woken = false

/-- The arbiter of power once the next step toward TARGET has begun, where there is one. -/
def State.steppedPower (s : State) : Power :=
  if s.power.step.isSome ∨ pState s = 3 ∨ pwrTarget s = pState s then s.power
  else { s.power with
    step := some (if pState s < pwrTarget s then pState s + 1 else pState s - 1), since := s.lamp.counted }

theorem nextStep_followsTarget (h : s.FollowsTarget) :
    nextStep s = s ∧ s.steppedPower = s.power ∨
      nextStep s = { s with power := s.steppedPower }.setBit Reg.pwrState 3 false := by
  obtain ⟨hoff, htrip, hbrown, hhalt, hwoken⟩ := h
  have hgoal := pwrGoal_eq_target hbrown hwoken
  by_cases hstay : s.power.step.isSome ∨ pState s = 3 ∨ pwrTarget s = pState s
  · refine .inl ⟨?_, if_pos hstay⟩
    rcases hstay with hstep | h3 | htarget
    · exact nextStep_under_way hstep
    · simp [nextStep, h3]
    · simp [nextStep, hgoal, htarget]
  · refine .inr ?_
    rw [State.steppedPower, if_neg hstay]
    simp only [not_or, Bool.not_eq_true] at hstay
    obtain ⟨hstep, h3, htarget⟩ := hstay
    simp only [nextStep, hstep, hoff, htrip, hgoal, htarget, beq_eq_false_iff_ne.2 h3, Bool.or_false, Bool.false_eq_true,
      if_false]
    exact showHeld_none_halted hhalt

/-- The next step toward TARGET begins: TARGET, state, memory and operations stand. -/
theorem nextStep_facts (hs : kvWf regReset s.regs = true) (h : s.FollowsTarget) :
    pwrTarget (nextStep s) = pwrTarget s ∧ pState (nextStep s) = pState s ∧ (nextStep s).mem = s.mem ∧
      (nextStep s).ops = s.ops ∧ (nextStep s).power = s.steppedPower := by
  rcases nextStep_followsTarget h with ⟨hnext, hpower⟩ | hnext <;> rw [hnext]
  · exact ⟨rfl, rfl, rfl, rfl, hpower.symm⟩
  · exact ⟨pwrTarget_setHeld (s := { s with power := s.steppedPower }) hs _,
      pState_setHeld (s := { s with power := s.steppedPower }) hs _, rfl, rfl, rfl⟩

/-! ### A write of TARGET (R477) -/

/-- TARGET is written, and a wake event no longer holds the device (R477). -/
def State.targeted (s : State) (g : Nat) : State :=
  { s.setFld Reg.pwrStateCtl 2 0 g with power := { s.power with woken := false } }

theorem exec_powerTarget (v : Word) : exec (.powerTarget v) s = .next (nextStep (s.targeted (min 3 (bitsOf v 2 0)))) := rfl

theorem targeted_wf (hs : kvWf regReset s.regs = true) (g : Nat) : kvWf regReset (s.targeted g).regs = true :=
  State.setFld_wf hs ..

theorem targeted_reg (hs : kvWf regReset s.regs = true) {g o : Nat} (ho : o ≠ Reg.pwrStateCtl) :
    (s.targeted g).reg o = s.reg o := State.reg_setFld_ne hs _ _ _ ho

theorem targeted_target (hs : kvWf regReset s.regs = true) {g : Nat} (hg : g ≤ 3) : pwrTarget (s.targeted g) = g := by
  have hmod : g % 2 ^ 3 = g := Nat.mod_eq_of_lt (by omega)
  exact (State.fld_setFld hs _ _ _ _ (by decide) (by decide)).trans hmod

/-! ### Entry into a power state (R477, R482) -/

/-- A step completes: the state shows, its event is raised, and the next step begins. -/
theorem enterPower_eq (s : State) (p : Nat) : enterPower s p =
    nextStep (showHeld (raise ({ s with power := { s.power with step := none } }.setFld Reg.pwrState 2 0 p) 1)) := rfl

/-- The state shows and its event is raised: the registers apart from PWR_STATE, memory, operations and the arbiter of power
stand, but for the step that is no longer under way. -/
theorem entered_facts (hs : kvWf regReset s.regs = true) (hhalt : s.power.halted = []) {p : Nat} (hp : p < 8) :
    ∃ w, showHeld (raise ({ s with power := { s.power with step := none } }.setFld Reg.pwrState 2 0 p) 1) = w ∧
      kvWf regReset w.regs = true ∧ pState w = p ∧ (∀ o, o ≠ Reg.pwrState → sigReg o = false → w.reg o = s.reg o) ∧
      w.mem = s.mem ∧ w.ops = s.ops ∧ w.lamp = s.lamp ∧ w.power = { s.power with step := none } := by
  have hset : kvWf regReset (State.setFld { s with power := { s.power with step := none } } Reg.pwrState 2 0 p).regs = true :=
    State.setFld_wf hs ..
  have hsig := raise_signals (n := 1) (by decide) (.refl (State.setFld { s with power := { s.power with step := none } }
    Reg.pwrState 2 0 p))
  obtain ⟨hwf, hreg⟩ := hsig.regs hset
  refine ⟨_, showHeld_none_halted (by rw [hsig.power]; exact hhalt), State.setBit_wf hwf .., ?_, fun o ho hsg => ?_, hsig.mem,
    hsig.ops, hsig.lamp, hsig.power⟩
  · have hmod : p % 2 ^ 3 = p := Nat.mod_eq_of_lt hp
    rw [pState_setHeld hwf, pState, State.fld, hreg _ (by decide)]
    exact (State.fld_setFld hs _ _ _ _ (by decide) (by decide)).trans hmod
  · rw [State.reg_setBit_ne hwf _ _ ho, hreg o hsg]
    exact State.reg_setFld_ne hs _ _ _ ho

/-! ### The commands of the steps (R56, R57, R477, R479) -/

theorem exec_p0ToP1 (hstep : s.power.step.isSome) : exec .p0ToP1 s = .next (if pState s = 0 ∧ s.power.step = some 1 then
    enterPower (if lampOn s && s.lamp.counted == s.power.since then
      doEdge (if edgeDue s then s else advanceTo s (s.lamp.next * lampPeriod s)) else s) 1 else s) := by
  show execP0ToP1 s = _
  rw [execP0ToP1, nextStep_under_way hstep]
  exact (apply_ite Host.Outcome.next _ _ _).symm

theorem exec_p1ToP0 (hstep : s.power.step.isSome) :
    exec .p1ToP0 s = .next (if pState s = 1 ∧ s.power.step = some 0 then enterPower s 0 else s) := by
  show execP1ToP0 s = _
  rw [execP1ToP0, nextStep_under_way hstep]
  exact (apply_ite Host.Outcome.next _ _ _).symm

theorem exec_p1ToP2 (hstep : s.power.step.isSome) : exec .p1ToP2 s = .next (
    if pState s = 1 ∧ s.power.step = some 2 ∧ drainBusy s = false ∧ s.power.halted = [] then enterPower (idleDevice s) 2
    else s) := by
  show execP1ToP2 s = _
  simp only [execP1ToP2, nextStep_under_way hstep, Bool.not_eq_true', List.isEmpty_iff]
  exact (apply_ite Host.Outcome.next _ _ _).symm

theorem exec_p2ToP1 (hstep : s.power.step.isSome) : exec .p2ToP1 s = .next (if pState s = 2 ∧ s.power.step = some 1 then
    wakeLinks (restartLamp (enterPower (s.setBit Reg.hstStat 10 false) 1)) else s) := by
  show execP2ToP1 s = _
  rw [execP2ToP1, nextStep_under_way hstep]
  exact (apply_ite Host.Outcome.next _ _ _).symm

/-! ### The step into P3 (R417, R474, R502) -/

/-- What P3 does beside the reset: INT_ALATCH keeps its latches, and the last-event rings are lost (R491, R502). -/
def State.switchedOff (s : State) (latched : Word) : State :=
  let t := s.setReg Reg.intAlatch latched
  { t with obs := { t.obs with lers := [] }, ep := { t.ep with needPerst := true } }

/-- P3 is entered: the session ends, and everything outside the always-on domain is reset. -/
def State.intoP3 (s : State) : State :=
  ((resetDomain (raise (endSession s) 1)).switchedOff (s.reg Reg.intAlatch)).setFld Reg.pwrState 2 0 3

theorem exec_p2ToP3_not_due (hstep : s.power.step.isSome)
    (h : ¬ (pState s = 2 ∧ s.power.step = some 3 ∧ s.power.halted = [])) : exec .p2ToP3 s = .next s := by
  show execP2ToP3 s = _
  rw [execP2ToP3, nextStep_under_way hstep]
  exact if_neg (by simpa [List.isEmpty_iff] using h)

theorem exec_p2ToP3_stays (hstate : pState s = 2) (hstep : s.power.step = some 3) (hhalt : s.power.halted = [])
    (hwake : s.power.wake = none) : exec .p2ToP3 s = .next s.intoP3 := by
  show execP2ToP3 s = _
  rw [execP2ToP3, nextStep_under_way (by simp [hstep])]
  refine (if_pos ⟨hstate, hstep, by simp [hhalt]⟩).trans ?_
  rw [hwake]
  rfl

/-- A wake event recorded during the step then wakes the device (log 166). -/
theorem exec_p2ToP3_wakes {c : Nat} (hstate : pState s = 2) (hstep : s.power.step = some 3) (hhalt : s.power.halted = [])
    (hwake : s.power.wake = some c) : exec .p2ToP3 s = .next (wakeP3 s.intoP3 c) := by
  show execP2ToP3 s = _
  rw [execP2ToP3, nextStep_under_way (by simp [hstep])]
  refine (if_pos ⟨hstate, hstep, by simp [hhalt]⟩).trans ?_
  rw [hwake]
  rfl

/-- What the domain loses when it is reset, and what it keeps (R417, R474). -/
structure DomainReset (s t : State) : Prop where
  wf    : kvWf regReset t.regs = true
  ops   : t.ops = []
  fab   : t.fab = State.reset.fab
  str   : t.str = State.reset.str
  level : debugLevel t = 0
  fuses : t.fuses = s.fuses

theorem resetDomain_facts (hs : kvWf regReset s.regs = true) : DomainReset s (resetDomain s) := by
  obtain ⟨t, temp, strap, hbase, ht⟩ := resetDomain_base s
  obtain ⟨⟨r, hsame⟩, hregs⟩ := resetDomain_writesOnly ht
  have htwf : kvWf regReset t.regs = true := by
    rw [hbase.regs]
    exact keptRegs_wf hs
  obtain ⟨hwf, hreg⟩ := hregs htwf
  have hdebug : (resetDomain s).reg Reg.secDebug = regReset Reg.secDebug :=
    (hreg _ (by decide)).trans (reg_keptRegs_reset (t := t.fillRange sramBase sramSize false) hbase.regs (by decide))
  refine ⟨hwf, ?_, ?_, ?_, ?_, ?_⟩
  · exact (congrArg State.ops hsame).trans hbase.ops
  · exact (congrArg State.fab hsame).trans hbase.fab
  · exact (congrArg State.str hsame).trans hbase.str
  · rw [debugLevel, State.fld, hdebug]
    decide
  · exact (congrArg State.fuses hsame).trans hbase.fuses

theorem switchedOff_wf (hs : kvWf regReset s.regs = true) (latched : Word) :
    kvWf regReset (s.switchedOff latched).regs = true := State.setReg_wf hs ..

theorem switchedOff_reg (hs : kvWf regReset s.regs = true) (latched : Word) (o : Nat) :
    (s.switchedOff latched).reg o = if o = Reg.intAlatch then latched else s.reg o := State.reg_setReg hs ..

/-- Entry into P3 after the session has ended in `v`. -/
theorem switchedOff_entered {v : State} (hv : DomainReset s v) (latched : Word) :
    let t := (v.switchedOff latched).setFld Reg.pwrState 2 0 3
    DomainReset s t ∧ t.obs.lers = [] ∧ t.ep.needPerst = true ∧ pState t = 3 ∧ t.reg Reg.intAlatch = latched := by
  obtain ⟨hwf, hops, hfab, hstr, hlevel, hfuses⟩ := hv
  have hoff := switchedOff_wf hwf latched
  refine ⟨⟨State.setFld_wf hoff .., hops, hfab, hstr, ?_, hfuses⟩, rfl, rfl,
    State.fld_setFld hoff _ _ _ _ (by decide) (by decide), ?_⟩
  · rw [debugLevel, State.fld, State.reg_setFld_ne hoff _ _ _ (by decide), switchedOff_reg hwf, if_neg (by decide)]
    exact hlevel
  · rw [State.reg_setFld_ne hoff _ _ _ (by decide), switchedOff_reg hwf, if_pos rfl]

/-- P3 and what it loses and keeps. -/
theorem intoP3_facts (hs : kvWf regReset s.regs = true) : DomainReset s s.intoP3 ∧ s.intoP3.obs.lers = [] ∧
    s.intoP3.ep.needPerst = true ∧ pState s.intoP3 = 3 ∧ s.intoP3.reg Reg.intAlatch = s.reg Reg.intAlatch := by
  have hv : State.SessionApart s (raise (endSession s) 1) :=
    (endSession_apart s).signals (raise_signals (by decide) (.refl _))
  obtain ⟨hwf, hops, hfab, hstr, hlevel, hfuses⟩ := resetDomain_facts (hv.regs hs).1
  exact switchedOff_entered ⟨hwf, hops, hfab, hstr, hlevel, hfuses.trans hv.fuses⟩ _

/-! ### The wake start (R416, R477, R503) -/

/-- Every TIME latch raises its source: nothing but what signalling leaves. -/
theorem latchRestart_signals (s : State) : State.Signals s (latchRestart s) := by
  refine signals_foldl (.refl s) (fun t j hj ht => ?_)
  split
  · exact raise_signals (by simp at hj; omega) ht
  · exact ht

/-- PWR_STATE shows P0 and the cause of the wake. -/
def State.showWake (s : State) (c : Nat) : State := (s.setFld Reg.pwrState 2 0 0).setFld Reg.pwrState 7 4 c

/-- A wake from P3 is a start of kind wake from the ROM phase. -/
theorem wakeP3_eq (s : State) (c : Nat) : wakeP3 s c = beginStart (raise (latchRestart (s.showWake c)) 1) 2 2 := rfl

theorem showWake_facts (hs : kvWf regReset s.regs = true) {c : Nat} (hc : c < 16) :
    State.HasFld (s.showWake c) Reg.pwrState 2 0 0 ∧ State.HasFld (s.showWake c) Reg.pwrState 7 4 c ∧
      debugLevel (s.showWake c) = debugLevel s := by
  have hs1 : kvWf regReset (s.setFld Reg.pwrState 2 0 0).regs = true := State.setFld_wf hs ..
  refine ⟨.setFld_apart (by decide) (by decide) (.inl (by decide)) (.set hs (by decide) (by decide) (by decide)),
    .set hs1 hc (by decide) (by decide), congrArg (bitsOf · 1 0) ?_⟩
  exact (State.reg_setFld_ne hs1 _ _ _ (by decide)).trans (State.reg_setFld_ne hs _ _ _ (by decide))

/-- A start after signalling: the fields of PWR_STATE, the operations and the debug level stand. -/
theorem beginStart_after_signals {t : State} (hsig : State.Signals s t) (hs : kvWf regReset s.regs = true) :
    let u := beginStart t 2 2
    State.RegsBut (fun o => sigReg o || startReg o) s u ∧ u.fld Reg.gctlBoot 5 4 = 2 ∧ u.fld Reg.gctlBoot 3 0 = 2 ∧
      u.ops = s.ops := by
  have hwf := (hsig.regs hs).1
  obtain ⟨r, hsame⟩ := beginStart_same t 2 2
  refine ⟨.trans (.mono (fun o ho => ?_) hsig.regs) (.mono (fun o ho => ?_) (beginStart_regsBut t 2 2)),
    (beginStart_kind hwf (by decide) 2).fld, (beginStart_phase hwf 2 (by decide)).fld, ?_⟩
  · exact (Bool.or_eq_false_iff.1 ho).1
  · exact (Bool.or_eq_false_iff.1 ho).2
  · rw [hsame]
    exact hsig.ops

/-- A wake from P3 leads to P0, with its cause and its kind of start. -/
theorem wakeP3_facts (hs : kvWf regReset s.regs = true) {c : Nat} (hc : c < 16) :
    pState (wakeP3 s c) = 0 ∧ (wakeP3 s c).fld Reg.pwrState 7 4 = c ∧ (wakeP3 s c).fld Reg.gctlBoot 5 4 = 2 ∧
      (wakeP3 s c).fld Reg.gctlBoot 3 0 = 2 ∧ (wakeP3 s c).ops = s.ops ∧ debugLevel (wakeP3 s c) = debugLevel s := by
  obtain ⟨hstate, hcause, hlevel⟩ := showWake_facts hs hc
  obtain ⟨hregs, hkind, hphase, hops⟩ :=
    beginStart_after_signals (raise_signals (n := 1) (by decide) (latchRestart_signals (s.showWake c))) hstate.wf
  rw [wakeP3_eq]
  refine ⟨(hstate.regsBut hregs (by decide)).fld, (hcause.regsBut hregs (by decide)).fld, hkind, hphase, hops, ?_⟩
  rw [debugLevel, State.fld, (hregs hstate.wf).2 _ (by decide)]
  exact hlevel

end

/-- Settles O56: a step under way is the one that its command completes; the next one follows TARGET. -/
theorem powerStatesAreStepped : Obligations.PowerStatesAreStepped := by
  refine ⟨fun s v hinv hoff htrip hbrown hhalt => ?_, fun s hstep => ⟨fun hstate hone => ⟨fun hedge => ?_, fun hon hsince => ?_⟩,
      fun hnot => ?_, exec_p1ToP0 hstep, exec_p1ToP2 hstep, exec_p2ToP1 hstep, exec_p2ToP3_not_due hstep⟩,
    fun s p hinv hoff htrip hbrown hwoken hhalt => ?_,
    fun s hinv hstate hstep hhalt => ⟨fun hwake => ?_, fun c hc hwake => ?_⟩⟩
  · have hs := hinv.canon.regs
    have hfollows : State.FollowsTarget (s.targeted (min 3 (bitsOf v 2 0))) :=
      ⟨hoff, htrip, (congrArg (bitOf · 1) (targeted_reg hs (by decide))).trans hbrown, hhalt, rfl⟩
    have htarget : pwrTarget (s.targeted (min 3 (bitsOf v 2 0))) = min 3 (bitsOf v 2 0) := targeted_target hs (by omega)
    have hstate : pState (s.targeted (min 3 (bitsOf v 2 0))) = pState s :=
      congrArg (bitsOf · 2 0) (targeted_reg hs (by decide))
    obtain ⟨htarget', hstate', hmem, -, hpower⟩ := nextStep_facts (targeted_wf hs _) hfollows
    refine ⟨_, exec_powerTarget v, htarget'.trans htarget, hstate'.trans hstate, hmem, ?_⟩
    rw [hpower, State.steppedPower, htarget, hstate]
    rfl
  · rw [exec_p0ToP1 hstep, if_pos ⟨hstate, hone⟩, if_neg (by rcases hedge with h | h <;> simp [h])]
  · rw [exec_p0ToP1 hstep, if_pos ⟨hstate, hone⟩, if_pos (by simp [hon, hsince])]
  · rw [exec_p0ToP1 hstep, if_neg hnot]
  · have hs := hinv.canon.regs
    obtain ⟨w, hw, hwf, hstate, hreg, hmem, hops, hlamp, hpower⟩ := entered_facts hs hhalt (p := p.val) (by omega)
    have hfollows : w.FollowsTarget := by
      refine ⟨?_, ?_, (congrArg (bitOf · 1) (hreg _ (by decide) (by decide))).trans hbrown, ?_, ?_⟩ <;>
        (rw [hpower]; assumption)
    have htarget : pwrTarget w = pwrTarget s := congrArg (bitsOf · 2 0) (hreg _ (by decide) (by decide))
    obtain ⟨-, hstate', hmem', hops', hpower'⟩ := nextStep_facts hwf hfollows
    rw [enterPower_eq, hw]
    refine ⟨hstate'.trans hstate, hmem'.trans hmem, hops'.trans hops, ?_⟩
    rw [hpower', State.steppedPower, hpower, hstate, htarget, hlamp]
    simp
  · obtain ⟨hoff, hlers, hperst, hstate3, hlatch⟩ := intoP3_facts hinv.canon.regs
    exact ⟨_, exec_p2ToP3_stays hstate hstep hhalt hwake, hstate3, hoff.ops, hoff.fab, hoff.str, hlers, hperst, hoff.level,
      hoff.fuses, hlatch⟩
  · obtain ⟨hoff, -⟩ := intoP3_facts hinv.canon.regs
    obtain ⟨hstate0, hcause, hkind, hphase, hops, hlevel⟩ := wakeP3_facts hoff.wf hc
    exact ⟨_, exec_p2ToP3_wakes hstate hstep hhalt hwake, hstate0, hcause, hkind, hphase, hops.trans hoff.ops, hlevel.trans hoff.level⟩

end Sys2Proof.Machine
end

section
/-! PROOFS. Sequencers as data, and the end of a node's job with its completion records (R58, R60, R64). -/

namespace Sys2Proof.Machine

/-! ### Sequencers, their graphs and their instances -/

section
variable {s : State} {q gid uid i : Nat} {x : Inst} {g : Graph}

theorem seqOf_modSeq (hq : q < s.seqs.length) (f : Seq → Seq) : seqOf (s.modSeq q f) q = f (seqOf s q) := by
  simp [seqOf, State.modSeq, List.getD_eq_getElem?_getD, hq]

/-- Only a sequencer that is there has instances. -/
theorem seq_of_instOf (h : instOf s q uid = some x) : q < s.seqs.length := by
  by_contra hq
  simp [instOf, seqOf, List.getD_eq_getElem?_getD, List.getElem?_eq_none (Nat.le_of_not_lt hq)] at h

theorem gid_of_graphOf (h : graphOf s q gid = some g) : g.gid = gid := by
  simpa using List.find?_some h

/-- A change of the entries that a search finds, which leaves what it searches by, changes what it finds. -/
theorem find?_map_found {α : Type} {p : α → Bool} {f : α → α} {l : List α} {a : α} (hf : ∀ b, p (f b) = p b)
    (h : l.find? p = some a) : (l.map (fun b => if p b then f b else b)).find? p = some (f a) := by
  have hp : p ∘ (fun b => if p b then f b else b) = p := by
    funext b
    by_cases hb : p b = true
    · simp [hb, hf b]
    · simp [hb]
  rw [List.find?_map, hp, h]
  simp [List.find?_some h]

theorem instOf_modInst (h : instOf s q uid = some x) {f : Inst → Inst} (hf : ∀ y, (f y).uid = y.uid) :
    instOf (s.modInst q uid f) q uid = some (f x) := by
  rw [instOf, State.modInst, seqOf_modSeq (seq_of_instOf h)]
  exact find?_map_found (fun y => by rw [hf]) h

theorem graphOf_modInst (h : instOf s q uid = some x) (f : Inst → Inst) :
    graphOf (s.modInst q uid f) q gid = graphOf s q gid := by
  rw [graphOf, State.modInst, seqOf_modSeq (seq_of_instOf h)]
  rfl

theorem instOf_setPhase (h : instOf s q uid = some x) (p : NodePhase) :
    instOf (s.setPhase q uid i p) q uid = some { x with nodes := x.nodes.set i p } :=
  instOf_modInst h (fun _ => rfl)

theorem graphOf_setPhase (h : instOf s q uid = some x) (p : NodePhase) :
    graphOf (s.setPhase q uid i p) q gid = graphOf s q gid := graphOf_modInst h _

theorem instOf_modNode (h : instOf s q uid = some x) (f : NodeDesc → NodeDesc) :
    instOf (s.modNode q gid i f) q uid = some x := by
  rw [instOf, State.modNode, State.modGraph, seqOf_modSeq (seq_of_instOf h)]
  exact h

theorem graphOf_modNode (hq : q < s.seqs.length) (h : graphOf s q gid = some g) (f : NodeDesc → NodeDesc) :
    graphOf (s.modNode q gid i f) q gid = some { g with nodes := g.nodes.modify i f } := by
  rw [graphOf, State.modNode, State.modGraph, seqOf_modSeq hq]
  exact find?_map_found (f := fun g => { g with nodes := g.nodes.modify i f }) (fun _ => rfl) h

end

/-! ### Completion records (R64) -/

section
variable {s : State} {q : Fin 16} {uid i k left : Nat} {ok : Bool} {x : Inst} {g : Graph}

/-- A node whose records have all completed finishes. -/
theorem closeNode_last (hx : instOf s q.val uid = some x) (hg : graphOf s q.val x.gid = some g)
    (hphase : x.nodes[i]? = some (.closing 0 false ok)) :
    closeNode q uid i (k + 1) s = advanceInst (finishNode s q.val uid g.gid i ok) q.val uid := by
  simp [closeNode, hx, hg, hphase]

/-- With records left the next one is issued. -/
theorem closeNode_issues {n : NodeDesc} (hx : instOf s q.val uid = some x) (hg : graphOf s q.val x.gid = some g)
    (hphase : x.nodes[i]? = some (.closing left false ok)) (hleft : left ≠ 0) (hn : g.nodes[i]? = some n) :
    closeNode q uid i (k + 1) s = closeNode q uid i k (issueRecord (s.setPhase q.val uid i (.closing left true ok))
      (.sequencer q) (some g.cls) (n.comp + BitVec.ofNat 64 (64 * (n.ncomp - left)))
      (fun a => .node q.val uid i (n.ncomp - left) a)) := by
  simp [closeNode, hx, hg, hphase, hleft, hn]

/-- A node whose record is under way waits for it. -/
theorem closeNode_waits (h : (instOf s q.val uid).bind (fun y => y.nodes[i]?) = some (.closing left true ok)) :
    closeNode q uid i k s = s := by
  obtain ⟨y, hy, hphase⟩ := Option.bind_eq_some_iff.1 h
  cases k with
  | zero => rfl
  | succ k => cases hg : graphOf s q.val y.gid <;> simp [closeNode, hy, hphase, hg]

/-- One record is issued, and the node waits for it. -/
theorem closeNode_issues_one {n : NodeDesc} (hx : instOf s q.val uid = some x) (hg : graphOf s q.val x.gid = some g)
    (hphase : x.nodes[i]? = some (.closing left false ok)) (hleft : left ≠ 0) (hn : g.nodes[i]? = some n) {u : State}
    (hu : u = issueRecord (s.setPhase q.val uid i (.closing left true ok))
      (.sequencer q) (some g.cls) (n.comp + BitVec.ofNat 64 (64 * (n.ncomp - left)))
      (fun a => .node q.val uid i (n.ncomp - left) a))
    (hwait : (instOf u q.val uid).bind (fun y => y.nodes[i]?) = some (.closing left true ok)) :
    closeNode q uid i (k + 1) s = u := by
  rw [closeNode_issues hx hg hphase hleft hn, ← hu, closeNode_waits hwait]

end

/-! ### NODE_DONE (R64) -/

section
variable {s : State} {q : Fin 16} {uid i : Nat} {x : Inst} {g : Graph} {n : NodeDesc}

/-- A further success of a node's DONE buoy has been seen. -/
def NodeDesc.sawOk (n : NodeDesc) : NodeDesc := { n with seenOk := (n.seenOk + 1) % 2 ^ 48 }

/-- The DONE buoy of a launched node has counted a success: the node closes with its records. -/
theorem exec_nodeDone_ok (hl : launchedInst s q.val uid i = some x) (hg : graphOf s q.val x.gid = some g)
    (hn : g.nodes[i]? = some n) (habort : x.aborted = false) (hdone : (countsOf s n.done).1 ≠ n.seenOk) :
    exec (.nodeDone q uid i) s = .next (closeNode q uid i (n.ncomp + 1)
      ((s.modNode q.val x.gid i NodeDesc.sawOk).setPhase q.val uid i (.closing n.ncomp false true))) := by
  show execNodeDone q uid i s = _
  simp only [execNodeDone, hl, hg, hn, Option.bind_some, doneMoved, hdone, ne_eq, not_false_eq_true, if_true, habort,
    Bool.false_eq_true, if_false]
  rfl

/-- The node and its graph as NODE_DONE leaves them to close. -/
theorem nodeDone_closing (hx : instOf s q.val uid = some x) (hg : graphOf s q.val x.gid = some g)
    (hn : g.nodes[i]? = some n) (hlaunched : (x.nodes.getD i .waiting).isLaunched = true) (p : NodePhase) :
    let t := (s.modNode q.val x.gid i NodeDesc.sawOk).setPhase q.val uid i p
    ∃ y h, instOf t q.val uid = some y ∧ y.nodes[i]? = some p ∧ graphOf t q.val y.gid = some h ∧ h.gid = x.gid ∧
      h.cls = g.cls ∧ h.nodes[i]? = some n.sawOk := by
  have hi : i < x.nodes.length := by
    by_contra hi
    simp [List.getD_eq_getElem?_getD, List.getElem?_eq_none (Nat.le_of_not_lt hi), NodePhase.isLaunched] at hlaunched
  have hx' := instOf_modNode (gid := x.gid) (i := i) hx NodeDesc.sawOk
  have hg' := (graphOf_setPhase (i := i) hx' p).trans (graphOf_modNode (i := i) (seq_of_instOf hx) hg NodeDesc.sawOk)
  exact ⟨_, _, instOf_setPhase hx' p, by simp [hi], hg', gid_of_graphOf (g := g) hg, rfl, by simp [hn]⟩

/-- Without completion records the node finishes at once. -/
theorem exec_nodeDone_last (hx : instOf s q.val uid = some x) (hg : graphOf s q.val x.gid = some g)
    (hn : g.nodes[i]? = some n) (hl : launchedInst s q.val uid i = some x)
    (hlaunched : (x.nodes.getD i .waiting).isLaunched = true) (habort : x.aborted = false)
    (hdone : (countsOf s n.done).1 ≠ n.seenOk) (hcomp : n.ncomp = 0) :
    exec (.nodeDone q uid i) s = .next (advanceInst (finishNode
      ((s.modNode q.val x.gid i NodeDesc.sawOk).setPhase q.val uid i (.closing 0 false true)) q.val uid x.gid i true)
      q.val uid) := by
  obtain ⟨y, h, hy, hphase, hh, hgid, -, -⟩ := nodeDone_closing hx hg hn hlaunched (.closing 0 false true)
  rw [exec_nodeDone_ok hl hg hn habort hdone, hcomp, closeNode_last hy hh hphase, hgid]

/-- With completion records the first one is issued. -/
theorem exec_nodeDone_record (hx : instOf s q.val uid = some x) (hg : graphOf s q.val x.gid = some g)
    (hn : g.nodes[i]? = some n) (hl : launchedInst s q.val uid i = some x)
    (hlaunched : (x.nodes.getD i .waiting).isLaunched = true) (habort : x.aborted = false)
    (hdone : (countsOf s n.done).1 ≠ n.seenOk) (hcomp : n.ncomp ≠ 0) {u : State}
    (hu : u = issueRecord (((s.modNode q.val x.gid i NodeDesc.sawOk).setPhase q.val uid i
      (.closing n.ncomp false true)).setPhase q.val uid i (.closing n.ncomp true true)) (.sequencer q) (some g.cls) n.comp
      (fun a => .node q.val uid i 0 a))
    (hwait : (instOf u q.val uid).bind (fun y => y.nodes[i]?) = some (.closing n.ncomp true true)) :
    exec (.nodeDone q uid i) s = .next u := by
  obtain ⟨y, h, hy, hphase, hh, -, hcls, hnode⟩ := nodeDone_closing hx hg hn hlaunched (.closing n.ncomp false true)
  rw [exec_nodeDone_ok hl hg hn habort hdone, closeNode_issues_one hy hh hphase hcomp hnode _ hwait]
  simpa [NodeDesc.sawOk, hcls] using hu

end

end Sys2Proof.Machine
end

section
/-! PROOFS. LMP_SEQn_CTL, the end of a graph's enable, and the code of a refusal (R58, R62, R66; log 9). -/

namespace Sys2Proof.Machine

/-! ### LMP_SEQn_CTL (R58) -/

/-- A field that a mask keeps whole. -/
theorem bitsOf_and_mask (w m : Word) {hi lo : Nat} (hm : bitsOf m hi lo = 2 ^ (hi + 1 - lo) - 1) :
    bitsOf (w &&& m) hi lo = bitsOf w hi lo := by
  apply Nat.eq_of_testBit_eq
  intro i
  have hbit := bitsOf_testBit m hi lo i
  rw [hm, Nat.testBit_two_pow_sub_one] at hbit
  rw [bitsOf_testBit, bitsOf_testBit, BitVec.getLsbD_and]
  by_cases hi : i < hi + 1 - lo
  · simp_all
  · simp [hi]

theorem bitOf_and_mask (w m : Word) {i : Nat} (hm : bitOf m i = true) : bitOf (w &&& m) i = bitOf w i := by
  rw [bitOf, BitVec.getLsbD_and]
  simp_all [bitOf]

/-- What an enable leaves in LMP_SEQn_CTL: EN is 1, and the reserved bits are 0. -/
def enabledCtl (c : Word) : Word := putBits c 0 0 1 &&& 0x000FFFFFFFFFFF1F

theorem enabledCtl_en (c : Word) : bitOf (enabledCtl c) 0 = true :=
  (bitOf_and_mask _ _ (by decide)).trans (bitOf_putBits c 0 true (by decide))

theorem enabledCtl_bit (c : Word) {i : Nat} (h0 : 0 < i) (hm : bitOf 0x000FFFFFFFFFFF1F i = true) :
    bitOf (enabledCtl c) i = bitOf c i :=
  (bitOf_and_mask _ _ hm).trans (bitOf_putBits_ne c 0 0 1 i (by decide) (by decide) (.inr h0))

theorem enabledCtl_field (c : Word) {hi lo : Nat} (h0 : 0 < lo)
    (hm : bitsOf 0x000FFFFFFFFFFF1F hi lo = 2 ^ (hi + 1 - lo) - 1) : bitsOf (enabledCtl c) hi lo = bitsOf c hi lo :=
  (bitsOf_and_mask _ _ hm).trans (bitsOf_putBits_ne c 0 0 1 hi lo (by decide) (by decide) (.inr h0))

section
variable {s : State} {q : Fin 16}

theorem exec_graphEnable (hen : bitOf (s.reg (Reg.lmpSeqCtl q.val)) 0 = false) : exec (.graphEnable q) s = .next
    (enableGraph (s.setReg (Reg.lmpSeqCtl q.val) (enabledCtl (s.reg (Reg.lmpSeqCtl q.val)))) q.val) := by
  have hbit : bitOf (putBits (s.reg (Reg.lmpSeqCtl q.val)) 0 0 1) 0 = true := bitOf_putBits _ 0 true (by decide)
  show execGraphEnable q s = _
  simp only [execGraphEnable, writeSeqCtl, State.bit, hen, hbit, Bool.false_eq_true, if_false, if_true]
  rfl

/-- EN falls: the graphs are no longer enabled, and those without an instance in flight are forgotten (R66). -/
theorem exec_graphDisable (hen : bitOf (s.reg (Reg.lmpSeqCtl q.val)) 0 = true) :
    exec (.graphDisable q) s = .next { s.setBit (Reg.lmpSeqCtl q.val) 0 false with
      seqs := s.seqs.modify q.val (fun k => { k with graphs :=
        (k.graphs.map (fun g => { g with active := false })).filter (fun g => k.insts.any (·.gid == g.gid)) }) } := by
  have hbit : bitOf (putBits (s.reg (Reg.lmpSeqCtl q.val)) 0 0 0) 0 = false := bitOf_putBits _ 0 false (by decide)
  have hfilter (k : Seq) :
      (k.graphs.map (fun g => { g with active := false })).filter (fun g => g.active || k.insts.any (·.gid == g.gid)) =
        (k.graphs.map (fun g => { g with active := false })).filter (fun g => k.insts.any (·.gid == g.gid)) := by
    refine List.filter_congr (fun g hg => ?_)
    obtain ⟨g', -, rfl⟩ := List.mem_map.1 hg
    rfl
  show execGraphDisable q s = _
  simp only [execGraphDisable, writeSeqCtl, State.bit, hen, hbit, if_true, Bool.false_eq_true, if_false, disableGraph,
    retireGraphs, State.modSeq, State.setBit_seqs, List.modify_modify_eq, Function.comp_def, hfilter]

end

/-! ### The code that a refusal reports (R62; log 9) -/

theorem freeBelow_lt (ctr : Nat) {n : Nat} (hn : 0 < n) : Config.freeBelow ctr n < n := by
  unfold Config.freeBelow
  split
  · exact hn
  · exact Nat.mod_lt _ hn

/-- The reported code is one of those that apply. -/
theorem pickCode_mem (s : State) {codes : List Nat} (h : codes ≠ []) : (pickCode s codes).2 ∈ codes := by
  have hlt := freeBelow_lt s.freeCtr (List.length_pos_iff.2 h)
  rw [pickCode, List.getD_eq_getElem?_getD, List.getElem?_eq_getElem hlt]
  exact List.getElem_mem hlt

/-- A code that applies is one of those listed. -/
theorem mem_causes {l : List (Bool × Nat)} {c : Nat} (h : c ∈ causes l) : c ∈ l.map (·.2) := by
  obtain ⟨e, he, rfl⟩ := List.mem_map.1 h
  exact List.mem_map_of_mem (List.mem_of_mem_filter he)

theorem nodeCauses_range {raw : List Byte} {last i c : Nat} (h : c ∈ nodeCauses raw last i) : 3 ≤ c ∧ c ≤ 7 := by
  have := mem_causes h
  simp only [List.map_cons, List.map_nil, List.mem_cons, List.not_mem_nil, or_false] at this
  omega

theorem graphCauses_range {raw : List Byte} {last nodes c : Nat}
    (h : c ∈ ((graphCauses raw last nodes).map (·.1)).getD []) : 3 ≤ c ∧ c ≤ 7 := by
  cases hb : graphCauses raw last nodes with
  | none => simp [hb] at h
  | some b =>
    obtain ⟨i, -, hi⟩ := List.exists_of_findSome?_eq_some hb
    split at hi
    · cases hi
    · cases hi
      rw [hb] at h
      exact nodeCauses_range h

/-! ### A refused enable (R62) -/

/-- A sticky bit is set, whether it stood or rises, and signalling follows (R7). -/
theorem sticky_facts {s : State} (hs : kvWf regReset s.regs = true) {off bit : Nat} {src : Option Nat} (hb : bit < 64)
    (hn : ∀ n, src = some n → n < 256) :
    ∃ v, State.WritesOnly (· == off) s v ∧ v.bit off bit = true ∧ State.Signals v (sticky s off bit src) := by
  cases hbit : s.bit off bit with
  | true => exact ⟨s, .refl _ _, hbit, by rw [sticky_of_set _ hbit]; exact .refl s⟩
  | false => exact ⟨s.setBit off bit true, .setFld (by simp) (.refl _ _), State.bit_setBit hs _ _ _ hb, sticky_signals hn hbit⟩

/-- The registers in which a refused enable shows. -/
def refusalReg (q o : Nat) : Bool := o == Reg.lmpSeqCtl q || o == Reg.lmpSeqStat q || o == Reg.lmpSeqErr q

theorem refusalReg_unsignalled {q o : Nat} (hq : q < 16) (h : refusalReg q o = true) : sigReg o = false := by
  simp only [refusalReg, Bool.or_eq_true, beq_iff_eq, Reg.lmpSeqCtl, Reg.lmpSeqStat, Reg.lmpSeqErr] at h
  simp only [sigReg, Reg.hstMsixPba, Bool.or_eq_false_iff, Bool.and_eq_false_iff, decide_eq_false_iff_not, beq_eq_false_iff_ne]
  omega

/-- A refusal shows its reason and the fallen EN in registers of the sequencer alone, and signals its event. -/
theorem refuseGraph_facts {s : State} (hs : kvWf regReset s.regs = true) {q reason : Nat} (hq : q < 16)
    (hr : reason < 16) (node : Nat) :
    ∃ v, State.WritesOnly (refusalReg q) s v ∧ State.Signals v (refuseGraph s q reason node) ∧
      (refuseGraph s q reason node).bit (Reg.lmpSeqErr q) 0 = true ∧
      (refuseGraph s q reason node).fld (Reg.lmpSeqStat q) 15 12 = reason ∧
      (refuseGraph s q reason node).bit (Reg.lmpSeqCtl q) 0 = false := by
  let a := s.setBit (Reg.lmpSeqCtl q) 0 false
  let b := a.setFld (Reg.lmpSeqStat q) 15 12 reason
  let c := b.setFld (Reg.lmpSeqStat q) 23 16 node
  have ha : kvWf regReset a.regs = true := State.setBit_wf hs ..
  have hb : kvWf regReset b.regs = true := State.setFld_wf ha ..
  have hc : kvWf regReset c.regs = true := State.setFld_wf hb ..
  have hctl : c.bit (Reg.lmpSeqCtl q) 0 = false := by
    have hne : Reg.lmpSeqCtl q ≠ Reg.lmpSeqStat q := by simp only [Reg.lmpSeqCtl, Reg.lmpSeqStat]; omega
    rw [State.bit, State.reg_setFld_ne hb _ _ _ hne, State.reg_setFld_ne ha _ _ _ hne]
    exact State.bit_setBit hs _ _ _ (by decide)
  have hstat : State.HasFld c (Reg.lmpSeqStat q) 15 12 reason :=
    .setFld_apart (by decide) (by decide) (.inl (by decide)) (.set ha hr (by decide) (by decide))
  have hwc : State.WritesOnly (refusalReg q) s c :=
    .setFld (by simp [refusalReg]) (.setFld (by simp [refusalReg]) (.setFld (by simp [refusalReg]) (.refl _ _)))
  obtain ⟨v, hwv, herr, hsig⟩ := sticky_facts hc (off := Reg.lmpSeqErr q) (bit := 0) (src := some (16 + q)) (by decide)
    (by simp; omega)
  have heq : refuseGraph s q reason node = sticky c (Reg.lmpSeqErr q) 0 (some (16 + q)) := rfl
  have hv := (hwv.regs hc)
  have hreg : ∀ o, refusalReg q o = true → (refuseGraph s q reason node).reg o = v.reg o := fun o ho => by
    rw [heq]
    exact (hsig.regs hv.1).2 o (refusalReg_unsignalled hq ho)
  refine ⟨v, hwc.trans (.mono (fun o ho => ?_) hwv), by rw [heq]; exact hsig, ?_, ?_, ?_⟩
  · simp_all [refusalReg]
  · rw [State.bit, hreg _ (by simp [refusalReg])]
    exact herr
  · rw [State.fld, hreg _ (by simp [refusalReg]), hv.2 _ (by simp [Reg.lmpSeqStat, Reg.lmpSeqErr])]
    exact hstat.fld
  · rw [State.bit, hreg _ (by simp [refusalReg]), hv.2 _ (by simp [Reg.lmpSeqCtl, Reg.lmpSeqErr])]
    exact hctl

end Sys2Proof.Machine
end

section
/-! PROOFS. GRAPH_ENABLE: the checks, a refusal, and the graph that is kept (R60 to R62; log 9, log 174, log 175). -/

namespace Sys2Proof.Machine

/-! ### The checks of an enable (R60 to R62) -/

/-- Where the node array of sequencer `q` stands on its node, and its bytes. -/
abbrev arrayAt (s : State) (q : Nat) : Nat := localOf (s.reg (Reg.lmpSeqGraph q))
abbrev arrayLen (s : State) (q : Nat) : Nat := 64 * bitsOf (s.reg (Reg.lmpSeqCtl q)) 16 8

/-- The node array stands in direct memory of this node, no buoy gates the graph, and none has to lie in signed objects
(R60, R66, R470). -/
structure DirectArray (s : State) (q : Nat) : Prop where
  ungated  : bitOf (s.reg (Reg.lmpSeqCtl q)) 2 = false
  node     : nodeOf (s.reg (Reg.lmpSeqGraph q)) = s.node
  region   : regionOf (arrayAt s q) = 1 ∨ regionOf (arrayAt s q) = 2
  unsigned : s.bit Reg.secStat 6 = false

section
variable {s : State} {q : Nat}

/-- LMP_SEQn_CTL holds settings out of range (R60, R62): no nodes, too many, no period, or a phase beyond it. -/
def settingsBad (c : Word) : Prop :=
  bitsOf c 16 8 = 0 ∨ 256 < bitsOf c 16 8 ∨ bitsOf c 35 20 = 0 ∨ bitsOf c 35 20 ≤ bitsOf c 51 36

/-- The codes that apply to an enable (R62). -/
abbrev enableCodes (settings place : Bool) (nodes : List Nat) (input : Bool) : List Nat :=
  causes [(settings, 1), (place, 2)] ++ nodes ++ causes [(input, 8)]

theorem enableCodes_ne_nil {settings place input : Bool} {nodes : List Nat} (h : settings = true) :
    enableCodes settings place nodes input ≠ [] := by simp [enableCodes, causes, h]

theorem enableCodes_range {settings place input : Bool} {nodes : List Nat} (hn : ∀ k ∈ nodes, 0 < k ∧ k < 16) :
    ∀ k ∈ enableCodes settings place nodes input, 0 < k ∧ k < 16 := by
  intro k hk
  rcases List.mem_append.1 hk with hk | hk
  · rcases List.mem_append.1 hk with hk | hk
    · have := mem_causes hk
      simp at this
      omega
    · exact hn k hk
  · have := mem_causes hk
    simp at this
    omega

/-- Settings out of range are refused, with one of the codes that apply (R62). -/
theorem enableGraph_refuses (hbad : settingsBad (s.reg (Reg.lmpSeqCtl q))) :
    ∃ u reason node, State.Keeps s u ∧ 0 < reason ∧ reason < 16 ∧ enableGraph s q = refuseGraph u q reason node := by
  unfold enableGraph
  extract_lets c nodes period phase base nstat n r s1 stat s2 placeBad raw bad input inp p s3
  have hkeeps : State.Keeps s s3 := by
    have h1 : State.Keeps s s1 := graphPlace_keeps (.refl s)
    have h2 : State.Keeps s s2 := by
      unfold s2 stat
      split
      · split
        · exact h1
        · exact graphPlace_keeps h1
      · exact h1
    have h3 : State.Keeps s inp.1 := by
      unfold inp
      split
      · exact readBuoy_keeps h2
      · exact h2
    exact pickCode_keeps h3
  have hn : (n == 0 || period == 0 || decide (period ≤ phase)) = true := by
    rcases hbad with h | h | h | h
    · simp [n, nodes, c, h]
    · simp [n, nodes, c, h]
    · simp [period, c, h]
    · simp [period, phase, c, h]
  have hbad' : ∀ k ∈ (bad.map (·.1)).getD [], 0 < k ∧ k < 16 := by
    intro k hk
    unfold bad at hk
    split at hk
    · simp at hk
    · have := graphCauses_range hk
      omega
  have hrange : 0 < p.2 ∧ p.2 < 16 := enableCodes_range hbad' _ (pickCode_mem inp.1 (enableCodes_ne_nil hn))
  exact ⟨s3, p.2, _, hkeeps, hrange.1, hrange.2, if_pos (by omega)⟩

/-- A graph in direct memory whose array may be read stands where its counters may be written (R60). -/
theorem graphPlace_direct {a : Word} {len : Nat} {u : State} {raw : List Byte} (hnode : nodeOf a = s.node)
    (hr : regionOf (localOf a) = 1 ∨ regionOf (localOf a) = 2) (hread : unitRead s a len 0 none = (u, stOK, raw)) :
    graphPlace s a len = (u, some true) := by
  have hle : ¬ 2 < regionOf (localOf a) := by omega
  have hne : regionOf (localOf a) ≠ 0 := by omega
  simp [graphPlace, hnode, hle, hread, hne]

theorem unitRead_nothing {a : Word} (hnode : nodeOf a = s.node) (cls : Nat) (cl : Option Nat) :
    unitRead s a 0 cls cl = (s, stOK, []) := by simp [unitRead, hnode]

/-- An array without a valid length is refused for that alone where nothing else is wrong (R62). -/
theorem enableGraph_refuses_nodes (h : DirectArray s q)
    (hn : bitsOf (s.reg (Reg.lmpSeqCtl q)) 16 8 = 0 ∨ 256 < bitsOf (s.reg (Reg.lmpSeqCtl q)) 16 8) :
    enableGraph s q = refuseGraph s q 1 0 := by
  have hzero : (if 256 < bitsOf (s.reg (Reg.lmpSeqCtl q)) 16 8 then 0 else bitsOf (s.reg (Reg.lmpSeqCtl q)) 16 8) = 0 := by
    split <;> omega
  have hle : ¬ 2 < regionOf (arrayAt s q) := by
    have := h.region
    omega
  have hplace := graphPlace_direct h.node h.region (unitRead_nothing h.node 0 none)
  simp [enableGraph, hzero, hplace, h.ungated, h.node, hle, h.unsigned, graphCauses, causes, pickCode, Config.freeBelow]

/-- The copy of a graph that an enable makes of its array `raw`, read from `s` to `u` (R60 to R62). -/
def enabledGraph (s u : State) (q : Nat) (raw : List Byte) : Graph :=
  let c := s.reg (Reg.lmpSeqCtl q)
  { gid := (seqOf u q).nextGid, nodes := (List.range (bitsOf c 16 8)).map (readNode u raw), cls := bitsOf c 4 3
    last := bitsOf c 19 17, runOn := bitOf c 1, gated := bitOf c 2, period := bitsOf c 35 20, phase := bitsOf c 51 36
    input := u.reg (Reg.lmpSeqInput q), output := u.reg (Reg.lmpSeqOutput q), ring := u.reg (Reg.lmpSeqInst q)
    counters := s.reg (Reg.lmpSeqGraph q) + 48, stride := 64, active := true, started := 0, lastIn := 0 }

/-- A sequencer keeps one graph more. -/
def Seq.addGraph (k : Seq) (g : Graph) : Seq := { k with graphs := k.graphs ++ [g], nextGid := k.nextGid + 1 }

/-- A graph in direct memory that passes the checks is kept, and its counters are written (R62). -/
theorem enableGraph_accepts {u v : State} {raw : List Byte} (h : DirectArray s q)
    (hgood : ¬ settingsBad (s.reg (Reg.lmpSeqCtl q)))
    (hread : unitRead s (s.reg (Reg.lmpSeqGraph q)) (arrayLen s q) 0 none = (u, stOK, raw))
    (hreread : unitRead u (s.reg (Reg.lmpSeqGraph q)) (arrayLen s q) 0 none = (v, stOK, raw))
    (hsec : u.bit Reg.secStat 6 = s.bit Reg.secStat 6)
    (hnodes : graphCauses raw (bitsOf (s.reg (Reg.lmpSeqCtl q)) 19 17) (bitsOf (s.reg (Reg.lmpSeqCtl q)) 16 8) = none) :
    enableGraph s q = (List.range (bitsOf (s.reg (Reg.lmpSeqCtl q)) 16 8)).foldl
      (fun t i => putCounters t q (enabledGraph s u q raw).gid i)
      ((u.modSeq q (fun k => k.addGraph (enabledGraph s u q raw))).setReg (Reg.lmpSeqCount q) 0) := by
  simp only [settingsBad, not_or, not_lt, not_le] at hgood
  obtain ⟨hpos, hmax, hperiod, hphase⟩ := hgood
  have hplace := graphPlace_direct h.node h.region hread
  have hlast : bitsOf 0#64 47 0 = 0 := by decide
  simp [enableGraph, Nat.not_lt.2 hmax, hplace, hreread, h.ungated, hsec, h.unsigned, hnodes, hpos, hperiod,
    Nat.not_le.2 hphase, causes, pickCode, enabledGraph, Seq.addGraph, hlast]

end

/-! ### What an accepted enable reads and writes (R16 to R19, R60) -/

section
variable {s t : State}

/-- What a read of direct memory may meet depends on the registers of the tier manager and of the start-up alone. -/
theorem placeCheck_direct_read {la : Nat} (len : Nat) (hr : regionOf la = 1 ∨ regionOf la = 2)
    (hctl : t.reg Reg.tirCtl = s.reg Reg.tirCtl) (hbase : t.reg Reg.tirT2Base = s.reg Reg.tirT2Base)
    (hboot : t.reg Reg.gctlBoot = s.reg Reg.gctlBoot) :
    placeCheck t la len .read none = placeCheck s la len .read none := by
  have hmanaged : hitsManaged t la len = hitsManaged s la len := by
    unfold hitsManaged tierOn managedT2 managedT1 inStaging State.bit State.fld
    rw [hctl, hbase, hboot]
  rcases hr with hr | hr <;> simp only [placeCheck, hr, hmanaged, ne_eq, not_true_eq_false, decide_false, Bool.false_and]

/-- A unit reads direct memory without media errors: the bytes that are there, counted on a port. -/
theorem unitRead_direct {a : Word} {len : Nat} (cls : Nat) (cl : Option Nat) (hnode : nodeOf a = s.node) (hlen : len ≠ 0)
    (hcross : crossesRegion (localOf a) len = false) (hplace : placeCheck s (localOf a) len .read none = stOK)
    (hr : regionOf (localOf a) = 1 ∨ regionOf (localOf a) = 2) (hmedia : s.tier.media = []) :
    unitRead s a len cls cl = (directPort s (localOf a) 0 len, stOK, s.load (localOf a) len) := by
  have hlt : regionOf (localOf a) < 4 := by omega
  have hbytes : readBytes s (localOf a) len cls cl =
      (directPort s (localOf a) 0 len, (s.load (localOf a) len).map some) := by
    rw [readBytes_direct _ _ _ _ _ hr, readDirect_noMedia _ _ (by rw [directPort_media, hmedia]), directPort_load]
  simp [unitRead, hnode, hlen, hcross, hplace, hlt, hbytes]

theorem directPort_writesOnly (s : State) (la n : Nat) :
    State.WritesOnly (fun o => o == Reg.obsTier 0 || o == Reg.obsTier 2) s (directPort s la 0 n) := by
  unfold directPort
  split
  · exact .refl _ _
  · refine .setReg ?_ (.refl _ _)
    split <;> decide

/-- A change of a key that a filter drops changes nothing of what it leaves. -/
theorem filterMap_kvSet {β γ : Type} [DecidableEq β] {d : Nat → β} {f : Nat × β → Option γ} {a : Nat}
    (hf : ∀ v, f (a, v) = none) (m : List (Nat × β)) (b : β) : (kvSet d m a b).filterMap f = m.filterMap f := by
  induction m with
  | nil =>
    unfold kvSet
    split <;> simp [hf]
  | cons e m ih =>
    obtain ⟨k, v⟩ := e
    unfold kvSet
    split_ifs with hlt hd heq hd
    · rfl
    · simp [hf]
    · subst heq
      simp [hf]
    · subst heq
      simp [hf]
    · simp only [List.filterMap_cons, ih]

/-- Registers outside INT_BW arm no buoy-watch source (R507). -/
theorem armedWatches_setReg {o : Nat} (ho : o < 0x22000 ∨ 0x22300 ≤ o) (w : Word) :
    armedWatches (s.setReg o w) = armedWatches s := by
  refine filterMap_kvSet (fun v => if_neg ?_) s.regs w
  dsimp only
  omega

theorem State.Quiet.setReg {o : Nat} (ho : o < 0x22000 ∨ 0x22300 ≤ o) (w : Word) (h : s.Quiet) : (s.setReg o w).Quiet :=
  ⟨h.ops, h.strands, (armedWatches_setReg ho w).trans h.sources⟩

theorem State.Quiet.directPort (h : s.Quiet) (la n : Nat) : (directPort s la 0 n).Quiet := by
  unfold Machine.directPort
  split
  · exact h
  · exact h.setReg (by split <;> decide) _

theorem rawStore_mem (s : State) (a : Word) (bs : List Byte) : ∃ m, (rawStore s a bs).1 = { s with mem := m } := by
  unfold rawStore
  dsimp only
  split_ifs <;> exact ⟨_, rfl⟩

/-- Where nothing waits on memory, a write of the counters of a node changes memory alone. -/
theorem putCounters_quiet (h : s.Quiet) (q gid i : Nat) : ∃ m, putCounters s q gid i = { s with mem := m } := by
  have hstore (a : Word) (bs : List Byte) : ∃ m, (hwStore s a bs).1 = { s with mem := m } := by
    obtain ⟨m, hm⟩ := rawStore_mem s a bs
    have hq : (rawStore s a bs).1.Quiet := by
      rw [hm]
      exact ⟨h.ops, h.strands, h.sources⟩
    refine ⟨m, ?_⟩
    rw [hwStore, ← hm]
    dsimp only
    split
    · exact settle_quiet _ hq
    · rfl
  unfold putCounters
  split
  · exact ⟨s.mem, rfl⟩
  · split
    · exact ⟨s.mem, rfl⟩
    · exact hstore _ _

theorem foldl_putCounters_quiet (q gid : Nat) (is : List Nat) (h : s.Quiet) :
    ∃ m, is.foldl (fun t i => putCounters t q gid i) s = { s with mem := m } := by
  induction is generalizing s with
  | nil => exact ⟨s.mem, rfl⟩
  | cons i is ih =>
    obtain ⟨m, hm⟩ := putCounters_quiet h q gid i
    obtain ⟨m', hm'⟩ := ih (s := { s with mem := m }) ⟨h.ops, h.strands, h.sources⟩
    exact ⟨m', by rw [List.foldl_cons, hm, hm']⟩

end

/-! ### A graph in direct memory (R62) -/

theorem settingsBad_enabledCtl (c : Word) : settingsBad (enabledCtl c) ↔ settingsBad c := by
  rw [settingsBad, enabledCtl_field c (by decide) (by decide), enabledCtl_field c (by decide) (by decide),
    enabledCtl_field c (by decide) (by decide)]
  rfl

section
variable {s : State} {q : Nat}

theorem directPort_seqs (s : State) (la k n : Nat) : (directPort s la k n).seqs = s.seqs := by rw [directPort_only_regs]

theorem directPort_tier (s : State) (la k n : Nat) : (directPort s la k n).tier = s.tier := by rw [directPort_only_regs]

/-- A read of direct memory counts in the registers of two ports alone. -/
theorem directPort_reg (hs : kvWf regReset s.regs = true) (la n : Nat) {o : Nat}
    (ho : o ≠ Reg.obsTier 0 ∧ o ≠ Reg.obsTier 2) : (directPort s la 0 n).reg o = s.reg o :=
  ((directPort_writesOnly s la n).regs hs).2 o (by simp [ho.1, ho.2])

theorem activeGraph_addGraph {k : Seq} {g : Graph} (hk : ∀ h ∈ k.graphs, h.active = false) (hg : g.active = true) :
    (k.addGraph g).graphs.find? (·.active) = some g := by
  have hnone : k.graphs.find? (·.active) = none := by
    rw [List.find?_eq_none]
    intro h hh
    simp [hk h hh]
  simp [Seq.addGraph, List.find?_append, hnone, hg]

/-- The array of a graph in direct memory can be read and passes the checks, and nothing waits on a buoy. -/
structure GoodArray (s : State) (q : Nat) : Prop extends DirectArray s q where
  settings : ¬ settingsBad (s.reg (Reg.lmpSeqCtl q))
  media    : s.tier.media = []
  within   : crossesRegion (arrayAt s q) (arrayLen s q) = false
  place    : placeCheck s (arrayAt s q) (arrayLen s q) .read none = stOK
  quiet    : s.Quiet
  nodes    : graphCauses (s.load (arrayAt s q) (arrayLen s q)) (bitsOf (s.reg (Reg.lmpSeqCtl q)) 19 17)
    (bitsOf (s.reg (Reg.lmpSeqCtl q)) 16 8) = none

/-- The graph that an enable takes from direct memory. -/
def directGraph (s : State) (q : Nat) : Graph :=
  enabledGraph s (directPort s (arrayAt s q) 0 (arrayLen s q)) q (s.load (arrayAt s q) (arrayLen s q))

/-- Beside the graph and COUNT only the counters of a port and of the nodes change. -/
theorem enableGraph_direct (hs : kvWf regReset s.regs = true) (hq : q < 16) (h : GoodArray s q) :
    ∃ m, enableGraph s q = { ((directPort s (arrayAt s q) 0 (arrayLen s q)).modSeq q
      (fun k => k.addGraph (directGraph s q))).setReg (Reg.lmpSeqCount q) 0 with mem := m } := by
  obtain ⟨hdirect, hgood, hmedia, hcross, hplace, hquiet, hnodes⟩ := h
  have hlen : arrayLen s q ≠ 0 := by
    simp only [settingsBad, not_or] at hgood
    exact Nat.mul_ne_zero (by decide) hgood.1
  have hread := unitRead_direct 0 none hdirect.node hlen hcross hplace hdirect.region hmedia
  have hport {o : Nat} (ho : o ≠ Reg.obsTier 0 ∧ o ≠ Reg.obsTier 2) :=
    directPort_reg hs (arrayAt s q) (arrayLen s q) ho
  have hreread := unitRead_direct (s := directPort s (arrayAt s q) 0 (arrayLen s q)) 0 none
    (hdirect.node.trans (congrArg (bitsOf · 9 0) (hport (by decide))).symm) hlen hcross
    ((placeCheck_direct_read _ hdirect.region (hport (by decide)) (hport (by decide)) (hport (by decide))).trans hplace)
    hdirect.region (by rw [directPort_media, hmedia])
  rw [directPort_load] at hreread
  rw [enableGraph_accepts hdirect hgood hread hreread (congrArg (bitOf · 6) (hport (by decide))) hnodes]
  have hcount : Reg.lmpSeqCount q < 0x22000 := by simp only [Reg.lmpSeqCount]; omega
  have hquiet' := hquiet.directPort (arrayAt s q) (arrayLen s q)
  exact foldl_putCounters_quiet q _ _ (.setReg (.inl hcount) 0 ⟨hquiet'.ops, hquiet'.strands, hquiet'.sources⟩)

/-- The sequencer after an enable in direct memory: its graph is the enabled one, and its instances stand. -/
theorem directGraph_active (hq : q < s.seqs.length) (hactive : ∀ g ∈ (seqOf s q).graphs, g.active = false) {t : State}
    {la n : Nat}
    (ht : t.seqs = ((directPort s la 0 n).modSeq q (fun k => k.addGraph (directGraph s q))).seqs) :
    activeGraph t q = some (directGraph s q) ∧ (seqOf t q).insts = (seqOf s q).insts := by
  have hseq : seqOf t q = (seqOf s q).addGraph (directGraph s q) := by
    have hport : seqOf (directPort s la 0 n) q = seqOf s q := by rw [seqOf, directPort_seqs]; rfl
    rw [← hport, ← seqOf_modSeq (by rwa [directPort_seqs]) (fun k => k.addGraph (directGraph s q)), seqOf, ht]
    rfl
  rw [activeGraph, hseq]
  exact ⟨activeGraph_addGraph hactive rfl, rfl⟩

end

/-! ### What GRAPH_ENABLE answers (R58, R62) -/

section
variable {s : State} {q : Fin 16}

/-- LMP_SEQn_CTL with EN at 1, as the checks of an enable find it (R58, R62). -/
def State.enabling (s : State) (q : Nat) : State := s.setReg (Reg.lmpSeqCtl q) (enabledCtl (s.reg (Reg.lmpSeqCtl q)))

theorem enabling_ctl (hs : kvWf regReset s.regs = true) (q : Nat) :
    (s.enabling q).reg (Reg.lmpSeqCtl q) = enabledCtl (s.reg (Reg.lmpSeqCtl q)) := by
  rw [State.enabling, State.reg_setReg hs, if_pos rfl]

theorem enabling_reg (hs : kvWf regReset s.regs = true) {q o : Nat} (ho : o ≠ Reg.lmpSeqCtl q) :
    (s.enabling q).reg o = s.reg o := State.reg_setReg_ne hs _ ho

theorem enabling_wf (hs : kvWf regReset s.regs = true) (q : Nat) : kvWf regReset (s.enabling q).regs = true :=
  State.setReg_wf hs ..

theorem enabling_inv (h : s.Inv) (q : Nat) : (s.enabling q).Inv := (State.setReg_keeps (.refl s)).inv h

theorem exec_graphEnable_refused (hinv : s.Inv) (hen : bitOf (s.reg (Reg.lmpSeqCtl q.val)) 0 = false)
    (hbad : settingsBad (s.reg (Reg.lmpSeqCtl q.val))) :
    ∃ t, exec (.graphEnable q) s = .next t ∧ t.bit (Reg.lmpSeqErr q.val) 0 = true ∧
      t.fld (Reg.lmpSeqStat q.val) 15 12 ≠ 0 ∧ t.bit (Reg.lmpSeqCtl q.val) 0 = false := by
  have hbad' : settingsBad ((s.enabling q.val).reg (Reg.lmpSeqCtl q.val)) := by
    rwa [enabling_ctl hinv.canon.regs, settingsBad_enabledCtl]
  obtain ⟨u, reason, node, hkeeps, hpos, hlt, heq⟩ := enableGraph_refuses hbad'
  have hwf := (hkeeps.inv (enabling_inv hinv q.val)).canon.regs
  obtain ⟨v, -, -, herr, hreason, hctl⟩ := refuseGraph_facts hwf q.isLt hlt node
  exact ⟨_, (exec_graphEnable hen).trans (congrArg _ heq), herr, by rw [hreason]; omega, hctl⟩

theorem State.SameRest.eq_regs {s t : State} (h : State.SameRest s t) : t = { s with regs := t.regs } := by
  obtain ⟨r, rfl⟩ := h
  rfl

theorem DirectArray.enabling (hs : kvWf regReset s.regs = true) {q : Nat} (hq : q < 16) (h : DirectArray s q) :
    DirectArray (s.enabling q) q := by
  have hgraph : (s.enabling q).reg (Reg.lmpSeqGraph q) = s.reg (Reg.lmpSeqGraph q) :=
    enabling_reg hs (by simp only [Reg.lmpSeqGraph, Reg.lmpSeqCtl]; omega)
  have hfab : (s.enabling q).node = s.node :=
    congrArg (bitsOf · 9 0) (enabling_reg hs (by simp only [Reg.lmpSeqCtl, Reg.fabNode]; omega))
  refine ⟨?_, by rw [hgraph, hfab]; exact h.node, by rw [arrayAt, hgraph]; exact h.region,
    (congrArg (bitOf · 6) (enabling_reg hs (by simp only [Reg.lmpSeqCtl, Reg.secStat]; omega))).trans h.unsigned⟩
  rw [enabling_ctl hs, enabledCtl_bit _ (by decide) (by decide)]
  exact h.ungated

theorem GoodArray.enabling (hs : kvWf regReset s.regs = true) {q : Nat} (hq : q < 16) (h : GoodArray s q) :
    GoodArray (s.enabling q) q := by
  have hat : arrayAt (s.enabling q) q = arrayAt s q :=
    congrArg localOf (enabling_reg hs (by simp only [Reg.lmpSeqGraph, Reg.lmpSeqCtl]; omega))
  have hnum : bitsOf ((s.enabling q).reg (Reg.lmpSeqCtl q)) 16 8 = bitsOf (s.reg (Reg.lmpSeqCtl q)) 16 8 := by
    rw [enabling_ctl hs, enabledCtl_field _ (by decide) (by decide)]
  have hlast : bitsOf ((s.enabling q).reg (Reg.lmpSeqCtl q)) 19 17 = bitsOf (s.reg (Reg.lmpSeqCtl q)) 19 17 := by
    rw [enabling_ctl hs, enabledCtl_field _ (by decide) (by decide)]
  have hlen : arrayLen (s.enabling q) q = arrayLen s q := congrArg (64 * ·) hnum
  have hplace : placeCheck (s.enabling q) (arrayAt s q) (arrayLen s q) .read none =
      placeCheck s (arrayAt s q) (arrayLen s q) .read none :=
    placeCheck_direct_read _ h.region (enabling_reg hs (by simp only [Reg.lmpSeqCtl, Reg.tirCtl]; omega))
      (enabling_reg hs (by simp only [Reg.lmpSeqCtl, Reg.tirT2Base]; omega))
      (enabling_reg hs (by simp only [Reg.lmpSeqCtl, Reg.gctlBoot]; omega))
  refine ⟨h.toDirectArray.enabling hs hq, ?_, h.media, by rw [hat, hlen]; exact h.within, ?_, ?_, ?_⟩
  · rw [enabling_ctl hs, settingsBad_enabledCtl]
    exact h.settings
  · rw [hat, hlen, hplace]
    exact h.place
  · exact h.quiet.setReg (.inl (by simp only [Reg.lmpSeqCtl]; omega)) _
  · rw [hat, hlen, hlast, hnum]
    exact h.nodes

/-- With no valid number of nodes and nothing else wrong, the reason is 1, and only the refusal shows. -/
theorem exec_graphEnable_refused_nodes (hs : kvWf regReset s.regs = true)
    (hen : bitOf (s.reg (Reg.lmpSeqCtl q.val)) 0 = false) (h : DirectArray s q.val)
    (hn : bitsOf (s.reg (Reg.lmpSeqCtl q.val)) 16 8 = 0 ∨ 256 < bitsOf (s.reg (Reg.lmpSeqCtl q.val)) 16 8) :
    ∃ t u, exec (.graphEnable q) s = .next t ∧ u = { s with regs := u.regs } ∧ State.Signals u t ∧
      (∀ o, o ∉ [Reg.lmpSeqCtl q.val, Reg.lmpSeqStat q.val, Reg.lmpSeqErr q.val] → u.reg o = s.reg o) ∧
      t.bit (Reg.lmpSeqErr q.val) 0 = true ∧ t.fld (Reg.lmpSeqStat q.val) 15 12 = 1 ∧
      t.bit (Reg.lmpSeqCtl q.val) 0 = false := by
  have heq : enableGraph (s.enabling q.val) q.val = refuseGraph (s.enabling q.val) q.val 1 0 :=
    enableGraph_refuses_nodes (h.enabling hs q.isLt)
      (by rwa [enabling_ctl hs, enabledCtl_field _ (by decide) (by decide)])
  obtain ⟨v, hv, hsig, herr, hreason, hctl⟩ := refuseGraph_facts (enabling_wf hs q.val) q.isLt (reason := 1) (by decide) 0
  have hsv : State.WritesOnly (refusalReg q.val) s v := .trans (.setReg (by simp [refusalReg]) (.refl _ _)) hv
  exact ⟨_, v, (exec_graphEnable hen).trans (congrArg _ heq), hsv.same.eq_regs, hsig,
    fun o ho => (hsv.regs hs).2 o (by simpa [refusalReg, and_assoc] using ho), herr, hreason, hctl⟩

/-- A graph in direct memory that passes the checks is taken as LMP_SEQn_CTL says. -/
theorem exec_graphEnable_taken (hinv : s.Inv) (hen : bitOf (s.reg (Reg.lmpSeqCtl q.val)) 0 = false)
    (hactive : ∀ g ∈ (seqOf s q.val).graphs, g.active = false) (h : GoodArray s q.val) :
    ∃ t, exec (.graphEnable q) s = .next t ∧ activeGraph t q.val = some (directGraph (s.enabling q.val) q.val) ∧
      t.bit (Reg.lmpSeqCtl q.val) 0 = true ∧ t.reg (Reg.lmpSeqCount q.val) = 0 ∧
      (seqOf t q.val).insts = (seqOf s q.val).insts := by
  have hs := hinv.canon.regs
  have hs1 := enabling_wf hs q.val
  obtain ⟨m, hm⟩ := enableGraph_direct hs1 q.isLt (h.enabling hs q.isLt)
  have hport := directPort_writesOnly (s.enabling q.val) (arrayAt (s.enabling q.val) q.val) (arrayLen (s.enabling q.val) q.val)
  have hwf := (hport.regs hs1).1
  have hseqs : q.val < (s.enabling q.val).seqs.length := by
    have hshape : s.seqs.length = 16 := hinv.shape.seqs
    exact (q.isLt.trans_eq hshape.symm)
  obtain ⟨hgraph, hinsts⟩ := directGraph_active hseqs hactive (t := enableGraph (s.enabling q.val) q.val)
    (la := arrayAt (s.enabling q.val) q.val) (n := arrayLen (s.enabling q.val) q.val) (by rw [hm]; rfl)
  refine ⟨_, exec_graphEnable hen, hgraph, ?_, ?_, hinsts⟩
  · have hctl : (enableGraph (s.enabling q.val) q.val).reg (Reg.lmpSeqCtl q.val) = enabledCtl (s.reg (Reg.lmpSeqCtl q.val)) := by
      rw [← enabling_ctl hs, hm]
      exact (State.reg_setReg_ne hwf _ (by simp only [Reg.lmpSeqCtl, Reg.lmpSeqCount]; omega)).trans
        (directPort_reg hs1 _ _ (by simp only [Reg.lmpSeqCtl, Reg.obsTier]; omega))
    exact (congrArg (bitOf · 0) hctl).trans (enabledCtl_en _)
  · exact (congrArg (State.reg · _) hm).trans ((State.reg_setReg hwf _ _ _).trans (if_pos rfl))

/-- The graph that is taken has the settings of LMP_SEQn_CTL. -/
theorem directGraph_settings (hs : kvWf regReset s.regs = true) {q : Nat}
    (hgated : bitOf (s.reg (Reg.lmpSeqCtl q)) 2 = false) :
    let c := s.reg (Reg.lmpSeqCtl q)
    let g := directGraph (s.enabling q) q
    g.nodes.length = bitsOf c 16 8 ∧ g.cls = bitsOf c 4 3 ∧ g.last = bitsOf c 19 17 ∧ g.period = bitsOf c 35 20 ∧
      g.phase = bitsOf c 51 36 ∧ g.runOn = bitOf c 1 ∧ g.gated = false ∧ g.started = 0 := by
  have hfield {hi lo : Nat} (h0 : 0 < lo) (hm : bitsOf 0x000FFFFFFFFFFF1F hi lo = 2 ^ (hi + 1 - lo) - 1) :
      bitsOf ((s.enabling q).reg (Reg.lmpSeqCtl q)) hi lo = bitsOf (s.reg (Reg.lmpSeqCtl q)) hi lo := by
    rw [enabling_ctl hs, enabledCtl_field _ h0 hm]
  have hbit {i : Nat} (h0 : 0 < i) (hm : bitOf 0x000FFFFFFFFFFF1F i = true) :
      bitOf ((s.enabling q).reg (Reg.lmpSeqCtl q)) i = bitOf (s.reg (Reg.lmpSeqCtl q)) i := by
    rw [enabling_ctl hs, enabledCtl_bit _ h0 hm]
  refine ⟨?_, hfield (by decide) (by decide), hfield (by decide) (by decide), hfield (by decide) (by decide),
    hfield (by decide) (by decide), hbit (by decide) (by decide), (hbit (by decide) (by decide)).trans hgated, rfl⟩
  simp only [directGraph, enabledGraph, List.length_map, List.length_range]
  exact hfield (by decide) (by decide)

end

/-- Settles O19: an enable is refused by the codes that apply or keeps a copy of its graph, a disable marks the graphs, and a
node closes by one completion record after the other. -/
theorem graphsRunTheirNodes : Obligations.GraphsRunTheirNodes := by
  refine ⟨fun s q hinv => ⟨fun hen hactive => ⟨exec_graphEnable_refused hinv hen, fun hn hgated hnode hr hsigned => ?_,
      fun hpos hmax hperiod hphase hgated hnode hr hmedia hcross hplace hsigned hquiet hnodes => ?_⟩, exec_graphDisable⟩,
    fun s q uid i x g n hx hg hn => ⟨fun hl hlaunched habort hdone => ⟨?_, fun hcomp => ?_⟩,
      fun left ok hphase => ⟨fun hleft => ?_, fun hleft => ?_⟩⟩⟩
  · exact exec_graphEnable_refused_nodes hinv.canon.regs hen ⟨hgated, hnode, hr, hsigned⟩ hn
  · have hgood : ¬ settingsBad (s.reg (Reg.lmpSeqCtl q.val)) := by
      simp only [settingsBad]
      omega
    obtain ⟨t, hexec, hgraph, hctl, hcount, hinsts⟩ := exec_graphEnable_taken hinv hen hactive
      ⟨⟨hgated, hnode, hr, hsigned⟩, hgood, hmedia, hcross, hplace, hquiet, hnodes⟩
    obtain ⟨hlen, hcls, hlast, hper, hph, hrunOn, hungated, hstarted⟩ := directGraph_settings hinv.canon.regs hgated
    exact ⟨t, _, hexec, hgraph, hctl, hcount, hlen, hcls, hlast, hper, hph, hrunOn, hungated, hstarted, hinsts⟩
  · exact exec_nodeDone_last hx hg hn hl hlaunched habort hdone
  · intro u hwait
    exact exec_nodeDone_record hx hg hn hl hlaunched habort hdone hcomp rfl hwait
  · subst hleft
    exact congrArg _ (closeNode_last hx hg hphase)
  · intro u hwait
    exact congrArg _ (closeNode_issues_one hx hg hphase hleft hn rfl hwait)

end Sys2Proof.Machine
end

section
/-! PROOFS. A failed flash channel or die: sticky bits, and an interrupt source that stays pending (R137, R230, R232, R490,
R498). -/

namespace Sys2Proof.Machine

section
variable {s t : State}

/-! ### Sticky bits, whether they stood or rise (R7) -/

/-- A bit that stands already is set without a change of any register. -/
theorem signals_setBit_of_set (hs : kvWf regReset s.regs = true) {off i : Nat} (hi : i < 64) (hb : s.bit off i = true) :
    State.Signals (s.setBit off i true) s := by
  refine { State.Signals.refl s with regs := fun _ => ⟨hs, fun o _ => ?_⟩ }
  rw [State.reg_setBit hs]
  split
  · next heq =>
    subst heq
    refine BitVec.eq_of_getLsbD_eq fun j _ => ?_
    rw [if_pos rfl, putBits_getLsbD _ _ _ _ _ hi (Nat.le_refl _)]
    split
    · rw [show j = i by omega, Nat.sub_self]
      exact hb
    · rfl
  · rfl

/-- A sticky bit is set, whether it stood or rises, and signalling follows. -/
theorem sticky_signals_setBit (hs : kvWf regReset s.regs = true) {off bit : Nat} {src : Option Nat} (hb : bit < 64)
    (hn : ∀ n, src = some n → n < 256) : State.Signals (s.setBit off bit true) (sticky s off bit src) := by
  cases hbit : s.bit off bit with
  | true => rw [sticky_of_set _ hbit]; exact signals_setBit_of_set hs hb hbit
  | false => exact sticky_signals hn hbit

/-- A bit outside the signalled registers, set before signalling or after it. -/
theorem State.Signals.setBit_congr (hs : kvWf regReset s.regs = true) {off i : Nat} {b : Bool} (ho : sigReg off = false)
    (h : State.Signals s t) : State.Signals (s.setBit off i b) (t.setBit off i b) := by
  obtain ⟨ht, hreg⟩ := h.regs hs
  refine { h with regs := fun _ => ⟨State.setBit_wf ht .., fun o hno => ?_⟩ }
  rw [State.reg_setBit ht, State.reg_setBit hs, hreg off ho, hreg o hno]

/-- Signalling leaves the bits of every other register. -/
theorem State.Signals.bit_eq (hs : kvWf regReset s.regs = true) {off : Nat} (ho : sigReg off = false) (h : State.Signals s t)
    (i : Nat) : t.bit off i = s.bit off i := by
  rw [State.bit, (h.regs hs).2 off ho]
  rfl

/-- A bit of another place stands through a set bit. -/
theorem bit_setBit_ne (hs : kvWf regReset s.regs = true) {off i o j : Nat} {b : Bool} (hi : i < 64) (hne : o ≠ off ∨ j ≠ i) :
    (s.setBit off i b).bit o j = s.bit o j := by
  rw [State.bit, State.reg_setBit hs]
  split
  · next heq =>
    subst heq
    exact bitOf_putBits_ne _ _ _ _ _ hi (Nat.le_refl _) (by omega)
  · rfl

end

/-! ### A pending source stays pending through deliveries, records and a freeze (R429, R488, R490, R498) -/

/-- The register file is in canonical form and source `n` is pending. -/
def State.Pends (s : State) (n : Nat) : Prop :=
  kvWf regReset s.regs = true ∧ s.bit (Reg.intPend (n / 64)) (n % 64) = true

section
variable {s : State} {n : Nat}

theorem State.Pends.setPend {k b : Nat} (hb : b < 64) (h : s.Pends n) : (s.setBit (Reg.intPend k) b true).Pends n := by
  refine ⟨State.setBit_wf h.1 .., ?_⟩
  by_cases heq : Reg.intPend (n / 64) = Reg.intPend k ∧ n % 64 = b
  · rw [heq.1, heq.2]
    exact State.bit_setBit h.1 _ _ _ hb
  · rw [bit_setBit_ne h.1 hb (by omega)]
    exact h.2

theorem State.Pends.foldl {α : Type} {f : State → α → State} {xs : List α}
    (hf : ∀ t, ∀ x ∈ xs, t.Pends n → (f t x).Pends n) (h : s.Pends n) : (xs.foldl f s).Pends n := by
  induction xs generalizing s with
  | nil => exact h
  | cons x xs ih => exact ih (fun t y hy => hf t y (List.mem_cons_of_mem _ hy)) (hf s x List.mem_cons_self h)

variable (hn : n < 256)
include hn

theorem State.Pends.setReg {off : Nat} {w : Word} (ho : off < 0x20000 ∨ 0x20020 ≤ off) (h : s.Pends n) :
    (s.setReg off w).Pends n := by
  refine ⟨State.setReg_wf h.1 .., ?_⟩
  have hne : Reg.intPend (n / 64) ≠ off := by simp only [Reg.intPend]; omega
  rw [State.bit, State.reg_setReg_ne h.1 _ hne]
  exact h.2

theorem State.Pends.setBit {off i : Nat} {b : Bool} (ho : off < 0x20000 ∨ 0x20020 ≤ off) (h : s.Pends n) :
    (s.setBit off i b).Pends n := h.setReg hn ho

theorem State.Pends.msixDue {v : Nat} (h : s.Pends n) : (msixDue s v).Pends n := by
  unfold Machine.msixDue
  split
  · exact h
  · exact h.setBit hn (by decide)

theorem State.Pends.deliverAll {srcs : List Nat} (h : s.Pends n) : (deliverAll s srcs).Pends n :=
  State.Pends.foldl (s := s) (fun _ _ _ ht => ht.msixDue hn) h

theorem State.Pends.raiseCore {m : Nat} (h : s.Pends n) : (raiseCore s m).Pends n := by
  have hset : (s.setBit (Reg.intPend (m / 64)) (m % 64) true).Pends n := h.setPend (Nat.mod_lt _ (by decide))
  unfold Machine.raiseCore
  extract_lets k b t
  split
  · exact h
  · split
    · exact hset.deliverAll hn
    · exact hset

theorem State.Pends.stickyCore {off bit : Nat} {src : Option Nat} (ho : off < 0x20000 ∨ 0x20020 ≤ off) (h : s.Pends n) :
    (stickyCore s off bit src).Pends n := by
  unfold Machine.stickyCore
  extract_lets t
  split
  · exact h
  · split
    · exact (h.setBit hn ho).raiseCore hn
    · exact h.setBit hn ho

theorem State.Pends.trPush {k : Nat} {r : ObsRec} {f : Bool} (h : s.Pends n) : (trPush s k r f).Pends n := by
  have hcount : Reg.obsTrCount k < 0x20000 ∨ 0x20020 ≤ Reg.obsTrCount k := by simp only [Reg.obsTrCount]; omega
  unfold Machine.trPush
  extract_lets b full u
  have hu : u.Pends n := by
    unfold u
    split
    · exact h.stickyCore hn (by decide)
    · exact h
  clear_value u
  split
  · split_ifs <;> exact hu
  · split_ifs <;> exact hu
  · split
    · exact hu
    · exact hu.setReg hn hcount
    · extract_lets w
      split
      · exact State.Pends.setBit (s := w) hn (by decide) hu
      · exact hu
  · split <;> exact hu

theorem State.Pends.freezeBuf {c k : Nat} (h : s.Pends n) : (freezeBuf c s k).Pends n := by
  unfold Machine.freezeBuf
  extract_lets w e u b kept v x
  have hu : u.Pends n := h
  split
  · exact h
  · split
    · exact hu.trPush hn
    · split
      · split
        · exact State.Pends.setBit (s := v) hn (by decide) hu
        · exact hu
      · exact (hu.trPush hn).setBit hn (by decide)

theorem State.Pends.snapCounters (h : s.Pends n) : (snapCounters s).Pends n :=
  h.foldl fun _ _ _ ht => ht.setReg hn (.inr (by simp only [Reg.obsSnap]; omega))

theorem State.Pends.freezeNow {c : Nat} (h : s.Pends n) : (freezeNow s c).Pends n := by
  unfold Machine.freezeNow
  extract_lets o s1 s2 s3 s4 s5 s6 o' s7
  have h2 : s2.Pends n := by
    unfold s2
    split
    · exact State.Pends.raiseCore (s := s1) hn h
    · exact h
  clear_value s2
  have h3 : s3.Pends n := h2.foldl fun _ _ _ ht => ht.freezeBuf hn
  clear_value s3
  have h5 : s5.Pends n := (h3.setBit hn (by decide)).snapCounters hn
  clear_value s5
  have h6 : s6.Pends n := h5.setReg hn (by decide)
  have h7 : s7.Pends n := by
    unfold s7
    split <;> exact h6
  split
  · exact h2
  · exact h7.raiseCore hn

theorem State.Pends.freezeRisen {b : State} (h : s.Pends n) : (freezeRisen b s).Pends n := by
  unfold Machine.freezeRisen
  extract_lets
  split
  · exact h.freezeNow hn
  · exact h

/-- A raised source is pending (R498). -/
theorem raise_pends (hs : kvWf regReset s.regs = true) : (raise s n).Pends n := by
  refine State.Pends.freezeRisen hn ?_
  unfold raiseCore
  extract_lets k b t
  split
  · next hset => exact ⟨hs, hset⟩
  · have ht : t.Pends n := ⟨State.setBit_wf hs .., State.bit_setBit hs _ _ _ (Nat.mod_lt _ (by decide))⟩
    split
    · exact ht.deliverAll hn
    · exact ht

end

/-! ### Channels and dies (R230, R232, R545) -/

/-- FAILED and the error bit of a channel that is declared failed. -/
def State.markFailed (s : State) (c : Nat) : State := (s.setBit (Reg.brmStat c) 0 true).setBit (Reg.brmErr c) 3 true

section
variable {s t : State} {c : Nat}

theorem brmStat_unsignalled (c : Nat) : sigReg (Reg.brmStat c) = false := by
  simp [sigReg, Reg.brmStat, Reg.hstMsixPba]; omega

theorem brmErr_unsignalled (c : Nat) : sigReg (Reg.brmErr c) = false := by
  simp [sigReg, Reg.brmErr, Reg.hstMsixPba]; omega

theorem State.Signals.markFailed_congr (hs : kvWf regReset s.regs = true) (h : State.Signals s t) :
    State.Signals (s.markFailed c) (t.markFailed c) :=
  (h.setBit_congr hs (brmStat_unsignalled c)).setBit_congr (State.setBit_wf hs ..) (brmErr_unsignalled c)

/-- A channel that has not failed is marked, and its interrupt raised. -/
theorem failChannel_marks (hs : kvWf regReset s.regs = true) (hc : c < 16) (h : channelFailed s c = false) :
    State.Signals (s.markFailed c) (failChannel s c) ∧ (failChannel s c).Pends (65 + 2 * c) := by
  have hstat : kvWf regReset (s.setBit (Reg.brmStat c) 0 true).regs = true := State.setBit_wf hs ..
  have hsticky : State.Signals (s.markFailed c)
      (sticky (s.setBit (Reg.brmStat c) 0 true) (Reg.brmErr c) 3 (some (64 + 2 * c))) :=
    sticky_signals_setBit hstat (by decide) (by simp; omega)
  rw [failChannel, if_neg (by simp [h])]
  exact ⟨raise_signals (by omega) hsticky, raise_pends (by omega) (hsticky.regs (State.setBit_wf hstat ..)).1⟩

/-- A die that has not failed is marked with its error bit, and signalling follows; the channel fails when the other die has
failed too. -/
theorem exec_dieFailed (hs : kvWf regReset s.regs = true) (ch : Fin 16) (die : Fin 2)
    (h : s.bit (Reg.brmStat ch.val) (1 + die.val) = false) :
    ∃ u, State.Signals ((s.setBit (Reg.brmStat ch.val) (1 + die.val) true).setBit (Reg.brmErr ch.val) 1 true) u ∧
      exec (.dieFailed ch die) s =
        .next (if s.bit (Reg.brmStat ch.val) (2 - die.val) then failChannel u ch.val else u) := by
  let v := s.setBit (Reg.brmStat ch.val) (1 + die.val) true
  have hdie : 1 + die.val < 64 := by omega
  have hv : kvWf regReset v.regs = true := State.setBit_wf hs ..
  have hsig : State.Signals (v.setBit (Reg.brmErr ch.val) 1 true) (sticky v (Reg.brmErr ch.val) 1 (some (64 + 2 * ch.val))) :=
    sticky_signals_setBit hv (by decide) (by simp; omega)
  have hne : Reg.brmStat ch.val ≠ Reg.brmErr ch.val := by simp only [Reg.brmStat, Reg.brmErr]; omega
  have hbit (i : Nat) : (sticky v (Reg.brmErr ch.val) 1 (some (64 + 2 * ch.val))).bit (Reg.brmStat ch.val) i =
      v.bit (Reg.brmStat ch.val) i := by
    rw [hsig.bit_eq (State.setBit_wf hv ..) (brmStat_unsignalled _), bit_setBit_ne hv (by decide) (.inl hne)]
  have hown : v.bit (Reg.brmStat ch.val) (1 + die.val) = true := State.bit_setBit hs _ _ _ hdie
  have hother : v.bit (Reg.brmStat ch.val) (2 - die.val) = s.bit (Reg.brmStat ch.val) (2 - die.val) :=
    bit_setBit_ne hs hdie (.inr (by omega))
  have hboth : (v.bit (Reg.brmStat ch.val) 1 && v.bit (Reg.brmStat ch.val) 2) = s.bit (Reg.brmStat ch.val) (2 - die.val) := by
    rw [← hother]
    match die with
    | 0 => rw [show v.bit (Reg.brmStat ch.val) 1 = true from hown]; rfl
    | 1 => rw [show v.bit (Reg.brmStat ch.val) 2 = true from hown, Bool.and_true]; rfl
  refine ⟨_, hsig, ?_⟩
  show execDieFailed ch die s = _
  simp only [execDieFailed, h, Bool.false_eq_true, if_false]
  rw [hbit, hbit, hboth]

end

/-- Settles O33: the bits are set before the signals they raise, and a raised source stays pending through them. -/
theorem flashChannelsAndDiesFail : Obligations.FlashChannelsAndDiesFail := by
  intro s ch die hinv c gone
  have hs := hinv.canon.regs
  refine ⟨fun h => ?_, fun h => ⟨fun hother => ?_, fun hother hchan => ?_⟩, rfl⟩
  · obtain ⟨hsig, hpend⟩ := failChannel_marks hs ch.isLt h
    exact ⟨_, rfl, hsig, hpend.2⟩
  · obtain ⟨u, hsig, hexec⟩ := exec_dieFailed hs ch die h
    exact ⟨u, by rw [hexec, hother]; rfl, hsig⟩
  · obtain ⟨u, hsig, hexec⟩ := exec_dieFailed hs ch die h
    have hv : kvWf regReset ((s.setBit (Reg.brmStat c) (1 + die.val) true).setBit (Reg.brmErr c) 1 true).regs = true :=
      State.setBit_wf (State.setBit_wf hs ..) ..
    have hne : Reg.brmStat c ≠ Reg.brmErr c := by simp only [Reg.brmStat, Reg.brmErr]; omega
    have hstill : channelFailed u c = false := by
      rw [channelFailed, hsig.bit_eq hv (brmStat_unsignalled c), bit_setBit_ne (State.setBit_wf hs ..) (by decide) (.inl hne),
        bit_setBit_ne hs (by omega) (.inr (by omega))]
      exact hchan
    refine ⟨failChannel u c, by rw [hexec, hother]; rfl, (hsig.markFailed_congr hv).trans ?_⟩
    exact (failChannel_marks (hsig.regs hv).1 ch.isLt hstill).1

end Sys2Proof.Machine
end

section
/-! PROOFS. The settings of the tier manager and its patrol scrub (R112, R128, R129, R136, R139). -/

namespace Sys2Proof.Machine

/-! ### TIER_ENABLE (R112, R139) -/

section
variable {s t : State}

/-- What TIER_ENABLE writes in TIR_CTL before it sets EN. -/
def State.tirCtlSet (s : State) (v : Word) : State :=
  (s.setFld Reg.tirCtl 12 8 (min 16 (bitsOf v 12 8))).setBit Reg.tirCtl 1 (bitOf v 1)

theorem tirCtlSet_writesOnly (s : State) (v : Word) : State.WritesOnly (· == Reg.tirCtl) s (s.tirCtlSet v) :=
  .setFld (by simp) (.setFld (by simp) (.refl _ _))

theorem tierOn_tirCtlSet (hs : kvWf regReset s.regs = true) (v : Word) : tierOn (s.tirCtlSet v) = tierOn s := by
  rw [tierOn, State.tirCtlSet, bit_setBit_ne (State.setFld_wf hs ..) (by decide) (.inr (by decide)), State.bit,
    State.reg_setFld hs, if_pos rfl, bitOf_putBits_ne _ _ _ _ _ (by decide) (by decide) (.inl (by decide))]
  rfl

/-- Where the object table lies depends on no field of TIR_CTL. -/
theorem tableOk_writesOnly (hs : kvWf regReset s.regs = true) (h : State.WritesOnly (· == Reg.tirCtl) s t) :
    tableOk t = tableOk s := by
  have hreg (o : Nat) (ho : o ≠ Reg.tirCtl) : t.reg o = s.reg o := (h.regs hs).2 o (by simpa using ho)
  simp only [tableOk, State.node, managedT2, State.fld, hreg Reg.tirObjTable (by decide), hreg Reg.fabNode (by decide),
    hreg Reg.tirT2Base (by decide)]
  rfl

theorem exec_tierEnable (hs : kvWf regReset s.regs = true) (hoff : tierOn s = false) : ∃ v : Word,
    exec .tierEnable s = .next (if tableOk s then tierStart ((s.tirCtlSet v).setBit Reg.tirCtl 0 true)
      else sticky (s.tirCtlSet v) Reg.tirErr 6 none) := by
  refine ⟨putBits (s.reg Reg.tirCtl) 0 0 1, congrArg Host.Outcome.next ?_⟩
  have hbit : bitOf (putBits (s.reg Reg.tirCtl) 0 0 1) 0 = true := bitOf_putBits _ 0 true (by decide)
  rw [← tableOk_writesOnly hs (tirCtlSet_writesOnly s (putBits (s.reg Reg.tirCtl) 0 0 1))]
  simp only [writeTirCtl, hoff, hbit, Bool.false_eq_true, if_false, Bool.not_true]
  rfl

/-- With the object table in its place the manager starts with EN set, and no register but TIR_CTL was written. -/
theorem exec_tierEnable_valid (hs : kvWf regReset s.regs = true) (hoff : tierOn s = false) (htab : tableOk s = true) :
    ∃ u, u = { s with regs := u.regs } ∧ exec .tierEnable s = .next (tierStart u) ∧ u.bit Reg.tirCtl 0 = true ∧
      ∀ o, o ≠ Reg.tirCtl → u.reg o = s.reg o := by
  obtain ⟨v, hexec⟩ := exec_tierEnable hs hoff
  have hset := tirCtlSet_writesOnly s v
  have hall : State.WritesOnly (· == Reg.tirCtl) s ((s.tirCtlSet v).setBit Reg.tirCtl 0 true) := .setFld (by simp) hset
  exact ⟨_, hall.same.eq_regs, by rw [hexec, htab]; rfl, State.bit_setBit (hset.regs hs).1 _ _ _ (by decide),
    fun o ho => (hall.regs hs).2 o (by simpa using ho)⟩

/-- Without it the error bit is set and the manager stays off. -/
theorem exec_tierEnable_invalid (hs : kvWf regReset s.regs = true) (hoff : tierOn s = false) (htab : tableOk s = false) :
    ∃ t, exec .tierEnable s = .next t ∧ t.bit Reg.tirErr 6 = true ∧ tierOn t = false ∧ t.mem = s.mem ∧ t.tier = s.tier := by
  obtain ⟨v, hexec⟩ := exec_tierEnable hs hoff
  have hset : kvWf regReset (s.tirCtlSet v).regs = true := ((tirCtlSet_writesOnly s v).regs hs).1
  have hsig := sticky_signals_setBit hset (off := Reg.tirErr) (bit := 6) (src := none) (by decide) (by simp)
  have herr : kvWf regReset ((s.tirCtlSet v).setBit Reg.tirErr 6 true).regs = true := State.setBit_wf hset ..
  refine ⟨_, by rw [hexec, htab]; rfl, ?_, ?_, hsig.mem, hsig.tier⟩
  · rw [hsig.bit_eq herr (by decide)]
    exact State.bit_setBit hset _ _ _ (by decide)
  · rw [tierOn, hsig.bit_eq herr (by decide), bit_setBit_ne hset (by decide) (.inl (by decide))]
    exact (tierOn_tirCtlSet hs v).trans hoff

end

/-! ### Quotas (R128, R129) -/

section
variable {s : State} {d : Nat} {v : Word}

/-- The quota that a written word asks for in a space. -/
def quotaAsked (v : Word) (p : Space) : Nat := if p.tier = 2 then bitsOf v 31 0 else bitsOf v 47 32

/-- The quotas of the other domains in a space. -/
def otherQuotas (s : State) (d : Nat) (p : Space) : Nat :=
  (((List.range 16).filter (· != d)).map (fun e => quotaOf s e p)).foldl (· + ·) 0

/-- In every space the asked quota fits beside the others and holds what the domain cannot give back. -/
def QuotaFits (s : State) (d : Nat) (v : Word) : Prop :=
  ∀ p ∈ spaces, quotaAsked v p + otherQuotas s d ⟨p.tier, 0⟩ ≤ managedTiles s ⟨p.tier, 0⟩ ∧
    fixedTiles s d p + ((domCopies s d p).filter (·.pinned)).length ≤ quotaAsked v p

/-- A quota write takes copies in turn from the quota, into it and out of the pool. -/
def settleQuota (d : Nat) (s : State) (p : Space) : State :=
  shrinkPool p s.tier.copies.length (pullPool d p s.tier.copies.length (shedQuota d p s.tier.copies.length s))

/-- What holds of the tier of every space holds of T2 and of T1. -/
theorem forall_spaces_tier (P : Nat → Prop) : (∀ p ∈ spaces, P p.tier) ↔ P 2 ∧ P 1 := by
  refine ⟨fun h => ⟨h ⟨2, 0⟩ (by decide), h ⟨1, 0⟩ (by decide)⟩, fun ⟨h2, h1⟩ p hp => ?_⟩
  obtain rfl | hp := List.mem_cons.1 hp
  · exact h2
  · obtain ⟨c, -, rfl⟩ := List.mem_map.1 hp
    exact h1

theorem quotaFits_iff (s : State) (d : Nat) (v : Word) : QuotaFits s d v ↔
    (bitsOf v 31 0 + otherQuotas s d ⟨2, 0⟩ ≤ managedTiles s ⟨2, 0⟩ ∧
      bitsOf v 47 32 + otherQuotas s d ⟨1, 0⟩ ≤ managedTiles s ⟨1, 0⟩) ∧
    ∀ p ∈ spaces, fixedTiles s d p + ((domCopies s d p).filter (·.pinned)).length ≤ quotaAsked v p := by
  simp only [QuotaFits, forall_and]
  exact and_congr_left' (forall_spaces_tier fun t =>
    (if t = 2 then bitsOf v 31 0 else bitsOf v 47 32) + otherQuotas s d ⟨t, 0⟩ ≤ managedTiles s ⟨t, 0⟩)

theorem writeQuota_fits (h : QuotaFits s d v) : writeQuota s d v = retryTiles
    (spaces.foldl (settleQuota d) (s.setReg (Reg.tirDomQuota d) (v &&& 0x0000FFFFFFFFFFFF))) := by
  obtain ⟨⟨h2, h1⟩, hpins⟩ := (quotaFits_iff s d v).1 h
  refine if_neg ?_
  simp only [Bool.or_eq_true, decide_eq_true_eq, List.any_eq_true, not_or, not_exists, not_and, Nat.not_lt]
  exact ⟨⟨h2, h1⟩, hpins⟩

theorem writeQuota_refused (h : ¬ QuotaFits s d v) : writeQuota s d v = sticky s Reg.tirErr 0 none := by
  refine if_pos ?_
  rw [quotaFits_iff] at h
  by_contra hgood
  simp only [Bool.or_eq_true, decide_eq_true_eq, List.any_eq_true, not_or, not_exists, not_and, Nat.not_lt] at hgood
  exact h hgood

/-- Without copies there is nothing to move. -/
theorem settleQuota_no_copies (h : s.tier.copies = []) (p : Space) : settleQuota d s p = s := by
  rw [settleQuota, h]
  rfl

theorem writeQuota_fits_no_copies (h : QuotaFits s d v) (hc : s.tier.copies = []) :
    writeQuota s d v = retryTiles (s.setReg (Reg.tirDomQuota d) (v &&& 0x0000FFFFFFFFFFFF)) := by
  rw [writeQuota_fits h, List.foldl_fixed' fun p => settleQuota_no_copies (by exact hc) p]

/-- A refused write sets the error bit and leaves the objects, the copies and the domain's quota. -/
theorem writeQuota_refused_facts (hs : kvWf regReset s.regs = true) (hd : d < 16) (h : ¬ QuotaFits s d v) :
    State.Signals (s.setBit Reg.tirErr 0 true) (writeQuota s d v) ∧ (writeQuota s d v).tier = s.tier ∧
      quotaOf (writeQuota s d v) d ⟨2, 0⟩ = quotaOf s d ⟨2, 0⟩ := by
  have hsig : State.Signals (s.setBit Reg.tirErr 0 true) (writeQuota s d v) := by
    rw [writeQuota_refused h]
    exact sticky_signals_setBit hs (by decide) (by simp)
  have hquota : sigReg (Reg.tirDomQuota d) = false := by
    simp [sigReg, Reg.tirDomQuota, Reg.hstMsixPba]; omega
  have hne : Reg.tirDomQuota d ≠ Reg.tirErr := by simp only [Reg.tirDomQuota, Reg.tirErr]; omega
  refine ⟨hsig, hsig.tier, ?_⟩
  simp only [quotaOf, if_true, State.fld, (hsig.regs (State.setBit_wf hs ..)).2 _ hquota, State.reg_setBit_ne hs _ _ hne]

end

/-! ### PATROL_SCRUB (R136) -/

/-- Does the media error lie in the direct region of T2? -/
def MediaFault.inDirectT2 (f : MediaFault) : Bool :=
  match f.place with
  | .direct a => regionOf a == 1
  | _ => false

/-- The registers and the media errors of a state replaced. -/
def State.swept (s : State) (regs : List (Nat × Word)) (media : List MediaFault) : State :=
  { s with regs := regs, tier := { s.tier with media := media } }

/-- `t` is `s` with the corrected errors of `done` counted and gone (R136). -/
structure State.Scrubbed (s : State) (done : List MediaFault) (t : State) : Prop where
  rest : ∃ regs, t = s.swept regs (s.tier.media.filter (fun f => !done.contains f))
  wf : kvWf regReset t.regs = true
  count : t.fld Reg.tirEccCount 31 0 = min (s.fld Reg.tirEccCount 31 0 + done.length) (2 ^ 32 - 1)
  regs : ∀ o, o ≠ Reg.tirEccCount → t.reg o = s.reg o
  quiet : t.Quiet

section
variable {s t : State} {done : List MediaFault} {f : MediaFault}

theorem State.Scrubbed.none (hs : kvWf regReset s.regs = true) (hq : s.Quiet) : State.Scrubbed s [] s := by
  refine ⟨⟨s.regs, by simp [State.swept]⟩, hs, ?_, fun _ _ => rfl, hq⟩
  have : s.fld Reg.tirEccCount 31 0 < 2 ^ 32 := bitsOf_lt _ 31 0
  simp only [List.length_nil]
  omega

theorem State.Scrubbed.tier_eq (h : State.Scrubbed s done t) :
    t.tier = { s.tier with media := s.tier.media.filter (fun f => !done.contains f) } := by
  obtain ⟨regs, rfl⟩ := h.rest
  rfl

theorem State.Scrubbed.objs (h : State.Scrubbed s done t) : t.tier.objs = s.tier.objs := by rw [h.tier_eq]

theorem State.Scrubbed.same (h : State.Scrubbed s done t) : t = { s with regs := t.regs, tier := t.tier } := by
  obtain ⟨regs, rfl⟩ := h.rest
  rfl

/-- A corrected error in the direct region of T2 is counted and gone. -/
theorem scrubFault_direct (hq : t.Quiet) (hk : f.kind = .corrected) (hp : f.inDirectT2 = true) :
    scrubFault t f = (t.satFld Reg.tirEccCount 31 0 1).dropFault f := by
  obtain ⟨place, kind⟩ := f
  subst hk
  cases place with
  | direct a =>
    have hr : regionOf a = 1 := by simpa [MediaFault.inDirectT2] using hp
    have hquiet : ((t.satFld Reg.tirEccCount 31 0 1).dropFault ⟨.direct a, .corrected⟩).Quiet :=
      ⟨hq.ops, hq.strands, (armedWatches_setReg (.inr (by decide)) _).trans hq.sources⟩
    simp only [scrubFault, dramAddr, hr, if_true, meetFault]
    exact settle_quiet _ hquiet
  | _ => exact absurd hp (by simp [MediaFault.inDirectT2])

/-- With no object, an error elsewhere lies outside T2. -/
theorem scrubFault_elsewhere (ho : t.tier.objs = []) (hp : f.inDirectT2 = false) : scrubFault t f = t := by
  have hnone : dramAddr t f = none := by
    obtain ⟨place, kind⟩ := f
    cases place with
    | direct a =>
      have hr : regionOf a ≠ 1 := by simpa [MediaFault.inDirectT2] using hp
      simp [dramAddr, hr]
    | home id b => simp [dramAddr, objOf, ho]
    | copy id b tier c => simp [dramAddr, objOf, ho]
  simp only [scrubFault, hnone]

/-- One more error of the direct region of T2 is counted and gone. -/
theorem State.Scrubbed.step (h : State.Scrubbed s done t) (hk : f.kind = .corrected) (hp : f.inDirectT2 = true) :
    State.Scrubbed s (done ++ [f]) (scrubFault t f) := by
  rw [scrubFault_direct h.quiet hk hp]
  refine ⟨?_, State.setFld_wf h.wf .., ?_, fun o ho => ?_, ?_⟩
  · obtain ⟨regs, rfl⟩ := h.rest
    have hfilter : (s.tier.media.filter (fun g => !done.contains g)).filter (· != f) =
        s.tier.media.filter (fun g => !(done ++ [f]).contains g) := by
      rw [List.filter_filter]
      refine List.filter_congr fun g _ => ?_
      simp [bne, Bool.and_comm, Bool.beq_eq_decide_eq]
    rw [← hfilter]
    exact ⟨_, rfl⟩
  · show State.fld (t.setFld Reg.tirEccCount 31 0 _) Reg.tirEccCount 31 0 = _
    rw [State.fld_setFld h.wf _ _ _ _ (by decide) (by decide), h.count, satAdd, List.length_append, List.length_singleton]
    omega
  · exact (State.reg_setFld_ne h.wf _ _ _ ho).trans (h.regs o ho)
  · exact ⟨h.quiet.ops, h.quiet.strands, (armedWatches_setReg (.inr (by decide)) _).trans h.quiet.sources⟩

/-- The scrub of a list of corrected errors, with no object in the device. -/
theorem State.Scrubbed.foldl (ho : s.tier.objs = []) {fs : List MediaFault} (hk : ∀ f ∈ fs, f.kind = .corrected)
    (h : State.Scrubbed s done t) : State.Scrubbed s (done ++ fs.filter MediaFault.inDirectT2) (fs.foldl scrubFault t) := by
  induction fs generalizing t done with
  | nil => simpa using h
  | cons f fs ih =>
    have hk' : ∀ g ∈ fs, g.kind = .corrected := fun g hg => hk g (List.mem_cons_of_mem _ hg)
    cases hp : f.inDirectT2 with
    | true =>
      rw [List.foldl_cons, List.filter_cons_of_pos hp, List.append_cons]
      exact ih hk' (h.step (hk f List.mem_cons_self) hp)
    | false =>
      rw [List.foldl_cons, List.filter_cons_of_neg (by simp [hp]), scrubFault_elsewhere (h.objs.trans ho) hp]
      exact ih hk' h

end

/-- Settles O23: TIR_CTL, a quota and the count of corrected errors are each written alone. -/
theorem tierManagerSettings : Obligations.TierManagerSettings := by
  intro s d v hinv
  have hs := hinv.canon.regs
  refine ⟨exec_tierEnable_valid hs, exec_tierEnable_invalid hs, ⟨fun hfits hc => ?_, fun hno => ?_⟩,
    fun hon hscrub hobjs hquiet hkind => ?_⟩
  · exact congrArg Host.Outcome.next (writeQuota_fits_no_copies hfits hc)
  · obtain ⟨hsig, htier, hquota⟩ := writeQuota_refused_facts hs d.isLt hno
    exact ⟨_, rfl, hsig, htier, hquota⟩
  · intro hit
    have h := (State.Scrubbed.none hs hquiet).foldl hobjs hkind
    refine ⟨s.tier.media.foldl scrubFault s, ?_, h.same, h.tier_eq, h.count, h.regs⟩
    show execPatrolScrub s = _
    simp only [execPatrolScrub, hon, hscrub, Bool.and_self, if_true]

end Sys2Proof.Machine
end

section
/-! PROOFS. Objects, their copies and the requests of the tier ring (R112 to R121, R127, R128, R130, R134; log 9). -/

namespace Sys2Proof.Machine

/-! ### Lookups and the updates of objects and copies (R112, R124) -/

section
variable {s t : State} {o o' : Obj} {id tile : Nat} {p : Space} {c : TileCopy}

theorem syncObj_mem (s : State) (id : Nat) : ∃ m, syncObj s id = { s with mem := m } := by
  unfold syncObj
  split
  · exact ⟨_, rfl⟩
  · exact ⟨_, rfl⟩

@[simp] theorem syncObj_tier (s : State) (id : Nat) : (syncObj s id).tier = s.tier := by
  obtain ⟨m, hm⟩ := syncObj_mem s id
  rw [hm]

@[simp] theorem syncObj_regs (s : State) (id : Nat) : (syncObj s id).regs = s.regs := by
  obtain ⟨m, hm⟩ := syncObj_mem s id
  rw [hm]

theorem objOf_congr (h : t.tier.objs = s.tier.objs) (id : Nat) : objOf t id = objOf s id := by rw [objOf, h]; rfl

theorem copyIn_congr (h : t.tier.copies = s.tier.copies) (id tile : Nat) (p : Space) :
    copyIn t id tile p = copyIn s id tile p := by rw [copyIn, h]; rfl

theorem id_of_objOf (h : objOf s id = some o) : o.id = id := by
  simpa using List.find?_some h

@[simp] theorem setObj_copies (s : State) (o : Obj) : (s.setObj o).tier.copies = s.tier.copies := by
  simp [State.setObj]

@[simp] theorem setObj_media (s : State) (o : Obj) : (s.setObj o).tier.media = s.tier.media := by
  simp [State.setObj]

/-- An object that is replaced is found under its ID. -/
theorem objOf_setObj (h : objOf s o'.id = some o) : objOf (s.setObj o') o'.id = some o' := by
  have hobjs : (s.setObj o').tier.objs = s.tier.objs.map (fun p => if p.id == o'.id then o' else p) := by
    simp [State.setObj]
  rw [objOf, hobjs, List.find?_map]
  have hcomp : ((fun p : Obj => p.id == o'.id) ∘ fun p => if p.id == o'.id then o' else p) = fun p => p.id == o'.id := by
    funext p
    by_cases hp : p.id = o'.id <;> simp [hp]
  rw [hcomp, show s.tier.objs.find? (fun p => p.id == o'.id) = some o from h, Option.map_some, id_of_objOf h]
  simp

/-- A copy just added is the one of its tile, where the tile had none. -/
theorem copyIn_addCopy (h : copyIn s id tile p = none) (pinned pool : Bool) (holds cls : Nat) :
    copyIn (addCopy s id tile p pinned pool holds cls) id tile p =
      some ⟨id, tile, p.tier, p.cluster, false, pinned, holds, s.now, pool, cls, false⟩ := by
  have hold : s.tier.copies.find? (fun c => c.obj == id && c.tile == tile && c.inSpace p) = none := h
  simp only [copyIn, addCopy, List.find?_append, hold, Option.none_or]
  exact List.find?_cons_of_pos (by simp [TileCopy.inSpace])

end

/-! ### One object's digest and the end of its seal (R112, R116, R138) -/

section
variable {s : State} {o : Obj}

/-- A home without media errors is read whole, and nothing is counted. -/
theorem readWhole_clean (h : ∀ f ∈ s.tier.media, ∀ b, f.place ≠ .home o.id b) : readWhole s o = (s, false) := by
  have hnone : homeFaults s o = [] := by
    refine List.filter_eq_nil_iff.2 fun f hf => ?_
    have hplace := h f hf
    cases hp : f.place with
    | home id b =>
      have hid : id ≠ o.id := fun heq => hplace b (by rw [hp, heq])
      simpa using hid
    | _ => simp
  simp only [readWhole, hnone]
  rfl

/-- A seal that meets no media error leaves the object SEALED and flushed and answers the digest. -/
theorem sealEnd_clean {u : Obj} (hobj : objOf s o.id = some u) (h : ∀ f ∈ s.tier.media, ∀ b, f.place ≠ .home o.id b) :
    (sealEnd s o).2 = .done 0 (objDigest s o) ∧
      (objOf (sealEnd s o).1 o.id).map (fun p => (p.state, p.home, p.flushed, p.gen)) = some (3, o.home, true, o.gen + 1) := by
  have hsealed (t : State) (ht : t.tier.objs = s.tier.objs) :
      (objOf (t.setObj { o with state := 3, flushed := true, digest := objDigest s o, gen := o.gen + 1 }) o.id).map
        (fun p => (p.state, p.home, p.flushed, p.gen)) = some (3, o.home, true, o.gen + 1) := by
    rw [objOf_setObj (o' := { o with state := 3, flushed := true, digest := objDigest s o, gen := o.gen + 1 })
      ((objOf_congr ht o.id).trans hobj)]
    rfl
  simp only [sealEnd, readWhole_clean h, Bool.false_eq_true, if_false, true_and]
  split
  · exact hsealed s rfl
  · exact hsealed _ rfl

/-- Every seal answers at its end. -/
theorem sealEnd_answers (s : State) (o : Obj) : ∃ st res, (sealEnd s o).2 = .done st res := by
  unfold sealEnd
  extract_lets r s1 dig n s2
  split
  · exact ⟨_, _, rfl⟩
  · exact ⟨_, _, rfl⟩

end

/-! ### Quota and room (R128, R130, R131) -/

section
variable {s : State} {d n : Nat} {p : Space} {keep : TileCopy → Bool}

/-- Tiles that fit in the quota displace none. -/
theorem roomFor_fits (h : quotaUsed s d p + n ≤ quotaOf s d p) (k : Nat) : roomFor d p n k s = some s := by
  cases k with
  | zero => exact if_pos h
  | succ k => exact if_pos h

theorem takeQuota_free (h : quotaUsed s d p < quotaOf s d p) : takeQuota s d p keep = some s := if_pos h

/-- A full quota without copies has no room to make. -/
theorem takeQuota_full (h : quotaOf s d p ≤ quotaUsed s d p) (hc : domCopies s d p = []) : takeQuota s d p keep = none := by
  rw [takeQuota, if_neg (Nat.not_lt.2 h), hc]
  rfl

theorem takeAny_free (h : quotaUsed s d p < quotaOf s d p) : takeAny s d p keep = some (s, false) := if_pos h

/-- Without copies none moves from the pool into the quota. -/
theorem pullPool_no_copies (h : s.tier.copies = []) (n : Nat) : pullPool d p n s = s := by
  have hdom : domCopies s d p = [] := by simp [domCopies, h]
  cases n with
  | zero => rfl
  | succ n =>
    rw [pullPool, hdom]
    exact ite_id _

end

/-! ### The next request of the ring (R119; log 24) -/

section
variable {s : State} {raw : List Byte}

/-- The state in which the request of the next slot is carried out. -/
def State.requestTaken (s : State) : State :=
  let r := unitRead s (tierSlot s s.tier.nextSeq) 64 3 none
  { r.1 with tier := { r.1.tier with nextSeq := s.tier.nextSeq + 1, taken := s.tier.taken + 1 } }

/-- A request is answered, or held among those under way. -/
def answerRequest (seq : Nat) (a : State × TierAns) : State :=
  match a.2 with
  | .done st res => tierDone a.1 seq st (BitVec.ofNat 64 res)
  | .wait q => { a.1 with tier := { a.1.tier with busy := a.1.tier.busy ++ [q] } }

/-- A command takes the request of the next slot when it is there and its own. -/
theorem tierTake_takes (hon : tierOn s = true) (hrung : tierRung s = true)
    (hread : (unitRead s (tierSlot s s.tier.nextSeq) 64 3 none).2 = (stOK, raw))
    (hseq : bitsOf (wordAt raw 0) 63 32 = s.tier.nextSeq % 2 ^ 32) {op : Nat} (hop : bitsOf (wordAt raw 0) 3 0 = op) :
    tierTake s op = answerRequest s.tier.nextSeq (tierExec s.requestTaken s.tier.nextSeq raw false) := by
  have hhere : ¬ (!tierOn s || !tierRung s) = true := by simp [hon, hrung]
  rw [tierTake, if_neg hhere]
  refine (if_neg ?_).trans ?_
  · simp [hread, hseq, hop]
  · show answerRequest _ (tierExec s.requestTaken _ (unitRead s (tierSlot s s.tier.nextSeq) 64 3 none).2.2 false) = _
    rw [hread]

/-- A request that nothing refuses does what its OP says (R119). -/
theorem tierExec_accepted {seq id op : Nat} {config : Bool} (hpre : bitsOf (wordAt raw 0) 7 6 = 0)
    (hzero : allZero (sliceB raw 48 16) = true) (hid : bitsOf (wordAt raw 0) 31 16 = id)
    (hop : bitsOf (wordAt raw 0) 3 0 = op)
    (hcauses : tierCauses s false op id (wordAt raw 8) (wordAt raw 16) (wordAt raw 24) = []) :
    tierExec s seq raw config = tierOp s seq (bitsOf (wordAt raw 0) 5 4) op id (wordAt raw 8) (wordAt raw 16) (wordAt raw 24)
      config := by
  have hpick : pickCode s [] = (s, 0) := rfl
  simp only [tierExec, tierRun, hpre, hzero, hid, hop, bne_self_eq_false, Bool.not_true, Bool.or_self, hcauses, hpick,
    ne_eq, not_true_eq_false, if_false]

end

/-! ### CREATE, SEAL and FREE (R115 to R120) -/

section
variable {s : State} {id : Nat} {o : Obj} {a0 a1 a2 : Word}

theorem tierCauses_create (ha1 : a1 &&& ~~~(0x1F3F#64) = 0) (ha2 : a2 = 0) (htier : bitsOf a1 5 4 = 1 ∨ bitsOf a1 5 4 = 2)
    (hpos : 0 < a0.toNat) (hmod : a0.toNat % 4096 = 0) (hmax : a0.toNat ≤ 2 ^ 42) (hnone : objOf s id = none) :
    tierCauses s false 1 id a0 a1 a2 = [] := by
  have htier' : (bitsOf a1 5 4 == 1 || bitsOf a1 5 4 == 2) = true := by simpa using htier
  have hpos' : (a0.toNat == 0) = false := by simpa using Nat.pos_iff_ne_zero.1 hpos
  simp only [tierCauses, ha1, ha2, htier', hmod, hpos', hnone, decide_eq_false (Nat.not_lt.2 hmax)]
  rfl

/-- CREATE of an object that fits adds it at the lowest free base. -/
theorem tierCreate_fits {base : Nat}
    (hrange : lowestRange a0.toNat (sortBy (fun a b => decide (a.1 < b.1)) (s.tier.objs.map (fun o => (o.base, o.size)))) 0 =
      some base)
    (hroom : quotaUsed s (bitsOf a1 3 0) (spaceOf (bitsOf a1 5 4) (bitsOf a1 10 8)) + a0.toNat / 4096 ≤
      quotaOf s (bitsOf a1 3 0) (spaceOf (bitsOf a1 5 4) (bitsOf a1 10 8))) :
    (tierCreate s id a0 a1).2 = .done 0 base ∧
      (tierCreate s id a0 a1).1.tier.objs = s.tier.objs ++ [⟨id, base, a0.toNat, 1, bitsOf a1 3 0, 0, bitsOf a1 10 8,
        bitsOf a1 5 4, bitOf a1 12, false, 0, 0, genOf s id + 1, false⟩] ∧
      (tierCreate s id a0 a1).1.tier.copies = s.tier.copies ∧ (tierCreate s id a0 a1).1.regs = s.regs := by
  simp only [tierCreate, hrange, roomFor_fits hroom, syncObj_tier, syncObj_regs, State.fillRange_tier, State.fillRange_regs,
    true_and]

/-- The home of a SEAL is read from the low bits of its word. -/
theorem bitsOf_low (hmax : a1.toNat ≤ 3) : bitsOf a1 1 0 = a1.toNat := by
  simp only [bitsOf, Nat.shiftRight_zero]
  omega

theorem tierCauses_seal (ha0 : a0 = 0) (ha2 : a2 = 0) (ha1 : a1.toNat = o.tier) (hmax : a1.toNat ≤ 3) (hpos : 0 < o.tier)
    (hobj : objOf s id = some o) (hstate : o.state = 1) : tierCauses s false 2 id a0 a1 a2 = [] := by
  have hlow : bitsOf a1 1 0 = o.tier := (bitsOf_low hmax).trans ha1
  have hmask : a1 &&& ~~~(3#64) = 0 := by
    have hcases : a1 = 0 ∨ a1 = 1 ∨ a1 = 2 ∨ a1 = 3 := by bv_omega
    rcases hcases with rfl | rfl | rfl | rfl <;> rfl
  have hpos' : (o.tier == 0) = false := by simpa using Nat.pos_iff_ne_zero.1 hpos
  simp only [tierCauses, ha0, ha2, hlow, hmask, hpos', hobj, hstate, Option.any_some, decide_eq_false (Nat.lt_irrefl _)]
  rfl

/-- SEAL to the object's own tier seals it at once. -/
theorem tierSeal_ownTier {seq : Nat} {config : Bool} (hobj : objOf s id = some o) (ha1 : bitsOf a1 1 0 = o.tier) :
    tierSeal s seq id a1 config =
      sealEnd (s.setObj { o with state := 2, home := o.tier, gen := o.gen + 1, signed := config })
        { o with state := 2, home := o.tier, gen := o.gen + 1, signed := config } := by
  simp only [tierSeal, hobj, ha1, if_true]

theorem tierCauses_free (ha0 : a0 = 0) (ha1 : a1 = 0) (ha2 : a2 = 0) (hobj : objOf s id = some o) (hstate : o.state ≠ 4)
    (hlock : s.bit Reg.secStat 6 = false) : tierCauses s false 3 id a0 a1 a2 = [] := by
  have hstate' : (o.state == 4) = false := by simpa using hstate
  simp only [tierCauses, ha0, ha1, ha2, hobj, hlock, hstate', Option.any_some]
  rfl

/-- FREE sets RETIRING and waits for its completion. -/
theorem tierFree_retires {seq : Nat} (hobj : objOf s id = some o) :
    tierFree s seq id = (s.setObj { o with state := 4, gen := o.gen + 1 }, .wait ⟨seq, 3, id, 0, 0, 0, 0⟩) := by
  simp only [tierFree, hobj]

end

/-! ### PLACE (R121, R130) -/

section
variable {s : State} {id : Nat} {o : Obj} {a0 a1 a2 : Word}

section
variable (hobj : objOf s id = some o) (hstate : o.state = 3) (hmod : a0.toNat % 4096 = 0) (hlen : a1.toNat = 4096)
  (hsize : a0.toNat + 4096 ≤ o.size)
include hobj hmod hlen hsize

/-- One whole tile within the object is a span that no request refuses. -/
theorem span_accepted : (a0.toNat % 4096 != 0 || a1.toNat % 4096 != 0 || a1 == 0
    || (objOf s id).any (fun o => decide (o.size < a0.toNat + a1.toNat))) = false := by
  have ha1 : (a1 == 0) = false := by
    rw [beq_eq_false_iff_ne]
    rintro rfl
    cases hlen
  simp only [hobj, hmod, hlen, ha1, Option.any_some, decide_eq_false (Nat.not_lt.2 hsize)]
  rfl

include hstate

theorem tierCauses_place (ha2 : a2 &&& ~~~(0x707#64) = 0) (htier : bitsOf a2 1 0 = 1 ∨ bitsOf a2 1 0 = 2) :
    tierCauses s false 4 id a0 a1 a2 = [] := by
  have htier' : (bitsOf a2 1 0 == 1 || bitsOf a2 1 0 == 2) = true := by simpa using htier
  simp only [tierCauses, span_accepted hobj hmod hlen hsize, ha2, htier']
  simp only [hobj, hstate, Option.any_some]
  rfl

theorem tierCauses_drop (ha2 : a2 = 0) (hlock : s.bit Reg.secStat 6 = false) : tierCauses s false 5 id a0 a1 a2 = [] := by
  simp only [tierCauses, span_accepted hobj hmod hlen hsize, ha2, hlock]
  simp only [hobj, hstate, Option.any_some]
  rfl

theorem tierCauses_unpin (ha2 : a2 = 0) : tierCauses s false 6 id a0 a1 a2 = [] := by
  simp only [tierCauses, span_accepted hobj hmod hlen hsize, ha2]
  simp only [hobj, hstate, Option.any_some]
  rfl

end

/-- PLACE of one tile, pinned, that its space does not hold yet: a copy on its way, or no space. -/
theorem tierPlace_one {seq cls : Nat} (hobj : objOf s id = some o) (hpin : bitOf a2 2 = true) (hlen : a1.toNat = 4096)
    {p : Space} (hp : spaceOf (bitsOf a2 1 0) (bitsOf a2 10 8) = p) (hhome : homeIn o p = false)
    (hnone : copyIn s id (a0.toNat / 4096) p = none) :
    (quotaUsed s o.domain p < quotaOf s o.domain p → tierPlace s seq cls id a0 a1 a2 =
      (syncObj (addCopy s id (a0.toNat / 4096) p true false 0 cls) id,
        .wait ⟨seq, 4, id, p.tier, p.cluster, a0.toNat / 4096, a0.toNat / 4096 + 1⟩)) ∧
    (quotaOf s o.domain p ≤ quotaUsed s o.domain p → domCopies s o.domain p = [] →
      tierPlace s seq cls id a0 a1 a2 = (s, .done 4 0)) := by
  have hid := id_of_objOf hobj
  have hplace (keep : TileCopy → Bool) : placeTile o p true cls keep s (a0.toNat / 4096) =
      (takeQuota s o.domain p keep).map (fun s => addCopy s id (a0.toNat / 4096) p true false 0 cls) := by
    simp only [placeTile, hhome, hid, hnone, Bool.false_eq_true, if_false, if_true]
  have hone (keep : TileCopy → Bool) :
      (List.range (4096 / 4096)).foldlM (fun s i => placeTile o p true cls keep s (a0.toNat / 4096 + i)) s =
        placeTile o p true cls keep s (a0.toNat / 4096) := by
    simp
  refine ⟨fun hfree => ?_, fun hfull hdom => ?_⟩
  · have hcopy := copyIn_addCopy hnone true false 0 cls
    have hwait : placeReady (syncObj (addCopy s id (a0.toNat / 4096) p true false 0 cls) id)
        ⟨seq, 4, id, p.tier, p.cluster, a0.toNat / 4096, a0.toNat / 4096 + 1⟩ = false := by
      simp [placeReady, copyIn_congr (congrArg Tier.copies (syncObj_tier _ id)), hcopy]
    simp only [tierPlace, hobj, hp, hpin, hlen, hone, hplace, takeQuota_free hfree, Option.map_some]
    rw [hwait]
    rfl
  · simp only [tierPlace, hobj, hp, hpin, hlen, hone, hplace, takeQuota_full hfull hdom, Option.map_none, if_true]

end

/-! ### DROP and UNPIN (R119, R127, R130, R134) -/

section
variable {s : State} {id tile : Nat} {c : TileCopy} {drop : Bool}

/-- Only the release in T2 reaches a device whose copies then lie in T2. -/
theorem releaseTile_spaces (h : ∀ c ∈ (releaseTile drop id tile s ⟨2, 0⟩).tier.copies, c.tier = 2) :
    spaces.foldl (releaseTile drop id tile) s = releaseTile drop id tile s ⟨2, 0⟩ := by
  have hrest (k : Nat) : releaseTile drop id tile (releaseTile drop id tile s ⟨2, 0⟩) ⟨1, k⟩ =
      releaseTile drop id tile s ⟨2, 0⟩ := by
    have hnone : copyIn (releaseTile drop id tile s ⟨2, 0⟩) id tile ⟨1, k⟩ = none := by
      refine List.find?_eq_none.2 fun c hc => ?_
      simp [TileCopy.inSpace, h c hc]
    conv_lhs => rw [releaseTile]
    rw [hnone]
  rw [spaces, List.foldl_cons, List.foldl_map, List.foldl_fixed' hrest]

theorem copyIn_only (hc : s.tier.copies = [c]) (hobj : c.obj = id) (htile : c.tile = tile) (htier : c.tier = 2) :
    copyIn s id tile ⟨2, 0⟩ = some c := by
  rw [copyIn, hc]
  exact List.find?_cons_of_pos (by simp [TileCopy.inSpace, hobj, htile, htier])

/-- DROP of the one copy, which no program holds. -/
theorem releaseTile_drop (hc : s.tier.copies = [c]) (hobj : c.obj = id) (htile : c.tile = tile) (htier : c.tier = 2)
    (hholds : c.holds = 0) : (releaseTile true id tile s ⟨2, 0⟩).tier.copies = [] ∧
      (releaseTile true id tile s ⟨2, 0⟩).regs = s.regs := by
  have hdrop : (dropCopy s c).tier.copies = [] := by simp [dropCopy, hc, TileCopy.same]
  have heq : releaseTile true id tile s ⟨2, 0⟩ = dropCopy s c := by
    simp only [releaseTile, copyIn_only hc hobj htile htier, hholds, beq_self_eq_true, Bool.and_self, if_true, freeCopy,
      pullPool_no_copies hdrop, ite_self]
  rw [heq]
  exact ⟨hdrop, by simp [dropCopy]⟩

/-- UNPIN of the one copy. -/
theorem releaseTile_unpin (hc : s.tier.copies = [c]) (hobj : c.obj = id) (htile : c.tile = tile) (htier : c.tier = 2) :
    (releaseTile false id tile s ⟨2, 0⟩).tier.copies = [{ c with pinned := false }] ∧
      (releaseTile false id tile s ⟨2, 0⟩).regs = s.regs := by
  have heq : releaseTile false id tile s ⟨2, 0⟩ = s.modCopy c (fun e => { e with pinned := false }) := by
    simp only [releaseTile, copyIn_only hc hobj htile htier, Bool.false_and, Bool.false_eq_true, if_false]
  rw [heq]
  exact ⟨by simp [State.modCopy, hc, TileCopy.same], rfl⟩

/-- A release of one tile releases it in every space, and programs that stream retry. -/
theorem tierRelease_one {a0 a1 : Word} (hlen : a1.toNat = 4096) :
    tierRelease s drop id a0 a1 =
      (retryTiles (syncObj (spaces.foldl (releaseTile drop id (a0.toNat / 4096)) s) id), .done 0 0) := by
  simp [tierRelease, hlen]

end

/-! ### The requests of the ring -/

/-- Settles O21: a command takes the request of its slot, and no code refuses one with the stated fields. -/
theorem tierRequestsAreServed : Obligations.TierRequestsAreServed := by
  refine ⟨fun s raw => ?_, fun s seq id raw => ?_⟩
  · intro seq r u a u1 t hon hrung hread hseq
    have htake (op : Nat) (hop : bitsOf (wordAt raw 0) 3 0 = op) : tierTake s op = u1 := tierTake_takes hon hrung hread hseq hop
    exact ⟨fun h => congrArg Host.Outcome.next (htake 1 h), fun h => congrArg Host.Outcome.next (htake 2 h),
      fun h => congrArg Host.Outcome.next (htake 3 h), fun h => congrArg Host.Outcome.next (htake 4 h),
      fun h => congrArg (fun v => Host.Outcome.next (settlePlaces v)) (htake 5 h),
      fun h => congrArg Host.Outcome.next (htake 6 h)⟩
  · intro c a0 a1 a2 hpre hzero hid
    have hexec {op : Nat} (hop : bitsOf c 3 0 = op) (hcauses : tierCauses s false op id a0 a1 a2 = []) :
        tierExec s seq raw false = tierOp s seq (bitsOf c 5 4) op id a0 a1 a2 false :=
      tierExec_accepted hpre hzero hid hop hcauses
    refine ⟨fun base hop ha1 ha2 htier hpos hmod hmax hnone hrange hroom => ?_,
      fun o hop ha0 ha2 htier hmax hpos hobj hstate hmedia => ?_, fun o hop ha0 ha1 ha2 hobj hstate hlock => ?_,
      fun o hop ha2 htier hpin hobj hstate hmod hlen hsize hhome hnone => ?_,
      fun o pin pool w lr cls hop ha2 hobj hstate hmod hlen hsize hlock hcopies => ?_,
      fun o pin pool w k lr cls hop ha2 hobj hstate hmod hlen hsize hcopies => ?_⟩
    · intro t o
      have ht : t = tierCreate s id a0 a1 := hexec hop (tierCauses_create ha1 ha2 htier hpos hmod hmax hnone)
      rw [ht]
      exact tierCreate_fits hrange hroom
    · intro t
      have hown : bitsOf a1 1 0 = o.tier := (bitsOf_low hmax).trans htier
      have ht : t = sealEnd _ _ := (hexec hop (tierCauses_seal ha0 ha2 htier hmax hpos hobj hstate)).trans
        (tierSeal_ownTier hobj hown)
      have hid' := id_of_objOf hobj
      subst hid'
      rw [ht]
      exact sealEnd_clean (objOf_setObj (o' := { o with state := 2, home := o.tier, gen := o.gen + 1, signed := false }) hobj)
        (by rw [setObj_media]; exact hmedia)
    · rw [hexec hop (tierCauses_free ha0 ha1 ha2 hobj hstate hlock)]
      exact tierFree_retires hobj
    · rw [hexec hop (tierCauses_place hobj hstate hmod hlen hsize ha2 htier)]
      exact tierPlace_one hobj hpin hlen rfl hhome hnone
    · obtain ⟨hgone, hregs⟩ := releaseTile_drop hcopies rfl rfl rfl rfl
      refine ⟨_, (hexec hop (tierCauses_drop hobj hstate hmod hlen hsize ha2 hlock)).trans (tierRelease_one hlen), ?_⟩
      rw [releaseTile_spaces (by simp [hgone]), syncObj_tier, syncObj_regs]
      exact ⟨hgone, hregs⟩
    · obtain ⟨hleft, hregs⟩ := releaseTile_unpin hcopies rfl rfl rfl
      refine ⟨_, (hexec hop (tierCauses_unpin hobj hstate hmod hlen hsize ha2)).trans (tierRelease_one hlen), ?_⟩
      rw [releaseTile_spaces (by simp [hleft]), syncObj_tier, syncObj_regs]
      exact ⟨hregs, hleft⟩

end Sys2Proof.Machine
end

section
/-! PROOFS. Seals that end, objects that go, and copies that become valid (R116, R117, R123, R124, R127; log 25, log 186). -/

namespace Sys2Proof.Machine

/-! ### The end of a seal (R116) -/

section
variable {s : State} {id : BitVec 16} {o : Obj}

/-- A program of flash on some channel leaves the objects, the copies and their media errors. -/
theorem programAny_tier (s : State) : (programAny s).tier = s.tier := by
  have hsticky (t : State) (off bit : Nat) (src : Option Nat) (hn : ∀ n, src = some n → n < 256) :
      (sticky t off bit src).tier = t.tier := by
    cases hbit : t.bit off bit with
    | true => rw [sticky_of_set _ hbit]
    | false => exact (sticky_signals hn hbit).tier
  have hch : Config.freeBelow s.freeCtr 16 < 16 := freeBelow_lt _ (by decide)
  unfold programAny programFlash
  split
  · rw [hsticky _ _ _ _ (by simp; omega)]
    rfl
  · rfl

/-- The state in which a seal ends: a home in flash has been programmed. -/
def State.flushed (s : State) (o : Obj) : State := if o.home = 3 then programAny s else s

theorem flushed_tier (s : State) (o : Obj) : (s.flushed o).tier = s.tier := by
  unfold State.flushed
  split
  · exact programAny_tier s
  · rfl

/-- The end of a flush ends the seal and answers its requests. -/
theorem exec_sealFlushComplete (hobj : objOf s id.toNat = some o) (hstate : o.state = 2)
    (hbusy : ∃ r ∈ s.tier.busy, r.op = 2 ∧ r.obj = o.id) {st res : Nat} (hans : (sealEnd (s.flushed o) o).2 = .done st res) :
    exec (.sealFlushComplete id) s = .next (endBusy (sealEnd (s.flushed o) o).1 (fun q => q.op == 2 && q.obj == o.id) st
      (BitVec.ofNat 64 res)) := by
  have hany : s.tier.busy.any (fun r => r.op == 2 && r.obj == o.id) = true := by
    obtain ⟨r, hr, hop, hro⟩ := hbusy
    exact List.any_eq_true.2 ⟨r, hr, by simp [hop, hro]⟩
  show execSealFlushComplete id s = _
  have hans' : (sealEnd (if o.home = 3 then programAny s else s) o).2 = .done st res := hans
  simp only [execSealFlushComplete, hobj, hstate, hany, and_self, if_true, hans']
  rfl

end

/-! ### A freed object (R117, R130, R134) -/

section
variable {s : State} {id : BitVec 16} {n : Nat} {o : Obj}

theorem removeObj_objOf (hid : o.id = n) : objOf (removeObj s o) n = none := by
  refine List.find?_eq_none.2 fun p hp => ?_
  have hne : (p.id != o.id) = true := (List.mem_filter.1 hp).2
  simpa [hid] using hne

theorem removeObj_copies : ∀ c ∈ (removeObj s o).tier.copies, c.obj ≠ o.id := by
  intro c hc
  have hne : (c.obj != o.id) = true := (List.mem_filter.1 hc).2
  simpa using hne

/-- The ID of an object that went goes on with the next GEN. -/
theorem removeObj_gen (hid : o.id = n) : genOf (removeObj s o) n = o.gen + 1 := by
  have hgens : (removeObj s o).tier.gens = (o.id, o.gen + 1) :: s.tier.gens.filter (fun e => e.1 != o.id) := rfl
  simp [genOf, removeObj_objOf hid, hgens, hid]

theorem exec_freeComplete (hobj : objOf s id.toNat = some o) (hstate : o.state = 4) :
    exec (.freeComplete id) s = .next (endBusy (endBusy (forgetObj s o) (fun r => r.op == 3 && r.obj == o.id) 0 0)
      (fun r => r.obj == o.id) 3 0) := by
  show execFreeComplete id s = _
  simp only [execFreeComplete, hobj, hstate, if_true]

end

/-! ### Copies that become valid (R123, R124, R125) -/

section
variable {s : State} {id : BitVec 16} {tile : Nat} {o : Obj}

/-- A copy on its way arrives where its mover is free. -/
theorem exec_tileCopyValid {tier : BitVec 2} {cl : Fin 8} {c : TileCopy} (hobj : objOf s id.toNat = some o)
    (hcopy : copyIn s id.toNat tile (spaceOf tier.toNat cl.val) = some c) (hvalid : c.valid = false) :
    exec (.tileCopyValid id tile tier cl) s = if moverFree s c = true
      then .next (settlePlaces (copyTile (passC0 s c) o tile c.cls (spaceOf tier.toNat cl.val))) else .next s := by
  show execTileCopyValid id tile tier cl s = _
  simp only [execTileCopyValid, hobj, hcopy, hvalid, Bool.false_or]
  cases moverFree s c <;> rfl

/-- A tile is no longer to be promoted. -/
abbrev State.promoted (s : State) (id tile : Nat) : State :=
  { s with tier := { s.tier with promote := s.tier.promote.filter (· != (id, tile)) } }

/-- A tile is copied into T2 where there is room for it, else the error bit is set (R123). -/
def promoteTile (s : State) (o : Obj) (tile : Nat) : State :=
  match takeAny s o.domain ⟨2, 0⟩ (fun _ => false) with
  | none => sticky s Reg.tirErr 5 none
  | some r => copyTile (addCopy r.1 o.id tile ⟨2, 0⟩ false r.2 0 3) o tile 3 ⟨2, 0⟩

/-- A tile to promote, of a SEALED object and without a copy in T2, is promoted. -/
theorem exec_promoteCopy (hobj : objOf s id.toNat = some o) (hmem : (id.toNat, tile) ∈ s.tier.promote) (hstate : o.state = 3)
    (hid : o.id = id.toNat) (hnone : copyIn s id.toNat tile ⟨2, 0⟩ = none) :
    exec (.promoteCopy id tile) s = .next (promoteTile (s.promoted id.toNat tile) o tile) := by
  have hcontains : s.tier.promote.contains (id.toNat, tile) = true := by simpa using hmem
  have hobj' : objOf (s.promoted id.toNat tile) id.toNat = some o := hobj
  have hgo : ¬ (o.state ≠ 3 ∨ (copyIn (s.promoted id.toNat tile) o.id tile ⟨2, 0⟩).isSome = true) := by
    have hnone' : copyIn (s.promoted id.toNat tile) o.id tile ⟨2, 0⟩ = none := by rw [hid]; exact hnone
    simp [hstate, hnone']
  show execPromoteCopy id tile s = _
  rw [execPromoteCopy, if_neg (by simp only [hcontains]; decide)]
  dsimp only
  rw [hobj']
  refine (if_neg hgo).trans ?_
  unfold promoteTile
  cases takeAny (s.promoted id.toNat tile) o.domain ⟨2, 0⟩ (fun _ => false) <;> rfl

/-- The copy of a tile that has been read becomes valid, and the move from its home is counted. -/
def arriveT2 (s : State) (o : Obj) (tile : Nat) (p : Space) : State :=
  match copyIn s o.id tile p with
  | none => s
  | some c => syncObj (count (countTier (s.modCopy c (fun e => { e with valid := true, lastRead := s.now })) 3 4096)
      Reg.tirMigCount 1) o.id

/-- A tile that is read without an error arrives in T2. -/
theorem copyTile_read {p : Space} {cls : Nat} (hp : p.tier = 2)
    (hread : (readTile s o (tile * 4096) 4096 cls none).2.all (·.isSome) = true) :
    copyTile s o tile cls p = arriveT2 (readTile s o (tile * 4096) 4096 cls none).1 o tile p := by
  have htier : ¬ p.tier = 1 := by omega
  simp only [copyTile, htier, if_false]
  exact if_pos hread

end

/-- Settles O22: the seal's end, the removal, the arrival and the promotion, each by what its command does. -/
theorem objectsAndTilesSettle : Obligations.ObjectsAndTilesSettle := by
  refine ⟨fun s id o hobj => ⟨fun hstate hbusy => ?_, fun hstate => ?_⟩, fun s id tile tier cl o hobj => ⟨fun c hcopy hvalid =>
    exec_tileCopyValid hobj hcopy hvalid, fun hmem hstate hid hnone => ?_, fun p cls hp => ?_⟩⟩
  · intro v r
    have hid := id_of_objOf hobj
    obtain ⟨st, res, hans⟩ := sealEnd_answers v o
    refine ⟨st, res, hans, exec_sealFlushComplete hobj hstate hbusy hans, fun hmedia => ?_⟩
    have htier : v.tier = s.tier := flushed_tier s o
    have hobj' : objOf v o.id = some o := by
      rw [hid]
      exact (objOf_congr (congrArg Tier.objs htier) _).trans hobj
    obtain ⟨hdone, hsealed⟩ := sealEnd_clean hobj' (by rw [htier]; exact hmedia)
    obtain ⟨hst, hres⟩ : st = 0 ∧ res = objDigest v o := by simpa using hans.symm.trans hdone
    refine ⟨hst, hres, ?_⟩
    rw [hid] at hsealed
    have hpick := congrArg (Option.map fun q : Nat × Nat × Bool × Nat => (q.1, q.2.2.1, q.2.2.2)) hsealed
    rwa [Option.map_map] at hpick
  · have hid := id_of_objOf hobj
    exact ⟨removeObj_objOf hid, removeObj_copies, removeObj_gen hid, rfl, exec_freeComplete hobj hstate⟩
  · intro u
    have hexec := exec_promoteCopy hobj hmem hstate hid hnone
    refine ⟨fun hfree => ?_, fun hfull => ?_⟩
    · have htake : takeAny (s.promoted id.toNat tile) o.domain ⟨2, 0⟩ (fun _ => false) = some (u, false) := takeAny_free hfree
      rwa [promoteTile, htake] at hexec
    · have htake : takeAny (s.promoted id.toNat tile) o.domain ⟨2, 0⟩ (fun _ => false) = none := hfull
      rwa [promoteTile, htake] at hexec
  · intro r hread
    exact copyTile_read hp hread

end Sys2Proof.Machine
end

section
/-! PROOFS. Tensor programs: the queue, the checks, the layers and the ends (R133, R140, R144, R157 to R159, R162, R163, R165;
log 28). -/

namespace Sys2Proof.Machine

/-! ### A cluster's tensor unit -/

section
variable {s : State} {c : Nat}

/-- Two changes of a cluster that agree on it as it stands are one. -/
theorem modClu_congr {f g : Cluster → Cluster} (h : f (cluOf s c) = g (cluOf s c)) : s.modClu c f = s.modClu c g := by
  have hlist : s.clus.modify c f = s.clus.modify c g := by
    refine List.ext_getElem? fun i => ?_
    rw [List.getElem?_modify, List.getElem?_modify]
    by_cases hi : c = i
    · subst hi
      cases hk : s.clus[c]? with
      | none => rfl
      | some k =>
        have hclu : cluOf s c = k := by simp [cluOf, List.getD_eq_getElem?_getD, hk]
        simpa [hclu] using h
    · simp [hi]
  rw [State.modClu, hlist]
  rfl

/-- A change that leaves the cluster as it stands changes nothing. -/
theorem modClu_id {f : Cluster → Cluster} (h : f (cluOf s c) = cluOf s c) : s.modClu c f = s := by
  rw [modClu_congr (g := id) h, State.modClu, List.modify_id]

/-- An idle cluster need not yield. -/
theorem mustYield_idle (h : (cluOf s c).run = none) : mustYield s c = false := by
  simp only [mustYield, h]

theorem mustYield_running {p : Prog} (h : (cluOf s c).run = some p)
    (hq : (cluOf s c).queue.any (fun r => decide (r.cls < p.run.cls)) = false) : mustYield s c = false := by
  simp only [mustYield, h, hq, Bool.and_false]

end

/-! ### PROGRAM_LAUNCH and PROGRAM_TAKE (R140, R144, R162) -/

section
variable {s : State}

/-- A run that a unit takes is the node's, of its sequencer and of no slot. -/
theorem takeLaunch_run {q i : Nat} {kinds : List Nat} {u : State} {run : Run} (h : takeLaunch s q i kinds = some (u, run)) :
    run.seq = q ∧ run.node = i ∧ run.slot = none := by
  unfold takeLaunch at h
  split at h
  · cases h
  · cases h
    exact ⟨rfl, rfl, rfl⟩

/-- The run of a launched node joins the queue of its cluster in its order, where the queue has room. -/
theorem exec_programLaunch {q : Fin 16} {node k : Nat} {g : Graph} {n : NodeDesc} {u v : State} {run : Run}
    {r : Nat × List Byte}
    (hpeek : peekLaunch s q.val node [1] = some (g, n)) (hread : unitRead s (n.job + 120) 8 g.cls none = (v, r))
    (hk : runsOn v (if r.1 = stOK then bitsOf (wordAt r.2 0) 2 0 else 0) = k) (hroom : (cluOf v k).queue.length < 256)
    (htake : takeLaunch v q.val node [1] = some (u, run)) :
    exec (.programLaunch q node) s = .next (u.modClu k (fun x => { x with queue := insertBy runBefore run x.queue })) := by
  show execProgramLaunch q node s = _
  simp only [execProgramLaunch, hpeek, hread, hk, if_neg (Nat.not_le.2 hroom), htake]

/-- The state and the program of a cluster that has taken a run and read its descriptors. -/
def readProg (s : State) (c : Nat) (run : Run) : (State × List (List Byte) × Bool) × Prog :=
  let u := obsStart s c run
  let d := readDescs run.job run.cls c 4096 0 u
  (d, freshProg run u.now d.2.1 d.1.snap)

/-- A program whose descriptors have been read starts, or ends as refused (R144). -/
def startProg (d : State × List (List Byte) × Bool) (c : Nat) (p : Prog) : State :=
  match checkProg d.1 p.run.job d.2.1 d.2.2 with
  | some e => endProg d.1 c p 2 0 e.1 e.2
  | none => (requestTiles d.1 p).1.modClu c (fun k => { k with run := some (requestTiles d.1 p).2 })

/-- An idle cluster takes the first run of its queue, reads its descriptors and starts it by them. -/
theorem exec_programTake {c : Fin 8} {run : Run} {rs : List Run} (hfence : unitFenced s c.val = false)
    (hidle : (cluOf s c.val).run = none) (hsusp : (cluOf s c.val).susp = []) (hqueue : (cluOf s c.val).queue = run :: rs) :
    let r := readProg (s.modClu c.val (fun k => { k with queue := rs })) c.val run
    exec (.programTake c) s = .next (startProg r.1 c.val r.2) := by
  intro r
  show execProgramTake c s = _
  simp only [execProgramTake, hfence, mustYield_idle hidle, hidle, Option.isNone_none, Bool.false_eq_true, if_false, if_true,
    nextProg, hsusp, hqueue, leastBy]
  rfl

theorem startProg_accepted {d : State × List (List Byte) × Bool} {c : Nat} {p : Prog}
    (h : checkProg d.1 p.run.job d.2.1 d.2.2 = none) : startProg d c p =
      (requestTiles d.1 p).1.modClu c (fun k => { k with run := some (requestTiles d.1 p).2 }) := by
  simp only [startProg, h]

theorem startProg_refused {d : State × List (List Byte) × Bool} {c reason layer : Nat} {p : Prog}
    (h : checkProg d.1 p.run.job d.2.1 d.2.2 = some (reason, layer)) :
    startProg d c p = endProg d.1 c p 2 0 reason layer := by
  simp only [startProg, h]

end

/-! ### LAYER_START (R133, R157) -/

section
variable {s : State} {p : Prog}

/-- A layer whose weights are there is decided by its WAIT. -/
theorem exec_layerStart {c : Fin 8} (hrun : (cluOf s c.val).run = some p) (habort : runAborted s p.run = false)
    (hin : p.inLayer = false) (hq : (cluOf s c.val).queue.any (fun r => decide (r.cls < p.run.cls)) = false)
    (hfence : unitFenced s c.val = false) (hready : weightsReady (requestTiles s p).1 (requestTiles s p).2 = true) :
    exec (.layerStart c) s = .next (layerWait (requestTiles s p).1 c.val (requestTiles s p).2) := by
  show execLayerStart c s = _
  simp only [execLayerStart, hrun, hin, mustYield_running hrun hq, hfence, habort, hready, Bool.or_self, Bool.false_eq_true,
    Bool.not_true, if_false]

variable {c : Nat}

/-- A layer without a WAIT begins. -/
theorem layerWait_none (h : (p.layerAt p.layer).wait = 0) :
    layerWait s c p = beginLayer (waitsRead s c p).1 c (waitsRead s c p).2 := if_pos h

/-- The WAIT buoy of the layer to run is read at once where it lies on this node. -/
theorem pollWait_own {n f : Nat} {b : Word} (hpolled : p.polled = none) (hnode : nodeOf (p.layerAt p.layer).wait = s.node)
    (hb : (readBuoy s (p.layerAt p.layer).wait).2 = some b) :
    pollWait s c p (.got n f) = (s, { p with polled := some (.got (bitsOf b 47 0) (bitsOf b 63 48)) }) := by
  simp only [pollWait, hpolled, hnode, if_true, readWait, hb]

/-- A WAIT buoy of this node, read against what the program found, fails the program or decides whether the layer begins. -/
theorem layerWait_read {u : State} {ws : List WaitRead} {n f : Nat} {b : Word}
    (hw : waitsRead s c p = (u, { p with waits := some ws })) (hwait : (p.layerAt p.layer).wait ≠ 0)
    (hbase : ws[p.layer]? = some (.got n f)) (hpolled : p.polled = none) (hnode : nodeOf (p.layerAt p.layer).wait = u.node)
    (hb : (readBuoy u (p.layerAt p.layer).wait).2 = some b) :
    (f < bitsOf b 63 48 → layerWait s c p = endProg (u.clearProg c) c
      { p with waits := some ws, polled := some (.got (bitsOf b 47 0) (bitsOf b 63 48)) } 6 0 0 p.layer) ∧
    (bitsOf b 63 48 ≤ f → layerWait s c p =
      if (bitsOf b 47 0 + 2 ^ 49 - n - (p.layerAt p.layer).waitn) % 2 ^ 48 < 2 ^ 47
      then beginLayer u c { p with waits := some ws } else u.setProg c { p with waits := some ws }) := by
  have hfirst : ws.getD p.layer (.got 0 0) = .got n f := by rw [List.getD_eq_getElem?_getD, hbase]; rfl
  have hpoll : pollWait u c { p with waits := some ws } (.got n f) =
      (u, { p with waits := some ws, polled := some (.got (bitsOf b 47 0) (bitsOf b 63 48)) }) :=
    pollWait_own (p := { p with waits := some ws }) hpolled hnode hb
  have hkept : ({ p with waits := some ws, polled := none } : Prog) = { p with waits := some ws } := by rw [← hpolled]
  simp only [layerWait, hw, if_neg hwait, Option.getD_some, hfirst, hpoll, waitRes]
  refine ⟨fun hfail => ?_, fun hgood => ?_⟩
  · simp only [if_pos hfail]
  · rw [if_neg (Nat.not_lt.2 hgood)]
    split_ifs
    · rfl
    · exact congrArg (u.setProg c) hkept

end

/-! ### LAYER_END (R142, R143, R158) -/

section
variable {s : State} {c : Nat} {p : Prog} {l : Layer}

/-- The output tiles of a layer, in address order. -/
def layerOut (s : State) (l : Layer) (o : Operands) : List OutTile :=
  (List.range (tensorTiles l.ofmt l.m l.n)).map (l.outTile s.ftab o)

/-- The occupancy map is written where the layer has one (R152). -/
def writeMap (s : State) (l : Layer) (ts : List OutTile) : State × Nat :=
  if l.occOut then unitWrite s (l.c + BitVec.ofNat 64 l.cBytes) (l.outMap (ts.flatMap (·.elems))) else (s, stOK)

/-- A layer whose operands are read and whose tiles can be written writes them all and finishes. -/
theorem runLayer_finishes {u : State} {o : Operands} (hl : p.layerAt p.layer = l)
    (hread : readOperands s c p.run.cls p.old l = (u, o, []))
    (hfmt : ∀ t ∈ List.range (tensorTiles l.ofmt l.m l.n), l.tileFormatBad o t = false)
    (hplace : ∀ t ∈ layerOut u l o, placeCheck u (localOf l.c + 4096 * t.index) 4096 .write none = stOK)
    (hmap : (writeMap (writeTiles u l (layerOut u l o)).1 l (layerOut u l o)).2 = stOK) :
    runLayer s c p = finishLayer (writeMap (writeTiles u l (layerOut u l o)).1 l (layerOut u l o)).1 c p l (layerOut u l o) := by
  have hgood (bad : List Nat) : (List.range (tensorTiles l.ofmt l.m l.n)).filter
      (fun t => !bad.contains t && l.tileFormatBad o t) = [] :=
    List.filter_eq_nil_iff.2 fun t ht => by simp [hfmt t ht]
  have hplaced : (layerOut u l o).filterMap (fun t =>
      let st := placeCheck u (localOf l.c + 4096 * t.index) 4096 .write none
      if st = stOK then none else some st) = [] :=
    List.filterMap_eq_nil_iff.2 fun t ht => if_pos (hplace t ht)
  unfold layerOut at hplaced
  simp only [runLayer, hl, hread, hgood, List.isEmpty_nil, Bool.not_true, Bool.false_and, Bool.false_eq_true, if_false,
    hplaced]
  exact if_neg (not_not.2 hmap)

theorem exec_layerEnd {c : Fin 8} {u : State} (hrun : (cluOf s c.val).run = some p) (habort : runAborted s p.run = false)
    (hin : p.inLayer = true) (hend : chargeDomain s p.run.dom (runLayer s c.val p) = u) :
    exec (.layerEnd c) s = .next (count u.bumpFree (Reg.obsDom (4 * p.run.dom)) (Config.freeNat u.freeCtr)) := by
  show execLayerEnd c s = _
  simp only [execLayerEnd, hrun, hin, habort, hend, Bool.not_true, Bool.false_eq_true, if_false]

end

/-! ### Aborted programs (R68, R159, R165) -/

section
variable {s : State} {c : Fin 8}

/-- A queued run whose graph run was aborted, alone on its cluster, is cancelled. -/
theorem exec_programCancel_queued {run : Run} (hidle : (cluOf s c.val).run = none) (hsusp : (cluOf s c.val).susp = [])
    (hqueue : (cluOf s c.val).queue = [run]) (habort : runAborted s run = true) :
    exec (.programCancel c) s =
      .next (cancelQueued (s.modClu c.val (fun k => { k with susp := [], queue := [] })) c.val run) := by
  have hall : [run].filter (runAborted s) = [run] := List.filter_cons_of_pos habort
  have hgone : s.modClu c.val (fun k => { k with
      susp := k.susp.filter (fun p => !([] : List Prog).contains p), queue := k.queue.filter (fun r => !List.contains [run] r) }) =
      s.modClu c.val (fun k => { k with susp := [], queue := [] }) :=
    modClu_congr (by simp [hsusp, hqueue])
  show execProgramCancel c s = _
  simp only [execProgramCancel, hidle, hsusp, hqueue, List.filter_nil, hall, hgone, List.foldl_nil, List.foldl_cons]

/-- A running program whose graph run was aborted ends, and nothing more where nothing else waits. -/
theorem exec_programCancel_running {p : Prog} (hrun : (cluOf s c.val).run = some p) (habort : runAborted s p.run = true)
    (hsusp : (cluOf (abortProg s c.val p) c.val).susp = []) (hqueue : (cluOf (abortProg s c.val p) c.val).queue = []) :
    exec (.programCancel c) s = .next (abortProg s c.val p) := by
  have hsame : (abortProg s c.val p).modClu c.val (fun k => { k with
      susp := k.susp.filter (fun p => !([] : List Prog).contains p)
      queue := k.queue.filter (fun r => !([] : List Run).contains r) }) = abortProg s c.val p :=
    modClu_id (by simp)
  show execProgramCancel c s = _
  simp only [execProgramCancel, hrun, habort, if_true, hsusp, hqueue, List.filter_nil, hsame, List.foldl_nil]

theorem exec_layerStart_aborted {p : Prog} (hrun : (cluOf s c.val).run = some p) (habort : runAborted s p.run = true) :
    exec (.layerStart c) s = if p.inLayer = false ∧ mustYield s c.val = false ∧ unitFenced s c.val = false
      then .next (abortProg s c.val p) else .next s := by
  show execLayerStart c s = _
  simp only [execLayerStart, hrun, habort, if_true]
  cases p.inLayer <;> cases mustYield s c.val <;> cases unitFenced s c.val <;> rfl

theorem exec_layerEnd_aborted {p : Prog} (hrun : (cluOf s c.val).run = some p) (habort : runAborted s p.run = true)
    (hin : p.inLayer = true) : exec (.layerEnd c) s = .next (abortProg s c.val p) := by
  show execLayerEnd c s = _
  simp only [execLayerEnd, hrun, hin, habort, Bool.not_true, Bool.false_eq_true, if_false, if_true]

end

/-- Settles O20: each command by the lemma of the case that its premises name. -/
theorem programsRunLayerByLayer : Obligations.ProgramsRunLayerByLayer := by
  refine ⟨fun s q node c => ⟨fun g n u run => ?_, fun run rs => ?_, fun run rs reason layer => ?_⟩,
    fun s c p hrun habort => ⟨fun ws => ?_, ?_⟩, fun s c => ⟨fun run => exec_programCancel_queued, fun p hrun habort => ?_⟩⟩
  · intro r k hpeek hroom htake
    obtain ⟨hseq, hnode, hslot⟩ := takeLaunch_run htake
    exact ⟨hseq, hnode, hslot, exec_programLaunch hpeek rfl rfl hroom htake⟩
  · intro u d t hfence hidle hsusp hqueue hcheck
    exact (exec_programTake hfence hidle hsusp hqueue).trans (congrArg _ (startProg_accepted hcheck))
  · intro u d hfence hidle hsusp hqueue hcheck
    exact (exec_programTake hfence hidle hsusp hqueue).trans (congrArg _ (startProg_refused hcheck))
  · intro r l w hin hq hfence hready hw
    have hexec := exec_layerStart hrun habort hin hq hfence hready
    refine ⟨fun hnone => hexec.trans (congrArg _ (layerWait_none hnone)), fun n f b hwait hbase hpolled hnode hb => ?_⟩
    have hw' : waitsRead r.1 c.val r.2 = (w.1, { r.2 with waits := some ws }) := Prod.ext rfl hw
    obtain ⟨hfail, hgood⟩ := layerWait_read hw' hwait hbase hpolled hnode hb
    refine ⟨fun hlt => ?_, fun hle => ?_⟩
    · rw [hexec, hfail hlt, hw]
    · rw [hexec, hgood hle, hw]
      split_ifs <;> rfl
  · intro l r tiles ts w m hin hread hfmt hplace hmap t
    have hread' : readOperands s c.val p.run.cls p.old l = (r.1, r.2.1, []) := Prod.ext rfl (Prod.ext rfl hread)
    exact exec_layerEnd hrun habort hin (congrArg _ (runLayer_finishes rfl hread' hfmt hplace hmap))
  · intro u
    exact ⟨exec_layerStart_aborted hrun habort, exec_layerEnd_aborted hrun habort, exec_programCancel_running hrun habort⟩

end Sys2Proof.Machine
end

section
/-! PROOFS. The steps of a strand: what each writes, issues and waits for (R170, R172, R184 to R193). -/

namespace Sys2Proof.Machine

/-! ### A strand that is replaced (R170) -/

section
variable {s : State} {t y : Strand}

theorem id_of_strandOf {k : Nat} (h : strandOf s k = some t) : t.id = k := by
  simpa using List.find?_some h

/-- After a strand is replaced, it is what its ID finds, and every other ID finds what it found. -/
theorem strandOf_setStrand (s : State) (y : Strand) (k : Nat) :
    strandOf (s.setStrand y) k = if k = y.id then (strandOf s k).map (fun _ => y) else strandOf s k := by
  have hkey : (fun t : Strand => t.id == k) ∘ (fun t => if t.id == y.id then y else t) = fun t => t.id == k := by
    funext t
    by_cases ht : t.id = y.id <;> simp [ht]
  rw [strandOf, State.setStrand, List.find?_map, hkey]
  change (strandOf s k).map _ = _
  cases h : strandOf s k with
  | none => simp
  | some t => by_cases hk : k = y.id <;> simp [id_of_strandOf h, hk]

theorem strandOf_setStrand_self (h : strandOf s y.id = some t) : strandOf (s.setStrand y) y.id = some y := by
  rw [strandOf_setStrand, if_pos rfl, h, Option.map_some]

theorem strandOf_setStrand_ne {k : Nat} (h : k ≠ y.id) : strandOf (s.setStrand y) k = strandOf s k := by
  rw [strandOf_setStrand, if_neg h]

theorem g_setGreg_self {r : Nat} (h : r < t.gregs.length) (v : Word) : (setGreg t r v).g r = v := by
  simp [Strand.g, setGreg, h]

theorem g_setGreg_ne {r k : Nat} (h : k ≠ r) (v : Word) : (setGreg t r v).g k = t.g k := by
  simp [Strand.g, setGreg, List.getElem?_set_ne h.symm]

end

/-- Settles O25: what a register step writes is one strand of one field of the state. -/
theorem aStepKeepsTheRest : Obligations.AStepKeepsTheRest := by
  intro u t rd v hfind hlen hrd x
  have hself : strandOf x t.id = some (setGreg t.next rd v) := strandOf_setStrand_self (y := setGreg t.next rd v) hfind
  refine ⟨⟨_, hself, ?_, fun k hk => ?_, rfl, rfl, rfl, rfl, rfl⟩, fun k hk => strandOf_setStrand_ne hk, rfl, rfl⟩
  · exact g_setGreg_self (hrd.trans_eq hlen.symm) v
  · exact g_setGreg_ne hk v

/-! ### A step that is issued (R173, R184) -/

section
variable {s u : State} {id : BitVec 22} {t : Strand} {w : StepWord} {i : Instr} {op : Nat}

/-- The command of a step's opcode leaves what the step leaves. -/
theorem exec_step (h : s.Steps id t u w) {f : State → Strand → StepWord → State} {v : State}
    (hi : exec i s = .next (issueStep s id op f)) (hv : f u t w = v) (ho : w.op = op) : exec i s = .next v :=
  hi.trans (congrArg _ ((issueStep_eq h ho f).trans hv))

/-- A step that writes gd writes its value and goes to the next step (R185, R186). -/
theorem exec_alu (h : s.Steps id t u w) {f : Strand → StepWord → Word} {v : Word}
    (hi : exec i s = .next (stepAlu s id op f)) (hv : f t w = v) (ho : w.op = op) :
    exec i s = .next (u.setStrand (setGreg t.next w.rd v)) :=
  exec_step h hi (by rw [hv]) ho

/-- A branch moves the PC by its offset where its condition holds, else to the next step (R186). -/
theorem exec_branch (h : s.Steps id t u w) {cond : Word → Word → Bool} {c : Prop} [Decidable c]
    (hi : exec i s = .next (stepBranch s id op cond)) (hc : cond (t.g w.ra) (t.g w.rb) = decide c) (ho : w.op = op) :
    exec i s = .next (u.setStrand { t with
      steps := (t.steps + 1) % 2 ^ 64, pc := if c then t.pc + BitVec.ofInt 64 (sextN 14 w.imm * 4) else t.pc + 4 }) := by
  refine exec_step h hi (congrArg u.setStrand ?_) ho
  by_cases hc' : c
  · rw [if_pos hc', if_pos (hc.trans (decide_eq_true hc'))]
    rfl
  · rw [if_neg hc', if_neg (hc.trans (decide_eq_false hc') ▸ Bool.false_ne_true)]
    rfl

/-- A strand that waits for a load step, which has been issued or not (R187). -/
def loadWait (t : Strand) (w : StepWord) (len : Nat) (a : Word) (sent : Bool) : Strand :=
  { t.counted with state := 2, wait := .load w.op w.rd a len sent none }

/-- A load faults when misaligned; else it waits, and its GET is issued unless a store of the strand is ahead (R187). -/
theorem exec_load (h : s.Steps id t u w) {len : Nat} {addr : Strand → StepWord → Word} {a : Word}
    (hi : exec i s = .next (stepLoad s id op len addr)) (ha : addr t w = a) (ho : w.op = op) :
    exec i s = .next (
      if a.toNat % len ≠ 0 then faultStrand u t 4 none
      else
        let v := u.setStrand (loadWait t w len a false)
        if storeAhead v t.id a len then v
        else issue (v.setStrand (loadWait t w len a true)) (.load t.id) (strandOp t 1 0 a 0 len 0 0 0) []) := by
  subst ho ha
  exact exec_step h hi rfl rfl

/-- A store faults when misaligned; else its posted PUT is issued and the strand goes on (R187). -/
theorem exec_store (h : s.Steps id t u w) {len scale : Nat} {data : Strand → StepWord → List Byte} {a : Word}
    {bs : List Byte} (hi : exec i s = .next (stepStore s id op len scale data)) (ha : immAddr scale t w = a)
    (hbs : data t w = bs) (ho : w.op = op) :
    exec i s = .next (
      if a.toNat % len ≠ 0 then faultStrand u t 4 none
      else issue (u.setStrand t.next) (.store t.id) (strandOp t 2 0 a 0 len 0 0 0) bs) := by
  subst ha hbs
  exact exec_step h hi rfl ho

end

/-- Settles O24: each step by the lemma of its kind. -/
theorem strandStepsGiveTheirResults : Obligations.StrandStepsGiveTheirResults := by
  refine ⟨fun s id t u w h => ?_, fun s id t u w h => ?_⟩
  · intro a b r f
    iterate 24 refine ⟨exec_alu h rfl rfl, ?_⟩
    exact exec_step h rfl rfl
  · intro a b r steps rel go link
    refine ⟨exec_branch h rfl rfl, exec_branch h rfl (decide_not ..).symm, exec_branch h rfl rfl, exec_branch h rfl rfl,
      exec_step h rfl rfl, fun ho halign => ?_, fun ho halign => ?_, exec_step h rfl rfl, fun ho => ?_⟩
    · exact exec_step h rfl (if_neg (not_not.2 halign)) ho
    · exact exec_step h rfl (if_pos halign) ho
    · refine exec_step h rfl (congrArg u.setStrand ?_) ho
      by_cases himm : w.imm = 1
      · rw [if_pos himm, if_pos himm]
        rfl
      · rw [if_neg himm, if_neg himm]
        rfl

/-- Settles O26: the loads and the stores each by the one lemma of their kind. -/
theorem loadAndStoreSteps : Obligations.LoadAndStoreSteps := by
  refine ⟨fun s id t u w h => ?_, fun s id t u w h => ?_⟩
  · intro x load off
    and_intros
    all_goals exact exec_load h rfl rfl
  · intro store off b
    and_intros
    all_goals exact exec_store h rfl rfl rfl

/-- Settles O27: each of these commands runs the step that its opcode names. -/
theorem operationStepsBlock : Obligations.OperationStepsBlock := by
  intro s id t u w h a b d held r
  and_intros
  all_goals exact exec_step h rfl rfl

end Sys2Proof.Machine
end

section
/-! PROOFS. Strands that wait, and what ends a wait (R172, R176, R178, R179, R187 to R193). -/

namespace Sys2Proof.Machine

/-! ### Waits on buoys (R178, R189) -/

section
variable {s u : State} {id : BitVec 22} {t : Strand} {w : StepWord} {rd limit since : Nat} {a cond : Word}

/-- A strand begins the wait on a buoy of this node that WATCH, PARK and JOB name (R178). -/
def beginBuoyWait (s : State) (t : Strand) (rd limit since : Nat) (a cond : Word) : State :=
  beginWait s { t with waddr := a, wcond := cond } (.buoy rd limit since)

/-- A condition that holds ends the wait at once. -/
theorem waitBuoy_over {st : Nat} (hnode : nodeOf a = s.node) (hbuoy : buoyCheck s (localOf a) = stOK)
    (hcond : watchCond (s.word (localOf a)) cond = some st) :
    waitBuoy s t rd limit since a cond = endWait s t rd st (s.word (localOf a)) := by
  simp only [waitBuoy, hnode, hbuoy, waitLocal, hcond, ne_eq, not_true_eq_false, if_true, if_false]

theorem waitBuoy_waits (hnode : nodeOf a = s.node) (hbuoy : buoyCheck s (localOf a) = stOK)
    (hcond : watchCond (s.word (localOf a)) cond = none) :
    waitBuoy s t rd limit since a cond = beginBuoyWait s t rd limit since a cond := by
  simp only [waitBuoy, hnode, hbuoy, waitLocal, hcond, ne_eq, not_true_eq_false, if_true, if_false, beginBuoyWait]

/-- A buoy of another node takes an ordinary WATCH. -/
theorem waitBuoy_remote (hnode : nodeOf a ≠ s.node) :
    waitBuoy s t rd limit since a cond =
      issue (beginWait s { t with waddr := a, wcond := cond } (.pending s.nextTag rd)) (.strand t.id none)
        (strandOp t 5 0 a 0 limit cond 0 0) [] := if_neg hnode

/-- PARK leaves the context of a strand that waits (R176). -/
theorem exec_stepPark (h : s.Steps id t u w) (ho : w.op = 0x3A) {v : State} {x : Strand}
    (hwait : waitBuoy u t.next w.rd w.imm u.lamp.counted (t.g w.ra) (t.g w.rb) = v) (hfind : strandOf v t.id = some x)
    (hstate : x.state = 3) : exec (.stepPark id) s = .next (parkStrand v x) := by
  refine exec_step h rfl ?_ ho
  simp only [hwait, hfind, hstate, if_true]

/-! ### JOB (R189) -/

/-- The status of the DONE buoy that JOB names: one that breaks R31 fails the step. -/
def jobCheck (s : State) (done : Word) : Nat :=
  if nodeOf done = s.node then buoyCheck s (localOf done) else if done.toNat % 8 ≠ 0 then stALIGNMENT else stOK

/-- JOB issues the read of its DONE buoy and waits for its answer, which may have come at once. -/
theorem exec_stepJob (h : s.Steps id t u w) (ho : w.op = 0x39) (hcheck : jobCheck u (t.g w.rb) = stOK) :
    exec (.stepJob id) s = .next (jobAnswer (issue (beginWait u t.next (.job w.rd w.imm (t.g w.ra) (t.g w.rb) none))
      (.load t.id) (strandOp t 1 0 (t.g w.rb) 0 8 0 0 0) []) t.id) :=
  exec_step h rfl (if_neg (not_not.2 hcheck)) ho

/-- The condition that a JOB waits for: a success or a failure more than the DONE buoy has counted. -/
def jobCond (now : Word) : Word :=
  putBits (BitVec.ofNat 64 ((bitsOf now 47 0 + 1) % 2 ^ 48)) 63 48 (bitsOf now 63 48 + 1)

/-- JOB with its DONE buoy read and its LAUNCH buoy on this node increments that one and waits on the other. -/
theorem jobAnswer_launches {k : Nat} {launch done : Word} {data : List Byte} {x y : Strand}
    (hfind : strandOf s k = some x) (hres : x.resident = true)
    (hwait : x.wait = .job rd limit launch done (some (stOK, data))) (hnode : nodeOf launch = s.node)
    (hbump : (bump s launch true x.cls).2 = stOK) (hy : strandOf (bump s launch true x.cls).1 x.id = some y) :
    jobAnswer s k = waitBuoy (bump s launch true x.cls).1 y rd limit (bump s launch true x.cls).1.lamp.counted done
      (jobCond (wordAt data 0)) := by
  simp only [jobAnswer, hfind, hres, hwait, jobGo, hnode, hbump, hy, jobWait, ne_eq, not_true_eq_false, if_true, if_false,
    jobCond]

end

/-! ### Waits that end (R172, R176, R188, R190 to R193) -/

section
variable {s : State} {id : BitVec 22} {t : Strand} {rd : Nat}

/-- A load takes its answer. -/
theorem exec_strandOpComplete_load (hfind : strandOf s id.toNat = some t) {code len st : Nat} {a : Word} {sent : Bool}
    {data : List Byte} (hwait : t.wait = .load code rd a len sent (some (st, data))) :
    exec (.strandOpComplete id) s = .next (finishLoad s t code rd st data) := by
  show execStrandOpComplete id s = _
  simp only [execStrandOpComplete, hfind, hwait]

theorem finishLoad_failed {code st : Nat} {data : List Byte} (h : st ≠ stOK) :
    finishLoad s t code rd st data = faultStrand s t 3 (some st) := if_pos h

/-- LDW takes its data into the wide register; HAMM takes the data's distance from it, and every other load its data, into
a register (R187). -/
theorem finishLoad_ok (code : Nat) (data : List Byte) :
    finishLoad s t code rd stOK data = makeReady s (
      let x := { t with pc := t.pc + 4 }
      if code = 0x2A then { x with wide := (List.range 8).map (fun i => wordAt data (8 * i)) }
      else setGreg x rd (BitVec.ofNat 64 (if code = 0x2C then hamming (t.wide.flatMap wordBytes) data else leNat data))) := by
  rw [finishLoad, if_neg (not_not.2 rfl)]
  by_cases hw : code = 0x2A
  · simp only [hw, if_true]
  · rw [if_neg hw, if_neg hw]
    exact (apply_ite (fun v => makeReady s (setGreg { t with pc := t.pc + 4 } rd (BitVec.ofNat 64 v))) ..).symm

theorem exec_strandOpComplete_result (hfind : strandOf s id.toNat = some t) {st : Nat} {v : Word}
    (hwait : t.wait = .result st v rd) : exec (.strandOpComplete id) s = .next (endWait s t rd st v) := by
  show execStrandOpComplete id s = _
  simp only [execStrandOpComplete, hfind, hwait]

/-- A spawn that its cluster takes gives the new strand's ID (R190). -/
theorem exec_strandOpComplete_spawn (hfind : strandOf s id.toNat = some t) {c : Nat} {pc arg : Word} {b : Batch}
    {r : State × Nat} {y : Strand} (hwait : t.wait = .spawn rd c pc arg) (hbatch : batchOf s t.batch = some b)
    (hpool : poolOk s c = true)
    (hspawn : spawnStrand s c b pc ([arg, BitVec.ofNat 64 t.sid] ++ List.replicate 14 0) t.cls = some r)
    (hy : strandOf r.1 t.id = some y) :
    exec (.strandOpComplete id) s = .next (endWait r.1 y rd stOK (BitVec.ofNat 64 r.2)) := by
  show execStrandOpComplete id s = _
  simp only [execStrandOpComplete, hfind, hwait, takeSpawn, hbatch, hpool, hspawn, hy, Bool.not_true, Bool.false_eq_true,
    if_false]

/-- A strand none of whose operations is pending has drained (R42, R193). -/
theorem strandDrained_of_no_ops (h : ∀ p ∈ s.ops, p.origin.ofStrand t.id = false) : strandDrained s t = true :=
  List.all_eq_true.2 fun p hp => by rw [h p hp]; rfl

theorem exec_strandOpComplete_fence (hfind : strandOf s id.toNat = some t) (hwait : t.wait = .fence)
    (hdrained : strandDrained s t = true) : exec (.strandOpComplete id) s = .next (makeReady s t) := by
  show execStrandOpComplete id s = _
  simp only [execStrandOpComplete, hfind, hwait, hdrained, if_true]

theorem exec_strandOpComplete_drain (hfind : strandOf s id.toNat = some t) {e : Nat} (hwait : t.wait = .drain e)
    (hdrained : strandDrained s t = true) : exec (.strandOpComplete id) s = .next (endStrand s t e) := by
  show execStrandOpComplete id s = _
  simp only [execStrandOpComplete, hfind, hwait, hdrained, if_true]

/-- A wait on a buoy that has lasted its edges ends with TIMEOUT (R178). -/
theorem exec_strandWaitTimeout (hfind : strandOf s id.toNat = some t) {limit since : Nat}
    (hwait : t.wait = .buoy rd limit since) (hlimit : limit ≠ 0) (hover : since + limit ≤ s.lamp.counted) :
    exec (.strandWaitTimeout id) s = .next (settle (endWait s t rd stTIMEOUT (s.word (localOf t.waddr)))) := by
  show execStrandWaitTimeout id s = _
  simp only [execStrandWaitTimeout, hfind, hwait, hlimit, Nat.not_lt.2 hover, or_self, if_false]

/-- The time at which a waiting strand has waited for its cluster's PARK_AFTER (R176). -/
def parkTime (s : State) (t : Strand) : Nat :=
  t.waited + cyclesNs s (homeCluster t.id) (64 * s.fld (Reg.cluStrCtl (homeCluster t.id)) 15 0)

/-- PARK_TIMEOUT lets PARK_AFTER pass, and parks a strand that still waits (R176). -/
theorem exec_parkTimeout (hfind : strandOf s id.toNat = some t) (hstate : t.state = 3) (hres : t.resident = true) {y : Strand}
    (hy : strandOf (runTo s (parkTime s t)) t.id = some y) (hystate : y.state = 3) :
    exec (.parkTimeout id) s = .next (parkStrand (runTo s (parkTime s t)) y) := by
  rw [parkTime] at hy ⊢
  show execParkTimeout id s = _
  simp only [execParkTimeout, hfind, hstate, hres, hy, hystate, ne_eq, not_true_eq_false, Bool.not_true, Bool.false_eq_true,
    or_self, if_true, if_false]

/-- A resident strand is parked at once, unless a store of it is posted (R176). -/
theorem parkStrand_resident (hres : t.resident = true) : parkStrand s t =
    if storesDone s t.id then settle (saveStrand s { t with resident := false, parking := false })
    else s.setStrand { t with parking := true } := by
  simp only [parkStrand, hres, Bool.not_true, Bool.false_eq_true, if_false]

/-- A failed fetch is a fault whatever step the command names (R191, R192). -/
theorem issueStep_fetch_failed (hfind : strandOf s id.toNat = some t) (hissue : mayIssue s t = true) {u : State} {e : Nat}
    (hfetch : fetchStep s t = (u, .error e)) (op : Nat) (f : State → Strand → StepWord → State) :
    issueStep s id op f = faultStrand (issued u t) t 2 (some e) := by
  simp only [issueStep, hfind, hissue, hfetch, Bool.not_true, Bool.false_eq_true, if_false]

end

/-- Settles O28: the steps that wait by what they wait for, the commands that end a wait by the wait. -/
theorem strandsWaitAndGoOn : Obligations.StrandsWaitAndGoOn := by
  refine ⟨fun s id t u w h => ?_, fun s id t hfind => ?_⟩
  · intro a b wait
    refine ⟨fun _ _ _ => rfl,
      fun hnode hbuoy => ⟨fun st hcond ho => ?_, fun hcond => ⟨fun ho => ?_, fun ho x hx hstate => ?_⟩⟩,
      fun ho hnode => ?_, fun ho hcheck => ?_⟩
    · exact exec_step h rfl (waitBuoy_over hnode hbuoy hcond) ho
    · exact exec_step h rfl (waitBuoy_waits hnode hbuoy hcond) ho
    · exact exec_stepPark h ho (waitBuoy_waits hnode hbuoy hcond) hx hstate
    · exact exec_step h rfl (waitBuoy_remote hnode) ho
    · have hjob := exec_stepJob h ho hcheck
      refine ⟨hjob, fun x y data hx hres hwait hnode hbump hy hdone hbuoy hcond => ?_⟩
      exact hjob.trans (congrArg _ ((jobAnswer_launches hx hres hwait hnode hbump hy).trans (waitBuoy_waits hdone hbuoy hcond)))
  · refine ⟨fun code rd a len sent st data hwait => ⟨fun hst => ?_, fun hst => ?_⟩,
      fun st v rd hwait => exec_strandOpComplete_result hfind hwait,
      fun rd c pc arg b r hwait hbatch hpool hspawn y hy => exec_strandOpComplete_spawn hfind hwait hbatch hpool hspawn hy,
      fun hops => ?_, fun rd limit since hwait hlimit hover => exec_strandWaitTimeout hfind hwait hlimit hover,
      fun hstate hres y hy hystate hyres => ?_, fun u e hissue hfetch => ?_⟩
    · exact (exec_strandOpComplete_load hfind hwait).trans (congrArg _ (finishLoad_failed hst))
    · subst hst
      exact (exec_strandOpComplete_load hfind hwait).trans (congrArg _ (finishLoad_ok code data))
    · have hdrained := strandDrained_of_no_ops hops
      exact ⟨fun hwait => exec_strandOpComplete_fence hfind hwait hdrained,
        fun e hwait => exec_strandOpComplete_drain hfind hwait hdrained⟩
    · rw [exec_parkTimeout hfind hstate hres hy hystate, parkStrand_resident hyres]
      exact apply_ite ..
    · exact congrArg _ (issueStep_fetch_failed hfind hissue hfetch ..)

end Sys2Proof.Machine
end

section
/-! PROOFS. Batches that spawn their strands, and strands that are loaded (R174, R177, R180, R181). -/

namespace Sys2Proof.Machine

/-! ### BATCH_LAUNCH (R180, R181) -/

/-- The state with the start of a batch recorded, whose record is `raw` (R485). -/
def batchStarted (s : State) (run : Run) (raw : List Byte) : State :=
  obsStart s ((batchClusters (u8At raw 12)).headD 0) run

/-- The batch that a launch with the record `raw` adds (R180). -/
def launchedBatch (s : State) (node : Nat) (run : Run) (raw : List Byte) : Batch :=
  { number := (batchStarted s run raw).str.clock, seq := run.seq, inst := run.uid, instNo := run.number, node, job := run.job
    clusters := batchClusters (u8At raw 12), cls := run.cls, dom := run.dom, done := run.done, report := wordAt raw 32
    aborted := false, started := 0, endedOk := 0, endedBad := 0, faulted := [], killed := 0, notSpawned := 0, refused := 0
    start := run.time }

/-- The state with that batch added. -/
def batchEntered (s : State) (node : Nat) (run : Run) (raw : List Byte) : State :=
  let o := batchStarted s run raw
  { o with str := { o.str with clock := o.str.clock + 1, batches := o.str.batches ++ [launchedBatch s node run raw] } }

/-- Where the inputs of a batch begin and how many they are: those admitted with PER_INPUT, else none and one (R181). -/
def batchInputs (s : State) (run : Run) (raw : List Byte) : State × Nat × Nat :=
  if u8At raw 13 = 1 then admittedRange s (wordAt raw 24) run.number run.cls else (s, 0, 1)

/-- What the strands of a batch start with (R181). -/
def batchPlan (run : Run) (raw : List Byte) (first : Option Nat) : BatchPlan :=
  { entry := wordAt raw 0, arg := wordAt raw 16, count := u32At raw 8, clusters := batchClusters (u8At raw 12), first
    number := if u64At raw 24 = 0 then 0 else run.number, cls := run.cls }

/-- Spawn `total` strands of a batch over its clusters. -/
def spawnBatch (s : State) (b : Batch) (p : BatchPlan) (total : Nat) : State :=
  checkBatch (spawnAll p b.number total total s 0) b.number

/-- A batch that has passed its checks spawns its strands, or does the work of its node of the service (R181, R233). -/
def runBatch (s : State) (b : Batch) (run : Run) (raw : List Byte) : State :=
  let a := batchInputs s run raw
  match serviceOf s run with
  | some (y, g, arg) => serviceBatch b (serviceTurn a.1 run y g arg) a.2.1 a.2.2 (u32At raw 8)
  | none => spawnBatch a.1 b (batchPlan run raw (if u8At raw 13 = 1 then some a.2.1 else none)) (u32At raw 8 * a.2.2)

section
variable {s v r : State} {q : Fin 16} {node : Nat} {run : Run} {raw : List Byte} {b : Batch}

theorem runBatch_spawns (hservice : serviceOf s run = none) (hper : u8At raw 13 ≠ 1) :
    runBatch s b run raw = spawnBatch s b (batchPlan run raw none) (u32At raw 8) := by
  simp only [runBatch, hservice, batchInputs, hper, if_false, Nat.mul_one]

theorem runBatch_spawnsPerInput (hservice : serviceOf s run = none) (hper : u8At raw 13 = 1) :
    let a := admittedRange s (wordAt raw 24) run.number run.cls
    runBatch s b run raw = spawnBatch a.1 b (batchPlan run raw (some a.2.1)) (u32At raw 8 * a.2.2) := by
  simp only [runBatch, hservice, batchInputs, hper, if_true]

theorem runBatch_serves {y : Inst} {g : Graph} {arg : Word} (hservice : serviceOf s run = some (y, g, arg))
    (hper : u8At raw 13 = 1) :
    let a := admittedRange s (wordAt raw 24) run.number run.cls
    runBatch s b run raw = serviceBatch b (serviceTurn a.1 run y g arg) a.2.1 a.2.2 (u32At raw 8) := by
  simp only [runBatch, hservice, batchInputs, hper, if_true]

/-- A launch whose record is read enters its batch, which is refused, aborted or run. -/
theorem exec_batchLaunch (htake : takeLaunch s q.val node [5] = some (v, run)) (halign : run.job.toNat % 64 = 0)
    (hread : unitRead v run.job 64 run.cls none = (r, stOK, raw)) :
    let x := batchEntered r node run raw
    let b := launchedBatch r node run raw
    let p := pickCode x (batchCauses x raw)
    exec (.batchLaunch q node) s = .next (
      if p.2 ≠ 0 then endBatch (markBadPools p.1 (batchClusters (u8At raw 12))) b 2 p.2
      else if runAborted x run then abortBatch x b
      else runBatch x b run raw) := by
  show execBatchLaunch q node s = _
  simp -zeta only [execBatchLaunch, htake]
  extract_lets k u raw' readOk clusters o report number b str x p per a count plan total
  have hk : k = (r, stOK, raw) := (if_neg (not_not.2 halign)).trans hread
  clear_value k
  subst hk
  change _ = Host.Outcome.next (
    if p.2 ≠ 0 then endBatch (markBadPools p.1 clusters) b 2 p.2
    else if runAborted x run = true then abortBatch x b
    else runBatch x b run raw)
  rw [if_neg (show ¬ (!readOk) = true from Bool.false_ne_true)]
  split_ifs
  · rfl
  · rfl
  · rw [runBatch]
    cases serviceOf x run <;> rfl

/-- Each code of a refused batch is one of 1 to 5 (R182). -/
theorem batchCauses_range {s : State} {c : Nat} (h : c ∈ batchCauses s raw) : 1 ≤ c ∧ c ≤ 5 := by
  have := mem_causes h
  simp only [List.map_cons, List.map_nil, List.mem_cons, List.not_mem_nil, or_false] at this
  omega

/-- Choosing a code changes the free values alone (log 9). -/
theorem pickCode_state (s : State) (codes : List Nat) :
    (pickCode s codes).1 = { s with freeCtr := (pickCode s codes).1.freeCtr } := by
  unfold pickCode
  split <;> rfl

end

/-! ### STRAND_LOAD (R174, R177) -/

/-- A free choice from a list that is not empty is one of its entries (log 7). -/
theorem exists_freeChoice {α : Type} (ctr : Nat) {l : List α} (h : l ≠ []) :
    ∃ a ∈ l, l[Config.freeBelow ctr l.length]? = some a := by
  have hlt := freeBelow_lt ctr (List.length_pos_iff.2 h)
  exact ⟨_, List.getElem_mem hlt, List.getElem?_eq_getElem hlt⟩

/-- The next READY strand of the pool is loaded by a processor that has a context for it, where there is one. -/
theorem exec_strandLoad {s : State} {c : Fin 8} {t : Strand} (hnext : nextPooled s c.val = some t)
    (hroom : ∃ p, p < 16 ∧ hasContext s c.val p t.cls = true) :
    ∃ p, p < 16 ∧ hasContext s c.val p t.cls = true ∧
      exec (.strandLoad c) s = .next (loadAnywhere s.bumpFree c.val t p) := by
  have hps : (List.range 16).filter (fun p => hasContext s c.val p t.cls) ≠ [] := by
    obtain ⟨p, hp, hcontext⟩ := hroom
    exact List.ne_nil_of_mem (List.mem_filter.2 ⟨List.mem_range.2 hp, hcontext⟩)
  obtain ⟨p, hmem, hchoice⟩ := exists_freeChoice s.freeCtr hps
  obtain ⟨hp, hcontext⟩ := List.mem_filter.1 hmem
  refine ⟨p, List.mem_range.1 hp, hcontext, ?_⟩
  show execStrandLoad c s = _
  simp only [execStrandLoad, hnext, hchoice]

/-- Settles O29: a batch by the outcome of its checks, a load by the free choice among the processors. -/
theorem batchesSpawnAndStrandsLoad : Obligations.BatchesSpawnAndStrandsLoad := by
  refine fun s q node c => ⟨fun v run r raw => ?_, fun t hnext hroom => exec_strandLoad hnext hroom⟩
  intro cs o b x plan htake halign hread
  have hexec := exec_batchLaunch htake halign hread
  refine ⟨fun hcauses habort => ?_, fun hcauses => ?_⟩
  · have hrun : exec (.batchLaunch q node) s = .next (runBatch x b run raw) := by
      refine hexec.trans (congrArg _ ?_)
      have hpick : (pickCode x (batchCauses x raw)).2 = 0 := by rw [hcauses]; rfl
      exact (if_neg (not_not.2 hpick)).trans (if_neg (habort ▸ Bool.false_ne_true))
    refine ⟨fun hper hservice => ?_, fun hper => ⟨fun hservice => ?_, fun y g arg hservice => ?_⟩⟩
    · exact hrun.trans (congrArg _ (runBatch_spawns hservice hper))
    · exact hrun.trans (congrArg _ (runBatch_spawnsPerInput hservice hper))
    · exact hrun.trans (congrArg _ (runBatch_serves hservice hper))
  · have hmem := pickCode_mem x hcauses
    have hpos : (pickCode x (batchCauses x raw)).2 ≠ 0 := Nat.ne_zero_of_lt (batchCauses_range hmem).1
    exact ⟨_, hmem, _, pickCode_state x _, hexec.trans (congrArg _ (if_pos hpos))⟩

end Sys2Proof.Machine
end

section
/-! PROOFS. BRAMBLE_ENABLE, and the commands that open, close and destroy an index (R196, R197, R209, R210; log 30). -/

namespace Sys2Proof.Machine

/-! ### BRAMBLE_ENABLE (R197) -/

section
variable {s : State}

/-- The area lies below managed T2 and meets neither a strand pool nor the solver area. -/
@[reducible] def BramClear (s : State) : Prop :=
  (bramSpan s).1 + (bramSpan s).2 ≤ s.fld Reg.tirT2Base 14 0 ∧
    (∀ c, c < 8 → spansMeet (bramSpan s) (poolSpan s c) = false) ∧
    spansMeet (bramSpan s) (s.fld Reg.slvArea 34 20, s.fld Reg.slvArea 14 0) = false

/-- The enable is a write of BRC_CTL with EN set: an area that is not on yet must be clear. -/
theorem exec_brambleEnable (s : State) : exec .brambleEnable s = .next (
    if bramOn s = true ∨ BramClear s then s.setBit Reg.brcCtl 0 true else s.setBit Reg.brcErr 0 true) := by
  have hbit : bitOf (putBits (s.reg Reg.brcCtl) 0 0 1) 0 = true := bitOf_putBits _ 0 true (by decide)
  show execBrambleEnable s = _
  simp only [execBrambleEnable, writeBrcCtl, hbit, Bool.not_true, Bool.or_false, Bool.and_eq_true, decide_eq_true_eq,
    List.all_eq_true, List.mem_range, Bool.not_eq_true', and_assoc]
  by_cases hon : bramOn s = true
  · simp only [hon, true_or, if_true]
  · simp only [hon, Bool.false_eq_true, false_or, if_false]

end

/-! ### What BRC_IDX_STAT shows (R210) -/

section
variable {s t : State} {x y r v : Nat}

/-- A field of the register of another field that is set. -/
theorem fld_setFld_apart (hs : kvWf regReset s.regs = true) {off hi lo hi' lo' w : Nat} (hh : hi' < 64) (hl : lo' ≤ hi')
    (hd : hi < lo' ∨ hi' < lo) : (s.setFld off hi' lo' w).fld off hi lo = s.fld off hi lo :=
  (State.HasFld.setFld_apart hh hl hd ⟨hs, rfl⟩).fld

theorem idxState_of_reg (h : t.reg Reg.brcIdxStat = s.reg Reg.brcIdxStat) (y : Nat) : idxState t y = idxState s y := by
  rw [idxState, State.fld, h]
  rfl

/-- BRC_IDX_STAT with the RESULT and the number of the index of a command. -/
def showResult (s : State) (x r : Nat) : State := (s.setFld Reg.brcIdxStat 39 32 r).setFld Reg.brcIdxStat 43 40 x

theorem idxResult_eq (s : State) (x r : Nat) :
    idxResult s x r = if r = 0 then showResult s x r else (showResult s x r).setBit Reg.brcErr 2 true := rfl

theorem showResult_wf (hs : kvWf regReset s.regs = true) : kvWf regReset (showResult s x r).regs = true :=
  State.setFld_wf (State.setFld_wf hs ..) ..

theorem showResult_reg (hs : kvWf regReset s.regs = true) {o : Nat} (ho : o ≠ Reg.brcIdxStat) :
    (showResult s x r).reg o = s.reg o := by
  rw [showResult, State.reg_setFld_ne (State.setFld_wf hs ..) _ _ _ ho, State.reg_setFld_ne hs _ _ _ ho]

/-- A command's outcome stands in BRC_IDX_STAT, whether or not an error is set beside it. -/
theorem idxResult_stat (hs : kvWf regReset s.regs = true) :
    (idxResult s x r).reg Reg.brcIdxStat = (showResult s x r).reg Reg.brcIdxStat := by
  rw [idxResult_eq]
  split
  · rfl
  · exact State.reg_setBit_ne (showResult_wf hs) _ _ (by decide)

theorem idxResult_result (hs : kvWf regReset s.regs = true) (hr : r < 4) :
    (idxResult s x r).fld Reg.brcIdxStat 39 32 = r := by
  have hfirst : State.HasFld (s.setFld Reg.brcIdxStat 39 32 r) Reg.brcIdxStat 39 32 r :=
    .set hs (by omega) (by decide) (by decide)
  rw [State.fld, idxResult_stat hs]
  exact (hfirst.setFld_apart (by decide) (by decide) (by decide)).fld

theorem idxResult_number (hs : kvWf regReset s.regs = true) (hx : x < 16) :
    (idxResult s x r).fld Reg.brcIdxStat 43 40 = x := by
  rw [State.fld, idxResult_stat hs]
  exact (State.HasFld.set (State.setFld_wf hs ..) (by omega) (by decide) (by decide)).fld

/-- The outcome of a command changes the state of no index. -/
theorem idxState_idxResult (hs : kvWf regReset s.regs = true) (hy : y < 16) :
    idxState (idxResult s x r) y = idxState s y := by
  rw [idxState_of_reg (idxResult_stat hs), idxState, showResult,
    fld_setFld_apart (State.setFld_wf hs ..) (by decide) (by decide) (by omega),
    fld_setFld_apart hs (by decide) (by decide) (by omega)]
  rfl

theorem idxResult_err (hs : kvWf regReset s.regs = true) (hr : r ≠ 0) : (idxResult s x r).bit Reg.brcErr 2 = true := by
  rw [idxResult_eq, if_neg hr]
  exact State.bit_setBit (showResult_wf hs) _ _ _ (by decide)

theorem idxResult_reg (hs : kvWf regReset s.regs = true) {o : Nat} (ho : o ≠ Reg.brcIdxStat)
    (herr : r = 0 ∨ o ≠ Reg.brcErr) : (idxResult s x r).reg o = s.reg o := by
  rw [← showResult_reg (x := x) (r := r) hs ho, idxResult_eq]
  split
  · rfl
  · next hr => exact State.reg_setBit_ne (showResult_wf hs) _ _ (herr.resolve_left hr)

theorem setIdxState_wf (hs : kvWf regReset s.regs = true) : kvWf regReset (setIdxState s x v).regs = true :=
  State.setFld_wf hs ..

theorem idxState_setIdxState (hs : kvWf regReset s.regs = true) (hx : x < 16) (hv : v < 4) :
    idxState (setIdxState s x v) x = v :=
  (State.HasFld.set hs (by rw [show 2 * x + 1 + 1 - 2 * x = 2 by omega]; exact hv) (by omega) (by omega)).fld

theorem idxState_setIdxState_ne (hs : kvWf regReset s.regs = true) (hx : x < 16) (hne : y ≠ x) :
    idxState (setIdxState s x v) y = idxState s y :=
  fld_setFld_apart hs (by omega) (by omega) (by omega)

/-! ### The indexes that stand (R196) -/

theorem idxOf_of_bram (h : t.bram = s.bram) (x : Nat) : idxOf t x = idxOf s x := by
  rw [idxOf, h]
  rfl

theorem idxResult_bram (s : State) (x r : Nat) : (idxResult s x r).bram = s.bram := by
  rw [idxResult_eq]
  split <;> rfl

theorem idxOf_modIdx {i : Index} (f : Index → Index) (h : idxOf s x = some i) : idxOf (s.modIdx x f) x = some (f i) := by
  obtain ⟨e, he, rfl⟩ := Option.map_eq_some_iff.1 h
  have hkey : ((fun e : Nat × Index => e.1 == x) ∘ fun e => if e.1 == x then (e.1, f e.2) else e) = fun e => e.1 == x := by
    funext e
    dsimp only [Function.comp]
    split <;> rfl
  have hx : (e.1 == x) = true := by simpa using List.find?_some he
  simp only [idxOf, State.modIdx, List.find?_map, hkey, he, Option.map_some, hx, if_true]

end

/-! ### Writes into the area where nothing waits (R36, R196) -/

/-- Nothing waits on memory, no media error stands and the register file is canonical. -/
structure State.Calm (s : State) : Prop where
  quiet : s.Quiet
  media : s.tier.media = []
  regs  : kvWf regReset s.regs = true

/-- `t` is calm and has the indexes of `s`. -/
def State.CalmAfter (s t : State) : Prop := t.Calm ∧ t.bram = s.bram

section
variable {s t : State} {x : Nat}

theorem State.CalmAfter.refl (h : s.Calm) : State.CalmAfter s s := ⟨h, rfl⟩

theorem State.CalmAfter.foldl {α : Type} {f : State → α → State} {xs : List α}
    (hf : ∀ t x, State.CalmAfter s t → State.CalmAfter s (f t x)) (h : State.CalmAfter s t) :
    State.CalmAfter s (xs.foldl f t) := by
  induction xs generalizing t with
  | nil => exact h
  | cons x xs ih => exact ih (hf t x h)

theorem State.CalmAfter.countTier (h : State.CalmAfter s t) (i n : Nat) : State.CalmAfter s (countTier t i n) := by
  have hport : Reg.obsTier i < 0x22000 ∨ 0x22300 ≤ Reg.obsTier i := .inr (by simp only [Reg.obsTier]; omega)
  exact ⟨⟨h.1.quiet.setReg hport _, h.1.media, count_wf h.1.regs ..⟩, h.2⟩

theorem State.CalmAfter.store (h : State.CalmAfter s t) (a : Nat) (bs : List Byte) : State.CalmAfter s (t.store a bs) :=
  ⟨⟨⟨h.1.quiet.ops, h.1.quiet.strands, h.1.quiet.sources⟩, h.1.media, h.1.regs⟩, h.2⟩

theorem State.CalmAfter.writeBytes (h : State.CalmAfter s t) (la : Nat) (bs : List Byte) :
    State.CalmAfter s (writeBytes t la bs) := by
  unfold Machine.writeBytes
  extract_lets u
  have hu : State.CalmAfter s u := by
    unfold u
    split
    · split
      · exact h.countTier _ _
      · exact h
    · exact h.countTier _ _
    · split
      · exact h
      · exact h.countTier _ _
  have hstore := hu.store la bs
  rw [mendBlocks_noMedia _ _ hstore.1.media]
  exact hstore

theorem State.CalmAfter.areaWrite (h : State.CalmAfter s t) (la : Nat) (bs : List Byte) :
    State.CalmAfter s (areaWrite t la bs) := by
  have hw := h.writeBytes la bs
  rw [Machine.areaWrite, settle_quiet _ hw.1.quiet]
  exact hw

/-- The structures of a generation are written without a change of the indexes (R223). -/
theorem State.CalmAfter.writeGen (h : State.CalmAfter s t) (g : Gen) (tiles : List Nat) :
    State.CalmAfter s (writeGen t g tiles) :=
  (((State.CalmAfter.foldl (fun _ _ hu => hu.areaWrite _ _) h).areaWrite _ _).areaWrite _ _).areaWrite _ _

/-- OLDEST of an index: the lowest MERGE_POS of its generations (R209). -/
def Index.lowest (i : Index) : Nat := (i.gens.map (·.mpos)).foldl min ((i.gens.head?.map (·.mpos)).getD 0)

/-- An index whose side list has let go of what lies before OLDEST (R214). -/
def Index.trimmed (i : Index) : Index :=
  { i with oldest := i.lowest, side := i.side.filter (fun e => decide (i.lowest ≤ e.pos)) }

theorem syncHdr_calm {i : Index} (h : s.Calm) (hi : idxOf s x = some i) :
    (syncHdr s x).Calm ∧ idxOf (syncHdr s x) x = some i.trimmed := by
  let u := s.modIdx x (fun j => { j with oldest := i.lowest, side := j.side.filter (fun e => decide (i.lowest ≤ e.pos)) })
  have hu : u.Calm := ⟨⟨h.quiet.ops, h.quiet.strands, h.quiet.sources⟩, h.media, h.regs⟩
  have hwrite := (State.CalmAfter.refl hu).areaWrite (hdrAddr u x + 64)
    (wordBytes (u.global ((i.gens.head?.map (·.addr)).getD 0)) ++ leBytes 8 i.head ++ leBytes 8 i.lowest ++ zeroBytes 40)
  have hsync : syncHdr s x = areaWrite u (hdrAddr u x + 64)
      (wordBytes (u.global ((i.gens.head?.map (·.addr)).getD 0)) ++ leBytes 8 i.head ++ leBytes 8 i.lowest ++ zeroBytes 40) := by
    rw [syncHdr, hi]
    rfl
  rw [hsync]
  exact ⟨hwrite.1, (idxOf_of_bram hwrite.2 x).trans (idxOf_modIdx _ hi)⟩

/-! ### OPEN of an absent index (R210; log 30) -/

/-- Looking for places changes the free values alone. -/
theorem placeAll_state (ns : List Nat) (s : State) (used : List (Nat × Nat)) (out : List Nat) :
    (placeAll ns s used out).1 = { s with freeCtr := (placeAll ns s used out).1.freeCtr } := by
  induction ns generalizing s used out with
  | nil => rfl
  | cons n ns ih =>
    unfold placeAll
    extract_lets lo gaps
    split
    · rfl
    · exact (ih ..).trans rfl

/-- The sizes of the structures that a new index has in the area: side list, record, root, tombstone list and tiles. -/
def newSizes (s : State) (x : Nat) : List Nat :=
  [sideCap s x * 128, 64, 8 * tileCount s x, 0] ++ List.replicate (tileCount s x) 4096

/-- Generation 0, with its structures at these places. -/
def firstGen (as : List Nat) : Gen :=
  { num := 0, mpos := 0, addr := as.getD 1 0, root := as.getD 2 0, ctlAt := as.getD 3 0, tiles := as.drop 4, buckets := []
    ctl := [], sweep := 0, holds := 0 }

/-- A new index, with its structures at these places. -/
def firstIndex (s : State) (x : Nat) (as : List Nat) : Index :=
  { head := 0, oldest := 0, side := [], sideAt := as.getD 0 0, space := idxSpace s x, gens := [firstGen as]
    next := (s.word (localOf (uringOf s x) + 0x80000)).toNat, taken := (countsOf s (uringOf s x + 0x80018)).1, merge := none
    blocks := [] }

/-- An index joins those that stand. -/
def State.addIdx (s : State) (x : Nat) (i : Index) : State :=
  { s with bram := { s.bram with indexes := s.bram.indexes ++ [(x, i)] } }

theorem idxOf_addIdx (h : idxOf s x = none) (i : Index) : idxOf (s.addIdx x i) x = some i := by
  have hfind : s.bram.indexes.find? (fun e => e.1 == x) = none := Option.map_eq_none_iff.1 h
  simp only [idxOf, State.addIdx, List.find?_append, hfind, Option.none_or, List.find?_cons, BEq.rfl, Option.map_some]

/-- An index that finds its places is entered OPEN with generation 0 and its header written. -/
theorem createIndex_placed {u : State} {as : List Nat} (h : s.Calm) (hnone : idxOf s x = none)
    (hplace : placeAll (newSizes s x) s (areaSpans s) [] = (u, some as)) :
    ∃ v, createIndex s x = idxResult (setIdxState v x 1) x 0 ∧ kvWf regReset v.regs = true ∧
      idxOf v x = some (firstIndex u x as).trimmed := by
  have hu : u = { s with freeCtr := u.freeCtr } := by
    have := placeAll_state (newSizes s x) s (areaSpans s) []
    rwa [hplace] at this
  let w := u.addIdx x (firstIndex u x as)
  have hw : w.Calm := by
    unfold w
    rw [hu]
    exact ⟨⟨h.quiet.ops, h.quiet.strands, h.quiet.sources⟩, h.media, h.regs⟩
  have hidx : idxOf w x = some (firstIndex u x as) := idxOf_addIdx (by rw [hu]; exact hnone) _
  have hgen := (State.CalmAfter.refl hw).writeGen (firstGen as) (List.range (tileCount s x))
  let g := writeGen w (firstGen as) (List.range (tileCount s x))
  have hdigest := hgen.areaWrite (hdrAddr g x + 16) (leBytes 4 (hdrDigest g x))
  obtain ⟨hcalm, hentered⟩ := syncHdr_calm hdigest.1 ((idxOf_of_bram hdigest.2 x).trans hidx)
  refine ⟨_, ?_, hcalm.regs, hentered⟩
  unfold newSizes at hplace
  simp only [createIndex, hplace]
  rfl

end

/-! ### The commands (R210) -/

section
variable {s : State} {x : Nat}

theorem openCmd_refused (h : bramOn s = false ∨ idxState s x ∉ [0, 2]) : openCmd s x = idxResult s x 1 := by
  unfold openCmd
  by_cases hon : bramOn s = true
  · have hstate := h.resolve_left (by simp [hon])
    simp only [List.mem_cons, List.not_mem_nil, or_false, not_or] at hstate
    simp only [hon, hstate, Bool.not_true, Bool.false_eq_true, if_false]
  · simp only [hon, Bool.not_false, if_true]

theorem openCmd_absent (hon : bramOn s = true) (habsent : idxState s x = 0) : openCmd s x =
    if hdrOk s x = false then idxResult s x 2 else if areaLeft s < idxSpace s x then idxResult s x 3
    else createIndex s x := by
  simp only [openCmd, hon, habsent, Bool.not_true, Bool.false_eq_true, if_false, if_true, Bool.not_eq_true']

theorem openCmd_closed (hon : bramOn s = true) (hclosed : idxState s x = 2) : openCmd s x =
    if hdrDigest s x = u32At (hdrBytes s x 16 4) 0 then idxResult (setIdxState s x 1) x 0 else idxResult s x 2 := by
  simp only [openCmd, hon, hclosed, Bool.not_true, Bool.false_eq_true, if_false, if_true, OfNat.ofNat_ne_zero]

theorem closeCmd_refused (h : bramOn s = false ∨ idxState s x ≠ 1) : closeCmd s x = idxResult s x 1 :=
  if_neg fun hopen => h.elim (fun hoff => by simp [hoff] at hopen) (fun hstate => hstate hopen.2)

theorem destroyCmd_refused (h : bramOn s = false ∨ idxState s x ≠ 2) : destroyCmd s x = idxResult s x 1 :=
  if_neg fun hopen => h.elim (fun hoff => by simp [hoff] at hopen) (fun hstate => hstate hopen.2)

/-- A closing index is CLOSED at once when neither a merge nor a held generation stands, and else stays CLOSING. -/
theorem closeCmd_open {i : Index} (hs : kvWf regReset s.regs = true) (hx : x < 16) (hon : bramOn s = true)
    (hopen : idxState s x = 1) (hi : idxOf s x = some i) : closeCmd s x =
    if i.merge = none ∧ ∀ g ∈ i.gens, g.holds = 0 then idxResult (setIdxState (setIdxState s x 3) x 2) x 0
    else setIdxState s x 3 := by
  have hbusy : idxState (setIdxState s x 3) x = 3 := idxState_setIdxState hs hx (by decide)
  have hidx : idxOf (setIdxState s x 3) x = some i := (idxOf_of_bram rfl x).trans hi
  rw [closeCmd, if_pos ⟨hon, hopen⟩, closeCheck, hidx]
  simp only [hbusy, Option.isNone_iff_eq_none, List.all_eq_true, beq_iff_eq, true_and]

end

/-- Settles O30: each command by the state of its index; what a new index has follows from its writes meeting no wait. -/
theorem brambleIndexCommands : Obligations.BrambleIndexCommands := by
  intro s x hinv ok
  have hs := hinv.canon.regs
  refine ⟨fun h => (exec_brambleEnable s).trans (congrArg _ (if_pos h)), fun hoff hclear => ?_, fun r hr => ?_, fun v hv => ?_,
    fun h => congrArg _ (openCmd_refused h), fun h => congrArg _ (closeCmd_refused h),
    fun h => congrArg _ (destroyCmd_refused h), fun hon habsent => ?_, fun hon hclosed => ?_, fun i hon hopen hi => ?_⟩
  · exact (exec_brambleEnable s).trans (congrArg _ (if_neg (not_or.2 ⟨by simp [hoff], hclear⟩)))
  · exact ⟨idxResult_result hs hr, idxResult_number hs x.isLt, fun y hy => idxState_idxResult hs hy,
      fun h0 => idxResult_reg hs (by decide) (.inl h0), idxResult_err hs,
      fun o ho => by
        simp only [List.mem_cons, List.not_mem_nil, or_false, not_or] at ho
        exact idxResult_reg hs ho.1 (.inr ho.2)⟩
  · exact ⟨idxState_setIdxState hs x.isLt hv, fun y _ hne => idxState_setIdxState_ne hs x.isLt hne,
      fun o ho => State.reg_setFld_ne hs _ _ _ ho⟩
  · have hcmd := openCmd_absent hon habsent
    refine ⟨fun hbad => ?_, fun hgood hfull => ?_, fun hgood hroom => ⟨?_, fun u as hquiet hmedia hnone hplace => ?_⟩⟩
    · exact congrArg _ (hcmd.trans (if_pos hbad))
    · exact congrArg _ (hcmd.trans (by rw [if_neg (by simp [hgood]), if_pos hfull]))
    · exact congrArg _ (hcmd.trans (by rw [if_neg (by simp [hgood]), if_neg (by omega)]))
    · obtain ⟨v, hcreate, hv, hentered⟩ := createIndex_placed ⟨hquiet, hmedia, hs⟩ hnone hplace
      have hwf : kvWf regReset (setIdxState v x.val 1).regs = true := setIdxState_wf hv
      rw [hcreate]
      refine ⟨?_, idxResult_result hwf (by decide), idxResult_number hwf x.isLt, _,
        (idxOf_of_bram (idxResult_bram ..) x.val).trans hentered, rfl, rfl, rfl, rfl, rfl⟩
      rw [idxState_idxResult hwf x.isLt]
      exact idxState_setIdxState hv x.isLt (by decide)
  · have hcmd := openCmd_closed hon hclosed
    exact ⟨fun hsame => congrArg _ (hcmd.trans (if_pos hsame)), fun hdiffer => congrArg _ (hcmd.trans (if_neg hdiffer)),
      congrArg _ (if_pos ⟨hon, hclosed⟩)⟩
  · have hcmd := closeCmd_open hs x.isLt hon hopen hi
    refine ⟨fun hmerge hheld => congrArg _ (hcmd.trans (if_pos ⟨hmerge, hheld⟩)), fun h => ?_⟩
    refine congrArg _ (hcmd.trans (if_neg fun hidle => h.elim (fun hmerge => hmerge hidle.1) fun ⟨g, hg, hheld⟩ => ?_))
    exact hheld (hidle.2 g hg)

end Sys2Proof.Machine
end

section
/-! PROOFS. UPDATE_TAKE where the read of the slot settles a wait: the update is judged as it stood before that read, so what
the read leaves behind need not give its status (R36, R135, R213, R227). -/

namespace Sys2Proof.Machine

/-- Where the update ring of the counterexample stands. -/
def ringAt : Nat := dramBase + 0x10000000

/-- Where its shard table stands. -/
def shardTableAt : Nat := dramBase + 0x20000000

/-- An insert of key 0 in slot 0 of the update ring, with VALID set. -/
def slotEntry : List Byte := zeroBytes 88 ++ leBytes 4 0x2000000 ++ zeroBytes 36

/-- An index without entries, whose side list stands behind the headers. -/
def emptyIndex : Index :=
  { head := 0, oldest := 0, side := [], sideAt := dramBase + 0x1040000, space := 0x910000, gens := [], next := 0, taken := 0
    merge := none, blocks := [] }

/-- A WATCH that the word it waits on satisfies, with its DONE buoy in the shard table's entry of bucket key 0. -/
def satisfiedWatch : PendingOp :=
  { tag := 1, origin := .plain, phase := .watch 0, data := []
    op := { source := .host, cls := 3, code := 5, aop := 0, dst := BitVec.ofNat 64 (dramBase + 0x30000000), src := 0, len := 0
            operand := 0, compare := 0, signal := 0, done := BitVec.ofNat 64 shardTableAt } }

/-- Index 0 is OPEN and its item keys give the buckets (R207); the own node, node 0, owns bucket key 0. The slot's block has an
error that a read corrects, and the WATCH has not been served. -/
def unservedWatch : State :=
  let s := [(Reg.gctlBoot, 7), (Reg.brcCtl, 1), (Reg.brcArea, 0x1000040), (Reg.tirT2Base, 1024), (Reg.brcIdxStat, 1)].foldl
    (fun s e => s.setReg e.1 e.2) State.reset
  let s := [(hdrAddr s 0, 0x10002C), (hdrAddr s 0 + 8, BitVec.ofNat 64 shardTableAt),
    (hdrAddr s 0 + 24, BitVec.ofNat 64 ringAt), (shardTableAt, 0x8000)].foldl (fun s e => s.storeWord e.1 e.2) s
  let s := s.store ringAt slotEntry
  { s with
    ops := [satisfiedWatch], tier := { s.tier with media := [⟨.direct ringAt, .corrected⟩] }
    bram := { s.bram with indexes := [(0, emptyIndex)] } }

/-- The read of the slot. -/
def slotRead : State × Nat × List Byte :=
  unitRead unservedWatch (uringOf unservedWatch 0 + BitVec.ofNat 64 (128 * (emptyIndex.next % 4096))) 128 3 none

/-- HEAD of index 0 after a command. -/
def headAfter : Host.Outcome State Fault Refusal → Option Nat
  | .next t => (idxOf t 0).map (·.head)
  | _ => none

/-- The update stands in a ready slot of an open index. -/
theorem slotEntry_ready : idxOf unservedWatch 0 = some emptyIndex ∧ bramOn unservedWatch = true ∧
    slotRead.2 = (stOK, slotEntry) ∧ entFe slotEntry / 2 ^ 25 % 2 = 1 ∧ entEpoch slotEntry = emptyIndex.next % 2 ^ 24 := by
  decide +kernel

/-- Before the read the own node owns the bucket key; the read serves the WATCH, whose DONE increment makes it node 1. -/
theorem updateFaults_slotRead : updateFaults unservedWatch 0 emptyIndex slotEntry = [] ∧
    updateFaults slotRead.1 0 emptyIndex slotEntry = [3] := by decide +kernel

/-- The update is appended. -/
theorem headAfter_updateTake : headAfter (exec (.updateTake 0) unservedWatch) = some 1 := by decide +kernel

/-- Refutes O31: UPDATE_TAKE judges the entry on the state before the slot is read, the statement on the state after it. A
corrected error in the slot makes the read settle, which serves a WATCH whose word satisfies it already; its DONE increment
gives the bucket to node 1. The statement then has status 3 and nothing appended, where the command appends. -/
theorem not_updatesAndMerges : ¬ Obligations.UpdatesAndMerges := by
  intro ⟨hupdate, _⟩
  obtain ⟨hidx, hon, hread, hvalid, hepoch⟩ := slotEntry_ready
  have hslot : slotRead = (slotRead.1, stOK, slotEntry) := by rw [← hread]
  have hrefused := (hupdate unservedWatch 0 emptyIndex slotRead.1 slotEntry hidx hon hslot hvalid hepoch).2 3
    updateFaults_slotRead.2
  have hhead := congrArg headAfter hrefused
  rw [headAfter_updateTake] at hhead
  revert hhead
  decide +kernel

end Sys2Proof.Machine
end

section
/-! PROOFS. Query batches and their queries: admission, search, the answers of other nodes, and the end (R215 to R220, R228,
R229; log 9, log 34, log 192). -/

namespace Sys2Proof.Machine

/-! ### QUERY_BATCH_LAUNCH (R215, R216, R220) -/

/-- The batch that a launch adds, whose job record is read as `r` says (R220). -/
def launchedQBatch (r : State × Nat × List Byte) (run : Run) : QBatch :=
  { number := r.1.bram.nextBatch, run := run, report := if r.2.1 = stOK then wordAt r.2.2 24 else 0, start := r.1.now,
    queries := [], ok := 0, incomplete := 0, refused := 0, unwritten := 0, aborted := 0 }

/-- The state with that batch added. -/
def qbatchEntered (r : State × Nat × List Byte) (run : Run) : State :=
  { r.1 with bram := { r.1.bram with
    nextBatch := r.1.bram.nextBatch + 1, batches := r.1.bram.batches ++ [launchedQBatch r run] } }

/-- The queries of a batch are read and judged, in their order (R216). -/
def readQueries (s : State) (run : Run) (raw : List Byte) : State × List Query :=
  let a := queryAddrs s run raw
  a.2.foldl (fun (u : State × List Query) a =>
    ((admitQuery u.1 run.cls a).1, u.2 ++ [(admitQuery u.1 run.cls a).2])) (a.1, [])

/-- A query is refused because its descriptor could not be read (log 33). -/
def Query.unread (q : Query) : Bool := q.status == 3 && allZero q.raw && q.reason == 3

/-- The descriptors that queries have on other nodes are asked for (R215; log 34). -/
def askQdescs (s : State) (run : Run) (n : Nat) (qs : List Query) : State :=
  qs.zipIdx.foldl (fun s e => askQdesc s run.cls n e.2 e.1) s

/-- The refused queries of a batch write their headers (R219). -/
def finishRefused (s : State) (n : Nat) (qs : List Query) : State :=
  qs.zipIdx.foldl (fun s e => if e.1.status = 3 && !e.1.unread then finishQuery s n e.2 e.1 else s) s

/-- A batch that none of its queries keeps running ends. -/
def endIfRefused (s : State) (n : Nat) : State :=
  if (qbatchOf s n).any (fun b => b.queries.isEmpty || b.queries.all (fun q => q.status == 3)) then checkQBatch s n else s

/-- A batch that passes its checks admits its queries (R216). -/
def admitBatch (s : State) (b : QBatch) (run : Run) (raw : List Byte) : State :=
  let u := readQueries s run raw
  let t := u.1.setQBatch { b with
    queries := u.2.map (fun q => if q.status == 3 && !q.unread then { q with status := 0 } else q)
    refused := (u.2.filter Query.unread).length }
  endIfRefused (askQdescs (finishRefused t b.number u.2) run b.number u.2) b.number

section
variable {s v : State} {q : Fin 16} {node : Nat} {run : Run}

/-- A launch that is taken reads its job record and is refused or admitted by its checks. -/
theorem exec_queryBatchLaunch (htake : takeLaunch s q.val node [6] = some (v, run)) :
    let r := unitRead (obsStart v 188 run) run.job 64 run.cls none
    let p := pickCode (qbatchEntered r run) (qbatchCauses (qbatchEntered r run) run.job (r.2.1 == stOK) r.2.2)
    exec (.queryBatchLaunch q node) s = .next (
      if p.2 = 0 then admitBatch p.1 (launchedQBatch r run) run r.2.2 else endQBatch p.1 (launchedQBatch r run) 2 p.2) := by
  intro r p
  show execQueryBatchLaunch q node s = _
  simp -zeta only [execQueryBatchLaunch, htake]
  extract_lets
  split
  · next hpick => exact congrArg _ (if_pos hpick).symm
  · next hpick => exact congrArg _ (if_neg hpick).symm

/-- Each code of a refused batch is one of 1 to 3 (R220). -/
theorem qbatchCauses_pos {job : Word} {readOk : Bool} {raw : List Byte} {c : Nat} (h : c ∈ qbatchCauses s job readOk raw) :
    0 < c := by
  unfold qbatchCauses at h
  extract_lets qs at h
  split at h
  · simp only [List.mem_singleton] at h
    omega
  · have := mem_causes h
    simp only [List.map_cons, List.map_nil, List.mem_cons, List.not_mem_nil, or_false] at this
    omega

end

section
variable {s : State} {run : Run} {qs : List Query}

theorem Query.unread_of_admitted {q : Query} (h : q.status = 0) : q.unread = false := by
  simp [Query.unread, h]

/-- No query writes its header when none is refused. -/
theorem finishRefused_admitted (n : Nat) (h : ∀ q ∈ qs, q.status = 0) : finishRefused s n qs = s := by
  refine List.foldlRecOn qs.zipIdx _ (motive := (· = s)) rfl (fun t ht e he => ?_)
  have hstatus : e.1.status = 0 := h _ (List.fst_mem_of_mem_zipIdx he)
  simpa [hstatus] using ht

/-- A batch with a query that is not refused goes on. -/
theorem endIfRefused_of_query {n : Nat} {d : QBatch} (hd : qbatchOf s n = some d) (hne : d.queries ≠ [])
    (hrun : ∃ q ∈ d.queries, q.status ≠ 3) : endIfRefused s n = s := by
  refine if_neg ?_
  simpa [hd, hne] using hrun

/-- A batch none of whose queries is refused keeps them as they are judged, and asks for their descriptors. -/
theorem admitBatch_admitted {b : QBatch} {raw : List Byte} (h : ∀ q ∈ (readQueries s run raw).2, q.status = 0) :
    let u := readQueries s run raw
    admitBatch s b run raw = endIfRefused (askQdescs (u.1.setQBatch { b with queries := u.2, refused := 0 }) run b.number u.2)
      b.number := by
  intro u
  have hmap : u.2.map (fun q => if q.status == 3 && !q.unread then { q with status := 0 } else q) = u.2 :=
    (List.map_congr_left fun q hq => by simp [h q hq]).trans (List.map_id u.2)
  have hfilter : u.2.filter Query.unread = [] :=
    List.filter_eq_nil_iff.2 fun q hq => by simp [Query.unread_of_admitted (h q hq)]
  simp -zeta only [admitBatch]
  extract_lets t
  have ht : t = u.1.setQBatch { b with queries := u.2, refused := 0 } := by
    unfold t
    rw [hmap, hfilter]
    rfl
  rw [finishRefused_admitted _ h, ht]

end

/-! ### SEARCH, FETCH, and what ends a query (R217 to R219, R228, R229) -/

theorem Query.whole_iff (q : Query) :
    q.whole = true ↔ q.chanFail = 0 ∧ q.probeFail = [] ∧ q.nodeFail = [] ∧ q.sideFail = false := by
  simp [Query.whole, and_assoc]

section
variable {s : State} {n j : Nat} {b : QBatch} {q : Query} (hb : qbatchOf s n = some b) (hq : b.queries[j]? = some q)
include hb hq

/-- The command of its own kind runs a query whose descriptor has been read, or refuses one whose descriptor cannot be. -/
theorem exec_search_or_fetch {st : Nat} {d : List Byte} (hstatus : q.status = 0) (hrun : runAborted s b.run = false)
    (hfirst : q.searched = false) (hdesc : q.desc = some (st, d)) :
    exec (if q.fetch then .fetch n j else .search n j) s = .next (
      if st ≠ stOK then finishQuery s n j { q with status := 3, reason := 3 }
      else chargeDomain s b.run.dom ((runQuery s b q d).1.setQuery b j (runQuery s b q d).2)) := by
  have hcmd : exec (if q.fetch then .fetch n j else .search n j) s = .next (searchCmd s n j q.fetch) := by
    cases q.fetch <;> rfl
  simp [hcmd, searchCmd, hb, hq, hstatus, hrun, hfirst, hdesc]

/-- A query all of whose parts have ended completes, COMPLETE or INCOMPLETE. -/
theorem exec_queryComplete (hstatus : q.status = 0) (hdone : q.searched = true) (hparts : q.parts = []) :
    exec (.queryComplete n j) s = .next (finishQuery s n j { q with status :=
      if q.chanFail = 0 ∧ q.probeFail = [] ∧ q.nodeFail = [] ∧ q.sideFail = false then 1 else 2 }) := by
  show execQueryComplete n j s = _
  simp [execQueryComplete, hb, hq, hstatus, hdone, hparts, Query.whole_iff]

theorem exec_queryAbort (hstatus : q.status = 0) (habort : runAborted s b.run = true) :
    exec (.queryAbort n j) s = .next (finishQuery s n j { q with
      status := 4, cands := [], parts := [], found := 0, passed := 0, pages := 0, chanFail := 0, nodeFail := []
      probeFail := [], sideFail := false }) := by
  show execQueryAbort n j s = _
  simp [execQueryAbort, hb, hq, hstatus, habort]

/-- The answer of a node that has a part of a query ends the part. -/
theorem exec_shardReply {p : Part} {node : BitVec 10} (hstatus : q.status = 0)
    (hpart : q.parts.find? (fun p => p.node == node.toNat) = some p) (st : Byte) (failed : List Nat)
    (pages passed found : Nat) (items : List ShardItem) :
    exec (.shardReply n j node st failed pages passed found items) s =
      .next (s.setQuery b j (partEnd q p st.toNat failed pages passed found items)) := by
  show execShardReply n j node st failed pages passed found items s = _
  simp only [execShardReply, hb, hq, hpart, hstatus, if_true]

end

/-- Another node's part of an open index of the same digest is searched on the current generation, and answered. -/
theorem exec_shardPart {s : State} {req : ShardRequest} {i : Index} {g : Gen} (hi : idxOf s req.index.toNat = some i)
    (hg : i.gens.head? = some g) (hon : bramOn s = true) (hopen : idxState s req.index.toNat = 1)
    (hdigest : u32At (hdrBytes s req.index.toNat 16 4) 0 = req.digest.toNat) :
    let r := searchLocal s req.index.toNat req.cls.toNat g i.head
      ⟨req.mode, req.sketch, req.desc, req.thresh, req.maxdist, req.kmask, req.kmatch⟩
      (req.probes.zipIdx.map (fun e => (e.2, e.1)))
    exec (.shardPart req) s = .next { r.1 with bram := { r.1.bram with answers :=
      (if r.2.sideBad then ⟨req.node.toNat, req.tag.toNat, stUNCORRECTABLE, [], 0, 0, 0, []⟩
        else ⟨req.node.toNat, req.tag.toNat, stOK, r.2.failed, r.2.pages, r.2.passed, r.2.found,
          (r.2.cands.take req.count).map (fun c => ⟨c.dist, c.sdist, c.side, c.entry⟩)⟩) :: r.1.bram.answers } } := by
  intro r
  show execShardPart req s = _
  simp only [execShardPart, hi, hg]
  exact if_pos ⟨hon, hopen, hdigest⟩

/-- Settles O32: a batch by the outcome of its checks, a query by what has become of its parts. -/
theorem queriesAreAdmittedRunAndEnd : Obligations.QueriesAreAdmittedRunAndEnd := by
  refine ⟨fun s v q node run htake => ?_, fun s n j b q hb hq hstatus => ?_⟩
  · intro r raw b x codes
    have hexec := exec_queryBatchLaunch htake
    refine ⟨fun hcodes => ?_, fun hcodes => ?_⟩
    · have hmem := pickCode_mem x hcodes
      have hpos : (pickCode x codes).2 ≠ 0 := Nat.ne_zero_of_lt (qbatchCauses_pos hmem)
      exact ⟨_, hmem, _, pickCode_state x _, hexec.trans (congrArg _ (if_neg hpos))⟩
    · intro a u hne hall w hrun
      obtain ⟨d, hd, hqueries, hgoes⟩ := hrun
      have hpick : pickCode x codes = (x, 0) := by
        rw [hcodes]
        rfl
      have hadmit : exec (.queryBatchLaunch q node) s = .next (admitBatch (pickCode x codes).1 b run raw) :=
        hexec.trans (congrArg _ (if_pos (congrArg Prod.snd hpick)))
      rw [hadmit, hpick, admitBatch_admitted hall]
      exact congrArg _ (endIfRefused_of_query hd hqueries hgoes)
  · refine ⟨fun hrun hfirst st d hdesc => ?_, exec_queryComplete hb hq hstatus, exec_queryAbort hb hq hstatus,
      fun p node st failed pages passed found items hpart => ?_, fun req i g hi hg hon hopen hdigest => ?_⟩
    · have hexec := exec_search_or_fetch hb hq hstatus hrun hfirst hdesc
      exact ⟨fun hok => hexec.trans (congrArg _ (if_neg (not_not.2 hok))), fun hbad => hexec.trans (congrArg _ (if_pos hbad))⟩
    · have hexec := exec_shardReply hb hq hstatus hpart st failed pages passed found items
      refine ⟨fun h0 => ?_, fun h0 => ?_⟩
      · subst h0
        exact hexec
      · have hfail : st.toNat ≠ 0 := fun h => h0 (BitVec.eq_of_toNat_eq h)
        exact hexec.trans (by rw [partEnd, if_pos hfail])
    · have hexec := exec_shardPart hi hg hon hopen hdigest
      refine ⟨fun hgood => ⟨_, hexec, ?_⟩, fun hbad => hexec.trans ?_⟩
      · simp only [hgood, Bool.false_eq_true, if_false, true_and]
      · rw [if_pos hbad]

end Sys2Proof.Machine
end

section
/-! PROOFS. Runs that enter the queues of the vision engines, the fusion engine and the solver, and standing slots (R256, R257,
R291, R305, R335, R336; log 177). -/

namespace Sys2Proof.Machine

/-! ### Launches from a node (R13, R257) -/

section
variable {s u : State} {q : Fin 16} {g : Graph} {n : NodeDesc} {run : Run}

/-- A launch that a unit takes stands at a node of a graph. -/
theorem peekLaunch_of_takeLaunch {q i : Nat} {kinds : List Nat} (h : takeLaunch s q i kinds = some (u, run)) :
    ∃ g n, peekLaunch s q i kinds = some (g, n) := by
  unfold takeLaunch at h
  split at h
  · cases h
  · exact ⟨_, _, ‹_›⟩

variable {node : BitVec 8}

/-- A vision run joins the queue of the engines that its record names, where the queue has room. -/
theorem exec_visionLaunch_node {v : State} {block : Bool} {enter : State → Run → QRun}
    (hpeek : peekLaunch s q.val node.toNat [2] = some (g, n)) (henter : visEnter s n.job g.cls = (v, block, enter))
    (hroom : (visQueue v block).length < 64) (htake : takeLaunch v q.val node.toNat [2] = some (u, run)) :
    exec (.visionLaunch (.node q node)) s =
      .next (u.setVisQueue block (insertBy qBefore (enter u run) (visQueue u block))) := by
  show execVisionLaunch (.node q node) s = _
  simp only [execVisionLaunch, hpeek, henter, if_neg (Nat.not_le.2 hroom), htake]

/-- A fusion job joins the queue where it has room. -/
theorem exec_fusionLaunch {i : Nat} (hroom : s.fus.queue.length < 64) (htake : takeLaunch s q.val i [3] = some (u, run)) :
    exec (.fusionLaunch q i) s = .next { u with fus := { u.fus with
      queue := insertBy qBefore (enterRun u run 0 0 0 []) u.fus.queue } } := by
  obtain ⟨g, n, hpeek⟩ := peekLaunch_of_takeLaunch htake
  show execFusionLaunch q i s = _
  simp only [execFusionLaunch, hpeek, if_neg (Nat.not_le.2 hroom), htake]

/-- A solver run joins the queue where it has room. -/
theorem exec_solverLaunch_node (hroom : s.slv.queue.length < 64) (htake : takeLaunch s q.val node.toNat [4] = some (u, run)) :
    exec (.solverLaunch (.node q node)) s = .next ((slvEnter u run).1.queueSlv (slvEnter u run).2) := by
  obtain ⟨g, n, hpeek⟩ := peekLaunch_of_takeLaunch htake
  show execSolverLaunch (.node q node) s = _
  simp only [execSolverLaunch, hpeek, decide_eq_false (Nat.not_le.2 hroom), Bool.false_eq_true, if_false, htake]

/-- A full fusion queue stalls a node that has not reported it. -/
theorem exec_fusionLaunch_full {i : Nat} (hpeek : peekLaunch s q.val i [3] = some (g, n)) (hfull : 64 ≤ s.fus.queue.length)
    (hseen : n.full = false) : exec (.fusionLaunch q i) s = .next (reportFull s q.val g.gid i) := by
  show execFusionLaunch q i s = _
  simp only [execFusionLaunch, hpeek, if_pos hfull, hseen, Bool.false_eq_true, if_false]

/-- A full solver queue stalls a node that has not reported it. -/
theorem exec_solverLaunch_full (hpeek : peekLaunch s q.val node.toNat [4] = some (g, n)) (hfull : 64 ≤ s.slv.queue.length)
    (hseen : n.full = false) : exec (.solverLaunch (.node q node)) s = .next (reportFull s q.val g.gid node.toNat) := by
  show execSolverLaunch (.node q node) s = _
  simp only [execSolverLaunch, hpeek, decide_eq_true hfull, if_true, hseen, Bool.false_eq_true, if_false]

end

/-! ### Launches from a slot (R256, R335) -/

section
variable {s : State} {i : BitVec 4} {k : Slot}

/-- A vision slot's launch joins the queue that its record names, where the queue has room, and the slot counts it as taken. -/
theorem exec_visionLaunch_slot {v : State} {block : Bool} {enter : State → Run → QRun}
    (hk : s.vis.slots.getD i.toNat ⟨0, false, 0⟩ = k) (hahead : slotAhead s (visSlot i.toNat) k = true)
    (henter : visEnter s (slotRun s (visSlot i.toNat) i.toNat k).job (slotRun s (visSlot i.toNat) i.toNat k).cls =
      (v, block, enter)) (hroom : (visQueue v block).length < 64) :
    let u := { v with vis := { v.vis with slots := v.vis.slots.set i.toNat k.take } }
    exec (.visionLaunch (.slot i)) s = .next (u.setVisQueue block
      (insertBy qBefore (enter u (slotRun s (visSlot i.toNat) i.toNat k)) (visQueue u block))) := by
  intro u
  show execVisionLaunch (.slot i) s = _
  simp only [execVisionLaunch, hk, hahead, Bool.not_true, Bool.false_eq_true, if_false, henter,
    if_neg (Nat.not_le.2 hroom)]
  rfl

/-- A solver slot's launch joins the queue where it has room, and the slot counts it as taken. -/
theorem exec_solverLaunch_slot (hi : i.toNat < 8) (hk : s.slv.slots.getD i.toNat ⟨0, false, 0⟩ = k)
    (hahead : slotAhead s (slvSlot i.toNat) k = true) (hroom : s.slv.queue.length < 64) :
    let u := { s with slv := { s.slv with slots := s.slv.slots.set i.toNat k.take } }
    let t := slvEnter u (slotRun u (slvSlot i.toNat) i.toNat k)
    exec (.solverLaunch (.slot i)) s = .next (t.1.queueSlv t.2) := by
  intro u t
  have hgo : ¬ (8 ≤ i.toNat ∨ (!slotAhead s (slvSlot i.toNat) k) = true) := by simp [hahead, hi]
  show execSolverLaunch (.slot i) s = _
  simp only [execSolverLaunch, hk, if_neg hgo, decide_eq_false (Nat.not_le.2 hroom), Bool.false_eq_true, if_false]
  rfl

end

/-! ### EN of a slot (R291) -/

section
variable {s : State} {r : SlotRegs} {v : Word}

/-- A write of EN as 1 to a slot that is off takes the fields and the baseline. -/
theorem writeSlotJob_rises (hoff : s.bit r.job 0 = false) (hv : bitOf v 0 = true) : writeSlotJob s r v =
    (s.setReg r.job (v &&& ~~~0x78), some ⟨slotCount (s.setReg r.job (v &&& ~~~0x78)) r, false, 0⟩) := by
  simp only [writeSlotJob, hoff, hv, Bool.false_eq_true, if_false, Bool.not_false, Bool.and_self, if_true]

/-- A write of EN as 0 to a slot that is on clears EN alone. -/
theorem writeSlotJob_falls (hon : s.bit r.job 0 = true) (hv : bitOf v 0 = false) :
    writeSlotJob s r v = (s.setBit r.job 0 false, none) := by
  simp only [writeSlotJob, hon, hv, if_true, Bool.and_false, Bool.false_eq_true, if_false]

theorem bitOf_setEn (w : Word) : bitOf (w ||| 1) 0 = true := by simp [bitOf]

theorem bitOf_clearEn (w : Word) : bitOf (w &&& ~~~1) 0 = false := by simp [bitOf]

theorem exec_slotDisable {slot : SlotRef} (hon : s.bit (slotJobReg slot) 0 = true) :
    exec (.slotDisable slot) s = .next (s.setBit (slotJobReg slot) 0 false) := by
  refine congrArg Host.Outcome.next ?_
  cases slot with
  | vis n => simp only [writeSlot, writeVisSlot, writeSlotJob_falls (r := visSlot n.val) hon (bitOf_clearEn _)]; rfl
  | slv n => simp only [writeSlot, writeSlvSlot, writeSlotJob_falls (r := slvSlot n.val) hon (bitOf_clearEn _)]; rfl

theorem exec_slotEnable_vis {n : Fin 16} (hoff : s.bit (Reg.visSlotJob n.val) 0 = false) :
    let u := s.setReg (Reg.visSlotJob n.val) ((s.reg (Reg.visSlotJob n.val) ||| 1) &&& ~~~0x78)
    exec (.slotEnable (.vis n)) s =
      .next { u with vis := { u.vis with slots := u.vis.slots.set n.val ⟨slotCount u (visSlot n.val), false, 0⟩ } } := by
  refine congrArg Host.Outcome.next ?_
  simp only [writeSlot, slotJobReg, writeVisSlot, writeSlotJob_rises (r := visSlot n.val) hoff (bitOf_setEn _)]
  rfl

theorem exec_slotEnable_slv {n : Fin 8} (hoff : s.bit (Reg.slvSlotJob n.val) 0 = false) :
    let u := s.setReg (Reg.slvSlotJob n.val) ((s.reg (Reg.slvSlotJob n.val) ||| 1) &&& ~~~0x78)
    exec (.slotEnable (.slv n)) s =
      .next { u with slv := { u.slv with slots := u.slv.slots.set n.val ⟨slotCount u (slvSlot n.val), false, 0⟩ } } := by
  refine congrArg Host.Outcome.next ?_
  simp only [writeSlot, slotJobReg, writeSlvSlot, writeSlotJob_rises (r := slvSlot n.val) hoff (bitOf_setEn _)]
  rfl

end

/-- Settles O36: a launch by where it comes from and the room in its queue, a slot by what its EN is. -/
theorem runsAndSlotsEnter : Obligations.RunsAndSlotsEnter := by
  refine ⟨fun s q node g n => ⟨fun u run => ?_, fun u run => exec_fusionLaunch, fun u run => exec_solverLaunch_node, ?_,
    fun i hahead => exec_visionLaunch_slot rfl hahead rfl, fun i hi hahead => exec_solverLaunch_slot hi rfl hahead⟩,
    fun s slot => ⟨exec_slotDisable, fun hoff => ?_⟩⟩
  · intro t hpeek hroom htake
    exact exec_visionLaunch_node hpeek rfl hroom htake
  · exact ⟨exec_fusionLaunch_full, exec_solverLaunch_full⟩
  · cases slot with
    | vis n => exact exec_slotEnable_vis hoff
    | slv n => exact exec_slotEnable_slv hoff

end Sys2Proof.Machine
end

section
/-! PROOFS. The runs that the vision engines, the fusion engine and the solver units take (R257, R266, R305, R308, R336, R337,
R340; log 9, log 39). -/

namespace Sys2Proof.Machine

/-! ### VISION_RUN_TAKE (R257, R266) -/

section
variable {s : State} {r : QRun}

/-- An idle unfenced engine takes the run that its queue's order gives. -/
theorem exec_visionRunTake {e : Fin 8} {rest : List QRun} (hidle : (visEngine s e.val).run = none)
    (hsusp : (visEngine s e.val).susp = []) (hfence : unitFenced s (136 + e.val) = false)
    (hpick : pickRun (QRun.eligible s (136 + e.val)) (visQueue s (decide (4 ≤ e.val))) = some (r, rest)) :
    exec (.visionRunTake e) s = .next (takeVis (s.setVisQueue (decide (4 ≤ e.val)) rest) e.val r) := by
  show execVisionRunTake e s = _
  simp only [execVisionRunTake, hidle, Option.isSome_none, Bool.false_eq_true, if_false, nextVis, hfence,
    choose_take _ _ _ _ _ hidle hsusp hpick]

/-- The job of a run whose record was read at its take. -/
def UJob.fresh (r : QRun) (taken start : Nat) (raw : List Byte) (old : Snap) : UJob :=
  { q := r, taken := taken, raws := [raw], index := 0, start := start, slices := 0, ok := true, target := none, old := old }

/-- A vision record that has been read is started where no check applies, and ends as refused with the code picked otherwise. -/
def startVis (d : State) (e : Nat) (j : UJob) (codes : List Nat) : State :=
  let k := pickCode d codes
  if k.2 ≠ 0 then endVis k.1 e j 2 0 k.2 .none else k.1.modVis e (fun x => { x with run := some j })

/-- A record that is read, does not wait and names no pair table is decided by its checks. -/
theorem takeVis_read {e : Nat} {u : State} {d : State × Nat × List Byte} (hu : obsStart s (136 + e) r.run = u)
    (halign : r.run.job.toNat % 128 = 0) (haddr : addrOk u r.run.job 128 = true)
    (hd : unitRead u r.run.job 128 r.run.cls none = d) (hread : d.2.1 = stOK) (hlive : runAborted d.1 r.run = false)
    (hgo : r.waits d.1 = .go) (htable : visType d.2.2 ≠ 1 ∨ u8At d.2.2 57 = 0) :
    takeVis s e r = startVis d.1 e (.fresh r u.now u.now d.2.2 d.1.snap)
      (visCauses d.1 (decide (4 ≤ e)) r.run.job d.2.2) := by
  have hplaced : (r.run.job.toNat % 128 == 0 && addrOk u r.run.job 128) = true := by simp [halign, haddr]
  have hnone (c : Prop) : ¬ (c ∧ visType d.2.2 = 1 ∧ u8At d.2.2 57 ≠ 0) :=
    fun ⟨_, hdetect, hpairs⟩ => htable.elim (· hdetect) hpairs
  have hclean : (if pairsBad [] = true then [5] else []) = ([] : List Nat) := rfl
  simp only [takeVis, hu, hplaced, if_true, hd, hlive, Bool.not_true, Bool.false_eq_true, if_false, hread, hgo, hnone,
    hclean, List.append_nil, ne_eq, not_true_eq_false]
  rfl

theorem startVis_accepted (d : State) (e : Nat) (j : UJob) :
    startVis d e j [] = d.modVis e (fun x => { x with run := some j }) := rfl

/-- Each code of a refused vision record is one of 1 to 6 (R266). -/
theorem visCauses_pos {block : Bool} {job : Word} {raw : List Byte} {c : Nat} (h : c ∈ visCauses s block job raw) : 0 < c := by
  have := mem_causes h
  simp only [List.map_cons, List.map_nil, List.mem_cons, List.not_mem_nil, or_false] at this
  omega

/-- A refused record reports one of the codes that apply; choosing it changes the free values alone (log 9). -/
theorem startVis_refused {d : State} {codes : List Nat} (e : Nat) (j : UJob) (hne : codes ≠ [])
    (hpos : ∀ c ∈ codes, 0 < c) : ∃ reason ∈ codes, ∃ v, v = { d with freeCtr := v.freeCtr } ∧
      startVis d e j codes = endVis v e j 2 0 reason .none :=
  have hmem := pickCode_mem d hne
  ⟨_, hmem, _, pickCode_state d codes, if_pos (hpos _ hmem).ne'⟩

end

/-! ### FUSION_TAKE (R305, R308) -/

section
variable {s : State} {r : QRun}

theorem exec_fusionTake {rest : List QRun} (hidle : s.fus.eng.run = none) (hsusp : s.fus.eng.susp = [])
    (hfence : unitFenced s 146 = false) (hqueue : s.fus.queue = r :: rest) :
    exec .fusionTake s = .next (takeFus { s with fus := { s.fus with queue := rest } } r) := by
  have hpick : pickRun (fun _ => true) s.fus.queue = some (r, rest) := by rw [hqueue]; rfl
  show execFusionTake s = _
  simp only [execFusionTake, hidle, Option.isSome_none, Bool.false_eq_true, if_false, nextFus, hfence,
    choose_take _ _ _ _ _ hidle hsusp hpick]

/-- A fusion job whose records stand keeps them and its target instant. -/
theorem takeFus_read {u v : State} {d : State × Nat × List Byte} {k : FusIn} {t : Target}
    (hu : obsStart s 146 r.run = u) (haddr : fusAddr u r.run.job 128 = true)
    (hd : unitRead u r.run.job 128 r.run.cls none = d) (hread : d.2.1 = stOK) (hlive : runAborted d.1 r.run = false)
    (hfus : readFus d.1 r.run.cls d.2.2 = (v, .ok k)) (htarget : fusTarget v k = some t) :
    takeFus s r = v.modFus (fun e => { e with
      run := some { UJob.fresh r d.1.now d.1.now [] d.1.snap with raws := k.pack, target := some t } }) := by
  simp only [takeFus, hu, haddr, if_true, hd, hlive, Bool.not_true, Bool.false_eq_true, if_false, hread, hfus, htarget,
    ne_eq, not_true_eq_false]
  rfl

end

/-! ### SOLVER_RUN_TAKE (R336, R337, R340) -/

section
variable {s : State} {r : QRun}

theorem exec_solverRunTake {u : Fin 2} {rest : List QRun} (hidle : (slvUnit s u.val).run = none)
    (hsusp : (slvUnit s u.val).susp = []) (hfence : unitFenced s (144 + u.val) = false)
    (hpick : pickRun (fun r => r.eligible s (144 + u.val) && !r.sids.any (heldSids (slvUnit s (1 - u.val))).contains)
      s.slv.queue = some (r, rest)) :
    exec (.solverRunTake u) s = .next (takeSlv { s with slv := { s.slv with queue := rest } } u.val r) := by
  show execSolverRunTake u s = _
  simp only [execSolverRunTake, hidle, Option.isSome_none, Bool.false_eq_true, if_false, nextSlv, hfence,
    choose_take _ _ _ _ _ hidle hsusp hpick]

/-- The first record of a chain begins where no check applies. -/
theorem beginRecords_first {u k last taken start : Nat} {raw : List Byte} {old : Snap} (hon : slvOn s = true)
    (hcauses : slvCauses s true raw = []) :
    beginRecords u (k + 1) last s (.fresh r taken start raw old) =
      s.modSlv u (fun e => { e with run := some (.fresh r taken s.now raw old) }) := by
  have hrefusal : slvRefusal s r.run.cls true raw = (s, 0) := by
    simp only [slvRefusal, hcauses, List.isEmpty_nil, if_true]
  have hchain (j : UJob) : ¬ j.chain ≤ 0 := by rw [UJob.chain]; omega
  simp only [beginRecords, hchain, UJob.fresh, List.length_singleton, Nat.zero_lt_one, if_true, if_false, hon, Bool.not_true,
    Bool.false_eq_true, ne_eq, not_true_eq_false, decide_true, UJob.current, List.getD_cons_zero, hrefusal]

/-- A unit takes a run whose first record passes its checks. -/
theorem takeSlv_read {u : Nat} {v : State} {d : State × Nat × List Byte} (hv : obsStart s (144 + u) r.run = v)
    (halign : r.run.job.toNat % 128 = 0) (haddr : addrOk v r.run.job 128 = true)
    (hd : unitRead v r.run.job 128 r.run.cls none = d) (hread : d.2.1 = stOK) (hlive : runAborted d.1 r.run = false)
    (hgo : r.waits d.1 = .go) (hon : slvOn d.1 = true) (hcauses : slvCauses d.1 true d.2.2 = []) :
    takeSlv s u r = d.1.modSlv u (fun e => { e with run := some (.fresh r v.now d.1.now d.2.2 v.snap) }) := by
  have hplaced : (r.run.job.toNat % 128 == 0 && addrOk v r.run.job 128) = true := by simp [halign, haddr]
  simp only [takeSlv, hv, hplaced, if_true, hd, hlive, hon, Bool.not_true, Bool.false_eq_true, if_false, hread, hgo,
    ne_eq, not_true_eq_false]
  exact beginRecords_first hon hcauses

end

/-- Settles O37: each unit by its take and what it reads there. -/
theorem unitsTakeTheirRuns : Obligations.UnitsTakeTheirRuns := by
  intro s r rest
  refine ⟨fun e => ?_, ?_, fun u => ?_⟩
  · intro block u d codes j hidle hsusp hfence hpick halign haddr hread hlive hgo htable
    have hexec := (exec_visionRunTake hidle hsusp hfence hpick).trans
      (congrArg _ (takeVis_read rfl halign haddr rfl hread hlive hgo htable))
    refine ⟨fun hnone => ?_, fun hsome => ?_⟩
    · exact hexec.trans (congrArg _ ((congrArg (startVis d.1 e.val j) hnone).trans (startVis_accepted ..)))
    · obtain ⟨reason, hmem, v, hv, hend⟩ := startVis_refused e.val j hsome fun c => visCauses_pos
      exact ⟨reason, hmem, v, hv, hexec.trans (congrArg _ hend)⟩
  · intro u d v k t hidle hsusp hfence hqueue haddr hread hlive hfus htarget
    exact (exec_fusionTake hidle hsusp hfence hqueue).trans
      (congrArg _ (takeFus_read rfl haddr rfl hread hlive hfus htarget))
  · intro v d held hidle hsusp hfence hpick halign haddr hread hlive hgo hon hcauses
    exact (exec_solverRunTake hidle hsusp hfence hpick).trans
      (congrArg _ (takeSlv_read rfl halign haddr rfl hread hlive hgo hon hcauses))

end Sys2Proof.Machine
end

section
/-! PROOFS. How vision runs and fusion jobs do their work and end (R262, R267, R311, R435, R437; log 101). -/

namespace Sys2Proof.Machine

section
variable {s : State} {j : UJob}

/-- An engine does the work of its record and ends the run; a result of status OK is sampled. -/
theorem workVis_works {e ty : Nat} {work : State → Snap → Nat → List Byte → State × VisEnd}
    (hrun : (visEngine s e).run = some j) (hlive : runAborted s j.q.run = false) (htype : visType j.raw = ty) :
    let r := work s j.old j.q.run.cls j.raw
    let k := { j with slices := j.slices + 1 }
    let t := endVis ((chargeDomain s j.q.run.dom r.1).clearVis e) e k r.2.status r.2.mst 0 r.2.out
    let x := sampleResult t (136 + e) 1 ty (visFirst j.raw) (crc32 r.2.out.bytes).toNat j.start 0 0 []
      (some { k with old := ⟨[], []⟩ }) none
    workVis s e ty work = if r.2.status = 1 then postChecks x.1 x.2.toList else t := by
  intro r k t x
  simp only [workVis, hrun, if_neg (not_not.2 htype), hlive, Bool.false_eq_true, if_false]
  rfl

theorem exec_fusionEnd_aborted (hrun : s.fus.eng.run = some j) (habort : runAborted s j.q.run = true) :
    exec .fusionEnd s = .next (endFus (s.modFus (fun e => { e with run := none })) j 5 0 []) := by
  have hsame : runAborted (s.modFus (fun e => { e with run := none })) j.q.run = true := habort
  show execFusionEnd s = _
  simp only [execFusionEnd, hrun, hsame, if_true]

theorem exec_fusionEnd {t : Target} (hrun : s.fus.eng.run = some j) (hlive : runAborted s j.q.run = false)
    (htarget : j.target = some t) : exec .fusionEnd s = .next (chargeDomain s j.q.run.dom
      (fuseJob (s.modFus (fun e => { e with run := none })) j (unpackFus j.raws) t)) := by
  have hsame : runAborted (s.modFus (fun e => { e with run := none })) j.q.run = false := hlive
  show execFusionEnd s = _
  simp only [execFusionEnd, hrun, hsame, Bool.false_eq_true, if_false, htarget]

/-- The records that a job keeps are those it was taken with. -/
theorem unpackFus_pack {f : FusIn} (hsrcs : f.srcs.length = fusSources f.raw) (hcals : f.cals.length = fusSources f.raw) :
    unpackFus f.pack = f := by
  have hfirst : (f.srcs ++ f.cals).take (fusSources f.raw) = f.srcs := List.take_left' hsrcs
  have hrest : (f.srcs ++ f.cals).drop (fusSources f.raw) = f.cals := List.drop_left' hsrcs
  have hall : f.cals.take (fusSources f.raw) = f.cals := List.take_of_length_le hcals.le
  have hpack : f.pack = f.raw :: f.cam :: (f.srcs ++ f.cals) := by simp [FusIn.pack]
  have hdrop : (f.raw :: f.cam :: (f.srcs ++ f.cals)).drop (2 + fusSources f.raw) = f.cals := by
    rw [Nat.add_comm]
    exact hrest
  rw [hpack]
  simp only [unpackFus, List.headD_cons, hdrop, hall]
  exact congrArg (FusIn.mk f.raw f.cam · f.cals) hfirst

end

/-- Settles O38: the four kinds of vision run by the one lemma of their work, a fusion job by whether its run was aborted. -/
theorem visionAndFusionRunsEnd : Obligations.VisionAndFusionRunsEnd := by
  refine ⟨fun s e j hrun hlive c hc htype => ?_, fun s j hrun =>
    ⟨exec_fusionEnd_aborted hrun, fun t => exec_fusionEnd hrun, fun f => unpackFus_pack⟩⟩
  have hwork := workVis_works (work := c.2.2) hrun hlive htype
  simp only [List.mem_cons, List.not_mem_nil, or_false] at hc
  rcases hc with rfl | rfl | rfl | rfl
  all_goals exact congrArg _ hwork

end Sys2Proof.Machine
end

section
/-! PROOFS. What a slice boundary leaves running (R258, R336, R352; log 38). -/

namespace Sys2Proof.Machine

/-! ### A unit of a list as it is changed -/

section
variable {α : Type} {l : List α} {i : Nat} {d : α}

theorem getD_modify_self (hi : i < l.length) (f : α → α) : (l.modify i f).getD i d = f (l.getD i d) := by
  simp [List.getD_eq_getElem?_getD, hi]

/-- Two changes of an entry that agree on it as it stands are one. -/
theorem modify_congr_getD {f g : α → α} (h : f (l.getD i d) = g (l.getD i d)) : l.modify i f = l.modify i g := by
  refine List.ext_getElem? fun k => ?_
  rw [List.getElem?_modify, List.getElem?_modify]
  by_cases hk : i = k
  · subst hk
    cases hl : l[i]? with
    | none => rfl
    | some a =>
      rw [List.getD_eq_getElem?_getD, hl] at h
      simpa using h
  · simp [hk]

end

section
variable {s : State} {e : Nat} {f g : Engine → Engine}

theorem modVis_congr (h : f (visEngine s e) = g (visEngine s e)) : s.modVis e f = s.modVis e g := by
  rw [State.modVis, modify_congr_getD h]
  rfl

theorem modVis_id (h : f (visEngine s e) = visEngine s e) : s.modVis e f = s := by
  rw [modVis_congr (g := id) h, State.modVis, List.modify_id]

theorem visEngine_modVis (he : e < s.vis.engines.length) : visEngine (s.modVis e f) e = f (visEngine s e) :=
  getD_modify_self he f

theorem modSlv_congr (h : f (slvUnit s e) = g (slvUnit s e)) : s.modSlv e f = s.modSlv e g := by
  rw [State.modSlv, modify_congr_getD h]
  rfl

theorem modSlv_id (h : f (slvUnit s e) = slvUnit s e) : s.modSlv e f = s := by
  rw [modSlv_congr (g := id) h, State.modSlv, List.modify_id]

theorem slvUnit_modSlv (he : e < s.slv.units.length) : slvUnit (s.modSlv e f) e = f (slvUnit s e) :=
  getD_modify_self he f

end

/-! ### What a running unit does next (R258) -/

section
variable {e : Engine} {queue : List QRun} {ok : QRun → Bool} {j : UJob}

/-- A running unit goes on where no run that it may take is of higher class (R258, log 38). -/
theorem choose_stay (hrun : e.run = some j)
    (h : ∀ r rest, pickRun ok queue = some (r, rest) → j.q.run.cls ≤ r.run.cls) : choose e queue ok = .stay := by
  cases hpick : pickRun ok queue with
  | none => simp only [choose, hrun, hpick, Option.isSome_some, if_true]
  | some p =>
    have hle := Nat.not_lt.2 (h p.1 p.2 hpick)
    simp only [choose, hrun, hpick, decide_eq_false hle, Bool.false_eq_true, if_false, Option.isSome_some, if_true]

theorem choose_empty (hrun : e.run = some j) : choose e [] ok = .stay :=
  choose_stay hrun fun _ _ h => nomatch h

/-- A running unit takes the first run that it may take where that is of higher class (R258). -/
theorem choose_higher {r : QRun} {rest : List QRun} (hrun : e.run = some j) (hpick : pickRun ok queue = some (r, rest))
    (hlt : r.run.cls < j.q.run.cls) : choose e queue ok = .take r rest := by
  simp only [choose, hrun, hpick, decide_eq_true hlt, if_true]

end

/-! ### The boundary counts the slice (R258, R259, R352) -/

section
variable {s : State} {j : UJob}

/-- The job with one slice more. -/
def UJob.sliced (j : UJob) : UJob := { j with slices := j.slices + 1 }

/-- The unit with this run. -/
def Engine.runs (e : Engine) (j : UJob) : Engine := { e with run := some j }

theorem Engine.run_runs (e : Engine) (j : UJob) : (e.runs j).run = some j := rfl

theorem Engine.susp_runs (e : Engine) (j : UJob) : (e.runs j).susp = e.susp := rfl

/-- Runs of which none is aborted leave none to end. -/
theorem aborted_eq_nil {l : List UJob} (h : ∀ k ∈ l, runAborted s k.q.run = false) :
    l.filter (fun k => runAborted s k.q.run) = [] :=
  List.filter_eq_nil_iff.2 fun k hk => by simp [h k hk]

/-- Where no run of engine `e` is aborted, its slice is counted and its next run chosen. -/
theorem sliceVis_running {e : Nat} (hrun : (visEngine s e).run = some j) (hlive : runAborted s j.q.run = false)
    (hsusp : ∀ k ∈ (visEngine s e).susp, runAborted s k.q.run = false) (he : e < s.vis.engines.length) :
    sliceVis s e = nextVis (s.modVis e (·.runs j.sliced)) e := by
  have hcount : s.modVis e (fun k => { k with run := k.run.map (fun j => { j with slices := j.slices + 1 }) }) =
      s.modVis e (·.runs j.sliced) := modVis_congr (by rw [hrun]; rfl)
  have hengine : visEngine (s.modVis e (·.runs j.sliced)) e = (visEngine s e).runs j.sliced := visEngine_modVis he
  have hdead : (visEngine s e).susp.filter (fun k => runAborted (s.modVis e (·.runs j.sliced)) k.q.run) = [] :=
    aborted_eq_nil (s := s) hsusp
  have hkeep : (s.modVis e (·.runs j.sliced)).modVis e (fun k => { k with
      susp := k.susp.filter (fun j => !([] : List UJob).contains j) }) = s.modVis e (·.runs j.sliced) := modVis_id (by simp)
  have hsame : runAborted (s.modVis e (·.runs j.sliced)) j.sliced.q.run = false := hlive
  simp only [sliceVis, hcount, hengine, Engine.susp_runs, hdead, hkeep, List.foldl_nil, Engine.run_runs, hsame,
    Bool.false_eq_true, if_false]

/-- Where no run of unit `u` is aborted and no deadline has passed, its slice is counted and its next run chosen. -/
theorem sliceSlv_running {u : Nat} (hrun : (slvUnit s u).run = some j) (hlive : runAborted s j.q.run = false)
    (hsusp : (slvUnit s u).susp = []) (hu : u < s.slv.units.length)
    (hdeadline : slvDeadline j.current = 0 ∨ s.now < slvDeadline j.current) :
    sliceSlv s u = nextSlv (s.modSlv u (·.runs j.sliced)) u := by
  have hcount : s.modSlv u (fun k => { k with run := k.run.map (fun j => { j with slices := j.slices + 1 }) }) =
      s.modSlv u (·.runs j.sliced) := modSlv_congr (by rw [hrun]; rfl)
  have hunit : slvUnit (s.modSlv u (·.runs j.sliced)) u = (slvUnit s u).runs j.sliced := slvUnit_modSlv hu
  have hkeep : (s.modSlv u (·.runs j.sliced)).modSlv u (fun k => { k with
      susp := k.susp.filter (fun j => !([] : List UJob).contains j) }) = s.modSlv u (·.runs j.sliced) := modSlv_id (by simp)
  have hsame : runAborted (s.modSlv u (·.runs j.sliced)) j.sliced.q.run = false := hlive
  have hcurrent : j.sliced.current = j.current := rfl
  have hnow : (s.modSlv u (·.runs j.sliced)).now = s.now := rfl
  have hlate (c : Prop) : ¬ (slvDeadline j.current ≠ 0 ∧ slvDeadline j.current ≤ s.now ∧ c) :=
    fun ⟨hset, hpast, _⟩ => hdeadline.elim hset (Nat.not_lt.2 hpast)
  simp only [sliceSlv, hcount, hunit, Engine.susp_runs, hsusp, List.filter_nil, hkeep, List.foldl_nil, Engine.run_runs,
    hsame, Bool.false_eq_true, if_false, hcurrent, hnow, hlate]

/-- Where nothing of the fusion engine is aborted or suspended, its next job is chosen. -/
theorem sliceFus_running (hrun : s.fus.eng.run = some j) (hlive : runAborted s j.q.run = false)
    (hsusp : s.fus.eng.susp = []) : sliceFus s = nextFus s := by
  have hkeep : s.modFus (fun e => { e with susp := e.susp.filter (fun j => !([] : List UJob).contains j) }) = s := by
    simp [State.modFus]
  simp only [sliceFus, hsusp, List.filter_nil, hkeep, List.foldl_nil, hrun, hlive, Bool.false_eq_true, if_false]

end

/-! ### The choice at the boundary (R258, R336) -/

section
variable {s : State} {j : UJob}

/-- An engine whose choice is to stay changes nothing, fenced or not. -/
theorem nextVis_stay {e : Nat} (h : choose (visEngine s e) (visQueue s (decide (4 ≤ e))) (QRun.eligible s (136 + e)) = .stay) :
    nextVis s e = s := by
  simp only [nextVis, h, ite_self]

theorem nextVis_higher {e : Nat} {r : QRun} {rest : List QRun} (hrun : (visEngine s e).run = some j)
    (hfence : unitFenced s (136 + e) = false)
    (hpick : pickRun (QRun.eligible s (136 + e)) (visQueue s (decide (4 ≤ e))) = some (r, rest))
    (hlt : r.run.cls < j.q.run.cls) : nextVis s e =
      takeVis ((obsSlice (s.modVis e (·.suspend)) (136 + e) 0x06 j.q.run).setVisQueue (decide (4 ≤ e)) rest) e r := by
  simp only [nextVis, hfence, Bool.false_eq_true, if_false, choose_higher hrun hpick hlt, hrun]

theorem nextSlv_empty {u : Nat} (hrun : (slvUnit s u).run = some j) (hqueue : s.slv.queue = []) : nextSlv s u = s := by
  simp only [nextSlv, hqueue, choose_empty hrun, ite_self]

theorem nextFus_empty (hrun : s.fus.eng.run = some j) (hqueue : s.fus.queue = []) : nextFus s = s := by
  simp only [nextFus, hqueue, choose_empty hrun, ite_self]

end

/-- Settles O39: the boundary leaves each unit to its choice, which the class of the first run that it may take decides. -/
theorem slicesKeepOrYield : Obligations.SlicesKeepOrYield := by
  intro s j
  refine ⟨fun e hrun hlive hsusp hlen => ?_, fun u hrun hlive hsusp hlen hqueue hdeadline => ?_,
    fun hrun hlive hsusp hqueue => ?_⟩
  · intro block u hfence
    have he : e.val < s.vis.engines.length := by omega
    have hexec : exec (.sliceBoundary (.vision e)) s = .next (nextVis u e.val) :=
      congrArg _ (sliceVis_running hrun hlive hsusp he)
    have hsliced : (visEngine u e.val).run = some j.sliced := congrArg Engine.run (visEngine_modVis he)
    refine ⟨fun hnone => ?_, fun r rest hpick => ⟨fun hle => ?_, fun hlt => ?_⟩⟩
    · refine hexec.trans (congrArg _ (nextVis_stay (choose_stay hsliced fun r rest hpick => ?_)))
      cases hnone.symm.trans hpick
    · refine hexec.trans (congrArg _ (nextVis_stay (choose_stay hsliced fun r' rest' hpick' => ?_)))
      cases hpick.symm.trans hpick'
      exact hle
    · exact hexec.trans (congrArg _ (nextVis_higher (j := j.sliced) hsliced hfence hpick hlt))
  · have hu : u.val < s.slv.units.length := by omega
    have hsliced : (slvUnit (s.modSlv u.val (·.runs j.sliced)) u.val).run = some j.sliced :=
      congrArg Engine.run (slvUnit_modSlv hu)
    exact congrArg _ ((sliceSlv_running hrun hlive hsusp hu hdeadline).trans (nextSlv_empty hsliced hqueue))
  · exact congrArg _ ((sliceFus_running hrun hlive hsusp).trans (nextFus_empty hrun hqueue))

end Sys2Proof.Machine
end

section
/-! PROOFS. Sources that are enabled, triggers at their edge and camera frames (R295, R297, R298, R300, R301; log 3). -/

namespace Sys2Proof.Machine

/-! ### A source and its error bit (R297, R315) -/

section
variable {s : State} {n : Nat}

theorem snsInt_lt (hn : n < 44) : snsInt n < 256 := by
  unfold snsInt
  split <;> omega

/-- The error bit of a source is set, and signalling follows. -/
theorem snsErr_signals (hs : kvWf regReset s.regs = true) (hn : n < 44) :
    State.Signals (s.setBit Reg.snsErr n true) (snsErr s n) :=
  sticky_signals_setBit hs (by omega) fun _ hsrc => Option.some.inj hsrc ▸ snsInt_lt hn

/-- A change of a source that keeps its descriptor leaves every descriptor. -/
theorem desc_modSrc {f : Source44 → Source44} (h : ∀ k, (f k).desc = k.desc) {m : Nat} :
    (srcOf (s.modSrc n f) m).desc = (srcOf s m).desc := by
  simp only [srcOf, State.modSrc, List.getD_eq_getElem?_getD, List.getElem?_modify]
  cases s.sns.sources[m]? with
  | none => rfl
  | some k =>
    simp only [Option.map_eq_map, Option.map_some, Option.getD_some]
    split
    · exact h k
    · rfl

/-- What the read of a source's descriptor gives when EN is written with the address in `v`. -/
def descRead (s : State) (n : Nat) (v : Word) : State × Nat × List Byte :=
  unitRead (s.setReg (Reg.snsSrc n) (v &&& ~~~0x3F)) (v &&& ~~~0x3F) 64 3 none

theorem descRead_keeps (s : State) (n : Nat) (v : Word) : State.Keeps s (descRead s n v).1 :=
  unitRead_keeps (State.setReg_keeps (.refl s))

/-- EN rises with a valid descriptor: the source starts with it, at record 0. -/
theorem writeSnsSrc_valid {v : Word} (hoff : srcOn s n = false) (hv : bitOf v 0 = true) (hread : (descRead s n v).2.1 = stOK)
    (hdesc : descOk (descRead s n v).1 n (descRead s n v).2.2 = true) :
    writeSnsSrc s n v = (((descRead s n v).1.setBit (Reg.snsSrc n) 0 true).setBit Reg.snsStat n true).modSrc n (fun k =>
      { k with desc := (descRead s n v).2.2, count := 0, frame := none, spi := none, spiAt := (descRead s n v).1.tim.n
               newest := none }) := by
  simp only [writeSnsSrc, hoff, hv, Bool.false_eq_true, if_false, Bool.not_true]
  exact if_pos ⟨hread, hdesc⟩

/-- EN rises with a descriptor that is not valid: the source's error bit alone. -/
theorem writeSnsSrc_invalid {v : Word} (hoff : srcOn s n = false) (hv : bitOf v 0 = true)
    (hbad : (descRead s n v).2.1 ≠ stOK ∨ descOk (descRead s n v).1 n (descRead s n v).2.2 = false) :
    writeSnsSrc s n v = snsErr (descRead s n v).1 n := by
  simp only [writeSnsSrc, hoff, hv, Bool.false_eq_true, if_false, Bool.not_true]
  exact if_neg fun ⟨hread, hdesc⟩ => hbad.elim (· hread) (ne_false_of_eq_true hdesc)

end

/-! ### Triggers (R301) -/

section
variable {s : State} {n : Fin 8}

theorem trigDue_iff {n : Nat} : trigDue s n = true ↔ bitOf (s.reg (Reg.snsTrigCtl n)) 0 = true ∧ lampOn s = true ∧
    (lampEdgeNo s + bitsOf (s.reg (Reg.snsTrigCtl n)) 17 2 * 65536 - bitsOf (s.reg (Reg.snsTrigCtl n)) 33 18) %
      bitsOf (s.reg (Reg.snsTrigCtl n)) 17 2 = 0 := by
  simp only [trigDue, Bool.and_eq_true, beq_iff_eq, and_assoc]

/-- Trigger `n` goes active now: its start is stamped and begins the width count. -/
def State.trigDriven (s : State) (n : Nat) : State :=
  let u := s.setReg (Reg.snsTrigLast n) (BitVec.ofNat 64 s.now)
  { u with sns := { u.sns with
      trigs := u.sns.trigs.set n true, trigAt := u.sns.trigAt.set n (u.tim.ticks, s.lamp.counted) } }

/-- The CAN controller of the trigger's parity sends its sync frame when enabled. -/
def State.cansynced (s : State) (n : Nat) : State :=
  if s.bit (Reg.snsCansync (n % 2)) (34 + n / 2) = true then
    { s with sns := { s.sns with
        sent := (n % 2, s.reg (Reg.snsCansync (n % 2)), s.reg (Reg.snsCansyncData (n % 2))) :: s.sns.sent } }
  else s

/-- A trigger that is due, has not started at this edge and whose offset has passed is driven where time stands. -/
theorem exec_triggerStart_due (hdue : trigDue s n.val = true) (hfresh : (trigStart s n.val).2 ≠ s.lamp.counted)
    (htime : lampEdgeNo s * lampPeriod s + 8 * s.fld (Reg.snsTrigCtl n.val) 63 50 ≤ s.tim.n) :
    exec (.triggerStart n) s = .next ((s.trigDriven n.val).cansynced n.val) := by
  have hgo : ¬ ((!trigDue s n.val || (trigStart s n.val).2 == s.lamp.counted) = true) := by simp [hdue, hfresh]
  show execTriggerStart n s = _
  simp only [execTriggerStart, if_neg hgo, if_neg (Nat.not_lt.2 htime), State.cansynced, apply_ite Host.Outcome.next]
  rfl

theorem exec_triggerStart_idle (h : trigDue s n.val = false) : exec (.triggerStart n) s = .next s :=
  if_pos (by simp [h])

theorem exec_triggerEnd_idle (h : s.sns.trigs.getD n.val false = false) : exec (.triggerEnd n) s = .next s := if_pos h

/-- An active trigger returns when its WIDTH has passed. -/
theorem exec_triggerEnd_active (h : s.sns.trigs.getD n.val false = true) :
    let w := runTicks s ((trigStart s n.val).1 + s.fld (Reg.snsTrigCtl n.val) 49 34)
    exec (.triggerEnd n) s = .next { w with sns := { w.sns with trigs := w.sns.trigs.set n.val false } } :=
  if_neg (ne_false_of_eq_true h)

end

/-! ### Camera frames (R295, R300) -/

section
variable {s : State} {n : Fin 32} {f : CamFrame}

theorem exec_frameStart (hon : srcOn s n.val = true) (hports : portsOn s = true) (hidle : (srcOf s n.val).frame = none) :
    exec (.frameStart n) s = .next ((lookedRelease s n.val).modSrc n.val (fun k => { k with
      frame := some ⟨stampNow s n.val, unsynced s, 0, 0, false, false, !released s n.val⟩ })) := by
  show execFrameStart n s = _
  simp only [execFrameStart, hon, hports, Bool.not_true, Bool.or_false, Bool.false_eq_true, if_false, endFrame, hidle]

/-- A good line of the accepted type, within HEIGHT, becomes the next row of the frame's buffer. -/
theorem exec_lineReceived {dt : Byte} {px : List (BitVec 16)} (hon : srcOn s n.val = true) (hports : portsOn s = true)
    (hframe : (srcOf s n.val).frame = some f) (hkept : f.drop = false) (htype : dt.toNat = u8At (srcOf s n.val).desc 45)
    (hlong : dt ≠ 0x12) (hrow : f.lines < camHeight s n.val) :
    let u := s.modSrc n.val (fun k => { k with frame := some { f with lines := f.lines + 1 } })
    exec (.lineReceived n dt px true true) s =
      .next (unitPut u (camBuf u n.val + BitVec.ofNat 64 (f.lines * u32At (srcOf s n.val).desc 40))
        (lineBytes dt.toNat (px.take (u16At (srcOf s n.val).desc 36)))) := by
  intro u
  have hheight : camHeight u n.val = camHeight s n.val := by
    rw [camHeight, desc_modSrc fun _ => by rfl]
    rfl
  have hstored : ¬ ((f.drop || decide (camHeight u n.val ≤ f.lines)) = true) := by simp [hkept, hheight, hrow]
  show execLineReceived n dt px true true s = _
  simp only [execLineReceived, hon, hports, hlong, htype, hframe, Bool.not_true, Bool.or_false, Bool.false_eq_true, if_false,
    if_true, ne_eq, not_true_eq_false]
  exact if_neg hstored

theorem exec_frameEnd_dropped (hon : srcOn s n.val = true) (hports : portsOn s = true)
    (hframe : (srcOf s n.val).frame = some f) (hdrop : f.drop = true) :
    exec (.frameEnd n) s = .next (dropRecord (s.modSrc n.val (fun k => { k with frame := none })) n.val) := by
  show execFrameEnd n s = _
  simp only [execFrameEnd, hon, hports, Bool.not_true, Bool.or_false, Bool.false_eq_true, if_false, endFrame, hframe, hdrop,
    if_true]

/-- The record of a camera frame that was received whole into the buffer at `buf` (R300). -/
def wholeFrameRecord (s : State) (n : Nat) (f : CamFrame) (buf : Word) : List Byte :=
  leBytes 8 (srcOf s n).count ++ leBytes 8 f.stamp ++ leBytes 8 (stampNow s n) ++ leBytes 2 (min f.lines 65535)
    ++ leBytes 1 (flagBit (f.unsync || unsynced s) 0 + flagBit (srcOf s n).gap 1) ++ zeroBytes 1 ++ leBytes 4 f.crcs
    ++ wordBytes buf ++ zeroBytes 24

/-- A frame received whole leaves its record, the source's count rises by one and its buoy counts a success. -/
theorem exec_frameEnd_whole (hon : srcOn s n.val = true) (hports : portsOn s = true)
    (hframe : (srcOf s n.val).frame = some f) (hkept : f.drop = false) (hlines : f.lines = camHeight s n.val)
    (hstored : f.stored = false) (hhdr : f.hdr = false)
    (hnode : nodeOf (wordAt (srcOf s n.val).desc 48 +
      BitVec.ofNat 64 (64 * ((srcOf s n.val).count % srcSlots s n.val))) = s.node) :
    let k := srcOf s n.val
    let u := s.modSrc n.val (fun k => { k with frame := none })
    let v := unitPut u (wordAt k.desc 48 + BitVec.ofNat 64 (64 * (k.count % srcSlots u n.val)))
      (wholeFrameRecord s n.val f (camBuf u n.val))
    let w := (v.modSrc n.val (fun r => { r with
      count := r.count + 1, gap := false, newest := some (k.count, f.stamp, f.unsync) })).wrapFld (Reg.snsCnt n.val) 31 0 1
    exec (.frameEnd n) s = .next (bumpTo w (srcBuoy w n.val) true 3) := by
  intro k u v w
  have hdesc : (srcOf u n.val).desc = k.desc := desc_modSrc fun _ => by rfl
  have hheight : camHeight u n.val = f.lines := by rw [hlines, camHeight, hdesc]; rfl
  have hslots : srcSlots u n.val = srcSlots s n.val := by rw [srcSlots, hdesc]; rfl
  have hunder : s.modSrc n.val (fun k => { k with frame := none }) = u := rfl
  have hclear (i : Nat) : flagBit false i = 0 := rfl
  have hown : nodeOf (wordAt (srcOf s n.val).desc 48 +
      BitVec.ofNat 64 (64 * ((srcOf s n.val).count % srcSlots u n.val))) = u.node := by
    rw [hslots]
    exact hnode
  show execFrameEnd n s = _
  simp only [execFrameEnd, hon, hports, Bool.not_true, Bool.or_false, Bool.false_eq_true, if_false, endFrame, hframe, hkept,
    hunder, hheight, hstored, hhdr, Nat.lt_irrefl, decide_false, Option.isNone_some, hclear, Nat.add_zero,
    Nat.zero_lt_succ, if_true, hown]
  rfl

end

/-- Settles O42: a source by its descriptor, a trigger by whether it is due, a camera frame by how it was received. -/
theorem sourcesTriggersAndCameras : Obligations.SourcesTriggersAndCameras := by
  refine ⟨fun s n => ?_, fun s n => ?_, fun s n hon hports => ?_⟩
  · intro v r hinv hoff
    have hread : State.Keeps s r.1 := descRead_keeps s n.val v
    refine ⟨fun hok hdesc => ?_, fun hbad => ⟨snsErr r.1 n.val, ?_, ?_⟩⟩
    · exact congrArg _ (writeSnsSrc_valid hoff (bitOf_setEn _) hok hdesc)
    · exact congrArg Host.Outcome.next (writeSnsSrc_invalid hoff (bitOf_setEn _) hbad)
    · exact snsErr_signals (hread.inv hinv).canon.regs n.isLt
  · intro c at_ u v x
    refine ⟨fun hen hlamp hphase hfresh htime => ?_, fun hoff => ?_, exec_triggerEnd_idle, exec_triggerEnd_active⟩
    · have hdue : trigDue s n.val = true := trigDue_iff.2 ⟨hen, hlamp, hphase⟩
      exact exec_triggerStart_due hdue hfresh htime
    · refine exec_triggerStart_idle (Bool.eq_false_iff.2 fun hdue => ?_)
      obtain ⟨hen, hlamp, _⟩ := trigDue_iff.1 hdue
      exact hoff.elim (ne_false_of_eq_true hen) (ne_false_of_eq_true hlamp)
  · refine ⟨exec_frameStart hon hports, fun f hframe hkept => ⟨fun dt px htype hlong hrow => ?_,
      fun hlines hstored hhdr hnode => ?_⟩, fun f hframe hdrop => exec_frameEnd_dropped hon hports hframe hdrop⟩
    · exact exec_lineReceived hon hports hframe hkept htype hlong hrow
    · exact exec_frameEnd_whole hon hports hframe hkept hlines hstored hhdr hnode

end Sys2Proof.Machine
end

section
/-! PROOFS. A ring record of a source number past the 44 sources: its error bit raises an interrupt source past 255, and what
would be that source's pending bit is a bit of INT_EN (R298, R315, R498, R499). -/

namespace Sys2Proof.Machine

/-- An object at the local address 0, which the empty descriptor of an absent source gives as its ring. -/
def objectAtZero : Obj :=
  { id := 1, base := 0, size := 0x200000, state := 1, domain := 0, home := 0, cluster := 0, tier := 2, promote := false
    flushed := false, digest := 0, lastUse := 0, gen := 0, signed := false }

/-- The reset state with the tier manager on and that object allocated. -/
def zeroAllocated : State :=
  let s := State.reset.setReg Reg.tirCtl 1
  { s with tier := { s.tier with objs := [objectAtZero] } }

theorem zeroAllocated_inv : zeroAllocated.Inv where
  canon := ⟨rfl, by decide +kernel, rfl⟩
  shape := by constructor <;> rfl
  fuses := by constructor <;> decide

/-- The header of record 0 of one byte of payload, which is cut off. -/
def cutHeader : List Byte := zeroBytes 8 ++ leBytes 4 1 ++ leBytes 1 4 ++ zeroBytes 19

/-- Source 160 is absent, so its record waits for no reader and is put at address 0. -/
theorem cutHeader_written : released zeroAllocated 160 = true ∧ lookedRelease zeroAllocated 160 = zeroAllocated ∧
    (unitWrite zeroAllocated 0 cutHeader).2 = stOK := by
  refine ⟨by decide +kernel, if_neg (by decide +kernel), by decide +kernel⟩

/-- The error bit of source 160 raises interrupt source 256, which sets a bit of INT_EN. -/
theorem intEn_ringRecord : (ringRecord zeroAllocated 160 0 false [0] 0 0 0).bit (Reg.intEn 0) 0 = true := by
  decide +kernel

/-- A source that is absent has no buoy. -/
theorem srcBuoy_absent {s : State} {n : Nat} (h : s.sns.sources.length ≤ n) : srcBuoy s n = 0 := by
  rw [srcBuoy, srcOf, List.getD_eq_default _ _ h]
  rfl

/-- Refutes O43: the number of the source in a ring record is not bound to the 44 sources. Source 160 is absent, with an empty
descriptor that gives slots of no bytes at address 0; where an object stands there its record is written and cut, and its error
bit raises interrupt source 96 + 160 = 256. INT_PEND ends at source 255, so bit 0 of INT_EN is set, which no signalling does. -/
theorem not_recordsGoToTheirRings : ¬ Obligations.RecordsGoToTheirRings := by
  intro ⟨_, hrecord⟩
  obtain ⟨hreleased, hlooked, hwrite⟩ := cutHeader_written
  have hinv : (unitWrite zeroAllocated 0 cutHeader).1.Inv := (unitWrite_keeps (.refl _)).inv zeroAllocated_inv
  have hspec := hrecord zeroAllocated (unitWrite zeroAllocated 0 cutHeader).1 160 0 false [0] 0 0 0
  rw [hlooked] at hspec
  obtain ⟨y, hy, hsig⟩ := (hspec.1 hreleased (Prod.ext rfl hwrite)).2 (by decide +kernel) zeroAllocated_inv hinv
  have hsources : y.sns.sources.length = 44 := by
    rw [hsig.sns]
    exact (List.length_modify ..).trans hinv.shape.sources
  have hbuoy : srcBuoy y 160 = 0 := srcBuoy_absent (by omega)
  rw [hbuoy] at hy
  have hsame := hsig.bit_eq (State.setBit_wf (State.setFld_wf hinv.canon.regs ..) ..) (off := Reg.intEn 0) rfl 0
  rw [show y = _ from hy.symm, intEn_ringRecord] at hsame
  revert hsame
  decide +kernel

end Sys2Proof.Machine
end

section
/-! PROOFS. The time counter: its captures, its steps and its rate (R316, R318, R321 to R323). -/

namespace Sys2Proof.Machine

section
variable {s : State}

/-! ### NOW_READ (R321, R322) -/

theorem nowRead_same (s : State) : State.SameRest s (nowRead s) :=
  (State.SameRest.refl s).setReg.setReg.setReg.setReg

/-- What each register reads after the captures. -/
theorem nowRead_reg (hs : kvWf regReset s.regs = true) (o : Nat) : (nowRead s).reg o =
    if o = Reg.timTabNs then BitVec.ofNat 64 (s.tim.n % 10 ^ 9)
    else if o = Reg.timTabS then BitVec.ofNat 64 (s.tim.n / 10 ^ 9)
    else if o = Reg.timNowHi then BitVec.ofNat 64 (s.tim.n / 2 ^ 64 + s.tim.f * 2 ^ 32)
    else if o = Reg.timNowLo then BitVec.ofNat 64 s.tim.n else s.reg o := by
  have h1 := State.setReg_wf hs Reg.timNowLo (BitVec.ofNat 64 s.tim.n)
  have h2 := State.setReg_wf h1 Reg.timNowHi (BitVec.ofNat 64 (s.tim.n / 2 ^ 64 + s.tim.f * 2 ^ 32))
  have h3 := State.setReg_wf h2 Reg.timTabS (BitVec.ofNat 64 (s.tim.n / 10 ^ 9))
  simp only [nowRead, State.setReg_tim]
  rw [State.reg_setReg h3, State.reg_setReg h2, State.reg_setReg h1, State.reg_setReg hs]

/-! ### STEP_APPLY (R323) -/

/-- A pending step is added to N, and the sum of offsets begins anew. -/
def State.addedStep (s : State) (d : Int) : State :=
  { s with tim := { s.tim with n := stepN s.tim.n d, step := none, sum := 0 } }

/-- The registers that an applied step writes. -/
def stepReg (o : Nat) : Bool := o == Reg.timStatus || o == Reg.lmpStatus || sigReg o

theorem sigReg_of_stepReg {o : Nat} (h : stepReg o = false) : sigReg o = false := by
  simp only [stepReg, Bool.or_eq_false_iff] at h
  exact h.2

theorem applyStep_pending {d : Int} (hstep : s.tim.step = some d) : applyStep s =
    let v := sticky (s.addedStep d) Reg.timStatus 2 (some 181)
    if d < 0 then v.setBit Reg.lmpStatus 2 true else v := by
  simp only [applyStep, hstep, State.addedStep]

/-- A step sets STEPPED and signals it; a backward one is shown to the Lamp too (R55). -/
theorem applyStep_facts (hs : kvWf regReset s.regs = true) {d : Int} (hstep : s.tim.step = some d) :
    let t := applyStep s
    t.tim = (s.addedStep d).tim ∧ t.mem = s.mem ∧ t.lamp = s.lamp ∧ State.RegsBut stepReg s t ∧
      t.bit Reg.timStatus 2 = true ∧ (d < 0 → t.bit Reg.lmpStatus 2 = true) := by
  have hsig : State.Signals ((s.addedStep d).setBit Reg.timStatus 2 true)
      (sticky (s.addedStep d) Reg.timStatus 2 (some 181)) :=
    sticky_signals_setBit (s := s.addedStep d) hs (by decide) (by simp)
  have hset : kvWf regReset ((s.addedStep d).setBit Reg.timStatus 2 true).regs = true := State.setBit_wf hs ..
  have hstepped : (sticky (s.addedStep d) Reg.timStatus 2 (some 181)).bit Reg.timStatus 2 = true :=
    (hsig.bit_eq hset rfl 2).trans (State.bit_setBit (s := s.addedStep d) hs _ _ _ (by decide))
  have hregs : State.RegsBut stepReg s (sticky (s.addedStep d) Reg.timStatus 2 (some 181)) :=
    (State.RegsBut.setBit (t := s.addedStep d) (by decide) (.refl _ s)).trans
      (.mono (fun _ => sigReg_of_stepReg) hsig.regs)
  rw [applyStep_pending hstep]
  generalize sticky (s.addedStep d) Reg.timStatus 2 (some 181) = v at hsig hstepped hregs
  have hv := (hregs hs).1
  by_cases hd : d < 0
  · simp only [hd, if_true, forall_const]
    exact ⟨hsig.tim, hsig.mem, hsig.lamp, hregs.setBit (by decide),
      (bit_setBit_ne hv (by decide) (.inl (by decide))).trans hstepped, State.bit_setBit hv _ _ _ (by decide)⟩
  · simp only [hd, if_false, false_implies, and_true]
    exact ⟨hsig.tim, hsig.mem, hsig.lamp, hregs, hstepped⟩

/-- The counter carried on by one tick to `c` (R316). -/
def State.ticked (s : State) (c : Nat × Nat) : State :=
  { s with tim := { s.tim with n := c.1, f := c.2, ticks := s.tim.ticks + 1 } }

/-- While the counter runs, a tick carries it on and applies what is pending. -/
theorem tickTime_ticked (hrun : s.tim.running = true) :
    tickTime s = applyStep (s.ticked (timeAfter s.tim.n s.tim.f (s.fld Reg.timInc 39 0) 1)) := by
  simp [tickTime, hrun, State.ticked]

/-- With RUN clear no edge falls due (R51, R54). -/
theorem edgeDue_stopped (h : s.bit Reg.lmpCtl 0 = false) : edgeDue s = false := by simp [edgeDue, lampOn, h]

/-- With the Lamp stopped, STEP_APPLY is a tick and the step. -/
theorem exec_stepApply {d : Int} {c : Nat × Nat} (hs : kvWf regReset s.regs = true) (hstep : s.tim.step = some d)
    (hrun : s.tim.running = true) (hstop : s.bit Reg.lmpCtl 0 = false)
    (hc : timeAfter s.tim.n s.tim.f (s.fld Reg.timInc 39 0) 1 = c) :
    exec .stepApply s = .next (applyStep (s.ticked c)) := by
  have htick : tickTime s = applyStep (s.ticked c) := by rw [tickTime_ticked hrun, hc]
  obtain ⟨-, -, -, hregs, -⟩ := applyStep_facts (s := s.ticked c) hs hstep
  have hdue : edgeDue (applyStep (s.ticked c)) = false :=
    edgeDue_stopped ((congrArg (bitOf · 0) ((hregs hs).2 _ rfl)).trans hstop)
  show execStepApply s = _
  simp [execStepApply, hstep, htick, hdue]

/-- What an applied step leaves, with the Lamp stopped. -/
theorem exec_stepApply_facts {d : Int} {c : Nat × Nat} (hs : kvWf regReset s.regs = true) (hstep : s.tim.step = some d)
    (hrun : s.tim.running = true) (hstop : s.bit Reg.lmpCtl 0 = false)
    (hc : timeAfter s.tim.n s.tim.f (s.fld Reg.timInc 39 0) 1 = c) :
    ∃ t, exec .stepApply s = .next t ∧
      t.tim = { s.tim with n := stepN c.1 d, f := c.2, ticks := s.tim.ticks + 1, step := none, sum := 0 } ∧
      t.mem = s.mem ∧ t.lamp = s.lamp ∧
      t.bit Reg.timStatus 2 = true ∧ (d < 0 → t.bit Reg.lmpStatus 2 = true) ∧
      ∀ o, sigReg o = false → o ∉ [Reg.timStatus, Reg.lmpStatus] → t.reg o = s.reg o := by
  obtain ⟨htim, hmem, hlamp, hregs, hstepped, hback⟩ := applyStep_facts (s := s.ticked c) hs hstep
  refine ⟨_, exec_stepApply hs hstep hrun hstop hc, htim, hmem, hlamp, hstepped, hback,
    fun o hsig ho => (hregs hs).2 o ?_⟩
  simp only [List.mem_cons, List.not_mem_nil, or_false, not_or] at ho
  simp [stepReg, hsig, ho]

/-! ### TIM_INC (R318) -/

/-- TIM_INC takes a rate held to its limits, and INC_CLAMP shows one that was not in range. -/
def State.takeInc (s : State) (v : Int) : State :=
  let t := s.setFld Reg.timInc 39 0 (clampI v incMin incMax).toNat
  if clampI v incMin incMax = v then t else t.setBit Reg.timErr 2 true

/-- The registers that a rate is taken into. -/
def incReg (o : Nat) : Bool := o == Reg.timInc || o == Reg.timErr

theorem takeInc_writesOnly (s : State) (v : Int) : State.WritesOnly incReg s (s.takeInc v) := by
  have hset : State.WritesOnly incReg s (s.setFld Reg.timInc 39 0 (clampI v incMin incMax).toNat) :=
    .setFld (by decide) (.refl _ s)
  unfold State.takeInc
  extract_lets t
  split
  · exact hset
  · exact hset.setReg (by decide)

theorem setInc_signals (hs : kvWf regReset s.regs = true) (v : Int) : State.Signals (s.takeInc v) (setInc s v) := by
  unfold State.takeInc setInc
  extract_lets t c u
  split
  · exact .refl t
  · exact sticky_signals_setBit (State.setFld_wf hs ..) (by decide) (by simp)

theorem clampI_inc_range (v : Int) : 0 ≤ clampI v incMin incMax ∧ clampI v incMin incMax < 2 ^ 40 := by
  simp only [clampI, incMin, incMax]
  split_ifs <;> omega

/-- TIM_INC reads as the rate held to its limits. -/
theorem takeInc_fld (hs : kvWf regReset s.regs = true) (v : Int) :
    (s.takeInc v).fld Reg.timInc 39 0 = (clampI v incMin incMax).toNat := by
  have hlt := clampI_inc_range v
  have hset : State.HasFld (s.setFld Reg.timInc 39 0 (clampI v incMin incMax).toNat) Reg.timInc 39 0
      (clampI v incMin incMax).toNat := .set hs (by omega) (by decide) (by decide)
  unfold State.takeInc
  extract_lets t
  split
  · exact hset.fld
  · exact (hset.setReg_ne (by decide)).fld

theorem takeInc_clamped (hs : kvWf regReset s.regs = true) {v : Int} (h : clampI v incMin incMax ≠ v) :
    (s.takeInc v).bit Reg.timErr 2 = true := by
  rw [State.takeInc, if_neg h]
  exact State.bit_setBit (State.setFld_wf hs ..) _ _ _ (by decide)

theorem takeInc_err (hs : kvWf regReset s.regs = true) {v : Int} (h : clampI v incMin incMax = v) :
    (s.takeInc v).reg Reg.timErr = s.reg Reg.timErr := by
  rw [State.takeInc, if_pos h]
  exact State.reg_setFld_ne hs _ _ _ (by decide)

/-- A rate that is no negative number, held to the limits. -/
theorem clampI_inc_natCast (v : Nat) : clampI v incMin incMax =
    ((if v < 0x07FF000000 then 0x07FF000000 else if 0x0801000000 < v then 0x0801000000 else v : Nat) : Int) := by
  simp only [clampI, incMin, incMax]
  push_cast
  split_ifs <;> omega

end

/-- Settles O34: a read copies, a step rides on a tick, and a rate is held to its limits. -/
theorem timeCounterIsReadAndStepped : Obligations.TimeCounterIsReadAndStepped := by
  intro s d v
  refine ⟨fun hinv => ?_, rfl, fun x hstep hrun hstop hinv => ?_, fun hinv => ?_⟩
  · have hreg := nowRead_reg hinv.canon.regs
    obtain ⟨r, hr⟩ := nowRead_same s
    refine ⟨nowRead s, rfl, by rw [hr]; rfl, by simp [hreg], by simp [hreg], by simp [hreg], by simp [hreg],
      fun o ho => ?_⟩
    simp only [List.mem_cons, List.not_mem_nil, or_false, not_or] at ho
    obtain ⟨hlo, hhi, hsec, hns⟩ := ho
    rw [hreg, if_neg hns, if_neg hsec, if_neg hhi, if_neg hlo]
  · exact exec_stepApply_facts hinv.canon.regs hstep hrun hstop rfl
  · have hs := hinv.canon.regs
    have hsig := setInc_signals hs (bitsOf v 39 0)
    have honly := takeInc_writesOnly s (bitsOf v 39 0)
    obtain ⟨hu, hreg⟩ := honly.regs hs
    obtain ⟨r, hr⟩ := honly.same
    have hfld : (setInc s (bitsOf v 39 0)).fld Reg.timInc 39 0 = (clampI (bitsOf v 39 0) incMin incMax).toNat :=
      (congrArg (bitsOf · 39 0) ((hsig.regs hu).2 _ rfl)).trans (takeInc_fld hs _)
    refine ⟨_, s.takeInc (bitsOf v 39 0), rfl, by rw [hr]; rfl, hsig, fun o ho => hreg o (by simpa [incReg] using ho), ?_,
      fun hout => ?_, fun hin => ?_⟩
    · rw [hfld, clampI_inc_natCast, Int.toNat_natCast]
    · refine (hsig.bit_eq hu rfl 2).trans (takeInc_clamped hs ?_)
      simp only [clampI, incMin, incMax]
      split_ifs <;> omega
    · refine ((hsig.regs hu).2 _ rfl).trans (takeInc_err hs ?_)
      simp only [clampI, incMin, incMax]
      split_ifs <;> omega

end Sys2Proof.Machine
end

section
/-! PROOFS. Roles and SYNC, the servo and its exchanges, PPS and PTP stamps (R324 to R329, R331; log 3, log 18, log 202,
log 203). -/

namespace Sys2Proof.Machine

/-! ### SYNC and PPS_OUT (R326, R329) -/

/-- The registers that a change of SYNC writes. -/
def syncReg (o : Nat) : Bool := o == Reg.timStatus || o == Reg.lmpStatus || o == Reg.timErr || sigReg o

theorem sigReg_of_syncReg {o : Nat} (h : syncReg o = false) : sigReg o = false := by
  simp only [syncReg, Bool.or_eq_false_iff] at h
  exact h.2

/-- `t` is `s` but for SYNC and what goes with it: the count of good offsets, PPS_OUT, and the registers that show SYNC. -/
structure State.SyncApart (s t : State) : Prop where
  mem  : t.mem = s.mem
  tim  : t.tim = { s.tim with good := t.tim.good, ppsOut := t.tim.ppsOut }
  regs : State.RegsBut syncReg s t

/-- May PPS_OUT be active? -/
def ppsAllowed (s : State) : Bool := s.bit Reg.timCtl 7 && (s.bit Reg.timStatus 0 || s.bit Reg.timCtl 8)

/-- SYNC shows in TIM_STATUS and in LMP_STATUS. -/
def State.showSync (s : State) (b : Bool) : State := (s.setBit Reg.timStatus 0 b).setBit Reg.lmpStatus 0 b

section
variable {s t u : State} {b : Bool}

theorem State.SyncApart.refl (s : State) : State.SyncApart s s := ⟨rfl, rfl, .refl _ s⟩

theorem State.SyncApart.trans (h : State.SyncApart s t) (k : State.SyncApart t u) : State.SyncApart s u :=
  ⟨k.mem.trans h.mem, by rw [k.tim, h.tim], h.regs.trans k.regs⟩

theorem gatePps_eq (s : State) :
    gatePps s = { s with tim := { s.tim with ppsOut := s.tim.ppsOut && ppsAllowed s } } := by
  cases h : ppsAllowed s <;> simp only [ppsAllowed] at h <;> simp [gatePps, h]

theorem gatePps_regs (s : State) : (gatePps s).regs = s.regs := by rw [gatePps_eq]

theorem gatePps_tim (s : State) : (gatePps s).tim = { s.tim with ppsOut := s.tim.ppsOut && ppsAllowed s } := by
  rw [gatePps_eq]

theorem gatePps_allowed (h : ppsAllowed s = true) : gatePps s = s := if_pos h

theorem gatePps_apart (s : State) : State.SyncApart s (gatePps s) := by
  rw [gatePps_eq]
  exact ⟨rfl, rfl, .refl _ s⟩

theorem showSync_apart (s : State) (b : Bool) : State.SyncApart s (s.showSync b) :=
  ⟨rfl, rfl, .setBit (by decide) (.setBit (by decide) (.refl _ s))⟩

theorem shownSync_wf (hs : kvWf regReset s.regs = true) (b : Bool) :
    kvWf regReset (gatePps (s.showSync b)).regs = true :=
  (((showSync_apart s b).trans (gatePps_apart _)).regs hs).1

theorem showSync_bit (hs : kvWf regReset s.regs = true) : (s.showSync b).bit Reg.timStatus 0 = b :=
  (bit_setBit_ne (State.setBit_wf hs ..) (by decide) (.inl (by decide))).trans (State.bit_setBit hs _ _ _ (by decide))

theorem setSync_same (h : s.bit Reg.timStatus 0 = b) : setSync s b = s := if_pos h

/-- A change of SYNC is shown, PPS_OUT follows it, and SYNC_CHANGE is set. -/
theorem setSync_change (hs : kvWf regReset s.regs = true) (h : s.bit Reg.timStatus 0 ≠ b) :
    State.Signals ((gatePps (s.showSync b)).setBit Reg.timErr 0 true) (setSync s b) := by
  rw [setSync, if_neg h]
  exact sticky_signals_setBit (shownSync_wf hs b) (by decide) (by simp)

theorem syncChange_apart (s : State) (b : Bool) :
    State.SyncApart s ((gatePps (s.showSync b)).setBit Reg.timErr 0 true) :=
  have h := (showSync_apart s b).trans (gatePps_apart _)
  ⟨h.mem, h.tim, h.regs.setBit (by decide)⟩

theorem State.SyncApart.signals (h : State.SyncApart s t) (k : State.Signals t u) : State.SyncApart s u :=
  ⟨k.mem.trans h.mem, by rw [k.tim, h.tim], h.regs.trans (.mono (fun _ => sigReg_of_syncReg) k.regs)⟩

theorem setSync_apart (hs : kvWf regReset s.regs = true) (b : Bool) : State.SyncApart s (setSync s b) := by
  by_cases h : s.bit Reg.timStatus 0 = b
  · rw [setSync_same h]
    exact .refl s
  · exact (syncChange_apart s b).signals (setSync_change hs h)

theorem setSync_bit (hs : kvWf regReset s.regs = true) (b : Bool) : (setSync s b).bit Reg.timStatus 0 = b := by
  by_cases h : s.bit Reg.timStatus 0 = b
  · rw [setSync_same h]
    exact h
  · have hshow := shownSync_wf hs b
    rw [(setSync_change hs h).bit_eq (State.setBit_wf hshow ..) rfl, bit_setBit_ne hshow (by decide) (.inl (by decide)),
      State.bit_of_regs (gatePps_regs _), showSync_bit hs]

/-- A change of SYNC sets no other bit of TIM_ERR. -/
theorem setSync_err (hs : kvWf regReset s.regs = true) (b : Bool) {i : Nat} (hi : i ≠ 0) :
    (setSync s b).bit Reg.timErr i = s.bit Reg.timErr i := by
  by_cases h : s.bit Reg.timStatus 0 = b
  · rw [setSync_same h]
  · have hset : kvWf regReset (s.setBit Reg.timStatus 0 b).regs = true := State.setBit_wf hs ..
    have hshow := shownSync_wf hs b
    rw [(setSync_change hs h).bit_eq (State.setBit_wf hshow ..) rfl, bit_setBit_ne hshow (by decide) (.inr hi),
      State.bit_of_regs (gatePps_regs _), State.showSync, bit_setBit_ne hset (by decide) (.inl (by decide)),
      bit_setBit_ne hs (by decide) (.inl (by decide))]

/-- When SYNC falls, PPS_OUT stays active only where it runs free (R329). -/
theorem setSync_false_tim (hs : kvWf regReset s.regs = true) : (setSync s false).tim = { s.tim with
    ppsOut := s.tim.ppsOut && (!s.bit Reg.timStatus 0 || (s.bit Reg.timCtl 7 && s.bit Reg.timCtl 8)) } := by
  cases h : s.bit Reg.timStatus 0 with
  | false => simp [setSync_same h]
  | true =>
    have hctl (i : Nat) : (s.showSync false).bit Reg.timCtl i = s.bit Reg.timCtl i :=
      congrArg (bitOf · i) (((showSync_apart s false).regs hs).2 _ rfl)
    have hallowed : ppsAllowed (s.showSync false) = (s.bit Reg.timCtl 7 && s.bit Reg.timCtl 8) := by
      rw [ppsAllowed, hctl, hctl, showSync_bit hs, Bool.false_or]
    rw [(setSync_change hs (by simp [h])).tim, State.setBit_tim, gatePps_tim, hallowed]
    rfl

/-! ### SYNC after an offset (R326) -/

/-- The count of consecutive offsets within LOCK_NS after another. -/
def goodAfter (s : State) (th : Int) : Nat :=
  if th.natAbs ≤ 2 * s.fld Reg.timServo 31 16 then s.tim.good + 1 else 0

/-- An offset is counted. -/
def State.countGood (s : State) (th : Int) : State := { s with tim := { s.tim with good := goodAfter s th } }

theorem countGood_apart (s : State) (th : Int) : State.SyncApart s (s.countGood th) := ⟨rfl, rfl, .refl _ s⟩

theorem syncOf_eq (s : State) (th : Int) : syncOf s th =
    if 2 * s.fld Reg.timServo 47 32 < th.natAbs then setSync (s.countGood th) false
    else if 8 ≤ goodAfter s th then setSync (s.countGood th) true else s.countGood th := rfl

theorem syncOf_apart (hs : kvWf regReset s.regs = true) (th : Int) : State.SyncApart s (syncOf s th) := by
  have hset (b : Bool) : State.SyncApart s (setSync (s.countGood th) b) :=
    (countGood_apart s th).trans (setSync_apart (s := s.countGood th) hs b)
  rw [syncOf_eq]
  split_ifs
  · exact hset false
  · exact hset true
  · exact countGood_apart s th

theorem syncOf_unlocked (hs : kvWf regReset s.regs = true) {th : Int} (h : 2 * s.fld Reg.timServo 47 32 < th.natAbs) :
    (syncOf s th).bit Reg.timStatus 0 = false := by
  rw [syncOf_eq, if_pos h]
  exact setSync_bit (s := s.countGood th) hs false

end

/-! ### The servo (R326; log 18) -/

section
variable {s : State}

/-- Half of an integer is one of the two integers nearest to it. -/
theorem halve_near (s : State) (v : Int) : (2 * (halve s v).2 - v).natAbs ≤ 1 := by
  have hfree : Config.freeBelow s.freeCtr 2 < 2 := freeBelow_lt _ (by decide)
  unfold halve
  split
  · omega
  · simp only
    omega

theorem halve_state (s : State) (v : Int) : ∃ k, (halve s v).1 = { s with freeCtr := k } := by
  unfold halve
  split
  · exact ⟨_, rfl⟩
  · exact ⟨_, rfl⟩

/-- Is an offset far enough for a step? -/
abbrev State.Far (s : State) (th : Int) : Prop :=
  s.bit Reg.timStatus 0 = false ∧ 2 * s.fld Reg.timServo 15 0 < th.natAbs

/-- A step by half of an offset, which is given in half nanoseconds. -/
def State.stepOff (s : State) (th : Int) : State :=
  let h := halve s th
  { addStep h.1 (-h.2) with tim := { (addStep h.1 (-h.2)).tim with sum := 0 } }

/-- The rate that slews by an offset over a period. -/
def State.slewRate (s : State) (th : Int) (per : Nat) : Int :=
  (s.tim.inc0 : Int) - divTrunc ((16 * th + (s.tim.sum + th)) * 2 ^ 27) per

/-- An offset joins the sum of offsets. -/
def State.sumOffset (s : State) (th : Int) : State := { s with tim := { s.tim with sum := s.tim.sum + th } }

/-- A slew by an offset over a period. -/
def State.slewOff (s : State) (th : Int) (per : Nat) : State := setInc (s.sumOffset th) (s.slewRate th per)

/-- The servo's answer to an offset that TIM_OFFSET shows. -/
def State.corrected (s : State) (th : Int) (per : Nat) : State :=
  if s.Far th then s.stepOff th else s.slewOff th per

/-- TIM_OFFSET shows an offset (R325). -/
def State.showOffset (s : State) (th : Int) : State := s.setFld Reg.timOffset 31 0 (codeN 32 th)

theorem servo_eq (s : State) (th : Int) (per : Nat) :
    servo s th per = syncOf ((s.showOffset th).corrected th per) th := by
  unfold servo State.corrected
  simp only [Bool.and_eq_true, Bool.not_eq_true', decide_eq_true_eq]
  rfl

theorem stepOff_facts (s : State) (th : Int) : ∃ h : Int, (2 * h - th).natAbs ≤ 1 ∧ (s.stepOff th).regs = s.regs ∧
    (s.stepOff th).tim = { s.tim with step := some (s.tim.step.getD 0 - h), sum := 0 } := by
  obtain ⟨k, hk⟩ := halve_state s th
  refine ⟨(halve s th).2, halve_near s th, ?_, ?_⟩
  · simp only [State.stepOff, addStep, hk]
  · simp only [State.stepOff, addStep, hk]
    rfl

/-- The registers that a correction writes. -/
def slewReg (o : Nat) : Bool := incReg o || sigReg o

theorem setInc_tim (hs : kvWf regReset s.regs = true) (v : Int) : (setInc s v).tim = s.tim := by
  obtain ⟨r, hr⟩ := (takeInc_writesOnly s v).same
  rw [(setInc_signals hs v).tim, hr]
  rfl

theorem setInc_regsBut (hs : kvWf regReset s.regs = true) (v : Int) : State.RegsBut slewReg s (setInc s v) :=
  .trans (.mono (fun _ h => (Bool.or_eq_false_iff.1 h).1) (takeInc_writesOnly s v).regs)
    (.mono (fun _ h => (Bool.or_eq_false_iff.1 h).2) (setInc_signals hs v).regs)

/-- TIM_INC reads as the rate held to its limits. -/
theorem setInc_fld (hs : kvWf regReset s.regs = true) (v : Int) :
    ((setInc s v).fld Reg.timInc 39 0 : Int) = clampI v incMin incMax := by
  have hu := ((takeInc_writesOnly s v).regs hs).1
  have hfld : (setInc s v).fld Reg.timInc 39 0 = (clampI v incMin incMax).toNat :=
    (congrArg (bitsOf · 39 0) (((setInc_signals hs v).regs hu).2 _ rfl)).trans (takeInc_fld hs v)
  rw [hfld, Int.toNat_of_nonneg (clampI_inc_range v).1]

theorem showOffset_regsBut (s : State) (th : Int) : State.RegsBut (· == Reg.timOffset) s (s.showOffset th) :=
  .setFld (by simp) (.refl _ s)

theorem showOffset_regs (hs : kvWf regReset s.regs = true) (th : Int) {o : Nat} (ho : o ≠ Reg.timOffset) :
    (s.showOffset th).reg o = s.reg o := State.reg_setFld_ne hs _ _ _ ho

theorem showOffset_far (hs : kvWf regReset s.regs = true) (th : Int) : (s.showOffset th).Far th ↔ s.Far th := by
  rw [State.Far, State.Far, State.bit, State.fld, showOffset_regs hs th (by decide), showOffset_regs hs th (by decide)]
  rfl

theorem codeN_lt (n : Nat) (v : Int) : codeN n v < 2 ^ n := by
  have hpos : (0 : Int) < ((2 ^ n : Nat) : Int) := by exact_mod_cast Nat.two_pow_pos n
  have hlt := Int.emod_lt_of_pos v hpos
  have hnonneg := Int.emod_nonneg v hpos.ne'
  rw [codeN]
  omega

theorem showOffset_fld (hs : kvWf regReset s.regs = true) (th : Int) :
    State.HasFld (s.showOffset th) Reg.timOffset 31 0 (codeN 32 th) :=
  .set hs (codeN_lt 32 th) (by decide) (by decide)

/-- The servo's own registers: the correction's, those of SYNC, and TIM_OFFSET. -/
def servoReg (o : Nat) : Bool := o == Reg.timOffset || o == Reg.timInc || syncReg o

theorem slewReg_of_servoReg {o : Nat} (h : servoReg o = false) : slewReg o = false := by
  simp only [servoReg, syncReg, Bool.or_eq_false_iff] at h
  simp [slewReg, incReg, h]

theorem syncReg_of_servoReg {o : Nat} (h : servoReg o = false) : syncReg o = false := by
  simp only [servoReg, Bool.or_eq_false_iff] at h
  exact h.2

theorem corrected_regsBut (s : State) (th : Int) (per : Nat) : State.RegsBut slewReg s (s.corrected th per) := by
  unfold State.corrected
  split
  · obtain ⟨h, -, hregs, -⟩ := stepOff_facts s th
    exact fun hs => ⟨by rwa [hregs], fun o _ => State.reg_of_regs hregs o⟩
  · exact fun hs => setInc_regsBut (s := s.sumOffset th) hs _ hs

/-- Neither correction touches the exchange and the PPS edge that it answers. -/
theorem corrected_tim (hs : kvWf regReset s.regs = true) (th : Int) (per : Nat) :
    let t := (s.corrected th per).tim
    t.edges = s.tim.edges ∧ t.got = s.tim.got ∧ t.ppsLast = s.tim.ppsLast := by
  unfold State.corrected
  split
  · obtain ⟨h, -, -, htim⟩ := stepOff_facts s th
    rw [htim]
    exact ⟨rfl, rfl, rfl⟩
  · rw [State.slewOff, setInc_tim (s := s.sumOffset th) hs]
    exact ⟨rfl, rfl, rfl⟩

section
variable {th : Int} {per : Nat} (hs : kvWf regReset s.regs = true)
include hs

theorem showOffset_wf : kvWf regReset (s.showOffset th).regs = true := State.setFld_wf hs ..

theorem corrected_wf : kvWf regReset ((s.showOffset th).corrected th per).regs = true :=
  (corrected_regsBut _ _ _ (showOffset_wf hs)).1

/-- What the servo leaves is the correction, but for SYNC. -/
theorem servo_apart : State.SyncApart ((s.showOffset th).corrected th per) (servo s th per) := by
  rw [servo_eq]
  exact syncOf_apart (corrected_wf hs) th

theorem servo_reg {o : Nat} (ho : syncReg o = false) :
    (servo s th per).reg o = ((s.showOffset th).corrected th per).reg o :=
  ((servo_apart hs).regs (corrected_wf hs)).2 o ho

theorem servo_frame : State.RegsBut servoReg s (servo s th per) :=
  .trans (.trans (.mono (fun o h => by simp_all [servoReg]) (showOffset_regsBut s th))
    (.mono (fun _ => slewReg_of_servoReg) (corrected_regsBut _ th per)))
    (.mono (fun _ => syncReg_of_servoReg) (servo_apart hs).regs)

theorem servo_offset : (servo s th per).fld Reg.timOffset 31 0 = codeN 32 th :=
  (congrArg (bitsOf · 31 0) (servo_reg hs rfl)).trans ((showOffset_fld hs th).regsBut (corrected_regsBut _ _ _) rfl).fld

theorem servo_tim : (servo s th per).tim.edges = s.tim.edges ∧ (servo s th per).tim.got = s.tim.got ∧
    (servo s th per).tim.ppsLast = s.tim.ppsLast := by
  rw [(servo_apart hs).tim]
  exact corrected_tim (showOffset_wf hs) th per

/-- An offset beyond UNLOCK_NS ends the lock. -/
theorem servo_unlocked (h : 2 * s.fld Reg.timServo 47 32 < th.natAbs) :
    (servo s th per).bit Reg.timStatus 0 = false := by
  have hservo : ((s.showOffset th).corrected th per).reg Reg.timServo = s.reg Reg.timServo :=
    ((corrected_regsBut _ _ _ (showOffset_wf hs)).2 _ rfl).trans (showOffset_regs hs th (by decide))
  rw [servo_eq]
  exact syncOf_unlocked (corrected_wf hs) (by rwa [State.fld, hservo])

/-- Far off, the servo steps by half of the offset. -/
theorem servo_steps (hfar : s.Far th) : ∃ h : Int, (2 * h - th).natAbs ≤ 1 ∧
    (servo s th per).tim.step = some (s.tim.step.getD 0 - h) ∧ (servo s th per).tim.sum = 0 ∧
    (servo s th per).fld Reg.timInc 39 0 = s.fld Reg.timInc 39 0 := by
  obtain ⟨h, hnear, hregs, htim⟩ := stepOff_facts (s.showOffset th) th
  have hcorr : (s.showOffset th).corrected th per = (s.showOffset th).stepOff th := if_pos ((showOffset_far hs th).2 hfar)
  refine ⟨h, hnear, ?_, ?_, congrArg (bitsOf · 39 0) ?_⟩
  · rw [(servo_apart hs).tim, hcorr, htim]
    rfl
  · rw [(servo_apart hs).tim, hcorr, htim]
  · rw [servo_reg hs rfl, hcorr, State.reg_of_regs hregs, showOffset_regs hs th (by decide)]

/-- Nearer, or locked, it slews (R318). -/
theorem servo_slews (hfar : ¬ s.Far th) : (servo s th per).tim.step = s.tim.step ∧
    (servo s th per).tim.sum = s.tim.sum + th ∧
    ((servo s th per).fld Reg.timInc 39 0 : Int) = clampI (s.slewRate th per) incMin incMax := by
  have hcorr : (s.showOffset th).corrected th per = (s.showOffset th).slewOff th per :=
    if_neg (mt (showOffset_far hs th).1 hfar)
  have hwf : kvWf regReset ((s.showOffset th).sumOffset th).regs = true := showOffset_wf hs
  have htim : ((s.showOffset th).slewOff th per).tim = { s.tim with sum := s.tim.sum + th } := setInc_tim hwf _
  refine ⟨?_, ?_, ?_⟩
  · rw [(servo_apart hs).tim, hcorr, htim]
  · rw [(servo_apart hs).tim, hcorr, htim]
  · rw [State.fld, servo_reg hs rfl, hcorr]
    exact setInc_fld hwf _

end

end

/-! ### ROLE_WRITE (R324, R326, R329) -/

/-- TIM_CTL with a role and an uplink. -/
def roleWord (w : Word) (role : BitVec 2) (up : Fin 8) : Word := putBits (putBits w 1 0 role.toNat) 6 4 up.val

/-- TIM_CTL as a write leaves it: its reserved bits are 0. -/
def keptCtl (w : Word) : Word := w &&& 0x1F3

section
variable {s : State} {role : BitVec 2} {up : Fin 8}

theorem roleWord_role (w : Word) (role : BitVec 2) (up : Fin 8) : bitsOf (roleWord w role up) 1 0 = role.toNat := by
  rw [roleWord, bitsOf_putBits_ne _ _ _ _ _ _ (by decide) (by decide) (.inl (by decide)),
    bitsOf_putBits _ _ _ _ (by decide) (by decide)]
  exact Nat.mod_eq_of_lt role.isLt

theorem roleWord_uplink (w : Word) (role : BitVec 2) (up : Fin 8) : bitsOf (roleWord w role up) 6 4 = up.val := by
  rw [roleWord, bitsOf_putBits _ _ _ _ (by decide) (by decide)]
  exact Nat.mod_eq_of_lt up.isLt

theorem roleWord_bit (w : Word) (role : BitVec 2) (up : Fin 8) {i : Nat} (hi : 6 < i) :
    bitOf (roleWord w role up) i = bitOf w i := by
  rw [roleWord, bitOf_putBits_ne _ _ _ _ _ (by decide) (by decide) (.inr hi),
    bitOf_putBits_ne _ _ _ _ _ (by decide) (by decide) (.inr (by omega))]

/-- The registers after ROLE and UPLINK are written. -/
def State.setRole (s : State) (role : BitVec 2) (up : Fin 8) : State :=
  s.setReg Reg.timCtl (keptCtl (roleWord (s.reg Reg.timCtl) role up))

theorem exec_roleWrite_same (h : role.toNat = s.fld Reg.timCtl 1 0) :
    exec (.roleWrite role up) s = .next (gatePps (s.setRole role up)) :=
  congrArg Host.Outcome.next (if_neg (not_not_intro ((roleWord_role _ role up).trans h)))

/-- A new role begins a new discipline from the present rate. -/
theorem exec_roleWrite_change (h : role.toNat ≠ s.fld Reg.timCtl 1 0) : exec (.roleWrite role up) s =
    let u := setSync (gatePps (s.setRole role up)) false
    .next { u with tim := { u.tim with inc0 := u.fld Reg.timInc 39 0, good := 0, edges := 0 } } :=
  congrArg Host.Outcome.next (if_pos (ne_of_eq_of_ne (roleWord_role _ role up) h))

/-- PPS_OUT that was active, gated before and after SYNC falls (R329). -/
theorem active_after_unlock : ∀ active enabled sync free : Bool,
    (active && (enabled && (sync || free)) && (!sync || (enabled && free))) = (active && enabled && free) := by decide

variable (hs : kvWf regReset s.regs = true)
include hs

theorem setRole_ctl : (s.setRole role up).reg Reg.timCtl = keptCtl (roleWord (s.reg Reg.timCtl) role up) := by
  rw [State.setRole, State.reg_setReg hs, if_pos rfl]

theorem setRole_role : (s.setRole role up).fld Reg.timCtl 1 0 = role.toNat := by
  rw [State.fld, setRole_ctl hs, keptCtl, bitsOf_and_mask _ _ (by decide), roleWord_role]

theorem setRole_uplink : (s.setRole role up).fld Reg.timCtl 6 4 = up.val := by
  rw [State.fld, setRole_ctl hs, keptCtl, bitsOf_and_mask _ _ (by decide), roleWord_uplink]

theorem setRole_bit {i : Nat} (hi : 6 < i) (hm : bitOf 0x1F3 i = true) :
    (s.setRole role up).bit Reg.timCtl i = s.bit Reg.timCtl i := by
  rw [State.bit, setRole_ctl hs, keptCtl, bitOf_and_mask _ _ hm, roleWord_bit _ _ _ hi]
  rfl

theorem setRole_reg {o : Nat} (ho : o ≠ Reg.timCtl) : (s.setRole role up).reg o = s.reg o :=
  State.reg_setReg_ne hs _ ho

theorem setRole_sync : (s.setRole role up).bit Reg.timStatus 0 = s.bit Reg.timStatus 0 :=
  congrArg (bitOf · 0) (setRole_reg hs (by decide))

theorem setRole_allowed : ppsAllowed (s.setRole role up) = ppsAllowed s := by
  rw [ppsAllowed, setRole_bit hs (by decide) (by decide), setRole_bit hs (by decide) (by decide), setRole_sync hs]
  rfl

theorem setRole_gated_wf : kvWf regReset (gatePps (s.setRole role up)).regs = true := by
  rw [gatePps_regs]
  exact State.setReg_wf hs ..

/-- A new role ends the lock, and with it a PPS_OUT that does not run free. -/
theorem setRole_unlocked_tim : (setSync (gatePps (s.setRole role up)) false).tim = { s.tim with
    ppsOut := s.tim.ppsOut && s.bit Reg.timCtl 7 && s.bit Reg.timCtl 8 } := by
  have hwf := setRole_gated_wf (role := role) (up := up) hs
  have hregs := gatePps_regs (s.setRole role up)
  rw [setSync_false_tim hwf, State.bit_of_regs hregs, State.bit_of_regs hregs, State.bit_of_regs hregs, gatePps_tim,
    setRole_bit hs (by decide) (by decide), setRole_bit hs (by decide) (by decide), setRole_sync hs, setRole_allowed hs,
    ppsAllowed]
  simp only [State.setRole, State.setReg_tim, active_after_unlock]

theorem roleWrite_change (h : role.toNat ≠ s.fld Reg.timCtl 1 0) : ∃ t, exec (.roleWrite role up) s = .next t ∧
    t.fld Reg.timCtl 1 0 = role.toNat ∧ t.fld Reg.timCtl 6 4 = up.val ∧ t.bit Reg.timStatus 0 = false ∧
    t.tim = { s.tim with
      inc0 := s.fld Reg.timInc 39 0, good := 0, edges := 0
      ppsOut := s.tim.ppsOut && s.bit Reg.timCtl 7 && s.bit Reg.timCtl 8 } ∧ t.mem = s.mem := by
  have hset : kvWf regReset (s.setRole role up).regs = true := State.setReg_wf hs ..
  have hgate := setRole_gated_wf (role := role) (up := up) hs
  have hall := (gatePps_apart (s.setRole role up)).trans (setSync_apart hgate false)
  have hbit := setSync_bit hgate false
  have htim := setRole_unlocked_tim (role := role) (up := up) hs
  rw [exec_roleWrite_change h]
  generalize setSync (gatePps (s.setRole role up)) false = u at hall hbit htim
  have hctl : u.reg Reg.timCtl = (s.setRole role up).reg Reg.timCtl := (hall.regs hset).2 _ rfl
  have hinc : u.fld Reg.timInc 39 0 = s.fld Reg.timInc 39 0 :=
    congrArg (bitsOf · 39 0) (((hall.regs hset).2 _ rfl).trans (setRole_reg hs (by decide)))
  refine ⟨_, rfl, (congrArg (bitsOf · 1 0) hctl).trans (setRole_role hs),
    (congrArg (bitsOf · 6 4) hctl).trans (setRole_uplink hs), hbit, ?_, hall.mem⟩
  simp only [htim, hinc]

theorem roleWrite_same (h : role.toNat = s.fld Reg.timCtl 1 0) : ∃ t, exec (.roleWrite role up) s = .next t ∧
    t = { s with regs := t.regs, tim := { s.tim with
      ppsOut := s.tim.ppsOut && (s.bit Reg.timCtl 7 && (s.bit Reg.timStatus 0 || s.bit Reg.timCtl 8)) } } ∧
    t.fld Reg.timCtl 6 4 = up.val ∧ ∀ o, o ≠ Reg.timCtl → t.reg o = s.reg o := by
  have hregs := gatePps_regs (s.setRole role up)
  refine ⟨_, exec_roleWrite_same h, ?_, (State.fld_of_regs hregs ..).trans (setRole_uplink hs),
    fun o ho => (State.reg_of_regs hregs o).trans (setRole_reg hs ho)⟩
  rw [gatePps_eq, setRole_allowed hs]
  rfl

end

/-! ### Exchanges (R325, R326; log 203) -/

section
variable {s : State}

theorem exec_exchangeReceive_back {l : Fin 8} {pkt : Packet} (hup : linkState s l.val = 2) (hp : pState s < 2)
    (htype : pkt.ptype = 0x20) (hother : ¬ (s.fld Reg.timCtl 1 0 = 3 ∧ s.fld Reg.timCtl 6 4 = l.val))
    (hsent : s.tim.sentAt.any (·.1 == l.val) = true) : exec (.exchangeReceive l pkt) s =
      .next { s with tim := { s.tim with backAt := (l.val, halfNs s) :: s.tim.backAt.filter (·.1 != l.val) } } := by
  show execExchangeReceive l pkt s = _
  rw [execExchangeReceive, if_neg (by simp [hup, htype, hp]), if_neg hother, if_pos hsent]

theorem exec_exchangeReceive_uplink {l : Fin 8} {pkt : Packet} (hslave : s.fld Reg.timCtl 1 0 = 3)
    (huplink : s.fld Reg.timCtl 6 4 = l.val) (hup : linkState s l.val = 2) (hp : pState s < 2)
    (htype : pkt.ptype = 0x20) : exec (.exchangeReceive l pkt) s =
      .next (transmit { s with tim := { s.tim with got := some (halfNs s, halfNs s) } } l.val
        { pkt with src := BitVec.ofNat 10 s.node, dst := pkt.src, hops := 0 } false) := by
  show execExchangeReceive l pkt s = _
  rw [execExchangeReceive, if_neg (by simp [hup, htype, hp]), if_pos ⟨hslave, huplink⟩]
  rfl

theorem exec_exchangeLoss_few (h : s.tim.edges < 16) : exec .exchangeLoss s = .next s := by
  show execExchangeLoss s = _
  rw [execExchangeLoss, if_neg (by omega)]

/-- The count of edges without an exchange begins anew. -/
def State.clearEdges (s : State) : State := { s with tim := { s.tim with edges := 0 } }

theorem exec_exchangeLoss_many (hslave : s.fld Reg.timCtl 1 0 = 3) (h : 16 ≤ s.tim.edges) :
    exec .exchangeLoss s = .next (setSync (sticky s.clearEdges Reg.timErr 1 (some 177)) false) := by
  show execExchangeLoss s = _
  rw [execExchangeLoss, if_pos ⟨hslave, h⟩]
  rfl

/-- Sixteen edges without an exchange set NO_EXCHANGE and end the lock. -/
theorem exchangeLoss_many (hs : kvWf regReset s.regs = true) (hslave : s.fld Reg.timCtl 1 0 = 3) (h : 16 ≤ s.tim.edges) :
    ∃ t, exec .exchangeLoss s = .next t ∧ t.bit Reg.timErr 1 = true ∧ t.bit Reg.timStatus 0 = false ∧
      t.tim = { s.tim with
        edges := 0
        ppsOut := s.tim.ppsOut && (!s.bit Reg.timStatus 0 || (s.bit Reg.timCtl 7 && s.bit Reg.timCtl 8)) } ∧
      t.mem = s.mem := by
  have hset : kvWf regReset (s.clearEdges.setBit Reg.timErr 1 true).regs = true := State.setBit_wf hs ..
  have hsig : State.Signals (s.clearEdges.setBit Reg.timErr 1 true) (sticky s.clearEdges Reg.timErr 1 (some 177)) :=
    sticky_signals_setBit (s := s.clearEdges) hs (by decide) (by simp)
  have herr := (hsig.bit_eq hset rfl 1).trans (State.bit_setBit (s := s.clearEdges) hs _ _ _ (by decide))
  have hbit (i : Nat) {o : Nat} (hne : o ≠ Reg.timErr) (ho : sigReg o = false) :
      (sticky s.clearEdges Reg.timErr 1 (some 177)).bit o i = s.bit o i :=
    (hsig.bit_eq hset ho i).trans (bit_setBit_ne (s := s.clearEdges) hs (by decide) (.inl hne))
  rw [exec_exchangeLoss_many hslave h]
  generalize sticky s.clearEdges Reg.timErr 1 (some 177) = u at hsig herr hbit
  have hu := (hsig.regs hset).1
  refine ⟨_, rfl, (setSync_err hu false (by decide)).trans herr, setSync_bit hu false, ?_,
    (setSync_apart hu false).mem.trans hsig.mem⟩
  rw [setSync_false_tim hu, hbit 0 (by decide) rfl, hbit 7 (by decide) rfl, hbit 8 (by decide) rfl, hsig.tim]
  rfl

/-- A completed exchange shows its delay, and no other waits. -/
def State.takeExchange (s : State) (delay : Int) : State :=
  let t := s.setFld Reg.timDelay 31 0 (codeN 32 delay)
  { t with tim := { t.tim with edges := 0, got := none } }

theorem takeExchange_regsBut (s : State) (delay : Int) : State.RegsBut (· == Reg.timDelay) s (s.takeExchange delay) :=
  State.RegsBut.setFld (by simp) (.refl _ s)

theorem takeExchange_fld (hs : kvWf regReset s.regs = true) (delay : Int) :
    State.HasFld (s.takeExchange delay) Reg.timDelay 31 0 (codeN 32 delay) :=
  have h : State.HasFld (s.setFld Reg.timDelay 31 0 (codeN 32 delay)) Reg.timDelay 31 0 (codeN 32 delay) :=
    .set hs (codeN_lt 32 delay) (by decide) (by decide)
  ⟨h.wf, h.fld⟩

/-- The result of an exchange goes to TIM_DELAY and to the servo. -/
theorem exec_exchangeResult {t1 t2 t3 t4 : Nat} (hs : kvWf regReset s.regs = true) (hslave : s.fld Reg.timCtl 1 0 = 3)
    (hp : pState s < 2) (hup : linkState s (s.fld Reg.timCtl 6 4) = 2) (hstamped : stampedHere s t2 t3 = true) :
    let a : Int := (t2 : Int) - t1
    let b : Int := (t4 : Int) - t3
    ∃ (k : Nat) (delay th : Int), (2 * delay - (a + b)).natAbs ≤ 1 ∧ (2 * th - (a - b)).natAbs ≤ 1 ∧
      exec (.exchangeResult t1 t2 t3 t4) s =
        .next (servo (({ s with freeCtr := k } : State).takeExchange delay) th (lampPeriod s)) := by
  intro a b
  obtain ⟨k, hk⟩ := halve_state s (a + b)
  obtain ⟨m, hm⟩ := halve_state (halve s (a + b)).1 (a - b)
  have hfree : (halve (halve s (a + b)).1 (a - b)).1 = { s with freeCtr := m } := by rw [hm, hk]
  have hper (delay : Int) : lampPeriod (({ s with freeCtr := m } : State).takeExchange delay) = lampPeriod s :=
    congrArg (bitsOf · 34 8) ((takeExchange_regsBut _ delay hs).2 _ rfl)
  refine ⟨m, (halve s (a + b)).2, (halve (halve s (a + b)).1 (a - b)).2, halve_near .., halve_near .., ?_⟩
  rw [← hper (halve s (a + b)).2, ← hfree]
  show execExchangeResult t1 t2 t3 t4 s = _
  rw [execExchangeResult, if_pos ⟨hslave, hp, hup, hstamped⟩]
  rfl

/-- A result sets DELAY and OFFSET, and steps or slews (R325, R326). -/
theorem exchangeResult_facts {t1 t2 t3 t4 : Nat} (hs : kvWf regReset s.regs = true) (hslave : s.fld Reg.timCtl 1 0 = 3)
    (hp : pState s < 2) (hup : linkState s (s.fld Reg.timCtl 6 4) = 2) (hstamped : stampedHere s t2 t3 = true) :
    let a : Int := (t2 : Int) - t1
    let b : Int := (t4 : Int) - t3
    ∃ (t : State) (delay th h : Int), exec (.exchangeResult t1 t2 t3 t4) s = .next t ∧
      (2 * delay - (a + b)).natAbs ≤ 1 ∧ (2 * th - (a - b)).natAbs ≤ 1 ∧ (2 * h - th).natAbs ≤ 1 ∧
      t.tim.edges = 0 ∧ t.tim.got = none ∧ t.fld Reg.timDelay 31 0 = codeN 32 delay ∧
      t.fld Reg.timOffset 31 0 = codeN 32 th ∧
      (s.Far th → t.tim.step = some (s.tim.step.getD 0 - h) ∧ t.tim.sum = 0 ∧
        t.fld Reg.timInc 39 0 = s.fld Reg.timInc 39 0) ∧
      (¬ s.Far th → t.tim.step = s.tim.step ∧ t.tim.sum = s.tim.sum + th ∧
        (t.fld Reg.timInc 39 0 : Int) = clampI (s.slewRate th (lampPeriod s)) incMin incMax) ∧
      (2 * s.fld Reg.timServo 47 32 < th.natAbs → t.bit Reg.timStatus 0 = false) := by
  intro a b
  obtain ⟨k, delay, th, hdelay, hth, hexec⟩ := exec_exchangeResult hs hslave hp hup hstamped
  obtain ⟨hx, hxreg⟩ := takeExchange_regsBut { s with freeCtr := k } delay hs
  have hshown := takeExchange_fld (s := { s with freeCtr := k }) hs delay
  have htim : (({ s with freeCtr := k } : State).takeExchange delay).tim = { s.tim with edges := 0, got := none } := rfl
  rw [hexec]
  generalize ({ s with freeCtr := k } : State).takeExchange delay = x at hx hxreg hshown htim
  have hsync : x.bit Reg.timStatus 0 = s.bit Reg.timStatus 0 := congrArg (bitOf · 0) (hxreg _ rfl)
  have hservo (hi lo : Nat) : x.fld Reg.timServo hi lo = s.fld Reg.timServo hi lo :=
    congrArg (bitsOf · hi lo) (hxreg _ rfl)
  have hinc : x.fld Reg.timInc 39 0 = s.fld Reg.timInc 39 0 := congrArg (bitsOf · 39 0) (hxreg _ rfl)
  have hfar : x.Far th ↔ s.Far th := by rw [State.Far, State.Far, hsync, hservo]
  have hrate : x.slewRate th (lampPeriod s) = s.slewRate th (lampPeriod s) := by rw [State.slewRate, htim]; rfl
  obtain ⟨hedges, hgot, -⟩ := servo_tim (th := th) (per := lampPeriod s) hx
  rw [htim] at hedges hgot
  have hkept := (hshown.regsBut (servo_frame (th := th) (per := lampPeriod s) hx) rfl).fld
  have hunlock : 2 * s.fld Reg.timServo 47 32 < th.natAbs → _ := fun h =>
    servo_unlocked (per := lampPeriod s) hx (by rwa [hservo])
  by_cases h : s.Far th
  · obtain ⟨half, hnear, hstep, hsum, hrate'⟩ := servo_steps (per := lampPeriod s) hx (hfar.2 h)
    rw [htim] at hstep
    exact ⟨_, delay, th, half, rfl, hdelay, hth, hnear, hedges, hgot, hkept, servo_offset hx,
      fun _ => ⟨hstep, hsum, hrate'.trans hinc⟩, fun hn => absurd h hn, hunlock⟩
  · obtain ⟨hstep, hsum, hrate'⟩ := servo_slews (per := lampPeriod s) hx (mt hfar.1 h)
    rw [htim] at hstep hsum
    rw [hrate] at hrate'
    exact ⟨_, delay, th, (halve s th).2, rfl, hdelay, hth, halve_near s th, hedges, hgot, hkept, servo_offset hx,
      fun hf => absurd hf h, fun _ => ⟨hstep, hsum, hrate'⟩, hunlock⟩

end

/-! ### PPS_IN and PPS_OUT (R328, R329; log 3) -/

section
variable {s : State}

/-- Does an edge come less than 0.5 s after the last accepted one? -/
abbrev State.PpsGlitch (s : State) : Prop := ∃ k, s.tim.ppsLast = some k ∧ s.tim.ticks < k + 62500000

/-- An accepted edge is stamped. -/
def State.stampPps (s : State) : State :=
  { s.setReg Reg.timPpsStamp (BitVec.ofNat 64 s.now) with tim := { s.tim with ppsLast := some s.tim.ticks } }

theorem stampPps_regsBut (s : State) : State.RegsBut (· == Reg.timPpsStamp) s s.stampPps :=
  State.RegsBut.setReg (by simp) (.refl _ s)

theorem stampPps_stamp (hs : kvWf regReset s.regs = true) : s.stampPps.reg Reg.timPpsStamp = BitVec.ofNat 64 s.now :=
  (State.reg_setReg hs ..).trans (if_pos rfl)

theorem exec_ppsEdge_glitch (h : s.PpsGlitch) : exec .ppsEdge s = .next (sticky s Reg.timErr 3 (some 179)) := by
  obtain ⟨k, hlast, hlt⟩ := h
  show execPpsEdge s = _
  simp [execPpsEdge, hlast, hlt]

/-- An accepted edge is stamped, and is an offset to the servo of a PPS master. -/
theorem exec_ppsEdge_accepted (hs : kvWf regReset s.regs = true) (h : ¬ s.PpsGlitch) : exec .ppsEdge s =
    .next (if s.fld Reg.timCtl 1 0 = 1
      then servo s.stampPps (2 * ppsTheta s.now (s.fld Reg.timPpsOffset 29 0)) 1000000000 else s.stampPps) := by
  have hrole : s.stampPps.fld Reg.timCtl 1 0 = s.fld Reg.timCtl 1 0 :=
    congrArg (bitsOf · 1 0) ((stampPps_regsBut s hs).2 _ rfl)
  have hoff : s.stampPps.fld Reg.timPpsOffset 29 0 = s.fld Reg.timPpsOffset 29 0 :=
    congrArg (bitsOf · 29 0) ((stampPps_regsBut s hs).2 _ rfl)
  have haccept : exec .ppsEdge s =
      if s.stampPps.fld Reg.timCtl 1 0 = 1
      then .next (servo s.stampPps (2 * ppsTheta s.stampPps.now (s.stampPps.fld Reg.timPpsOffset 29 0)) 1000000000)
      else .next s.stampPps := by
    show execPpsEdge s = _
    cases hlast : s.tim.ppsLast with
    | none => simp only [execPpsEdge, hlast, Bool.false_eq_true, if_false]; rfl
    | some k =>
      have hlate : decide (s.tim.ticks < k + 62500000) = false := decide_eq_false fun hlt => h ⟨k, hlast, hlt⟩
      simp only [execPpsEdge, hlast, hlate, Bool.false_eq_true, if_false]
      rfl
  rw [haccept, hrole, hoff, apply_ite Host.Outcome.next]
  rfl

/-- PPS_OUT may not start while it is not allowed. -/
theorem exec_ppsOutStart_barred (h : ppsAllowed s = false) : exec .ppsOutStart s = .next s := by
  show execPpsOutStart s = _
  rw [execPpsOutStart, if_neg (by rw [← ppsAllowed, h]; decide)]

/-- PPS_OUT is active from here on. -/
def State.startPps (s : State) : State := { s with tim := { s.tim with ppsOut := true, ppsAt := s.tim.ticks } }

/-- PPS_OUT goes active where the counter runs and a second begins. -/
def State.startPpsAtSecond (s : State) : State :=
  if s.tim.n % 1000000000 < 8 ∧ s.tim.running = true then gatePps s.startPps else s

theorem exec_ppsOutStart_allowed (h : ppsAllowed s = true) (hstep : s.tim.step = none) : exec .ppsOutStart s = .next
    (if s.tim.n % 1000000000 < 8 then s
      else runTo s ((s.tim.n / 1000000000 + 1) * 1000000000)).startPpsAtSecond := by
  show execPpsOutStart s = _
  rw [execPpsOutStart, if_pos (by rw [← ppsAllowed, h]), hstep]
  rfl

theorem exec_ppsOutEnd_inactive (h : s.tim.ppsOut = false) : exec .ppsOutEnd s = .next s := by
  show execPpsOutEnd s = _
  simp [execPpsOutEnd, h]

theorem exec_ppsOutEnd_active (h : s.tim.ppsOut = true) : exec .ppsOutEnd s =
    let u := runTicks s (s.tim.ppsAt + 12500)
    .next { u with tim := { u.tim with ppsOut := false } } := by
  show execPpsOutEnd s = _
  simp [execPpsOutEnd, h]

end

/-! ### PTP stamps (R331; log 202) -/

section
variable {s : State} {port : Fin 2}

theorem exec_ptpTxStamp_stopped (h : portsOn s = false) (m : PtpMode) : exec (.ptpTxStamp port m) s = .next s := by
  show execPtpTxStamp port m s = _
  simp [execPtpTxStamp, h]

theorem exec_ptpTxStamp_oneStep (h : portsOn s = true) (frame : List Byte) :
    exec (.ptpTxStamp port (.oneStep frame)) s = .next { s with tim := { s.tim with
      oneStep := (port.val, oneStepFrame frame s.tim.n) :: s.tim.oneStep } } := by
  show execPtpTxStamp port (.oneStep frame) s = _
  simp [execPtpTxStamp, h]

/-- What TIM_ETHn_TX takes: the stamp and the sequenceId. -/
def State.txStamp (s : State) (id : BitVec 16) : Word := BitVec.ofNat 64 (s.tim.n % 2 ^ 48 + id.toNat * 2 ^ 48)

theorem exec_ptpTxStamp_twoStep (h : portsOn s = true) (id : BitVec 16) : exec (.ptpTxStamp port (.twoStep id)) s =
    .next (sticky (s.setReg (Reg.timEthTx port.val) (s.txStamp id)) Reg.timErr 4 (some 180)) := by
  show execPtpTxStamp port (.twoStep id) s = _
  simp [execPtpTxStamp, h, State.txStamp]

theorem timEthTx_lt (port : Fin 2) : Reg.timEthTx port.val < Reg.timErr := by
  have := port.isLt
  simp only [Reg.timEthTx, Reg.timErr]
  omega

theorem timEthTx_unsignalled (port : Fin 2) : sigReg (Reg.timEthTx port.val) = false := by
  have := timEthTx_lt port
  have hlow : 0x30000 ≤ Reg.timEthTx port.val := by simp only [Reg.timEthTx]; omega
  simp only [Reg.timErr] at this
  simp only [sigReg, Reg.hstMsixPba, Bool.or_eq_false_iff, Bool.and_eq_false_iff, decide_eq_false_iff_not,
    beq_eq_false_iff_ne]
  omega

/-- A two-step stamp goes to its register, and TX_STAMP is set. -/
theorem ptpTxStamp_twoStep (hs : kvWf regReset s.regs = true) (h : portsOn s = true) (id : BitVec 16) :
    ∃ t u, exec (.ptpTxStamp port (.twoStep id)) s = .next t ∧ u = { s with regs := u.regs } ∧ State.Signals u t ∧
      (∀ o, o ∉ [Reg.timEthTx port.val, Reg.timErr] → u.reg o = s.reg o) ∧ t.bit Reg.timErr 4 = true ∧
      t.reg (Reg.timEthTx port.val) = s.txStamp id := by
  let v := s.setReg (Reg.timEthTx port.val) (s.txStamp id)
  have hv : kvWf regReset v.regs = true := State.setReg_wf hs ..
  have hu : kvWf regReset (v.setBit Reg.timErr 4 true).regs = true := State.setBit_wf hv ..
  have hsig : State.Signals (v.setBit Reg.timErr 4 true) (sticky v Reg.timErr 4 (some 180)) :=
    sticky_signals_setBit hv (by decide) (by simp)
  refine ⟨_, v.setBit Reg.timErr 4 true, exec_ptpTxStamp_twoStep h id, rfl, hsig, fun o ho => ?_,
    (hsig.bit_eq hu rfl 4).trans (State.bit_setBit hv _ _ _ (by decide)), ?_⟩
  · simp only [List.mem_cons, List.not_mem_nil, or_false, not_or] at ho
    rw [State.reg_setBit_ne hv _ _ ho.2, State.reg_setReg_ne hs _ ho.1]
  · rw [(hsig.regs hu).2 _ (timEthTx_unsignalled port), State.reg_setBit_ne hv _ _ (timEthTx_lt port).ne,
      State.reg_setReg hs, if_pos rfl]

end

/-- Settles O35: a role, an exchange and a pulse each reach the counter through SYNC and the servo, whose registers lie apart
from their own. -/
theorem timeRolesPulsesAndExchanges : Obligations.TimeRolesPulsesAndExchanges := by
  refine ⟨fun s role up pkt t1 t2 t3 t4 hinv => ?_, fun s port id frame hinv => ?_⟩
  · have hs := hinv.canon.regs
    exact ⟨roleWrite_change hs, roleWrite_same hs, exec_exchangeReceive_back, fun hslave =>
      ⟨exec_exchangeReceive_uplink hslave, exec_exchangeLoss_few, exchangeLoss_many hs hslave,
        exchangeResult_facts hs hslave⟩⟩
  · have hs := hinv.canon.regs
    intro glitch
    refine ⟨fun h => ?_, fun h hrole => ?_, fun h hrole => ?_,
      fun hen hsync hstep => ⟨fun hn hrun => ?_, fun hn => ?_⟩,
      fun h => ?_, exec_ppsOutEnd_inactive, exec_ppsOutEnd_active,
      fun hon => ⟨ptpTxStamp_twoStep hs hon id, exec_ptpTxStamp_oneStep hon frame⟩, exec_ptpTxStamp_stopped⟩
    · have hsig : State.Signals (s.setBit Reg.timErr 3 true) (sticky s Reg.timErr 3 (some 179)) :=
        sticky_signals_setBit hs (by decide) (by simp)
      have hset : kvWf regReset (s.setBit Reg.timErr 3 true).regs = true := State.setBit_wf hs ..
      exact ⟨_, exec_ppsEdge_glitch h, hsig.tim, (hsig.bit_eq hset rfl 3).trans (State.bit_setBit hs _ _ _ (by decide)),
        ((hsig.regs hset).2 _ rfl).trans (State.reg_setBit_ne hs _ _ (by decide))⟩
    · rw [exec_ppsEdge_accepted hs h, if_neg hrole]
      rfl
    · have hx := (stampPps_regsBut s hs).1
      rw [exec_ppsEdge_accepted hs h, if_pos hrole]
      exact ⟨_, rfl, ((servo_frame hx hx).2 _ rfl).trans (stampPps_stamp hs), (servo_tim hx).2.2, servo_offset hx⟩
    · have hallowed : ppsAllowed s = true := by simpa [ppsAllowed, hen] using hsync
      rw [exec_ppsOutStart_allowed hallowed hstep, if_pos hn, State.startPpsAtSecond, if_pos ⟨hn, hrun⟩,
        gatePps_allowed (s := s.startPps) hallowed]
      rfl
    · have hallowed : ppsAllowed s = true := by simpa [ppsAllowed, hen] using hsync
      rw [exec_ppsOutStart_allowed hallowed hstep, if_neg (by omega)]
      rfl
    · refine exec_ppsOutStart_barred ?_
      rcases h with h | ⟨hsync, hfree⟩
      · simp [ppsAllowed, h]
      · simp [ppsAllowed, hsync, hfree]

end Sys2Proof.Machine
end

section
/-! PROOFS. The solver's area and its records: SOLVER_ENABLE, LOAD, DROP, SOLVE and the BODY modes (R335, R340, R341, R343,
R344, R347, R360, R361; log 45, log 107, log 194). -/

namespace Sys2Proof.Machine

/-! ### SOLVER_ENABLE (R343, R361; log 45) -/

section
variable {s : State}

/-- The area lies below managed T2 and meets neither a strand pool nor the Bramble area. -/
@[reducible] def SlvClear (s : State) : Prop :=
  (slvSpan s).1 + (slvSpan s).2 ≤ s.fld Reg.tirT2Base 14 0 ∧
    (∀ c, c < 8 → spansMeet (slvSpan s) (poolSpan s c) = false) ∧
    spansMeet (slvSpan s) (s.fld Reg.brcArea 34 20, s.fld Reg.brcArea 14 0) = false

/-- The enable is a write of SLV_CTL with EN set, so a solver that is off judges its area. -/
theorem exec_solverEnable (hoff : slvOn s = false) : exec .solverEnable s = .next (
    if SlvClear s then { (s.setBit Reg.slvCtl 0 true) with slv := { s.slv with structs := [] } }
    else sticky s Reg.slvErr 5 (some 164)) := by
  have hbit : bitOf (putBits (s.reg Reg.slvCtl) 0 0 1) 0 = true := bitOf_putBits _ 0 true (by decide)
  show execSolverEnable s = _
  simp only [execSolverEnable, writeSlvCtl, hoff, hbit, Bool.not_true, Bool.or_false, Bool.false_eq_true, if_false,
    Bool.and_eq_true, decide_eq_true_eq, List.all_eq_true, List.mem_range, Bool.not_eq_true', and_assoc]

/-- Setting bit 5 of SLV_ERR does not reach SLV_CTL. -/
theorem slvOn_sticky_areaError (hs : kvWf regReset s.regs = true) :
    slvOn (sticky s Reg.slvErr 5 (some 164)) = slvOn s := by
  have hsig : State.Signals (s.setBit Reg.slvErr 5 true) (sticky s Reg.slvErr 5 (some 164)) :=
    sticky_signals_setBit hs (by decide) (by simp)
  rw [slvOn, hsig.bit_eq (State.setBit_wf hs ..) (by decide), bit_setBit_ne hs (by decide) (.inl (by decide))]
  rfl

end

/-! ### A record does its work (R340, R341) -/

/-- Is a record of JTYPE `ty`, and of MODE `mode` where one is named? -/
def isRecord (ty : Nat) (mode : Option Nat) (raw : List Byte) : Bool := slvType raw == ty && mode.all (slvMode raw == ·)

theorem isRecord_iff {ty : Nat} {mode : Option Nat} {raw : List Byte} :
    isRecord ty mode raw = true ↔ slvType raw = ty ∧ ∀ m, mode = some m → slvMode raw = m := by
  simp [isRecord, Option.all_eq_true]

section
variable {s : State} {u : Nat} {is : List Byte → Bool} {work : State → UJob → State × SlvEnd} {j : UJob}

theorem workSlv_congr {is' : List Byte → Bool} (h : ∀ raw, is raw = is' raw) : workSlv s u is work = workSlv s u is' work := by
  rw [funext h]

/-- Work that gives no CRC ends its record without a sample. -/
theorem workSlv_unsampled (hrun : (slvUnit s u).run = some j) (hlive : runAborted s j.q.run = false)
    (his : is j.current = true) (hcrc : (work s j).2.crc = none) :
    workSlv s u is work = nextRecord (postChecks (chargeDomain s j.q.run.dom (work s j).1) []) u j (work s j).2.status
      (work s j).2.mst (work s j).2.reason (work s j).2.out := by
  simp only [workSlv, hrun, his, Bool.not_true, hlive, Bool.false_eq_true, if_false, hcrc, Option.toList_none]

/-- Work that gives a CRC has its result sampled, with the structure as it stood before the work. -/
theorem workSlv_sampled {ty crc : Nat} (hrun : (slvUnit s u).run = some j) (hlive : runAborted s j.q.run = false)
    (his : is j.current = true) (htype : slvType j.current = ty) (hcrc : (work s j).2.crc = some crc) :
    let x := sampleResult (chargeDomain s j.q.run.dom (work s j).1) (144 + u) 2 ty (wordAt j.current 48) crc j.start 0 0 []
      (some { j with old := ⟨[], []⟩ }) (structOf s (slvSid j.current))
    workSlv s u is work = nextRecord (postChecks x.1 x.2.toList) u j (work s j).2.status (work s j).2.mst
      (work s j).2.reason (work s j).2.out := by
  intro x
  simp only [workSlv, hrun, his, Bool.not_true, hlive, Bool.false_eq_true, if_false, hcrc, htype, x]

end

/-- Settles O40: the enable by its check of the area, and the seven commands by the one lemma of a record's work, each with
the test of its own record. -/
theorem solverRecordsDoTheirWork : Obligations.SolverRecordsDoTheirWork := by
  refine ⟨fun s => ?_, fun s u j hrun hlive c hc htype hmode => ?_⟩
  · intro area ok hoff
    exact ⟨fun hok => (exec_solverEnable hoff).trans (congrArg _ (if_pos hok)), fun hbad =>
      ⟨_, (exec_solverEnable hoff).trans (congrArg _ (if_neg hbad)), rfl, fun hinv =>
        (slvOn_sticky_areaError hinv.canon.regs).trans hoff⟩⟩
  · intro r v
    have hexec : exec c.1 s = .next (workSlv s u.val (isRecord c.2.1 c.2.2.1) c.2.2.2) := by
      simp only [List.mem_cons, List.not_mem_nil, or_false] at hc
      rcases hc with rfl | rfl | rfl | rfl | rfl | rfl | rfl
      all_goals exact congrArg Host.Outcome.next (workSlv_congr fun raw => by simp [isRecord])
    have his : isRecord c.2.1 c.2.2.1 j.current = true := isRecord_iff.2 ⟨htype, hmode⟩
    exact ⟨fun hcrc => hexec.trans (congrArg _ (workSlv_unsampled hrun hlive his hcrc)),
      fun crc hcrc => hexec.trans (congrArg _ (workSlv_sampled hrun hlive his htype hcrc))⟩

/-! ### LOAD (R344, R347; log 41, log 107, log 194) -/

/-- FILL of a structure (R341). -/
def Struct.fill (st : Struct) : Nat := fillCount (fillPattern st.pattern)

/-- The bytes of the area that a structure takes (log 41). -/
def Struct.areaBytes (st : Struct) : Nat :=
  Config.solverBytes st.body (st.blks.length + st.joints.length) st.facs.length
    ((st.facs.map (·.params.length)).foldl (· + ·) 0) st.fill

/-- One more structure of `size` bytes is within the count and fits into the area (R344). -/
@[reducible] def SlvRoom (s : State) (size : Nat) : Prop :=
  s.slv.structs.length < 256 ∧ (s.slv.structs.map (·.bytes)).foldl (· + ·) 0 + size ≤ (slvSpan s).2 * 0x100000

section
variable {s d h v : State} {cls : Nat} {raw bytes : List Byte} {es : List (List Byte)} {st : Struct}

/-- A LOAD whose deltas and structure record pass is judged by the room for what the deltas leave. -/
theorem runLoad_valid (hdeltas : readDeltas s cls raw = (d, stOK, es)) (halone : es.any (deltaBadAlone false) = false)
    (hread : unitRead d (wordAt raw 32) 64 cls none = (h, stOK, bytes)) (hkind : u8At bytes 0 ≤ 1)
    (hzero : allZero (sliceB bytes 1 3) = true) (hword : u32At bytes 12 = 0) (htail : u64At bytes 56 = 0)
    (hstruct : (if u8At bytes 0 = 0 then readLsq h cls bytes (slvSid raw) else readBody h cls bytes (slvSid raw)) =
      (v, stOK, some st)) (hpass : es.any (deltaBad st false) = false) :
    let new := es.foldl applyDelta st
    runLoad s cls raw = if SlvRoom v new.areaBytes then
        (areaStirred { v with slv := { v.slv with structs := v.slv.structs ++ [{ new with bytes := new.areaBytes }] } },
          ⟨1, 0, 0, { SlvOut.none with cost0 := new.fill, cost := new.areaBytes }, none⟩)
      else (v, .stop 2 0 7) := by
  intro new
  have hrecord : ¬ (1 < u8At bytes 0 ∨ (!allZero (sliceB bytes 1 3)) = true ∨ u32At bytes 12 ≠ 0 ∨ u64At bytes 56 ≠ 0) := by
    simp [hkind, hzero, hword, htail]
  have hroom : (256 ≤ v.slv.structs.length ∨
      (slvSpan v).2 * 0x100000 < (v.slv.structs.map (·.bytes)).foldl (· + ·) 0 + new.areaBytes) ↔
        ¬ SlvRoom v new.areaBytes := by
    rw [SlvRoom, not_and_or, Nat.not_lt, Nat.not_le]
  simp only [runLoad, hdeltas, hread, if_true, ne_eq, not_true_eq_false, halone, Bool.false_eq_true, if_false,
    if_neg hrecord, hstruct, hpass]
  exact (if_congr hroom rfl rfl).trans (ite_not ..)

end

/-! ### DROP (R344, R347) -/

section
variable {s d : State} {cls : Nat} {raw : List Byte}

/-- A structure stays in a list that loses only those of another ID. -/
theorem find_filter_sid_ne {l : List Struct} {sid gone : Word} (hne : sid ≠ gone) :
    (l.filter (·.sid != gone)).find? (·.sid == sid) = l.find? (·.sid == sid) := by
  rw [List.find?_filter]
  refine congrArg (List.find? · l) (funext fun k => ?_)
  by_cases hk : k.sid = sid <;> simp [hk, hne]

theorem find_filter_sid_same (l : List Struct) (gone : Word) :
    (l.filter (·.sid != gone)).find? (·.sid == gone) = none := by
  simp

theorem runDrop_error {e : SlvEnd} (hcheck : checkDeltas s cls raw = (d, .error e)) : runDrop s cls raw = (d, e) := by
  simp only [runDrop, hcheck]

theorem runDrop_ok {p : Struct × List (List Byte)} (hcheck : checkDeltas s cls raw = (d, .ok p)) : runDrop s cls raw =
    ({ d with slv := { d.slv with structs := d.slv.structs.filter (·.sid != slvSid raw) } }, ⟨1, 0, 0, .none, none⟩) := by
  simp only [runDrop, hcheck]

end

/-- Settles O41: a LOAD that passes its checks turns on the room alone, and a DROP filters its own ID out. -/
theorem structuresAreLoadedAndDropped : Obligations.StructuresAreLoadedAndDropped := by
  refine fun s cls raw => ⟨?_, fun d st es hcheck => ?_, fun d e => runDrop_error⟩
  · intro d h v es bytes st new fill words size r hdeltas halone hread hkind hzero hword htail hstruct hpass
    have hload : r = _ := runLoad_valid hdeltas halone hread hkind hzero hword htail hstruct hpass
    by_cases hroom : SlvRoom v new.areaBytes
    · rw [if_pos hroom] at hload
      rw [hload]
      exact (if_pos hroom).mpr ⟨rfl, rfl, rfl, rfl⟩
    · rw [if_neg hroom] at hload
      rw [hload]
      exact (if_neg hroom).mpr ⟨rfl, rfl, rfl⟩
  · intro r
    have hdrop : r = _ := runDrop_ok hcheck
    rw [hdrop]
    exact ⟨rfl, rfl, find_filter_sid_same .., fun sid hne => find_filter_sid_ne hne⟩

end Sys2Proof.Machine
end

section
/-! PROOFS. Fuses and OTP are written one way (R464, R468, R471). -/

namespace Sys2Proof.Machine

/-- An outcome that keeps what `State.Keeps` says clears no fuse. -/
theorem outKeeps_fuses {s t : State} {o : Host.Outcome State Fault Refusal} (h : OutKeeps s o) (ht : o = .next t)
    (hi : s.Inv) : Fuses.Rises s.fuses t.fuses := by
  subst ht
  exact State.Keeps.fuses h hi

/-- Settles O5: each command's effect, and the idle tick, let the fuses only rise. -/
theorem fusesOnlyRise : Obligations.FusesOnlyRise := by
  intro s t hs ht
  unfold step at ht
  split at ht
  · exact outKeeps_fuses (outKeeps_next (idle_keeps (.refl s))) ht hs
  · next c rest _ =>
    exact outKeeps_fuses (s := { s with pending := rest }) (exec_keeps c (.refl _)) ht (hs.withPending rest)

end Sys2Proof.Machine
end

section
/-! PROOFS. The pending bits and the delivery of interrupts; buoy-watch sources (R429, R498, R499, R506, R507). -/

namespace Sys2Proof.Machine

section
variable {s : State}

/-! ### Sets of bits -/

theorem bitList_zero : bitList 0 = [] := by decide

theorem bitList_two_pow (b : Fin 64) : bitList (BitVec.ofNat 64 (2 ^ b.val)) = [b.val] := by
  revert b; decide

/-! ### Pending bits (R498) -/

theorem deliverAll_nil (s : State) : deliverAll s [] = s := rfl

theorem freezeRisen_self (s : State) : freezeRisen s s = s := by simp [freezeRisen]

/-- A source that is pending has no rising edge. -/
theorem raise_of_pending {n : Nat} (h : s.bit (Reg.intPend (n / 64)) (n % 64) = true) : raise s n = s := by
  have hcore : raiseCore s n = s := if_pos h
  rw [raise, hcore, freezeRisen_self]

/-- INT_PENDk after a W1C write of `m`, before any edge. -/
abbrev State.clearPend (s : State) (k : Nat) (m : Word) : State :=
  s.setReg (Reg.intPend k) (s.reg (Reg.intPend k) &&& ~~~m)

theorem pendClear_no_edge (s : State) (k : Nat) (m : Word) : pendClear s k m 0 = s.clearPend k m := by
  rw [pendClear, bitList_zero]
  rfl

/-- A W1C write with an edge of one source in the same cycle: the edge leaves its bit set, and is delivered where the source
is enabled and its bit was written or clear (R7, R499). -/
theorem pendClear_edge (hs : kvWf regReset s.regs = true) (k : Nat) (b : Fin 64) (m : Word)
    (hres : sourceReserved (64 * k + b.val) = false) :
    pendClear s k m (BitVec.ofNat 64 (2 ^ b.val)) = deliverAll ((s.clearPend k m).setBit (Reg.intPend k) b.val true)
      (if (bitOf m b.val = true ∨ s.bit (Reg.intPend k) b.val = false) ∧ s.bit (Reg.intEn k) b.val = true
        then [64 * k + b.val] else []) := by
  have hne : Reg.intEn k ≠ Reg.intPend k := by simp only [Reg.intEn, Reg.intPend]; omega
  have hen : ((s.clearPend k m).setBit (Reg.intPend k) b.val true).bit (Reg.intEn k) b.val =
      s.bit (Reg.intEn k) b.val := by
    rw [State.bit, State.reg_setBit_ne (State.setReg_wf hs ..) _ _ hne, State.reg_setReg_ne hs _ hne]
    rfl
  rw [pendClear, bitList_two_pow]
  simp only [List.filter_cons, hres, Bool.not_false, if_true, List.filter_nil, List.foldl_cons, List.foldl_nil]
  refine congrArg (deliverAll _) ?_
  by_cases hnew : bitOf m b.val = true ∨ s.bit (Reg.intPend k) b.val = false
  · have hnew' : (bitOf m b.val || !s.bit (Reg.intPend k) b.val) = true := by simpa using hnew
    rw [if_pos hnew']
    by_cases h : s.bit (Reg.intEn k) b.val = true
    · simp [hnew, hen, h]
    · simp [hen, h]
  · have hnew' : ¬ (bitOf m b.val || !s.bit (Reg.intPend k) b.val) = true := by simpa using hnew
    rw [if_neg hnew', if_neg fun hc => hnew hc.1]
    rfl

end

/-- Settles O59: an edge sets its bit unless it stands, and a clear is the bare write with the edges of its cycle put back. -/
theorem interruptPendingBits : Obligations.InterruptPendingBits := by
  intro s k b m hinv off n cleared
  have hs := hinv.canon.regs
  have hk := k.isLt
  have hn : n < 256 := by omega
  have hdiv : n / 64 = k.val := by omega
  have hmod : n % 64 = b.val := by omega
  have hcw : kvWf regReset cleared.regs = true := State.setReg_wf hs ..
  have hpend : (cleared.setBit off b.val true).Pends n := by
    refine ⟨State.setBit_wf hcw .., ?_⟩
    rw [hdiv, hmod]
    exact State.bit_setBit hcw _ _ _ b.isLt
  have pending {t : State} (ht : t.Pends n) : t.bit off b.val = true := by
    have := ht.2
    rwa [hdiv, hmod] at this
  refine ⟨fun _ => pending (raise_pends hn hs), fun hset => raise_of_pending (by rwa [hdiv, hmod]),
    ⟨_, rfl, ?_, ?_, fun o ho => ?_⟩, fun hres => ⟨_, congrArg Host.Outcome.next (pendClear_edge hs k.val b m hres), ?_, fun h => ?_,
    fun h hnew => ?_⟩⟩
  · rw [pendClear_no_edge]; rfl
  · rw [pendClear_no_edge]; exact (State.reg_setReg hs ..).trans (if_pos rfl)
  · rw [pendClear_no_edge]; exact State.reg_setReg_ne hs _ ho
  · exact pending (hpend.deliverAll hn)
  · rw [if_neg fun hc => by simp [h] at hc]; rfl
  · rw [if_pos ⟨hnew, h⟩]; rfl

end Sys2Proof.Machine
end

section
/-! PROOFS. The delivery of interrupts and the buoy-watch sources (R429, R499, R506, R507). -/

namespace Sys2Proof.Machine

section
variable {s t : State}

/-! ### The registers that the checks of a place read (R18 to R22, R49, R111, R475) -/

/-- The registers that the checks of a place on this node read. -/
def placeRegs : List Nat :=
  [Reg.fabNode, Reg.tirCtl, Reg.tirT2Base, Reg.gctlBoot, Reg.brcArea, Reg.brcCtl, Reg.brcIdxStat, Reg.slvArea, Reg.slvCtl,
    Reg.hstWinCtl, Reg.hstStat, Reg.secStat, Reg.secDebug, Reg.secRemote]

/-- What a place allows depends on the objects and on few registers. -/
theorem placeCheck_congr_regs (hr : ∀ o ∈ placeRegs, t.reg o = s.reg o) (ht : t.tier = s.tier) (la len : Nat) (w : Want)
    (o : Option Nat) : placeCheck t la len w o = placeCheck s la len w o := by
  simp only [placeRegs, List.mem_cons, List.not_mem_nil, or_false, forall_eq_or_imp, forall_eq] at hr
  have hcovers : objCovers t = objCovers s := by funext n a e; exact objCovers_congr ht n a e
  simp only [placeCheck, hitsManaged, guardedArea, hostCheck, regCheck, remoteWriteOk, objWritable, tierOn, managedT1,
    managedT2, inStaging, hcovers, ht, State.fld, State.bit, hr]
  rfl

theorem State.node_congr_regs (hr : ∀ o ∈ placeRegs, t.reg o = s.reg o) : t.node = s.node := by
  rw [State.node, State.fld, hr Reg.fabNode (by decide)]
  rfl

/-- Whether a buoy may be watched depends on the objects and on few registers. -/
theorem buoyOk_congr_regs (hr : ∀ o ∈ placeRegs, t.reg o = s.reg o) (ht : t.tier = s.tier) (a : Word) :
    buoyOk t a = buoyOk s a := by
  simp only [buoyOk, buoyCheck, placeCheck_congr_regs hr ht, State.node_congr_regs hr]

/-- So does whether a ring may be written. -/
theorem ringOk_congr_regs (hr : ∀ o ∈ placeRegs, t.reg o = s.reg o) (ht : t.tier = s.tier) (a : Word) (len : Nat) :
    ringOk t a len = ringOk s a len := by
  simp only [ringOk, addrOk, placeCheck_congr_regs hr ht, State.node_congr_regs hr]

/-! ### The delivery of sources (R429, R499) -/

theorem writeIntEn_no_rise {k : Nat} {v : Word} (h : s.reg (Reg.intPend k) &&& v &&& ~~~(s.reg (Reg.intEn k)) = 0) :
    writeIntEn s k v = s.setReg (Reg.intEn k) v := by
  rw [writeIntEn, h, bitList_zero]
  rfl

theorem writeIntEn_one_rise {k : Nat} {v : Word} (b : Fin 64)
    (h : s.reg (Reg.intPend k) &&& v &&& ~~~(s.reg (Reg.intEn k)) = BitVec.ofNat 64 (2 ^ b.val)) :
    writeIntEn s k v = deliver (s.setReg (Reg.intEn k) v) (64 * k + b.val) := by
  rw [writeIntEn, h, bitList_two_pow]
  rfl

theorem deliver_keeper {n : Nat} (hmsix : bitOf (s.reg (Reg.intRoute n)) 7 = false) :
    deliver s n = { s with keeperSignals :=
      (if bitOf (s.reg (Reg.intRoute n)) 8 = true then [n] else []) ++ s.keeperSignals } := by
  have hkeep : ([n].filter (fun m => bitOf (s.reg (Reg.intRoute m)) 8)).reverse =
      if bitOf (s.reg (Reg.intRoute n)) 8 = true then [n] else [] := by
    cases h : bitOf (s.reg (Reg.intRoute n)) 8 <;> simp [h]
  have hmsg : [n].filter (fun m => bitOf (s.reg (Reg.intRoute m)) 7) = [] := by simp [hmsix]
  simp only [deliver, deliverAll, hmsg, hkeep]
  rfl

theorem msixDue_keeperSignals (s : State) (v : Nat) : (msixDue s v).keeperSignals = s.keeperSignals := by
  unfold msixDue
  split <;> rfl

theorem deliver_message {n : Nat} (hmsix : bitOf (s.reg (Reg.intRoute n)) 7 = true)
    (hkeep : bitOf (s.reg (Reg.intRoute n)) 8 = false) :
    deliver s n = { msixDue s (bitsOf (s.reg (Reg.intRoute n)) 5 0) with keeperSignals := s.keeperSignals } := by
  have hnone : [n].filter (fun m => bitOf (s.reg (Reg.intRoute m)) 8) = [] := by simp [hkeep]
  have hmsg : [n].filter (fun m => bitOf (s.reg (Reg.intRoute m)) 7) = [n] := by simp [hmsix]
  simp only [deliver, deliverAll, hmsg, hnone, List.map_cons, List.map_nil, List.eraseDups_cons, List.filter_nil,
    List.eraseDups_nil, List.foldl_cons, List.foldl_nil, List.reverse_nil, List.nil_append, msixDue_keeperSignals]

end

/-! ### The word of INT_BWb_ADDR as it is armed (R506) -/

section
variable {s : State}

/-- EN, with AUTO as asked. -/
def armBits (auto : Bool) : Nat := if auto then 3 else 1

/-- What BUOY_WATCH_ARM writes. -/
def armWord (r : Word) (auto : Bool) : Word := putBits r 1 0 (armBits auto)

theorem armWord_bits (r : Word) (auto : Bool) : armWord r auto &&& 3 = if auto then 3 else 1 := by
  refine BitVec.eq_of_getLsbD_eq fun i _ => ?_
  rw [BitVec.getLsbD_and, armWord, putBits_getLsbD _ _ _ _ _ (by decide) (by decide)]
  match i with
  | 0 | 1 => cases auto <;> simp [armBits, Nat.testBit_succ]
  | i + 2 => cases auto <;> simp [BitVec.getLsbD, Nat.testBit_succ]

theorem armWord_en (r : Word) (auto : Bool) : bitOf (armWord r auto) 0 = true := by
  rw [bitOf, armWord, putBits_getLsbD _ _ _ _ _ (by decide) (by decide)]
  cases auto <;> simp [armBits]

theorem armWord_address (r : Word) (auto : Bool) : armWord r auto &&& ~~~7 = r &&& ~~~7 := by
  refine BitVec.eq_of_getLsbD_eq fun i _ => ?_
  rw [BitVec.getLsbD_and, BitVec.getLsbD_and, armWord, putBits_getLsbD _ _ _ _ _ (by decide) (by decide)]
  match i with
  | 0 | 1 => simp
  | i + 2 => simp

/-- The armed word: the buoy's address with EN and AUTO. -/
theorem armed_eq (r : Word) (auto : Bool) :
    putBits (armWord r auto &&& ~~~5) 0 0 1 = (r &&& ~~~7) ||| (if auto then 3 else 1) := by
  refine BitVec.eq_of_getLsbD_eq fun i hi => ?_
  rw [putBits_getLsbD _ _ _ _ _ (by decide) (by decide), BitVec.getLsbD_or, BitVec.getLsbD_and, BitVec.getLsbD_and, armWord,
    putBits_getLsbD _ _ _ _ _ (by decide) (by decide)]
  match i with
  | 0 | 1 | 2 => cases auto <;> simp [armBits, Nat.testBit_succ]
  | i + 3 => cases auto <;> simp [BitVec.getLsbD, Nat.testBit_succ]

/-- The word of the buoy that a source watches stands at its address without the low bits. -/
theorem localOf_word (w : Word) : localOf w / 8 * 8 = localOf (w &&& ~~~7) := by
  have hshift : localOf w / 8 * 8 = localOf w >>> 3 <<< 3 := by
    rw [Nat.shiftLeft_eq, Nat.shiftRight_eq_div_pow]
  rw [hshift]
  refine Nat.eq_of_testBit_eq fun i => ?_
  rw [Nat.testBit_shiftLeft, Nat.testBit_shiftRight, localOf, bitsOf_testBit, localOf, bitsOf_testBit, BitVec.getLsbD_and]
  match i with
  | 0 | 1 | 2 => simp
  | i + 3 =>
    have hmask : (~~~(7 : Word)).getLsbD (0 + (i + 3)) = decide (0 + (i + 3) < 64) := by
      rw [BitVec.getLsbD_not]
      simp [BitVec.getLsbD, Nat.testBit_succ]
    rw [hmask]
    by_cases h : i + 3 < 54
    · simp [h, show i + 3 < 64 by omega, Nat.add_comm]
    · simp [h, Nat.add_comm]

theorem armed_address (r : Word) (auto : Bool) :
    ((r &&& ~~~7) ||| (if auto then 3 else 1)) &&& ~~~7 = r &&& ~~~7 := by
  rw [← armed_eq, ← armWord_address r auto]
  refine BitVec.eq_of_getLsbD_eq fun i _ => ?_
  rw [BitVec.getLsbD_and, putBits_getLsbD _ _ _ _ _ (by decide) (by decide), BitVec.getLsbD_and, BitVec.getLsbD_and]
  match i with
  | 0 | 1 | 2 => simp
  | i + 3 => simp [Nat.testBit_succ, BitVec.getLsbD]

/-! ### BUOY_WATCH_ARM (R506, R507) -/

theorem bwReg_apart {k : Nat} (hk : k < 48) : ∀ o ∈ placeRegs, o ≠ Reg.intBwAddr k := by
  have hlow : ∀ o ∈ placeRegs, o < 0x22000 ∨ 0x22300 ≤ o := by decide
  intro o ho
  have := hlow o ho
  simp only [Reg.intBwAddr]
  omega

/-- Whether a buoy may be watched does not depend on the source that watches it. -/
theorem buoyOk_setBw (hs : kvWf regReset s.regs = true) {k : Nat} (hk : k < 48) (w a : Word) :
    buoyOk (s.setReg (Reg.intBwAddr k) w) a = buoyOk s a :=
  buoyOk_congr_regs (fun o ho => State.reg_setReg_ne hs _ (bwReg_apart hk o ho)) rfl a

theorem exec_buoyWatchArm_armed {b : Fin 48} (auto : Bool) (h : s.bit (Reg.intBwAddr b.val) 0 = true) :
    exec (.buoyWatchArm b auto) s = .next (s.setReg (Reg.intBwAddr b.val)
      ((s.reg (Reg.intBwAddr b.val) &&& ~~~3) ||| (if auto then 3 else 1))) := by
  show Host.Outcome.next (writeBwAddr s b.val (armWord _ auto)) = _
  rw [writeBwAddr, if_pos h, armWord_bits]

/-- The source with its new address and mode, before EN is set. -/
abbrev State.watching (s : State) (k : Nat) (auto : Bool) : State :=
  s.setReg (Reg.intBwAddr k) (armWord (s.reg (Reg.intBwAddr k)) auto &&& ~~~5)

/-- The source armed. -/
def State.armed (s : State) (k : Nat) (auto : Bool) : State :=
  (s.watching k auto).setBit (Reg.intBwAddr k) 0 true

theorem armed_addr (hs : kvWf regReset s.regs = true) (k : Nat) (auto : Bool) : (s.armed k auto).reg (Reg.intBwAddr k) =
    (s.reg (Reg.intBwAddr k) &&& ~~~7) ||| (if auto then 3 else 1) := by
  rw [State.armed, State.reg_setBit (State.setReg_wf hs ..), if_pos rfl, State.reg_setReg hs, if_pos rfl]
  exact armed_eq _ auto

theorem armed_reg (hs : kvWf regReset s.regs = true) {k o : Nat} (auto : Bool) (ho : o ≠ Reg.intBwAddr k) :
    (s.armed k auto).reg o = s.reg o := by
  rw [State.armed, State.reg_setBit_ne (State.setReg_wf hs ..) _ _ ho]
  exact State.reg_setReg_ne hs _ ho

theorem exec_buoyWatchArm_idle (hs : kvWf regReset s.regs = true) {b : Fin 48} (auto : Bool)
    (h : s.bit (Reg.intBwAddr b.val) 0 = false) : exec (.buoyWatchArm b auto) s = .next (
      if buoyOk s (s.reg (Reg.intBwAddr b.val) &&& ~~~7) = true then buoyWatchTest (s.armed b.val auto) b.val
      else (s.watching b.val auto).setBit Reg.intErr 0 true) := by
  show Host.Outcome.next (writeBwAddr s b.val (armWord _ auto)) = _
  have hen : (!bitOf (armWord (s.reg (Reg.intBwAddr b.val)) auto) 0) = false := by rw [armWord_en]; rfl
  simp only [writeBwAddr, h, hen, Bool.false_eq_true, if_false, armWord_address, buoyOk_setBw hs b.isLt]
  rfl

/-- The word that an armed source watches. -/
theorem armed_word (hs : kvWf regReset s.regs = true) (k : Nat) (auto : Bool) :
    (s.armed k auto).word (localOf ((s.armed k auto).reg (Reg.intBwAddr k)) / 8 * 8) =
      s.word (localOf (s.reg (Reg.intBwAddr k) &&& ~~~7)) := by
  rw [localOf_word, armed_addr hs, armed_address]
  rfl

theorem armed_bits (hs : kvWf regReset s.regs = true) (k : Nat) (auto : Bool) :
    bitOf ((s.armed k auto).reg (Reg.intBwAddr k)) 0 = true ∧
      bitOf ((s.armed k auto).reg (Reg.intBwAddr k)) 1 = auto := by
  rw [armed_addr hs]
  have hmask : (~~~(7 : Word)).getLsbD 0 = false ∧ (~~~(7 : Word)).getLsbD 1 = false := by decide
  simp only [bitOf, BitVec.getLsbD_or, BitVec.getLsbD_and, hmask, Bool.and_false, Bool.false_or]
  cases auto <;> decide

/-- What the test of a source just armed does where its condition has an outcome (R506, R507). -/
def State.watchOver (s : State) (k st : Nat) (auto : Bool) : State :=
  let u := s.armed k auto
  if st = stOK ∧ auto = true then
    u.setFld (Reg.intBwCond k) 47 0 (bitsOf (s.word (localOf (s.reg (Reg.intBwAddr k) &&& ~~~7))) 47 0 + 1)
  else u.setBit (Reg.intBwAddr k) 0 false

theorem buoyWatchTest_armed (hs : kvWf regReset s.regs = true) (k : Nat) (auto : Bool) :
    buoyWatchTest (s.armed k auto) k =
      match watchCond (s.word (localOf (s.reg (Reg.intBwAddr k) &&& ~~~7))) (s.reg (Reg.intBwCond k)) with
      | none => s.armed k auto
      | some st => raise (s.watchOver k st auto) (208 + k) := by
  have hcond : (s.armed k auto).reg (Reg.intBwCond k) = s.reg (Reg.intBwCond k) :=
    armed_reg hs auto (by simp only [Reg.intBwCond, Reg.intBwAddr]; omega)
  obtain ⟨hen, hauto⟩ := armed_bits hs k auto
  simp only [buoyWatchTest, hen, hauto, hcond, armed_word hs, Bool.not_true, Bool.false_eq_true, if_false]
  rfl

theorem watchOver_facts (hs : kvWf regReset s.regs = true) (k st : Nat) (auto : Bool) :
    (s.watchOver k st auto).bit (Reg.intBwAddr k) 0 = (auto && st == stOK) ∧
      (s.watchOver k st auto).mem = s.mem ∧ (s.watchOver k st auto).ops = s.ops ∧
      kvWf regReset (s.watchOver k st auto).regs = true := by
  have hw : kvWf regReset (s.armed k auto).regs = true := State.setBit_wf (State.setReg_wf hs ..) ..
  unfold State.watchOver
  extract_lets u
  split
  · next h =>
    refine ⟨?_, rfl, rfl, State.setFld_wf hw ..⟩
    rw [State.bit, State.reg_setFld_ne hw _ _ _ (by simp only [Reg.intBwCond, Reg.intBwAddr]; omega), (armed_bits hs k auto).1]
    simp [h]
  · next h =>
    refine ⟨?_, rfl, rfl, State.setBit_wf hw ..⟩
    rw [State.bit_setBit hw _ _ _ (by decide)]
    cases auto <;> simp_all

end

/-- Settles O60: a write or an arming delivers what rises, and an armed source is tested at once. -/
theorem interruptsAreDelivered : Obligations.InterruptsAreDelivered := by
  intro s k v hinv
  have hs := hinv.canon.regs
  refine ⟨⟨fun h => congrArg Host.Outcome.next (writeIntEn_no_rise h),
    fun b h => congrArg Host.Outcome.next (writeIntEn_one_rise b h)⟩, fun n => deliver_keeper, fun n => deliver_message,
    fun b auto => exec_buoyWatchArm_armed auto, ?_⟩
  intro b auto hidle off a
  refine ⟨fun hok hnone => ?_, fun st hok hover => ?_, fun hbad => ?_⟩
  · refine ⟨_, exec_buoyWatchArm_idle hs auto hidle, ?_⟩
    rw [if_pos hok, buoyWatchTest_armed hs, hnone]
    exact ⟨rfl, armed_addr hs .., fun o ho => armed_reg hs auto ho⟩
  · refine ⟨_, exec_buoyWatchArm_idle hs auto hidle, ?_⟩
    obtain ⟨hbit, hmem, hops, hwf⟩ := watchOver_facts hs b.val st auto
    have hsig := raise_signals (n := 208 + b.val) (by omega) (.refl (s.watchOver b.val st auto))
    rw [if_pos hok, buoyWatchTest_armed hs, hover]
    exact ⟨(hsig.bit_eq hwf (by simp [sigReg, off, Reg.intBwAddr, Reg.hstMsixPba]; omega) 0).trans hbit, hsig.mem.trans hmem,
      hsig.ops.trans hops⟩
  · refine ⟨_, exec_buoyWatchArm_idle hs auto hidle, ?_⟩
    have hw : kvWf regReset (s.watching b.val auto).regs = true := State.setReg_wf hs ..
    rw [if_neg (Bool.eq_false_iff.mp hbad)]
    refine ⟨rfl, ?_, State.bit_setBit hw _ _ _ (by decide)⟩
    rw [bit_setBit_ne hw (by decide) (.inl (by simp only [off, Reg.intBwAddr, Reg.intErr]; omega)), State.bit,
      State.reg_setReg hs, if_pos rfl]
    simp [bitOf]

end Sys2Proof.Machine
end

section
/-! PROOFS. Fields and bits read after writes of other fields, bits and registers (R4 to R7). -/

namespace Sys2Proof.Machine

section
variable {s : State}

theorem fld_setReg_ne (hs : kvWf regReset s.regs = true) {off o : Nat} (w : Word) (hi lo : Nat) (hne : o ≠ off) :
    (s.setReg off w).fld o hi lo = s.fld o hi lo := by rw [State.fld, State.reg_setReg_ne hs _ hne]; rfl

theorem bit_setReg_ne (hs : kvWf regReset s.regs = true) {off o : Nat} (w : Word) (i : Nat) (hne : o ≠ off) :
    (s.setReg off w).bit o i = s.bit o i := by rw [State.bit, State.reg_setReg_ne hs _ hne]; rfl

/-- A field of another place stands through a set field. -/
theorem fld_setFld_ne (hs : kvWf regReset s.regs = true) {off hi lo v o hi' lo' : Nat} (hh : hi < 64) (hl : lo ≤ hi)
    (hne : o ≠ off ∨ hi' < lo ∨ hi < lo') : (s.setFld off hi lo v).fld o hi' lo' = s.fld o hi' lo' := by
  rw [State.fld, State.reg_setFld hs]
  split
  · next heq =>
    subst heq
    exact bitsOf_putBits_ne _ _ _ _ _ _ hh hl (by omega)
  · rfl

/-- A bit of another place stands through a set field. -/
theorem bit_setFld_ne (hs : kvWf regReset s.regs = true) {off hi lo v o i : Nat} (hh : hi < 64) (hl : lo ≤ hi)
    (hne : o ≠ off ∨ i < lo ∨ hi < i) : (s.setFld off hi lo v).bit o i = s.bit o i := by
  rw [State.bit, State.reg_setFld hs]
  split
  · next heq =>
    subst heq
    exact bitOf_putBits_ne _ _ _ _ _ hh hl (by omega)
  · rfl

/-- A field of another place stands through a set bit. -/
theorem fld_setBit_ne (hs : kvWf regReset s.regs = true) {off i o hi lo : Nat} {b : Bool} (hi' : i < 64)
    (hne : o ≠ off ∨ hi < i ∨ i < lo) : (s.setBit off i b).fld o hi lo = s.fld o hi lo :=
  fld_setFld_ne hs hi' (Nat.le_refl _) hne

end

end Sys2Proof.Machine
end

section
/-! PROOFS. Filter channels: EN, the banks and their swap (R365, R366, R370, R375). -/

namespace Sys2Proof.Machine

/-! ### Channels as data -/

section
variable {s t : State} {n : Nat}

theorem chanOf_modChan (hn : n < s.flt.length) (f : Chan → Chan) : chanOf (s.modChan n f) n = f (chanOf s n) := by
  simp [chanOf, State.modChan, hn]

theorem chanOf_modChan_ne {m : Nat} (hm : m ≠ n) (f : Chan → Chan) : chanOf (s.modChan n f) m = chanOf s m := by
  simp [chanOf, State.modChan, Ne.symm hm]

/-- The group delay depends on the decimation and on the taps of the active bank (R370). -/
theorem groupDelay_congr (hr : cfgFld t n 25 20 = cfgFld s n 25 20) (h26 : cfgFld t n 26 26 = cfgFld s n 26 26)
    (h27 : cfgFld t n 27 27 = cfgFld s n 27 27) (hbank : activeBank t n = activeBank s n)
    (hbanks : (chanOf t n).banks = (chanOf s n).banks) : groupDelay t n = groupDelay s n := by
  simp only [groupDelay, decimation, cicR, bankOf, hr, h26, h27, hbank, hbanks]

/-! ### Where the registers of a channel stand -/

theorem fltCh_apart (n : Nat) : Reg.fltChCfg n ≠ Reg.fltChStat n ∧ Reg.fltErr ≠ Reg.fltChCfg n ∧
    Reg.fltErr ≠ Reg.fltChStat n := by
  refine ⟨?_, ?_, ?_⟩ <;> simp only [Reg.fltChCfg, Reg.fltChStat, Reg.fltErr] <;> omega

/-! ### CHANNEL_ENABLE (R365, R366) -/

/-- FLT_CHn_CFG as a write with EN leaves it, before EN is set. -/
def chanCfg (r : Word) : Word := putBits r 44 44 1 &&& 0xFFFFFF7FFFF

theorem chanCfg_field (r : Word) {hi lo : Nat} (h : hi < 44) (hm : bitsOf 0xFFFFFF7FFFF hi lo = 2 ^ (hi + 1 - lo) - 1) :
    bitsOf (chanCfg r) hi lo = bitsOf r hi lo := by
  rw [chanCfg, bitsOf_and_mask _ _ hm, bitsOf_putBits_ne _ _ _ _ _ _ (by decide) (by decide) (.inl h)]

theorem chanCfg_en (r : Word) : bitOf (chanCfg r) 44 = false := by
  rw [bitOf, chanCfg, BitVec.getLsbD_and]
  exact Bool.and_false _

/-- The channel as it is configured, before the checks at EN. -/
def State.configured (s : State) (n : Nat) : State := s.setReg (Reg.fltChCfg n) (chanCfg (s.reg (Reg.fltChCfg n)))

theorem exec_channelEnable {n : Fin 64} (hen : s.bit (Reg.fltChCfg n.val) 44 = false)
    (hswap : s.bit (Reg.fltChCfg n.val) 45 = false) :
    exec (.channelEnable n) s = .next (enableChan (s.configured n.val) n.val) := by
  have h45 : bitOf (putBits (s.reg (Reg.fltChCfg n.val)) 44 44 1) 45 = false :=
    (bitOf_putBits_ne _ _ _ _ _ (by decide) (by decide) (.inr (by decide))).trans hswap
  have h44 : bitOf (putBits (s.reg (Reg.fltChCfg n.val)) 44 44 1) 44 = true := bitOf_putBits _ _ true (by decide)
  show Host.Outcome.next (writeChanCfg s n.val (putBits (s.reg (Reg.fltChCfg n.val)) 44 44 1)) = _
  simp only [writeChanCfg, hen, h45, h44, Bool.false_eq_true, if_false, Bool.false_and, Bool.not_false, Bool.and_self, if_true]
  rfl

section
variable (hs : kvWf regReset s.regs = true)
include hs

theorem configured_cfg (n : Nat) : (s.configured n).reg (Reg.fltChCfg n) = chanCfg (s.reg (Reg.fltChCfg n)) :=
  (State.reg_setReg hs ..).trans (if_pos rfl)

theorem configured_reg {o : Nat} (ho : o ≠ Reg.fltChCfg n) : (s.configured n).reg o = s.reg o :=
  State.reg_setReg_ne hs _ ho

theorem configured_wf (n : Nat) : kvWf regReset (s.configured n).regs = true := State.setReg_wf hs ..

theorem configured_field {hi lo : Nat} (h : hi < 44) (hm : bitsOf 0xFFFFFF7FFFF hi lo = 2 ^ (hi + 1 - lo) - 1) :
    cfgFld (s.configured n) n hi lo = cfgFld s n hi lo := by
  rw [cfgFld, State.fld, configured_cfg hs, chanCfg_field _ h hm]
  rfl

/-- The checks at EN do not depend on the write that asks for it. -/
theorem chanOk_configured (hn : n < 64) : chanOk (s.configured n) n = chanOk s n := by
  have hring : (s.configured n).reg (Reg.fltChRing n) = s.reg (Reg.fltChRing n) :=
    configured_reg hs (by simp only [Reg.fltChRing, Reg.fltChCfg]; omega)
  have hthr : (s.configured n).reg (Reg.fltChThr n) = s.reg (Reg.fltChThr n) :=
    configured_reg hs (by simp only [Reg.fltChThr, Reg.fltChCfg]; omega)
  have hlow : ∀ o ∈ placeRegs, o < 0xE1000 ∨ 0xE2000 ≤ o := by decide
  have hplace : ∀ o ∈ placeRegs, (s.configured n).reg o = s.reg o := fun o ho =>
    have := hlow o ho
    configured_reg hs (by simp only [Reg.fltChCfg]; omega)
  have hfmt : cfgFld (s.configured n) n 14 12 = cfgFld s n 14 12 := configured_field hs (by decide) (by decide)
  have hsrc : cfgFld (s.configured n) n 5 0 = cfgFld s n 5 0 := configured_field hs (by decide) (by decide)
  have hcic : cfgFld (s.configured n) n 25 20 = cfgFld s n 25 20 := configured_field hs (by decide) (by decide)
  have hoff : cfgFld (s.configured n) n 11 6 = cfgFld s n 11 6 := configured_field hs (by decide) (by decide)
  simp only [chanOk, hfmt, hsrc, hcic, hoff, State.fld, hring, hthr, ringOk_congr_regs hplace rfl]
  rfl

/-! ### A channel that starts afresh (R366) -/

/-- What a switch leaves of the state: the channel's registers show the start, and the channel is fresh (R366, R370). -/
structure Switched (s : State) (n : Nat) (t : State) : Prop where
  wf     : kvWf regReset t.regs = true
  coarse : t.bit (Reg.fltChStat n) 1 = true
  level  : t.bit (Reg.fltChStat n) 4 = false
  fast   : t.fld (Reg.fltChStat n) 31 8 = 0
  delay  : t.fld (Reg.fltChStat n) 63 32 = groupDelay s n % 2 ^ 32
  others : ∀ m, m ≠ n → chanOf t m = chanOf s m
  mem    : t.mem = s.mem
  regs   : ∀ o, o ≠ Reg.fltChStat n → t.reg o = s.reg o

theorem switchChan_switched (n : Nat) : Switched s n (switchChan s n) := by
  unfold switchChan
  extract_lets gd s1 s2
  have h1 : kvWf regReset s1.regs = true := hs
  have h2 : kvWf regReset (s1.setFld (Reg.fltChStat n) 63 32 gd).regs = true := State.setFld_wf h1 ..
  have h3 : kvWf regReset s2.regs = true := State.setFld_wf h2 ..
  have h4 : kvWf regReset (s2.setBit (Reg.fltChStat n) 4 false).regs = true := State.setBit_wf h3 ..
  refine ⟨State.setBit_wf h4 .., State.bit_setBit h4 _ _ _ (by decide), ?_, ?_, ?_, fun m hm => ?_, rfl, fun o ho => ?_⟩
  · rw [bit_setBit_ne h4 (by decide) (by omega), State.bit_setBit h3 _ _ _ (by decide)]
  · rw [fld_setBit_ne h4 (by decide) (by omega), fld_setBit_ne h3 (by decide) (by omega),
      State.fld_setFld h2 _ _ _ _ (by decide) (by decide), Nat.zero_mod]
  · rw [fld_setBit_ne h4 (by decide) (by omega), fld_setBit_ne h3 (by decide) (by omega),
      fld_setFld_ne h2 (by decide) (by decide) (by omega), State.fld_setFld h1 _ _ _ _ (by decide) (by decide)]
  · exact chanOf_modChan_ne hm _
  · rw [State.reg_setBit_ne h4 _ _ ho, State.reg_setBit_ne h3 _ _ ho, State.reg_setFld_ne h2 _ _ _ ho,
      State.reg_setFld_ne h1 _ _ _ ho]
    rfl

omit hs in
theorem chanOf_switchChan (hn : n < s.flt.length) : chanOf (switchChan s n) n =
    { freshChan (chanOf s n).banks with
      seen := (chanOf s n).seen, recs := (chanOf s n).recs, gap := (chanOf s n).gap, gd := groupDelay s n } :=
  chanOf_modChan hn _

end

/-! ### EN rises (R365) -/

/-- A channel with EN and RUN set and nothing seen, before its switch. -/
def State.enabled (s : State) (n : Nat) : State :=
  ((s.setBit (Reg.fltChCfg n) 44 true).setBit (Reg.fltChStat n) 0 true).modChan n
    (fun c => { c with seen := feedsOf ((s.setBit (Reg.fltChCfg n) 44 true).setBit (Reg.fltChStat n) 0 true) n
                       recs := 0, gap := false, resume := false })

theorem enableChan_eq (s : State) (n : Nat) :
    enableChan s n = if chanOk s n = true then switchChan (s.enabled n) n else fltErr s 0 := rfl

section
variable (hs : kvWf regReset s.regs = true)
include hs

theorem enabled_wf (n : Nat) : kvWf regReset (s.enabled n).regs = true :=
  State.setBit_wf (s := s.setBit (Reg.fltChCfg n) 44 true) (State.setBit_wf hs ..) ..

theorem enabled_reg {o : Nat} (h1 : o ≠ Reg.fltChCfg n) (h2 : o ≠ Reg.fltChStat n) :
    (s.enabled n).reg o = s.reg o :=
  (State.reg_setBit_ne (State.setBit_wf hs ..) _ _ h2).trans (State.reg_setBit_ne hs _ _ h1)

theorem enabled_en (n : Nat) : (s.enabled n).bit (Reg.fltChCfg n) 44 = true :=
  (bit_setBit_ne (State.setBit_wf hs ..) (by decide) (.inl (fltCh_apart n).1)).trans (State.bit_setBit hs _ _ _ (by decide))

/-- The configuration beside EN stands while EN rises. -/
theorem enabled_field {hi lo : Nat} (h : hi < 44) : cfgFld (s.enabled n) n hi lo = cfgFld s n hi lo :=
  (fld_setBit_ne (State.setBit_wf hs ..) (by decide) (.inl (fltCh_apart n).1)).trans
    (fld_setBit_ne hs (by decide) (.inr (.inl h)))

theorem enabled_activeBank (n : Nat) : activeBank (s.enabled n) n = activeBank s n :=
  (fld_setBit_ne (State.setBit_wf hs ..) (by decide) (.inr (by decide))).trans
    (fld_setBit_ne hs (by decide) (.inl (fltCh_apart n).1.symm))

theorem feedsOf_enabled (n : Nat) :
    feedsOf ((s.setBit (Reg.fltChCfg n) 44 true).setBit (Reg.fltChStat n) 0 true) n = feedsOf s n :=
  congrArg (fun k => (srcOf s k).feeds) (enabled_field hs (by decide))

theorem chanOf_enabled (hn : n < s.flt.length) : chanOf (s.enabled n) n =
    { chanOf s n with seen := feedsOf s n, recs := 0, gap := false, resume := false } := by
  refine (chanOf_modChan (s := (s.setBit (Reg.fltChCfg n) 44 true).setBit (Reg.fltChStat n) 0 true) hn _).trans ?_
  rw [feedsOf_enabled hs]
  rfl

theorem groupDelay_enabled (hn : n < s.flt.length) : groupDelay (s.enabled n) n = groupDelay s n :=
  groupDelay_congr (enabled_field hs (by decide)) (enabled_field hs (by decide)) (enabled_field hs (by decide))
    (enabled_activeBank hs n) (by rw [chanOf_enabled hs hn])

end

theorem groupDelay_configured (hs : kvWf regReset s.regs = true) (n : Nat) : groupDelay (s.configured n) n = groupDelay s n := by
  refine groupDelay_congr (configured_field hs (by decide) (by decide)) (configured_field hs (by decide) (by decide))
    (configured_field hs (by decide) (by decide)) ?_ rfl
  rw [activeBank, State.fld, configured_reg hs (fltCh_apart n).1.symm]
  rfl

/-! ### The banks (R375) -/

theorem modBank_free (h : s.bit (Reg.fltChStat n) 3 = false) (f : Bank → Bank) : modBank s n f =
    s.modChan n (fun c => { c with banks := c.banks.modify (1 - activeBank s n) f }) :=
  if_neg (by simp [h])

theorem fltErr_signals (hs : kvWf regReset s.regs = true) {i : Nat} (hi : i < 4) :
    State.Signals (s.setBit Reg.fltErr i true) (fltErr s i) :=
  sticky_signals_setBit hs (by omega) (by simp; omega)

/-! ### A swap that takes effect (R370, R375) -/

/-- The registers of a channel whose banks are swapped. -/
def State.bankTurned (s : State) (n : Nat) : State :=
  (s.setFld (Reg.fltChStat n) 2 2 (1 - activeBank s n)).setBit (Reg.fltChStat n) 3 false

theorem swapBank_eq (s : State) (n : Nat) : swapBank s n =
    ((s.bankTurned n).setFld (Reg.fltChStat n) 63 32 (groupDelay (s.bankTurned n) n)).modChan n
      (fun c => { c with gd := min c.gd (groupDelay (s.bankTurned n) n) }) := rfl

section
variable (hs : kvWf regReset s.regs = true)
include hs

theorem bankTurned_wf (n : Nat) : kvWf regReset (s.bankTurned n).regs = true :=
  State.setBit_wf (State.setFld_wf hs ..) ..

theorem bankTurned_activeBank (n : Nat) : activeBank (s.bankTurned n) n = 1 - activeBank s n := by
  refine (fld_setBit_ne (State.setFld_wf hs ..) (by decide) (by omega)).trans ?_
  rw [State.fld_setFld hs _ _ _ _ (by decide) (by decide)]
  exact Nat.mod_eq_of_lt (by omega)

theorem swapBank_activeBank (n : Nat) : activeBank (swapBank s n) n = 1 - activeBank s n :=
  (fld_setFld_ne (bankTurned_wf hs n) (by decide) (by decide) (by omega)).trans (bankTurned_activeBank hs n)

theorem swapBank_pending (n : Nat) : (swapBank s n).bit (Reg.fltChStat n) 3 = false :=
  (bit_setFld_ne (bankTurned_wf hs n) (by decide) (by decide) (by omega)).trans
    (State.bit_setBit (State.setFld_wf hs ..) _ _ _ (by decide))

theorem swapBank_delay (hn : n < s.flt.length) :
    (swapBank s n).fld (Reg.fltChStat n) 63 32 = groupDelay (swapBank s n) n % 2 ^ 32 := by
  have hcfg (hi lo : Nat) : cfgFld (swapBank s n) n hi lo = cfgFld (s.bankTurned n) n hi lo :=
    fld_setFld_ne (bankTurned_wf hs n) (by decide) (by decide) (.inl (fltCh_apart n).1)
  have hbanks : (chanOf (swapBank s n) n).banks = (chanOf (s.bankTurned n) n).banks :=
    (congrArg Chan.banks
      (chanOf_modChan (s := (s.bankTurned n).setFld _ 63 32 (groupDelay (s.bankTurned n) n)) hn _)).trans rfl
  have hgd : groupDelay (swapBank s n) n = groupDelay (s.bankTurned n) n :=
    groupDelay_congr (hcfg ..) (hcfg ..) (hcfg ..)
      ((swapBank_activeBank hs n).trans (bankTurned_activeBank hs n).symm) hbanks
  rw [hgd]
  exact State.fld_setFld (bankTurned_wf hs n) _ _ _ _ (by decide) (by decide)

/-- A channel that EN starts: its registers show the start, it is fresh with its banks, and nothing else changes. -/
theorem enableChan_starts (hn : n < s.flt.length) (hok : chanOk s n = true) :
    Switched (s.enabled n) n (enableChan s n) ∧ chanOf (enableChan s n) n =
      { freshChan (chanOf s n).banks with gd := groupDelay s n, seen := feedsOf s n } := by
  rw [enableChan_eq, if_pos hok]
  refine ⟨switchChan_switched (enabled_wf hs n) n, ?_⟩
  rw [chanOf_switchChan (s := s.enabled n) (by simpa [State.enabled, State.modChan] using hn), chanOf_enabled hs hn,
    groupDelay_enabled hs hn]
  rfl

end

end

/-- Settles O44: EN by the checks of the configuration as it is written, the banks by whether a swap is pending. -/
theorem filterChannelsAndBanks : Obligations.FilterChannelsAndBanks := by
  refine ⟨fun s n hinv hen hswap => ⟨fun hok => ?_, fun hbad => ?_⟩, ?_⟩
  · have hs := hinv.canon.regs
    have hn : n.val < s.flt.length := by rw [hinv.shape.chans]; exact n.isLt
    have hcw := configured_wf hs n.val
    obtain ⟨hsw, hchan⟩ := enableChan_starts (s := s.configured n.val) hcw hn ((chanOk_configured hs n.isLt).trans hok)
    have hfeeds : feedsOf (s.configured n.val) n.val = feedsOf s n.val :=
      congrArg (fun k => (srcOf s k).feeds) (configured_field hs (by decide) (by decide))
    rw [groupDelay_configured hs, hfeeds] at hchan
    refine ⟨_, exec_channelEnable hen hswap, ?_, hsw.coarse, hsw.level, hsw.fast, ?_, hchan, fun m hm => ?_, hsw.mem,
      fun o ho => ?_⟩
    · rw [State.bit, hsw.regs _ (fltCh_apart n.val).1]
      exact enabled_en hcw n.val
    · rw [hsw.delay, groupDelay_enabled hcw hn, groupDelay_configured hs]
    · exact (hsw.others m hm).trans (chanOf_modChan_ne (s := ((s.configured n.val).setBit _ 44 true).setBit _ 0 true) hm _)
    · simp only [List.mem_cons, List.not_mem_nil, or_false, not_or] at ho
      obtain ⟨hcfg, hstat⟩ := ho
      rw [hsw.regs o hstat, enabled_reg hcw hcfg hstat, configured_reg hs hcfg]
  · have hs := hinv.canon.regs
    refine ⟨_, s.configured n.val, exec_channelEnable hen hswap, ?_, rfl, ?_⟩
    · rw [enableChan_eq, chanOk_configured hs n.isLt, hbad]
      exact fltErr_signals (configured_wf hs n.val) (by decide)
    · rw [State.bit, configured_cfg hs]
      exact chanCfg_en _
  · intro s n i c b bad
    refine ⟨fun hfree => ⟨congrArg Host.Outcome.next (modBank_free hfree _), congrArg Host.Outcome.next (modBank_free hfree _),
      fun hen => ?_, fun hinv hen => ⟨swapBank s n.val, ?_, ?_⟩⟩, fun hinv hpend => ?_⟩
    · show Host.Outcome.next (requestSwap s n.val) = _
      rw [requestSwap, if_neg (by simp [hfree]), if_pos hen]
    · show Host.Outcome.next (requestSwap s n.val) = _
      rw [requestSwap, if_neg (by simp [hfree]), if_neg (by simp [hen])]
    · have hs := hinv.canon.regs
      exact ⟨swapBank_activeBank hs _, swapBank_pending hs _, swapBank_delay hs (by rw [hinv.shape.chans]; exact n.isLt)⟩
    · have herr : bad (fltErr s 3) := fltErr_signals hinv.canon.regs (by decide)
      have hlate (f : Bank → Bank) : modBank s n.val f = fltErr s 3 := if_pos hpend
      have hswap : requestSwap s n.val = fltErr s 3 := if_pos hpend
      exact ⟨⟨_, congrArg Host.Outcome.next (hlate _), herr⟩, ⟨_, congrArg Host.Outcome.next (hlate _), herr⟩,
        ⟨_, congrArg Host.Outcome.next hswap, herr⟩⟩

end Sys2Proof.Machine
end

section
/-! PROOFS. A sample on its way through a channel (R364, R366, R371, R372, R376, R377). -/

namespace Sys2Proof.Machine

section
variable {s u : State} {n : Nat}

/-! ### What the fine path and the detectors leave of a channel -/

theorem finePath_keeps (s : State) (n : Nat) (c : Chan) (x : Int) :
    (finePath s n c x).1.i = c.i ∧ (finePath s n c x).1.f = c.f := by
  unfold finePath
  extract_lets ig c1
  split
  · exact ⟨rfl, rfl⟩
  · split
    · exact ⟨rfl, rfl⟩
    · dsimp only
      split <;> exact ⟨rfl, rfl⟩

theorem detectors_keeps (s : State) (n : Nat) (c : Chan) (y : Int) :
    (detectors s n c y).1.i = c.i ∧ (detectors s n c y).1.f = c.f := by
  unfold detectors
  extract_lets m env w c1
  split <;> exact ⟨rfl, rfl⟩

/-! ### The steps of a sample -/

/-- The fast value after an input (R371). -/
def fastValue (s : State) (n : Nat) (c : Chan) (y : Int) : Int :=
  if c.i + 1 = 1 then y else c.f + (y - c.f) / ((2 ^ cfgFld s n 31 28 : Nat) : Int)

/-- The fine path's part of an input. -/
def fineStep (s : State) (n : Nat) (c : Chan) (x : Int × Bool) : Chan × Option Int :=
  finePath s n { c with i := c.i + 1, f := fastValue s n c x.1, sat := x.2 } x.1

/-- The channel after the fine path. -/
def afterFine (s : State) (n : Nat) (c : Chan) (x : Int × Bool) : Chan :=
  { (fineStep s n c x).1 with sat := c.sat || (fineStep s n c x).1.sat }

theorem chanStep_eq (s : State) (n : Nat) (c : Chan) (x : Int × Bool) : chanStep s n c x =
    match (fineStep s n c x).2.filter (fun _ => decide (c.gd < c.i + 1)) with
    | some y =>
      let d := detectors s n { afterFine s n c x with fine := y } y
      ⟨d.1, (fineStep s n c x).1.sat, some y, d.2⟩
    | none => ⟨afterFine s n c x, (fineStep s n c x).1.sat, none, false⟩ := rfl

/-- No fine value counts before the group delay has passed. -/
theorem chanStep_coarse {c : Chan} {x : Int × Bool} (h : (fineStep s n c x).2 = none ∨ c.i + 1 ≤ c.gd) :
    chanStep s n c x = ⟨afterFine s n c x, (fineStep s n c x).1.sat, none, false⟩ := by
  have hnone : (fineStep s n c x).2.filter (fun _ => decide (c.gd < c.i + 1)) = none := by
    rcases h with h | h
    · rw [h]; rfl
    · rw [Option.filter_eq_none_iff]
      intro _ _
      simpa using h
  rw [chanStep_eq, hnone]

theorem chanStep_fine {c : Chan} {x : Int × Bool} {z : Int} (hz : (fineStep s n c x).2 = some z) (hgd : c.gd < c.i + 1) :
    chanStep s n c x = ⟨(detectors s n { afterFine s n c x with fine := z } z).1, (fineStep s n c x).1.sat, some z,
      (detectors s n { afterFine s n c x with fine := z } z).2⟩ := by
  have hsome : (fineStep s n c x).2.filter (fun _ => decide (c.gd < c.i + 1)) = some z := by
    rw [hz, Option.filter_some, if_pos (by simpa using hgd)]
  rw [chanStep_eq, hsome]

theorem afterFine_keeps (s : State) (n : Nat) (c : Chan) (x : Int × Bool) :
    (afterFine s n c x).i = c.i + 1 ∧ (afterFine s n c x).f = fastValue s n c x.1 :=
  finePath_keeps s n { c with i := c.i + 1, f := fastValue s n c x.1, sat := x.2 } x.1

/-- A channel and the fast value that its status shows. -/
def State.putChan (s : State) (n : Nat) (k : Chan) (f : Int) : State :=
  (s.modChan n (fun _ => k)).setFld (Reg.fltChStat n) 31 8 (codeN 24 f)

/-! ### A sample's record (R372, R376, R377) -/

theorem chanSample_coarse {v : Int} {stamp : Nat} {unsync : Bool} {k : Chan}
    (hstep : chanStep s n (chanOf s n) (sat24 v) = ⟨k, false, none, false⟩) (hsel : s.fld (Reg.fltChThr n) 50 48 ≠ 1) :
    chanSample s n v stamp unsync = if k.i = 1 ∨ k.i % decimation (s.putChan n k k.f) n = 0
      then writeRecord (s.putChan n k k.f) n stamp unsync true k.f else s.putChan n k k.f := by
  simp only [chanSample, hstep, if_neg hsel, Bool.false_eq_true, if_false]
  rfl

/-- The channel's state when the comparator has tested a fine value. -/
def State.fineCompared (s : State) (n : Nat) (k : Chan) (f z : Int) : State :=
  compare ((s.putChan n k f).setBit (Reg.fltChStat n) 1 false) n z

theorem chanSample_fine {v z : Int} {stamp : Nat} {unsync blk : Bool} {k : Chan}
    (hstep : chanStep s n (chanOf s n) (sat24 v) = ⟨k, false, some z, blk⟩) (hsel : s.fld (Reg.fltChThr n) 50 48 = 0) :
    chanSample s n v stamp unsync = if k.i = 1 ∨ k.i % decimation (s.fineCompared n k k.f z) n = 0
      then writeRecord (s.fineCompared n k k.f z) n stamp unsync false z else s.fineCompared n k k.f z := by
  have hblk (j : Nat) (hj : j = 2 ∨ j = 3) : ¬ (blk = true ∧ decide (0 = j) = true) := by
    rcases hj with rfl | rfl <;> simp
  simp only [chanSample, hstep, hsel, Bool.false_eq_true, if_false, if_true, Nat.zero_ne_one, Bool.and_eq_true,
    hblk 2 (.inl rfl), hblk 3 (.inr rfl)]
  rfl

/-! ### FILTER_SAMPLE and FILTER_DROP -/

theorem beginSample_runs (hswap : s.bit (Reg.fltChStat n) 3 = false) (hresume : (chanOf s n).resume = false) :
    beginSample s n = s := by
  simp [beginSample, hswap, hresume]

theorem exec_filterSample_stopped {n : Fin 64} (x : FilterInput) (a : Fin 4) (code : BitVec 16)
    (h : chanRuns s n.val = false) : exec (.filterSample n x a code) s = .next s := by
  show execFilterSample n x a code s = _
  simp [execFilterSample, h]

theorem exec_filterSample_unfed {n : Fin 64} {x : FilterInput} {a : Fin 4} {code : BitVec 16}
    (h : chanRuns s n.val = true) (hfeed : feedOf s n.val x a code = none) :
    exec (.filterSample n x a code) s = .next s := by
  show execFilterSample n x a code s = _
  simp [execFilterSample, h, hfeed]

section
variable {n : Fin 64} {x : FilterInput} {a : Fin 4} {code : BitVec 16} {feed : ChanFeed}
  (hrun : chanRuns s n.val = true) (hfeed : feedOf s n.val x a code = some feed)
include hrun hfeed

theorem exec_filterSample_unread (hnone : inputValue (chanTakes s n.val) n.val feed.input = none) :
    exec (.filterSample n x a code) s = .next (dropSample (chanTakes s n.val) n.val) := by
  show execFilterSample n x a code s = _
  simp only [execFilterSample, hrun, hfeed, hnone, Bool.not_true, Bool.false_eq_true, if_false]

theorem exec_filterSample_read {v : Int} (hv : inputValue (chanTakes s n.val) n.val feed.input = some v) :
    exec (.filterSample n x a code) s =
      .next (chanSample (beginSample (chanTakes s n.val) n.val) n.val v feed.stamp feed.unsync) := by
  show execFilterSample n x a code s = _
  simp only [execFilterSample, hrun, hfeed, hv, Bool.not_true, Bool.false_eq_true, if_false]

end

theorem exec_filterDrop (n : Fin 64) : exec (.filterDrop n) s =
    if chanRuns s n.val = true then .next (dropSample (chanTakes s n.val) n.val) else .next s := rfl

end

/-- Settles O45: a sample by whether its channel runs, is fed and reads a value, and a record by whether the value is fine. -/
theorem channelsTakeSamples : Obligations.ChannelsTakeSamples := by
  intro s n x a code u c i
  refine ⟨fun hstop => ⟨exec_filterSample_stopped x a code hstop, ?_⟩, exec_filterSample_unfed, fun hrun hinv => ?_,
    fun feed hrun hfeed => ⟨exec_filterSample_unread hrun hfeed, fun v hv hresume hswap => ?_⟩⟩
  · rw [exec_filterDrop, if_neg (by simp [hstop])]
  · have hw : kvWf regReset (count u Reg.fltDrops 1).regs = true := State.setReg_wf (s := u) hinv.canon.regs ..
    refine ⟨fltErr (count u Reg.fltDrops 1) 2, ?_, fltErr_signals hw (by decide)⟩
    rw [exec_filterDrop, if_pos hrun]
    rfl
  · have hexec : exec (.filterSample n x a code) s = .next (chanSample u n.val v feed.stamp feed.unsync) := by
      rw [exec_filterSample_read hrun hfeed hv, beginSample_runs hswap hresume]
    intro y f r k put
    obtain ⟨hki, hkf⟩ : k.i = i ∧ k.f = f := afterFine_keeps u n.val c (sat24 v)
    refine ⟨fun hsat hcoarse hsel => ?_, fun z hsat hz hgd hsel => ?_⟩
    · have hstep : chanStep u n.val c (sat24 v) = ⟨k, false, none, false⟩ := by
        rw [chanStep_coarse hcoarse, show (fineStep u n.val c (sat24 v)).1.sat = false from hsat]
        rfl
      rw [hexec, chanSample_coarse hstep hsel, hki, hkf]
      rfl
    · intro d w
      obtain ⟨hdi, hdf⟩ := detectors_keeps u n.val { k with fine := z } z
      have hstep : chanStep u n.val c (sat24 v) = ⟨d, false, some z, (detectors u n.val { k with fine := z } z).2⟩ := by
        rw [chanStep_fine hz hgd, show (fineStep u n.val c (sat24 v)).1.sat = false from hsat]
        rfl
      rw [hexec, chanSample_fine hstep hsel, show d.i = i from hdi.trans hki, show d.f = f from hdf.trans hkf]
      rfl

end Sys2Proof.Machine
end

section
/-! PROOFS. Links as they train, fail and are disabled, and the flits that they take and replay (R380 to R383; log 53 to
log 55, log 99). -/

namespace Sys2Proof.Machine

section
variable {s t u : State} {l : Fin 8}

/-! ### Where the registers of a link stand -/

theorem fabLink_unsignalled (l : Nat) : sigReg (Reg.fabLinkErr l) = false := by
  simp [sigReg, Reg.fabLinkErr, Reg.hstMsixPba]; omega

theorem fabLinkStat_ne_ctl (l : Nat) : Reg.fabLinkStat l ≠ Reg.fabLinkCtl l := by
  simp only [Reg.fabLinkStat, Reg.fabLinkCtl]; omega

theorem linkState_setCtl (hs : kvWf regReset s.regs = true) (l : Nat) (w : Word) :
    linkState (s.setReg (Reg.fabLinkCtl l) w) l = linkState s l :=
  fld_setReg_ne hs _ _ _ (fabLinkStat_ne_ctl l)

/-- A failure or error of a link raises its source (R396). -/
theorem linkErr_signals (hs : kvWf regReset s.regs = true) (l : Fin 8) {i : Nat} (hi : i < 64) :
    State.Signals (s.setBit (Reg.fabLinkErr l.val) i true) (linkErr s l.val i) :=
  sticky_signals_setBit hs hi (by simp; omega)

/-! ### LINK_ENABLE and LINK_DISABLE (R380; log 53) -/

/-- FAB_LINKn_CTL with EN written. -/
def State.linkCtl (s : State) (l en : Nat) : State :=
  s.setReg (Reg.fabLinkCtl l) (putBits (s.reg (Reg.fabLinkCtl l)) 0 0 en &&& 3)

theorem linkCtl_en (hs : kvWf regReset s.regs = true) (l : Nat) : (s.linkCtl l 1).bit (Reg.fabLinkCtl l) 0 = true := by
  rw [State.bit, State.linkCtl, State.reg_setReg hs, if_pos rfl, bitOf_and_mask _ _ (by decide)]
  exact bitOf_putBits _ _ true (by decide)

theorem exec_linkEnable (hs : kvWf regReset s.regs = true) (hdown : linkState s l.val = 0) (hp : pState s < 2) :
    exec (.linkEnable l) s = .next (setLinkState (s.linkCtl l.val 1) l.val 1) := by
  have hen : bitOf (putBits (s.reg (Reg.fabLinkCtl l.val)) 0 0 1) 0 = true := bitOf_putBits _ _ true (by decide)
  have hstate : linkState (s.linkCtl l.val 1) l.val = 0 := (linkState_setCtl hs l.val _).trans hdown
  have hpower : pState (s.linkCtl l.val 1) = pState s :=
    fld_setReg_ne hs _ _ _ (by simp only [Reg.pwrState, Reg.fabLinkCtl]; omega)
  have hstart : startTraining (s.linkCtl l.val 1) l.val = setLinkState (s.linkCtl l.val 1) l.val 1 := by
    simp [startTraining, linkCtl_en hs, hstate, hpower, hp]
  exact congrArg Host.Outcome.next ((if_pos hen).trans hstart)

theorem exec_linkDisable (s : State) (l : Fin 8) :
    exec (.linkDisable l) s = .next (downLink (s.linkCtl l.val 0) l.val) := by
  have hen : bitOf (putBits (s.reg (Reg.fabLinkCtl l.val)) 0 0 0) 0 = false := bitOf_putBits _ _ false (by decide)
  exact congrArg Host.Outcome.next (if_neg (Bool.eq_false_iff.mp hen))

/-! ### Links that fail (R383, R396) -/

/-- What failing a link shows of it: the state, the reason, the count and the error. -/
def State.linkFailed (s : State) (l reason : Nat) : State :=
  (((setLinkState s l 3).setFld (Reg.fabLinkStat l) 7 4 reason).satFld (Reg.fabLinkCount l) 63 48 1).setBit
    (Reg.fabLinkErr l) 2 true

theorem setLinkState_wf (hs : kvWf regReset s.regs = true) (l st : Nat) : kvWf regReset (setLinkState s l st).regs = true :=
  State.setBit_wf (s := (s.setFld (Reg.fabLinkStat l) 1 0 st).setBit Reg.fabStat l (st == 2))
    (State.setBit_wf (State.setFld_wf hs ..) ..) ..

theorem failLink_fails (hs : kvWf regReset s.regs = true) (l : Fin 8) (reason : Nat) :
    ∃ u, failLink s l.val reason = sendHeld (loseLink u l.val) ∧ State.Signals (s.linkFailed l.val reason) u := by
  have hw := State.setFld_wf (State.setFld_wf (setLinkState_wf hs l.val 3) (Reg.fabLinkStat l.val) 7 4 reason)
    (Reg.fabLinkCount l.val) 63 48
  exact ⟨_, rfl, freezeCause_signals (obsEvent_signals (raise_signals (by omega) (linkErr_signals (hw _) l (by decide))))⟩

/-! ### TRAINING_COMPLETE (R380, R384) -/

theorem exec_trainingComplete {peer : BitVec 10} (htrain : linkState s l.val = 1) (hp : pState s < 2)
    (hpeer : (linkOf s l.val).trained = false ∨ s.fld (Reg.fabLinkStat l.val) 17 8 = peer.toNat) :
    exec (.trainingComplete l peer) s = .next (sendHeld (pump
      (((setLinkState s l.val 2).setFld (Reg.fabLinkStat l.val) 17 8 peer.toNat).modLink l.val (fun k => { k with
        trained := true, txSeq := 0, rxSeq := 0xFFFF, replay := []
        queue := k.replay.map (fun f => { f with resent := 0 }) ++ k.queue, credits := List.replicate 8 32,
        turn := [4, 2, 1] }))
      l.val)) := by
  have hkeep : ((linkOf s l.val).trained && s.fld (Reg.fabLinkStat l.val) 17 8 != peer.toNat) = false := by
    rcases hpeer with h | h <;> simp [h]
  show execTrainingComplete l peer s = _
  simp only [execTrainingComplete, htrain, hp, and_self, if_true, hkeep, Bool.false_eq_true, if_false]

/-! ### Flits that come (R381, R382, R384) -/

theorem exec_flitReceive {b : List Byte} (hup : linkState s l.val = 2) (hlen : b.length = 256) :
    exec (.flitReceive l b) s =
      if (crc32 (b.take 252)).toNat ≠ u32At b 252 ∨ u8At b 4 % 4 = 3 then .next (badFlit s l.val)
      else .next (goodFlit s l.val b) := by
  have hslice : sliceB b 0 256 = b := by rw [← hlen, sliceB_all]
  show execFlitReceive l b s = _
  simp only [execFlitReceive, hup, hslice, ne_eq, not_true_eq_false, if_false]

/-- A DATA flit: its ACK and credits are taken, and then its place in the sequence decides (R382; log 55). -/
theorem goodFlit_data {l : Nat} {b : List Byte} (hty : u8At b 4 % 4 = 1) (v : State)
    (hv : v = pump ((takeAck s l (u16At b 2)).modLink l (fun k => { k with
      credits := k.credits.modify (u8At b 5 % 8) (· + u8At b 5 / 16) })) l) :
    goodFlit s l b = if u16At b 0 = ((linkOf v l).rxSeq + 1) % 65536
      then sendCtl (count (v.modLink l (fun k => { k with rxSeq := u16At b 0 })) (Reg.obsLink (2 * l + 1)) 244) l 0
        (u8At b 4 / 4 % 4 * 2 + u8At b 4 / 16 % 2) 1
      else discardFlit v l := by
  subst hv
  simp only [goodFlit, hty]

/-! ### The replay (R382, R383) -/

/-- There is something to replay, and no flit of it has used its attempts up. -/
def State.MayReplay (s : State) (l : Nat) : Prop :=
  (linkOf s l).replay ≠ [] ∧ ∀ f ∈ (linkOf s l).replay, f.resent < 16

/-- The replay buffer sent again. -/
def State.resent (s : State) (l : Nat) : State :=
  let rs := (linkOf s l).replay.map (fun f => { f with resent := f.resent + 1 })
  (s.modLink l (fun k => { k with replay := rs, wire := (rs.map (·.bytes k.rxSeq)).reverse ++ k.wire })).wrapFld
    (Reg.fabLinkCount l) 31 0 (linkOf s l).replay.length

theorem replayLink_replays (hs : kvWf regReset s.regs = true) (l : Fin 8) (h : s.MayReplay l.val) :
    State.Signals ((s.resent l.val).setBit (Reg.fabLinkErr l.val) 0 true) (replayLink s l.val) := by
  obtain ⟨hne, hless⟩ := h
  have hlen : (linkOf s l.val).replay.length ≠ 0 := by simpa using hne
  have hold : ¬ (linkOf s l.val).replay.any (fun f => decide (16 ≤ f.resent)) = true := by
    simpa using hless
  have hw : kvWf regReset (s.resent l.val).regs = true :=
    State.setFld_wf (s := s.modLink l.val _) hs ..
  have hcount : State.Signals (s.resent l.val) (count (s.resent l.val) (Reg.obsLink (2 * l.val))
      (244 * (linkOf s l.val).replay.length)) :=
    count_signals (by simp [sigReg, Reg.obsLink, Reg.hstMsixPba]; omega) (.refl _)
  have herr := linkErr_signals (hcount.regs hw).1 l (i := 0) (by decide)
  have hreplay : replayLink s l.val = obsEvent (linkErr (count (s.resent l.val) (Reg.obsLink (2 * l.val))
      (244 * (linkOf s l.val).replay.length)) l.val 0) (180 + l.val) 0x0A 0 0 true l.val
      (linkOf s l.val).replay.length 0 := (if_neg hlen).trans (if_neg hold)
  rw [hreplay]
  exact obsEvent_signals ((hcount.setBit_congr hw (fabLink_unsignalled l.val)).trans herr)

theorem replayLink_gives_up {l : Nat} {f : Flit} (hf : f ∈ (linkOf s l).replay) (hold : 16 ≤ f.resent) :
    replayLink s l = failLink s l 3 := by
  have hlen : (linkOf s l).replay.length ≠ 0 := fun h => by simp [List.length_eq_zero_iff.mp h] at hf
  have hany : (linkOf s l).replay.any (fun f => decide (16 ≤ f.resent)) = true :=
    List.any_eq_true.mpr ⟨f, hf, decide_eq_true hold⟩
  exact (if_neg hlen).trans (if_pos hany)

end

/-- Settles O46: each command by the state of its link, a flit by its checks, and a replay by the attempts made. -/
theorem linksAndFlits : Obligations.LinksAndFlits := by
  refine ⟨fun s l peer hinv => ?_, fun s l b hinv hup => ?_⟩
  · intro ctl en dis failed
    have hs := hinv.canon.regs
    have hfail (reason : Nat) : failed reason (failLink s l.val reason) := failLink_fails hs l reason
    refine ⟨exec_linkEnable hs, fun hdown => ?_, fun hne => ?_, exec_trainingComplete, fun htrain hp => ⟨⟨_, ?_, hfail 1⟩,
      ⟨_, ?_, hfail 2⟩⟩, fun hlink => ⟨_, if_pos hlink, hfail 4⟩, fun hen hstate hreason hboot => ⟨_, rfl, ?_⟩⟩
    · rw [exec_linkDisable]
      exact congrArg Host.Outcome.next (if_pos ((linkState_setCtl hs l.val _).trans hdown))
    · rw [exec_linkDisable]
      exact congrArg Host.Outcome.next (if_neg fun h => hne ((linkState_setCtl hs l.val _).symm.trans h))
    · exact if_pos ⟨htrain, hp⟩
    · exact if_pos ⟨htrain, hp⟩
    · exact if_pos ⟨hen, hstate, hreason, hboot⟩
  · intro replayed goes ctlFlit
    have hs := hinv.canon.regs
    refine ⟨fun hlen hbad => ?_, fun hlen hcrc hty => ?_, fun ack => ?_, fun hgoes => ⟨_, if_pos hup, ?_⟩,
      fun f hf hold => ?_⟩
    · refine ⟨_, linkErr_signals (State.setFld_wf hs ..) l (by decide), ?_⟩
      rw [exec_flitReceive hup hlen, if_pos hbad]
      rfl
    · intro c v
      have hgood := goodFlit_data (s := s) (l := l.val) hty v rfl
      rw [exec_flitReceive hup hlen, if_neg (by simp [hcrc, hty]), hgood]
      exact ⟨fun h => by rw [if_pos h]; rfl, fun h => by rw [if_neg h]; rfl⟩
    · exact fun hgoes => ⟨_, congrArg Host.Outcome.next (if_pos hup),
        replayLink_replays ((takeAck_keeps (.refl s)).inv hinv).canon.regs l hgoes⟩
    · exact replayLink_replays hs l hgoes
    · exact (if_pos hup).trans (congrArg Host.Outcome.next (replayLink_gives_up hf hold))

end Sys2Proof.Machine
end

section
/-! PROOFS. The PCIe endpoint: its resets, its link and its configuration writes (R397, R423, R429 to R434; log 70). -/

namespace Sys2Proof.Machine

section
variable {s t : State}

/-- A field within a field just replaced. -/
theorem bitsOf_putBits_within (w : Word) (v : Nat) {hi lo hi' lo' : Nat} (hh : hi < 64) (hl : lo ≤ lo') (hl' : lo' ≤ hi')
    (hh' : hi' ≤ hi) : bitsOf (putBits w hi lo v) hi' lo' = v >>> (lo' - lo) % 2 ^ (hi' + 1 - lo') := by
  refine Nat.eq_of_testBit_eq fun i => ?_
  rw [bitsOf_testBit, putBits_getLsbD w hi lo v _ hh (by omega), Nat.testBit_mod_two_pow, Nat.testBit_shiftRight]
  by_cases h : i < hi' + 1 - lo'
  · rw [if_pos (by omega), show lo' + i - lo = lo' - lo + i by omega]
  · simp [h]

/-! ### What waits for the host (R44, R49; log 72) -/

theorem endHostWaits_none (h : ∀ p ∈ s.ops, p.phase ≠ .hostWait) : endHostWaits s = s := by
  have hnone : s.ops.filter (fun p => p.phase == .hostWait) = [] := by
    rw [List.filter_eq_nil_iff]
    intro p hp
    simpa using h p hp
  rw [endHostWaits, hnone]
  rfl

theorem discardHost_phases (h : ∀ p ∈ s.ops, p.phase ≠ .hostWait) : ∀ p ∈ (discardHost s).ops, p.phase ≠ .hostWait := by
  intro p hp
  obtain ⟨q, hq, rfl⟩ := List.mem_map.mp hp
  split <;> exact h q hq

theorem discardHost_origins (s : State) : ∀ p ∈ (discardHost s).ops, p.origin ≠ .host := by
  intro p hp
  obtain ⟨q, -, rfl⟩ := List.mem_map.mp hp
  split
  · exact nofun
  · next h => simpa using h

/-! ### A reset of the function (R431; log 70) -/

/-- The configuration space, the MSI-X table and the PBA at their reset values. -/
def State.tableCleared (s : State) : State :=
  { s with regs := s.regs.filter (fun e => !(decide (0xA8000 ≤ e.1) && decide (e.1 < 0xA9008)))
           ep := { s.ep with funcMask := false } }

/-- The function reset, with nothing that waits for the host. -/
def State.functionReset (s : State) : State :=
  discardHost ((s.tableCleared.setBit Reg.hstStat 8 false).setBit Reg.hstStat 9 false)

theorem resetFunction_alone (h : ∀ p ∈ s.ops, p.phase ≠ .hostWait) : resetFunction s = s.functionReset :=
  endHostWaits_none (discardHost_phases (s := (s.tableCleared.setBit Reg.hstStat 8 false).setBit Reg.hstStat 9 false) h)

theorem tableCleared_reg {o : Nat} (ho : o < 0xA8000 ∨ 0xA9008 ≤ o) : s.tableCleared.reg o = s.reg o := by
  refine kvGet_filter rfl fun e _ he => ?_
  simp only [he, Bool.not_eq_true', Bool.and_eq_false_iff, decide_eq_false_iff_not]
  omega

theorem tableCleared_table {o : Nat} (hlo : 0xA8000 ≤ o) (hhi : o < 0xA9008) : s.tableCleared.reg o = regReset o := by
  refine kvGet_of_not_mem fun e he hkey => ?_
  have := (List.mem_filter.mp he).2
  simp [hkey, hlo, hhi] at this

section
variable (hs : kvWf regReset s.regs = true)
include hs

theorem tableCleared_wf : kvWf regReset s.tableCleared.regs = true :=
  kvWf_filter _ hs fun _ he _ => kvWf_ne hs he

theorem functionReset_wf : kvWf regReset s.functionReset.regs = true :=
  State.setBit_wf (s := s.tableCleared.setBit Reg.hstStat 8 false) (State.setBit_wf (tableCleared_wf hs) ..) ..

theorem functionReset_reg {o : Nat} (ho : o ≠ Reg.hstStat) : s.functionReset.reg o = s.tableCleared.reg o :=
  (State.reg_setBit_ne (State.setBit_wf (tableCleared_wf hs) ..) _ _ ho).trans
    (State.reg_setBit_ne (tableCleared_wf hs) _ _ ho)

theorem functionReset_master : s.functionReset.bit Reg.hstStat 8 = false :=
  (bit_setBit_ne (State.setBit_wf (tableCleared_wf hs) ..) (by decide) (.inr (by decide))).trans
    (State.bit_setBit (tableCleared_wf hs) _ _ _ (by decide))

theorem functionReset_d3hot : s.functionReset.bit Reg.hstStat 9 = false :=
  State.bit_setBit (State.setBit_wf (tableCleared_wf hs) ..) _ _ _ (by decide)

theorem functionReset_link : s.functionReset.fld Reg.hstStat 7 0 = s.fld Reg.hstStat 7 0 := by
  refine (fld_setBit_ne (State.setBit_wf (tableCleared_wf hs) ..) (by decide) (by omega)).trans
    ((fld_setBit_ne (tableCleared_wf hs) (by decide) (by omega)).trans ?_)
  rw [State.fld, tableCleared_reg (by decide)]
  rfl

/-! ### The link (R422, R431, R434) -/

theorem linkDownPcie_wf : kvWf regReset (linkDownPcie s).regs = true := State.setBit_wf (State.setFld_wf hs ..) ..

theorem linkDownPcie_down : (linkDownPcie s).fld Reg.hstStat 3 0 = 0 := by
  refine (fld_setBit_ne (State.setFld_wf hs ..) (by decide) (by omega)).trans ?_
  rw [State.fld, State.reg_setFld hs, if_pos rfl, bitsOf_putBits_within _ _ (by decide) (by decide) (by decide) (by decide)]
  rfl

omit hs in
theorem pcieUp_of_down (h : s.fld Reg.hstStat 3 0 = 0) : pcieUp s = false := by simp [pcieUp, h]

/-- An error of the host interface, whether it stood or rises. -/
theorem hstErr_signals {i src : Nat} (hi : i < 64) (hsrc : src < 256) :
    State.Signals (s.setBit Reg.hstErr i true) (sticky s Reg.hstErr i (some src)) :=
  sticky_signals_setBit hs hi (by simpa using hsrc)

theorem hstErr_bit {i : Nat} (hi : i < 64) (h : State.Signals (s.setBit Reg.hstErr i true) t) : t.bit Reg.hstErr i = true :=
  (h.bit_eq (State.setBit_wf hs ..) (by decide) i).trans (State.bit_setBit hs _ _ _ hi)

/-- An error bit and what follows it leave the other registers that no signal writes. -/
theorem hstErr_reg {i o : Nat} (ho : o ≠ Reg.hstErr) (hsig : sigReg o = false)
    (h : State.Signals (s.setBit Reg.hstErr i true) t) : t.reg o = s.reg o :=
  ((h.regs (State.setBit_wf hs ..)).2 o hsig).trans (State.reg_setBit_ne hs _ _ ho)

end

/-! ### The commands -/

theorem exec_perstN_low (hoff : s.power.off = false) (htherm : s.power.thermtrip = false)
    (halone : ∀ p ∈ s.ops, p.phase ≠ .hostWait) : exec (.perstN true) s = .next (sticky
      { (linkDownPcie ({ s with ep := { s.ep with perst := true } } : State).functionReset).setBit Reg.hstStat 11 true with
        ep := { s.ep with perst := true, funcMask := false, crs := true } } Reg.hstErr 3 (some 113)) := by
  have hpower : ¬ (s.power.off = true ∨ s.power.thermtrip = true) := by simp [hoff, htherm]
  refine (if_neg hpower).trans ((if_pos rfl).trans ?_)
  rw [resetFunction_alone (s := { s with ep := { s.ep with perst := true } }) halone]
  rfl

theorem exec_perstN_high (hoff : s.power.off = false) (htherm : s.power.thermtrip = false) :
    exec (.perstN false) s = .next (wakeEvent
      { (s.setBit Reg.hstStat 11 false) with ep := { s.ep with perst := false, crs := true, needPerst := false } } .perst) := by
  have hpower : ¬ (s.power.off = true ∨ s.power.thermtrip = true) := by simp [hoff, htherm]
  exact (if_neg hpower).trans (if_neg Bool.false_ne_true)

theorem configOpen_iff : configOpen s = true ↔ pcieUp s = true ∧ s.ep.perst = false ∧ s.ep.crs = false := by
  simp [configOpen, and_assoc]

theorem exec_pcieLinkUp {speed : Fin 6} {width : BitVec 4} (hperst : s.ep.perst = false) (hneed : s.ep.needPerst = false)
    (hoff : s.power.off = false) (htherm : s.power.thermtrip = false) (hp3 : pState s ≠ 3) (hdown : pcieUp s = false)
    (hspeed : speed.val ≠ 0) (hwidth : width.toNat ∈ [1, 2, 4, 8]) : exec (.pcieLinkUp speed width) s = .next (msixRelease
      ((s.setFld Reg.hstStat 7 0 (speed.val + 16 * width.toNat)).setBit Reg.hstStat 10 (pState s == 2))) := by
  have hw : width.toNat = 1 ∨ width.toNat = 2 ∨ width.toNat = 4 ∨ width.toNat = 8 := by simpa using hwidth
  have htrains : ¬ (s.ep.perst = true ∨ s.ep.needPerst = true ∨ s.power.off = true ∨ s.power.thermtrip = true ∨ pState s = 3 ∨
      pcieUp s = true ∨ speed.val = 0 ∨ ¬ (width.toNat = 1 ∨ width.toNat = 2 ∨ width.toNat = 4 ∨ width.toNat = 8)) := by
    simp [hperst, hneed, hoff, htherm, hp3, hdown, hspeed, hw]
  exact if_neg htrains

end

/-- Settles O50: a reset is that of the function with its pins, and the link and configuration writes set their bits. -/
theorem endpointResetsAndLinks : Obligations.EndpointResetsAndLinks := by
  intro s speed width on hinv open_ alone
  have hs := hinv.canon.regs
  refine ⟨fun hoff htherm halone => ?_, exec_perstN_high, fun hopen halone => ?_, rfl, fun hopen => ?_, fun hup halone => ?_,
    exec_pcieLinkUp, fun hopen => ?_⟩
  · let p : State := { s with ep := { s.ep with perst := true } }
    have hf : kvWf regReset p.functionReset.regs = true := functionReset_wf (s := p) hs
    have hl := linkDownPcie_wf hf
    let u : State := { (linkDownPcie p.functionReset).setBit Reg.hstStat 11 true with
      ep := { s.ep with perst := true, funcMask := false, crs := true } }
    have hu : kvWf regReset u.regs = true := State.setBit_wf hl ..
    have hsig : State.Signals (u.setBit Reg.hstErr 3 true) (sticky u Reg.hstErr 3 (some 113)) :=
      hstErr_signals (s := u) hu (by decide) (by decide)
    have hstat : (sticky u Reg.hstErr 3 (some 113)).reg Reg.hstStat =
        ((linkDownPcie p.functionReset).setBit Reg.hstStat 11 true).reg Reg.hstStat :=
      hstErr_reg (s := u) hu (by decide) (by decide) hsig
    refine ⟨_, exec_perstN_low hoff htherm halone, by rw [hsig.ep]; rfl, by rw [hsig.ep]; rfl, by rw [hsig.ep]; rfl,
      hstErr_bit (s := u) hu (by decide) hsig, pcieUp_of_down ?_, ?_, ?_, hsig.mem⟩
    · rw [State.fld, hstat]
      exact (fld_setBit_ne hl (by decide) (by omega)).trans (linkDownPcie_down hf)
    · rw [State.bit, hstat]
      exact State.bit_setBit hl _ _ _ (by decide)
    · rw [hsig.ops]
      exact discardHost_origins ((p.tableCleared.setBit Reg.hstStat 8 false).setBit Reg.hstStat 9 false)
  · have hf := functionReset_wf hs
    have hsig := hstErr_signals hf (i := 4) (src := 114) (by decide) (by decide)
    have hstat := hstErr_reg hf (o := Reg.hstStat) (by decide) (by decide) hsig
    refine ⟨_, congrArg Host.Outcome.next ((if_pos (configOpen_iff.mpr hopen)).trans
      (congrArg (sticky · Reg.hstErr 4 (some 114)) (resetFunction_alone halone))), hstErr_bit hf (by decide) hsig,
      by rw [hsig.ep]; rfl, ?_, ?_, ?_, fun v hv => ?_, ?_, hsig.mem⟩
    · rw [State.bit, hstat]; exact functionReset_master hs
    · rw [State.bit, hstat]; exact functionReset_d3hot hs
    · rw [State.fld, hstat]; exact functionReset_link hs
    · rw [hstErr_reg hf (by simp only [Reg.hstMsixTab, Reg.hstErr]; omega)
        (by simp [sigReg, Reg.hstMsixTab, Reg.hstMsixPba]; omega) hsig,
        functionReset_reg hs (by simp only [Reg.hstMsixTab, Reg.hstStat]; omega)]
      exact tableCleared_table (by simp only [Reg.hstMsixTab]; omega) (by simp only [Reg.hstMsixTab]; omega)
    · rw [hsig.ops]
      exact discardHost_origins _
  · exact congrArg Host.Outcome.next (if_pos (configOpen_iff.mpr hopen))
  · have hl := linkDownPcie_wf hs
    have hsig := hstErr_signals hl (i := 3) (src := 113) (by decide) (by decide)
    have hexec : exec .pcieLinkDown s = .next (sticky (linkDownPcie s) Reg.hstErr 3 (some 113)) :=
      congrArg Host.Outcome.next ((if_pos hup).trans (endHostWaits_none (by rw [hsig.ops]; exact halone)))
    refine ⟨_, hexec, hsig.mem, hstErr_bit hl (by decide) hsig, pcieUp_of_down ?_, hsig.ops⟩
    rw [State.fld, hstErr_reg hl (by decide) (by decide) hsig]
    exact linkDownPcie_down hs
  · have hshut : ¬ (!configOpen s) = true := by simp [configOpen_iff.mpr hopen]
    exact ⟨if_neg hshut, if_neg hshut, if_neg hshut⟩

end Sys2Proof.Machine
end

section
/-! PROOFS. What a freeze and a raised source leave of the observation unit (R429, R488, R490, R498). -/

namespace Sys2Proof.Machine

section
variable {s t : State}

/-! ### Raising a source (R429, R498, R499) -/

/-- The registers that raising a source writes. -/
def raiseReg (o : Nat) : Bool := (decide (0x20000 ≤ o) && decide (o < 0x20020)) || o == Reg.hstMsixPba

theorem msixDue_obs (s : State) (v : Nat) : (msixDue s v).obs = s.obs := by
  unfold msixDue
  split <;> rfl

theorem foldl_msixDue_obs (vs : List Nat) (s : State) : (vs.foldl msixDue s).obs = s.obs := by
  induction vs generalizing s with
  | nil => rfl
  | cons v vs ih => rw [List.foldl_cons, ih, msixDue_obs]

theorem deliverAll_obs (s : State) (srcs : List Nat) : (deliverAll s srcs).obs = s.obs := foldl_msixDue_obs _ s

theorem raiseCore_obs (s : State) (n : Nat) : (raiseCore s n).obs = s.obs := by
  unfold raiseCore
  extract_lets k b t
  split
  · rfl
  · split
    · exact deliverAll_obs t _
    · rfl

theorem stickyCore_obs (s : State) (off bit : Nat) (src : Option Nat) : (stickyCore s off bit src).obs = s.obs := by
  unfold stickyCore
  extract_lets t
  split
  · rfl
  · split
    · exact raiseCore_obs t _
    · rfl

theorem msixDue_regsBut (h : State.RegsBut raiseReg s t) (v : Nat) : State.RegsBut raiseReg s (msixDue t v) := by
  unfold msixDue
  split
  · exact h
  · exact h.setBit (by decide)

theorem foldl_msixDue_regsBut (vs : List Nat) (h : State.RegsBut raiseReg s t) :
    State.RegsBut raiseReg s (vs.foldl msixDue t) := by
  induction vs generalizing t with
  | nil => exact h
  | cons v vs ih => exact ih (msixDue_regsBut h v)

theorem raiseCore_regsBut {n : Nat} (hn : n < 256) (s : State) : State.RegsBut raiseReg s (raiseCore s n) := by
  have hpend : raiseReg (Reg.intPend (n / 64)) = true := by simp [raiseReg, Reg.intPend]; omega
  unfold raiseCore
  extract_lets k b t
  have ht : State.RegsBut raiseReg s t := .setBit hpend (.refl _ _)
  split
  · exact .refl _ _
  · split
    · exact foldl_msixDue_regsBut _ ht
    · exact ht

/-! ### The causes of a freeze (R490) -/

theorem setTrBuf_causes (s : State) (n : Nat) (b : TraceBuf) : (s.setTrBuf n b).obs.causes = s.obs.causes := rfl

theorem trPush_causes (s : State) (n : Nat) (r : ObsRec) (f : Bool) : (trPush s n r f).obs.causes = s.obs.causes := by
  unfold trPush
  extract_lets b full u
  have hu : u.obs = s.obs := by
    unfold u
    split
    · exact stickyCore_obs ..
    · rfl
  clear_value u
  rw [← hu]
  split
  · split_ifs <;> rfl
  · split_ifs <;> rfl
  · split
    · rfl
    · rfl
    · extract_lets w
      split <;> rfl
  · split <;> rfl

theorem freezeBuf_causes (c : Nat) (s : State) (n : Nat) : (freezeBuf c s n).obs.causes = s.obs.causes := by
  unfold freezeBuf
  extract_lets w e u b kept v x
  split
  · rfl
  · split
    · exact trPush_causes u ..
    · split
      · split <;> rfl
      · exact trPush_causes u ..

theorem foldl_freezeBuf_causes (c : Nat) (ns : List Nat) (s : State) :
    (ns.foldl (freezeBuf c) s).obs.causes = s.obs.causes := by
  induction ns generalizing s with
  | nil => rfl
  | cons n ns ih => rw [List.foldl_cons, ih, freezeBuf_causes]

/-- The registers that keep the snapshot of the counters. -/
def snapReg (o : Nat) : Bool := decide (0x63000 ≤ o) && decide (o < 0x63400)

theorem snapCounters_writesOnly (s : State) : State.WritesOnly snapReg s (snapCounters s) := by
  refine .foldl (fun t i hi h => .setReg ?_ h) (.refl _ _)
  have := List.mem_range.mp hi
  simp [snapReg, Reg.obsSnap]
  omega

theorem snapCounters_obs (s : State) : (snapCounters s).obs = s.obs := by
  obtain ⟨r, hr⟩ := (snapCounters_writesOnly s).same
  rw [hr]
  rfl

theorem snapCounters_tim (s : State) : (snapCounters s).tim = s.tim := by
  obtain ⟨r, hr⟩ := (snapCounters_writesOnly s).same
  rw [hr]
  rfl

/-! ### A freeze that stands and one that begins (R490) -/

/-- The causes with those of a freeze. -/
def State.addCauses (s : State) (c : Nat) : State := { s with obs := { s.obs with causes := s.obs.causes ||| c } }

/-- The causes shown, and the interrupt of an overrun. -/
def State.causesSeen (s : State) (c : Nat) : State :=
  if c.testBit 1 then raiseCore (s.addCauses c) 205 else s.addCauses c

theorem causesSeen_obs (s : State) (c : Nat) : (s.causesSeen c).obs = { s.obs with causes := s.obs.causes ||| c } := by
  unfold State.causesSeen
  split
  · exact raiseCore_obs ..
  · rfl

theorem causesSeen_regsBut (s : State) (c : Nat) : State.RegsBut raiseReg s (s.causesSeen c) := by
  unfold State.causesSeen
  split
  · exact raiseCore_regsBut (by decide) (s.addCauses c)
  · exact .refl _ _

theorem causesSeen_signals (s : State) (c : Nat) : State.Signals s (s.causesSeen c) := by
  have h : State.Signals s (s.addCauses c) :=
    signals_mk (keeperSignals := s.keeperSignals) (msix := s.ep.msix) (sent := s.ep.sent) (.refl s)
  unfold State.causesSeen
  split
  · exact raiseCore_signals (by decide) h
  · exact h

theorem causesSeen_frozen (hs : kvWf regReset s.regs = true) (c : Nat) : frozen (s.causesSeen c) = frozen s := by
  rw [frozen, State.bit, (causesSeen_regsBut s c hs).2 _ (by decide)]
  rfl

/-- A standing freeze takes the causes alone. -/
theorem freezeNow_standing (hs : kvWf regReset s.regs = true) (h : frozen s = true) (c : Nat) :
    freezeNow s c = s.causesSeen c :=
  if_pos ((causesSeen_frozen hs c).trans h)

/-- The buffers frozen, the freeze shown and the counters kept. -/
def State.freezeShown (s : State) (c : Nat) : State :=
  snapCounters (((List.range 12).foldl (freezeBuf c) (s.causesSeen c)).setBit Reg.obsStat 16 true)

theorem freezeShown_obs (s : State) (c : Nat) :
    (s.freezeShown c).obs = ((List.range 12).foldl (freezeBuf c) (s.causesSeen c)).obs := by
  rw [State.freezeShown, snapCounters_obs, State.setBit_obs]

theorem freezeShown_tim (s : State) (c : Nat) :
    (s.freezeShown c).tim = ((List.range 12).foldl (freezeBuf c) (s.causesSeen c)).tim := by
  rw [State.freezeShown, snapCounters_tim, State.setBit_tim]

/-- The freeze stamped. -/
def State.freezeStamped (s : State) (c : Nat) : State :=
  (s.freezeShown c).setReg Reg.obsFreezeTime (BitVec.ofNat 64 (s.freezeShown c).now)

/-- OUTPIN driven where the freeze is to drive it. -/
def State.pinOut (s : State) : State :=
  if s.bit Reg.obsFreezeCtl 27 = true then { s with obs := { s.obs with outpin := true } } else s

theorem pinOut_regs (s : State) : s.pinOut.regs = s.regs := by
  unfold State.pinOut
  split <;> rfl

theorem pinOut_causes (s : State) : s.pinOut.obs.causes = s.obs.causes := by
  unfold State.pinOut
  split <;> rfl

theorem freezeNow_begins (hs : kvWf regReset s.regs = true) (h : frozen s = false) (c : Nat) :
    freezeNow s c = raiseCore (s.freezeStamped c).pinOut 202 :=
  if_neg (Bool.eq_false_iff.mp ((causesSeen_frozen hs c).trans h))

/-- What a freeze that begins shows. -/
structure FreezeBegun (s : State) (c : Nat) (t : State) : Prop where
  signals : State.Signals s t
  frozen  : frozen t = true
  time    : t.reg Reg.obsFreezeTime = BitVec.ofNat 64 s.now
  causes  : t.obs.causes = s.obs.causes ||| c

theorem freezeNow_begun (hs : kvWf regReset s.regs = true) (h : frozen s = false) (c : Nat) :
    FreezeBegun s c (freezeNow s c) := by
  have hbufs : State.Signals s ((List.range 12).foldl (freezeBuf c) (s.causesSeen c)) :=
    signals_foldl (causesSeen_signals s c) (fun _ x hx => freezeBuf_signals (by simpa using hx))
  have hw := (hbufs.regs hs).1
  obtain ⟨hshown, hkept⟩ := (snapCounters_writesOnly _).regs (State.setBit_wf hw Reg.obsStat 16 true)
  have hfrozen : frozen (s.freezeShown c) = true := by
    rw [frozen, State.bit, State.freezeShown, hkept _ (by decide)]
    exact State.bit_setBit hw _ _ _ (by decide)
  have hnow : (s.freezeShown c).now = s.now := by
    simp only [State.now, freezeShown_tim, hbufs.tim]
  have hcauses : (s.freezeStamped c).obs.causes = s.obs.causes ||| c := by
    rw [State.freezeStamped, State.setReg_obs, freezeShown_obs, foldl_freezeBuf_causes, causesSeen_obs]
  have hpw : kvWf regReset (s.freezeStamped c).pinOut.regs = true := by
    rw [pinOut_regs]
    exact State.setReg_wf hshown ..
  have hlast := (raiseCore_regsBut (n := 202) (by decide) (s.freezeStamped c).pinOut hpw).2
  have hbegins := freezeNow_begins hs h c
  refine ⟨freezeNow_signals (.refl s), ?_, ?_, ?_⟩
  · rw [hbegins, frozen, State.bit, hlast _ (by decide), State.reg_of_regs (pinOut_regs _),
      show (s.freezeStamped c).reg Reg.obsStat = _ from State.reg_setReg_ne hshown _ (by decide)]
    exact hfrozen
  · rw [hbegins, hlast _ (by decide), State.reg_of_regs (pinOut_regs _), ← hnow]
    exact (State.reg_setReg hshown ..).trans (if_pos rfl)
  · rw [hbegins, raiseCore_obs, pinOut_causes, hcauses]

end

end Sys2Proof.Machine
end

section
/-! PROOFS. Trace buffers and their drain, the commands of the freeze trigger, and marks (R485 to R494). -/

namespace Sys2Proof.Machine

section
variable {s t : State} {n : Nat}

theorem bitOf_or (a b : Word) (i : Nat) : bitOf (a ||| b) i = (bitOf a i || bitOf b i) := BitVec.getLsbD_or

theorem bitOf_and (a b : Word) (i : Nat) : bitOf (a &&& b) i = (bitOf a i && bitOf b i) := BitVec.getLsbD_and

/-- A field that an added bit does not meet. -/
theorem bitsOf_or_of_apart (w m : Word) {hi lo : Nat} (hm : bitsOf m hi lo = 0) :
    bitsOf (w ||| m) hi lo = bitsOf w hi lo := by
  refine Nat.eq_of_testBit_eq fun i => ?_
  have hbit := bitsOf_testBit m hi lo i
  rw [hm, Nat.zero_testBit] at hbit
  rw [bitsOf_testBit, bitsOf_testBit, BitVec.getLsbD_or]
  by_cases h : i < hi + 1 - lo
  · simp_all
  · simp [h]

/-- An access that the level refuses (R493). -/
theorem obsDenied_signals (hs : kvWf regReset s.regs = true) : State.Signals (s.setBit Reg.obsErr 1 true) (obsDenied s) :=
  sticky_signals_setBit hs (by decide) (by simp)

/-! ### TRACE_ENABLE (R487, R488) -/

/-- OBS_TRn_CTL as a write with EN leaves it, before EN is set. -/
def traceCtl (w : Word) : Word :=
  putBits (putBits (w ||| 1) 52 40 (min (bitsOf (w ||| 1) 52 40) (8190 - bitsOf (w ||| 1) 39 27)) &&& 0x1FFFFFF8C3FFFF#64) 0 0 0

theorem traceCtl_policy (w : Word) : bitsOf (traceCtl w) 23 22 = bitsOf w 23 22 := by
  rw [traceCtl, bitsOf_putBits_ne _ _ _ _ _ _ (by decide) (by decide) (.inr (by decide)), bitsOf_and_mask _ _ (by decide),
    bitsOf_putBits_ne _ _ _ _ _ _ (by decide) (by decide) (.inl (by decide)), bitsOf_or_of_apart _ _ (by decide)]

/-- The buffer's settings, before EN is set. -/
def State.traceSet (s : State) (n : Nat) : State := s.setReg (Reg.obsTrCtl n) (traceCtl (s.reg (Reg.obsTrCtl n)))

/-- The buffer emptied. -/
def State.traceEmptied (s : State) (n : Nat) : State :=
  ((s.traceSet n).setReg (Reg.obsTrWrpos n) 0).setTrBuf n ⟨[], 0, none⟩

/-- The buffer that takes records. -/
def State.traceStarted (s : State) (n : Nat) : State :=
  ((s.traceEmptied n).setBit (Reg.obsTrCtl n) 0 true).setBit Reg.obsStat n false

theorem exec_traceEnable_denied {n : Fin 12} (h : debugLevel s = 0) : exec (.traceEnable n) s = .next (obsDenied s) :=
  congrArg Host.Outcome.next (if_pos (.inl h))

theorem obsTr_apart (n : Nat) : Reg.obsTrCtl n ≠ Reg.obsStat ∧ Reg.obsTrWrpos n ≠ Reg.obsStat ∧
    Reg.obsTrWrpos n ≠ Reg.obsTrCtl n := by
  simp only [Reg.obsTrCtl, Reg.obsTrWrpos, Reg.obsStat]
  omega

section
variable (hs : kvWf regReset s.regs = true)
include hs

theorem traceSet_wf (n : Nat) : kvWf regReset (s.traceSet n).regs = true := State.setReg_wf hs ..

theorem traceSet_reg {o : Nat} (ho : o ≠ Reg.obsTrCtl n) : (s.traceSet n).reg o = s.reg o := State.reg_setReg_ne hs _ ho

theorem traceRingOk_traceSet (hn : n < 12) : traceRingOk (s.traceSet n) n = traceRingOk s n := by
  have hlow : ∀ o ∈ placeRegs, o < 0x60100 ∨ 0x60400 ≤ o := by decide
  have hplace : ∀ o ∈ placeRegs, (s.traceSet n).reg o = s.reg o := fun o ho =>
    have := hlow o ho
    traceSet_reg hs (by simp only [Reg.obsTrCtl]; omega)
  have hring : (s.traceSet n).reg (Reg.obsTrRing n) = s.reg (Reg.obsTrRing n) :=
    traceSet_reg hs (by simp only [Reg.obsTrRing, Reg.obsTrCtl]; omega)
  simp only [traceRingOk, hring, ringOk_congr_regs hplace rfl]

theorem exec_traceEnable {n : Fin 12} (hlevel : 0 < debugLevel s) (hpolicy : s.fld (Reg.obsTrCtl n.val) 23 22 ≠ 3)
    (hoff : s.bit (Reg.obsTrCtl n.val) 0 = false) (hring : traceRingOk s n.val = true) :
    exec (.traceEnable n) s = .next (s.traceStarted n.val) := by
  have hstall : ¬ (debugLevel s = 0 ∨ bitsOf (s.reg (Reg.obsTrCtl n.val) ||| 1) 23 22 = 3 ∧ debugLevel s < 3) := by
    rw [bitsOf_or_of_apart _ _ (by decide)]
    rintro (h | ⟨h, -⟩)
    · omega
    · exact hpolicy h
  have hen : bitOf (putBits (s.reg (Reg.obsTrCtl n.val) ||| 1) 52 40 (min (bitsOf (s.reg (Reg.obsTrCtl n.val) ||| 1) 52 40)
      (8190 - bitsOf (s.reg (Reg.obsTrCtl n.val) ||| 1) 39 27)) &&& 0x1FFFFFF8C3FFFF#64) 0 = true := by
    rw [bitOf_and_mask _ _ (by decide), bitOf_putBits_ne _ _ _ _ _ (by decide) (by decide) (.inl (by decide)), bitOf_or]
    exact Bool.or_true _
  show Host.Outcome.next (writeTrCtl s n.val _) = _
  simp only [writeTrCtl, if_neg hstall, hoff, hen, Bool.false_eq_true, if_false, Bool.not_false, Bool.and_self, if_true]
  exact congrArg Host.Outcome.next (if_pos ((traceRingOk_traceSet hs n.isLt).trans hring))

theorem traceEmptied_wf (n : Nat) : kvWf regReset (s.traceEmptied n).regs = true :=
  State.setReg_wf (traceSet_wf hs n) ..

theorem traceEmptied_reg {o : Nat} (h1 : o ≠ Reg.obsTrCtl n) (h2 : o ≠ Reg.obsTrWrpos n) :
    (s.traceEmptied n).reg o = s.reg o :=
  (State.reg_setReg_ne (traceSet_wf hs n) _ h2).trans (traceSet_reg hs h1)

theorem traceStarted_reg {o : Nat} (h1 : o ≠ Reg.obsTrCtl n) (h2 : o ≠ Reg.obsStat) :
    (s.traceStarted n).reg o = (s.traceEmptied n).reg o :=
  (State.reg_setBit_ne (State.setBit_wf (traceEmptied_wf hs n) ..) _ _ h2).trans
    (State.reg_setBit_ne (traceEmptied_wf hs n) _ _ h1)

theorem traceStarted_en (hn : n < 12) : (s.traceStarted n).bit (Reg.obsTrCtl n) 0 = true :=
  (bit_setBit_ne (State.setBit_wf (traceEmptied_wf hs n) ..) (by omega) (.inl (obsTr_apart n).1)).trans
    (State.bit_setBit (traceEmptied_wf hs n) _ _ _ (by decide))

theorem traceStarted_full (hn : n < 12) : (s.traceStarted n).bit Reg.obsStat n = false :=
  State.bit_setBit (State.setBit_wf (traceEmptied_wf hs n) ..) _ _ _ (by omega)

theorem traceStarted_wrpos (n : Nat) : (s.traceStarted n).reg (Reg.obsTrWrpos n) = 0 :=
  (traceStarted_reg hs (obsTr_apart n).2.2 (obsTr_apart n).2.1).trans
    ((State.reg_setReg (traceSet_wf hs n) ..).trans (if_pos rfl))

theorem traceStarted_policy (hn : n < 12) :
    (s.traceStarted n).fld (Reg.obsTrCtl n) 23 22 = s.fld (Reg.obsTrCtl n) 23 22 := by
  refine (fld_setBit_ne (State.setBit_wf (traceEmptied_wf hs n) ..) (by omega) (.inl (obsTr_apart n).1)).trans
    ((fld_setBit_ne (traceEmptied_wf hs n) (by decide) (by omega)).trans ?_)
  rw [State.fld, show (s.traceEmptied n).reg (Reg.obsTrCtl n) = _ from
    State.reg_setReg_ne (traceSet_wf hs n) _ (obsTr_apart n).2.2.symm, State.traceSet, State.reg_setReg hs, if_pos rfl]
  exact traceCtl_policy _

end

theorem trBuf_setTrBuf (hn : n < s.obs.bufs.length) (b : TraceBuf) : trBuf (s.setTrBuf n b) n = b := by
  simp [trBuf, State.setTrBuf, hn]

/-! ### TRACE_DRAIN (R487, R488, R493) -/

theorem exec_traceDrain_not_due {n : Fin 12} (h : s.bit (Reg.obsTrCtl n.val) 0 = false ∨ debugLevel s = 0 ∨
    chunkDue s (trBuf s n.val) = false ∨
    (s.fld (Reg.obsTrCtl n.val) 23 22 = 2 ∧ (trBuf s n.val).post ≠ some 0)) : exec (.traceDrain n) s = .next s := by
  have hnot : (!s.bit (Reg.obsTrCtl n.val) 0 || debugLevel s == 0 || !chunkDue s (trBuf s n.val)
      || (s.fld (Reg.obsTrCtl n.val) 23 22 == 2 && (trBuf s n.val).post != some 0)) = true := by
    rcases h with h | h | h | ⟨h, hpost⟩
    · simp [h]
    · simp [h]
    · simp [h]
    · simp [h, hpost]
  exact if_pos hnot

theorem exec_traceDrain_due {n : Fin 12} (hen : s.bit (Reg.obsTrCtl n.val) 0 = true) (hlevel : debugLevel s ≠ 0)
    (hdue : chunkDue s (trBuf s n.val) = true) (hpolicy : s.fld (Reg.obsTrCtl n.val) 23 22 = 0) :
    exec (.traceDrain n) s = .next (drainChunk s n.val) := by
  have hnot : ¬ (!s.bit (Reg.obsTrCtl n.val) 0 || debugLevel s == 0 || !chunkDue s (trBuf s n.val)
      || (s.fld (Reg.obsTrCtl n.val) 23 22 == 2 && (trBuf s n.val).post != some 0)) = true := by
    simp [hen, hlevel, hdue, hpolicy]
  exact if_neg hnot

/-- Every record is seen at level 3. -/
theorem levelSees_three (mask : Nat) : levelSees 3 mask = fun _ => true := rfl

theorem lookedRoom_same (s : State) (n : Nat) : (lookedRoom s n).regs = s.regs ∧ (lookedRoom s n).obs = s.obs := by
  unfold lookedRoom
  extract_lets rel
  split <;> exact ⟨rfl, rfl⟩

theorem dueLost_none {b : TraceBuf} (hb : trBuf s n = b) (hlost : b.lost = 0) : dueLost s n = s := by
  subst hb
  exact if_pos hlost

/-- A chunk of a ring buffer with nothing lost, at level 3: its records go to the ring, and the buoy counts the chunk. -/
theorem drainChunk_ring {k : Nat} {b : TraceBuf} (hb : trBuf s n = b) (hk : k = min (min 64 (ringRoom s n)) b.recs.length)
    (hlevel : debugLevel s = 3) (hpolicy : s.fld (Reg.obsTrCtl n) 23 22 = 0) (hlost : b.lost = 0) (hpost : b.post = none)
    (hpos : 0 < k) : drainChunk s n = bumpTo ((b.recs.take k).foldl (drainRec n)
      ((lookedRoom s n).setTrBuf n { b with recs := b.recs.drop k })) (s.reg (Reg.obsTrBuoy n)) true 3 := by
  obtain ⟨hregs, hobs⟩ := lookedRoom_same s n
  have hbuf : trBuf (lookedRoom s n) n = b := by rw [trBuf, hobs]; exact hb
  have hroom : (ringRoom s n == 0) = false := by
    have : ringRoom s n ≠ 0 := by omega
    simpa using this
  have hlevel' : debugLevel (lookedRoom s n) = 3 := (State.fld_of_regs hregs ..).trans hlevel
  have hbuoy : ((lookedRoom s n).setTrBuf n { b with recs := b.recs.drop k }).reg (Reg.obsTrBuoy n) =
      s.reg (Reg.obsTrBuoy n) := State.reg_of_regs (t := (lookedRoom s n).setTrBuf n _) hregs _
  have hk0 : k ≠ 0 := by omega
  have hpost' : ¬ (b.post = some 0 ∧
      (trBuf (bumpTo ((b.recs.take k).foldl (drainRec n) ((lookedRoom s n).setTrBuf n { b with recs := b.recs.drop k }))
        (s.reg (Reg.obsTrBuoy n)) true 3) n).recs.isEmpty = true) := by simp [hpost]
  have hstop : ((0 : Nat) == 1) = false := rfl
  simp only [drainChunk, hpolicy, hroom, hstop, Bool.or_self, Bool.false_eq_true, if_false, dueLost_none hbuf hlost, hbuf,
    ← hk, hk0, hlevel', levelSees_three, List.filter_true, hbuoy, hpost']

/-! ### The freeze trigger (R490, R493) -/

/-- OBS_FREEZE_CTL as a write leaves it. -/
def State.freezeSet (s : State) (v : Word) : State := s.setReg Reg.obsFreezeCtl (v &&& 0xFFFF803F)

theorem exec_fire_denied (h : debugLevel s = 0) : exec .fire s = .next (obsDenied s) := congrArg Host.Outcome.next (if_pos h)

theorem exec_thaw_denied (h : debugLevel s = 0) : exec .thaw s = .next (obsDenied s) := congrArg Host.Outcome.next (if_pos h)

theorem freezeSet_frozen (hs : kvWf regReset s.regs = true) (v : Word) : frozen (s.freezeSet v) = frozen s :=
  bit_setReg_ne hs _ _ (by decide)

theorem exec_fire (hs : kvWf regReset s.regs = true) (hlevel : 0 < debugLevel s) (hen : s.bit Reg.obsFreezeCtl 0 = true)
    (hthaw : s.bit Reg.obsFreezeCtl 33 = false) :
    exec .fire s = .next (freezeNow (s.freezeSet (s.reg Reg.obsFreezeCtl ||| 0x100000000)) 1) := by
  have hfire : bitOf (s.reg Reg.obsFreezeCtl ||| 0x100000000) 32 = true := by
    rw [bitOf_or]
    exact Bool.or_true _
  have hgo : bitOf (s.reg Reg.obsFreezeCtl ||| 0x100000000) 33 = false := by
    rw [bitOf_or, show bitOf (s.reg Reg.obsFreezeCtl) 33 = false from hthaw]
    rfl
  have hcause : (s.freezeSet (s.reg Reg.obsFreezeCtl ||| 0x100000000)).bit Reg.obsFreezeCtl 0 = true := by
    rw [State.bit, State.freezeSet, State.reg_setReg hs, if_pos rfl, bitOf_and_mask _ _ (by decide), bitOf_or,
      show bitOf (s.reg Reg.obsFreezeCtl) 0 = true from hen]
    rfl
  show Host.Outcome.next (writeFreezeCtl s _) = _
  rw [writeFreezeCtl, if_neg (by omega)]
  simp only [hfire, hgo, Bool.false_eq_true, if_true, if_false]
  exact congrArg Host.Outcome.next (if_pos hcause)

theorem exec_thaw (hlevel : 0 < debugLevel s) (hfire : s.bit Reg.obsFreezeCtl 32 = false) :
    exec .thaw s = .next (thaw (s.freezeSet (s.reg Reg.obsFreezeCtl ||| 0x200000000))) := by
  have hgo : bitOf (s.reg Reg.obsFreezeCtl ||| 0x200000000) 33 = true := by
    rw [bitOf_or]
    exact Bool.or_true _
  have hnot : bitOf (s.reg Reg.obsFreezeCtl ||| 0x200000000) 32 = false := by
    rw [bitOf_or, show bitOf (s.reg Reg.obsFreezeCtl) 32 = false from hfire]
    rfl
  show Host.Outcome.next (writeFreezeCtl s _) = _
  rw [writeFreezeCtl, if_neg (by omega)]
  simp only [hgo, hnot, Bool.false_eq_true, if_true, if_false]
  rfl

/-- The buffers that accept records again. -/
def State.buffersThawed (s : State) : State :=
  (List.range 12).foldl (fun s n =>
    if s.fld (Reg.obsTrCtl n) 23 22 = 2 then s else s.setBit Reg.obsStat n false) s

theorem thaw_eq (s : State) : thaw s = { s.buffersThawed.setBit Reg.obsStat 16 false with
    obs := { s.buffersThawed.obs with causes := 0, outpin := false } } := rfl

theorem buffersThawed_writesOnly (s : State) : State.WritesOnly (· == Reg.obsStat) s s.buffersThawed := by
  refine .foldl (fun t n _ h => ?_) (.refl _ _)
  split
  · exact h
  · exact .setFld (by decide) h

/-- What a thaw leaves (R490). -/
structure Thawed (s t : State) : Prop where
  frozen : frozen t = false
  obs    : t.obs = { s.obs with causes := 0, outpin := false }
  mem    : t.mem = s.mem

theorem thaw_thawed (hs : kvWf regReset s.regs = true) : Thawed s (thaw s) := by
  obtain ⟨⟨r, hr⟩, hregs⟩ := buffersThawed_writesOnly s
  refine ⟨State.bit_setBit (hregs hs).1 _ _ _ (by decide), ?_, ?_⟩
  · rw [thaw_eq, hr]
    rfl
  · rw [thaw_eq, hr]
    rfl

/-! ### MARK (R485, R491) -/

theorem exec_mark_denied {v : Word} (h : debugLevel s = 0) : exec (.mark v) s = .next (obsDenied s) :=
  congrArg Host.Outcome.next (if_pos h)

/-- The record of a mark. -/
def markRec (s : State) (n : Nat) (v : Word) : ObsRec :=
  { (bufRec s n 0x0D 0 (v &&& ~~~0xF).toNat).2 with
    attr := (bufRec s n 0x0D 0 (v &&& ~~~0xF).toNat).2.attr / 128 * 128 + Config.freeBelow (s.freeCtr + 1) 128 }

theorem exec_mark {v : Word} (hlevel : 0 < debugLevel s) (hn : bitsOf v 3 0 < 12) :
    exec (.mark v) s = .next (obsPush s.bumpFree.bumpFree (markRec s (bitsOf v 3 0) v)) := by
  have h0 : ¬ debugLevel s = 0 := by omega
  have h12 : ¬ 12 ≤ bitsOf v 3 0 := by omega
  exact congrArg Host.Outcome.next ((if_neg h0).trans (if_neg h12))

theorem bufUnits_ne_nil (hn : n < 12) : bufUnits n ≠ [] := by
  revert n
  decide

/-- The record names a unit of its buffer. -/
theorem markRec_unit (s : State) (v : Word) (hn : n < 12) : traceBufOf (markRec s n v).unit = some n := by
  have hlt := freeBelow_lt s.freeCtr (List.length_pos_iff.mpr (bufUnits_ne_nil hn))
  have hmem : (bufUnits n).getD (Config.freeBelow s.freeCtr (bufUnits n).length) 0 ∈ bufUnits n := by
    rw [List.getD_eq_getElem _ _ hlt]
    exact List.getElem_mem hlt
  exact eq_of_beq (List.mem_filter.mp hmem).2

/-- The last-event ring of a record's unit holds it. -/
theorem lerPush_mem (s : State) (r : ObsRec) : r ∈ (lerPush s r).obs.lers.flatMap (·.recs) := by
  have hhead (rs : List ObsRec) : r ∈ (r :: rs).take 64 := List.mem_cons_self
  unfold lerPush
  extract_lets upd ls
  rw [List.mem_flatMap]
  split
  · next h =>
    obtain ⟨l, hl, hunit⟩ := List.any_eq_true.mp h
    exact ⟨upd l, List.mem_map.mpr ⟨l, hl, if_pos hunit⟩, hhead _⟩
  · exact ⟨upd ⟨r.unit, 0, []⟩, List.mem_append_right _ List.mem_cons_self, hhead _⟩

theorem lerPush_eq (s : State) (r : ObsRec) :
    lerPush s r = { s with obs := { s.obs with lers := (lerPush s r).obs.lers } } := rfl

/-- An event whose buffer does not record goes to its last-event ring alone. -/
theorem obsPush_ler {r : ObsRec} (hopen : lerOpen s = true) (hbuf : traceBufOf r.unit = some n)
    (hoff : s.bit (Reg.obsTrCtl n) 0 = false) : obsPush s r = lerPush s r := by
  have hrec : bitOf ((lerPush s r).reg (Reg.obsTrCtl n)) 0 = false := hoff
  simp only [obsPush, hopen, hbuf, hrec, if_true, Bool.false_and, Bool.false_eq_true, if_false]

end

/-- Settles O58: each command by the level, and then by what its buffer, the freeze or the last-event rings hold. -/
theorem tracesFreezesAndMarks : Obligations.TracesFreezesAndMarks := by
  intro s n v hinv ctl b denied
  have hs := hinv.canon.regs
  have hdenied : denied (obsDenied s) := obsDenied_signals hs
  have hbufs : n.val < s.obs.bufs.length := by rw [hinv.shape.bufs]; exact n.isLt
  refine ⟨fun hlevel => ⟨⟨_, exec_traceEnable_denied hlevel, hdenied⟩, ⟨_, exec_fire_denied hlevel, hdenied⟩,
      ⟨_, exec_thaw_denied hlevel, hdenied⟩, ⟨_, exec_mark_denied hlevel, hdenied⟩⟩,
    fun hlevel hpolicy hoff hring => ⟨_, exec_traceEnable hs hlevel hpolicy hoff hring, traceStarted_en hs n.isLt,
      traceStarted_wrpos hs _, ?_, traceStarted_full hs n.isLt, traceStarted_policy hs n.isLt, rfl, fun o ho => ?_⟩,
    exec_traceDrain_not_due, fun hen hlevel hdue hpolicy hlost hpost hpos => ?_, fun c hc => ?_, fun c hc hthawed => ?_,
    fun c hc hfrozen => ?_, fun hlevel hen hthaw hthawed => ?_, fun hlevel hfire => ?_, fun hlevel hn hopen hoff => ?_⟩
  · exact trBuf_setTrBuf (s := (s.traceSet n.val).setReg (Reg.obsTrWrpos n.val) 0) hbufs _
  · simp only [List.mem_cons, List.not_mem_nil, or_false, not_or] at ho
    obtain ⟨hctl, hwrpos, hstat⟩ := ho
    rw [traceStarted_reg hs hctl hstat, traceEmptied_reg hs hctl hwrpos]
  · intro k u
    rw [exec_traceDrain_due hen (by omega) hdue hpolicy, drainChunk_ring rfl rfl hlevel hpolicy hlost hpost hpos]
  · exact congrArg Host.Outcome.next (if_neg (Bool.eq_false_iff.mp hc))
  · have hbegun := freezeNow_begun hs hthawed (2 ^ causeBit c)
    exact ⟨_, congrArg Host.Outcome.next (if_pos hc), hbegun.signals, hbegun.frozen, hbegun.time, hbegun.causes⟩
  · refine ⟨_, congrArg Host.Outcome.next (if_pos hc), freezeNow_signals (.refl s), ?_⟩
    rw [freezeNow_standing hs hfrozen, causesSeen_obs]
  · let w := s.reg Reg.obsFreezeCtl ||| 0x100000000
    have hbegun := freezeNow_begun (s := s.freezeSet w) (State.setReg_wf hs ..) ((freezeSet_frozen hs w).trans hthawed) 1
    exact ⟨_, exec_fire hs hlevel hen hthaw, hbegun.frozen, hbegun.time, hbegun.causes, hbegun.signals.mem⟩
  · let w := s.reg Reg.obsFreezeCtl ||| 0x200000000
    obtain ⟨hfrozen, hobs, hmem⟩ := thaw_thawed (s := s.freezeSet w) (State.setReg_wf hs ..)
    exact ⟨_, exec_thaw hlevel hfire, hfrozen, by rw [hobs], by rw [hobs], by rw [hobs]; rfl, by rw [hobs]; rfl, hmem⟩
  · have hunit := markRec_unit s v hn
    refine ⟨_, markRec s (bitsOf v 3 0) v, exec_mark hlevel hn, ?_⟩
    rw [obsPush_ler (s := s.bumpFree.bumpFree) hopen hunit hoff]
    exact ⟨rfl, rfl, lerPush_mem _ _, rfl, rfl, rfl, hunit⟩

end Sys2Proof.Machine
end

section
/-! PROOFS. The step machine beside TARGET, and brownouts (R479, R520, R521; log 3). -/

namespace Sys2Proof.Machine

section
variable {s t u : State}

/-! ### What the step machine moves (R477, R479) -/

/-- The registers that the step machine writes: PWR_STATE for HELD, and those of its event. -/
def heldReg (o : Nat) : Bool := o == Reg.pwrState || sigReg o

/-- The step machine has moved: HELD, the step under way and what its event leaves, and nothing else. -/
structure Stepped (s t : State) : Prop where
  regs  : State.RegsBut heldReg s t
  state : kvWf regReset s.regs = true → ∀ hi lo, hi < 3 ∨ 3 < lo → t.fld Reg.pwrState hi lo = s.fld Reg.pwrState hi lo
  power : ∃ step since, t.power = { s.power with step := step, since := since }
  mem   : t.mem = s.mem
  ops   : t.ops = s.ops

theorem Stepped.refl (s : State) : Stepped s s :=
  ⟨fun h => ⟨h, fun _ _ => rfl⟩, fun _ _ _ _ => rfl, ⟨_, _, rfl⟩, rfl, rfl⟩

/-- HELD shows what it shows; the rest is its event. -/
theorem showHeld_signals (s : State) : ∃ b, State.Signals (s.setBit Reg.pwrState 3 b) (showHeld s) := by
  unfold showHeld
  extract_lets held
  split
  · exact ⟨true, raise_signals (by decide) (.refl _)⟩
  · exact ⟨held, .refl _⟩

theorem showHeld_stepped (s : State) : Stepped s (showHeld s) := by
  obtain ⟨b, hsig⟩ := showHeld_signals s
  refine ⟨fun hs => ?_, fun hs hi lo ho => ?_, ⟨_, _, hsig.power⟩, hsig.mem, hsig.ops⟩
  · obtain ⟨hwf, hreg⟩ := hsig.regs (State.setBit_wf hs ..)
    refine ⟨hwf, fun o ho => ?_⟩
    obtain ⟨hne, hso⟩ := Bool.or_eq_false_iff.mp ho
    exact (hreg o hso).trans (State.reg_setBit_ne hs _ _ (beq_eq_false_iff_ne.mp hne))
  · rw [State.fld, (hsig.regs (State.setBit_wf hs ..)).2 _ (by decide)]
    exact fld_setBit_ne hs (by decide) (by omega)

/-- The next step, where one begins, is all that changes. -/
theorem nextStep_stepped (s : State) : Stepped s (nextStep s) := by
  unfold nextStep
  extract_lets p g
  split_ifs
  · exact .refl s
  · exact .refl s
  all_goals
    obtain ⟨hregs, hstate, ⟨step, since, hpower⟩, hmem, hops⟩ :=
      showHeld_stepped { s with power := { s.power with step := some _, since := s.lamp.counted } }
    exact ⟨hregs, hstate, ⟨step, since, hpower⟩, hmem, hops⟩

section
variable (hs : kvWf regReset s.regs = true)
include hs

theorem Stepped.reg (h : Stepped s t) {o : Nat} (ho : heldReg o = false) : t.reg o = s.reg o := (h.regs hs).2 o ho

/-! ### Brownouts (R520, R521) -/

/-- The drain: its bit, its error, and the step machine after it. -/
theorem startDrain_facts : ∃ v, State.Signals ((s.setBit Reg.pwrBrown 2 true).setBit Reg.pwrErr 2 true) v ∧
    Stepped v (startDrain s) :=
  ⟨_, sticky_signals_setBit (State.setBit_wf hs ..) (by decide) (by simp), nextStep_stepped _⟩

theorem startDrain_reg {o : Nat} (h1 : o ≠ Reg.pwrBrown) (h2 : o ≠ Reg.pwrErr) (h3 : heldReg o = false) :
    (startDrain s).reg o = s.reg o := by
  obtain ⟨v, hsig, hstep⟩ := startDrain_facts hs
  have hw := State.setBit_wf hs Reg.pwrBrown 2 true
  obtain ⟨hwf, hreg⟩ := hsig.regs (State.setBit_wf hw ..)
  rw [hstep.reg hwf h3, hreg o (Bool.or_eq_false_iff.mp h3).2, State.reg_setBit_ne hw _ _ h2, State.reg_setBit_ne hs _ _ h1]

theorem startDrain_brown : (startDrain s).reg Reg.pwrBrown = (s.setBit Reg.pwrBrown 2 true).reg Reg.pwrBrown := by
  obtain ⟨v, hsig, hstep⟩ := startDrain_facts hs
  have hw := State.setBit_wf hs Reg.pwrBrown 2 true
  obtain ⟨hwf, hreg⟩ := hsig.regs (State.setBit_wf hw ..)
  rw [hstep.reg hwf (by decide), hreg _ (by decide), State.reg_setBit_ne hw _ _ (by decide)]

theorem startDrain_err : (startDrain s).reg Reg.pwrErr = (s.setBit Reg.pwrErr 2 true).reg Reg.pwrErr := by
  obtain ⟨v, hsig, hstep⟩ := startDrain_facts hs
  have hw := State.setBit_wf hs Reg.pwrBrown 2 true
  obtain ⟨hwf, hreg⟩ := hsig.regs (State.setBit_wf hw ..)
  rw [hstep.reg hwf (by decide), hreg _ (by decide), State.reg_setBit hw, State.reg_setBit_ne hs _ _ (by decide),
    State.reg_setBit hs]

end

/-- A request before its hold: ACTIVE, its count and its error. -/
def State.browned (s : State) : State :=
  sticky ((s.satFld Reg.pwrCount 63 48 1).setBit Reg.pwrBrown 1 true) Reg.pwrErr 0 (some 0)

/-- The request in the arbiter of power: keeper halts are released, and a step from P1 to P0 ends in P1. -/
def State.unhalted (s : State) : State :=
  { s with power := { s.power with
    halted := [], holdAt := s.tim.ticks, step := if s.power.step = some 0 then none else s.power.step } }

/-- A request has been taken. -/
def State.browning (s : State) : State := s.browned.unhalted.setBit Reg.pwrState 3 false

theorem brownoutRequest_counts (hp : pState s < 2) (hactive : (s.satFld Reg.pwrCount 63 48 1).bit Reg.pwrBrown 1 = true) :
    brownoutRequest s = s.satFld Reg.pwrCount 63 48 1 :=
  (if_neg (by omega)).trans (if_pos hactive)

theorem brownoutRequest_begins (hp : pState s < 2) (hidle : (s.satFld Reg.pwrCount 63 48 1).bit Reg.pwrBrown 1 = false) :
    brownoutRequest s = if s.browning.fld Reg.pwrBrown 31 16 = 0 then startDrain s.browning else s.browning := by
  have hheld : showHeld s.browned.unhalted = s.browning := showHeld_none_halted rfl
  rw [← hheld]
  exact (if_neg (by omega)).trans (if_neg (by simp [hidle]))

section
variable (hs : kvWf regReset s.regs = true)
include hs

theorem browned_signals : State.Signals (((s.satFld Reg.pwrCount 63 48 1).setBit Reg.pwrBrown 1 true).setBit Reg.pwrErr 0 true)
    s.browned := sticky_signals_setBit (State.setBit_wf (State.setFld_wf hs ..) ..) (by decide) (by simp)

theorem browned_wf : kvWf regReset s.browned.regs = true :=
  ((browned_signals hs).regs (State.setBit_wf (State.setBit_wf (State.setFld_wf hs ..) ..) ..)).1

theorem browned_reg {o : Nat} (ho : sigReg o = false) : s.browned.reg o =
    (((s.satFld Reg.pwrCount 63 48 1).setBit Reg.pwrBrown 1 true).setBit Reg.pwrErr 0 true).reg o :=
  ((browned_signals hs).regs (State.setBit_wf (State.setBit_wf (State.setFld_wf hs ..) ..) ..)).2 o ho

theorem browning_wf : kvWf regReset s.browning.regs = true :=
  State.setBit_wf (s := s.browned.unhalted) (browned_wf hs) ..

theorem browning_reg {o : Nat} (hne : o ≠ Reg.pwrState) (ho : sigReg o = false) : s.browning.reg o =
    (((s.satFld Reg.pwrCount 63 48 1).setBit Reg.pwrBrown 1 true).setBit Reg.pwrErr 0 true).reg o :=
  (State.reg_setBit_ne (s := s.browned.unhalted) (browned_wf hs) _ _ hne).trans (browned_reg hs ho)

theorem browning_brown : s.browning.reg Reg.pwrBrown = (s.setBit Reg.pwrBrown 1 true).reg Reg.pwrBrown := by
  have hw : kvWf regReset (s.satFld Reg.pwrCount 63 48 1).regs = true := State.setFld_wf hs ..
  have hcount : (s.satFld Reg.pwrCount 63 48 1).reg Reg.pwrBrown = s.reg Reg.pwrBrown := State.reg_setFld_ne hs _ _ _ (by decide)
  rw [browning_reg hs (by decide) (by decide), State.reg_setBit_ne (State.setBit_wf hw ..) _ _ (by decide),
    State.reg_setBit hw, State.reg_setBit hs, hcount]

theorem browning_err : s.browning.bit Reg.pwrErr 0 = true := by
  rw [State.bit, browning_reg hs (by decide) (by decide)]
  exact State.bit_setBit (State.setBit_wf (State.setFld_wf hs ..) ..) _ _ _ (by decide)

theorem browning_count : s.browning.fld Reg.pwrCount 63 48 = satAdd 16 (s.fld Reg.pwrCount 63 48) 1 := by
  have hw : kvWf regReset (s.satFld Reg.pwrCount 63 48 1).regs = true := State.setFld_wf hs ..
  have hmod : satAdd 16 (s.fld Reg.pwrCount 63 48) 1 % 2 ^ 16 = satAdd 16 (s.fld Reg.pwrCount 63 48) 1 :=
    Nat.mod_eq_of_lt (by rw [satAdd]; omega)
  rw [State.fld, browning_reg hs (by decide) (by decide), State.reg_setBit_ne (State.setBit_wf hw ..) _ _ (by decide),
    State.reg_setBit_ne hw _ _ (by decide)]
  exact (State.fld_setFld hs _ _ _ _ (by decide) (by decide)).trans hmod

theorem browning_power : s.browning.power = { s.power with
    halted := [], holdAt := s.tim.ticks, step := if s.power.step = some 0 then none else s.power.step } := by
  have hpower : s.browned.power = s.power := (browned_signals hs).power
  have htim : s.browned.tim = s.tim := (browned_signals hs).tim
  have hunhalted : s.browning.power = s.browned.unhalted.power := rfl
  rw [hunhalted, State.unhalted, hpower, htim]

theorem browning_mem : s.browning.mem = s.mem := (browned_signals hs).mem

/-- A request that is taken: ACTIVE, its error and its count, with the drain at once where nothing holds it. -/
theorem brownoutRequest_facts (hp : pState s < 2) (hidle : s.bit Reg.pwrBrown 1 = false) :
    ∃ t, brownoutRequest s = t ∧ t.bit Reg.pwrBrown 1 = true ∧ t.bit Reg.pwrErr 0 = true ∧
      t.fld Reg.pwrCount 63 48 = satAdd 16 (s.fld Reg.pwrCount 63 48) 1 ∧ t.power.halted = [] ∧ t.mem = s.mem ∧
      (s.fld Reg.pwrBrown 31 16 = 0 → t.bit Reg.pwrBrown 2 = true ∧ t.bit Reg.pwrErr 2 = true) ∧
      (s.fld Reg.pwrBrown 31 16 ≠ 0 → t.power = { s.power with
        halted := [], holdAt := s.tim.ticks, step := if s.power.step = some 0 then none else s.power.step }) := by
  have hidle' : (s.satFld Reg.pwrCount 63 48 1).bit Reg.pwrBrown 1 = false :=
    (bit_setFld_ne hs (by decide) (by decide) (.inl (by decide))).trans hidle
  have hhold : s.browning.fld Reg.pwrBrown 31 16 = s.fld Reg.pwrBrown 31 16 := by
    rw [State.fld, browning_brown hs]
    exact fld_setBit_ne hs (by decide) (by omega)
  have hactive : s.browning.bit Reg.pwrBrown 1 = true := by
    rw [State.bit, browning_brown hs]
    exact State.bit_setBit hs _ _ _ (by decide)
  have hw := browning_wf hs
  refine ⟨_, brownoutRequest_begins hp hidle', ?_⟩
  rw [hhold]
  split
  · next hzero =>
    obtain ⟨v, hsig, hstep⟩ := startDrain_facts hw
    obtain ⟨_, _, hpower⟩ := hstep.power
    refine ⟨?_, ?_, ?_, ?_, ?_, fun _ => ⟨?_, ?_⟩, fun h => absurd hzero h⟩
    · rw [State.bit, startDrain_brown hw]
      exact (bit_setBit_ne hw (by decide) (.inr (by decide))).trans hactive
    · rw [State.bit, startDrain_err hw]
      exact (bit_setBit_ne hw (by decide) (.inr (by decide))).trans (browning_err hs)
    · rw [State.fld, startDrain_reg hw (by decide) (by decide) (by decide)]
      exact browning_count hs
    · rw [hpower]
      exact (congrArg Power.halted hsig.power).trans (congrArg Power.halted (browning_power hs))
    · exact hstep.mem.trans (hsig.mem.trans (browning_mem hs))
    · rw [State.bit, startDrain_brown hw]
      exact State.bit_setBit hw _ _ _ (by decide)
    · rw [State.bit, startDrain_err hw]
      exact State.bit_setBit hw _ _ _ (by decide)
  · next hhold' =>
    exact ⟨hactive, browning_err hs, browning_count hs, congrArg Power.halted (browning_power hs), browning_mem hs,
      fun h => absurd h hhold', fun _ => browning_power hs⟩

end

theorem exec_vrAlert_unseen (h : s.bit Reg.pwrBrown 0 = false ∨ 2 ≤ pState s) :
    exec .vrAlert s = .next { s with power := { s.power with vrAlert := true } } := by
  refine congrArg Host.Outcome.next ?_
  rcases h with h | h
  · exact if_neg (ne_true_of_eq_false h)
  · split
    · exact if_pos h
    · rfl

theorem exec_vrAlert_seen (h : s.bit Reg.pwrBrown 0 = true) :
    exec .vrAlert s = .next (brownoutRequest { s with power := { s.power with vrAlert := true } }) :=
  congrArg Host.Outcome.next (if_pos h)

theorem runTicks_past {tick : Nat} (h : tick ≤ s.tim.ticks) : runTicks s tick = s := by
  simp [runTicks, Nat.sub_eq_zero_of_le h]

theorem exec_brownoutDrain_due (h : drainDue s = true) : exec .brownoutDrain s = .next (
    if drainDue (runTicks s (s.power.holdAt + 125 * s.fld Reg.pwrBrown 31 16)) then
      startDrain (runTicks s (s.power.holdAt + 125 * s.fld Reg.pwrBrown 31 16))
    else runTicks s (s.power.holdAt + 125 * s.fld Reg.pwrBrown 31 16)) :=
  if_neg (by simp [h])

end

end Sys2Proof.Machine
end

section
/-! PROOFS. Temperatures, wakes, losses of power, the operating point and the windows of the arbiter (R478, R502, R511 to
R516, R519, R533). -/

namespace Sys2Proof.Machine

section
variable {s t u : State}

/-! ### Droops and temperatures (R519, R542; log 60) -/

theorem exec_droop (hp3 : pState s ≠ 3) (hoff : s.power.off = false) (htrip : s.power.thermtrip = false) :
    exec .droop s = .next (sticky (s.satFld Reg.pwrCount 47 32 1) Reg.pwrErr 4 (some 6)) :=
  if_neg (by simp [hp3, hoff, htrip])

/-- A fold that keeps the lesser of two ends at one of its elements, and at none above the others. -/
theorem foldl_least {α : Type} (k : α → Int) (xs : List α) (x : α) :
    let m := xs.foldl (fun b y => if decide (k b < k y) then y else b) x
    m ∈ x :: xs ∧ ∀ y ∈ x :: xs, k y ≤ k m := by
  induction xs generalizing x with
  | nil => simp
  | cons z zs ih =>
    obtain ⟨hmem, hmax⟩ := ih (if decide (k x < k z) then z else x)
    refine ⟨?_, fun y hy => ?_⟩
    · rcases List.mem_cons.mp hmem with h | h
      · rw [List.foldl_cons, h]
        split <;> simp
      · exact List.mem_cons_of_mem _ (List.mem_cons_of_mem _ h)
    · have hhead := hmax _ List.mem_cons_self
      have hboth : k x ≤ k (if decide (k x < k z) then z else x) ∧ k z ≤ k (if decide (k x < k z) then z else x) := by
        split
        · next h => exact ⟨Int.le_of_lt (of_decide_eq_true h), Int.le_refl _⟩
        · next h => exact ⟨Int.le_refl _, Int.not_lt.mp (by simpa using h)⟩
      rcases List.mem_cons.mp hy with rfl | hy
      · exact Int.le_trans hboth.1 hhead
      · rcases List.mem_cons.mp hy with rfl | hy
        · exact Int.le_trans hboth.2 hhead
        · exact hmax y (List.mem_cons_of_mem _ hy)

/-- The highest of the readings, with the place of a sensor that gave it. -/
theorem exists_highest {rs : List (BitVec 16)} (h : rs ≠ []) :
    ∃ m, leastBy (fun (a b : BitVec 16 × Nat) => decide (b.1.toInt < a.1.toInt)) rs.zipIdx = some m ∧
      m ∈ rs.zipIdx ∧ ∀ e ∈ rs.zipIdx, e.1.toInt ≤ m.1.toInt := by
  obtain ⟨r, rs, rfl⟩ := List.exists_cons_of_ne_nil h
  obtain ⟨hmem, hmax⟩ := foldl_least (fun e : BitVec 16 × Nat => e.1.toInt) (rs.zipIdx 1) (r, 0)
  exact ⟨_, rfl, hmem, hmax⟩

/-- TEMP_UPDATE before the highest reading is compared: the readings, the highest and a sensor that gave it. -/
def State.tempShown (s : State) (rs : List (BitVec 16)) (ctr : Nat) (v i : Nat) : State :=
  (({ s with freeCtr := ctr, power := { s.power with temps := rs.map BitVec.toNat } } : State).setFld Reg.pwrTemp 15 0 v).setFld
    Reg.pwrTemp 19 16 i

theorem exec_tempUpdate {rs : List (BitVec 16)} (hlen : rs.length = 16) : ∃ (i : Fin 16) (ctr : Nat),
    (∀ x ∈ rs, x.toInt ≤ (rs.getD i.val 0).toInt) ∧ exec (.tempUpdate rs) s = .next (
      if sextN 16 ((s.tempShown rs ctr (rs.getD i.val 0).toNat i.val).fld Reg.pwrTemp 47 32) < (rs.getD i.val 0).toInt then
        (s.tempShown rs ctr (rs.getD i.val 0).toNat i.val).setFld Reg.pwrTemp 47 32 (rs.getD i.val 0).toNat
      else s.tempShown rs ctr (rs.getD i.val 0).toNat i.val) := by
  have htake : rs.take 16 = rs := List.take_of_length_le (by omega)
  obtain ⟨m, hleast, hmem, hmax⟩ := exists_highest (rs := rs) (by rintro rfl; simp at hlen)
  let shown : State := { s with power := { s.power with temps := rs.map BitVec.toNat } }
  let givers := (rs.zipIdx.filter (fun e => e.1 == m.1)).map (·.2)
  have hgiver : (pickCode shown givers).2 ∈ givers := pickCode_mem shown (List.ne_nil_of_mem
    (List.mem_map_of_mem (List.mem_filter.mpr ⟨hmem, by simp⟩)))
  obtain ⟨⟨r, i⟩, he, hi⟩ := List.mem_map.mp hgiver
  obtain ⟨he, hr⟩ := List.mem_filter.mp he
  have hlt : i < 16 := hlen ▸ (List.mem_zipIdx' he).1
  have hget : rs.getD i 0 = m.1 := by
    have hri : r = rs[i]'(List.mem_zipIdx' he).1 := (List.mem_zipIdx' he).2
    rw [List.getD_eq_getElem?_getD, List.getElem?_eq_getElem (List.mem_zipIdx' he).1, ← hri]
    simpa using hr
  refine ⟨⟨i, hlt⟩, (pickCode shown givers).1.freeCtr, fun x hx => ?_, ?_⟩
  · rw [hget]
    obtain ⟨k, hk, rfl⟩ := List.mem_iff_getElem.mp hx
    exact hmax (rs[k], k) (List.mk_mem_zipIdx_iff_getElem?.mpr (List.getElem?_eq_getElem hk))
  · have hshow : ((pickCode shown givers).1.setFld Reg.pwrTemp 15 0 m.1.toNat).setFld Reg.pwrTemp 19 16
        (pickCode shown givers).2 = s.tempShown rs (pickCode shown givers).1.freeCtr m.1.toNat i := by
      rw [← hi, pickCode_state]
      rfl
    show execTempUpdate rs s = _
    simp only [execTempUpdate, htake, hleast, hget]
    rw [← hshow]
    exact (apply_ite Host.Outcome.next _ _ _).symm

section
variable (hs : kvWf regReset s.regs = true)
include hs

theorem tempShown_wf (rs : List (BitVec 16)) (ctr v i : Nat) : kvWf regReset (s.tempShown rs ctr v i).regs = true :=
  State.setFld_wf (s := ({ s with freeCtr := ctr, power := _ } : State).setFld Reg.pwrTemp 15 0 v)
    (State.setFld_wf (s := { s with freeCtr := ctr, power := _ }) hs ..) ..

theorem tempShown_reg (rs : List (BitVec 16)) (ctr v i : Nat) :
    (s.tempShown rs ctr v i).reg Reg.pwrTemp = putBits (putBits (s.reg Reg.pwrTemp) 15 0 v) 19 16 i := by
  have h1 : kvWf regReset (s.setFld Reg.pwrTemp 15 0 v).regs = true := State.setFld_wf hs ..
  have h2 : (s.tempShown rs ctr v i).reg Reg.pwrTemp = ((s.setFld Reg.pwrTemp 15 0 v).setFld Reg.pwrTemp 19 16 i).reg Reg.pwrTemp :=
    rfl
  rw [h2, State.reg_setFld h1, if_pos rfl, State.reg_setFld hs, if_pos rfl]

theorem tempShown_reg_ne (rs : List (BitVec 16)) (ctr v i : Nat) {o : Nat} (ho : o ≠ Reg.pwrTemp) :
    (s.tempShown rs ctr v i).reg o = s.reg o := by
  have h1 : kvWf regReset (s.setFld Reg.pwrTemp 15 0 v).regs = true := State.setFld_wf hs ..
  have h2 : (s.tempShown rs ctr v i).reg o = ((s.setFld Reg.pwrTemp 15 0 v).setFld Reg.pwrTemp 19 16 i).reg o := rfl
  rw [h2, State.reg_setFld_ne h1 _ _ _ ho, State.reg_setFld_ne hs _ _ _ ho]

theorem tempShown_value (rs : List (BitVec 16)) (ctr i : Nat) (v : BitVec 16) :
    (s.tempShown rs ctr v.toNat i).fld Reg.pwrTemp 15 0 = v.toNat := by
  have hmod : v.toNat % 2 ^ 16 = v.toNat := Nat.mod_eq_of_lt v.isLt
  rw [State.fld, tempShown_reg hs, bitsOf_putBits_ne _ _ _ _ _ _ (by decide) (by decide) (.inl (by decide)),
    bitsOf_putBits _ _ _ _ (by decide) (by decide)]
  exact hmod

theorem tempShown_sensor (rs : List (BitVec 16)) (ctr v : Nat) (i : Fin 16) :
    (s.tempShown rs ctr v i.val).fld Reg.pwrTemp 19 16 = i.val := by
  have hmod : i.val % 2 ^ 4 = i.val := Nat.mod_eq_of_lt i.isLt
  rw [State.fld, tempShown_reg hs, bitsOf_putBits _ _ _ _ (by decide) (by decide)]
  exact hmod

theorem tempShown_highest (rs : List (BitVec 16)) (ctr v i : Nat) :
    (s.tempShown rs ctr v i).fld Reg.pwrTemp 47 32 = s.fld Reg.pwrTemp 47 32 := by
  rw [State.fld, tempShown_reg hs, bitsOf_putBits_ne _ _ _ _ _ _ (by decide) (by decide) (.inr (by decide)),
    bitsOf_putBits_ne _ _ _ _ _ _ (by decide) (by decide) (.inr (by decide))]
  rfl

end

/-! ### Wakes (R478, R502, R521) -/

/-- The edge of a wake cause is latched, where it has a latch (R502). -/
def State.latchedWake (s : State) (c : WakeCause) : State :=
  if wakeBit c < 19 then s.setBit Reg.intAlatch (wakeBit c) true else s

theorem wakeEvent_off (c : WakeCause) (h : s.power.off = true ∨ s.power.thermtrip = true) : wakeEvent s c = s := if_pos h

/-- A wake event where time stands at it: the latch, and the wake of an enabled cause that stands. -/
theorem wakeEvent_due {c : WakeCause} (hoff : s.power.off = false) (htrip : s.power.thermtrip = false)
    (htime : c = .time → (s.reg Reg.pwrWakeTime).toNat ≤ s.now) : wakeEvent s c =
      if !(s.latchedWake c).bit Reg.pwrWakeEn (wakeBit c) || !wakeStands (s.latchedWake c) c then s.latchedWake c
      else if pState (s.latchedWake c) = 3 then wakeP3 (s.latchedWake c) (wakeCode c)
      else if pState (s.latchedWake c) = 2 then
        if (s.latchedWake c).power.step = some 3 then
          { s.latchedWake c with power := { (s.latchedWake c).power with wake := some (wakeCode c) } }
        else
          let v := endBrownout ((s.latchedWake c).setFld Reg.pwrState 7 4 (wakeCode c))
          nextStep { v with power := { v.power with woken := true } }
      else s.latchedWake c := by
  refine (if_neg (by simp [hoff, htrip])).trans ?_
  cases c with
  | time =>
    dsimp only
    rw [if_neg (Nat.not_lt.mpr (htime rfl))]
    rfl
  | gpio p => rfl
  | pps => rfl
  | perst => rfl
  | interrupt => rfl

theorem latchedWake_interrupt (s : State) : s.latchedWake .interrupt = s := rfl

theorem latchedWake_power (s : State) (c : WakeCause) : (s.latchedWake c).power = s.power := by
  unfold State.latchedWake
  split <;> rfl

theorem latchedWake_mem (s : State) (c : WakeCause) : (s.latchedWake c).mem = s.mem ∧ (s.latchedWake c).ops = s.ops ∧
    (s.latchedWake c).fuses = s.fuses := by
  unfold State.latchedWake
  split <;> exact ⟨rfl, rfl, rfl⟩

theorem wakeStands_of_not_interrupt {c : WakeCause} (h : c ≠ .interrupt) : wakeStands s c = true := by
  cases c with
  | gpio p => rfl
  | pps => rfl
  | perst => rfl
  | time => rfl
  | interrupt => exact absurd rfl h

theorem wakeBit_latched {c : WakeCause} (h : c ≠ .interrupt) : wakeBit c < 19 := by
  cases c with
  | gpio p => exact Nat.lt_trans p.isLt (by decide)
  | pps => decide
  | perst => decide
  | time => decide
  | interrupt => exact absurd rfl h

theorem wakeCode_lt (c : WakeCause) : wakeCode c < 16 := by cases c <;> simp [wakeCode]

section
variable (hs : kvWf regReset s.regs = true)
include hs

theorem latchedWake_wf (c : WakeCause) : kvWf regReset (s.latchedWake c).regs = true := by
  unfold State.latchedWake
  split
  · exact State.setBit_wf hs ..
  · exact hs

theorem latchedWake_reg (c : WakeCause) {o : Nat} (ho : o ≠ Reg.intAlatch) : (s.latchedWake c).reg o = s.reg o := by
  unfold State.latchedWake
  split
  · exact State.reg_setBit_ne hs _ _ ho
  · rfl

theorem latchedWake_latch {c : WakeCause} (h : c ≠ .interrupt) : (s.latchedWake c).bit Reg.intAlatch (wakeBit c) = true := by
  rw [State.latchedWake, if_pos (wakeBit_latched h)]
  exact State.bit_setBit hs _ _ _ (Nat.lt_trans (wakeBit_latched h) (by decide))

/-- An event whose cause is not enabled, or that does not stand, leaves its latch. -/
theorem wakeEvent_latches {c : WakeCause} (hoff : s.power.off = false) (htrip : s.power.thermtrip = false)
    (htime : c = .time → (s.reg Reg.pwrWakeTime).toNat ≤ s.now)
    (h : s.bit Reg.pwrWakeEn (wakeBit c) = false ∨ (c = .interrupt ∧ (pState s ≠ 2 ∨ anyAsserted s = false)) ∨ pState s < 2) :
    wakeEvent s c = s.latchedWake c := by
  have hen : (s.latchedWake c).bit Reg.pwrWakeEn (wakeBit c) = s.bit Reg.pwrWakeEn (wakeBit c) :=
    congrArg (bitOf · (wakeBit c)) (latchedWake_reg hs c (by decide))
  have hp : pState (s.latchedWake c) = pState s := congrArg (bitsOf · 2 0) (latchedWake_reg hs c (by decide))
  rw [wakeEvent_due hoff htrip htime, hen, hp]
  rcases h with h | ⟨rfl, h⟩ | h
  · exact if_pos (by simp [h])
  · refine if_pos ?_
    rw [latchedWake_interrupt, Bool.or_eq_true, Bool.not_eq_true', wakeStands]
    refine .inr ?_
    rcases h with h | h <;> simp [h]
  · rw [if_neg (show ¬ pState s = 3 by omega), if_neg (show ¬ pState s = 2 by omega), ite_self]

/-- An enabled event that stands, in P2 or P3. -/
theorem wakeEvent_wakes {c : WakeCause} (hoff : s.power.off = false) (htrip : s.power.thermtrip = false)
    (htime : c = .time → (s.reg Reg.pwrWakeTime).toNat ≤ s.now) (hen : s.bit Reg.pwrWakeEn (wakeBit c) = true)
    (hstands : wakeStands (s.latchedWake c) c = true) : wakeEvent s c =
      if pState s = 3 then wakeP3 (s.latchedWake c) (wakeCode c)
      else if pState s = 2 then
        if s.power.step = some 3 then
          { s.latchedWake c with power := { (s.latchedWake c).power with wake := some (wakeCode c) } }
        else
          let v := endBrownout ((s.latchedWake c).setFld Reg.pwrState 7 4 (wakeCode c))
          nextStep { v with power := { v.power with woken := true } }
      else s.latchedWake c := by
  have hen' : (s.latchedWake c).bit Reg.pwrWakeEn (wakeBit c) = s.bit Reg.pwrWakeEn (wakeBit c) :=
    congrArg (bitOf · (wakeBit c)) (latchedWake_reg hs c (by decide))
  have hp : pState (s.latchedWake c) = pState s := congrArg (bitsOf · 2 0) (latchedWake_reg hs c (by decide))
  rw [wakeEvent_due hoff htrip htime, hen', hp, latchedWake_power, hen, hstands]
  exact if_neg (by simp)

omit hs in
theorem wakeStands_latched {c : WakeCause} (hp : pState s = 2) (h : c = .interrupt → anyAsserted s = true) :
    wakeStands (s.latchedWake c) c = true := by
  by_cases hc : c = .interrupt
  · subst hc
    rw [latchedWake_interrupt, wakeStands, hp, h rfl]
    rfl
  · exact wakeStands_of_not_interrupt hc

omit hs in
theorem endBrownout_idle (h : s.bit Reg.pwrBrown 1 = false) : endBrownout s = s := if_pos (by simp [h])

omit hs in
theorem endBrownout_active (h : s.bit Reg.pwrBrown 1 = true) : endBrownout s =
    nextStep (sticky ((s.setBit Reg.pwrBrown 1 false).setBit Reg.pwrBrown 2 false) Reg.pwrErr 1 (some 3)) :=
  if_neg (by simp [h])

/-- The end of a brownout: ACTIVE is 0, and PWR_STATE shows what it showed but for HELD. -/
theorem endBrownout_facts : kvWf regReset (endBrownout s).regs = true ∧ (endBrownout s).bit Reg.pwrBrown 1 = false ∧
    (∀ hi lo, hi < 3 ∨ 3 < lo → (endBrownout s).fld Reg.pwrState hi lo = s.fld Reg.pwrState hi lo) ∧
    (endBrownout s).mem = s.mem ∧ (endBrownout s).ops = s.ops := by
  unfold endBrownout
  split
  · next h => exact ⟨hs, by simpa using h, fun _ _ _ => rfl, rfl, rfl⟩
  · extract_lets v
    have hv1 : kvWf regReset (s.setBit Reg.pwrBrown 1 false).regs = true := State.setBit_wf hs ..
    have hv : kvWf regReset v.regs = true := State.setBit_wf hv1 ..
    have hsig : State.Signals (v.setBit Reg.pwrErr 1 true) (sticky v Reg.pwrErr 1 (some 3)) :=
      sticky_signals_setBit hv (by decide) (by simp)
    have hstep := nextStep_stepped (sticky v Reg.pwrErr 1 (some 3))
    have hve := State.setBit_wf hv Reg.pwrErr 1 true
    obtain ⟨hwf, hreg⟩ := hsig.regs hve
    refine ⟨(hstep.regs hwf).1, ?_, fun hi lo ho => (hstep.state hwf hi lo ho).trans ?_, hstep.mem.trans hsig.mem,
      hstep.ops.trans hsig.ops⟩
    · rw [State.bit, hstep.reg hwf (by decide), hreg _ (by decide), State.reg_setBit_ne hv _ _ (by decide)]
      exact (bit_setBit_ne hv1 (by decide) (.inr (by decide))).trans (State.bit_setBit hs _ _ _ (by decide))
    · rw [State.fld, hreg _ (by decide), State.reg_setBit_ne hv _ _ (by decide), State.reg_setBit_ne hv1 _ _ (by decide),
        State.reg_setBit_ne hs _ _ (by decide)]
      rfl

/-- A wake in P2: its cause shows, the request is ended and no brownout stands. -/
theorem wokenP2_facts {c : Nat} (hc : c < 16) :
    let v := endBrownout (s.setFld Reg.pwrState 7 4 c)
    let t := nextStep { v with power := { v.power with woken := true } }
    t.power.woken = true ∧ t.fld Reg.pwrState 7 4 = c ∧ t.bit Reg.pwrBrown 1 = false ∧ t.mem = s.mem ∧ t.ops = s.ops := by
  intro v t
  obtain ⟨hv, hbrown, hstate, hmem, hops⟩ := endBrownout_facts (State.setFld_wf hs Reg.pwrState 7 4 c)
  let w : State := { v with power := { v.power with woken := true } }
  have hwf : kvWf regReset w.regs = true := hv
  have hstep : Stepped w t := nextStep_stepped w
  obtain ⟨_, _, hpower⟩ := hstep.power
  have hmod : c % 2 ^ 4 = c := Nat.mod_eq_of_lt hc
  refine ⟨by rw [hpower], ?_, (congrArg (bitOf · 1) (hstep.reg hwf (by decide))).trans hbrown, hstep.mem.trans hmem,
    hstep.ops.trans hops⟩
  exact (hstep.state hwf 7 4 (.inr (by decide))).trans ((hstate 7 4 (.inr (by decide))).trans
    ((State.fld_setFld hs _ _ _ _ (by decide) (by decide)).trans hmod))

/-- A wake from P3 keeps the latches and memory, and the pending lifecycle is in force after it. -/
theorem wakeP3_stands (c : Nat) : (wakeP3 s c).reg Reg.intAlatch = s.reg Reg.intAlatch ∧ (wakeP3 s c).mem = s.mem ∧
    (wakeP3 s c).fuses = { s.fuses with lifecycle := s.fuses.pending } := by
  have hw1 := State.setFld_wf hs Reg.pwrState 2 0 0
  have hw : kvWf regReset (s.showWake c).regs = true := State.setFld_wf hw1 ..
  have hsig := raise_signals (n := 1) (by decide) (latchRestart_signals (s.showWake c))
  obtain ⟨hregs, -⟩ := beginStart_after_signals hsig hw
  obtain ⟨r, hsame⟩ := beginStart_same (raise (latchRestart (s.showWake c)) 1) 2 2
  rw [wakeP3_eq]
  refine ⟨?_, ?_, ?_⟩
  · rw [(hregs hw).2 _ (by decide)]
    exact (State.reg_setFld_ne hw1 _ _ _ (by decide)).trans (State.reg_setFld_ne hs _ _ _ (by decide))
  · rw [hsame]
    exact hsig.mem
  · rw [hsame]
    exact congrArg (fun f : Fuses => { f with lifecycle := f.pending }) hsig.fuses

/-! ### Losses of power (R511, R533) -/

omit hs in
theorem porReset_facts (s : State) : (porReset s).ops = [] ∧ (porReset s).fuses = s.fuses ∧
    (porReset s).boot.xspi = s.boot.xspi ∧ (porReset s).tim = State.reset.tim := by
  obtain ⟨v, hbase, hv⟩ := porReset_base s
  obtain ⟨r, hsame⟩ := (porReset_writesOnly hv).same
  rw [hsame]
  exact ⟨hbase.ops, hbase.fuses, hbase.xspi, hbase.tim⟩

omit hs in
theorem exec_aonLoss (s : State) :
    exec .aonLoss s = .next { porReset s with power := { (porReset s).power with off := true } } := rfl

omit hs in
theorem resetDomain_stands (s : State) : (resetDomain s).tim.n = s.tim.n ∧ (resetDomain s).tier.objs = s.tier.objs := by
  obtain ⟨v, temp, strap, hbase, ht⟩ := resetDomain_base s
  obtain ⟨r, hsame⟩ := (resetDomain_writesOnly ht).same
  rw [hsame]
  exact ⟨hbase.n, hbase.objs⟩

/-- The trip in the arbiter of power. -/
def State.tripped (s : State) : State := { s with power := { s.power with thermtrip := true } }

omit hs in
theorem exec_thermtrip (s : State) : exec .thermtrip s = .next (resetDomain (endSession s)).tripped := rfl

omit hs in
theorem tripped_eq (s : State) : s.tripped.power.thermtrip = true ∧ s.tripped.tim = s.tim ∧ s.tripped.tier = s.tier :=
  ⟨rfl, rfl, rfl⟩

omit hs in
theorem DomainReset.tripped (h : DomainReset s t) : DomainReset s t.tripped := ⟨h.wf, h.ops, h.fab, h.str, h.level, h.fuses⟩

/-- What the device loses in a trip, and what it keeps. -/
theorem exec_thermtrip_facts : ∃ t, exec .thermtrip s = .next t ∧ t.power.thermtrip = true ∧ t.ops = [] ∧
    t.fab = State.reset.fab ∧ debugLevel t = 0 ∧ t.fuses = s.fuses ∧ t.tim.n = s.tim.n ∧ t.tier.objs = s.tier.objs := by
  have hv := endSession_apart s
  have hdom := (resetDomain_facts (hv.regs hs).1).tripped
  obtain ⟨hn, hobjs⟩ := resetDomain_stands (endSession s)
  obtain ⟨htrip, htim, htier⟩ := tripped_eq (resetDomain (endSession s))
  refine ⟨_, exec_thermtrip s, htrip, hdom.ops, hdom.fab, hdom.level, hdom.fuses.trans hv.fuses, ?_, ?_⟩
  · rw [htim, hn, hv.tim]
  · rw [htier, hobjs, hv.tier]

/-! ### The operating point (R512 to R514) -/

/-- The POINT that a write asks for, and what the regulator does from now on. -/
def State.pointed (s : State) (v : Word) (ack : Bool) : State :=
  { s with power := { s.power with vrAck := ack } }.setFld Reg.pwrDvfs 2 0 (min 3 (bitsOf v 2 0))

theorem lampOn_pointed (v : Word) (ack : Bool) : lampOn (s.pointed v ack) = lampOn s := by
  have hreg : ∀ o, o ≠ Reg.pwrDvfs → (s.pointed v ack).reg o = s.reg o := fun o ho => State.reg_setFld_ne hs _ _ _ ho
  rw [lampOn, lampOn, State.bit, hreg _ (by decide), pState, State.fld, hreg _ (by decide)]
  rfl

theorem exec_dvfsPoint (v : Word) (ack : Bool) : exec (.dvfsPoint v ack) s = .next (if lampOn s then
    { s.pointed v ack with power := { (s.pointed v ack).power with point := some (min 3 (bitsOf v 2 0)) } }
    else applyPoint (s.pointed v ack) (min 3 (bitsOf v 2 0))) := by
  rw [← lampOn_pointed hs v ack]
  rfl

theorem pointed_point (v : Word) (ack : Bool) : (s.pointed v ack).fld Reg.pwrDvfs 2 0 = min 3 (bitsOf v 2 0) := by
  have hmod : min 3 (bitsOf v 2 0) % 2 ^ 3 = min 3 (bitsOf v 2 0) := Nat.mod_eq_of_lt (by omega)
  exact (State.fld_setFld hs _ _ _ _ (by decide) (by decide)).trans hmod

theorem pointed_active (v : Word) (ack : Bool) : (s.pointed v ack).fld Reg.pwrDvfs 6 4 = s.fld Reg.pwrDvfs 6 4 :=
  fld_setFld_ne (s := { s with power := { s.power with vrAck := ack } }) hs (by decide) (by decide) (by omega)

omit hs in
theorem exec_dvfsClockRaise {p : Nat × Nat} (h : s.power.raise = some p) :
    exec .dvfsClockRaise s = .next (raiseClock (runTicks s p.2)) := by
  show execDvfsClockRaise s = _
  rw [execDvfsClockRaise, h]

omit hs in
theorem raiseClock_due {p tick : Nat} (h : s.power.raise = some (p, tick)) :
    raiseClock s = { s with power := { s.power with raise := none } }.setFld Reg.pwrDvfs 6 4 p := by
  rw [raiseClock, h]

end

/-! ### The windows of the arbiter (R515, R516) -/

/-- Without demand no round grants a token. -/
theorem wrr_no_demand (k left : Nat) (g : Nat × Nat × Nat) : wrr k left (0, 0, 0) g = g := by
  cases k with
  | zero => rfl
  | succ k => exact if_pos (.inr rfl)

/-- Demands of class 0 alone: they are all of class 0, and no other class asks. -/
theorem filter_cls_zero {ds : List PowerDemand} (h : ∀ d ∈ ds, d.cls = 0) : ds.filter (·.cls.toNat == 0) = ds :=
  List.filter_eq_self.mpr fun d hd => by simp [h d hd]

theorem filter_cls_pos {ds : List PowerDemand} (h : ∀ d ∈ ds, d.cls = 0) {c : Nat} (hc : c ≠ 0) :
    ds.filter (·.cls.toNat == c) = [] :=
  List.filter_eq_nil_iff.mpr fun d hd => by simp [h d hd, Ne.symm hc]

/-- A class that gets what it needs throttles nobody. -/
theorem throttledOf_met (s : State) (n : Nat) : throttledOf s false n = (s, 0) := rfl

/-- C0 demand within the reservation and within what is available is granted whole, and nobody else asks. -/
theorem powerWindow_granted {ds : List PowerDemand} {base sum avail : Nat} (hbrown : s.bit Reg.pwrBrown 1 = false)
    (hcls : ∀ d ∈ ds, d.cls = 0) (hsum : (ds.map (·.tokens)).foldl (· + ·) 0 = sum)
    (havail : (min (s.fld Reg.pwrCap 7 0 * 4000) (s.fld Reg.pwrCap 15 8 * s.fld Reg.pwrDvfs 27 16 * 4) - base * 1000) /
      4000 * 4 = avail)
    (hshare : sum ≤ s.fld Reg.pwrCap 7 0 * 4 * s.fld Reg.lmpResv 47 40 / 100) (hleft : sum ≤ avail) :
    powerWindow s ds base = { s.setReg Reg.pwrToken (BitVec.ofNat 64 (base % 65536 + sum % 65536 * 2 ^ 16)) with
      power := { s.power with prevLow := 0 } } := by
  have h1 := filter_cls_pos hcls (c := 1) (by decide)
  have h2 := filter_cls_pos hcls (c := 2) (by decide)
  have h3 := filter_cls_pos hcls (c := 3) (by decide)
  have hwithin : ¬ (s.fld Reg.pwrCap 7 0 * 4 * s.fld Reg.lmpResv 47 40 / 100 < sum ∧ lampOn s = true) := by omega
  unfold powerWindow
  simp only [filter_cls_zero hcls, h1, h2, h3, hbrown, Bool.false_eq_true, if_false, List.map_nil, List.foldl_nil, hsum,
    havail, hwithin, min_eq_left (le_min hshare hleft), Nat.sub_self, add_zero, wrr_no_demand,
    Nat.lt_irrefl, decide_false, throttledOf_met, Nat.zero_mod, zero_mul, if_true]
  generalize BitVec.ofNat 64 (base % 65536 + sum % 65536 * 2 ^ 16) = w
  rfl

end

/-- Settles O57: brownouts, droops and temperatures, then wakes, losses, the operating point and the windows. -/
theorem powerEvents : Obligations.PowerEvents := by
  refine ⟨⟨fun s hinv => ?_, fun s => ?_, fun s => ?_, fun s hinv => ?_⟩,
    fun s c hinv => ?_, fun s b => ?_, fun s hinv => ?_⟩
  · have hs := hinv.canon.regs
    intro low
    refine ⟨exec_vrAlert_unseen, fun hen hp hactive => ?_, fun hen hp hidle => ?_⟩
    · rw [exec_vrAlert_seen hen]
      exact congrArg Host.Outcome.next (brownoutRequest_counts (s := low) hp
        ((bit_setFld_ne (s := low) hs (by decide) (by decide) (.inl (by decide))).trans hactive))
    · obtain ⟨t, ht, hfacts⟩ := brownoutRequest_facts (s := low) hs hp hidle
      exact ⟨t, (exec_vrAlert_seen hen).trans (congrArg Host.Outcome.next ht), hfacts⟩
  · intro ends drained
    refine ⟨fun h => if_pos (by simp [h]), fun h hend => ?_, fun h _ => exec_brownoutDrain_due h⟩
    rw [exec_brownoutDrain_due h, runTicks_past hend, if_pos h]
    rfl
  · intro high
    refine ⟨fun h => congrArg Host.Outcome.next ?_, fun hstands hactive => congrArg Host.Outcome.next ?_⟩
    · split
      · rfl
      · next hstands => exact endBrownout_idle (s := high) (h.resolve_left hstands)
    · exact (if_neg (ne_true_of_eq_false hstands)).trans (endBrownout_active (s := high) hactive)
  · have hs := hinv.canon.regs
    refine ⟨fun h => if_pos h, fun hp3 hoff htrip => ⟨_, exec_droop hp3 hoff htrip, ?_⟩, fun rs hlen => ?_⟩
    · exact sticky_signals_setBit (State.setFld_wf hs ..) (by decide) (by simp)
    · obtain ⟨i, ctr, hmax, hexec⟩ := exec_tempUpdate (s := s) hlen
      have hw := tempShown_wf hs rs ctr (rs.getD i.val 0).toNat i.val
      have hmod : (rs.getD i.val 0).toNat % 2 ^ 16 = (rs.getD i.val 0).toNat := Nat.mod_eq_of_lt (rs.getD i.val 0).isLt
      refine ⟨_, i, hexec, ?_⟩
      rw [tempShown_highest hs]
      split
      · next hhigh =>
        refine ⟨rfl, hmax, ?_, ?_, fun _ => ?_, fun h => absurd hhigh h, fun o ho => ?_⟩
        · exact (fld_setFld_ne hw (by decide) (by decide) (by omega)).trans (tempShown_value hs ..)
        · exact (fld_setFld_ne hw (by decide) (by decide) (by omega)).trans (tempShown_sensor hs ..)
        · exact (State.fld_setFld hw _ _ _ _ (by decide) (by decide)).trans hmod
        · exact (State.reg_setFld_ne hw _ _ _ ho).trans (tempShown_reg_ne hs _ _ _ _ ho)
      · next hlow =>
        exact ⟨rfl, hmax, tempShown_value hs .., tempShown_sensor hs .., fun h => absurd h hlow,
          fun _ => tempShown_highest hs .., fun o ho => tempShown_reg_ne hs _ _ _ _ ho⟩
  · have hs := hinv.canon.regs
    intro b code u
    refine ⟨fun h => congrArg Host.Outcome.next (wakeEvent_off c h), fun hoff htrip htime => ⟨fun hen => ?_, fun hc h => ?_,
      fun hen hp => ?_, fun hen hc hp hstep => ?_, fun hen hc hp hstep => ?_, fun hen hc hp => ?_⟩⟩
    · exact congrArg Host.Outcome.next (wakeEvent_latches hs hoff htrip htime (.inl hen))
    · exact congrArg Host.Outcome.next (wakeEvent_latches hs hoff htrip htime (.inr (.inl ⟨hc, h⟩)))
    · exact congrArg Host.Outcome.next (wakeEvent_latches hs hoff htrip htime (.inr (.inr hp)))
    · refine congrArg Host.Outcome.next ((wakeEvent_wakes hs hoff htrip htime hen (wakeStands_latched hp hc)).trans ?_)
      rw [if_neg (by omega), if_pos hp, if_pos hstep]
      rfl
    · obtain ⟨hmem, hops, -⟩ := latchedWake_mem s c
      have hexec := wakeEvent_wakes hs hoff htrip htime hen (wakeStands_latched hp hc)
      rw [if_neg (by omega), if_pos hp, if_neg hstep] at hexec
      obtain ⟨hwoken, hcode, hbrown, hmem', hops'⟩ := wokenP2_facts (latchedWake_wf hs c) (wakeCode_lt c)
      exact ⟨_, congrArg Host.Outcome.next hexec, hwoken, hcode, hbrown, hmem'.trans hmem, hops'.trans hops⟩
    · obtain ⟨hmem, -, hfuses⟩ := latchedWake_mem s c
      have hexec := wakeEvent_wakes hs hoff htrip htime hen (wakeStands_of_not_interrupt hc)
      rw [if_pos hp] at hexec
      have hw := latchedWake_wf hs c
      obtain ⟨hstate, hcode, hkind, hphase, -⟩ := wakeP3_facts hw (wakeCode_lt c)
      obtain ⟨hlatch, hmem', hfuses'⟩ := wakeP3_stands hw (wakeCode c)
      exact ⟨_, congrArg Host.Outcome.next hexec, hstate, hcode, hkind, hphase,
        (congrArg (bitOf · b) hlatch).trans (latchedWake_latch hs hc), hmem'.trans hmem, by rw [hfuses', hfuses]⟩
  · exact ⟨fun hoff hb => if_neg (by simp [hoff, hb]), fun h => if_pos h⟩
  · have hs := hinv.canon.regs
    obtain ⟨hops, hfuses, hxspi, htim⟩ := porReset_facts s
    have hloss := exec_aonLoss s
    generalize porReset s = v at hloss hops hfuses hxspi htim
    refine ⟨⟨_, hloss, rfl, hops, hfuses, hxspi, htim⟩, exec_thermtrip_facts hs,
      fun v ack hon => ?_, fun v ack hoff => ?_, fun h => ?_, fun p tick h hdue => ?_, fun p tick h _ => exec_dvfsClockRaise h,
      fun ds base => ⟨fun hp => ?_, fun hp hbrown hcls => ?_⟩⟩
    · rw [exec_dvfsPoint hs, if_pos hon]
      exact ⟨_, rfl, rfl, pointed_point hs v ack, fun o ho => State.reg_setFld_ne hs _ _ _ ho, pointed_active hs v ack⟩
    · rw [exec_dvfsPoint hs, if_neg (ne_true_of_eq_false hoff)]
      rfl
    · show execDvfsClockRaise s = _
      rw [execDvfsClockRaise, h]
    · rw [exec_dvfsClockRaise h, runTicks_past hdue, raiseClock_due h]
    · exact if_neg (Nat.not_lt.mpr hp)
    · intro sum lim avail hshare havail
      have hexec := powerWindow_granted hbrown hcls rfl rfl hshare havail
      refine ⟨_, (if_pos hp).trans (congrArg Host.Outcome.next hexec), ?_, rfl, rfl, fun o ho => ?_⟩
      · exact (State.reg_setReg hs _ _ _).trans (if_pos rfl)
      · exact State.reg_setReg_ne hs _ ho

end Sys2Proof.Machine
end

section
/-! PROOFS. The debug level, its session and the TAP (R464, R474, R479, R480, R493). -/

namespace Sys2Proof.Machine

section
variable {s t : State}

/-! ### The debug level takes a value (R474, R479, R494) -/

/-- The registers that a change of level writes beside SEC_DEBUG and SEC_DEBUG_END: what the step machine and the events
write, and what the SEC block shows. -/
def levelReg (o : Nat) : Bool := heldReg o || shownReg o

/-- LEVEL, the domain mask and the end of the session as they are written. -/
def State.levelSet (s : State) (lvl mask end_ : Nat) : State :=
  ((s.setFld Reg.secDebug 1 0 lvl).setFld Reg.secDebug 31 16 mask).setReg Reg.secDebugEnd (BitVec.ofNat 64 end_)

/-- A fall of the level discards records and turns STALL into STOP: nothing but what recording leaves. -/
theorem levelFall_signals (s : State) : State.Signals s (levelFall s) := by
  have hctl : ∀ n ∈ List.range 12, sigReg (Reg.obsTrCtl n) = true := by decide
  unfold levelFall
  refine signals_foldl (.refl s) fun t n hn ht => ?_
  dsimp only
  split
  · exact State.setFld_signals (hctl n hn) (State.setTrBuf_signals ht)
  · exact State.setTrBuf_signals ht

theorem State.Signals.levelRegs (h : State.Signals s t) : State.RegsBut levelReg s t :=
  State.RegsBut.mono (fun _ ho => (Bool.or_eq_false_iff.mp (Bool.or_eq_false_iff.mp ho).1).2) h.regs

/-- The keepers of a list are halted, and no other. -/
def State.halting (s : State) (ks : List Nat) : State := { s with power := { s.power with halted := ks } }

theorem showHeld_halted (s : State) : (showHeld s).power.halted = s.power.halted := by
  obtain ⟨_, _, hpower⟩ := (showHeld_stepped s).power
  rw [hpower]

theorem showHeld_levelRegs (s : State) (ks : List Nat) : State.RegsBut levelReg s (showHeld (s.halting ks)) :=
  State.RegsBut.mono (fun _ ho => (Bool.or_eq_false_iff.mp ho).1) (showHeld_stepped (s.halting ks)).regs

theorem showSec_levelRegs (s : State) : State.RegsBut levelReg s (showSec s) :=
  State.RegsBut.mono (fun _ ho => (Bool.or_eq_false_iff.mp ho).2) (showSec_writesOnly s).regs

theorem showSec_power (s : State) : (showSec s).power = s.power := by
  obtain ⟨r, hr⟩ := (showSec_writesOnly s).same
  rw [hr]
  rfl

/-- After the level is written the change writes only `levelReg`, and below D3 it releases the halted keepers. -/
theorem setLevel_tail (s : State) (lvl mask end_ : Nat) :
    State.RegsBut levelReg (s.levelSet lvl mask end_) (setLevel s lvl mask end_) ∧
      (lvl < 3 → (setLevel s lvl mask end_).power.halted = []) := by
  unfold setLevel
  extract_lets old v0 v1 v2 power v3 sec v4
  have h2 : State.RegsBut levelReg v1 v2 := by
    unfold v2
    split
    · exact (levelFall_signals v1).levelRegs
    · exact .refl _ _
  have h3 : State.RegsBut levelReg v1 v3 ∧ (lvl < 3 → v3.power.halted = []) := by
    unfold v3
    split
    · exact ⟨h2.trans (showHeld_levelRegs v2 []), fun _ => showHeld_halted (v2.halting [])⟩
    · next h => exact ⟨h2, fun hlt => absurd hlt h⟩
  have h4 : State.RegsBut levelReg v1 v4 ∧ (lvl < 3 → v4.power.halted = []) := by
    unfold v4
    split <;> exact h3
  obtain ⟨hregs, hhalt⟩ := h4
  refine ⟨.trans ?_ (showSec_levelRegs _), fun hlt => ?_⟩
  · split
    · exact hregs
    · exact hregs.trans (raise_signals (by decide) (.refl _)).levelRegs
  · rw [showSec_power]
    split
    · exact hhalt hlt
    · rw [(raise_signals (n := 194) (by decide) (.refl v4)).power]
      exact hhalt hlt

/-- What a change of level leaves. -/
structure LevelSet (s t : State) (lvl mask : Nat) (end_ : Word) : Prop where
  wf    : kvWf regReset t.regs = true
  level : debugLevel t = lvl
  mask  : t.fld Reg.secDebug 31 16 = mask
  end_  : t.reg Reg.secDebugEnd = end_
  mem   : t.mem = s.mem
  fuses : t.fuses = s.fuses
  halts : lvl < 3 → t.power.halted = []

/-- Does a step into P2 or P3 wait on a halted keeper? -/
def State.holds (s : State) : Bool := (s.power.step == some 2 || s.power.step == some 3) && !s.power.halted.isEmpty

theorem debugLevel_lt (s : State) : debugLevel s < 4 := bitsOf_lt ..

section
variable (hs : kvWf regReset s.regs = true)
include hs

theorem levelSet_facts (lvl mask end_ : Nat) :
    kvWf regReset (s.levelSet lvl mask end_).regs = true ∧ (s.levelSet lvl mask end_).fld Reg.secDebug 1 0 = lvl % 2 ^ 2 ∧
      (s.levelSet lvl mask end_).fld Reg.secDebug 31 16 = mask % 2 ^ 16 ∧
      (s.levelSet lvl mask end_).reg Reg.secDebugEnd = BitVec.ofNat 64 end_ := by
  have h1 : kvWf regReset (s.setFld Reg.secDebug 1 0 lvl).regs = true := State.setFld_wf hs ..
  have h2 : kvWf regReset ((s.setFld Reg.secDebug 1 0 lvl).setFld Reg.secDebug 31 16 mask).regs = true := State.setFld_wf h1 ..
  rw [State.levelSet]
  refine ⟨State.setReg_wf h2 .., ?_, ?_, ?_⟩
  · rw [fld_setReg_ne h2 _ _ _ (by decide), fld_setFld_ne h1 (by decide) (by decide) (by omega),
      State.fld_setFld hs _ _ _ _ (by decide) (by decide)]
  · rw [fld_setReg_ne h2 _ _ _ (by decide), State.fld_setFld h1 _ _ _ _ (by decide) (by decide)]
  · rw [State.reg_setReg h2, if_pos rfl]

/-- SEC_DEBUG and SEC_DEBUG_END show what the change of level writes. -/
theorem setLevel_shown (lvl mask end_ : Nat) : kvWf regReset (setLevel s lvl mask end_).regs = true ∧
    (setLevel s lvl mask end_).fld Reg.secDebug 1 0 = lvl % 2 ^ 2 ∧
    (setLevel s lvl mask end_).fld Reg.secDebug 31 16 = mask % 2 ^ 16 ∧
    (setLevel s lvl mask end_).reg Reg.secDebugEnd = BitVec.ofNat 64 end_ := by
  obtain ⟨hset, hlevel, hmask, hend⟩ := levelSet_facts hs lvl mask end_
  obtain ⟨hwf, hreg⟩ := (setLevel_tail s lvl mask end_).1 hset
  have hlevelReg : (setLevel s lvl mask end_).reg Reg.secDebug = (s.levelSet lvl mask end_).reg Reg.secDebug := hreg _ (by decide)
  exact ⟨hwf, (congrArg (bitsOf · 1 0) hlevelReg).trans hlevel, (congrArg (bitsOf · 31 16) hlevelReg).trans hmask,
    (hreg _ (by decide)).trans hend⟩

theorem setLevel_levelSet {lvl mask : Nat} (end_ : Nat) (hl : lvl < 4) (hm : mask < 2 ^ 16) :
    LevelSet s (setLevel s lvl mask end_) lvl mask (BitVec.ofNat 64 end_) := by
  have hapart : State.SessionApart s (setLevel s lvl mask end_) := setLevel_apart (.refl s)
  obtain ⟨hwf, hlevel, hmask, hend⟩ := setLevel_shown hs lvl mask end_
  exact ⟨hwf, hlevel.trans (Nat.mod_eq_of_lt hl), hmask.trans (Nat.mod_eq_of_lt hm), hend, hapart.mem, hapart.fuses,
    (setLevel_tail s lvl mask end_).2⟩

omit hs in
/-- After a fall to level 0 the session's error keeps what the fall leaves. -/
theorem LevelSet.ended {u : State} (h : LevelSet s u 0 0 0) (hsig : State.Signals (u.setBit Reg.secErr 1 true) t) :
    LevelSet s t 0 0 0 ∧ t.bit Reg.secErr 1 = true := by
  have hw := State.setBit_wf h.wf Reg.secErr 1 true
  obtain ⟨hwf, hreg⟩ := hsig.regs hw
  have hstands : ∀ o, o ≠ Reg.secErr → sigReg o = false → t.reg o = u.reg o :=
    fun o ho hso => (hreg o hso).trans (State.reg_setBit_ne h.wf _ _ ho)
  have hlevelReg : t.reg Reg.secDebug = u.reg Reg.secDebug := hstands _ (by decide) (by decide)
  refine ⟨⟨hwf, (congrArg (bitsOf · 1 0) hlevelReg).trans h.level, (congrArg (bitsOf · 31 16) hlevelReg).trans h.mask,
    (hstands _ (by decide) (by decide)).trans h.end_, hsig.mem.trans h.mem, hsig.fuses.trans h.fuses, fun hlt => ?_⟩, ?_⟩
  · rw [hsig.power]
    exact h.halts hlt
  · exact (hsig.bit_eq hw (by decide) 1).trans (State.bit_setBit h.wf _ _ _ (by decide))

/-- The end of a session: level 0 with no end, its error, and no keeper halted. -/
theorem endSession_levelSet (h : debugLevel s ≠ 0) :
    LevelSet s (endSession s) 0 0 0 ∧ (endSession s).bit Reg.secErr 1 = true := by
  have hset := setLevel_levelSet hs (lvl := 0) (mask := 0) 0 (by decide) (by decide)
  have hend : endSession s = sticky (setLevel s 0 0 0) Reg.secErr 1 (some 195) := if_neg h
  rw [hend]
  exact hset.ended (sticky_signals_setBit hset.wf (by decide) (by simp))

/-! ### DEBUG_WRITE and the end of a session (R474) -/

/-- In MANUFACTURE a write of LEVEL 0 ends the session before it sets the level. -/
def State.sessionClosed (s : State) (lvl : Nat) : State := if lvl = 0 then endSession s else s

omit hs in
theorem exec_debugWrite_manufacture {v : Word} (h : s.fuses.lifecycle = 0) : exec (.debugWrite v) s =
    .next (setLevel (s.sessionClosed (bitsOf v 1 0)) (bitsOf v 1 0) (bitsOf v 31 16) 0) :=
  congrArg Host.Outcome.next (if_pos h)

omit hs in
theorem sessionClosed_apart (s : State) (lvl : Nat) : State.SessionApart s (s.sessionClosed lvl) := by
  unfold State.sessionClosed
  split
  · exact endSession_apart s
  · exact .refl s

omit hs in
theorem exec_debugWrite_no_lower {v : Word} (h : s.fuses.lifecycle ≠ 0) (hlvl : debugLevel s ≤ bitsOf v 1 0) :
    exec (.debugWrite v) s = .next s :=
  congrArg Host.Outcome.next ((if_neg h).trans (if_pos hlvl))

omit hs in
theorem exec_debugWrite_lower {v : Word} (h : s.fuses.lifecycle ≠ 0) (hlvl : bitsOf v 1 0 < debugLevel s) :
    exec (.debugWrite v) s = .next (if bitsOf v 1 0 = 0 then endSession s
      else setLevel s (bitsOf v 1 0) (s.fld Reg.secDebug 31 16) (s.reg Reg.secDebugEnd).toNat) :=
  congrArg Host.Outcome.next ((if_neg h).trans (if_neg (Nat.not_le.mpr hlvl)))

omit hs in
theorem exec_debugSessionEnd_open (hlevel : debugLevel s ≠ 0) (hend : s.reg Reg.secDebugEnd ≠ 0) :
    exec .debugSessionEnd s = .next (endSession (if s.now < (s.reg Reg.secDebugEnd).toNat then
      runTo s (s.reg Reg.secDebugEnd).toNat else s)) := by
  refine if_neg (not_or.mpr ⟨hlevel, fun h => hend ?_⟩)
  exact BitVec.eq_of_toNat_eq h

/-! ### HELD (R479) -/

theorem showHeld_bit : (showHeld s).bit Reg.pwrState 3 = s.holds := by
  have hwrite : ∀ b, (s.setBit Reg.pwrState 3 b).bit Reg.pwrState 3 = b := fun b => State.bit_setBit hs _ _ _ (by decide)
  unfold showHeld
  extract_lets held
  split
  · next h =>
    have hheld : s.holds = true := (Bool.and_eq_true_iff.mp h).1
    rw [State.bit, ((raise_signals (n := 2) (by decide) (.refl (s.setBit Reg.pwrState 3 true))).regs
      (State.setBit_wf hs ..)).2 _ (by decide), hheld]
    exact hwrite true
  · exact hwrite _

theorem showHeld_halting_bit (ks : List Nat) : (showHeld (s.halting ks)).bit Reg.pwrState 3 =
    ((s.power.step == some 2 || s.power.step == some 3) && !ks.isEmpty) := showHeld_bit (s := s.halting ks) hs

end

/-! ### The TAP (R472, R474, R479, R480) -/

theorem tapAt_out_of_reach {lvl : Nat} {run : State → State} (h : tapReaches s = false) : tapAt s lvl run = s :=
  if_pos (by simp [h])

theorem tapAt_refused {lvl : Nat} {run : State → State} (h : tapReaches s = true) (hlvl : debugLevel s < lvl) :
    tapAt s lvl run = sticky s Reg.secErr 3 (some 197) :=
  (if_neg (by simp [h])).trans (if_pos hlvl)

theorem tapAt_runs {lvl : Nat} {run : State → State} (h : tapReaches s = true) (hlvl : lvl ≤ debugLevel s) :
    tapAt s lvl run = run s :=
  (if_neg (by simp [h])).trans (if_neg (Nat.not_lt.mpr hlvl))

/-- The keepers that stay halted whatever is done to keeper `k`. -/
def State.othersHalted (s : State) (k : Nat) : List Nat := s.power.halted.filter (· != k)

theorem mem_othersHalted {k j : Nat} : j ∈ s.othersHalted k ↔ j ∈ s.power.halted ∧ j ≠ k := by simp [State.othersHalted]

theorem mem_withHalted {k j : Nat} : j ∈ s.othersHalted k ++ [k] ↔ j ∈ s.power.halted ∨ j = k := by
  rw [List.mem_append, mem_othersHalted, List.mem_singleton]
  by_cases hj : j = k <;> simp [hj]

section
variable {k : Fin 4} (h : tapReaches s = true) (hlvl : 3 ≤ debugLevel s)
include h hlvl

theorem exec_khalt_halt : exec (.khalt k .halt) s = .next (showHeld (s.halting (s.othersHalted k.val ++ [k.val]))) :=
  congrArg Host.Outcome.next (tapAt_runs h hlvl)

theorem exec_khalt_release : exec (.khalt k .release) s = .next (showHeld (s.halting (s.othersHalted k.val))) :=
  congrArg Host.Outcome.next (tapAt_runs h hlvl)

theorem exec_khalt_step : exec (.khalt k .step) s = .next s := congrArg Host.Outcome.next (tapAt_runs h hlvl)

theorem exec_memacc (acc : TapAccess) : exec (.memacc acc) s = .next (memAccess s acc) :=
  congrArg Host.Outcome.next (tapAt_runs h hlvl)

theorem exec_samplePreload : exec .samplePreload s = .next { s with
    sec := { s.sec with bypass := false, tap := wordBytes (Config.freeWord s.freeCtr) }, freeCtr := s.freeCtr + 1 } :=
  congrArg Host.Outcome.next (tapAt_runs h hlvl)

end

/-- EXTEST stands, with the session that allowed it (R505). -/
def State.underExtest (s : State) (ctl end_ : Word) : State :=
  let t := (s.setReg Reg.secDebug ctl).setReg Reg.secDebugEnd end_
  { t with sec := { t.sec with extest := true } }

theorem underExtest_rest (s : State) (ctl end_ : Word) : (s.underExtest ctl end_).sec.extest = true ∧
    (s.underExtest ctl end_).ops = s.ops ∧ (s.underExtest ctl end_).fab = s.fab ∧
    (s.underExtest ctl end_).fuses = s.fuses := ⟨rfl, rfl, rfl, rfl⟩

theorem underExtest_regs (hs : kvWf regReset s.regs = true) (ctl end_ : Word) :
    kvWf regReset (s.underExtest ctl end_).regs = true ∧ (s.underExtest ctl end_).reg Reg.secDebug = ctl ∧
      (s.underExtest ctl end_).reg Reg.secDebugEnd = end_ := by
  have h1 : kvWf regReset (s.setReg Reg.secDebug ctl).regs = true := State.setReg_wf hs ..
  refine ⟨State.setReg_wf h1 .., ?_, ?_⟩
  · exact (State.reg_setReg_ne h1 _ (by decide)).trans ((State.reg_setReg hs _ _ _).trans (if_pos rfl))
  · exact (State.reg_setReg h1 _ _ _).trans (if_pos rfl)

/-- The device as EXTEST leaves it before the SEC block shows it. -/
def State.extested (s : State) : State := (resetDomain s).underExtest (s.reg Reg.secDebug) (s.reg Reg.secDebugEnd)

theorem exec_extest (h : tapReaches s = true) (hlvl : 3 ≤ debugLevel s) : exec .extest s = .next (showSec s.extested) :=
  congrArg Host.Outcome.next (tapAt_runs (run := fun s => showSec s.extested) h hlvl)

theorem extested_facts (hs : kvWf regReset s.regs = true) : kvWf regReset s.extested.regs = true ∧
    s.extested.reg Reg.secDebug = s.reg Reg.secDebug ∧ s.extested.reg Reg.secDebugEnd = s.reg Reg.secDebugEnd ∧
    s.extested.sec.extest = true ∧ s.extested.ops = [] ∧ s.extested.fab = State.reset.fab ∧ s.extested.fuses = s.fuses := by
  have hdom := resetDomain_facts hs
  obtain ⟨hwf, hlevelReg, hend⟩ := underExtest_regs hdom.wf (s.reg Reg.secDebug) (s.reg Reg.secDebugEnd)
  obtain ⟨hext, hops, hfab, hfuses⟩ := underExtest_rest (resetDomain s) (s.reg Reg.secDebug) (s.reg Reg.secDebugEnd)
  exact ⟨hwf, hlevelReg, hend, hext, hops.trans hdom.ops, hfab.trans hdom.fab, hfuses.trans hdom.fuses⟩

theorem showSec_rest (s : State) : (showSec s).sec = s.sec ∧ (showSec s).ops = s.ops ∧ (showSec s).fab = s.fab ∧
    (showSec s).fuses = s.fuses := by
  obtain ⟨r, hsame⟩ := (showSec_writesOnly s).same
  rw [hsame]
  exact ⟨rfl, rfl, rfl, rfl⟩

theorem extest_facts (hs : kvWf regReset s.regs = true) : (showSec s.extested).sec.extest = true ∧
    debugLevel (showSec s.extested) = debugLevel s ∧ (showSec s.extested).reg Reg.secDebugEnd = s.reg Reg.secDebugEnd ∧
    (showSec s.extested).ops = [] ∧ (showSec s.extested).fab = State.reset.fab ∧ (showSec s.extested).fuses = s.fuses := by
  obtain ⟨hwf, hlevelReg, hend, hext, hops, hfab, hfuses⟩ := extested_facts hs
  obtain ⟨hsec', hops', hfab', hfuses'⟩ := showSec_rest s.extested
  obtain ⟨-, hreg⟩ := (showSec_writesOnly s.extested).regs hwf
  refine ⟨by rw [hsec', hext], ?_, (hreg _ (by decide)).trans hend, hops'.trans hops, hfab'.trans hfab, hfuses'.trans hfuses⟩
  exact congrArg (bitsOf · 1 0) ((hreg _ (by decide)).trans hlevelReg)

end

/-- Settles O55: the level as it is written, lowered and ended, then the TAP out of reach, below and at its level. -/
theorem debugLevelsAndTheTap : Obligations.DebugLevelsAndTheTap := by
  refine ⟨fun s v hinv => ⟨fun hlife => ?_, exec_debugWrite_no_lower, fun hlife hlvl => ?_⟩,
    fun s hinv => ⟨fun h => if_pos (h.imp_right (congrArg BitVec.toNat)), fun hlevel hend hnow => ?_,
      fun hlevel hend hnow => ?_⟩,
    fun s => ⟨fun hoff => ⟨congrArg Host.Outcome.next (if_neg (by simp [tapPowered, hoff])),
      congrArg Host.Outcome.next (if_neg (by simp [tapPowered, hoff]))⟩,
      fun hon => ⟨congrArg Host.Outcome.next (if_pos (by simp [tapPowered, hon])),
      congrArg Host.Outcome.next (if_pos (by simp [tapPowered, hon]))⟩⟩,
    fun s off k act acc hinv => ⟨fun hout c hc => ?_, fun hreach hlvl c hc => ?_, fun hreach hlvl => ?_, fun hreach hlvl => ?_,
      fun hreach hlvl => ?_⟩⟩
  · have hapart := sessionClosed_apart s (bitsOf v 1 0)
    have hset := setLevel_levelSet (hapart.regs hinv.canon.regs).1 (lvl := bitsOf v 1 0) (mask := bitsOf v 31 16) 0
      (bitsOf_lt ..) (bitsOf_lt ..)
    exact ⟨_, exec_debugWrite_manufacture hlife, hset.level, hset.mask, hset.end_, hset.mem.trans hapart.mem,
      hset.fuses.trans hapart.fuses⟩
  · have hs := hinv.canon.regs
    have hlt := debugLevel_lt s
    refine ⟨_, exec_debugWrite_lower hlife hlvl, ?_⟩
    by_cases hzero : bitsOf v 1 0 = 0
    · obtain ⟨hset, herr⟩ := endSession_levelSet hs (s := s) (by omega)
      rw [if_pos hzero, if_pos hzero, hzero]
      exact ⟨hset.level, hset.mem, hset.fuses, hset.halts (by decide), herr, hset.end_⟩
    · have hset := setLevel_levelSet hs (lvl := bitsOf v 1 0) (mask := s.fld Reg.secDebug 31 16)
        (s.reg Reg.secDebugEnd).toNat (bitsOf_lt ..) (bitsOf_lt ..)
      rw [if_neg hzero, if_neg hzero]
      exact ⟨hset.level, hset.mem, hset.fuses, hset.halts (by omega), hset.mask, hset.end_.trans (BitVec.ofNat_toNat ..)⟩
  · rw [exec_debugSessionEnd_open hlevel hend, if_pos hnow]
  · obtain ⟨hset, herr⟩ := endSession_levelSet hinv.canon.regs hlevel
    rw [exec_debugSessionEnd_open hlevel hend, if_neg (Nat.not_lt.mpr hnow)]
    exact ⟨_, rfl, hset.level, hset.end_, herr, hset.halts (by decide), hset.mem, hset.fuses⟩
  · simp only [List.mem_cons, List.not_mem_nil, or_false] at hc
    rcases hc with rfl | rfl | rfl | rfl | rfl <;> exact congrArg Host.Outcome.next (tapAt_out_of_reach hout)
  · have hsig : State.Signals (s.setBit Reg.secErr 3 true) (sticky s Reg.secErr 3 (some 197)) :=
      sticky_signals_setBit hinv.canon.regs (by decide) (by simp)
    simp only [List.mem_cons, List.not_mem_nil, or_false] at hc
    rcases hc with rfl | rfl | rfl | rfl <;> exact ⟨_, congrArg Host.Outcome.next (tapAt_refused hreach hlvl), hsig⟩
  · exact ⟨_, congrArg Host.Outcome.next (tapAt_refused hreach (by omega)),
      sticky_signals_setBit hinv.canon.regs (by decide) (by simp)⟩
  · refine congrArg Host.Outcome.next ((tapAt_runs hreach hlvl).trans ?_)
    simp only [← Option.isSome_iff_ne_none]
  · have hs := hinv.canon.regs
    have hd3 : 3 ≤ debugLevel s := hlvl.ge
    obtain ⟨hext, hlevel, hend, hops, hfab, hfuses⟩ := extest_facts hs
    refine ⟨exec_memacc hreach hd3 acc, exec_samplePreload hreach hd3,
      ⟨showSec s.extested, exec_extest hreach hd3, hext, hlevel.trans hlvl, hend, hops, hfab, hfuses⟩, exec_khalt_step hreach hd3,
      ⟨_, exec_khalt_halt hreach hd3, fun j => ?_, ?_, ?_⟩, ⟨_, exec_khalt_release hreach hd3, fun j => ?_, fun hall => ?_, ?_⟩⟩
    · rw [showHeld_halted]
      exact mem_withHalted
    · simp [showHeld_halting_bit hs]
    · exact (showHeld_stepped _).mem
    · rw [showHeld_halted]
      exact mem_othersHalted
    · have hnone : s.othersHalted k.val = [] := by
        rw [State.othersHalted, List.filter_eq_nil_iff]
        intro j hj
        simp [hall j hj]
      simp [showHeld_halting_bit hs, hnone]
    · exact (showHeld_stepped _).mem

end Sys2Proof.Machine
end

section
/-! PROOFS. Signed records, attestation and records over the TAP (R472, R473, R474, R481; log 61). -/

namespace Sys2Proof.Machine

section
variable {s t u : State} {b : List Byte}

/-! ### A record and its result (R473) -/

/-- A new nonce is drawn. -/
def State.drawn (s : State) : State := { s with sec := { s.sec with draws := s.sec.draws + 1 } }

theorem State.Signals.drawn (h : State.Signals s t) : State.Signals s.drawn t.drawn :=
  { h with sec := congrArg (fun c : Security => { c with draws := c.draws + 1 }) h.sec }

/-- SEC_CMD_STAT shows the result and the type of a record. -/
def State.judged (s : State) (b : List Byte) : State := s.setFld Reg.secCmdStat 15 0 (recordResult s b + u8At b 4 * 256)

theorem submitRecord_eq (s : State) (b : List Byte) : submitRecord s b = (if recordResult s b = 1 then
    raise (applyRecord (s.judged b) b) 192 else sticky (s.judged b) Reg.secErr 0 (some 193)).drawn := rfl

/-- A record is applied or refused; beside that and the nonce there is the event. -/
theorem submitRecord_signals (hs : kvWf regReset s.regs = true) (b : List Byte) : State.Signals
    (if recordResult s b = 1 then applyRecord (s.judged b) b else (s.judged b).setBit Reg.secErr 0 true).drawn
    (submitRecord s b) := by
  have hj : kvWf regReset (s.judged b).regs = true := State.setFld_wf hs ..
  rw [submitRecord_eq]
  refine State.Signals.drawn ?_
  split
  · exact raise_signals (by decide) (.refl _)
  · exact sticky_signals_setBit hj (by decide) (by simp)

/-- A record of the type that its command submits. -/
theorem submitType_read {type : Nat} {a : Word} (hread : unitRead s (a &&& ~~~0x3F) 320 3 none = (u, stOK, b))
    (htype : u8At b 4 = type) : submitType type a s = submitRecord u b := by
  have hrecord : readRecord s a = (u, b) := by rw [readRecord, hread]; rfl
  rw [submitType, hrecord]
  exact if_pos htype

theorem recordResult_busy (h : s.power.step.isSome = true) : recordResult s b = 9 := if_pos h

section
variable (hidle : s.power.step = none)
include hidle

theorem recordResult_malformed (hform : recordForm b = false) : recordResult s b = 2 :=
  (if_neg (by simp [hidle])).trans (if_pos (by simp [hform]))

variable (hform : recordForm b = true)
include hform

theorem recordResult_foreign (h : u64At b 8 ≠ s.fuses.deviceId.toNat) : recordResult s b = 4 :=
  (if_neg (by simp [hidle])).trans ((if_neg (by simp [hform])).trans (if_pos h))

theorem recordResult_stale (h : u64At b 8 = s.fuses.deviceId.toNat) (hnonce : sliceB b 16 48 ≠ nonceBytes s) :
    recordResult s b = 5 :=
  (if_neg (by simp [hidle])).trans ((if_neg (by simp [hform])).trans ((if_neg (not_not.mpr h)).trans (if_pos hnonce)))

/-- A record of this device with its nonce: the signer, the signature, and the slot of a new owner decide. -/
theorem recordResult_current (h : u64At b 8 = s.fuses.deviceId.toNat) (hnonce : sliceB b 16 48 = nonceBytes s) :
    recordResult s b = if signerRule s (u8At b 4) (u8At b 7) (u8At b 6) ≠ 0 then
        signerRule s (u8At b 4) (u8At b 7) (u8At b 6)
      else if !signatureRule s b then 3
      else if u8At b 4 = 2 ∧ (ownerSlot s (u8At b 6)).valid then 7
      else 1 :=
  (if_neg (by simp [hidle])).trans ((if_neg (by simp [hform])).trans ((if_neg (not_not.mpr h)).trans
    (if_neg (not_not.mpr hnonce))))

end

/-- In MANUFACTURE the lifecycle refuses a token (R464). -/
theorem signerRule_manufacture_token {signer slot : Nat} (h : s.fuses.lifecycle = 0) : signerRule s 1 signer slot = 6 := by
  simp [signerRule, h]

/-- In MANUFACTURE a record of type 2, 3, 5 or 6 without a signer meets the signer rule. -/
theorem signerRule_manufacture_bare {type slot : Nat} (h : s.fuses.lifecycle = 0)
    (htype : type = 3 ∨ type = 5 ∨ type = 6 ∨ type = 2) : signerRule s type 0xFE slot = 0 := by
  rcases htype with rfl | rfl | rfl | rfl <;> simp [signerRule, h]

theorem signatureRule_bare (h : u8At b 7 = 0xFE) : signatureRule s b = true := if_pos h

/-! ### What an accepted record does (R468, R471, R473, R474) -/

theorem showSec_fuses (s : State) : (showSec s).fuses = s.fuses := (showSec_rest s).2.2.2

/-- One session of D3 more has been opened, where it is so. -/
def State.opened (s : State) (again : Bool) : State :=
  if again then { s with sec := { s.sec with d3 := s.sec.d3 + 1 } } else s

theorem opened_fuses (s : State) (again : Bool) : (s.opened again).fuses = s.fuses := by cases again <;> rfl

theorem opened_regs (s : State) (again : Bool) : (s.opened again).regs = s.regs := by cases again <;> rfl

theorem openSession_eq (s : State) (lvl mask end_ : Nat) : openSession s lvl mask end_ =
    (setLevel s lvl mask end_).opened (decide (lvl = 3 ∧ debugLevel s = 3)) := by
  rw [State.opened, openSession]
  simp only [decide_eq_true_eq]

/-- A token sets level and mask and leaves the fuses. -/
theorem openSession_facts (hs : kvWf regReset s.regs = true) (lvl mask end_ : Nat) :
    (openSession s lvl mask end_).fuses = s.fuses ∧
      (openSession s lvl mask end_).fld Reg.secDebug 1 0 = lvl % 2 ^ 2 ∧
      (openSession s lvl mask end_).fld Reg.secDebug 31 16 = mask % 2 ^ 16 := by
  have hapart : State.SessionApart s (setLevel s lvl mask end_) := setLevel_apart (.refl s)
  obtain ⟨-, hlevel, hmask, -⟩ := setLevel_shown hs lvl mask end_
  have hregs := opened_regs (setLevel s lvl mask end_) (decide (lvl = 3 ∧ debugLevel s = 3))
  rw [openSession_eq, opened_fuses, State.fld_of_regs hregs, State.fld_of_regs hregs]
  exact ⟨hapart.fuses, hlevel, hmask⟩

theorem applyRecord_token (h : u8At b 4 = 1) : applyRecord s b =
    openSession s (u8At b 5) (u16At b 64) ((s.now + u32At b 68 * 1000000000) % 2 ^ 64) := by
  simp only [applyRecord, h]

theorem leNat_lt (bs : List Byte) : leNat bs < 256 ^ bs.length := by
  induction bs with
  | nil => decide
  | cons b bs ih =>
    have hb : b.toNat < 256 := b.isLt
    rw [leNat, List.length_cons, pow_succ]
    omega

theorem u16At_lt (b : List Byte) (o : Nat) : u16At b o < 2 ^ 16 := by
  have h := leNat_lt (sliceB b o 2)
  rwa [sliceB_length] at h

/-! ### Attestation (R481) -/

theorem attest_read {a : Word} {nonce : List Byte}
    (h : unitRead s ((a &&& ~~~0x3F) + 104) 48 3 none = (u, stOK, nonce)) {w : State × Nat}
    (hw : unitWrite u (a &&& ~~~0x3F) (reportBody u nonce ++ sliceB (Config.identitySign u.freeCtr (reportBody u nonce)) 0 96 ++
      zeroBytes 8) = w) : attest s a =
      if w.2 = stOK then raise ((w.1.bumpFree.setFld Reg.secAttestStat 7 0 1).wrapFld Reg.secAttestStat 63 8 1) 196
      else w.1.setFld Reg.secAttestStat 7 0 3 := by
  unfold attest
  dsimp only
  rw [h]
  dsimp only
  rw [hw, if_neg (not_not.mpr rfl)]
  exact ite_not ..

end

/-- Settles O54: a record is judged, applied or refused, and its fuses are the ones its type names. -/
theorem signedRecordsAreJudged : Obligations.SignedRecordsAreJudged := by
  refine ⟨fun s u a b hinv hread => ?_, fun s b => ?_, fun s b => ?_, fun s v a nonce hread => ?_, fun s rec_ hreach => ?_⟩
  · have hkeeps : State.Keeps s (unitRead s (a &&& ~~~0x3F) 320 3 none).1 := unitRead_keeps (.refl s)
    rw [hread] at hkeeps
    intro stat drawn c hc htype
    have hsig := submitRecord_signals (hkeeps.inv hinv).canon.regs b
    simp only [List.mem_cons, List.not_mem_nil, or_false] at hc
    rcases hc with rfl | rfl | rfl | rfl | rfl | rfl <;>
      exact ⟨_, congrArg Host.Outcome.next (submitType_read hread htype), hsig⟩
  · intro ty r
    refine ⟨recordResult_busy, recordResult_malformed, fun hidle hform => ⟨recordResult_foreign hidle hform,
      recordResult_stale hidle hform, fun hdev hnonce hlife => ⟨fun htype => ?_, fun hbare htype => ?_⟩⟩⟩
    · have hrule : signerRule s (u8At b 4) (u8At b 7) (u8At b 6) = 6 := by
        rw [show u8At b 4 = 1 from htype, signerRule_manufacture_token hlife]
      show recordResult s b = 6
      rw [recordResult_current hidle hform hdev hnonce, hrule]
      rfl
    · have hrule : signerRule s (u8At b 4) (u8At b 7) (u8At b 6) = 0 := by
        rw [hbare]
        exact signerRule_manufacture_bare hlife (htype.imp_right (.imp_right (.imp_right And.left)))
      have hslot : ¬ (u8At b 4 = 2 ∧ (ownerSlot s (u8At b 6)).valid = true) := by
        rintro ⟨h2, hvalid⟩
        rcases htype with h | h | h | ⟨-, hfree⟩
        · exact absurd (h2.symm.trans h) (by decide)
        · exact absurd (h2.symm.trans h) (by decide)
        · exact absurd (h2.symm.trans h) (by decide)
        · exact Bool.false_ne_true (hfree.symm.trans hvalid)
      show recordResult s b = 1
      rw [recordResult_current hidle hform hdev hnonce, hrule, signatureRule_bare hbare, if_neg hslot]
      rfl
  · intro ty w
    refine ⟨fun htype => ?_, fun hinv htype => ?_⟩
    · have hty : ty = u8At b 4 := rfl
      show (applyRecord s b).fuses = _
      unfold applyRecord
      split
      · next h => exact absurd h htype
      · next h => simp only [showSec_fuses, ty, h]
      · next h => simp only [showSec_fuses, ty, h]
      · next h => simp only [showSec_fuses, ty, h]
      · next h => simp only [showSec_fuses, ty, h]
      · next h2 h3 h4 h5 =>
        rw [showSec_fuses]
        clear_value ty
        subst hty
        split
        · next h => exact absurd h h2
        · next h => exact absurd h h3
        · next h => exact absurd h h4
        · next h => exact absurd h h5
        · rfl
    · have hw : w = _ := applyRecord_token htype
      obtain ⟨hfuses, hlevel, hmask⟩ := openSession_facts hinv.canon.regs (u8At b 5) (u16At b 64)
        ((s.now + u32At b 68 * 1000000000) % 2 ^ 64)
      rw [hw]
      exact ⟨hfuses, hlevel, hmask.trans (Nat.mod_eq_of_lt (u16At_lt ..))⟩
  · exact congrArg Host.Outcome.next (attest_read hread rfl)
  · exact congrArg Host.Outcome.next (tapAt_runs hreach (Nat.zero_le _))

end Sys2Proof.Machine
end

section
/-! PROOFS. Units: reset, fence, its effect and the device-minutes that rate them (R453 to R458; log 63, log 124, log 207). -/

namespace Sys2Proof.Machine

section
variable {s t : State} {u : Nat}

/-! ### Commands to a unit (R457, R458) -/

theorem unitReset_unit (hu : u < 164) : unitReset s u =
    responseEvent (setUnit (s.unfence u) u (if ratedFrom ≤ s.integ.minutes then 1 else 0) 0) u :=
  if_neg (Nat.not_le.mpr hu)

theorem unitFence_fences (hu : u < 164) (h : fenceable s u = true) : unitFence s u = fenceEvent (setUnit s u 3 7) u :=
  (if_neg (Nat.not_le.mpr hu)).trans (if_pos h)

/-- The last unit of its kind goes to level 6 (R457; log 124). -/
theorem unitFence_last (hu : u < 164) (h : fenceable s u = false) :
    unitFence s u = responseEvent (lastUnit (setUnit s u (unitSum s u).rating 6) u) u :=
  (if_neg (Nat.not_le.mpr hu)).trans (if_neg (ne_true_of_eq_false h))

theorem unitUnfence_working (hu : u < 164) (h : unitFenced s u = false) : unitUnfence s u = responseEvent s u :=
  (if_neg (Nat.not_le.mpr hu)).trans (if_neg (ne_true_of_eq_false h))

/-- A fenced unit works again at a free level and rating (log 63). -/
theorem unitUnfence_fenced (hu : u < 164) (h : unitFenced s u = true) : unitUnfence s u =
    responseEvent (setUnit (s.unfence u) u (Config.freeBelow s.freeCtr 3)
      (Config.freeBelow (s.freeCtr + 1) 7)).bumpFree.bumpFree u :=
  (if_neg (Nat.not_le.mpr hu)).trans (if_pos h)

/-! ### The effect of a fence on a cluster (R456) -/

theorem foldl_modClu_integ {α : Type} (xs : List α) (c : Nat) (f : α → Cluster → Cluster) (s : State) :
    (xs.foldl (fun s x => s.modClu c (f x)) s).integ = s.integ := by
  induction xs generalizing s with
  | nil => rfl
  | cons x xs ih => exact ih (s.modClu c (f x))

theorem moveCluster_integ (s : State) (c : Nat) : (moveCluster s c).integ = s.integ :=
  foldl_modClu_integ (cluOf s c).queue (runsOn s c) (fun r t => { t with queue := insertBy runBefore r t.queue }) _

/-- Without checks there is none to move. -/
theorem moveChecks_none (h : s.integ.checks = []) : moveChecks s u = s := by
  simp [moveChecks, h]

theorem exec_fenceEffect_cluster {unit : BitVec 16} (hfence : unit.toNat ∈ s.integ.fencing) (hu : unit.toNat < 8)
    (hrun : ∀ p, (cluOf s unit.toNat).run = some p → p.inLayer = false) (hchecks : s.integ.checks = []) :
    exec (.fenceEffect unit) s = .next (moveCluster (s.unfence unit.toNat) unit.toNat) := by
  have hlayer : ((cluOf s unit.toNat).run.map (·.inLayer)).getD false = false := by
    cases hr : (cluOf s unit.toNat).run with
    | none => rfl
    | some p => exact hrun p hr
  have hmoved : (moveCluster (s.unfence unit.toNat) unit.toNat).integ.checks = [] := by
    rw [moveCluster_integ]
    exact hchecks
  show execFenceEffect unit s = _
  rw [execFenceEffect]
  simp only [List.contains_iff_mem.mpr hfence, hlayer, hu, Bool.not_true, Bool.false_eq_true, if_false, if_true,
    moveChecks_none hmoved]

/-! ### A device-minute (R453, R454; log 207) -/

/-- The registers of the units. -/
def unitReg (o : Nat) : Bool := (List.range 164).any (fun u => o == Reg.chkUnit u)

theorem unitReg_of_ne {o : Nat} (h : ∀ u, u < 164 → o ≠ Reg.chkUnit u) : unitReg o = false := by
  rw [unitReg, List.any_eq_false]
  intro u hu
  simpa using h u (List.mem_range.mp hu)

theorem showUnit_writesOnly (s : State) (u : Nat) : State.WritesOnly unitReg s (showUnit s u) := by
  unfold showUnit
  extract_lets m
  split
  · exact .refl _ _
  · next hu =>
    refine .setReg (List.any_eq_true.mpr ⟨u, List.mem_range.mpr (Nat.not_le.mp hu), ?_⟩) (.refl _ _)
    exact beq_self_eq_true _

/-- A minute has passed: its count, and the events that are older than the window are dropped. -/
def State.minutePassed (s : State) : State :=
  let m := (s.integ.minutes + 1) % 2 ^ 32
  ({ s with integ := { s.integ with
    minutes := m, charged := s.integ.charged.filter (fun e => !decide (e.2 + 60000 ≤ m)) } } : State).setFld Reg.chkMinutes 31 0 m

/-- The units of the dropped events show their counts. -/
def State.minuteShown (s : State) : State :=
  (s.integ.charged.filter (fun e => decide (e.2 + 60000 ≤ (s.integ.minutes + 1) % 2 ^ 32))).foldl
    (fun s e => showUnit s e.1) s.minutePassed

theorem exec_deviceMinute (hp : pState s < 2) (htrip : s.power.thermtrip = false) (hoff : s.power.off = false)
    (h : (s.integ.minutes + 1) % 2 ^ 32 ≠ 12000) : exec .deviceMinute s = .next s.minuteShown := by
  have hruns : ¬ (2 ≤ pState s ∨ s.power.thermtrip = true ∨ s.power.off = true) := by simp [hp, htrip, hoff]
  exact (if_neg hruns).trans (if_neg h)

theorem minuteShown_writesOnly (s : State) : State.WritesOnly unitReg s.minutePassed s.minuteShown :=
  .foldl (fun t e _ h => h.trans (showUnit_writesOnly t e.1)) (.refl _ _)

end

/-- Settles O53: the commands to a unit, the move of a cluster's programs, and the minute with its window. -/
theorem unitsAreResetFencedAndRated : Obligations.UnitsAreResetFencedAndRated := by
  intro s unit hu u free
  refine ⟨congrArg Host.Outcome.next (unitReset_unit hu), fun h => congrArg Host.Outcome.next (unitFence_fences hu h),
    fun h => congrArg Host.Outcome.next (unitFence_last hu h), fun h => congrArg Host.Outcome.next (unitUnfence_working hu h),
    fun h => ⟨_, _, _, freeBelow_lt _ (by decide), freeBelow_lt _ (by decide), rfl,
      congrArg Host.Outcome.next (unitUnfence_fenced hu h)⟩,
    fun hfence hu8 hrun hchecks => exec_fenceEffect_cluster hfence hu8 hrun hchecks,
    fun hinv hp htrip hoff hrated => ?_⟩
  have hs := hinv.canon.regs
  obtain ⟨hsame, hregs⟩ := minuteShown_writesOnly s
  have hw : kvWf regReset s.minutePassed.regs = true := State.setFld_wf (s := { s with integ := _ }) hs ..
  obtain ⟨-, hreg⟩ := hregs hw
  obtain ⟨r, hr⟩ := hsame
  have hinteg : s.minuteShown.integ = s.minutePassed.integ := by rw [hr]; rfl
  refine ⟨_, exec_deviceMinute hp htrip hoff hrated, ?_, ?_, ?_, ?_, fun e he => ?_, fun o ho hou => ?_⟩
  · rw [hinteg]; rfl
  · have hfld : s.minutePassed.fld Reg.chkMinutes 31 0 = (s.integ.minutes + 1) % 2 ^ 32 % 2 ^ 32 :=
      State.fld_setFld (s := { s with integ := _ }) hs _ _ _ _ (by decide) (by decide)
    have hminutes : s.minuteShown.reg Reg.chkMinutes = s.minutePassed.reg Reg.chkMinutes := hreg _ (by decide)
    rw [State.fld, hminutes, hinteg]
    exact hfld.trans (Nat.mod_mod ..)
  · rw [hinteg]; rfl
  · rw [hr]; rfl
  · rw [hinteg] at he ⊢
    obtain ⟨he, hage⟩ := List.mem_filter.mp he
    have hyoung : ¬ e.2 + 60000 ≤ (s.integ.minutes + 1) % 2 ^ 32 := of_decide_eq_false (Bool.eq_false_of_not_eq_true' hage)
    exact ⟨he, Nat.not_le.mp hyoung⟩
  · exact (hreg o (unitReg_of_ne hou)).trans (State.reg_setFld_ne (s := { s with integ := _ }) hs _ _ _ ho)

end Sys2Proof.Machine
end

section
/-! PROOFS. Checks, arbitration, idle tests and test content (R437 to R440, R446 to R449; log 62, log 64, log 121, log 196). -/

namespace Sys2Proof.Machine

section
variable {s : State}

/-! ### Checks (R437, R439, R440) -/

/-- A sound unit gives the CRC of its recomputation. -/
theorem unitCrc_sound (s : State) (c : Check) (k : Nat) : (unitCrc s c k 0).2 = (recompute s c k).2 % 2 ^ 32 := by
  simp [unitCrc]

/-- A check is no longer open, and it counts. -/
def State.checkDone (s : State) (id : Nat) : State := (s.dropCheck id).wrapFld Reg.chkCount 31 0 1

section
variable {c : Check} (hfind : s.integ.checks.find? (·.id == c.id) = some c)
include hfind

theorem exec_checkComplete {crc : BitVec 32} (hedge : lampEdgeNo s ≤ c.fedge + 2) : exec (.checkComplete c.id crc) s =
    .next (if (unitCrc s c c.checker crc).2 = c.crc then (unitCrc s c c.checker crc).1.checkDone c.id
      else mismatch ((unitCrc s c c.checker crc).1.checkDone c.id) c (unitCrc s c c.checker crc).2) := by
  show execCheckComplete c.id crc s = _
  rw [execCheckComplete, hfind]
  exact if_neg (Nat.not_lt.mpr hedge)

theorem exec_checkLapse (hedge : c.fedge + 2 ≤ lampEdgeNo s) : exec (.checkLapse c.id) s = .next (journal
    (sticky ((s.dropCheck c.id).satFld Reg.chkCount 63 48 1) Reg.chkErr 2 (some 188))
    ⟨c.unit, 4, c.op, c.addr, 0, 0, 0, c.checker, 0xFFFF⟩ []) := by
  show execCheckLapse c.id s = _
  rw [execCheckLapse, hfind]
  exact if_neg (Nat.not_lt.mpr hedge)

end

/-! ### Arbitration (R440; log 62) -/

/-- An arbitration is no longer open. -/
def State.dropArb (s : State) (id : Nat) : State :=
  { s with integ := { s.integ with arbs := s.integ.arbs.filter (·.check.id != id) } }

section
variable {a : Arb} (hfind : s.integ.arbs.find? (·.check.id == a.check.id) = some a)
include hfind

theorem exec_arbitrationComplete_one {x : BitVec 32} {r : State × Nat} (hkind : a.check.kind ≠ 2)
    (hr : unitCrc (s.dropArb a.check.id) a.check a.arbiter x = r) : exec (.arbitrationComplete a.check.id [x]) s =
      let v := if r.2 = a.check.crc then r.1 else arbitrated a a.check.unit r.2 a.check.crc r.1
      .next (if r.2 = a.got then v else arbitrated a a.check.checker r.2 a.got v) := by
  show execArbitrationComplete a.check.id [x] s = _
  rw [execArbitrationComplete, hfind]
  dsimp only
  rw [decide_eq_false hkind, ← hr]
  rfl

/-- The solver's own two units decide: each is named that is alone wrong, and both when both repeat their CRC. -/
theorem exec_arbitrationComplete_two {x y : BitVec 32} {p k : State × Nat} (hkind : a.check.kind = 2)
    (hp : unitCrc (s.dropArb a.check.id) a.check a.check.unit x = p) (hk : unitCrc p.1 a.check a.check.checker y = k) :
    exec (.arbitrationComplete a.check.id [x, y]) s =
      let v := if p.2 ≠ a.check.crc ∨ k.2 = a.got then arbitrated a a.check.unit a.check.crc p.2 k.1 else k.1
      .next (if k.2 ≠ a.got ∨ p.2 = a.check.crc then arbitrated a a.check.checker a.got k.2 v else v) := by
  have hproducer : (!(p.2 == a.check.crc) || (p.2 == a.check.crc) && (k.2 == a.got)) =
      decide (p.2 ≠ a.check.crc ∨ k.2 = a.got) := by
    rw [Bool.eq_iff_iff]
    by_cases h : p.2 = a.check.crc <;> simp [h]
  have hchecker : (!(k.2 == a.got) || (p.2 == a.check.crc) && (k.2 == a.got)) =
      decide (k.2 ≠ a.got ∨ p.2 = a.check.crc) := by
    rw [Bool.eq_iff_iff]
    by_cases h : k.2 = a.got <;> simp [h]
  show execArbitrationComplete a.check.id [x, y] s = _
  rw [execArbitrationComplete, hfind]
  dsimp only
  rw [decide_eq_true hkind]
  have hp' : unitCrc { s with integ := { s.integ with arbs := s.integ.arbs.filter (·.check.id != a.check.id) } } a.check
    a.check.unit x = p := hp
  simp only [hp', hk, hproducer, hchecker, decide_eq_true_eq]

end

/-! ### Idle-slot tests (R446, R447) -/

/-- The tests of a unit wait, and its gap begins. -/
def State.testsWaiting (s : State) (unit : Nat) (mine : List (List Byte)) : State :=
  { s with integ := { s.integ with
    tests := mine.map (fun e => ⟨unit, e, u64At s.integ.content 24, 3⟩)
    lastTest := (unit, s.integ.minutes) :: s.integ.lastTest.filter (fun e => e.1 != unit) } }

theorem exec_idleTest {unit k : Nat} {es : List (List Byte)} (hkind : testKind unit = some k)
    (hcontent : contentEntries s.integ.content = some es) (hen : s.bit Reg.chkCtl 6 = true) (hp : pState s < 2)
    (htests : s.integ.tests = []) (hmine : es.filter (fun e => u16At e 0 == k) ≠ []) (hidle : unitIdle s unit = true)
    (hgap : gapPassed s unit = true) (hfree : unitFenced s unit = false) : execIdleTest unit s =
      .next (startTest (s.testsWaiting unit (es.filter (fun e => u16At e 0 == k)))) := by
  have hnone : (es.filter (fun e => u16At e 0 == k)).isEmpty = false := by simpa using hmine
  have hdue : (s.bit Reg.chkCtl 6 && decide (pState s < 2) && s.integ.tests.isEmpty &&
      !(es.filter (fun e => u16At e 0 == k)).isEmpty && unitIdle s unit && gapPassed s unit && !unitFenced s unit) = true := by
    simp [hen, hp, htests, hnone, hidle, hgap, hfree]
  rw [execIdleTest, hkind, hcontent]
  exact if_pos hdue

/-- What waits after a test whose content leaves `n` more runs of it: its scratch range is unspecified. -/
def State.tested (s : State) (t : TestRun) (rest : List TestRun) (n : Nat) : State :=
  let u := s.fillRange t.scratch 0x1000000 false
  { u with integ := { u.integ with tests := if n = 0 then rest else { t with left := n } :: rest } }

section
variable {t : TestRun} {rest : List TestRun} (htests : s.integ.tests = t :: rest) {crc : BitVec 32}
include htests

theorem exec_testComplete_passes (hcrc : crc.toNat = u32At t.raw 24) (hleft : t.left = 3) :
    exec (.testComplete t.unit crc true) s = .next (startTest (s.tested t rest 0)) := by
  show execTestComplete t.unit crc true s = _
  rw [execTestComplete, htests]
  simp only [ne_eq, not_true_eq_false, if_false, hcrc, beq_self_eq_true, Bool.and_self, hleft, if_true]
  rfl

theorem exec_testComplete_fails (hcrc : crc.toNat ≠ u32At t.raw 24) : exec (.testComplete t.unit crc true) s =
    .next (startTest (chargeEvent (raiseCluster (sticky (s.tested t rest (t.left - 1)) Reg.chkErr 1 (some 185)) t.unit 34)
      ⟨t.unit, 3, 0, 0, u32At t.raw 4, u32At t.raw 24, crc.toNat, 0xFFFF, 0xFFFF⟩)) := by
  show execTestComplete t.unit crc true s = _
  rw [execTestComplete, htests]
  simp only [ne_eq, not_true_eq_false, if_false, beq_eq_false_iff_ne.mpr hcrc, Bool.and_false, Bool.false_eq_true]
  rfl

end

/-! ### Loading test content (R449; log 64) -/

/-- A load shows its result, and content whose result is OK is in use. -/
def State.contentLoaded (s : State) (content : List Byte) (res : Nat) : State :=
  let v := s.setFld Reg.chkTcStat 7 0 res
  if res = 1 then
    ({ v with integ := { s.integ with content, loaded := content } } : State).setReg Reg.chkTcver
      (BitVec.ofNat 64 (tcver content))
  else v

theorem contentLoaded_freeCtr (s : State) (content : List Byte) (res : Nat) :
    (s.contentLoaded content res).freeCtr = s.freeCtr := by
  unfold State.contentLoaded
  extract_lets v
  split <;> rfl

/-- The event of a load. -/
def State.loadJournalled (s : State) (res : Nat) : State := sticky (journal s.bumpFree
  { plainEvent (Config.freeBelow s.freeCtr 65536) 10 with detail := res } []) Reg.chkErr 6 (some 190)

theorem loadResult_none : loadResult s none = 4 := rfl

theorem loadResult_unsigned {b g : List Byte} (h : sigOk s g b = false) : loadResult s (some (b, g)) = 2 :=
  if_pos (by simp [h])

theorem loadResult_stale {b g : List Byte} (h : u32At b 20 < u32At s.integ.content 20 ∨ tcver b ≤ (s.reg Reg.chkTcver).toNat) :
    loadResult s (some (b, g)) = 2 ∨ loadResult s (some (b, g)) = 3 := by
  by_cases hsig : sigOk s g b = true
  · exact .inr ((if_neg (by simp [hsig])).trans (if_pos h))
  · exact .inl (loadResult_unsigned (by simpa using hsig))

theorem tcLoad_eq {a : Word} {u : State} {blob : Option (List Byte × List Byte)}
    (hread : readBlob s (a &&& ~~~0xFFF) = (u, blob)) : tcLoad s a =
      (u.contentLoaded ((blob.map (·.1)).getD []) (loadResult u blob)).loadJournalled (loadResult u blob) := by
  rw [tcLoad, hread]
  cases blob with
  | none => rfl
  | some b => rfl

end

/-- Settles O52: checks, arbitrations, tests and loads, each by what it compares. -/
theorem checksAndTestsAreJudged : Obligations.ChecksAndTestsAreJudged := by
  refine ⟨fun s c crc hfind => ?_, fun s a x hfind hkind => ?_, fun s a x y hfind hkind => ?_,
    fun s unit k es => exec_idleTest, fun s t rest crc htests => ?_, fun s a => ?_⟩
  · intro u r done
    refine ⟨unitCrc_sound .., exec_checkComplete hfind, fun hinv hedge => ⟨_, ?_, exec_checkLapse hfind hedge⟩⟩
    exact sticky_signals_setBit (State.setFld_wf (s := u) hinv.canon.regs ..) (by decide) (by simp)
  · exact exec_arbitrationComplete_one hfind hkind rfl
  · exact exec_arbitrationComplete_two hfind hkind rfl rfl
  · intro u after
    refine ⟨exec_testComplete_passes htests, fun hinv hcrc => ⟨_, ?_, exec_testComplete_fails htests hcrc⟩⟩
    exact sticky_signals_setBit (s := s.tested t rest (t.left - 1)) hinv.canon.regs (by decide) (by simp)
  · intro blob u content res v w x
    refine ⟨?_, fun hnone => ?_, fun b g hsome => ?_⟩
    · refine (congrArg Host.Outcome.next (tcLoad_eq (u := u) (blob := blob.2) rfl)).trans ?_
      rw [State.loadJournalled, contentLoaded_freeCtr]
      rfl
    · show loadResult u blob.2 = 4
      rw [hnone]
      rfl
    · have hres : res = loadResult u (some (b, g)) := congrArg (loadResult u) hsome
      rw [hres]
      exact ⟨loadResult_unsigned, loadResult_stale⟩

end Sys2Proof.Machine
end

section
/-! PROOFS. Signalling adds no entry to the register file outside its own registers, in whatever form the file is, and so it
arms no buoy watch (R429, R498, R507). -/

namespace Sys2Proof.Machine

/-- A set key is the one new entry. -/
theorem mem_kvSet {β : Type} [DecidableEq β] {d : Nat → β} {m : List (Nat × β)} {a : Nat} {b : β} {e : Nat × β}
    (h : e ∈ kvSet d m a b) : e ∈ m ∨ e.1 = a := by
  induction m with
  | nil =>
    rw [kvSet] at h
    split at h
    · exact absurd h List.not_mem_nil
    · exact .inr (congrArg Prod.fst (List.mem_singleton.mp h))
  | cons x m ih =>
    obtain ⟨k, v⟩ := x
    rw [kvSet] at h
    split_ifs at h
    · exact .inl h
    · exact (List.mem_cons.mp h).symm.imp_right (congrArg Prod.fst)
    · exact .inl (List.mem_cons_of_mem _ h)
    · rcases List.mem_cons.mp h with h | h
      · exact .inr (congrArg Prod.fst h)
      · exact .inl (List.mem_cons_of_mem _ h)
    · rcases List.mem_cons.mp h with h | h
      · exact .inl (h ▸ List.mem_cons_self)
      · exact (ih h).imp_left (List.mem_cons_of_mem _)

/-- The entries of `t` are those of `s`, or of registers in `p`. -/
def State.EntriesBut (p : Nat → Bool) (s t : State) : Prop := ∀ e ∈ t.regs, e ∈ s.regs ∨ p e.1 = true

section
variable {p : Nat → Bool} {s₀ s t u : State}

theorem State.EntriesBut.refl (p : Nat → Bool) (s : State) : State.EntriesBut p s s := fun _ he => .inl he

theorem State.EntriesBut.trans (h : State.EntriesBut p s t) (k : State.EntriesBut p t u) : State.EntriesBut p s u :=
  fun e he => (k e he).elim (h e) .inr

theorem State.EntriesBut.setReg {off : Nat} {w : Word} (ho : p off = true) (h : State.EntriesBut p s t) :
    State.EntriesBut p s (t.setReg off w) :=
  h.trans fun e he => (mem_kvSet he).imp_right fun (heq : e.1 = off) => by rw [heq]; exact ho

theorem State.EntriesBut.setBit {off i : Nat} {b : Bool} (ho : p off = true) (h : State.EntriesBut p s t) :
    State.EntriesBut p s (t.setBit off i b) := h.setReg ho

theorem State.EntriesBut.foldl {α : Type} {f : State → α → State} {xs : List α}
    (hf : ∀ t, ∀ x ∈ xs, State.EntriesBut p s t → State.EntriesBut p s (f t x)) (h : State.EntriesBut p s t) :
    State.EntriesBut p s (xs.foldl f t) := by
  induction xs generalizing t with
  | nil => exact h
  | cons x xs ih => exact ih (fun t y hy => hf t y (List.mem_cons_of_mem _ hy)) (hf t x List.mem_cons_self h)

/-! ### What signalling writes (R429, R486 to R490, R498) -/

section
variable (h : State.EntriesBut sigReg s₀ s)
include h

theorem msixDue_entries (v : Nat) : State.EntriesBut sigReg s₀ (msixDue s v) := by
  unfold msixDue
  split
  · exact h
  · exact h.setBit (by decide)

theorem deliverAll_entries (srcs : List Nat) : State.EntriesBut sigReg s₀ (deliverAll s srcs) := by
  unfold deliverAll
  extract_lets on t
  exact State.EntriesBut.foldl (fun _ v _ ht => msixDue_entries ht v) h

theorem raiseCore_entries {n : Nat} (hn : n < 256) : State.EntriesBut sigReg s₀ (raiseCore s n) := by
  have hpend : sigReg (Reg.intPend (n / 64)) = true := by
    simp only [sigReg, Reg.intPend, Bool.or_eq_true, Bool.and_eq_true, decide_eq_true_eq]
    omega
  unfold raiseCore
  extract_lets k b t
  have ht : State.EntriesBut sigReg s₀ t := h.setBit hpend
  split
  · exact h
  · split
    · exact deliverAll_entries ht _
    · exact ht

theorem obsErrSticky_entries : State.EntriesBut sigReg s₀ (stickyCore s Reg.obsErr 3 (some 200)) := by
  unfold stickyCore
  split
  · exact h
  · exact raiseCore_entries (h.setBit (by decide)) (by decide)

theorem trPush_entries {n : Nat} (hn : n < 12) (r : ObsRec) (f : Bool) : State.EntriesBut sigReg s₀ (trPush s n r f) := by
  have hcount : sigReg (Reg.obsTrCount n) = true := by
    simp only [sigReg, Reg.obsTrCount, Bool.or_eq_true, Bool.and_eq_true, decide_eq_true_eq]
    omega
  unfold trPush
  extract_lets b full t
  have ht : State.EntriesBut sigReg s₀ t := by
    unfold t
    split
    · exact obsErrSticky_entries h
    · exact h
  clear_value t
  split
  · split_ifs <;> exact ht
  · split_ifs <;> exact ht
  · split
    · exact ht
    · exact ht.setReg hcount
    · extract_lets v
      split
      · exact State.EntriesBut.setBit (t := v) (by decide) ht
      · exact ht
  · split_ifs <;> exact ht

theorem freezeBuf_entries (c : Nat) {n : Nat} (hn : n < 12) : State.EntriesBut sigReg s₀ (freezeBuf c s n) := by
  unfold freezeBuf
  extract_lets ctl e t b kept v w
  have ht : State.EntriesBut sigReg s₀ t := h
  have hw : State.EntriesBut sigReg s₀ w := trPush_entries ht hn _ _
  clear_value t
  split
  · exact h
  · split
    · exact hw
    · split
      · split
        · exact State.EntriesBut.setBit (t := v) (by decide) ht
        · exact ht
      · exact hw.setBit (by decide)

theorem freezeNow_entries (c : Nat) : State.EntriesBut sigReg s₀ (freezeNow s c) := by
  have hsnap : ∀ i ∈ List.range 128, sigReg (Reg.obsSnap i) = true := fun i hi => by
    have := List.mem_range.mp hi
    simp [sigReg, Reg.obsSnap]
    omega
  unfold freezeNow
  extract_lets o s1 s2 s3 s4 s5 s6 o' s7
  have h1 : State.EntriesBut sigReg s₀ s1 := h
  have h2 : State.EntriesBut sigReg s₀ s2 := by
    unfold s2
    split
    · exact raiseCore_entries h1 (by decide)
    · exact h1
  clear_value s2
  have h3 : State.EntriesBut sigReg s₀ s3 :=
    State.EntriesBut.foldl (fun _ n hn ht => freezeBuf_entries ht c (List.mem_range.mp hn)) h2
  have h5 : State.EntriesBut sigReg s₀ s5 :=
    State.EntriesBut.foldl (fun _ i hi ht => ht.setReg (hsnap i hi)) (h3.setBit (by decide))
  clear_value s5
  have h6 : State.EntriesBut sigReg s₀ s6 := h5.setReg (by decide)
  clear_value s6
  have h7 : State.EntriesBut sigReg s₀ s7 := by
    unfold s7
    split
    · exact h6
    · exact h6
  split
  · exact h2
  · exact raiseCore_entries h7 (by decide)

theorem freezeRisen_entries (before : State) : State.EntriesBut sigReg s₀ (freezeRisen before s) := by
  unfold freezeRisen
  extract_lets src
  split
  · exact freezeNow_entries h _
  · exact h

end

/-- A sticky bit adds its own register, and those of its signals. -/
theorem sticky_entries {off bit : Nat} {src : Nat} (hsrc : src < 256) :
    State.EntriesBut (fun o => o == off || sigReg o) s (sticky s off bit (some src)) := by
  have hbit : State.EntriesBut (fun o => o == off || sigReg o) s (s.setBit off bit true) :=
    State.EntriesBut.setBit (by simp) (.refl _ _)
  have hlift : ∀ {a b : State}, State.EntriesBut sigReg a b → State.EntriesBut (fun o => o == off || sigReg o) a b :=
    fun hab e he => (hab e he).imp_right fun hsig => by simp [hsig]
  unfold sticky stickyCore
  split
  · exact hlift (freezeRisen_entries (.refl _ _) _)
  · exact hbit.trans (hlift (freezeRisen_entries (raiseCore_entries (.refl _ _) hsrc) _))

/-! ### Buoy watches (R507) -/

/-- The registers of the buoy watches. -/
def watchReg (o : Nat) : Bool := decide (0x22000 ≤ o) && decide (o < 0x22300)

theorem armedWatches_nil_iff : armedWatches s = [] ↔
    ∀ e ∈ s.regs, ¬ (0x22000 ≤ e.1 ∧ e.1 < 0x22300 ∧ e.1 % 16 = 0 ∧ bitOf e.2 0 = true) := by
  rw [armedWatches, List.filterMap_eq_nil_iff]
  refine forall₂_congr fun e _ => ?_
  split <;> simp_all

/-- Entries outside the watch registers arm no watch. -/
theorem State.EntriesBut.unarmed (h : State.EntriesBut p s t) (hp : ∀ o, p o = true → watchReg o = false)
    (hs : armedWatches s = []) : armedWatches t = [] := by
  rw [armedWatches_nil_iff] at hs ⊢
  intro e he
  rcases h e he with hmem | hpe
  · exact hs e hmem
  · rintro ⟨hlo, hhi, -⟩
    have := hp _ hpe
    simp [watchReg, hlo, hhi] at this

theorem sigReg_not_watch {o : Nat} (h : sigReg o = true) : watchReg o = false := by
  simp only [sigReg, Reg.hstMsixPba, Bool.or_eq_true, Bool.and_eq_true, decide_eq_true_eq, beq_iff_eq] at h
  simp only [watchReg, Bool.and_eq_false_iff, decide_eq_false_iff_not]
  omega

end

end Sys2Proof.Machine
end

section
/-! PROOFS. Requests of the host, HST_SIGNAL, the service ring and completions of the host window (R424 to R432; log 13,
log 135). -/

namespace Sys2Proof.Machine

section
variable {s : State}

/-! ### Requests through BAR0 and BAR2 (R423 to R427, R430) -/

theorem hostOpen_iff {bar : Bar} {off : Word} (hopen : configOpen s = true) :
    hostOpen s bar off = true ↔ off.toNat < barSize bar := by
  rw [hostOpen, hopen, Bool.true_and, decide_eq_true_iff]

section
variable {bar : Bar} {off : Word} (hopen : hostOpen s bar off = true)
include hopen

theorem exec_hostRead (hd3 : s.bit Reg.hstStat 9 = false) (len : Nat) : exec (.hostRead bar off len) s =
    .next (hostRequest s bar (hostPlace s bar off (some len)) (hostOp s 1 0 0 len 0 0) []) :=
  (if_neg (by simp [hopen])).trans (if_neg (by simp [hd3]))

theorem exec_hostAtomicop (hd3 : s.bit Reg.hstStat 9 = false) (o : HostAtomic) (x c : Word) :
    exec (.hostAtomicop bar off o x c) s = .next (hostRequest s bar (hostPlace s bar off none)
      (hostOp s 4 (hostAop o) 0 8 x (if o = .cas then c else 0)) []) :=
  (if_neg (by simp [hopen])).trans (if_neg (by simp [hd3]))

/-- A write that is not one of the MSI-X table's four bytes goes where it is addressed. -/
theorem exec_hostWrite (hd3 : s.bit Reg.hstStat 9 = false) {data : List Byte}
    (hplain : msixWrite s bar off.toNat data = none) : exec (.hostWrite bar off data) s = .next (hostRequest s bar
      (hostPlace s bar off (some data.length)) (hostOp s 2 0 0 data.length 0 0) data) := by
  refine (if_neg (by simp [hopen, hd3])).trans ?_
  rw [hplain, Option.getD_none]
  dsimp only
  rw [BitVec.ofNat_toNat, BitVec.setWidth_eq]

theorem exec_hostRead_d3hot (hd3 : s.bit Reg.hstStat 9 = true) (len : Nat) :
    exec (.hostRead bar off len) s = .next (unsupported s) :=
  (if_neg (by simp [hopen])).trans (if_pos hd3)

theorem exec_hostAtomicop_d3hot (hd3 : s.bit Reg.hstStat 9 = true) (o : HostAtomic) (x c : Word) :
    exec (.hostAtomicop bar off o x c) s = .next (unsupported s) :=
  (if_neg (by simp [hopen])).trans (if_pos hd3)

end

theorem exec_hostWrite_d3hot (hd3 : s.bit Reg.hstStat 9 = true) (bar : Bar) (off : Word) (data : List Byte) :
    exec (.hostWrite bar off data) s = .next s :=
  if_pos (.inr hd3)

theorem msixWrite_bar2 (s : State) (off : Nat) (data : List Byte) : msixWrite s .bar2 off data = none :=
  if_neg fun h => Bar.noConfusion h.1

theorem msixWrite_long (s : State) (bar : Bar) (off : Nat) {data : List Byte} (h : data.length ≠ 4) :
    msixWrite s bar off data = none :=
  if_neg fun hm => h hm.2.1

theorem hostPlace_bar2 {off : Word} (h : nodeOf (s.reg Reg.hstBar2Base + off) = nodeOf (s.reg Reg.hstBar2Base))
    (len : Option Nat) : hostPlace s .bar2 off len = .place (s.reg Reg.hstBar2Base + off) :=
  if_neg (not_not.mpr h)

theorem hostPlace_registers {off : Word} (h : off.toNat < 0x2000000) (len : Option Nat) :
    hostPlace s .bar0 off len = .place (s.global (regBase + off.toNat)) :=
  if_pos h

/-! ### HST_SIGNAL (R428; log 13) -/

/-- The ATOMIC of a write of HST_SIGNAL. -/
def State.signalOp (s : State) (v : Word) : Op := ⟨.host, s.fld Reg.hstCtl 1 0, 4, 0, v &&& ~~~7, 0, 8, 1, 0, 0, 0⟩

/-- The increment is behind no FENCE, no record and no write that waits for the host: it is issued at once. -/
theorem hstSignal_unfenced (h : s.unfenced .host) (v : Word) : hstSignal s v =
    startSignal { s with nextTag := s.nextTag + 1 } ⟨s.nextTag, s.signalOp v, .signal, .queued, []⟩ := by
  have hfree : mustQueue { s with nextTag := s.nextTag + 1 } ⟨s.nextTag, s.signalOp v, .signal, .queued, []⟩ = false := by
    rw [mustQueue, Bool.or_eq_false_iff]
    refine ⟨List.any_eq_false.mpr fun q hq => ?_, by simp⟩
    simp only [Bool.and_eq_true, beq_iff_eq, decide_eq_true_eq, Bool.or_eq_true, not_and]
    rintro ⟨hsource, -⟩ hholds
    obtain ⟨hfence, hqueued, hfetch, hwait⟩ := h q hq hsource
    rcases hholds with ((hholds | hholds) | hholds) | ⟨hholds, -⟩
    · exact hfence hholds
    · exact hqueued hholds
    · exact Bool.false_ne_true (hfetch.symm.trans hholds)
    · exact hwait hholds
  exact if_neg (ne_true_of_eq_false hfree)

/-- Without a DONE buoy the increment's status is its own, and its failure is the host's to see. -/
theorem complete_signal {op : Op} (hdone : op.done = 0) (st : Nat) : complete s .signal op st 0 [] =
    settle ((if st = stOK then s else hostFailed s 2 4 st op.dst).completed op.source op.code st 0) := by
  have hfaults : pickCode s (doneFaults (doneCheck s op.done) st) = (s, st) := by
    have hcheck : doneCheck s op.done = stOK := if_pos (.inl hdone)
    rw [hcheck]
    by_cases h : st = stOK <;> simp [doneFaults, causes, pickCode, Config.freeBelow, h, stOK]
  have hlocal : ¬ (op.done ≠ 0 ∧ nodeOf op.done ≠ s.node) := fun h => h.1 hdone
  rw [complete, completeCore, completeWith, if_neg hlocal, finalStatus, hfaults, bumpDone, if_pos hdone]
  · rfl
  · exact nofun

theorem State.Quiet.of_rest {t : State} (h : s.Quiet) (hops : t.ops = s.ops) (hstr : t.str = s.str)
    (harmed : armedWatches t = []) : t.Quiet :=
  ⟨fun p hp => h.ops p (hops ▸ hp), fun r hr => h.strands r (hstr ▸ hr), harmed⟩

/-- A sticky bit leaves operations and strands, in whatever form the register file is. -/
theorem sticky_rest {off bit src : Nat} (hsrc : src < 256) :
    (sticky s off bit (some src)).ops = s.ops ∧ (sticky s off bit (some src)).str = s.str := by
  by_cases hb : s.bit off bit = true
  · rw [sticky_of_set _ hb]
    exact ⟨rfl, rfl⟩
  · have hsig : State.Signals (s.setBit off bit true) (sticky s off bit (some src)) :=
      sticky_signals (by simpa using hsrc) (by simpa using hb)
    exact ⟨hsig.ops, hsig.str⟩

/-- What the host reads of a failed increment waits on no memory. -/
theorem hostFailed_quiet (h : s.Quiet) (st : Nat) (a : Word) : (hostFailed s 2 4 st a).Quiet := by
  let p : Nat → Bool := fun o => o == Reg.hstErr || sigReg o
  let q : Nat → Bool := fun o => o == Reg.hstLasterr || o == Reg.hstLastaddr || p o
  obtain ⟨hops, hstr⟩ := sticky_rest (s := s) (off := Reg.hstErr) (bit := 2) (src := 112) (by decide)
  have hsticky : State.EntriesBut q s (sticky s Reg.hstErr 2 (some 112)) :=
    fun e he => (sticky_entries (off := Reg.hstErr) (bit := 2) (src := 112) (by decide) e he).imp_right
      fun hp => Bool.or_eq_true_iff.mpr (.inr hp)
  refine State.Quiet.of_rest h hops hstr (State.EntriesBut.unarmed (.setReg (by decide) (.setReg (by decide) hsticky))
    (fun o ho => ?_) h.sources)
  simp only [q, p, Bool.or_eq_true, beq_iff_eq] at ho
  rcases ho with (rfl | rfl) | rfl | ho
  · decide
  · decide
  · decide
  · exact sigReg_not_watch ho

theorem State.Quiet.completed (h : s.Quiet) (src : Source) (code st : Nat) (res : Word) : (s.completed src code st res).Quiet :=
  ⟨h.ops, h.strands, h.sources⟩

section
variable {v : Word} (hfree : s.unfenced .host)
include hfree

theorem exec_hstSignal_here (hnode : nodeOf (v &&& ~~~7) = s.node) {b : State × Nat}
    (hb : bump { s with nextTag := s.nextTag + 1 } (v &&& ~~~7) true (s.fld Reg.hstCtl 1 0) = b) (hquiet : b.1.Quiet) :
    exec (.hstSignal v) s = .next ((if b.2 = stOK then b.1 else hostFailed b.1 2 4 b.2 (v &&& ~~~7)).completed
      .host 4 b.2 0) := by
  refine congrArg Host.Outcome.next ((hstSignal_unfenced hfree v).trans ((if_pos hnode).trans ?_))
  show complete (bump { s with nextTag := s.nextTag + 1 } (v &&& ~~~7) true (s.fld Reg.hstCtl 1 0)).1 .signal (s.signalOp v)
    (bump { s with nextTag := s.nextTag + 1 } (v &&& ~~~7) true (s.fld Reg.hstCtl 1 0)).2 0 [] = _
  rw [hb, complete_signal rfl]
  refine settle_quiet _ (State.Quiet.completed ?_ ..)
  split
  · exact hquiet
  · exact hostFailed_quiet hquiet ..

theorem exec_hstSignal_away (hnode : nodeOf (v &&& ~~~7) ≠ s.node) : exec (.hstSignal v) s =
    .next (sendOp { s with nextTag := s.nextTag + 1 } ⟨s.nextTag, s.signalOp v, .signal, .queued, []⟩ []) :=
  congrArg Host.Outcome.next ((hstSignal_unfenced hfree v).trans (if_neg hnode))

end

/-! ### The service ring and completions of the host (R49, R432; log 135) -/

theorem exec_serviceRecord {k : Fin 4} (hphase : s.fld Reg.gctlBoot 3 0 = 7) (hp : pState s < 2) (hk : slotKeeper s = some k)
    (hnode : nodeOf (s.reg Reg.hstSvcBuoy) = s.node) (hbuoy : buoyCheck s (localOf (s.reg Reg.hstSvcBuoy)) = stOK)
    (hwaits : s.ep.svc < bitsOf (s.word (localOf (s.reg Reg.hstSvcBuoy))) 47 0) :
    exec .serviceRecord s = .next (issueRecord
      { s with freeCtr := s.freeCtr + 1, ep := { s.ep with svc := s.ep.svc + 1 } } (.keeper k) none
      (s.reg Reg.hstSvcRing + BitVec.ofNat 64 (s.ep.svc % 256 * 64)) .service) := by
  have hslot : slotWaiting s = true := (if_pos hnode).trans (by simp [hbuoy, hwaits])
  have hlooked : lookedSlot s = s := if_pos hnode
  show execServiceRecord s = _
  rw [execServiceRecord, if_neg (by simp [hphase]; omega), if_neg (by simp [hslot]), hlooked]
  dsimp only
  rw [hk]
  rfl

/-- An AtomicOp that the host has answered gives the word it returns. -/
theorem exec_hostCompletion_atomic {tag : Nat} {data : List Byte} {p : PendingOp}
    (hfind : s.ops.find? (fun p => p.tag == tag && p.phase == .hostWait) = some p) (hcode : p.op.code = 4) :
    exec (.hostCompletion tag true data) s =
      .next (release (complete (s.dropOp tag) p.origin p.op stOK (wordAt (sliceB data 0 8) 0) [])) := by
  show execHostCompletion tag true data s = _
  rw [execHostCompletion, hfind]
  simp only [Bool.not_true, Bool.false_eq_true, if_false, hcode]

end

/-- Settles O51: the host's requests by their BAR, its signals by their node, then service records and completions. -/
theorem hostCommands : Obligations.HostCommands := by
  refine ⟨fun s off len data o x c hopen => ?_, fun s v tag p data => ?_⟩
  · intro cls a reg cmp
    refine ⟨fun hd3 hoff hnode => ?_, fun hd3 hoff => ?_, fun hd3 hoff => ?_⟩
    · have hbar : hostOpen s .bar2 off = true := (hostOpen_iff hopen).mpr hoff
      refine ⟨?_, ?_, ?_⟩
      · rw [exec_hostRead hbar hd3, hostPlace_bar2 hnode]
        rfl
      · rw [exec_hostWrite hbar hd3 (msixWrite_bar2 ..), hostPlace_bar2 hnode]
        rfl
      · rw [exec_hostAtomicop hbar hd3, hostPlace_bar2 hnode]
        rfl
    · have hbar : hostOpen s .bar0 off = true := (hostOpen_iff hopen).mpr (Nat.lt_trans hoff (by decide))
      refine ⟨?_, fun hlen => ?_⟩
      · rw [exec_hostRead hbar hd3, hostPlace_registers hoff]
        rfl
      · rw [exec_hostWrite hbar hd3 (msixWrite_long _ _ _ hlen), hostPlace_registers hoff]
        rfl
    · have hbar : hostOpen s .bar0 off = true := (hostOpen_iff hopen).mpr hoff
      exact ⟨exec_hostRead_d3hot hbar hd3 len, exec_hostWrite_d3hot hd3 .bar0 off data, exec_hostAtomicop_d3hot hbar hd3 o x c⟩
  · intro a cls w b
    refine ⟨fun hfree hnode hquiet => ⟨fun hok => ?_, fun hfail => ⟨_, ?_, rfl⟩⟩, exec_hstSignal_away, fun k hphase hp hk =>
      exec_serviceRecord hphase hp hk, exec_hostCompletion_atomic⟩
    · rw [exec_hstSignal_here hfree hnode rfl hquiet, if_pos hok, hok]
    · rw [exec_hstSignal_here hfree hnode rfl hquiet, if_neg hfail]
      rfl

end Sys2Proof.Machine
end

section
/-! PROOFS. Start-up phase by phase, and the image that CONFIG_APPLY checks and applies (R400 to R407, R420, R421, R467;
log 59, log 127, log 139). -/

namespace Sys2Proof.Machine

section
variable {s : State}

/-! ### Phases (R400, R420) -/

/-- A phase below RUNNING, or the one that stands, is entered without an event; RUNNING, FAILED and RECOVERY raise one. -/
theorem setPhase_signals (s : State) (p : Nat) : State.Signals (s.setFld Reg.gctlBoot 3 0 p) (setPhase s p) := by
  unfold setPhase
  extract_lets old v
  split
  · exact raise_signals (by decide) (.refl _)
  · exact .refl _

/-- The phase is entered and the error code is shown. -/
theorem setPhase_shown (hs : kvWf regReset s.regs = true) {code p : Nat} (hcode : code < 256) (hp : p < 16) :
    (setPhase (s.setFld Reg.gctlBoot 23 16 code) p).fld Reg.gctlBoot 3 0 = p ∧
      (setPhase (s.setFld Reg.gctlBoot 23 16 code) p).fld Reg.gctlBoot 23 16 = code := by
  have hc : kvWf regReset (s.setFld Reg.gctlBoot 23 16 code).regs = true := State.setFld_wf hs ..
  have hreg : (setPhase (s.setFld Reg.gctlBoot 23 16 code) p).reg Reg.gctlBoot =
      ((s.setFld Reg.gctlBoot 23 16 code).setFld Reg.gctlBoot 3 0 p).reg Reg.gctlBoot :=
    ((setPhase_signals _ p).regs (State.setFld_wf hc ..)).2 _ (by decide)
  have hpmod : p % 2 ^ 4 = p := Nat.mod_eq_of_lt hp
  have hcmod : code % 2 ^ 8 = code := Nat.mod_eq_of_lt hcode
  refine ⟨(congrArg (bitsOf · 3 0) hreg).trans ?_, (congrArg (bitsOf · 23 16) hreg).trans ?_⟩
  · exact (State.fld_setFld hc _ _ _ _ (by decide) (by decide)).trans hpmod
  · exact (fld_setFld_ne hc (by decide) (by decide) (by omega)).trans
      ((State.fld_setFld hs _ _ _ _ (by decide) (by decide)).trans hcmod)

theorem exec_pllLock (hoff : s.power.off = false) (hphase : bootPhase s = 0) (hstopped : s.tim.running = false) :
    exec (.pllLock true) s = .next ({ s with tim := { s.tim with running := true }, power := { s.power with vrAck := true } }.setFld
      Reg.gctlBoot 3 0 1) :=
  if_neg (by simp [hoff, hphase, hstopped])

/-! ### The choice of an image (R403, R421, R467) -/

section
variable (hphase : bootPhase s = 1 ∨ bootPhase s = 2) (himage : s.boot.image = none)
include hphase himage

theorem exec_bootImageCheck_absent (hpresent : s.boot.present = false) : exec .bootImageCheck s =
    .next (setPhase ((s.setFld Reg.gctlBoot 3 0 2).setFld Reg.gctlBoot 23 16 1) 9) :=
  (if_neg (by simp [hphase, himage])).trans (if_pos (by simp [hpresent]))

/-- The first candidate is taken when it is trusted, and fails with code 3 otherwise. -/
theorem exec_bootImageCheck_candidate {img : Nat} {rest : List Nat}
    (hpresent : (s.setFld Reg.gctlBoot 3 0 2).boot.present = true)
    (hslots : (slotOrder (s.setFld Reg.gctlBoot 3 0 2)).filter
      (fun i => (s.setFld Reg.gctlBoot 3 0 2).boot.failed != some i) = img :: rest) :
    exec .bootImageCheck s = .next (if imageTrusted (s.setFld Reg.gctlBoot 3 0 2) img = true then
        acceptImage (s.setFld Reg.gctlBoot 3 0 2) img
      else bootFail { s.setFld Reg.gctlBoot 3 0 2 with
        boot := { (s.setFld Reg.gctlBoot 3 0 2).boot with image := some img } } 3) := by
  refine (if_neg (by simp [hphase, himage])).trans ((if_neg (by rw [hpresent]; exact Bool.false_ne_true)).trans ?_)
  rw [hslots]
  exact (apply_ite Host.Outcome.next _ _ _).symm

end

theorem exec_firmwareLoaded {img : Nat} {e : Sect} (himage : s.boot.image = some img) (hphase : bootPhase s = 2)
    (hfind : (sectsOf s img).find? (·.type == 1) = some e) (hlen : e.len ≤ 0x800000) (hend : e.off + e.len ≤ imageMax img) :
    exec .firmwareLoaded s = .next (
      if sha384 (sectBytes s img e) = e.digest then keeperStart (s.setFld Reg.gctlBoot 3 0 4) else bootFail s 4) := by
  show execFirmwareLoaded s = _
  rw [execFirmwareLoaded, himage]
  dsimp only
  rw [if_neg (not_not.mpr hphase), hfind]
  dsimp only
  rw [if_neg (by omega)]
  exact (ite_not ..).trans (apply_ite Host.Outcome.next _ _ _).symm

theorem keepsMemory_iff : keepsMemory s = true ↔ bootKind s ≠ 0 ∧ s.sec.keep = true := by simp [keepsMemory]

theorem exec_dramTrained (hphase : bootPhase s = 4) : exec .dramTrained s =
    .next (((if bootKind s ≠ 0 ∧ s.sec.keep = true then keepObjects s else dropMemory s).fillRange
      0x010007F0000000 0x10000000 false).setFld Reg.gctlBoot 3 0 5) := by
  simp only [← keepsMemory_iff]
  exact if_neg (not_not.mpr hphase)

theorem exec_dramTrainTimeout (hphase : bootPhase s = 4) :
    exec .dramTrainTimeout s = .next (setPhase (s.setFld Reg.gctlBoot 23 16 6) 8) :=
  if_neg (not_not.mpr hphase)

theorem recoverGo_candidate (hphase : bootPhase s = 9) (h : isCandidate s 2 = true) :
    recoverGo s = if imageTrusted s 2 = true then acceptImage s 2 else s.setFld Reg.gctlBoot 23 16 3 :=
  (if_neg (not_not.mpr hphase)).trans (if_neg (by simp [h]))

theorem recoverGo_no_candidate (hphase : bootPhase s = 9) (h : isCandidate s 2 = false) :
    recoverGo s = s.setFld Reg.gctlBoot 23 16 2 :=
  (if_neg (not_not.mpr hphase)).trans (if_pos (by simp [h]))

/-! ### The image that is applied (R405 to R407, R471) -/

/-- The sections of an image, by type and contents. -/
def State.imageSects (s : State) (img : Nat) : List (Nat × List Byte) :=
  (sectsOf s img).map (fun e => (e.type, sectBytes s img e))

/-- Every section has the digest of its table entry. -/
theorem digests_iff (s : State) (img : Nat) :
    ((sectsOf s img).zip (s.imageSects img)).all (fun e => sha384 e.2.2 == e.1.digest) = true ↔
      ∀ e ∈ sectsOf s img, sha384 (sectBytes s img e) = e.digest := by
  have hzip : (sectsOf s img).zip (s.imageSects img) = (sectsOf s img).map (fun e => (e, e.type, sectBytes s img e)) := by
    simpa [State.imageSects] using List.zip_map' (f := id) (g := fun e => (e.type, sectBytes s img e)) (l := sectsOf s img)
  rw [hzip, List.all_map, List.all_eq_true]
  exact forall₂_congr fun e _ => beq_iff_eq

/-- The image is being applied: the keepers' sources are locked, a first start in RETIRED erases, and indexes that are kept
stand closed. -/
def State.applying (s : State) : State :=
  let u := retireErase (lockKeeperSources (s.setFld Reg.gctlBoot 3 0 6))
  if keepsMemory u = true then keptIndexes u else u

/-- The XSPI_WRITE sections of a recovery image. -/
def State.xspiWritten (s : State) (img : Nat) (secs : List (Nat × List Byte)) : State :=
  if img = 2 then (secs.filter (fun e => e.1 == 9)).foldl (fun s e => writeXspi s e.2) s else s

/-- CONFIG_APPLY once the image has been applied as `r` says. -/
def State.applyEnd (s : State) (img : Nat) (r : State × Bool) : Host.Outcome State Fault Refusal :=
  if !r.2 then .next (bootFail r.1 7)
  else .next (enterRunning (reopenIndexes (r.1.xspiWritten img (s.imageSects img))))

section
variable {img : Nat} (himage : s.boot.image = some img) (hphase : bootPhase s = 5)
include himage hphase

theorem exec_configApply_bad_table (htable : tableOkFor s img = false) : exec .configApply s = .next (bootFail s 5) := by
  show execConfigApply s = _
  rw [execConfigApply, himage]
  exact (if_neg (not_not.mpr hphase)).trans (if_pos (by simp [htable]))

variable (htable : tableOkFor s img = true)
include htable

theorem exec_configApply_bad_digest (hwhole : ¬ ∀ e ∈ sectsOf s img, sha384 (sectBytes s img e) = e.digest) :
    exec .configApply s = .next (bootFail s 4) := by
  rw [← digests_iff, Bool.not_eq_true] at hwhole
  show execConfigApply s = _
  rw [execConfigApply, himage]
  refine (if_neg (not_not.mpr hphase)).trans ((if_neg (by simp [htable])).trans (if_pos ?_))
  exact (congrArg not hwhole).trans rfl

variable (hwhole : ∀ e ∈ sectsOf s img, sha384 (sectBytes s img e) = e.digest)
include hwhole

theorem exec_configApply_bad_form (hform : ¬ ∀ e ∈ s.imageSects img, sectOk s e.1 e.2 = true) :
    exec .configApply s = .next (bootFail s 5) := by
  rw [← digests_iff] at hwhole
  rw [← List.all_eq_true, Bool.not_eq_true] at hform
  show execConfigApply s = _
  rw [execConfigApply, himage]
  refine (if_neg (not_not.mpr hphase)).trans ((if_neg (by simp [htable])).trans ((if_neg ?_).trans (if_pos ?_)))
  · exact ne_true_of_eq_false ((congrArg not hwhole).trans rfl)
  · exact (congrArg not hform).trans rfl

/-- A checked image is applied section by section; the start ends RUNNING, or fails with code 7 where a section cannot be
applied. -/
theorem exec_configApply_checked (hform : ∀ e ∈ s.imageSects img, sectOk s e.1 e.2 = true) {r : State × Bool}
    (hr : applyImage s.applying img (s.imageSects img) = r) : exec .configApply s = .next (if r.2 = false then bootFail r.1 7
      else setPhase (resetEntries (reopenIndexes (r.1.xspiWritten img (s.imageSects img)))) 7) := by
  rw [← digests_iff] at hwhole
  rw [← List.all_eq_true] at hform
  show execConfigApply s = _
  rw [execConfigApply, himage]
  refine (if_neg (not_not.mpr hphase)).trans ((if_neg (by simp [htable])).trans ((if_neg ?_).trans ((if_neg ?_).trans ?_)))
  · exact ne_true_of_eq_false ((congrArg not hwhole).trans rfl)
  · exact ne_true_of_eq_false ((congrArg not hform).trans rfl)
  · show s.applyEnd img (applyImage s.applying img (s.imageSects img)) = _
    rw [hr, State.applyEnd]
    simp only [Bool.not_eq_true']
    exact (apply_ite Host.Outcome.next _ _ _).symm

end

end

/-- Settles O49: start-up phase by phase, and CONFIG_APPLY check by check. -/
theorem startUpAndConfiguration : Obligations.StartUpAndConfiguration := by
  refine ⟨fun s img => ⟨exec_pllLock, ?_, fun e => exec_firmwareLoaded, exec_dramTrained, fun hinv hphase => ?_,
    fun hphase hcand => congrArg Host.Outcome.next (recoverGo_candidate hphase hcand),
    fun hphase hcand => congrArg Host.Outcome.next (recoverGo_no_candidate hphase hcand)⟩, fun s img himage hphase => ?_⟩
  · intro u hphase himage
    refine ⟨fun rest => exec_bootImageCheck_candidate hphase himage, fun hinv hpresent =>
      ⟨_, exec_bootImageCheck_absent hphase himage hpresent, ?_⟩⟩
    exact setPhase_shown (State.setFld_wf hinv.canon.regs ..) (by decide) (by decide)
  · exact ⟨_, exec_dramTrainTimeout hphase, setPhase_signals ..⟩
  · intro secs whole formed u r v
    by_cases htable : tableOkFor s img = false
    · rw [if_pos htable, exec_configApply_bad_table himage hphase htable]
    rw [if_neg htable]
    have htable' : tableOkFor s img = true := by simpa using htable
    by_cases hwhole : whole
    swap
    · rw [if_pos hwhole, exec_configApply_bad_digest himage hphase htable' hwhole]
    rw [if_neg (not_not.mpr hwhole)]
    by_cases hform : formed
    swap
    · rw [if_pos hform, exec_configApply_bad_form himage hphase htable' hwhole hform]
    rw [if_neg (not_not.mpr hform)]
    exact exec_configApply_checked himage hphase htable' hwhole hform rfl

end Sys2Proof.Machine
end
